-- ==== Sys2Proof/Word.lean ====
section
/-! DEFINITION. Sys2Proof/Word.lean: the machine's words and their plainest arithmetic (02 R42, 00 R4). -/

namespace Sys2Proof

/-- A 64-bit scalar register or address (01 R17, R20). -/
abbrev Word := BitVec 64
/-- A 16-bit instruction word (03 R45). -/
abbrev Half := BitVec 16
/-- A byte of memory. -/
abbrev Byte := BitVec 8

/-- `1` or `0` in a field of width `w`. -/
def bit (w : Nat) (b : Bool) : BitVec w := if b then 1#w else 0#w

/-- The signed integer that a word stands for (02 R42: arithmetic on unbounded integers). -/
abbrev toS {w : Nat} (x : BitVec w) : Int := x.toInt

/-- Ceiling division of naturals (00 R5). -/
def ceilDiv (a b : Nat) : Nat := (a + b - 1) / b

end Sys2Proof
end

