-- ==== Sys2Proof/Syntax.lean ====
section
/-! DEFINITION. Sys2Proof/Syntax.lean: the prefix state of an instruction (03 R46 to R50) and the ONE inductive of
instructions and machine steps, one constructor for each row of spec/opcode_table.json. Rows without words are the
machine's own steps (95_what_each_step_holds.md). A step inside the module takes no argument: it acts at the cell, slot
and index that State's `sel` names, as an instruction acts on the context that `sel` names. Constructors without
arguments stand last. -/

namespace Sys2Proof

/-- PFX.R (03 R46): the fifth register field and the high bits of d and a. -/
structure PfxR where
  e  : BitVec 5
  d4 : Bool
  a4 : Bool
  deriving DecidableEq, Repr

/-- PFX.X order (03 R47). -/
structure PfxOrder where
  scope : BitVec 3
  order : BitVec 2
  deriving DecidableEq, Repr

/-- PFX.X arith (03 R47). -/
structure PfxArith where
  sat : Bool
  rnd : BitVec 3
  deriving DecidableEq, Repr

/-- PFX.X guard (03 R47). -/
structure PfxGuard where
  neg   : Bool
  depth : BitVec 3
  deriving DecidableEq, Repr

/-- The prefix state that 03 R49 gathers: PFX.I payloads in their order, and each other prefix at most once. Ignored
prefix bits (R8) are not kept. -/
structure Pfx where
  imms  : List (BitVec 10)
  r     : Option PfxR
  p     : Option (BitVec 4 × BitVec 6)
  order : Option PfxOrder
  stage : Option (BitVec 4)
  arith : Option PfxArith
  guard : Option PfxGuard
  deriving DecidableEq, Repr

/-- A word sequence that is no instruction (03 R48, R58). -/
inductive Illegal where
  /-- A legal chain on a base word that is no instruction: cause 0x01. -/
  | word (p : Pfx) (w : Half)
  /-- An illegal prefix chain: the position 1 to 5 of the offending word, and that word: cause 0x02. -/
  | chain (pos : BitVec 3) (w : Half)
  deriving DecidableEq, Repr

/-- What a stage step from another module does with its data (10 R257). -/
inductive RemoteData where
  | none
  | load (pa : BitVec 46) (n : Nat)
  | store (pa : BitVec 46) (bytes : List Byte)
  deriving DecidableEq, Repr

/-- A request of another module (15 R367, 10 R257): it reaches local HBM at an offset, or, a message or a join increment, a
tile. -/
inductive RemoteReq where
  | load (pa : BitVec 46) (n : Nat)
  | store (pa : BitVec 46) (bytes : List Byte)
  /-- An atomic function `f` of 10 R253, 64-bit or 32-bit, with its operand and comparison value. -/
  | atomic (f : BitVec 4) (wide : Bool) (pa : BitVec 46) (x y : Word)
  /-- A stage step: the stage word, the granule's place in it, the eight entries of its transition, its data part. -/
  | stage (word : BitVec 46) (place : BitVec 4) (col : List Byte) (data : RemoteData)
  /-- A message of 12 R290: target, words, space tag, the sender's cell and sequence number. -/
  | message (tile : BitVec 12) (off : BitVec 20) (ctr : BitVec 10) (words : List Word) (tag cell : BitVec 16) (seq : BitVec 32)
  /-- A join increment of 12 R297. -/
  | join (ref frame : Word) (kind : BitVec 8) (iref mref : BitVec 32) (tag : BitVec 16)
  deriving DecidableEq, Repr

/-- What the host does to memory (15 R362, R363, R370): HBM through CXL.mem or PCIe, or BAR2, whose GO register is a step of its
own. -/
inductive HostAcc where
  | read (pa : BitVec 40) (n : Nat)
  | write (pa : BitVec 40) (bytes : List Byte)
  | stage (off : BitVec 24) (bytes : List Byte)
  | staged (off : BitVec 24) (n : Nat)
  deriving DecidableEq, Repr

/-- A collective request that reaches a member's engine (13 R328). -/
inductive CollReq where
  /-- The command in a tag of a cell of this module. -/
  | here (cell : BitVec 16) (tag : BitVec 3)
  /-- A request of another module: the fabric tag of its space, group, SEQ, N, the sender and its rank, the kind of collective
  (0 XRED DET, 1 XRED ARR, 2 XBCAST, 3 XGATH), OP, element type, SAT, root, the error of its source (0x1 or 0x2), 0x5 when it
  has issued a second command or one of two types, 0x6 when its issuer was killed, and its source elements. -/
  | there (tag : BitVec 16) (group : BitVec 8) (seq : BitVec 16) (n : Nat) (sender : BitVec 10) (rank : Nat)
      (kind op : BitVec 2) (ty : BitVec 4) (sat : Bool) (root : Nat) (err : BitVec 4) (vals : List Nat)
  /-- The order of arrival that rank 0's engine has fixed for an ARR instance. -/
  | order (tag : BitVec 16) (group : BitVec 8) (seq : BitVec 16) (ranks : List Nat)
  deriving DecidableEq, Repr

/-- One constructor per row of spec/opcode_table.json. A field `p` is the prefix state; the nibbles of the base word
that a row leaves open are kept, ignored ones too, because tinfo reports the base word (03 R60). -/
inductive Instr where
  /-- NOP (R93). -/
  | nop (p : Pfx) (d a : BitVec 4)
  /-- FENCE (R94). -/
  | fence (p : Pfx) (d a : BitVec 4)
  /-- YIELD (R93). -/
  | yield (p : Pfx) (d a : BitVec 4)
  /-- EXIT (R95). -/
  | exit (p : Pfx) (d a : BitVec 4)
  /-- TRAP (R96). -/
  | trap (p : Pfx) (d a : BitVec 4)
  /-- BRK (R96). -/
  | brk (p : Pfx) (n : BitVec 8)
  /-- MFS (R97). -/
  | mfs (p : Pfx) (d a : BitVec 4)
  /-- MTS (R97). -/
  | mts (p : Pfx) (d a : BitVec 4)
  /-- RDCYC (R98). -/
  | rdcyc (p : Pfx) (d a : BitVec 4)
  /-- ADD (R99). -/
  | add (p : Pfx) (d a : BitVec 4)
  /-- SUB (R99). -/
  | sub (p : Pfx) (d a : BitVec 4)
  /-- AND (R99). -/
  | and (p : Pfx) (d a : BitVec 4)
  /-- OR (R99). -/
  | or (p : Pfx) (d a : BitVec 4)
  /-- XOR (R99). -/
  | xor (p : Pfx) (d a : BitVec 4)
  /-- SLL (R99). -/
  | sll (p : Pfx) (d a : BitVec 4)
  /-- SRL (R99). -/
  | srl (p : Pfx) (d a : BitVec 4)
  /-- SRA (R99). -/
  | sra (p : Pfx) (d a : BitVec 4)
  /-- MUL (R99). -/
  | mul (p : Pfx) (d a : BitVec 4)
  /-- MULH (R99). -/
  | mulh (p : Pfx) (d a : BitVec 4)
  /-- MULHU (R99). -/
  | mulhu (p : Pfx) (d a : BitVec 4)
  /-- MIN (R99). -/
  | min (p : Pfx) (d a : BitVec 4)
  /-- MAX (R99). -/
  | max (p : Pfx) (d a : BitVec 4)
  /-- MINU (R99). -/
  | minu (p : Pfx) (d a : BitVec 4)
  /-- MAXU (R99). -/
  | maxu (p : Pfx) (d a : BitVec 4)
  /-- MOV (R99). -/
  | mov (p : Pfx) (d a : BitVec 4)
  /-- DIV (R87). -/
  | div (p : Pfx) (d a : BitVec 4)
  /-- DIVU (R87). -/
  | divu (p : Pfx) (d a : BitVec 4)
  /-- REM (R87). -/
  | rem (p : Pfx) (d a : BitVec 4)
  /-- REMU (R87). -/
  | remu (p : Pfx) (d a : BitVec 4)
  /-- CLZ (R99). -/
  | clz (p : Pfx) (d a : BitVec 4)
  /-- CTZ (R99). -/
  | ctz (p : Pfx) (d a : BitVec 4)
  /-- POPC (R99). -/
  | popc (p : Pfx) (d a : BitVec 4)
  /-- SEXTB (R99). -/
  | sextb (p : Pfx) (d a : BitVec 4)
  /-- SEXTH (R99). -/
  | sexth (p : Pfx) (d a : BitVec 4)
  /-- SEXTW (R99). -/
  | sextw (p : Pfx) (d a : BitVec 4)
  /-- ZEXTB (R99). -/
  | zextb (p : Pfx) (d a : BitVec 4)
  /-- ZEXTH (R99). -/
  | zexth (p : Pfx) (d a : BitVec 4)
  /-- ZEXTW (R99). -/
  | zextw (p : Pfx) (d a : BitVec 4)
  /-- BSWAP (R99). -/
  | bswap (p : Pfx) (d a : BitVec 4)
  /-- ADDW (R99). -/
  | addw (p : Pfx) (d a : BitVec 4)
  /-- SUBW (R99). -/
  | subw (p : Pfx) (d a : BitVec 4)
  /-- ADDI (R100). -/
  | addi (p : Pfx) (d : BitVec 4) (i : BitVec 8)
  /-- LI (R100). -/
  | li (p : Pfx) (d : BitVec 4) (i : BitVec 8)
  /-- CMP (R101). -/
  | cmp (p : Pfx) (d a : BitVec 4) (c : BitVec 3)
  /-- CMPI (R101). -/
  | cmpi (p : Pfx) (a : BitVec 4) (c : BitVec 3) (i : BitVec 4)
  /-- LD (R103). -/
  | ld (p : Pfx) (d a i : BitVec 4)
  /-- ST (R103). -/
  | st (p : Pfx) (d a i : BitVec 4)
  /-- LB (R104). -/
  | lb (p : Pfx) (d a : BitVec 4)
  /-- LBU (R104). -/
  | lbu (p : Pfx) (d a : BitVec 4)
  /-- LH (R104). -/
  | lh (p : Pfx) (d a : BitVec 4)
  /-- LHU (R104). -/
  | lhu (p : Pfx) (d a : BitVec 4)
  /-- LW (R104). -/
  | lw (p : Pfx) (d a : BitVec 4)
  /-- LWU (R104). -/
  | lwu (p : Pfx) (d a : BitVec 4)
  /-- SB (R104). -/
  | sb (p : Pfx) (d a : BitVec 4)
  /-- SH (R104). -/
  | sh (p : Pfx) (d a : BitVec 4)
  /-- SW (R104). -/
  | sw (p : Pfx) (d a : BitVec 4)
  /-- B (R105). -/
  | b (p : Pfx) (o : BitVec 8)
  /-- BT (R106). -/
  | bt (p : Pfx) (o : BitVec 8)
  /-- BF (R106). -/
  | bf (p : Pfx) (o : BitVec 8)
  /-- CALL (R105). -/
  | call (p : Pfx) (o : BitVec 8)
  /-- J (R105). -/
  | j (p : Pfx) (o : BitVec 12)
  /-- PEND (R107). -/
  | pend (p : Pfx) (d a : BitVec 4)
  /-- PELSE (R107). -/
  | pelse (p : Pfx) (d a : BitVec 4)
  /-- PAND (R107). -/
  | pand (p : Pfx) (d a : BitVec 4)
  /-- POR (R107). -/
  | por (p : Pfx) (d a : BitVec 4)
  /-- PDUP (R107). -/
  | pdup (p : Pfx) (d a : BitVec 4)
  /-- PSET (R107). -/
  | pset (p : Pfx) (d a : BitVec 4)
  /-- PGET (R107). -/
  | pget (p : Pfx) (d a : BitVec 4)
  /-- PCNT (R107). -/
  | pcnt (p : Pfx) (d a : BitVec 4)
  /-- JR (R105). -/
  | jr (p : Pfx) (d a : BitVec 4)
  /-- CALLR (R105). -/
  | callr (p : Pfx) (d a : BitVec 4)
  /-- RET (R105). -/
  | ret (p : Pfx) (d a : BitVec 4)
  /-- HINT (R59). -/
  | hint (p : Pfx) (w : Half)
  /-- VADD (R209). -/
  | vadd (p : Pfx) (d a : BitVec 4)
  /-- VSUB (R209). -/
  | vsub (p : Pfx) (d a : BitVec 4)
  /-- VMUL (R209). -/
  | vmul (p : Pfx) (d a : BitVec 4)
  /-- VFMA (R209). -/
  | vfma (p : Pfx) (d a : BitVec 4)
  /-- VMIN (R209). -/
  | vmin (p : Pfx) (d a : BitVec 4)
  /-- VMAX (R209). -/
  | vmax (p : Pfx) (d a : BitVec 4)
  /-- VABS (R209). -/
  | vabs (p : Pfx) (d a : BitVec 4)
  /-- VNEG (R209). -/
  | vneg (p : Pfx) (d a : BitVec 4)
  /-- VAND (R210). -/
  | vand (p : Pfx) (d a : BitVec 4)
  /-- VOR (R210). -/
  | vor (p : Pfx) (d a : BitVec 4)
  /-- VXOR (R210). -/
  | vxor (p : Pfx) (d a : BitVec 4)
  /-- VNOT (R210). -/
  | vnot (p : Pfx) (d a : BitVec 4)
  /-- VSHL (R210). -/
  | vshl (p : Pfx) (d a : BitVec 4)
  /-- VSHR (R210). -/
  | vshr (p : Pfx) (d a : BitVec 4)
  /-- VSRA (R210). -/
  | vsra (p : Pfx) (d a : BitVec 4)
  /-- VSEL (R210). -/
  | vsel (p : Pfx) (d a : BitVec 4)
  /-- VCMP (R211). -/
  | vcmp (p : Pfx) (d a : BitVec 4) (c : BitVec 4)
  /-- VLD (R212). -/
  | vld (p : Pfx) (d a : BitVec 4)
  /-- VST (R212). -/
  | vst (p : Pfx) (d a : BitVec 4)
  /-- VLDS (R212). -/
  | vlds (p : Pfx) (d a : BitVec 4)
  /-- VSTS (R212). -/
  | vsts (p : Pfx) (d a : BitVec 4)
  /-- VGATH (R212). -/
  | vgath (p : Pfx) (d a : BitVec 4)
  /-- VSCAT (R212). -/
  | vscat (p : Pfx) (d a : BitVec 4)
  /-- VBCAST (R213). -/
  | vbcast (p : Pfx) (d a : BitVec 4)
  /-- VEXT (R213). -/
  | vext (p : Pfx) (d a : BitVec 4)
  /-- VINS (R213). -/
  | vins (p : Pfx) (d a : BitVec 4)
  /-- VPERM (R213). -/
  | vperm (p : Pfx) (d a : BitVec 4)
  /-- VREDADD (R214). -/
  | vredadd (p : Pfx) (d a : BitVec 4)
  /-- VREDMIN (R214). -/
  | vredmin (p : Pfx) (d a : BitVec 4)
  /-- VREDMAX (R214). -/
  | vredmax (p : Pfx) (d a : BitVec 4)
  /-- VIOTA (R213). -/
  | viota (p : Pfx) (d a : BitVec 4)
  /-- VBIND (R216). -/
  | vbind (p : Pfx) (d a : BitVec 4)
  /-- VUNBIND (R216). -/
  | vunbind (p : Pfx) (d a : BitVec 4)
  /-- VSTAT (R216). -/
  | vstat (p : Pfx) (d a : BitVec 4)
  /-- VCVT (R215). -/
  | vcvt (p : Pfx) (d a : BitVec 4) (g : BitVec 3)
  /-- MMA_RING (R232). -/
  | mmaRing (p : Pfx) (d a : BitVec 4)
  /-- MMA_HOLD (R232). -/
  | mmaHold (p : Pfx) (d a : BitVec 4)
  /-- MMV (R233). -/
  | mmv (p : Pfx) (d a : BitVec 4)
  /-- MLDB (R234). -/
  | mldb (p : Pfx) (d a : BitVec 4)
  /-- MPASS (R234). -/
  | mpass (p : Pfx) (d a : BitVec 4)
  /-- MZERO (R235). -/
  | mzero (p : Pfx) (d a : BitVec 4)
  /-- MST (R236). -/
  | mst (p : Pfx) (d a : BitVec 4)
  /-- MLD (R236). -/
  | mld (p : Pfx) (d a : BitVec 4)
  /-- MROW (R235). -/
  | mrow (p : Pfx) (d a : BitVec 4)
  /-- MWAIT (R237). -/
  | mwait (p : Pfx) (d a : BitVec 4)
  /-- MBANK_SEL (R238). -/
  | mbankSel (p : Pfx) (d a : BitVec 4)
  /-- MBANK_SPILL (R238). -/
  | mbankSpill (p : Pfx) (d a : BitVec 4)
  /-- MBANK_FILL (R238). -/
  | mbankFill (p : Pfx) (d a : BitVec 4)
  /-- GINT (R154). -/
  | gint (p : Pfx) (d a : BitVec 4)
  /-- GUNI (R154). -/
  | guni (p : Pfx) (d a : BitVec 4)
  /-- GSUB (R154). -/
  | gsub (p : Pfx) (d a : BitVec 4)
  /-- GSET (R155). -/
  | gset (p : Pfx) (d a : BitVec 4)
  /-- GEMPTY (R155). -/
  | gempty (p : Pfx) (d a : BitVec 4)
  /-- GBOX (R156). -/
  | gbox (p : Pfx) (d a : BitVec 4)
  /-- GLAT (R156). -/
  | glat (p : Pfx) (d a : BitVec 4)
  /-- GRAG (R157). -/
  | grag (p : Pfx) (d a : BitVec 4)
  /-- GDIL (R158). -/
  | gdil (p : Pfx) (d a : BitVec 4)
  /-- GSHIFT (R158). -/
  | gshift (p : Pfx) (d a : BitVec 4)
  /-- GPROJ (R158). -/
  | gproj (p : Pfx) (d a : BitVec 4)
  /-- GSPLIT (R159). -/
  | gsplit (p : Pfx) (d a : BitVec 4)
  /-- GCANON (R160). -/
  | gcanon (p : Pfx) (d a : BitVec 4)
  /-- GLD (R161). -/
  | gld (p : Pfx) (d a : BitVec 4)
  /-- GST (R161). -/
  | gst (p : Pfx) (d a : BitVec 4)
  /-- GCNT (R162). -/
  | gcnt (p : Pfx) (d a : BitVec 4)
  /-- GVOL (R162). -/
  | gvol (p : Pfx) (d a : BitVec 4)
  /-- GRDBOX (R162). -/
  | grdbox (p : Pfx) (d a : BitVec 4)
  /-- GTEST (R163). -/
  | gtest (p : Pfx) (d a : BitVec 4)
  /-- GEQ (R163). -/
  | geq (p : Pfx) (d a : BitVec 4)
  /-- AADD (R253). -/
  | aadd (p : Pfx) (d a : BitVec 4)
  /-- AAND (R253). -/
  | aand (p : Pfx) (d a : BitVec 4)
  /-- AOR (R253). -/
  | aor (p : Pfx) (d a : BitVec 4)
  /-- AXOR (R253). -/
  | axor (p : Pfx) (d a : BitVec 4)
  /-- AMIN (R253). -/
  | amin (p : Pfx) (d a : BitVec 4)
  /-- AMAX (R253). -/
  | amax (p : Pfx) (d a : BitVec 4)
  /-- AMINU (R253). -/
  | aminu (p : Pfx) (d a : BitVec 4)
  /-- AMAXU (R253). -/
  | amaxu (p : Pfx) (d a : BitVec 4)
  /-- ASWAP (R253). -/
  | aswap (p : Pfx) (d a : BitVec 4)
  /-- ACAS (R253). -/
  | acas (p : Pfx) (d a : BitVec 4)
  /-- AFADD (R253). -/
  | afadd (p : Pfx) (d a : BitVec 4)
  /-- AFADDCP (R254). -/
  | afaddcp (p : Pfx) (d a : BitVec 4)
  /-- LDS (R261). -/
  | lds (p : Pfx) (d a : BitVec 4)
  /-- STS (R261). -/
  | sts (p : Pfx) (d a : BitVec 4)
  /-- TRN (R261). -/
  | trn (p : Pfx) (d a : BitVec 4)
  /-- STQ (R261). -/
  | stq (p : Pfx) (d a : BitVec 4)
  /-- AUTLD (R262). -/
  | autld (p : Pfx) (d a : BitVec 4)
  /-- PREF_LINE (R263). -/
  | prefLine (p : Pfx) (a : BitVec 4)
  /-- PREF_REGION (R263). -/
  | prefRegion (p : Pfx) (a : BitVec 4)
  /-- INVL1_ALL (R263). -/
  | invl1All (p : Pfx) (a : BitVec 4)
  /-- INVL1_LINE (R263). -/
  | invl1Line (p : Pfx) (a : BitVec 4)
  /-- SEND (R289). -/
  | send (p : Pfx) (d a : BitVec 4)
  /-- CTRADD (R293). -/
  | ctradd (p : Pfx) (d a : BitVec 4)
  /-- CTRRD (R293). -/
  | ctrrd (p : Pfx) (d a : BitVec 4)
  /-- CWAIT (R293). -/
  | cwait (p : Pfx) (d a : BitVec 4)
  /-- WTARM (R295). -/
  | wtarm (p : Pfx) (d a : BitVec 4)
  /-- WTDIS (R295). -/
  | wtdis (p : Pfx) (d a : BitVec 4)
  /-- SPAWN (R305). -/
  | spawn (p : Pfx) (d a : BitVec 4)
  /-- START (R306). -/
  | start (p : Pfx) (d a : BitVec 4)
  /-- HJOIN (R307). -/
  | hjoin (p : Pfx) (d a : BitVec 4)
  /-- SUSP (R308). -/
  | susp (p : Pfx) (d a : BitVec 4)
  /-- DQPUSH (R310). -/
  | dqpush (p : Pfx) (d a : BitVec 4)
  /-- DQPOP (R310). -/
  | dqpop (p : Pfx) (d a : BitVec 4)
  /-- DQSTEAL (R310). -/
  | dqsteal (p : Pfx) (d a : BitVec 4)
  /-- BSETC_REL (R122). -/
  | bsetcRel (p : Pfx) (a : BitVec 4)
  /-- BSETC_REG (R122). -/
  | bsetcReg (p : Pfx) (a : BitVec 4)
  /-- BGRANT (R123). -/
  | bgrant (p : Pfx) (d a : BitVec 4)
  /-- BYIELD (R124). -/
  | byield (p : Pfx) (d a : BitVec 4)
  /-- BTOP (R123). -/
  | btop (p : Pfx) (d a : BitVec 4)
  /-- ARRIVE (R318). -/
  | arrive (p : Pfx) (d a : BitVec 4)
  /-- BWAIT (R318). -/
  | bwait (p : Pfx) (d a : BitVec 4)
  /-- BSTAT (R318). -/
  | bstat (p : Pfx) (d a : BitVec 4)
  /-- COPY (R325). -/
  | copy (p : Pfx) (d a : BitVec 4)
  /-- EWAIT (R326). -/
  | ewait (p : Pfx) (d a : BitVec 4)
  /-- ETEST (R326). -/
  | etest (p : Pfx) (d a : BitVec 4)
  /-- GPOOL (R332). -/
  | gpool (p : Pfx) (d a : BitVec 4)
  /-- XRED (R329). -/
  | xred (p : Pfx) (d a : BitVec 4)
  /-- XBCAST (R331). -/
  | xbcast (p : Pfx) (d a : BitVec 4)
  /-- XGATH (R331). -/
  | xgath (p : Pfx) (d a : BitVec 4)
  /-- CHUNKRD (R326). -/
  | chunkrd (p : Pfx) (d a : BitVec 4)
  /-- COLLECTIVE_REQUEST (R328). -/
  | collectiveRequest (r : CollReq)
  /-- HPOFFER (R334). -/
  | hpoffer (p : Pfx) (d a : BitVec 4)
  /-- HPREAD (R334). -/
  | hpread (p : Pfx) (d a : BitVec 4)
  /-- RCINC (R335). -/
  | rcinc (p : Pfx) (d a : BitVec 4)
  /-- RCSNAP (R335). -/
  | rcsnap (p : Pfx) (d a : BitVec 4)
  /-- SYSC (R344). -/
  | sysc (p : Pfx) (n : BitVec 8)
  /-- TRET (R343). -/
  | tret (p : Pfx) (d a : BitVec 4)
  /-- CTXSV_CTX (R351). -/
  | ctxsvCtx (p : Pfx) (a : BitVec 4)
  /-- CTXSV_CELL (R351). -/
  | ctxsvCell (p : Pfx) (a : BitVec 4)
  /-- CTXSV_TILE (R351). -/
  | ctxsvTile (p : Pfx) (a : BitVec 4)
  /-- CTXLD_CTX (R351). -/
  | ctxldCtx (p : Pfx) (a : BitVec 4)
  /-- CTXLD_CELL (R351). -/
  | ctxldCell (p : Pfx) (a : BitVec 4)
  /-- CTXLD_TILE (R351). -/
  | ctxldTile (p : Pfx) (a : BitVec 4)
  /-- CTXLD_REG (R351). -/
  | ctxldReg (p : Pfx) (a : BitVec 4)
  /-- CHORD_CONFIG_WRITE (R314). -/
  | chordConfigWrite (level : BitVec 3) (node : BitVec 12) (chan : BitVec 5) (w : BitVec 32)
  /-- PMREQ_CTX (R354). -/
  | pmreqCtx (p : Pfx) (a : BitVec 4)
  /-- PMREQ_STOP (R355). -/
  | pmreqStop (p : Pfx) (a : BitVec 4)
  /-- PMREQ_GO (R356). -/
  | pmreqGo (p : Pfx) (a : BitVec 4)
  /-- PMREQ_FRAME (R354). -/
  | pmreqFrame (p : Pfx) (a : BitVec 4)
  /-- GANGSTOP_STOP (R357). -/
  | gangstopStop (p : Pfx) (a : BitVec 4)
  /-- GANGSTOP_RESTART (R357). -/
  | gangstopRestart (p : Pfx) (a : BitVec 4)
  /-- TLBINV (R359). -/
  | tlbinv (p : Pfx) (d a : BitVec 4)
  /-- REGRD (R353). -/
  | regrd (p : Pfx) (d a : BitVec 4)
  /-- WDSET (R186). -/
  | wdset (p : Pfx) (d a : BitVec 4)
  /-- ANSWER_RETRY (R345). -/
  | answerRetry (span : BitVec 4) (id : BitVec 32)
  /-- ANSWER_REFUSE (R345). -/
  | answerRefuse (span : BitVec 4) (id : BitVec 32)
  /-- ANSWER_LONG_SERVICE (R345). -/
  | answerLongService (span : BitVec 4) (id : BitVec 32)
  /-- FADD (R190). -/
  | fadd (p : Pfx) (d a : BitVec 4)
  /-- FSUB (R190). -/
  | fsub (p : Pfx) (d a : BitVec 4)
  /-- FMUL (R190). -/
  | fmul (p : Pfx) (d a : BitVec 4)
  /-- FDIV (R190). -/
  | fdiv (p : Pfx) (d a : BitVec 4)
  /-- FSQRT (R190). -/
  | fsqrt (p : Pfx) (d a : BitVec 4)
  /-- FMA (R190). -/
  | fma (p : Pfx) (d a : BitVec 4)
  /-- FMIN (R190). -/
  | fmin (p : Pfx) (d a : BitVec 4)
  /-- FMAX (R190). -/
  | fmax (p : Pfx) (d a : BitVec 4)
  /-- FABS (R190). -/
  | fabs (p : Pfx) (d a : BitVec 4)
  /-- FNEG (R190). -/
  | fneg (p : Pfx) (d a : BitVec 4)
  /-- FCMP (R191). -/
  | fcmp (p : Pfx) (d a : BitVec 4) (c : BitVec 2)
  /-- FCVT (R192). -/
  | fcvt (p : Pfx) (d a : BitVec 4) (g : BitVec 3)
  /-- FCLASS (R193). -/
  | fclass (p : Pfx) (d a : BitVec 4)
  /-- FQNT (R193). -/
  | fqnt (p : Pfx) (d a : BitVec 4)
  /-- WPTR_WRITE (R363). -/
  | wptrWrite (q : BitVec 3) (v : BitVec 32)
  /-- QSIZE_WRITE (R366). -/
  | qsizeWrite (q : BitVec 3) (v : BitVec 5)
  /-- HOST_REGISTER_WRITE (R363). -/
  | hostRegisterWrite (off : BitVec 16) (v : BitVec 64)
  /-- MDATA_WRITE (R363). -/
  | mdataWrite (v : BitVec 64)
  /-- ANONCE_WRITE (R371). -/
  | anonceWrite (nonce : BitVec 256)
  /-- LINK_CRC_RESEND (R367). -/
  | linkCrcResend (link : BitVec 6) (again : Bool) (lost : List (BitVec 10))
  /-- ILLEGAL_INSTRUCTION (R58). -/
  | illegalInstruction (w : Illegal)
  /-- MODULE_BECOMES_REACHABLE (R367). -/
  | moduleBecomesReachable (m : BitVec 10)
  /-- POWER_LOSS (R370). -/
  | powerLoss (writing : Bool)
  /-- HOST_MEMORY_ACCESS (R363). -/
  | hostMemoryAccess (a : HostAcc)
  /-- POOL_BACK_INVALIDATE (R242). -/
  | poolBackInvalidate (line : BitVec 50) (bytes : BitVec 512)
  /-- REMOTE_REQUEST_ARRIVAL (R257). -/
  | remoteRequestArrival (r : RemoteReq)
  /-- YIELD_PASS_END (R93). -/
  | yieldPassEnd
  /-- LOAD_COMPLETE (R102). -/
  | loadComplete
  /-- BUDGET_YIELD (R118). -/
  | budgetYield
  /-- VECTOR_COMPLETE (R199). -/
  | vectorComplete
  /-- ARBITER_WINDOW (R197). -/
  | arbiterWindow
  /-- STREAM_UNIT_FETCH (R206). -/
  | streamUnitFetch
  /-- STREAM_UNIT_WRITE (R206). -/
  | streamUnitWrite
  /-- MATRIX_STEP_RETIRE (R222). -/
  | matrixStepRetire
  /-- HANDOFF_LAND (R224). -/
  | handoffLand
  /-- PARKED_STEP_RETRY (R259). -/
  | parkedStepRetry
  /-- LONG_PARK_CONVERSION (R260). -/
  | longParkConversion
  /-- TLB_MISS_WALK (R245). -/
  | tlbMissWalk
  /-- MESSAGE_DELIVERY (R290). -/
  | messageDelivery
  /-- JOIN_INCREMENT (R297). -/
  | joinIncrement
  /-- SPAWN_ENQUEUE (R305). -/
  | spawnEnqueue
  /-- FIRED_PENDING_ENQUEUE (R300). -/
  | firedPendingEnqueue
  /-- DISPATCH (R303). -/
  | dispatch
  /-- ENGINE_CHUNK_PERFORMED (R324). -/
  | engineChunkPerformed
  /-- ENGINE_COMPLETION (R275). -/
  | engineCompletion
  /-- SWITCH_IN_RESTORE (R347). -/
  | switchInRestore
  /-- MODULE_RESET (R16). -/
  | moduleReset
  /-- RECOVERY_GO (R370). -/
  | recoveryGo
  /-- CMD_NOOP (R366). -/
  | cmdNoop
  /-- CMD_LAUNCH (R366). -/
  | cmdLaunch
  /-- LAUNCH_END (R366). -/
  | launchEnd
  /-- CMD_SIGNAL (R366). -/
  | cmdSignal
  /-- CMD_WAIT (R366). -/
  | cmdWait
  /-- ATTESTATION_REPORT_READY (R371). -/
  | attestationReportReady
  /-- PSTATE_FULL (R372). -/
  | pstateFull
  /-- PSTATE_PARTITION_OFF (R372). -/
  | pstatePartitionOff
  /-- PSTATE_IDLE (R372). -/
  | pstateIdle
  /-- ARBITER_GRANT (R197). -/
  | arbiterGrant
  /-- STORE_PERFORMED (R241). -/
  | storePerformed
  /-- STOP_UNIT_REACHED (R355). -/
  | stopUnitReached
  deriving DecidableEq, Repr

end Sys2Proof
end

