-- ==== Sys2Proof/WellFormed.lean ====
section
/-! DEFINITION. Sys2Proof/WellFormed.lean: which instructions are legal (03 R48, R55, R58, R63, R65, R70). A word sequence
whose instruction is not well formed decodes to `illegalInstruction`. -/

namespace Sys2Proof

/-- A register operand: its class and number (03 R55). Every v number is valid, so v operands are not listed. -/
inductive Operand where
  | s (n : Nat)
  | g (n : Nat)
  | acc (n : Nat)
  deriving DecidableEq, Repr

/-- 03 R55: s16 to s31, g16 to g31 and acc4 and above are beyond their class. -/
def Operand.ok : Operand → Bool
  | .s n => n < 16
  | .g n => n < 16
  | .acc n => n < 4

namespace Pfx

/-- No prefix at all: every field at its default (03 R46, R47). -/
def none : Pfx := ⟨[], .none, .none, .none, .none, .none, .none⟩

/-- The page and the function extension (03 R46: page 0, fx 0 when absent). -/
def page (p : Pfx) : Nat := match p.p with | some (g, _) => g.toNat | .none => 0
def fx (p : Pfx) : BitVec 6 := match p.p with | some (_, f) => f | .none => 0#6
/-- fx 5:3: the element type of page 1 and the operand format of page 2 (03 R62, R63). -/
def fx53 (p : Pfx) : BitVec 3 := p.fx.extractLsb' 3 3
/-- Whether PFX.R is present (03 R56). -/
def hasR (p : Pfx) : Bool := p.r.isSome
/-- Register numbers (03 R55): d4:d, a4:a and e; e is 0 without PFX.R. -/
def dn (p : Pfx) (d : BitVec 4) : Nat := (match p.r with | some r => if r.d4 then 16 else 0 | .none => 0) + d.toNat
def an (p : Pfx) (a : BitVec 4) : Nat := (match p.r with | some r => if r.a4 then 16 else 0 | .none => 0) + a.toNat
def en (p : Pfx) : Nat := match p.r with | some r => r.e.toNat | .none => 0

/-- immHi of 03 R49: the PFX.I payloads concatenated in their order. -/
def immHi (p : Pfx) : Nat := p.imms.foldl (fun acc w => acc * 1024 + w.toNat) 0
/-- The number of PFX.I words. -/
def m (p : Pfx) : Nat := p.imms.length
/-- 03 R50: `(immHi << n) OR field`, 10m + n bits wide, sign-extended from its top bit; 0 bits read 0. -/
def imm (p : Pfx) {n : Nat} (field : BitVec n) : Int :=
  (BitVec.ofNat (10 * p.m + n) (p.immHi * 2 ^ n + field.toNat)).toInt
/-- The immediate of an instruction that takes it from PFX.I only (03 R50). -/
def imm0 (p : Pfx) : Int := p.imm (0#0)
/-- F3 (03 R50): with no PFX.I imm4 is unsigned. -/
def immF3 (p : Pfx) (i : BitVec 4) : Int := if p.m = 0 then (i.toNat : Int) else p.imm i
/-- Bit or field of the immediate as a word. -/
def immW (p : Pfx) : Word := BitVec.ofInt 64 p.imm0
/-- 06 R149: Imm()[4] selects the wide form of coordinate vectors. -/
def wide (p : Pfx) : Bool := p.immW.getLsbD 4

/-- The number of prefix words (03 R45). -/
def count (p : Pfx) : Nat :=
  p.imms.length + p.r.isSome.toNat + p.p.isSome.toNat + p.order.isSome.toNat + p.stage.isSome.toNat
    + p.arith.isSome.toNat + p.guard.isSome.toNat

/-- F0 arithmetic (03 R56): d, a and, with PFX.R, e. -/
def rrr (p : Pfx) (d a : BitVec 4) : List Operand :=
  if p.hasR then [.s (p.dn d), .s (p.an a), .s p.en] else [.s (p.dn d), .s (p.an a)]
/-- Compares: d and a, or with PFX.R a and e. -/
def rr (p : Pfx) (d a : BitVec 4) : List Operand :=
  if p.hasR then [.s (p.an a), .s p.en] else [.s (p.dn d), .s (p.an a)]
/-- Region algebra (06 R154). -/
def ggg (p : Pfx) (d a : BitVec 4) : List Operand :=
  if p.hasR then [.g (p.dn d), .g (p.an a), .g p.en] else [.g (p.dn d), .g (p.an a)]
/-- `k` coordinate vectors from register `n` (06 R150): one register each, or two in the wide form. -/
def vec (p : Pfx) (n k : Nat) : List Operand :=
  (List.range (if p.wide then 2 * k else k)).map (fun i => .s (n + i))
/-- The e operand of GTEST by its sub-test (06 R163). -/
def testOp (p : Pfx) : List Operand :=
  match p.immW.extractLsb' 0 2 with
  | 1#2 => p.vec p.en 1
  | 2#2 => [.g p.en]
  | _ => []

end Pfx

namespace Instr

/-- The prefix state of an instruction; none for a step of the machine. -/
def pfx : Instr → Option Pfx
  | .nop p _ _ => some p
  | .fence p _ _ => some p
  | .yield p _ _ => some p
  | .exit p _ _ => some p
  | .trap p _ _ => some p
  | .brk p _ => some p
  | .mfs p _ _ => some p
  | .mts p _ _ => some p
  | .rdcyc p _ _ => some p
  | .add p _ _ => some p
  | .sub p _ _ => some p
  | .and p _ _ => some p
  | .or p _ _ => some p
  | .xor p _ _ => some p
  | .sll p _ _ => some p
  | .srl p _ _ => some p
  | .sra p _ _ => some p
  | .mul p _ _ => some p
  | .mulh p _ _ => some p
  | .mulhu p _ _ => some p
  | .min p _ _ => some p
  | .max p _ _ => some p
  | .minu p _ _ => some p
  | .maxu p _ _ => some p
  | .mov p _ _ => some p
  | .div p _ _ => some p
  | .divu p _ _ => some p
  | .rem p _ _ => some p
  | .remu p _ _ => some p
  | .clz p _ _ => some p
  | .ctz p _ _ => some p
  | .popc p _ _ => some p
  | .sextb p _ _ => some p
  | .sexth p _ _ => some p
  | .sextw p _ _ => some p
  | .zextb p _ _ => some p
  | .zexth p _ _ => some p
  | .zextw p _ _ => some p
  | .bswap p _ _ => some p
  | .addw p _ _ => some p
  | .subw p _ _ => some p
  | .addi p _ _ => some p
  | .li p _ _ => some p
  | .cmp p _ _ _ => some p
  | .cmpi p _ _ _ => some p
  | .ld p _ _ _ => some p
  | .st p _ _ _ => some p
  | .lb p _ _ => some p
  | .lbu p _ _ => some p
  | .lh p _ _ => some p
  | .lhu p _ _ => some p
  | .lw p _ _ => some p
  | .lwu p _ _ => some p
  | .sb p _ _ => some p
  | .sh p _ _ => some p
  | .sw p _ _ => some p
  | .b p _ => some p
  | .bt p _ => some p
  | .bf p _ => some p
  | .call p _ => some p
  | .j p _ => some p
  | .pend p _ _ => some p
  | .pelse p _ _ => some p
  | .pand p _ _ => some p
  | .por p _ _ => some p
  | .pdup p _ _ => some p
  | .pset p _ _ => some p
  | .pget p _ _ => some p
  | .pcnt p _ _ => some p
  | .jr p _ _ => some p
  | .callr p _ _ => some p
  | .ret p _ _ => some p
  | .hint p _ => some p
  | .vadd p _ _ => some p
  | .vsub p _ _ => some p
  | .vmul p _ _ => some p
  | .vfma p _ _ => some p
  | .vmin p _ _ => some p
  | .vmax p _ _ => some p
  | .vabs p _ _ => some p
  | .vneg p _ _ => some p
  | .vand p _ _ => some p
  | .vor p _ _ => some p
  | .vxor p _ _ => some p
  | .vnot p _ _ => some p
  | .vshl p _ _ => some p
  | .vshr p _ _ => some p
  | .vsra p _ _ => some p
  | .vsel p _ _ => some p
  | .vcmp p _ _ _ => some p
  | .vld p _ _ => some p
  | .vst p _ _ => some p
  | .vlds p _ _ => some p
  | .vsts p _ _ => some p
  | .vgath p _ _ => some p
  | .vscat p _ _ => some p
  | .vbcast p _ _ => some p
  | .vext p _ _ => some p
  | .vins p _ _ => some p
  | .vperm p _ _ => some p
  | .vredadd p _ _ => some p
  | .vredmin p _ _ => some p
  | .vredmax p _ _ => some p
  | .viota p _ _ => some p
  | .vbind p _ _ => some p
  | .vunbind p _ _ => some p
  | .vstat p _ _ => some p
  | .vcvt p _ _ _ => some p
  | .mmaRing p _ _ => some p
  | .mmaHold p _ _ => some p
  | .mmv p _ _ => some p
  | .mldb p _ _ => some p
  | .mpass p _ _ => some p
  | .mzero p _ _ => some p
  | .mst p _ _ => some p
  | .mld p _ _ => some p
  | .mrow p _ _ => some p
  | .mwait p _ _ => some p
  | .mbankSel p _ _ => some p
  | .mbankSpill p _ _ => some p
  | .mbankFill p _ _ => some p
  | .gint p _ _ => some p
  | .guni p _ _ => some p
  | .gsub p _ _ => some p
  | .gset p _ _ => some p
  | .gempty p _ _ => some p
  | .gbox p _ _ => some p
  | .glat p _ _ => some p
  | .grag p _ _ => some p
  | .gdil p _ _ => some p
  | .gshift p _ _ => some p
  | .gproj p _ _ => some p
  | .gsplit p _ _ => some p
  | .gcanon p _ _ => some p
  | .gld p _ _ => some p
  | .gst p _ _ => some p
  | .gcnt p _ _ => some p
  | .gvol p _ _ => some p
  | .grdbox p _ _ => some p
  | .gtest p _ _ => some p
  | .geq p _ _ => some p
  | .aadd p _ _ => some p
  | .aand p _ _ => some p
  | .aor p _ _ => some p
  | .axor p _ _ => some p
  | .amin p _ _ => some p
  | .amax p _ _ => some p
  | .aminu p _ _ => some p
  | .amaxu p _ _ => some p
  | .aswap p _ _ => some p
  | .acas p _ _ => some p
  | .afadd p _ _ => some p
  | .afaddcp p _ _ => some p
  | .lds p _ _ => some p
  | .sts p _ _ => some p
  | .trn p _ _ => some p
  | .stq p _ _ => some p
  | .autld p _ _ => some p
  | .prefLine p _ => some p
  | .prefRegion p _ => some p
  | .invl1All p _ => some p
  | .invl1Line p _ => some p
  | .send p _ _ => some p
  | .ctradd p _ _ => some p
  | .ctrrd p _ _ => some p
  | .cwait p _ _ => some p
  | .wtarm p _ _ => some p
  | .wtdis p _ _ => some p
  | .spawn p _ _ => some p
  | .start p _ _ => some p
  | .hjoin p _ _ => some p
  | .susp p _ _ => some p
  | .dqpush p _ _ => some p
  | .dqpop p _ _ => some p
  | .dqsteal p _ _ => some p
  | .bsetcRel p _ => some p
  | .bsetcReg p _ => some p
  | .bgrant p _ _ => some p
  | .byield p _ _ => some p
  | .btop p _ _ => some p
  | .arrive p _ _ => some p
  | .bwait p _ _ => some p
  | .bstat p _ _ => some p
  | .copy p _ _ => some p
  | .ewait p _ _ => some p
  | .etest p _ _ => some p
  | .gpool p _ _ => some p
  | .xred p _ _ => some p
  | .xbcast p _ _ => some p
  | .xgath p _ _ => some p
  | .chunkrd p _ _ => some p
  | .collectiveRequest _ => none
  | .hpoffer p _ _ => some p
  | .hpread p _ _ => some p
  | .rcinc p _ _ => some p
  | .rcsnap p _ _ => some p
  | .sysc p _ => some p
  | .tret p _ _ => some p
  | .ctxsvCtx p _ => some p
  | .ctxsvCell p _ => some p
  | .ctxsvTile p _ => some p
  | .ctxldCtx p _ => some p
  | .ctxldCell p _ => some p
  | .ctxldTile p _ => some p
  | .ctxldReg p _ => some p
  | .chordConfigWrite _ _ _ _ => none
  | .pmreqCtx p _ => some p
  | .pmreqStop p _ => some p
  | .pmreqGo p _ => some p
  | .pmreqFrame p _ => some p
  | .gangstopStop p _ => some p
  | .gangstopRestart p _ => some p
  | .tlbinv p _ _ => some p
  | .regrd p _ _ => some p
  | .wdset p _ _ => some p
  | .answerRetry _ _ => none
  | .answerRefuse _ _ => none
  | .answerLongService _ _ => none
  | .fadd p _ _ => some p
  | .fsub p _ _ => some p
  | .fmul p _ _ => some p
  | .fdiv p _ _ => some p
  | .fsqrt p _ _ => some p
  | .fma p _ _ => some p
  | .fmin p _ _ => some p
  | .fmax p _ _ => some p
  | .fabs p _ _ => some p
  | .fneg p _ _ => some p
  | .fcmp p _ _ _ => some p
  | .fcvt p _ _ _ => some p
  | .fclass p _ _ => some p
  | .fqnt p _ _ => some p
  | .wptrWrite _ _ => none
  | .qsizeWrite _ _ => none
  | .hostRegisterWrite _ _ => none
  | .mdataWrite _ => none
  | .anonceWrite _ => none
  | .linkCrcResend _ _ _ => none
  | .illegalInstruction _ => none
  | .moduleBecomesReachable _ => none
  | .powerLoss _ => none
  | .hostMemoryAccess _ => none
  | .poolBackInvalidate _ _ => none
  | .remoteRequestArrival _ => none
  | .yieldPassEnd => none
  | .loadComplete => none
  | .budgetYield => none
  | .vectorComplete => none
  | .arbiterWindow => none
  | .streamUnitFetch => none
  | .streamUnitWrite => none
  | .matrixStepRetire => none
  | .handoffLand => none
  | .parkedStepRetry => none
  | .longParkConversion => none
  | .tlbMissWalk => none
  | .messageDelivery => none
  | .joinIncrement => none
  | .spawnEnqueue => none
  | .firedPendingEnqueue => none
  | .dispatch => none
  | .engineChunkPerformed => none
  | .engineCompletion => none
  | .switchInRestore => none
  | .moduleReset => none
  | .recoveryGo => none
  | .cmdNoop => none
  | .cmdLaunch => none
  | .launchEnd => none
  | .cmdSignal => none
  | .cmdWait => none
  | .attestationReportReady => none
  | .pstateFull => none
  | .pstatePartitionOff => none
  | .pstateIdle => none
  | .arbiterGrant => none
  | .storePerformed => none
  | .stopUnitReached => none

/-- The page of an instruction (03 R61 to R69); hints are on 14 or 15 and are judged in `codeOk`. -/
def page : Instr → Nat
  | .nop _ _ _ => 0
  | .fence _ _ _ => 0
  | .yield _ _ _ => 0
  | .exit _ _ _ => 0
  | .trap _ _ _ => 0
  | .brk _ _ => 0
  | .mfs _ _ _ => 0
  | .mts _ _ _ => 0
  | .rdcyc _ _ _ => 0
  | .add _ _ _ => 0
  | .sub _ _ _ => 0
  | .and _ _ _ => 0
  | .or _ _ _ => 0
  | .xor _ _ _ => 0
  | .sll _ _ _ => 0
  | .srl _ _ _ => 0
  | .sra _ _ _ => 0
  | .mul _ _ _ => 0
  | .mulh _ _ _ => 0
  | .mulhu _ _ _ => 0
  | .min _ _ _ => 0
  | .max _ _ _ => 0
  | .minu _ _ _ => 0
  | .maxu _ _ _ => 0
  | .mov _ _ _ => 0
  | .div _ _ _ => 0
  | .divu _ _ _ => 0
  | .rem _ _ _ => 0
  | .remu _ _ _ => 0
  | .clz _ _ _ => 0
  | .ctz _ _ _ => 0
  | .popc _ _ _ => 0
  | .sextb _ _ _ => 0
  | .sexth _ _ _ => 0
  | .sextw _ _ _ => 0
  | .zextb _ _ _ => 0
  | .zexth _ _ _ => 0
  | .zextw _ _ _ => 0
  | .bswap _ _ _ => 0
  | .addw _ _ _ => 0
  | .subw _ _ _ => 0
  | .addi _ _ _ => 0
  | .li _ _ _ => 0
  | .cmp _ _ _ _ => 0
  | .cmpi _ _ _ _ => 0
  | .ld _ _ _ _ => 0
  | .st _ _ _ _ => 0
  | .lb _ _ _ => 0
  | .lbu _ _ _ => 0
  | .lh _ _ _ => 0
  | .lhu _ _ _ => 0
  | .lw _ _ _ => 0
  | .lwu _ _ _ => 0
  | .sb _ _ _ => 0
  | .sh _ _ _ => 0
  | .sw _ _ _ => 0
  | .b _ _ => 0
  | .bt _ _ => 0
  | .bf _ _ => 0
  | .call _ _ => 0
  | .j _ _ => 0
  | .pend _ _ _ => 0
  | .pelse _ _ _ => 0
  | .pand _ _ _ => 0
  | .por _ _ _ => 0
  | .pdup _ _ _ => 0
  | .pset _ _ _ => 0
  | .pget _ _ _ => 0
  | .pcnt _ _ _ => 0
  | .jr _ _ _ => 0
  | .callr _ _ _ => 0
  | .ret _ _ _ => 0
  | .hint _ _ => 14
  | .vadd _ _ _ => 1
  | .vsub _ _ _ => 1
  | .vmul _ _ _ => 1
  | .vfma _ _ _ => 1
  | .vmin _ _ _ => 1
  | .vmax _ _ _ => 1
  | .vabs _ _ _ => 1
  | .vneg _ _ _ => 1
  | .vand _ _ _ => 1
  | .vor _ _ _ => 1
  | .vxor _ _ _ => 1
  | .vnot _ _ _ => 1
  | .vshl _ _ _ => 1
  | .vshr _ _ _ => 1
  | .vsra _ _ _ => 1
  | .vsel _ _ _ => 1
  | .vcmp _ _ _ _ => 1
  | .vld _ _ _ => 1
  | .vst _ _ _ => 1
  | .vlds _ _ _ => 1
  | .vsts _ _ _ => 1
  | .vgath _ _ _ => 1
  | .vscat _ _ _ => 1
  | .vbcast _ _ _ => 1
  | .vext _ _ _ => 1
  | .vins _ _ _ => 1
  | .vperm _ _ _ => 1
  | .vredadd _ _ _ => 1
  | .vredmin _ _ _ => 1
  | .vredmax _ _ _ => 1
  | .viota _ _ _ => 1
  | .vbind _ _ _ => 1
  | .vunbind _ _ _ => 1
  | .vstat _ _ _ => 1
  | .vcvt _ _ _ _ => 1
  | .mmaRing _ _ _ => 2
  | .mmaHold _ _ _ => 2
  | .mmv _ _ _ => 2
  | .mldb _ _ _ => 2
  | .mpass _ _ _ => 2
  | .mzero _ _ _ => 2
  | .mst _ _ _ => 2
  | .mld _ _ _ => 2
  | .mrow _ _ _ => 2
  | .mwait _ _ _ => 2
  | .mbankSel _ _ _ => 2
  | .mbankSpill _ _ _ => 2
  | .mbankFill _ _ _ => 2
  | .gint _ _ _ => 3
  | .guni _ _ _ => 3
  | .gsub _ _ _ => 3
  | .gset _ _ _ => 3
  | .gempty _ _ _ => 3
  | .gbox _ _ _ => 3
  | .glat _ _ _ => 3
  | .grag _ _ _ => 3
  | .gdil _ _ _ => 3
  | .gshift _ _ _ => 3
  | .gproj _ _ _ => 3
  | .gsplit _ _ _ => 3
  | .gcanon _ _ _ => 3
  | .gld _ _ _ => 3
  | .gst _ _ _ => 3
  | .gcnt _ _ _ => 3
  | .gvol _ _ _ => 3
  | .grdbox _ _ _ => 3
  | .gtest _ _ _ => 3
  | .geq _ _ _ => 3
  | .aadd _ _ _ => 4
  | .aand _ _ _ => 4
  | .aor _ _ _ => 4
  | .axor _ _ _ => 4
  | .amin _ _ _ => 4
  | .amax _ _ _ => 4
  | .aminu _ _ _ => 4
  | .amaxu _ _ _ => 4
  | .aswap _ _ _ => 4
  | .acas _ _ _ => 4
  | .afadd _ _ _ => 4
  | .afaddcp _ _ _ => 4
  | .lds _ _ _ => 4
  | .sts _ _ _ => 4
  | .trn _ _ _ => 4
  | .stq _ _ _ => 4
  | .autld _ _ _ => 4
  | .prefLine _ _ => 4
  | .prefRegion _ _ => 4
  | .invl1All _ _ => 4
  | .invl1Line _ _ => 4
  | .send _ _ _ => 5
  | .ctradd _ _ _ => 5
  | .ctrrd _ _ _ => 5
  | .cwait _ _ _ => 5
  | .wtarm _ _ _ => 5
  | .wtdis _ _ _ => 5
  | .spawn _ _ _ => 5
  | .start _ _ _ => 5
  | .hjoin _ _ _ => 5
  | .susp _ _ _ => 5
  | .dqpush _ _ _ => 5
  | .dqpop _ _ _ => 5
  | .dqsteal _ _ _ => 5
  | .bsetcRel _ _ => 5
  | .bsetcReg _ _ => 5
  | .bgrant _ _ _ => 5
  | .byield _ _ _ => 5
  | .btop _ _ _ => 5
  | .arrive _ _ _ => 5
  | .bwait _ _ _ => 5
  | .bstat _ _ _ => 5
  | .copy _ _ _ => 6
  | .ewait _ _ _ => 6
  | .etest _ _ _ => 6
  | .gpool _ _ _ => 6
  | .xred _ _ _ => 6
  | .xbcast _ _ _ => 6
  | .xgath _ _ _ => 6
  | .chunkrd _ _ _ => 6
  | .collectiveRequest _ => 0
  | .hpoffer _ _ _ => 6
  | .hpread _ _ _ => 6
  | .rcinc _ _ _ => 6
  | .rcsnap _ _ _ => 6
  | .sysc _ _ => 7
  | .tret _ _ _ => 7
  | .ctxsvCtx _ _ => 7
  | .ctxsvCell _ _ => 7
  | .ctxsvTile _ _ => 7
  | .ctxldCtx _ _ => 7
  | .ctxldCell _ _ => 7
  | .ctxldTile _ _ => 7
  | .ctxldReg _ _ => 7
  | .chordConfigWrite _ _ _ _ => 0
  | .pmreqCtx _ _ => 7
  | .pmreqStop _ _ => 7
  | .pmreqGo _ _ => 7
  | .pmreqFrame _ _ => 7
  | .gangstopStop _ _ => 7
  | .gangstopRestart _ _ => 7
  | .tlbinv _ _ _ => 7
  | .regrd _ _ _ => 7
  | .wdset _ _ _ => 7
  | .answerRetry _ _ => 0
  | .answerRefuse _ _ => 0
  | .answerLongService _ _ => 0
  | .fadd _ _ _ => 8
  | .fsub _ _ _ => 8
  | .fmul _ _ _ => 8
  | .fdiv _ _ _ => 8
  | .fsqrt _ _ _ => 8
  | .fma _ _ _ => 8
  | .fmin _ _ _ => 8
  | .fmax _ _ _ => 8
  | .fabs _ _ _ => 8
  | .fneg _ _ _ => 8
  | .fcmp _ _ _ _ => 8
  | .fcvt _ _ _ _ => 8
  | .fclass _ _ _ => 8
  | .fqnt _ _ _ => 8
  | .wptrWrite _ _ => 0
  | .qsizeWrite _ _ => 0
  | .hostRegisterWrite _ _ => 0
  | .mdataWrite _ => 0
  | .anonceWrite _ => 0
  | .linkCrcResend _ _ _ => 0
  | .illegalInstruction _ => 0
  | .moduleBecomesReachable _ => 0
  | .powerLoss _ => 0
  | .hostMemoryAccess _ => 0
  | .poolBackInvalidate _ _ => 0
  | .remoteRequestArrival _ => 0
  | .yieldPassEnd => 0
  | .loadComplete => 0
  | .budgetYield => 0
  | .vectorComplete => 0
  | .arbiterWindow => 0
  | .streamUnitFetch => 0
  | .streamUnitWrite => 0
  | .matrixStepRetire => 0
  | .handoffLand => 0
  | .parkedStepRetry => 0
  | .longParkConversion => 0
  | .tlbMissWalk => 0
  | .messageDelivery => 0
  | .joinIncrement => 0
  | .spawnEnqueue => 0
  | .firedPendingEnqueue => 0
  | .dispatch => 0
  | .engineChunkPerformed => 0
  | .engineCompletion => 0
  | .switchInRestore => 0
  | .moduleReset => 0
  | .recoveryGo => 0
  | .cmdNoop => 0
  | .cmdLaunch => 0
  | .launchEnd => 0
  | .cmdSignal => 0
  | .cmdWait => 0
  | .attestationReportReady => 0
  | .pstateFull => 0
  | .pstatePartitionOff => 0
  | .pstateIdle => 0
  | .arbiterGrant => 0
  | .storePerformed => 0
  | .stopUnitReached => 0

/-- The s, g and acc registers that an instruction names (03 R55 and each description). -/
def operands : Instr → List Operand
  | .nop _ _ _ => []
  | .fence _ _ _ => []
  | .yield _ _ _ => []
  | .exit _ _ _ => []
  | .trap p _ a => [.s (p.an a)]
  | .brk _ _ => []
  | .mfs p d _ => [.s (p.dn d)]
  | .mts p d _ => [.s (p.dn d)]
  | .rdcyc p d _ => [.s (p.dn d)]
  | .add p d a => p.rrr d a
  | .sub p d a => p.rrr d a
  | .and p d a => p.rrr d a
  | .or p d a => p.rrr d a
  | .xor p d a => p.rrr d a
  | .sll p d a => p.rrr d a
  | .srl p d a => p.rrr d a
  | .sra p d a => p.rrr d a
  | .mul p d a => p.rrr d a
  | .mulh p d a => p.rrr d a
  | .mulhu p d a => p.rrr d a
  | .min p d a => p.rrr d a
  | .max p d a => p.rrr d a
  | .minu p d a => p.rrr d a
  | .maxu p d a => p.rrr d a
  | .mov p d a => [.s (p.dn d), .s (p.an a)]
  | .div p d a => p.rrr d a
  | .divu p d a => p.rrr d a
  | .rem p d a => p.rrr d a
  | .remu p d a => p.rrr d a
  | .clz p d a => [.s (p.dn d), .s (p.an a)]
  | .ctz p d a => [.s (p.dn d), .s (p.an a)]
  | .popc p d a => [.s (p.dn d), .s (p.an a)]
  | .sextb p d a => [.s (p.dn d), .s (p.an a)]
  | .sexth p d a => [.s (p.dn d), .s (p.an a)]
  | .sextw p d a => [.s (p.dn d), .s (p.an a)]
  | .zextb p d a => [.s (p.dn d), .s (p.an a)]
  | .zexth p d a => [.s (p.dn d), .s (p.an a)]
  | .zextw p d a => [.s (p.dn d), .s (p.an a)]
  | .bswap p d a => [.s (p.dn d), .s (p.an a)]
  | .addw p d a => p.rrr d a
  | .subw p d a => p.rrr d a
  | .addi _ d _ => [.s d.toNat]
  | .li _ d _ => [.s d.toNat]
  | .cmp p d a _ => p.rr d a
  | .cmpi p a _ _ => [.s (p.an a)]
  | .ld p d a _ => [.s (p.dn d), .s (p.an a)]
  | .st p d a _ => [.s (p.dn d), .s (p.an a)]
  | .lb p d a => [.s (p.dn d), .s (p.an a)]
  | .lbu p d a => [.s (p.dn d), .s (p.an a)]
  | .lh p d a => [.s (p.dn d), .s (p.an a)]
  | .lhu p d a => [.s (p.dn d), .s (p.an a)]
  | .lw p d a => [.s (p.dn d), .s (p.an a)]
  | .lwu p d a => [.s (p.dn d), .s (p.an a)]
  | .sb p d a => [.s (p.dn d), .s (p.an a)]
  | .sh p d a => [.s (p.dn d), .s (p.an a)]
  | .sw p d a => [.s (p.dn d), .s (p.an a)]
  | .b _ _ => []
  | .bt _ _ => []
  | .bf _ _ => []
  | .call _ _ => []
  | .j _ _ => []
  | .pend _ _ _ => []
  | .pelse _ _ _ => []
  | .pand _ _ _ => []
  | .por _ _ _ => []
  | .pdup _ _ _ => []
  | .pset p _ a => [.s (p.an a)]
  | .pget p d _ => [.s (p.dn d)]
  | .pcnt p d _ => [.s (p.dn d)]
  | .jr p _ a => [.s (p.an a)]
  | .callr p _ a => [.s (p.an a)]
  | .ret _ _ _ => []
  | .hint _ _ => []
  | .vadd _ _ _ => []
  | .vsub _ _ _ => []
  | .vmul _ _ _ => []
  | .vfma _ _ _ => []
  | .vmin _ _ _ => []
  | .vmax _ _ _ => []
  | .vabs _ _ _ => []
  | .vneg _ _ _ => []
  | .vand _ _ _ => []
  | .vor _ _ _ => []
  | .vxor _ _ _ => []
  | .vnot _ _ _ => []
  | .vshl _ _ _ => []
  | .vshr _ _ _ => []
  | .vsra _ _ _ => []
  | .vsel _ _ _ => []
  | .vcmp _ _ _ _ => []
  | .vld p _ a => [.s (p.an a)]
  | .vst p _ a => [.s (p.an a)]
  | .vlds p _ a => [.s (p.an a), .s p.en]
  | .vsts p _ a => [.s (p.an a), .s p.en]
  | .vgath p _ a => [.s (p.an a)]
  | .vscat p _ a => [.s (p.an a)]
  | .vbcast p _ a => [.s (p.an a)]
  | .vext p d _ => [.s (p.dn d)]
  | .vins p _ a => [.s (p.an a)]
  | .vperm _ _ _ => []
  | .vredadd _ _ _ => []
  | .vredmin _ _ _ => []
  | .vredmax _ _ _ => []
  | .viota _ _ _ => []
  | .vbind p _ a => [.s (p.an a)]
  | .vunbind _ _ _ => []
  | .vstat p d _ => [.s (p.dn d)]
  | .vcvt _ _ _ _ => []
  | .mmaRing p d a => [.acc (p.dn d), .s (p.an a)]
  | .mmaHold p d a => [.acc (p.dn d), .s (p.an a)]
  | .mmv p d _ => [.acc (p.dn d)]
  | .mldb p _ a => [.s (p.an a)]
  | .mpass _ _ _ => []
  | .mzero p d _ => [.acc (p.dn d)]
  | .mst p d a => [.acc (p.dn d), .s (p.an a)]
  | .mld p d a => [.acc (p.dn d), .s (p.an a)]
  | .mrow p d _ => [.acc (p.dn d)]
  | .mwait _ _ _ => []
  | .mbankSel p _ a => [.s (p.an a)]
  | .mbankSpill p _ a => [.s (p.an a)]
  | .mbankFill p _ a => [.s (p.an a)]
  | .gint p d a => p.ggg d a
  | .guni p d a => p.ggg d a
  | .gsub p d a => p.ggg d a
  | .gset p d a => [.g (p.dn d), .s (p.an a)]
  | .gempty p d a => [.g (p.dn d), .s (p.an a)]
  | .gbox p d a => .g (p.dn d) :: p.vec (p.an a) 1 ++ p.vec p.en (if p.wide then 3 else 2)
  | .glat p d a => .g (p.dn d) :: p.vec (p.an a) 1 ++ p.vec p.en 1
  | .grag p d a => .g (p.dn d) :: .s (p.an a) :: p.vec p.en 3
  | .gdil p d a => .g (p.dn d) :: .g (p.an a) :: p.vec p.en 1
  | .gshift p d a => .g (p.dn d) :: .g (p.an a) :: p.vec p.en 1
  | .gproj p d a => [.g (p.dn d), .g (p.an a)]
  | .gsplit p d a => [.g (p.dn d), .g (p.an a), .s p.en]
  | .gcanon p d a => [.g (p.dn d), .g (p.an a)]
  | .gld p d a => [.g (p.dn d), .s (p.an a)]
  | .gst p d a => [.g (p.dn d), .s (p.an a)]
  | .gcnt p d a => [.s (p.dn d), .g (p.an a)]
  | .gvol p d a => [.s (p.dn d), .g (p.an a)]
  | .grdbox p d a => [.s (p.dn d), .s (p.dn d + 5), .g (p.an a)]
  | .gtest p _ a => .g (p.an a) :: p.testOp
  | .geq p d a => [.g (p.dn d), .g (p.an a)]
  | .aadd p d a => [.s (p.dn d), .s (p.an a), .s p.en]
  | .aand p d a => [.s (p.dn d), .s (p.an a), .s p.en]
  | .aor p d a => [.s (p.dn d), .s (p.an a), .s p.en]
  | .axor p d a => [.s (p.dn d), .s (p.an a), .s p.en]
  | .amin p d a => [.s (p.dn d), .s (p.an a), .s p.en]
  | .amax p d a => [.s (p.dn d), .s (p.an a), .s p.en]
  | .aminu p d a => [.s (p.dn d), .s (p.an a), .s p.en]
  | .amaxu p d a => [.s (p.dn d), .s (p.an a), .s p.en]
  | .aswap p d a => [.s (p.dn d), .s (p.an a), .s p.en]
  | .acas p d a => [.s (p.dn d), .s (p.an a), .s p.en]
  | .afadd p d a => [.s (p.dn d), .s (p.an a), .s p.en]
  | .afaddcp p d a => [.s (p.dn d), .s (p.an a), .s p.en]
  | .lds p d a => [.s (p.dn d), .g (p.an a), .s p.en]
  | .sts p d a => [.s (p.dn d), .g (p.an a), .s p.en]
  | .trn p _ a => [.g (p.an a)]
  | .stq p d a => [.s (p.dn d), .g (p.an a), .s p.en]
  | .autld p _ a => [.s (p.an a)]
  | .prefLine p a => [.s (p.an a)]
  | .prefRegion p a => [.g (p.an a)]
  | .invl1All _ _ => []
  | .invl1Line p a => [.s (p.an a)]
  | .send p d a => [.s (p.dn d), .s (p.an a)]
  | .ctradd p d a => [.s (p.dn d), .s (p.an a)]
  | .ctrrd p d a => [.s (p.dn d), .s (p.an a)]
  | .cwait p d a => [.s (p.dn d), .s (p.an a)]
  | .wtarm p d a => [.s (p.dn d), .s (p.an a)]
  | .wtdis p d _ => [.s (p.dn d)]
  | .spawn p d a => [.s (p.dn d), .s (p.an a)]
  | .start p d a => [.s (p.dn d), .s (p.an a), .s p.en]
  | .hjoin p _ a => [.s (p.an a)]
  | .susp p d _ => [.s (p.dn d)]
  | .dqpush p d a => [.s (p.dn d), .s (p.an a)]
  | .dqpop p d a => [.s (p.dn d), .s (p.an a)]
  | .dqsteal p d a => [.s (p.dn d), .s (p.an a)]
  | .bsetcRel _ _ => []
  | .bsetcReg p a => [.s (p.an a)]
  | .bgrant p d a => [.s (p.dn d), .s (p.an a)]
  | .byield _ _ _ => []
  | .btop p d a => [.s (p.dn d), .s (p.an a)]
  | .arrive p _ a => [.s (p.an a)]
  | .bwait p d a => [.s (p.dn d), .s (p.an a)]
  | .bstat p d a => [.s (p.dn d), .s (p.an a)]
  | .copy p d a => [.g (p.dn d), .g (p.an a), .s p.en]
  | .ewait p d a => [.s (p.dn d), .s (p.an a)]
  | .etest p d a => [.s (p.dn d), .s (p.an a)]
  | .gpool p d a => [.g (p.dn d), .g (p.an a), .s p.en]
  | .xred p d a => [.g (p.dn d), .g (p.an a), .s p.en]
  | .xbcast p d a => [.g (p.dn d), .g (p.an a), .s p.en]
  | .xgath p d a => [.g (p.dn d), .g (p.an a), .s p.en]
  | .chunkrd p d a => [.s (p.dn d), .s (p.an a)]
  | .collectiveRequest _ => []
  | .hpoffer p d a => [.s (p.dn d), .s (p.an a), .s p.en]
  | .hpread p d a => [.s (p.dn d), .s (p.an a), .s p.en]
  | .rcinc p d a => [.s (p.dn d), .s (p.an a), .s p.en]
  | .rcsnap p d a => [.s (p.dn d), .s (p.an a)]
  | .sysc _ _ => []
  | .tret _ _ _ => []
  | .ctxsvCtx p a => [.s (p.an a), .s p.en]
  | .ctxsvCell p a => [.s (p.an a), .s p.en]
  | .ctxsvTile p a => [.s (p.an a), .s p.en]
  | .ctxldCtx p a => [.s (p.an a), .s p.en]
  | .ctxldCell p a => [.s (p.an a), .s p.en]
  | .ctxldTile p a => [.s (p.an a), .s p.en]
  | .ctxldReg p a => [.s (p.an a), .s p.en]
  | .chordConfigWrite _ _ _ _ => []
  | .pmreqCtx p a => [.s (p.an a)]
  | .pmreqStop p a => [.s (p.an a)]
  | .pmreqGo p a => [.s (p.an a)]
  | .pmreqFrame p a => [.s (p.an a), .s p.en]
  | .gangstopStop p a => [.s (p.an a), .s p.en]
  | .gangstopRestart p a => [.s (p.an a), .s p.en]
  | .tlbinv p d a => [.s (p.dn d), .s (p.an a), .s p.en]
  | .regrd p d a => [.s (p.dn d), .s (p.an a)]
  | .wdset _ _ a => [.s (a.toNat + 1)]
  | .answerRetry _ _ => []
  | .answerRefuse _ _ => []
  | .answerLongService _ _ => []
  | .fadd p d a => p.rrr d a
  | .fsub p d a => p.rrr d a
  | .fmul p d a => p.rrr d a
  | .fdiv p d a => p.rrr d a
  | .fsqrt p d a => [.s (p.dn d), .s (p.an a)]
  | .fma p d a => [.s (p.dn d), .s (p.an a), .s p.en]
  | .fmin p d a => p.rrr d a
  | .fmax p d a => p.rrr d a
  | .fabs p d a => [.s (p.dn d), .s (p.an a)]
  | .fneg p d a => [.s (p.dn d), .s (p.an a)]
  | .fcmp p d a _ => p.rr d a
  | .fcvt _ d a _ => [.s d.toNat, .s a.toNat]
  | .fclass p d a => [.s (p.dn d), .s (p.an a)]
  | .fqnt p d a => [.s (p.dn d), .s (p.an a), .s p.en]
  | .wptrWrite _ _ => []
  | .qsizeWrite _ _ => []
  | .hostRegisterWrite _ _ => []
  | .mdataWrite _ => []
  | .anonceWrite _ => []
  | .linkCrcResend _ _ _ => []
  | .illegalInstruction _ => []
  | .moduleBecomesReachable _ => []
  | .powerLoss _ => []
  | .hostMemoryAccess _ => []
  | .poolBackInvalidate _ _ => []
  | .remoteRequestArrival _ => []
  | .yieldPassEnd => []
  | .loadComplete => []
  | .budgetYield => []
  | .vectorComplete => []
  | .arbiterWindow => []
  | .streamUnitFetch => []
  | .streamUnitWrite => []
  | .matrixStepRetire => []
  | .handoffLand => []
  | .parkedStepRetry => []
  | .longParkConversion => []
  | .tlbMissWalk => []
  | .messageDelivery => []
  | .joinIncrement => []
  | .spawnEnqueue => []
  | .firedPendingEnqueue => []
  | .dispatch => []
  | .engineChunkPerformed => []
  | .engineCompletion => []
  | .switchInRestore => []
  | .moduleReset => []
  | .recoveryGo => []
  | .cmdNoop => []
  | .cmdLaunch => []
  | .launchEnd => []
  | .cmdSignal => []
  | .cmdWait => []
  | .attestationReportReady => []
  | .pstateFull => []
  | .pstatePartitionOff => []
  | .pstateIdle => []
  | .arbiterGrant => []
  | .storePerformed => []
  | .stopUnitReached => []

/-- Type, format and size codes that an instruction accepts (03 R63, R65, R70), and limits on its own fields:
R211, R216, R231, R238, R59. R55 joins d4 to d for a register alone; of the d fields that name no register MBANK's bank is read
as d4:d, and the forms of PREF, INVL1, BSETC, CTXSV, CTXLD, PMREQ and GANGSTOP and the window of WDSET as the four bits of d (DESIGN
CHOICE, log entry 34). -/
def codeOk : Instr → Bool
  | .nop _ _ _ => true
  | .fence _ _ _ => true
  | .yield _ _ _ => true
  | .exit _ _ _ => true
  | .trap _ _ _ => true
  | .brk _ _ => true
  | .mfs _ _ _ => true
  | .mts _ _ _ => true
  | .rdcyc _ _ _ => true
  | .add _ _ _ => true
  | .sub _ _ _ => true
  | .and _ _ _ => true
  | .or _ _ _ => true
  | .xor _ _ _ => true
  | .sll _ _ _ => true
  | .srl _ _ _ => true
  | .sra _ _ _ => true
  | .mul _ _ _ => true
  | .mulh _ _ _ => true
  | .mulhu _ _ _ => true
  | .min _ _ _ => true
  | .max _ _ _ => true
  | .minu _ _ _ => true
  | .maxu _ _ _ => true
  | .mov _ _ _ => true
  | .div _ _ _ => true
  | .divu _ _ _ => true
  | .rem _ _ _ => true
  | .remu _ _ _ => true
  | .clz _ _ _ => true
  | .ctz _ _ _ => true
  | .popc _ _ _ => true
  | .sextb _ _ _ => true
  | .sexth _ _ _ => true
  | .sextw _ _ _ => true
  | .zextb _ _ _ => true
  | .zexth _ _ _ => true
  | .zextw _ _ _ => true
  | .bswap _ _ _ => true
  | .addw _ _ _ => true
  | .subw _ _ _ => true
  | .addi _ _ _ => true
  | .li _ _ _ => true
  | .cmp _ _ _ _ => true
  | .cmpi _ _ _ _ => true
  | .ld _ _ _ _ => true
  | .st _ _ _ _ => true
  | .lb _ _ _ => true
  | .lbu _ _ _ => true
  | .lh _ _ _ => true
  | .lhu _ _ _ => true
  | .lw _ _ _ => true
  | .lwu _ _ _ => true
  | .sb _ _ _ => true
  | .sh _ _ _ => true
  | .sw _ _ _ => true
  | .b _ _ => true
  | .bt _ _ => true
  | .bf _ _ => true
  | .call _ _ => true
  | .j _ _ => true
  | .pend _ _ _ => true
  | .pelse _ _ _ => true
  | .pand _ _ _ => true
  | .por _ _ _ => true
  | .pdup _ _ _ => true
  | .pset _ _ _ => true
  | .pget _ _ _ => true
  | .pcnt _ _ _ => true
  | .jr _ _ _ => true
  | .callr _ _ _ => true
  | .ret _ _ _ => true
  | .hint p w => (p.page == 14 || p.page == 15) && w.extractLsb' 12 4 != 15#4 && !(w.extractLsb' 12 4 == 0#4 && w.extractLsb' 0 4 == 0#4)
  | .vadd _ _ _ => true
  | .vsub _ _ _ => true
  | .vmul _ _ _ => true
  | .vfma _ _ _ => true
  | .vmin _ _ _ => true
  | .vmax _ _ _ => true
  | .vabs _ _ _ => true
  | .vneg _ _ _ => true
  | .vand _ _ _ => true
  | .vor _ _ _ => true
  | .vxor _ _ _ => true
  | .vnot _ _ _ => true
  | .vshl _ _ _ => true
  | .vshr _ _ _ => true
  | .vsra _ _ _ => true
  | .vsel _ _ _ => true
  | .vcmp _ _ _ c => decide (c.toNat < 6)
  | .vld _ _ _ => true
  | .vst _ _ _ => true
  | .vlds _ _ _ => true
  | .vsts _ _ _ => true
  | .vgath _ _ _ => true
  | .vscat _ _ _ => true
  | .vbcast _ _ _ => true
  | .vext _ _ _ => true
  | .vins _ _ _ => true
  | .vperm _ _ _ => true
  | .vredadd _ _ _ => true
  | .vredmin _ _ _ => true
  | .vredmax _ _ _ => true
  | .viota _ _ _ => true
  | .vbind p d _ => decide (28 ≤ p.dn d)
  | .vunbind p d _ => decide (28 ≤ p.dn d)
  | .vstat _ _ _ => true
  | .vcvt _ _ _ _ => true
  | .mmaRing p _ _ => p.fx53 != 7#3
  | .mmaHold p _ _ => p.fx53 != 7#3
  | .mmv p _ _ => p.fx53 == 2#3
  | .mldb p _ _ => p.fx53 != 7#3
  | .mpass p _ _ => p.fx53 != 7#3
  | .mzero p _ _ => p.fx53 != 7#3
  | .mst p _ _ => p.fx53 != 7#3
  | .mld p _ _ => p.fx53 != 7#3
  | .mrow p _ _ => p.fx53 != 7#3
  | .mwait p _ _ => p.fx53 != 7#3
  | .mbankSel p d _ => p.fx53 != 7#3 && decide (p.dn d < 2)
  | .mbankSpill p d _ => p.fx53 != 7#3 && decide (p.dn d < 2)
  | .mbankFill p d _ => p.fx53 != 7#3 && decide (p.dn d < 2)
  | .gint _ _ _ => true
  | .guni _ _ _ => true
  | .gsub _ _ _ => true
  | .gset _ _ _ => true
  | .gempty _ _ _ => true
  | .gbox _ _ _ => true
  | .glat _ _ _ => true
  | .grag _ _ _ => true
  | .gdil _ _ _ => true
  | .gshift _ _ _ => true
  | .gproj _ _ _ => true
  | .gsplit _ _ _ => true
  | .gcanon _ _ _ => true
  | .gld _ _ _ => true
  | .gst _ _ _ => true
  | .gcnt _ _ _ => true
  | .gvol _ _ _ => true
  | .grdbox _ _ _ => true
  | .gtest _ _ _ => true
  | .geq _ _ _ => true
  | .aadd p _ _ => !p.fx.getLsbD 5
  | .aand p _ _ => !p.fx.getLsbD 5
  | .aor p _ _ => !p.fx.getLsbD 5
  | .axor p _ _ => !p.fx.getLsbD 5
  | .amin p _ _ => !p.fx.getLsbD 5
  | .amax p _ _ => !p.fx.getLsbD 5
  | .aminu p _ _ => !p.fx.getLsbD 5
  | .amaxu p _ _ => !p.fx.getLsbD 5
  | .aswap p _ _ => !p.fx.getLsbD 5
  | .acas p _ _ => !p.fx.getLsbD 5
  | .afadd p _ _ => !p.fx.getLsbD 5
  | .afaddcp p _ _ => !p.fx.getLsbD 5
  | .lds _ _ _ => true
  | .sts _ _ _ => true
  | .trn _ _ _ => true
  | .stq _ _ _ => true
  | .autld _ _ _ => true
  | .prefLine _ _ => true
  | .prefRegion _ _ => true
  | .invl1All _ _ => true
  | .invl1Line _ _ => true
  | .send _ _ _ => true
  | .ctradd _ _ _ => true
  | .ctrrd _ _ _ => true
  | .cwait _ _ _ => true
  | .wtarm _ _ _ => true
  | .wtdis _ _ _ => true
  | .spawn _ _ _ => true
  | .start _ _ _ => true
  | .hjoin _ _ _ => true
  | .susp _ _ _ => true
  | .dqpush _ _ _ => true
  | .dqpop _ _ _ => true
  | .dqsteal _ _ _ => true
  | .bsetcRel _ _ => true
  | .bsetcReg _ _ => true
  | .bgrant _ _ _ => true
  | .byield _ _ _ => true
  | .btop _ _ _ => true
  | .arrive _ _ _ => true
  | .bwait _ _ _ => true
  | .bstat _ _ _ => true
  | .copy _ _ _ => true
  | .ewait _ _ _ => true
  | .etest _ _ _ => true
  | .gpool _ _ _ => true
  | .xred _ _ _ => true
  | .xbcast _ _ _ => true
  | .xgath _ _ _ => true
  | .chunkrd _ _ _ => true
  | .collectiveRequest _ => true
  | .hpoffer _ _ _ => true
  | .hpread _ _ _ => true
  | .rcinc _ _ _ => true
  | .rcsnap _ _ _ => true
  | .sysc _ _ => true
  | .tret _ _ _ => true
  | .ctxsvCtx _ _ => true
  | .ctxsvCell _ _ => true
  | .ctxsvTile _ _ => true
  | .ctxldCtx _ _ => true
  | .ctxldCell _ _ => true
  | .ctxldTile _ _ => true
  | .ctxldReg _ _ => true
  | .chordConfigWrite _ _ _ _ => true
  | .pmreqCtx _ _ => true
  | .pmreqStop _ _ => true
  | .pmreqGo _ _ => true
  | .pmreqFrame _ _ => true
  | .gangstopStop _ _ => true
  | .gangstopRestart _ _ => true
  | .tlbinv _ _ _ => true
  | .regrd _ _ _ => true
  | .wdset _ _ _ => true
  | .answerRetry _ _ => true
  | .answerRefuse _ _ => true
  | .answerLongService _ _ => true
  | .fadd _ _ _ => true
  | .fsub _ _ _ => true
  | .fmul _ _ _ => true
  | .fdiv _ _ _ => true
  | .fsqrt _ _ _ => true
  | .fma _ _ _ => true
  | .fmin _ _ _ => true
  | .fmax _ _ _ => true
  | .fabs _ _ _ => true
  | .fneg _ _ _ => true
  | .fcmp _ _ _ _ => true
  | .fcvt _ _ _ _ => true
  | .fclass _ _ _ => true
  | .fqnt _ _ _ => true
  | .wptrWrite _ _ => true
  | .qsizeWrite _ _ => true
  | .hostRegisterWrite _ _ => true
  | .mdataWrite _ => true
  | .anonceWrite _ => true
  | .linkCrcResend _ _ _ => true
  | .illegalInstruction _ => true
  | .moduleBecomesReachable _ => true
  | .powerLoss _ => true
  | .hostMemoryAccess _ => true
  | .poolBackInvalidate _ _ => true
  | .remoteRequestArrival _ => true
  | .yieldPassEnd => true
  | .loadComplete => true
  | .budgetYield => true
  | .vectorComplete => true
  | .arbiterWindow => true
  | .streamUnitFetch => true
  | .streamUnitWrite => true
  | .matrixStepRetire => true
  | .handoffLand => true
  | .parkedStepRetry => true
  | .longParkConversion => true
  | .tlbMissWalk => true
  | .messageDelivery => true
  | .joinIncrement => true
  | .spawnEnqueue => true
  | .firedPendingEnqueue => true
  | .dispatch => true
  | .engineChunkPerformed => true
  | .engineCompletion => true
  | .switchInRestore => true
  | .moduleReset => true
  | .recoveryGo => true
  | .cmdNoop => true
  | .cmdLaunch => true
  | .launchEnd => true
  | .cmdSignal => true
  | .cmdWait => true
  | .attestationReportReady => true
  | .pstateFull => true
  | .pstatePartitionOff => true
  | .pstateIdle => true
  | .arbiterGrant => true
  | .storePerformed => true
  | .stopUnitReached => true

/-- The page that PFX.P must name: the instruction's own; a hint's is judged by `codeOk`. -/
def pageOk (i : Instr) : Bool :=
  match i, i.pfx with
  | .hint _ _, _ => true
  | _, some p => p.page == i.page
  | _, .none => true

/-- At most four prefix words (03 R48). -/
def chainOk (i : Instr) : Bool := match i.pfx with | some p => decide (p.count ≤ 4) | .none => true

/-- A legal instruction (03 R48, R55, R58, R70). -/
def wf (i : Instr) : Bool := i.chainOk && i.pageOk && i.codeOk && i.operands.all Operand.ok

/-- An instruction as an instruction word spells it, not a step of the machine. -/
def isWord (i : Instr) : Bool := i.pfx.isSome

end Instr

end Sys2Proof
end

