-- ==== Sys2Proof/Decode.lean ====
section
/-! DEFINITION. Sys2Proof/Decode.lean: from 16-bit words to an instruction (03 R45 to R71, opcode_table.json), and after it
the encoder, written from the same tables. What is no instruction decodes to `illegalInstruction`, by name. -/

namespace Sys2Proof

namespace Word4

/-- A base word of four nibbles, bits 15:12 first (03 R54). -/
def mk (m d a f : BitVec 4) : Half := m ++ d ++ a ++ f
def n3 (w : Half) : BitVec 4 := w.extractLsb' 12 4
def n2 (w : Half) : BitVec 4 := w.extractLsb' 8 4
def n1 (w : Half) : BitVec 4 := w.extractLsb' 4 4
def n0 (w : Half) : BitVec 4 := w.extractLsb' 0 4

end Word4

open Word4

/-- A word whose bits 15:12 are 0xF is a prefix word (03 R45). -/
def isPrefixWord (w : Half) : Bool := n3 w == 15#4

/-- The state of 03 R49's loop: the prefix state so far, the number of prefix words, the first fault found. -/
structure Gather where
  p   : Pfx
  k   : Nat
  bad : Option (BitVec 3 × Half)
  deriving DecidableEq, Repr

def Gather.start : Gather := ⟨Pfx.none, 0, .none⟩

/-- Record the first fault of a chain (03 R49: `bad = 0`). -/
def Gather.fail (g : Gather) (w : Half) : Gather :=
  match g.bad with
  | some _ => g
  | .none => { g with bad := some (BitVec.ofNat 3 g.k, w) }

/-- One prefix word joins the chain (03 R46, R47, R49). -/
def Gather.add (g0 : Gather) (w : Half) : Gather :=
  let g := { g0 with k := g0.k + 1 }
  let pay := w.extractLsb' 0 10
  match (w.extractLsb' 10 2).toNat with
  | 0 => { g with p := { g.p with imms := g.p.imms ++ [pay] } }
  | 1 =>
    let g := if g.p.r.isSome then g.fail w else g
    { g with p := { g.p with r := some ⟨pay.extractLsb' 5 5, pay.getLsbD 4, pay.getLsbD 3⟩ } }
  | 2 =>
    let g := if g.p.p.isSome then g.fail w else g
    { g with p := { g.p with p := some (pay.extractLsb' 6 4, pay.extractLsb' 0 6) } }
  | _ =>
    match (pay.extractLsb' 8 2).toNat with
    | 0 =>
      let g := if g.p.order.isSome then g.fail w else g
      { g with p := { g.p with order := some ⟨pay.extractLsb' 5 3, pay.extractLsb' 3 2⟩ } }
    | 1 =>
      let g := if g.p.stage.isSome then g.fail w else g
      { g with p := { g.p with stage := some (pay.extractLsb' 4 4) } }
    | 2 =>
      let g := if g.p.arith.isSome then g.fail w else g
      { g with p := { g.p with arith := some ⟨pay.getLsbD 7, pay.extractLsb' 4 3⟩ } }
    | _ =>
      let g := if g.p.guard.isSome then g.fail w else g
      { g with p := { g.p with guard := some ⟨pay.getLsbD 7, pay.extractLsb' 4 3⟩ } }

/-- What 03 R49 makes of the words at pc. -/
inductive Gathered where
  /-- A legal chain: its prefix state, the number of prefix words and the base word. -/
  | ok (p : Pfx) (k : Nat) (base : Half)
  /-- An illegal chain: position and word of the first fault (R48). -/
  | bad (pos : BitVec 3) (w : Half)
  /-- More words are needed. -/
  | more
  deriving DecidableEq, Repr

/-- 03 R49: gather prefixes up to the base word; a fifth prefix ends the loop. -/
def gather : Gather → List Half → Gathered
  | _, [] => .more
  | g, w :: ws =>
    if isPrefixWord w then
      if g.k = 4 then
        match g.bad with
        | some (pos, b) => .bad pos b
        | .none => .bad 5#3 w
      else gather (g.add w) ws
    else
      match g.bad with
      | some (pos, b) => .bad pos b
      | .none => .ok g.p g.k w


/-- Page 0 (03 Tables 03-5 to 03-13): the instruction of a base word, `none` for an unlisted one. -/
def decodePage0 (p : Pfx) (w : Half) : Option Instr :=
  match (n3 w).toNat with
  | 0 => match (n0 w).toNat with
    | 1 => some (.nop p (n2 w) (n1 w))
    | 2 => some (.fence p (n2 w) (n1 w))
    | 3 => some (.yield p (n2 w) (n1 w))
    | 4 => some (.exit p (n2 w) (n1 w))
    | 5 => some (.trap p (n2 w) (n1 w))
    | 6 => some (.brk p (n2 w ++ n1 w))
    | 7 => some (.mfs p (n2 w) (n1 w))
    | 8 => some (.mts p (n2 w) (n1 w))
    | 9 => some (.rdcyc p (n2 w) (n1 w))
    | _ => none
  | 1 => match (n0 w).toNat with
    | 0 => some (.add p (n2 w) (n1 w))
    | 1 => some (.sub p (n2 w) (n1 w))
    | 2 => some (.and p (n2 w) (n1 w))
    | 3 => some (.or p (n2 w) (n1 w))
    | 4 => some (.xor p (n2 w) (n1 w))
    | 5 => some (.sll p (n2 w) (n1 w))
    | 6 => some (.srl p (n2 w) (n1 w))
    | 7 => some (.sra p (n2 w) (n1 w))
    | 8 => some (.mul p (n2 w) (n1 w))
    | 9 => some (.mulh p (n2 w) (n1 w))
    | 10 => some (.mulhu p (n2 w) (n1 w))
    | 11 => some (.min p (n2 w) (n1 w))
    | 12 => some (.max p (n2 w) (n1 w))
    | 13 => some (.minu p (n2 w) (n1 w))
    | 14 => some (.maxu p (n2 w) (n1 w))
    | 15 => some (.mov p (n2 w) (n1 w))
    | _ => none
  | 2 => match (n0 w).toNat with
    | 0 => some (.div p (n2 w) (n1 w))
    | 1 => some (.divu p (n2 w) (n1 w))
    | 2 => some (.rem p (n2 w) (n1 w))
    | 3 => some (.remu p (n2 w) (n1 w))
    | 4 => some (.clz p (n2 w) (n1 w))
    | 5 => some (.ctz p (n2 w) (n1 w))
    | 6 => some (.popc p (n2 w) (n1 w))
    | 7 => some (.sextb p (n2 w) (n1 w))
    | 8 => some (.sexth p (n2 w) (n1 w))
    | 9 => some (.sextw p (n2 w) (n1 w))
    | 10 => some (.zextb p (n2 w) (n1 w))
    | 11 => some (.zexth p (n2 w) (n1 w))
    | 12 => some (.zextw p (n2 w) (n1 w))
    | 13 => some (.bswap p (n2 w) (n1 w))
    | 14 => some (.addw p (n2 w) (n1 w))
    | 15 => some (.subw p (n2 w) (n1 w))
    | _ => none
  | 3 => some (.addi p (n2 w) (n1 w ++ n0 w))
  | 4 => some (.li p (n2 w) (n1 w ++ n0 w))
  | 5 => if (n0 w).getLsbD 3 then none else some (.cmp p (n2 w) (n1 w) ((n0 w).extractLsb' 0 3))
  | 6 => if (n1 w).getLsbD 3 then none else some (.cmpi p (n2 w) ((n1 w).extractLsb' 0 3) (n0 w))
  | 7 => some (.ld p (n2 w) (n1 w) (n0 w))
  | 8 => some (.st p (n2 w) (n1 w) (n0 w))
  | 9 => match (n0 w).toNat with
    | 0 => some (.lb p (n2 w) (n1 w))
    | 1 => some (.lbu p (n2 w) (n1 w))
    | 2 => some (.lh p (n2 w) (n1 w))
    | 3 => some (.lhu p (n2 w) (n1 w))
    | 4 => some (.lw p (n2 w) (n1 w))
    | 5 => some (.lwu p (n2 w) (n1 w))
    | 6 => some (.sb p (n2 w) (n1 w))
    | 7 => some (.sh p (n2 w) (n1 w))
    | 8 => some (.sw p (n2 w) (n1 w))
    | _ => none
  | 10 => match (n2 w).toNat with
    | 0 => some (.b p (n1 w ++ n0 w))
    | 1 => some (.bt p (n1 w ++ n0 w))
    | 2 => some (.bf p (n1 w ++ n0 w))
    | 3 => some (.call p (n1 w ++ n0 w))
    | _ => none
  | 11 => some (.j p (n2 w ++ n1 w ++ n0 w))
  | 12 => match (n0 w).toNat with
    | 0 => some (.pend p (n2 w) (n1 w))
    | 1 => some (.pelse p (n2 w) (n1 w))
    | 2 => some (.pand p (n2 w) (n1 w))
    | 3 => some (.por p (n2 w) (n1 w))
    | 4 => some (.pdup p (n2 w) (n1 w))
    | 5 => some (.pset p (n2 w) (n1 w))
    | 6 => some (.pget p (n2 w) (n1 w))
    | 7 => some (.pcnt p (n2 w) (n1 w))
    | _ => none
  | 13 => match (n0 w).toNat with
    | 0 => some (.jr p (n2 w) (n1 w))
    | 1 => some (.callr p (n2 w) (n1 w))
    | 2 => some (.ret p (n2 w) (n1 w))
    | _ => none
  | _ => none

/-- Page 1 (03 Tables 03-5 to 03-13): the instruction of a base word, `none` for an unlisted one. -/
def decodePage1 (p : Pfx) (w : Half) : Option Instr :=
  match (n3 w).toNat with
  | 1 => match (n0 w).toNat with
    | 0 => some (.vadd p (n2 w) (n1 w))
    | 1 => some (.vsub p (n2 w) (n1 w))
    | 2 => some (.vmul p (n2 w) (n1 w))
    | 3 => some (.vfma p (n2 w) (n1 w))
    | 4 => some (.vmin p (n2 w) (n1 w))
    | 5 => some (.vmax p (n2 w) (n1 w))
    | 6 => some (.vabs p (n2 w) (n1 w))
    | 7 => some (.vneg p (n2 w) (n1 w))
    | _ => none
  | 2 => match (n0 w).toNat with
    | 0 => some (.vand p (n2 w) (n1 w))
    | 1 => some (.vor p (n2 w) (n1 w))
    | 2 => some (.vxor p (n2 w) (n1 w))
    | 3 => some (.vnot p (n2 w) (n1 w))
    | 4 => some (.vshl p (n2 w) (n1 w))
    | 5 => some (.vshr p (n2 w) (n1 w))
    | 6 => some (.vsra p (n2 w) (n1 w))
    | 7 => some (.vsel p (n2 w) (n1 w))
    | _ => none
  | 3 => some (.vcmp p (n2 w) (n1 w) (n0 w))
  | 4 => match (n0 w).toNat with
    | 0 => some (.vld p (n2 w) (n1 w))
    | 1 => some (.vst p (n2 w) (n1 w))
    | 2 => some (.vlds p (n2 w) (n1 w))
    | 3 => some (.vsts p (n2 w) (n1 w))
    | 4 => some (.vgath p (n2 w) (n1 w))
    | 5 => some (.vscat p (n2 w) (n1 w))
    | _ => none
  | 5 => match (n0 w).toNat with
    | 0 => some (.vbcast p (n2 w) (n1 w))
    | 1 => some (.vext p (n2 w) (n1 w))
    | 2 => some (.vins p (n2 w) (n1 w))
    | 3 => some (.vperm p (n2 w) (n1 w))
    | 4 => some (.vredadd p (n2 w) (n1 w))
    | 5 => some (.vredmin p (n2 w) (n1 w))
    | 6 => some (.vredmax p (n2 w) (n1 w))
    | 7 => some (.viota p (n2 w) (n1 w))
    | _ => none
  | 6 => match (n0 w).toNat with
    | 0 => some (.vbind p (n2 w) (n1 w))
    | 1 => some (.vunbind p (n2 w) (n1 w))
    | 2 => some (.vstat p (n2 w) (n1 w))
    | _ => none
  | 7 => if (n0 w).getLsbD 3 then none else some (.vcvt p (n2 w) (n1 w) ((n0 w).extractLsb' 0 3))
  | _ => none

/-- Page 2 (03 Tables 03-5 to 03-13): the instruction of a base word, `none` for an unlisted one. -/
def decodePage2 (p : Pfx) (w : Half) : Option Instr :=
  match (n3 w).toNat with
  | 1 => match (n0 w).toNat with
    | 0 => some (.mmaRing p (n2 w) (n1 w))
    | 1 => some (.mmaHold p (n2 w) (n1 w))
    | _ => none
  | 2 => match (n0 w).toNat with
    | 0 => some (.mmv p (n2 w) (n1 w))
    | _ => none
  | 3 => match (n0 w).toNat with
    | 0 => some (.mldb p (n2 w) (n1 w))
    | _ => none
  | 4 => match (n0 w).toNat with
    | 0 => some (.mpass p (n2 w) (n1 w))
    | _ => none
  | 5 => match (n0 w).toNat with
    | 0 => some (.mzero p (n2 w) (n1 w))
    | _ => none
  | 6 => match (n0 w).toNat with
    | 0 => some (.mst p (n2 w) (n1 w))
    | _ => none
  | 7 => match (n0 w).toNat with
    | 0 => some (.mld p (n2 w) (n1 w))
    | _ => none
  | 8 => match (n0 w).toNat with
    | 0 => some (.mrow p (n2 w) (n1 w))
    | _ => none
  | 9 => match (n0 w).toNat with
    | 0 => some (.mwait p (n2 w) (n1 w))
    | _ => none
  | 10 => match (n0 w).toNat with
    | 0 => some (.mbankSel p (n2 w) (n1 w))
    | 1 => some (.mbankSpill p (n2 w) (n1 w))
    | 2 => some (.mbankFill p (n2 w) (n1 w))
    | _ => none
  | _ => none

/-- Page 3 (03 Tables 03-5 to 03-13): the instruction of a base word, `none` for an unlisted one. -/
def decodePage3 (p : Pfx) (w : Half) : Option Instr :=
  match (n3 w).toNat with
  | 1 => match (n0 w).toNat with
    | 0 => some (.gint p (n2 w) (n1 w))
    | 1 => some (.guni p (n2 w) (n1 w))
    | 2 => some (.gsub p (n2 w) (n1 w))
    | _ => none
  | 2 => match (n0 w).toNat with
    | 0 => some (.gset p (n2 w) (n1 w))
    | 1 => some (.gempty p (n2 w) (n1 w))
    | 2 => some (.gbox p (n2 w) (n1 w))
    | 3 => some (.glat p (n2 w) (n1 w))
    | 4 => some (.grag p (n2 w) (n1 w))
    | _ => none
  | 3 => match (n0 w).toNat with
    | 0 => some (.gdil p (n2 w) (n1 w))
    | 1 => some (.gshift p (n2 w) (n1 w))
    | 2 => some (.gproj p (n2 w) (n1 w))
    | 3 => some (.gsplit p (n2 w) (n1 w))
    | 4 => some (.gcanon p (n2 w) (n1 w))
    | _ => none
  | 4 => match (n0 w).toNat with
    | 0 => some (.gld p (n2 w) (n1 w))
    | 1 => some (.gst p (n2 w) (n1 w))
    | _ => none
  | 5 => match (n0 w).toNat with
    | 0 => some (.gcnt p (n2 w) (n1 w))
    | 1 => some (.gvol p (n2 w) (n1 w))
    | 2 => some (.grdbox p (n2 w) (n1 w))
    | 3 => some (.gtest p (n2 w) (n1 w))
    | 4 => some (.geq p (n2 w) (n1 w))
    | _ => none
  | _ => none

/-- Page 4 (03 Tables 03-5 to 03-13): the instruction of a base word, `none` for an unlisted one. -/
def decodePage4 (p : Pfx) (w : Half) : Option Instr :=
  match (n3 w).toNat with
  | 1 => match (n0 w).toNat with
    | 0 => some (.aadd p (n2 w) (n1 w))
    | 1 => some (.aand p (n2 w) (n1 w))
    | 2 => some (.aor p (n2 w) (n1 w))
    | 3 => some (.axor p (n2 w) (n1 w))
    | 4 => some (.amin p (n2 w) (n1 w))
    | 5 => some (.amax p (n2 w) (n1 w))
    | 6 => some (.aminu p (n2 w) (n1 w))
    | 7 => some (.amaxu p (n2 w) (n1 w))
    | 8 => some (.aswap p (n2 w) (n1 w))
    | 9 => some (.acas p (n2 w) (n1 w))
    | 10 => some (.afadd p (n2 w) (n1 w))
    | 11 => some (.afaddcp p (n2 w) (n1 w))
    | _ => none
  | 2 => match (n0 w).toNat with
    | 0 => some (.lds p (n2 w) (n1 w))
    | 1 => some (.sts p (n2 w) (n1 w))
    | 2 => some (.trn p (n2 w) (n1 w))
    | 3 => some (.stq p (n2 w) (n1 w))
    | 4 => some (.autld p (n2 w) (n1 w))
    | _ => none
  | 3 => match (n0 w).toNat with
    | 0 => match (n2 w).toNat with
      | 0 => some (.prefLine p (n1 w))
      | 1 => some (.prefRegion p (n1 w))
      | _ => none
    | 1 => match (n2 w).toNat with
      | 0 => some (.invl1All p (n1 w))
      | 1 => some (.invl1Line p (n1 w))
      | _ => none
    | _ => none
  | _ => none

/-- Page 5 (03 Tables 03-5 to 03-13): the instruction of a base word, `none` for an unlisted one. -/
def decodePage5 (p : Pfx) (w : Half) : Option Instr :=
  match (n3 w).toNat with
  | 1 => match (n0 w).toNat with
    | 0 => some (.send p (n2 w) (n1 w))
    | 1 => some (.ctradd p (n2 w) (n1 w))
    | 2 => some (.ctrrd p (n2 w) (n1 w))
    | 3 => some (.cwait p (n2 w) (n1 w))
    | _ => none
  | 2 => match (n0 w).toNat with
    | 0 => some (.wtarm p (n2 w) (n1 w))
    | 1 => some (.wtdis p (n2 w) (n1 w))
    | 2 => some (.spawn p (n2 w) (n1 w))
    | 3 => some (.start p (n2 w) (n1 w))
    | 4 => some (.hjoin p (n2 w) (n1 w))
    | 5 => some (.susp p (n2 w) (n1 w))
    | _ => none
  | 3 => match (n0 w).toNat with
    | 0 => some (.dqpush p (n2 w) (n1 w))
    | 1 => some (.dqpop p (n2 w) (n1 w))
    | 2 => some (.dqsteal p (n2 w) (n1 w))
    | _ => none
  | 4 => match (n0 w).toNat with
    | 0 => match (n2 w).toNat with
      | 0 => some (.bsetcRel p (n1 w))
      | 1 => some (.bsetcReg p (n1 w))
      | _ => none
    | 1 => some (.bgrant p (n2 w) (n1 w))
    | 2 => some (.byield p (n2 w) (n1 w))
    | 3 => some (.btop p (n2 w) (n1 w))
    | _ => none
  | 5 => match (n0 w).toNat with
    | 0 => some (.arrive p (n2 w) (n1 w))
    | 1 => some (.bwait p (n2 w) (n1 w))
    | 2 => some (.bstat p (n2 w) (n1 w))
    | _ => none
  | _ => none

/-- Page 6 (03 Tables 03-5 to 03-13): the instruction of a base word, `none` for an unlisted one. -/
def decodePage6 (p : Pfx) (w : Half) : Option Instr :=
  match (n3 w).toNat with
  | 1 => match (n0 w).toNat with
    | 0 => some (.copy p (n2 w) (n1 w))
    | _ => none
  | 2 => match (n0 w).toNat with
    | 0 => some (.ewait p (n2 w) (n1 w))
    | 1 => some (.etest p (n2 w) (n1 w))
    | _ => none
  | 3 => match (n0 w).toNat with
    | 0 => some (.gpool p (n2 w) (n1 w))
    | _ => none
  | 4 => match (n0 w).toNat with
    | 0 => some (.xred p (n2 w) (n1 w))
    | 1 => some (.xbcast p (n2 w) (n1 w))
    | 2 => some (.xgath p (n2 w) (n1 w))
    | 3 => some (.chunkrd p (n2 w) (n1 w))
    | _ => none
  | 5 => match (n0 w).toNat with
    | 0 => some (.hpoffer p (n2 w) (n1 w))
    | 1 => some (.hpread p (n2 w) (n1 w))
    | 2 => some (.rcinc p (n2 w) (n1 w))
    | 3 => some (.rcsnap p (n2 w) (n1 w))
    | _ => none
  | _ => none

/-- Page 7 (03 Tables 03-5 to 03-13): the instruction of a base word, `none` for an unlisted one. -/
def decodePage7 (p : Pfx) (w : Half) : Option Instr :=
  match (n3 w).toNat with
  | 1 => match (n0 w).toNat with
    | 0 => some (.sysc p (n2 w ++ n1 w))
    | 1 => some (.tret p (n2 w) (n1 w))
    | 2 => match (n2 w).toNat with
      | 0 => some (.ctxsvCtx p (n1 w))
      | 1 => some (.ctxsvCell p (n1 w))
      | 2 => some (.ctxsvTile p (n1 w))
      | _ => none
    | 3 => match (n2 w).toNat with
      | 0 => some (.ctxldCtx p (n1 w))
      | 1 => some (.ctxldCell p (n1 w))
      | 2 => some (.ctxldTile p (n1 w))
      | 3 => some (.ctxldReg p (n1 w))
      | _ => none
    | 4 => match (n2 w).toNat with
      | 0 => some (.pmreqCtx p (n1 w))
      | 1 => some (.pmreqStop p (n1 w))
      | 2 => some (.pmreqGo p (n1 w))
      | 3 => some (.pmreqFrame p (n1 w))
      | _ => none
    | 5 => match (n2 w).toNat with
      | 0 => some (.gangstopStop p (n1 w))
      | 1 => some (.gangstopRestart p (n1 w))
      | _ => none
    | 6 => some (.tlbinv p (n2 w) (n1 w))
    | 7 => some (.regrd p (n2 w) (n1 w))
    | 8 => some (.wdset p (n2 w) (n1 w))
    | _ => none
  | _ => none

/-- Page 8 (03 Tables 03-5 to 03-13): the instruction of a base word, `none` for an unlisted one. -/
def decodePage8 (p : Pfx) (w : Half) : Option Instr :=
  match (n3 w).toNat with
  | 1 => match (n0 w).toNat with
    | 0 => some (.fadd p (n2 w) (n1 w))
    | 1 => some (.fsub p (n2 w) (n1 w))
    | 2 => some (.fmul p (n2 w) (n1 w))
    | 3 => some (.fdiv p (n2 w) (n1 w))
    | 4 => some (.fsqrt p (n2 w) (n1 w))
    | 5 => some (.fma p (n2 w) (n1 w))
    | 6 => some (.fmin p (n2 w) (n1 w))
    | 7 => some (.fmax p (n2 w) (n1 w))
    | 8 => some (.fabs p (n2 w) (n1 w))
    | 9 => some (.fneg p (n2 w) (n1 w))
    | _ => none
  | 2 => if (n0 w).extractLsb' 2 2 != 0#2 then none else some (.fcmp p (n2 w) (n1 w) ((n0 w).extractLsb' 0 2))
  | 3 => if (n0 w).getLsbD 3 then none else some (.fcvt p (n2 w) (n1 w) ((n0 w).extractLsb' 0 3))
  | 4 => match (n0 w).toNat with
    | 0 => some (.fclass p (n2 w) (n1 w))
    | 1 => some (.fqnt p (n2 w) (n1 w))
    | _ => none
  | _ => none

/-- Pages 0 to 8 have instructions, 14 and 15 hints, the others nothing (03 R58, R59). -/
def decodeBase (p : Pfx) (w : Half) : Option Instr :=
  match p.page with
  | 0 => decodePage0 p w
  | 1 => decodePage1 p w
  | 2 => decodePage2 p w
  | 3 => decodePage3 p w
  | 4 => decodePage4 p w
  | 5 => decodePage5 p w
  | 6 => decodePage6 p w
  | 7 => decodePage7 p w
  | 8 => decodePage8 p w
  | 14 => some (.hint p w)
  | 15 => some (.hint p w)
  | _ => none

/-- A legal chain and base word as an instruction; what is not well formed is `illegalInstruction` (03 R58). -/
def judge (p : Pfx) (w : Half) : Instr :=
  match decodeBase p w with
  | some i => if i.wf then i else .illegalInstruction (.word p w)
  | none => .illegalInstruction (.word p w)

/-- The instruction that the words begin with, and how many words it takes; 0 words for an illegal chain (14 R338).
`none` when the words end inside it. -/
def decodeWords (ws : List Half) : Option (Instr × Nat) :=
  match gather Gather.start ws with
  | .ok p k w => some (judge p w, k + 1)
  | .bad pos w => some (.illegalInstruction (.chain pos w), 0)
  | .more => none

/-- Little-endian halfwords of a list of bytes (00 R4); a last odd byte is left out. -/
def halves : List Byte → List Half
  | b0 :: b1 :: bs => (b1 ++ b0) :: halves bs
  | _ => []

/-- Decoding of bytes, total on any list. -/
def decodeBytes (bs : List Byte) : Option (Instr × Nat) := decodeWords (halves bs)

/-- The words that `nbits` and `w` give: 16 bits are one word; of 32 bits, the prefix word stands first at the lower
address. spec/opcode_table.json writes the PFX.P word in bits 31:16 of a row's match, so the half whose bits 15:12 are
0xF is the first word; with none or two such halves, bits 15:0 are (log entry 4). -/
def tableWords (nbits w : Nat) : List Half :=
  let lo := BitVec.ofNat 16 w
  let hi := BitVec.ofNat 16 (w / 65536)
  if nbits ≤ 16 then [lo]
  else if isPrefixWord hi && !isPrefixWord lo then [hi, lo]
  else [lo, hi]

/-- The host's question: what the decoder reads from these bits, followed by words of zeros. -/
def decodeTableWord (nbits w : Nat) : Option Instr :=
  match decodeWords (tableWords nbits w ++ List.replicate 5 0#16) with
  | some (.illegalInstruction _, _) => none
  | some (i, _) => some i
  | none => none

/-! ### The encoder -/

/-- The prefix words of a prefix state, in the order P, R, X by sub-kind, I (02 R35). -/
def Pfx.words (p : Pfx) : List Half :=
  (match p.p with | some (g, f) => [0b111110#6 ++ g ++ f] | .none => [])
  ++ (match p.r with | some r => [0b111101#6 ++ r.e ++ bit 1 r.d4 ++ bit 1 r.a4 ++ 0#3] | .none => [])
  ++ (match p.order with | some o => [0b11111100#8 ++ o.scope ++ o.order ++ 0#3] | .none => [])
  ++ (match p.stage with | some t => [0b11111101#8 ++ t ++ 0#4] | .none => [])
  ++ (match p.arith with | some a => [0b11111110#8 ++ bit 1 a.sat ++ a.rnd ++ 0#4] | .none => [])
  ++ (match p.guard with | some g => [0b11111111#8 ++ bit 1 g.neg ++ g.depth ++ 0#4] | .none => [])
  ++ p.imms.map (fun w => 0b111100#6 ++ w)

/-- The base word of an instruction (03 Tables 03-3 to 03-13); a machine step has none. -/
def Instr.base : Instr → Half
  | .nop _ d a => mk 0#4 d a 1#4
  | .fence _ d a => mk 0#4 d a 2#4
  | .yield _ d a => mk 0#4 d a 3#4
  | .exit _ d a => mk 0#4 d a 4#4
  | .trap _ d a => mk 0#4 d a 5#4
  | .brk _ n => mk 0#4 (n.extractLsb' 4 4) (n.extractLsb' 0 4) 6#4
  | .mfs _ d a => mk 0#4 d a 7#4
  | .mts _ d a => mk 0#4 d a 8#4
  | .rdcyc _ d a => mk 0#4 d a 9#4
  | .add _ d a => mk 1#4 d a 0#4
  | .sub _ d a => mk 1#4 d a 1#4
  | .and _ d a => mk 1#4 d a 2#4
  | .or _ d a => mk 1#4 d a 3#4
  | .xor _ d a => mk 1#4 d a 4#4
  | .sll _ d a => mk 1#4 d a 5#4
  | .srl _ d a => mk 1#4 d a 6#4
  | .sra _ d a => mk 1#4 d a 7#4
  | .mul _ d a => mk 1#4 d a 8#4
  | .mulh _ d a => mk 1#4 d a 9#4
  | .mulhu _ d a => mk 1#4 d a 10#4
  | .min _ d a => mk 1#4 d a 11#4
  | .max _ d a => mk 1#4 d a 12#4
  | .minu _ d a => mk 1#4 d a 13#4
  | .maxu _ d a => mk 1#4 d a 14#4
  | .mov _ d a => mk 1#4 d a 15#4
  | .div _ d a => mk 2#4 d a 0#4
  | .divu _ d a => mk 2#4 d a 1#4
  | .rem _ d a => mk 2#4 d a 2#4
  | .remu _ d a => mk 2#4 d a 3#4
  | .clz _ d a => mk 2#4 d a 4#4
  | .ctz _ d a => mk 2#4 d a 5#4
  | .popc _ d a => mk 2#4 d a 6#4
  | .sextb _ d a => mk 2#4 d a 7#4
  | .sexth _ d a => mk 2#4 d a 8#4
  | .sextw _ d a => mk 2#4 d a 9#4
  | .zextb _ d a => mk 2#4 d a 10#4
  | .zexth _ d a => mk 2#4 d a 11#4
  | .zextw _ d a => mk 2#4 d a 12#4
  | .bswap _ d a => mk 2#4 d a 13#4
  | .addw _ d a => mk 2#4 d a 14#4
  | .subw _ d a => mk 2#4 d a 15#4
  | .addi _ d i => mk 3#4 d (i.extractLsb' 4 4) (i.extractLsb' 0 4)
  | .li _ d i => mk 4#4 d (i.extractLsb' 4 4) (i.extractLsb' 0 4)
  | .cmp _ d a c => mk 5#4 d a (0#1 ++ c)
  | .cmpi _ a c i => mk 6#4 a (0#1 ++ c) i
  | .ld _ d a i => mk 7#4 d a i
  | .st _ d a i => mk 8#4 d a i
  | .lb _ d a => mk 9#4 d a 0#4
  | .lbu _ d a => mk 9#4 d a 1#4
  | .lh _ d a => mk 9#4 d a 2#4
  | .lhu _ d a => mk 9#4 d a 3#4
  | .lw _ d a => mk 9#4 d a 4#4
  | .lwu _ d a => mk 9#4 d a 5#4
  | .sb _ d a => mk 9#4 d a 6#4
  | .sh _ d a => mk 9#4 d a 7#4
  | .sw _ d a => mk 9#4 d a 8#4
  | .b _ o => mk 10#4 0#4 (o.extractLsb' 4 4) (o.extractLsb' 0 4)
  | .bt _ o => mk 10#4 1#4 (o.extractLsb' 4 4) (o.extractLsb' 0 4)
  | .bf _ o => mk 10#4 2#4 (o.extractLsb' 4 4) (o.extractLsb' 0 4)
  | .call _ o => mk 10#4 3#4 (o.extractLsb' 4 4) (o.extractLsb' 0 4)
  | .j _ o => mk 11#4 (o.extractLsb' 8 4) (o.extractLsb' 4 4) (o.extractLsb' 0 4)
  | .pend _ d a => mk 12#4 d a 0#4
  | .pelse _ d a => mk 12#4 d a 1#4
  | .pand _ d a => mk 12#4 d a 2#4
  | .por _ d a => mk 12#4 d a 3#4
  | .pdup _ d a => mk 12#4 d a 4#4
  | .pset _ d a => mk 12#4 d a 5#4
  | .pget _ d a => mk 12#4 d a 6#4
  | .pcnt _ d a => mk 12#4 d a 7#4
  | .jr _ d a => mk 13#4 d a 0#4
  | .callr _ d a => mk 13#4 d a 1#4
  | .ret _ d a => mk 13#4 d a 2#4
  | .hint _ w => w
  | .vadd _ d a => mk 1#4 d a 0#4
  | .vsub _ d a => mk 1#4 d a 1#4
  | .vmul _ d a => mk 1#4 d a 2#4
  | .vfma _ d a => mk 1#4 d a 3#4
  | .vmin _ d a => mk 1#4 d a 4#4
  | .vmax _ d a => mk 1#4 d a 5#4
  | .vabs _ d a => mk 1#4 d a 6#4
  | .vneg _ d a => mk 1#4 d a 7#4
  | .vand _ d a => mk 2#4 d a 0#4
  | .vor _ d a => mk 2#4 d a 1#4
  | .vxor _ d a => mk 2#4 d a 2#4
  | .vnot _ d a => mk 2#4 d a 3#4
  | .vshl _ d a => mk 2#4 d a 4#4
  | .vshr _ d a => mk 2#4 d a 5#4
  | .vsra _ d a => mk 2#4 d a 6#4
  | .vsel _ d a => mk 2#4 d a 7#4
  | .vcmp _ d a c => mk 3#4 d a c
  | .vld _ d a => mk 4#4 d a 0#4
  | .vst _ d a => mk 4#4 d a 1#4
  | .vlds _ d a => mk 4#4 d a 2#4
  | .vsts _ d a => mk 4#4 d a 3#4
  | .vgath _ d a => mk 4#4 d a 4#4
  | .vscat _ d a => mk 4#4 d a 5#4
  | .vbcast _ d a => mk 5#4 d a 0#4
  | .vext _ d a => mk 5#4 d a 1#4
  | .vins _ d a => mk 5#4 d a 2#4
  | .vperm _ d a => mk 5#4 d a 3#4
  | .vredadd _ d a => mk 5#4 d a 4#4
  | .vredmin _ d a => mk 5#4 d a 5#4
  | .vredmax _ d a => mk 5#4 d a 6#4
  | .viota _ d a => mk 5#4 d a 7#4
  | .vbind _ d a => mk 6#4 d a 0#4
  | .vunbind _ d a => mk 6#4 d a 1#4
  | .vstat _ d a => mk 6#4 d a 2#4
  | .vcvt _ d a g => mk 7#4 d a (0#1 ++ g)
  | .mmaRing _ d a => mk 1#4 d a 0#4
  | .mmaHold _ d a => mk 1#4 d a 1#4
  | .mmv _ d a => mk 2#4 d a 0#4
  | .mldb _ d a => mk 3#4 d a 0#4
  | .mpass _ d a => mk 4#4 d a 0#4
  | .mzero _ d a => mk 5#4 d a 0#4
  | .mst _ d a => mk 6#4 d a 0#4
  | .mld _ d a => mk 7#4 d a 0#4
  | .mrow _ d a => mk 8#4 d a 0#4
  | .mwait _ d a => mk 9#4 d a 0#4
  | .mbankSel _ d a => mk 10#4 d a 0#4
  | .mbankSpill _ d a => mk 10#4 d a 1#4
  | .mbankFill _ d a => mk 10#4 d a 2#4
  | .gint _ d a => mk 1#4 d a 0#4
  | .guni _ d a => mk 1#4 d a 1#4
  | .gsub _ d a => mk 1#4 d a 2#4
  | .gset _ d a => mk 2#4 d a 0#4
  | .gempty _ d a => mk 2#4 d a 1#4
  | .gbox _ d a => mk 2#4 d a 2#4
  | .glat _ d a => mk 2#4 d a 3#4
  | .grag _ d a => mk 2#4 d a 4#4
  | .gdil _ d a => mk 3#4 d a 0#4
  | .gshift _ d a => mk 3#4 d a 1#4
  | .gproj _ d a => mk 3#4 d a 2#4
  | .gsplit _ d a => mk 3#4 d a 3#4
  | .gcanon _ d a => mk 3#4 d a 4#4
  | .gld _ d a => mk 4#4 d a 0#4
  | .gst _ d a => mk 4#4 d a 1#4
  | .gcnt _ d a => mk 5#4 d a 0#4
  | .gvol _ d a => mk 5#4 d a 1#4
  | .grdbox _ d a => mk 5#4 d a 2#4
  | .gtest _ d a => mk 5#4 d a 3#4
  | .geq _ d a => mk 5#4 d a 4#4
  | .aadd _ d a => mk 1#4 d a 0#4
  | .aand _ d a => mk 1#4 d a 1#4
  | .aor _ d a => mk 1#4 d a 2#4
  | .axor _ d a => mk 1#4 d a 3#4
  | .amin _ d a => mk 1#4 d a 4#4
  | .amax _ d a => mk 1#4 d a 5#4
  | .aminu _ d a => mk 1#4 d a 6#4
  | .amaxu _ d a => mk 1#4 d a 7#4
  | .aswap _ d a => mk 1#4 d a 8#4
  | .acas _ d a => mk 1#4 d a 9#4
  | .afadd _ d a => mk 1#4 d a 10#4
  | .afaddcp _ d a => mk 1#4 d a 11#4
  | .lds _ d a => mk 2#4 d a 0#4
  | .sts _ d a => mk 2#4 d a 1#4
  | .trn _ d a => mk 2#4 d a 2#4
  | .stq _ d a => mk 2#4 d a 3#4
  | .autld _ d a => mk 2#4 d a 4#4
  | .prefLine _ a => mk 3#4 0#4 a 0#4
  | .prefRegion _ a => mk 3#4 1#4 a 0#4
  | .invl1All _ a => mk 3#4 0#4 a 1#4
  | .invl1Line _ a => mk 3#4 1#4 a 1#4
  | .send _ d a => mk 1#4 d a 0#4
  | .ctradd _ d a => mk 1#4 d a 1#4
  | .ctrrd _ d a => mk 1#4 d a 2#4
  | .cwait _ d a => mk 1#4 d a 3#4
  | .wtarm _ d a => mk 2#4 d a 0#4
  | .wtdis _ d a => mk 2#4 d a 1#4
  | .spawn _ d a => mk 2#4 d a 2#4
  | .start _ d a => mk 2#4 d a 3#4
  | .hjoin _ d a => mk 2#4 d a 4#4
  | .susp _ d a => mk 2#4 d a 5#4
  | .dqpush _ d a => mk 3#4 d a 0#4
  | .dqpop _ d a => mk 3#4 d a 1#4
  | .dqsteal _ d a => mk 3#4 d a 2#4
  | .bsetcRel _ a => mk 4#4 0#4 a 0#4
  | .bsetcReg _ a => mk 4#4 1#4 a 0#4
  | .bgrant _ d a => mk 4#4 d a 1#4
  | .byield _ d a => mk 4#4 d a 2#4
  | .btop _ d a => mk 4#4 d a 3#4
  | .arrive _ d a => mk 5#4 d a 0#4
  | .bwait _ d a => mk 5#4 d a 1#4
  | .bstat _ d a => mk 5#4 d a 2#4
  | .copy _ d a => mk 1#4 d a 0#4
  | .ewait _ d a => mk 2#4 d a 0#4
  | .etest _ d a => mk 2#4 d a 1#4
  | .gpool _ d a => mk 3#4 d a 0#4
  | .xred _ d a => mk 4#4 d a 0#4
  | .xbcast _ d a => mk 4#4 d a 1#4
  | .xgath _ d a => mk 4#4 d a 2#4
  | .chunkrd _ d a => mk 4#4 d a 3#4
  | .collectiveRequest _ => 0#16
  | .hpoffer _ d a => mk 5#4 d a 0#4
  | .hpread _ d a => mk 5#4 d a 1#4
  | .rcinc _ d a => mk 5#4 d a 2#4
  | .rcsnap _ d a => mk 5#4 d a 3#4
  | .sysc _ n => mk 1#4 (n.extractLsb' 4 4) (n.extractLsb' 0 4) 0#4
  | .tret _ d a => mk 1#4 d a 1#4
  | .ctxsvCtx _ a => mk 1#4 0#4 a 2#4
  | .ctxsvCell _ a => mk 1#4 1#4 a 2#4
  | .ctxsvTile _ a => mk 1#4 2#4 a 2#4
  | .ctxldCtx _ a => mk 1#4 0#4 a 3#4
  | .ctxldCell _ a => mk 1#4 1#4 a 3#4
  | .ctxldTile _ a => mk 1#4 2#4 a 3#4
  | .ctxldReg _ a => mk 1#4 3#4 a 3#4
  | .chordConfigWrite _ _ _ _ => 0#16
  | .pmreqCtx _ a => mk 1#4 0#4 a 4#4
  | .pmreqStop _ a => mk 1#4 1#4 a 4#4
  | .pmreqGo _ a => mk 1#4 2#4 a 4#4
  | .pmreqFrame _ a => mk 1#4 3#4 a 4#4
  | .gangstopStop _ a => mk 1#4 0#4 a 5#4
  | .gangstopRestart _ a => mk 1#4 1#4 a 5#4
  | .tlbinv _ d a => mk 1#4 d a 6#4
  | .regrd _ d a => mk 1#4 d a 7#4
  | .wdset _ d a => mk 1#4 d a 8#4
  | .answerRetry _ _ => 0#16
  | .answerRefuse _ _ => 0#16
  | .answerLongService _ _ => 0#16
  | .fadd _ d a => mk 1#4 d a 0#4
  | .fsub _ d a => mk 1#4 d a 1#4
  | .fmul _ d a => mk 1#4 d a 2#4
  | .fdiv _ d a => mk 1#4 d a 3#4
  | .fsqrt _ d a => mk 1#4 d a 4#4
  | .fma _ d a => mk 1#4 d a 5#4
  | .fmin _ d a => mk 1#4 d a 6#4
  | .fmax _ d a => mk 1#4 d a 7#4
  | .fabs _ d a => mk 1#4 d a 8#4
  | .fneg _ d a => mk 1#4 d a 9#4
  | .fcmp _ d a c => mk 2#4 d a (0#2 ++ c)
  | .fcvt _ d a g => mk 3#4 d a (0#1 ++ g)
  | .fclass _ d a => mk 4#4 d a 0#4
  | .fqnt _ d a => mk 4#4 d a 1#4
  | .wptrWrite _ _ => 0#16
  | .qsizeWrite _ _ => 0#16
  | .hostRegisterWrite _ _ => 0#16
  | .mdataWrite _ => 0#16
  | .anonceWrite _ => 0#16
  | .linkCrcResend _ _ _ => 0#16
  | .illegalInstruction _ => 0#16
  | .moduleBecomesReachable _ => 0#16
  | .powerLoss _ => 0#16
  | .hostMemoryAccess _ => 0#16
  | .poolBackInvalidate _ _ => 0#16
  | .remoteRequestArrival _ => 0#16
  | .yieldPassEnd => 0#16
  | .loadComplete => 0#16
  | .budgetYield => 0#16
  | .vectorComplete => 0#16
  | .arbiterWindow => 0#16
  | .streamUnitFetch => 0#16
  | .streamUnitWrite => 0#16
  | .matrixStepRetire => 0#16
  | .handoffLand => 0#16
  | .parkedStepRetry => 0#16
  | .longParkConversion => 0#16
  | .tlbMissWalk => 0#16
  | .messageDelivery => 0#16
  | .joinIncrement => 0#16
  | .spawnEnqueue => 0#16
  | .firedPendingEnqueue => 0#16
  | .dispatch => 0#16
  | .engineChunkPerformed => 0#16
  | .engineCompletion => 0#16
  | .switchInRestore => 0#16
  | .moduleReset => 0#16
  | .recoveryGo => 0#16
  | .cmdNoop => 0#16
  | .cmdLaunch => 0#16
  | .launchEnd => 0#16
  | .cmdSignal => 0#16
  | .cmdWait => 0#16
  | .attestationReportReady => 0#16
  | .pstateFull => 0#16
  | .pstatePartitionOff => 0#16
  | .pstateIdle => 0#16
  | .arbiterGrant => 0#16
  | .storePerformed => 0#16
  | .stopUnitReached => 0#16

/-- The words of an instruction; a machine step has none. -/
def encode (i : Instr) : List Half :=
  match i.pfx with
  | some p => p.words ++ [i.base]
  | .none => []

/-- The number of words of an instruction, prefixes included (14 R338 ILEN): 0 for an illegal chain. -/
def Instr.ilen : Instr → Nat
  | .illegalInstruction (.word p _) => p.count + 1
  | .illegalInstruction (.chain _ _) => 0
  | i => match i.pfx with | some p => p.count + 1 | .none => 0

/-- The trap information word of an encoding trap (03 R60). -/
def tinfoWord (p : Pfx) (w : Half) : Word :=
  0#38 ++ p.fx ++ BitVec.ofNat 4 p.page ++ w
def tinfoChain (pos : BitVec 3) (w : Half) : Word := 0#45 ++ pos ++ w
/-- The layout of R60 for an instruction. -/
def Instr.tinfo : Instr → Word
  | .illegalInstruction (.word p w) => tinfoWord p w
  | .illegalInstruction (.chain pos w) => tinfoChain pos w
  | i => match i.pfx with | some p => tinfoWord p i.base | .none => 0#64

end Sys2Proof
end

