-- ==== Sys2Proof/Config.lean ====
section
/-! DEFINITION. Sys2Proof/Config.lean: what the spec leaves open and a step draws on. A constant here has no body: nothing
can be proved of its value. -/

namespace Sys2Proof.Config

/-- How many main-clock cycles beyond one the `n`-th step takes (01 R16, 04 R79: latencies are typical, not bounds). -/
opaque extraCycles : Nat → Nat

/-- The `n`-th value that a step stores where the spec states none (log entry 5). -/
opaque freeWord : Nat → Word

/-- The three hash functions of the micro-TLB filter (10 R250: not architectural), on the page's number and size code. -/
opaque filterHash : Fin 3 → Nat → BitVec 3 → Fin 1024

/-- SHAKE256 with 64-byte output, and Ed448 verification and signing (15 R362, R369, R371: public standards, not restated). -/
opaque shake256 : List Byte → BitVec 512
opaque ed448Verify : BitVec 456 → List Byte → BitVec 912 → Bool
opaque ed448Sign : List Byte → BitVec 912

/-- The Maellor public key in the boot ROM and the module's identity public key in fuses (15 R369, R371). -/
opaque maellorKey : BitVec 456
opaque identityKey : BitVec 456

/-- The address at which the boot ROM starts verified firmware (14 R339; not in the spec). -/
opaque firmwareEntry : Word

/-- The service kernel's own trap vector (14 R400; its code is not in the spec). -/
opaque kernelVector : Word

end Sys2Proof.Config
end

