-- ==== Sys2Proof/Machine/Store.lean ====
section
/-! DEFINITION. Sys2Proof/Machine/Store.lean: the containers that State is made of: maps by number, register files, and byte
memory in its canonical form. -/

namespace Sys2Proof.Machine

/-- A sparse map from numbers, held as a list with rising keys; an unlisted key reads as the reader's default. -/
abbrev SMap (α : Type) := List (Nat × α)

variable {α : Type}

def mget? : SMap α → Nat → Option α
  | [], _ => none
  | (j, v) :: m, k => if j = k then some v else mget? m k

def mget (m : SMap α) (k : Nat) (d : α) : α := (mget? m k).getD d

def mset : SMap α → Nat → α → SMap α
  | [], k, v => [(k, v)]
  | (j, w) :: m, k, v =>
    if j = k then (k, v) :: m else if k < j then (k, v) :: (j, w) :: m else (j, w) :: mset m k v

def mdel : SMap α → Nat → SMap α
  | [], _ => []
  | (j, w) :: m, k => if j = k then mdel m k else (j, w) :: mdel m k

/-- Reading and writing a register file. -/
def vget {n : Nat} (v : Vector α n) (i : Nat) (d : α) : α := (v[i]?).getD d
def vset {n : Nat} (v : Vector α n) (i : Nat) (x : α) : Vector α n := v.setIfInBounds i x

/-- Byte memory: pairs with strictly rising addresses and no zero byte, since an unlisted address reads 0 (log entry 1). -/
abbrev Memory := List Host.Cell

/-- What an address that is not listed reads as: 0 (DESIGN CHOICE, log entry 1; the spec gives no power-on contents). -/
def unlisted : Byte := 0#8

/-- One byte. -/
def rd8 : Memory → Nat → Byte
  | [], _ => unlisted
  | (j, b) :: m, k => if j = k then b else rd8 m k

/-- Write one byte, keeping the canonical form. -/
def wr8 : Memory → Nat → Byte → Memory
  | [], k, v => if v = unlisted then [] else [(k, v)]
  | (j, b) :: m, k, v =>
    if j = k then (if v = unlisted then m else (k, v) :: m)
    else if k < j then (if v = unlisted then (j, b) :: m else (k, v) :: (j, b) :: m)
    else (j, b) :: wr8 m k v

/-- Addresses strictly rising from `lo` on, and no entry equal to what an unlisted address reads as. -/
def wfFrom : Nat → Memory → Bool
  | _, [] => true
  | lo, (k, b) :: m => decide (lo ≤ k) && (b != unlisted) && wfFrom (k + 1) m

/-- The canonical form of memory. -/
def Memory.wf (m : Memory) : Bool := wfFrom 0 m

/-- The `n` bytes from an address on. -/
def rdBytes (m : Memory) : Nat → Nat → List Byte
  | _, 0 => []
  | a, n + 1 => rd8 m a :: rdBytes m (a + 1) n

/-- Write a list of bytes from an address on. -/
def wrBytes : Memory → Nat → List Byte → Memory
  | m, _, [] => m
  | m, a, b :: bs => wrBytes (wr8 m a b) (a + 1) bs

/-- The little-endian number that bytes hold (00 R4), and the `n` bytes of a number. -/
def leNat : List Byte → Nat
  | [] => 0
  | b :: bs => b.toNat + 256 * leNat bs
def leBytes : Nat → Nat → List Byte
  | 0, _ => []
  | n + 1, x => BitVec.ofNat 8 x :: leBytes n (x / 256)

/-- An `n`-byte little-endian read and write. -/
def rdN (m : Memory) (a n : Nat) : Nat := leNat (rdBytes m a n)
def wrN (m : Memory) (a n x : Nat) : Memory := wrBytes m a (leBytes n x)
def rd64 (m : Memory) (a : Nat) : Word := BitVec.ofNat 64 (rdN m a 8)
def wr64 (m : Memory) (a : Nat) (x : Word) : Memory := wrN m a 8 x.toNat

end Sys2Proof.Machine
end

