-- ==== Sys2Proof/Machine/State.lean ====
section
/-! DEFINITION. Sys2Proof/Machine/State.lean: everything the spec gives one module, as plain data. The address of a byte in
`mem` is the 58-bit physical address of 10 R240 for translated memory, and 0xFE00_0000_0000_0000 + t × 2^20 + offset for
the scratchpad of tile t (01 R20). Maps over cells, tiles, quartets and spans list only what differs from its reset value. -/

namespace Sys2Proof.Machine

/-- Which cell, slot and index (tag, stream, queue, list place) the current step acts on. Not the spec's. -/
structure Sel where
  cell : BitVec 16
  slot : BitVec 4
  k    : Nat
  deriving DecidableEq, Repr

/-- One predicate entry (04 R88). -/
structure PEntry where
  s    : Bool
  mask : BitVec 32
  deriving DecidableEq, Repr

/-- ibud or mbud (05 R110): UNM and COUNT. -/
structure Budget where
  unm   : Bool
  count : BitVec 32
  deriving DecidableEq, Repr

/-- Kinds of access as a fault record numbers them (14 R346). -/
inductive AccKind where
  | load | store | fetch | stream | engine | stage
  deriving DecidableEq, Repr

/-- Why a live context does not issue (04 R74). -/
inductive Wait where
  | none
  /-- HJOIN, BWAIT, EWAIT or a full queue: the instruction is tried again, its charge paid; a PMREQ
  abandons the wait (05 R125). -/
  | poll
  /-- CWAIT, of `ilen` words, on a counter of its tile for a value (12 R293); a PMREQ abandons it. -/
  | counter (ctr : BitVec 10) (value : BitVec 32) (ilen : Nat)
  /-- A wait for issued accesses, for a stream unit or for the context's queues: tried again; a PMREQ lets it complete. -/
  | hold
  /-- A PMREQ, a tile stop, a gang stop: the request is made, and its completion is awaited (14 R354, R357). -/
  | asked
  /-- Its vector instruction waits at the head of the cell's queue for a stream unit (08 R205). -/
  | stream
  /-- A TLB miss is at the span's MTU (10 R245). -/
  | walk (va : Word) (kind : AccKind)
  /-- Parked at the MTU for an absent page, under a fault id (14 R345). -/
  | mtu (id : BitVec 32) (va : Word) (kind : AccKind)
  /-- The page that its access found absent has been served: the access is tried again, also while the tile is stopped (14 R361). -/
  | answered
  /-- A stage access is in a park queue (10 R259). -/
  | stage
  /-- A yield has begun: its queues drain before the record is written (05 R118). -/
  | leaving (reason : BitVec 3)
  deriving DecidableEq, Repr

/-- A PMREQ that has zeroed ibud: the copied ibud and the disposition (05 R125, 14 R354). -/
structure PReq where
  saved : Budget
  disp  : BitVec 2
  deriving DecidableEq, Repr

/-- The fetch buffer: a 32-byte block address and its sixteen words (03 R73). -/
structure FBuf where
  block : Nat
  words : List Half
  deriving DecidableEq, Repr

/-- One byte of a store with the bits that it writes (07 R185: a nibble of a byte). -/
structure WByte where
  pa   : Nat
  val  : Byte
  mask : Byte
  deriving DecidableEq, Repr

/-- Stores that a rule names apart: those of a VMEM (08 R201) and of an MST (09 R237). -/
inductive StKind where
  | plain | vmem | matrix
  deriving DecidableEq, Repr

/-- An access that a context has issued and that is not yet performed, in program order (11 R266). -/
inductive Pend where
  /-- A load of `n` bytes into register `dest`; `val` when its value was formed at issue (a format window). -/
  | load (pa n : Nat) (signed cached : Bool) (dest : Nat) (scope : Nat) (acq : Option Nat) (val : Option Word)
  /-- A store of one whole piece. -/
  | store (bytes : List WByte) (scope : Nat) (kind : StKind)
  deriving DecidableEq, Repr

/-- A dimension of a box (06 R128). -/
structure Dim where
  lo   : BitVec 32
  cnt  : BitVec 32
  step : BitVec 32
  deriving DecidableEq, Repr

/-- A region register (06 Table 06-1); COUNT is the length of `boxes`; each box has `rank` dimensions. -/
structure GReg where
  desc    : BitVec 12
  rank    : BitVec 3
  ovf     : Bool
  ragged  : Bool
  strided : Bool
  inexact : Bool
  ltab    : Word
  boxes   : List (List Dim)
  deriving DecidableEq, Repr

/-- A tensor descriptor (06 Table 06-4). -/
structure Desc where
  base    : Word
  rank    : BitVec 8
  ty      : BitVec 4
  staged  : Bool
  ragged  : Bool
  aut     : BitVec 4
  block   : Vector (BitVec 8) 4
  size    : Vector (BitVec 32) 4
  stride  : Vector Word 4
  fill    : Word
  param   : Word
  stages  : Word
  deriving DecidableEq, Repr

/-- What a region instruction took at its issue, for as long as it has paid and waits (04 R79; 06 R129, R139, R144, R153): the region
register that it reads, that region's descriptor and the lengths of a ragged one, and, for an image that it loads, the descriptors of
its space. -/
structure Cap where
  reg   : GReg
  desc  : Desc
  lens  : List Nat
  descs : SMap Desc
  deriving DecidableEq, Repr

/-- One context slot (04 Table 04-2). A free slot keeps only what belongs to the slot. `hnd` says that a trap has taken it from user
mode into a handler from which it has not returned to user mode (14 R337, R343, R355); `cur` is the instruction that it has issued
and that waits (04 R74, R79), `cap` the region operands that it took, `vdest` the scalar registers that its queued vector
instructions will write (08 R199). -/
structure Ctx where
  live    : Bool
  pc      : Word
  regs    : Vector Word 16
  win     : BitVec 4
  pst     : List PEntry
  spilled : Nat
  pss     : Bool
  psmask  : BitVec 32
  ident   : Word
  ibud    : Budget
  mbud    : Budget
  iallow  : BitVec 32
  mallow  : BitVec 32
  cont    : Word
  cmask   : BitVec 16
  bpol    : BitVec 2
  fcsr    : BitVec 8
  vcnt    : BitVec 32
  gmode   : BitVec 2
  mode    : BitVec 2
  pspill  : Word
  tpc     : Word
  tcause  : Word
  taddr   : Word
  tinfo   : Word
  tvec    : Word
  tstat   : Word
  ks      : Vector Word 4
  preq    : Option PReq
  wait    : Wait
  paid    : Option (BitVec 32 × BitVec 32)
  double  : Bool
  hnd     : Bool
  pass    : Bool
  fbuf    : Option FBuf
  pend    : List Pend
  cur     : Option Instr
  cap     : Option Cap
  vdest   : List Nat
  deriving DecidableEq, Repr

/-- A unit pushed into a write stream: its number, bytes, lanes written, the slot that pushed it, and the stores that it makes, formed
at the push (08 R206). -/
structure Push where
  unit : Nat
  data : BitVec 1024
  mask : BitVec 32
  slot : BitVec 4
  ws   : List WByte
  deriving DecidableEq, Repr

/-- A stream binding of v28 to v31 (08 R202 to R207): its descriptor as VBIND read it, and its progress; `err` is the unit that failed,
with the cause and taddr of its trap; `fault` is the fault id of an absent page and the element that met it. `num` names the binding in a
cell image (14 R352; log entry 15). -/
structure Stream where
  num     : Nat
  wr      : Bool
  coord   : Bool
  base    : Word
  cnt     : Vector (BitVec 32) 3
  ty      : BitVec 4
  desc    : Desc
  stride  : Vector Word 3
  slot    : BitVec 4
  asid    : BitVec 12
  user    : Bool
  done    : Nat
  ready   : List (BitVec 1024)
  pushed  : List Push
  eos     : Bool
  err     : Option (Nat × Nat × Word)
  fault   : Option (BitVec 32 × Word)
  deriving DecidableEq, Repr

/-- The vector registers that a queued instruction reads and writes (a bound one is written: its stream moves), the binding that it
leaves (a register, and its direction or none), and the binding that a queued VBIND has read from its descriptor. -/
structure VClaim where
  rd   : List Nat
  wr   : List Nat
  bind : Option (Nat × Option Bool)
  st   : Option Stream
  deriving DecidableEq, Repr

/-- How a queued instruction stands: its result is formed; its context waits with it, for a stream unit or for earlier entries (08
R205); its context goes on, and the result is formed from these captured registers when the entries that it follows have
started (R79, R196); or it is the release of a binding whose context is leaving (R207). -/
inductive VKind where
  | ready
  | waits
  | late (i : Instr) (c : Ctx)
  | release
  deriving DecidableEq, Repr

/-- An entry of the vector queue: lane groups not yet started, and the flags it adds at completion (08 R196, R199). -/
structure VEnt where
  slot  : BitVec 4
  ident : Word
  whole : Bool
  todo  : BitVec 4
  flags : BitVec 5
  kind  : VKind
  claim : VClaim
  deriving DecidableEq, Repr

/-- An accumulator bank: its owner's identity, 0 when free, four accumulators (09 R228), and which of them hold an
uncorrectable error (09 Table 09-5). -/
structure Bank where
  owner : Word
  acc   : Vector (BitVec 8192) 4
  bad   : BitVec 4
  deriving DecidableEq, Repr

/-- The matrix step that is running (09 R222): what it writes when it retires. -/
structure MRun where
  slot    : BitVec 4
  ident   : Word
  bank    : Bool
  d       : Nat
  result  : BitVec 8192
  flags   : BitVec 5
  handoff : Bool
  deriving DecidableEq, Repr

/-- The operand latch (09 R223) and the handoffs on their way to the next cell, oldest first. -/
structure Latch where
  cur     : BitVec 4096
  inn     : BitVec 4096
  chops   : BitVec 4
  ihops   : BitVec 4
  infull  : Bool
  pending : Bool
  flight  : List (BitVec 4096 × BitVec 4)
  deriving DecidableEq, Repr

/-- Engine commands (13 R319). -/
inductive EKind where
  | copy | gpool | xred | xbcast | xgath
  deriving DecidableEq, Repr

/-- The captured command of a tag and its remaining work (13 R319 to R325); `num` names it in a cell image (14 R352; log
entry 15); `lacks` says that the grants did not cover it when its tile last stopped (11 R286). For a collective, `closed` says that
its instance is over on every member of this module, `late` is an ERR that came while its cell's image was elsewhere, `undo` is
what its writes have replaced, the latest first, and `coll` the tile that issued it (13 R322, R327; log entry 24). -/
structure Cmd where
  num    : Nat
  src    : GReg
  dst    : GReg
  srcD   : Desc
  dstD   : Desc
  tabD   : Desc
  wD     : Desc
  srcLen : List Nat
  dstLen : List Nat
  ctl    : Word
  arr    : Bool
  asid   : BitVec 12
  user   : Bool
  slot   : BitVec 4
  pos    : Nat
  vals   : Option (List (Option Nat))
  posted : Bool
  grans  : Option (List Nat)
  fault  : Option (BitVec 32)
  park   : Bool
  stop   : Bool
  lacks  : Bool
  closed : Bool
  late   : BitVec 4
  undo   : List WByte
  coll   : Option (BitVec 12)
  deriving DecidableEq, Repr

/-- An engine tag (13 R320). -/
structure Tag where
  busy   : Bool
  err    : BitVec 4
  chunks : Nat
  issuer : Word
  kind   : Option EKind
  scope  : Nat
  cmd    : Option Cmd
  deriving DecidableEq, Repr

/-- A helper-join entry (12 R307). -/
structure HJoin where
  helper  : Word
  starter : Word
  done    : Bool
  iref    : BitVec 32
  mref    : BitVec 32
  deriving DecidableEq, Repr

/-- What a cell's send buffer holds until it is delivered (12 R289, R297, R305); `sender` is the live task that sent it, 0 once that
task is over (15 R367). -/
inductive Out where
  | msg (modu : BitVec 10) (tile : BitVec 12) (off : BitVec 20) (ctr : BitVec 10) (words : List Word) (tag : BitVec 16)
      (seq : BitVec 32) (scope : Nat) (sender : Word)
  | join (ref : Word) (frame : Word) (kind : BitVec 8) (iref mref : BitVec 32) (tag : BitVec 16) (scope : Nat) (sender : Word)
  | spawn (tile : BitVec 12) (record : Vector Word 8) (kernel place : Bool) (tag : BitVec 16) (scope : Nat)
  deriving DecidableEq, Repr

/-- A line of a cell's L1 (10 R242). -/
structure L1Line where
  line  : Nat
  bytes : List Byte
  deriving DecidableEq, Repr

/-- A cached translation (10 R249): page of size code `size` at `va` for `asid`, and the leaf entry. -/
structure TlbEntry where
  asid : BitVec 12
  size : BitVec 3
  va   : Nat
  pte  : Word
  deriving DecidableEq, Repr

/-- One cell (04 Table 04-2). `filt` is the filter of 10 R250, `gbad` marks region registers with an uncorrectable error (06
R148), `last` is the slot that issued last (04 R79), `parkw` holds the parked images by window and identity, the one parked
longest ago first (04 R77). -/
structure Cell where
  slots  : Vector Ctx 11
  v      : Vector (Vector (BitVec 32) 32) 32
  g      : Vector GReg 16
  gbad   : BitVec 16
  bank0  : Bank
  bank1  : Bank
  lru    : Bool
  latch  : Latch
  mrun   : Option MRun
  vq     : List VEnt
  vrun   : List VEnt
  pval   : Nat
  elig   : Bool
  strm   : Vector (Option Stream) 4
  tags   : Vector Tag 8
  l1     : List L1Line
  utlb   : List TlbEntry
  filt   : BitVec 1024
  sendq  : List Out
  sent   : SMap Word
  hjoin  : List HJoin
  arrive : BitVec 32
  aphase : BitVec 32
  last   : BitVec 4
  parkw  : List (Nat × Word × Vector Word 16)
  deriving DecidableEq, Repr

/-- vshare and the weights in force in this window (04 R84, 08 R197). -/
structure Quartet where
  vshare : BitVec 16
  force  : BitVec 16
  deriving DecidableEq, Repr

/-- A message counter (12 Table 12-1). -/
structure Counter where
  value : BitVec 32
  scope : BitVec 3
  iref  : BitVec 32
  mref  : BitVec 32
  deriving DecidableEq, Repr

/-- A ready-queue entry (12 R300): a record copy or a frame; `own` is the slot of the tile (11 × cell + slot) whose requeue
place it takes, `ctr` the counter whose refunds it receives at resume (12 R308). -/
structure RqEntry where
  copy   : Option (Vector Word 8)
  frame  : Word
  paid   : Bool
  kernel : Bool
  prio   : Nat
  bypass : Nat
  own    : Option Nat
  scope  : Nat
  ctr    : Option (BitVec 10)
  ilen   : Nat
  deriving DecidableEq, Repr

/-- A waiting-task entry (12 Table 12-3); `held` is what a fired-pending entry will enqueue. -/
structure WttEntry where
  record : Word
  thresh : BitVec 32
  st     : BitVec 2
  rearm  : Bool
  frame  : Bool
  ctr    : BitVec 10
  held   : Option RqEntry
  deriving DecidableEq, Repr

/-- Where a tile stands between a stop and a restart (14 R355). -/
inductive TileRun where
  | running | stopping | stopped
  deriving DecidableEq, Repr

/-- One tile; `used` holds the frames in use of each address space, `resv` counts the ready-queue places of accepted SPAWNs that have not
arrived (12 R305), `pbad` marks an uncorrectable error in the protection table (06 R148), `granBad` granules of its controller whose state
holds one (10 R244), `stopCyc` is the cycle of the last stop (14 R358), `ingress` the item, with its space and its sender's cell, that
waits for room in a full message log (12 R291). -/
structure Tile where
  asid     : BitVec 12
  poolBase : Word
  poolSize : Word
  used     : List (BitVec 12 × Word)
  saveBase : Word
  logBase  : Word
  logSize  : Word
  oob      : Word
  win      : Vector (BitVec 128) 8
  gran     : SMap (BitVec 4)
  granBad  : BitVec 1024
  prot     : SMap Word
  pbad     : Bool
  ctrs     : SMap Counter
  wtt      : SMap WttEntry
  rq       : List RqEntry
  resv     : Nat
  tlb      : List TlbEntry
  viol     : List (BitVec 256)
  violN    : Word
  elog     : List (BitVec 256)
  elogT    : Word
  elogL    : Word
  run      : TileRun
  recv     : SMap Word
  rlast    : SMap (List Word)
  stopCyc  : Word
  ingress  : Option (Nat × Nat × Out)
  deriving DecidableEq, Repr

/-- The MTU of a span (14 Table 14-6), the next fault id, the ids of the records sent and not yet consumed, the ring place
of the next record, and the faults held while the ring is full (14 R346: VA, WHO, ID, CYCLE). -/
structure Mtu where
  late  : Bool
  fqb   : Word
  fqc   : Word
  next  : BitVec 32
  sent  : List (BitVec 32)
  tail  : Nat
  held  : List (Word × Word × BitVec 32 × Word)
  deriving DecidableEq, Repr

/-- What this module answers to another module's request: bytes, the FAULT of a stage step in a state, an error response. -/
inductive Answer where
  | data (bytes : List Byte)
  | fault (st : Nat)
  | error
  deriving DecidableEq, Repr

/-- On whose behalf a stage step is parked (10 R257, R260); a record has the requeue place of the slot that it left. -/
inductive Who where
  | ctx (cell : BitVec 16) (slot : BitVec 4)
  | record (tile : BitVec 12) (frame : Word) (next : Word) (place : Nat)
  | engine (cell : BitVec 16) (tag : BitVec 3)
  | remote
  deriving DecidableEq, Repr

/-- The kinds of stage step (10 R261). -/
inductive StageOp where
  | lds | sts | trn
  deriving DecidableEq, Repr

/-- Where a granule's state is held (10 R255): a tile controller's granule number, or a place in a stage word. -/
inductive GLoc where
  | ctl (tile num : Nat)
  | word (pa place : Nat)
  deriving DecidableEq, Repr

/-- A stage step in hand: its tensor, transition, the granules still to step, and the data part: the member's address and memory
key, none when out of bounds, the value to store (10 R257, R261), and whether it was issued in user mode. `col` is the column of
entries that another module's step brings. -/
structure StageReq where
  op    : StageOp
  desc  : Desc
  asid  : BitVec 12
  trn   : BitVec 4
  grans : List (Nat × GLoc)
  pa    : Option Nat
  val   : Word
  dest  : Nat
  scope : Nat
  order : BitVec 2
  ilen  : Nat
  pc    : Word
  col   : Option (List Byte)
  va    : Option Word
  user  : Bool
  deriving DecidableEq, Repr

/-- A parked stage step (10 R259); `inq` is off while it has found the park queue full, or an earlier step due, at a granule
after its first, or its place has got another home, and is to be sent again. -/
structure Parked where
  who : Who
  loc : GLoc
  req : StageReq
  inq : Bool
  deriving DecidableEq, Repr

/-- A context switched out for a long page service (14 R347): its slot, its frame, its fault, the instruction whose access waits, what
it has paid and the region operands that it took, whether its page has been answered, whether its restore is due, whether the fault was
refused, the mode that it had, and whether it was in a handler that user mode had entered. -/
structure Away where
  cell    : Nat
  slot    : Nat
  frame   : Word
  id      : BitVec 32
  va      : Word
  kind    : AccKind
  cur     : Option Instr
  paid    : Option (BitVec 32 × BitVec 32)
  cap     : Option Cap
  ready   : Bool
  due     : Bool
  refused : Bool
  mode    : BitVec 2
  hnd     : Bool
  deriving DecidableEq, Repr

/-- What a cell or tile image names by number: a stopped command, a stream binding, the entry that a fired-pending WTT entry
will enqueue (14 R352; log entry 15). -/
inductive Held where
  | cmd (c : Cmd)
  | strm (x : Stream)
  | rq (e : RqEntry)
  deriving DecidableEq, Repr

/-- A collective group (13 Table 13-7). -/
structure Group where
  modules : Bool
  members : List (BitVec 16)
  deriving DecidableEq, Repr

/-- One member's part of a collective instance (13 R327, R328): the sender and the rank and N that it gives, its tag when
it is of this module, the kind of collective (0 XRED DET, 1 XRED ARR, 2 XBCAST, 3 XGATH), and its source elements; with N 0 it stands
for no command: a notice that the instance has failed (log entry 24). -/
structure Part where
  sender : Nat
  n      : Nat
  rank   : Nat
  here   : Option (BitVec 16 × BitVec 3)
  kind   : BitVec 2
  op     : BitVec 2
  ty     : BitVec 4
  sat    : Bool
  root   : Nat
  err    : BitVec 4
  vals   : List Nat
  deriving DecidableEq, Repr

/-- A collective instance named by group and SEQ (13 R327): its parts in the order of arrival; `started` once its result
is known and being written; `order` the ARR order that rank 0's engine has sent (R329); `fate` its ERR once it has failed, for the
commands of its members that are still to come (R322; log entry 24). -/
structure Inst where
  asid    : BitVec 12
  group   : BitVec 8
  seq     : BitVec 16
  started : Bool
  order   : Option (List Nat)
  fate    : BitVec 4
  parts   : List Part
  deriving DecidableEq, Repr

/-- A launch that runs (15 R366). -/
structure Launch where
  tile    : BitVec 12
  ctr     : BitVec 10
  count   : BitVec 32
  handles : List (BitVec 32)
  deriving DecidableEq, Repr

/-- A host command queue (15 Table 15-2). -/
structure Queue where
  qbase : Word
  qsize : BitVec 5
  wptr  : BitVec 32
  rptr  : BitVec 32
  stop  : Bool
  pref  : Bool
  err   : BitVec 8
  qasid : BitVec 12
  runs  : List Launch
  deriving DecidableEq, Repr

/-- The host interface, boot and attestation (15). `report` holds AREPORT's 290 bytes. -/
structure HostIf where
  queues   : Vector Queue 8
  maddr    : Word
  pstate   : BitVec 2
  anonce   : BitVec 256
  signing  : Option (BitVec 256)
  report   : List Byte
  events   : SMap (BitVec 32)
  flash    : List Byte
  staging  : List Byte
  fuses    : Nat
  rollback : BitVec 32
  digest   : BitVec 512
  recovery : Bool
  deriving DecidableEq, Repr

/-- The fabric (15 R367): the domain, modules that no path reaches, links out of service, what has been sent to other modules:
items of send buffers, answers, requests of collective engines (13 R328). -/
structure Fabric where
  devid   : BitVec 10
  domain  : List (BitVec 10)
  lost    : List (BitVec 10)
  downs   : List (BitVec 6)
  resends : Nat
  out     : List (BitVec 10 × Out)
  answers : List Answer
  colls   : List (BitVec 10 × CollReq)
  deriving DecidableEq, Repr

/-- The arrays whose errors a step can meet (10 R244, 14 R360), with the address of the error: a 64-byte line by its memory
key / 64, a region register by 16 × cell + number, the protection table by its tile, an accumulator by 8 × cell + 4 × bank +
number; a scalar register by 16 × (16 × cell + window) + number, a vector register by 32 × cell + number, a tile's TLB, a granule
state by 1,024 × tile + number, a park queue by its home, a message counter by 1,024 × tile + number, a waiting-task entry by 512 ×
tile + number. -/
inductive Array where
  | line (n : Nat)
  | region (n : Nat)
  | prot (t : Nat)
  | acc (n : Nat)
  | sreg (n : Nat)
  | vreg (n : Nat)
  | tlb (t : Nat)
  | granule (n : Nat)
  | park (home : Nat)
  | counter (n : Nat)
  | wtt (n : Nat)
  deriving DecidableEq, Repr

/-- How an error that strikes an array shows: its correction succeeds on the retry, or not at the first, or never. -/
inductive Flaw where
  | transient | lasting | uncorrectable
  deriving DecidableEq, Repr

/-- What reaches the module from outside a step: an error strikes an array; a correctable one is found by an access of a tile whose
reads the steps do not follow one by one (a walk of the tables, a frame, a record); the kernel gives an address space its fabric
tag (12 R291); firmware sets the base of the address-space table (10 R245). -/
inductive Stroke where
  | upset (a : Array) (f : Flaw)
  | found (tile : BitVec 12) (a : Array)
  | fabricTag (asid : BitVec 12) (tag : BitVec 16)
  | asTable (base : Word)
  deriving DecidableEq, Repr

/-- What a step does: a context issues, a step of the machine acts at a place, or the service kernel serves a trap. The
model's own schedule, not the spec's (log entry 6). -/
inductive Turn where
  | issue (cell : BitVec 16) (slot : BitVec 4)
  | event (i : Instr) (sel : Sel)
  | service (cell : BitVec 16) (slot : BitVec 4)
  /-- The access of the first context that is away from this slot and whose page has been answered completes (14 R347). -/
  | away (cell : BitVec 16) (slot : BitVec 4)
  | stroke (x : Stroke)
  deriving DecidableEq, Repr

/-- The whole module. `poison` holds lines with an uncorrectable error, `flaws` correctable errors that no access has met (true:
lasting), `touched` what a record that is read or written of itself (a firing, a fault record) has accessed in this step, with the tile,
the key and the bytes, `spilt` the address spaces and identities whose bank is in the save area (09 R229). -/
structure State where
  mem    : Memory
  cycle  : Word
  power  : Bool
  cells  : SMap Cell
  quarts : SMap Quartet
  tiles  : SMap Tile
  mtus   : SMap Mtu
  descs  : SMap Desc
  auts   : SMap (List Byte)
  groups : SMap Group
  insts  : List Inst
  chord  : SMap (BitVec 32)
  parked : List Parked
  away   : List Away
  vault  : SMap Held
  mlogs  : SMap (List (Nat × Out))
  ftags  : SMap (BitVec 16)
  asBase : Word
  poison : List Nat
  flaws  : List (Array × Bool)
  touched : List (Nat × Nat × Nat)
  spilt  : List (BitVec 12 × Word)
  host   : HostIf
  fab    : Fabric
  sel    : Sel
  agenda : List Turn
  tick   : Nat
  deriving DecidableEq, Repr

/-- Why the machine stops (15 R370): `noPower` is raised by every step of a module without power until MODULE_RESET. It is
safe: the spec gives a module without power no behaviour. -/
inductive Fault where
  | noPower
  deriving DecidableEq, Repr

/-- Why an instruction has no meaning. `notModelled` is raised by an arm of `exec` whose meaning is not written; it is safe. -/
inductive Refusal where
  | notModelled (mnemonic : String)
  deriving DecidableEq, Repr

/-! ### Reset (01 R16, 95 MODULE_RESET) -/

/-- A free slot after reset (04 Table 04-3; values without a reset in the spec: log entry 2). -/
def Ctx.reset : Ctx where
  live := false
  pc := 0#64
  regs := Vector.replicate 16 0#64
  win := 0#4
  pst := []
  spilled := 0
  pss := true
  psmask := BitVec.allOnes 32
  ident := 0#64
  ibud := ⟨false, 0#32⟩
  mbud := ⟨false, 0#32⟩
  iallow := 0#32
  mallow := 0#32
  cont := 0#64
  cmask := 0#16
  bpol := 0#2
  fcsr := 0#8
  vcnt := 32#32
  gmode := 0#2
  mode := 0#2
  pspill := 0#64
  tpc := 0#64
  tcause := 0#64
  taddr := 0#64
  tinfo := 0#64
  tvec := 0#64
  tstat := 0#64
  ks := Vector.replicate 4 0#64
  preq := none
  wait := .none
  paid := none
  double := false
  hnd := false
  pass := false
  fbuf := none
  pend := []
  cur := none
  cap := none
  vdest := []

/-- The unset region register (06 R130). -/
def GReg.unset : GReg := ⟨0#12, 0#3, false, false, false, false, 0#64, []⟩

/-- A descriptor slot that is not installed (06 R141). -/
def Desc.none : Desc :=
  ⟨0#64, 0#8, 0#4, false, false, 0#4, Vector.replicate 4 0#8, Vector.replicate 4 0#32, Vector.replicate 4 0#64, 0#64, 0#64, 0#64⟩

def Bank.free : Bank := ⟨0#64, Vector.replicate 4 0#8192, 0#4⟩
def Latch.reset : Latch := ⟨0#4096, 0#4096, 0#4, 0#4, false, false, []⟩
def Tag.idle : Tag := ⟨false, 0#4, 0, 0#64, none, 0, none⟩
def zeroLanes : Vector (BitVec 32) 32 := Vector.replicate 32 0#32

/-- A cell after reset: every slot free, slot n's window n (log entry 2), vector lanes 0 (08 R194). -/
def Cell.reset : Cell where
  slots := #v[Ctx.reset, { Ctx.reset with win := 1#4 }, { Ctx.reset with win := 2#4 }, { Ctx.reset with win := 3#4 },
    { Ctx.reset with win := 4#4 }, { Ctx.reset with win := 5#4 }, { Ctx.reset with win := 6#4 },
    { Ctx.reset with win := 7#4 }, { Ctx.reset with win := 8#4 }, { Ctx.reset with win := 9#4 },
    { Ctx.reset with win := 10#4 }]
  v := Vector.replicate 32 zeroLanes
  g := Vector.replicate 16 GReg.unset
  gbad := 0#16
  bank0 := Bank.free
  bank1 := Bank.free
  lru := false
  latch := Latch.reset
  mrun := none
  vq := []
  vrun := []
  pval := 0
  elig := false
  strm := Vector.replicate 4 none
  tags := Vector.replicate 8 Tag.idle
  l1 := []
  utlb := []
  filt := 0#1024
  sendq := []
  sent := []
  hjoin := []
  arrive := 0#32
  aphase := 0#32
  last := 10#4
  parkw := []

/-- vshare 0x1111 (04 R84). -/
def Quartet.reset : Quartet := ⟨0x1111#16, 0x1111#16⟩

def Counter.zero : Counter := ⟨0#32, 0#3, 0#32, 0#32⟩
def WttEntry.free : WttEntry := ⟨0#64, 0#32, 0#2, false, false, 0#10, none⟩

/-- A tile after reset: every window closed (07 R181), tables and counters 0 (14 Table 14-5). -/
def Tile.reset : Tile where
  asid := 0#12
  poolBase := 0#64
  poolSize := 0#64
  used := []
  saveBase := 0#64
  logBase := 0#64
  logSize := 0#64
  oob := 0#64
  win := Vector.replicate 8 0#128
  gran := []
  granBad := 0#1024
  prot := []
  pbad := false
  ctrs := []
  wtt := []
  rq := []
  resv := 0
  tlb := []
  viol := []
  violN := 0#64
  elog := []
  elogT := 0#64
  elogL := 0#64
  run := .running
  recv := []
  rlast := []
  stopCyc := 0#64
  ingress := none

def Mtu.reset : Mtu := ⟨false, 0#64, 0#64, 0#32, [], 0, []⟩
def Queue.reset : Queue := ⟨0#64, 0#5, 0#32, 0#32, false, false, 0#8, 0#12, []⟩

/-- Reset values of Table 15-2; flash, fuses and what firmware has measured: log entry 3. Table 15-2 gives AREPORT reset 0 and Table
15-5 gives its first field, VERSION, reset 1: the model starts with no report, so that AREPORT reads 0 until one is signed (DESIGN
CHOICE, log entry 34). -/
def HostIf.reset : HostIf where
  queues := Vector.replicate 8 Queue.reset
  maddr := 0#64
  pstate := 0#2
  anonce := 0#256
  signing := none
  report := []
  events := []
  flash := []
  staging := []
  fuses := 0
  rollback := 0#32
  digest := 0#512
  recovery := false

/-- The fabric after reset: devid 0, a domain of this module alone (log entry 3), all links in service. -/
def Fabric.reset : Fabric := ⟨0#10, [0#10], [], [], 0, [], [], []⟩

/-- The cell of the firmware context: cell 40,960, the first of the service tile of die 0 (14 R339). -/
def bootCell : BitVec 16 := 40960#16

/-- The boot cell after reset: slot 0 runs in firmware mode (14 R339); its pc is 0, since the spec does not give the
boot ROM's entry (log entry 3). -/
def Cell.boot : Cell :=
  { Cell.reset with slots := Cell.reset.slots.set 0 { Ctx.reset with live := true, mode := 2#2 } }

/-- The machine right after module reset. -/
def State.reset : State where
  mem := []
  cycle := 0#64
  power := true
  cells := [(40960, Cell.boot)]
  quarts := []
  tiles := []
  mtus := []
  descs := []
  auts := []
  groups := []
  insts := []
  chord := []
  parked := []
  away := []
  vault := []
  mlogs := []
  ftags := []
  asBase := 0#64
  poison := []
  flaws := []
  touched := []
  spilt := []
  host := HostIf.reset
  fab := Fabric.reset
  sel := ⟨bootCell, 0#4, 0⟩
  agenda := []
  tick := 0

end Sys2Proof.Machine
end

