-- ==== Sys2Proof/Machine/Basic.lean ====
section
/-! DEFINITION. Sys2Proof/Machine/Basic.lean: reading and writing the parts of State, the numbering of the hierarchy, and the
addresses of the map. -/

namespace Sys2Proof.Machine

/-! ### Cells, slots, tiles (01 R13, R14) -/

def State.cell (s : State) (c : Nat) : Cell := mget s.cells c Cell.reset
def State.setCell (s : State) (c : Nat) (x : Cell) : State := { s with cells := mset s.cells c x }
def State.tile (s : State) (t : Nat) : Tile := mget s.tiles t Tile.reset
def State.setTile (s : State) (t : Nat) (x : Tile) : State := { s with tiles := mset s.tiles t x }
def State.quart (s : State) (q : Nat) : Quartet := mget s.quarts q Quartet.reset
def State.setQuart (s : State) (q : Nat) (x : Quartet) : State := { s with quarts := mset s.quarts q x }
def State.mtu (s : State) (n : Nat) : Mtu := mget s.mtus n Mtu.reset
def State.setMtu (s : State) (n : Nat) (x : Mtu) : State := { s with mtus := mset s.mtus n x }

def Cell.slot (x : Cell) (n : Nat) : Ctx := vget x.slots n Ctx.reset
def Cell.setSlot (x : Cell) (n : Nat) (c : Ctx) : Cell := { x with slots := vset x.slots n c }

def State.ctxAt (s : State) (c n : Nat) : Ctx := (s.cell c).slot n
def State.setCtxAt (s : State) (c n : Nat) (x : Ctx) : State := s.setCell c ((s.cell c).setSlot n x)

/-- The cells of a tile, changed one by one. -/
def State.eachCell (s : State) (t : Nat) (f : Cell → Cell) : State :=
  (List.range 16).foldl (fun s k => s.setCell (16 * t + k) (f (s.cell (16 * t + k)))) s

/-- The acting cell, slot and their places in the hierarchy. -/
def State.cid (s : State) : Nat := s.sel.cell.toNat
def State.sid (s : State) : Nat := s.sel.slot.toNat
def State.tid (s : State) : Nat := s.cid / 16
def State.myCell (s : State) : Cell := s.cell s.cid
def State.setMyCell (s : State) (x : Cell) : State := s.setCell s.cid x
def State.myTile (s : State) : Tile := s.tile s.tid
def State.setMyTile (s : State) (x : Tile) : State := s.setTile s.tid x
def State.ctx (s : State) : Ctx := s.ctxAt s.cid s.sid
def State.setCtx (s : State) (x : Ctx) : State := s.setCtxAt s.cid s.sid x

/-- The number of cells and tiles of the module (01 R13, R14). -/
def numCells : Nat := 41024
def numTiles : Nat := 2564
def computeTiles : Nat := 2560

/-- Compute tiles have no clock in power state 1 (15 R372). -/
def State.clocked (s : State) (t : Nat) : Bool := s.host.pstate != 1#2 || decide (computeTiles ≤ t)

/-- Groups of a tile (01 R13); a service tile counts with the first span of its die (log entry 7). -/
def clusterOf (t : Nat) : Nat := if t < computeTiles then t / 16 else 40 * (t - computeTiles)
def spanOf (t : Nat) : Nat := if t < computeTiles then t / 160 else 4 * (t - computeTiles)
def dieOf (t : Nat) : Nat := if t < computeTiles then t / 640 else t - computeTiles

/-- The narrowest scope whose group holds both tiles: tile 1, cluster 2, die 3, device 4 (11 R265, R267). A service tile
is in no cluster with a compute tile. -/
def scopeOf (t u : Nat) : Nat :=
  if t = u then 1
  else if t < computeTiles ∧ u < computeTiles ∧ clusterOf t = clusterOf u then 2
  else if dieOf t = dieOf u then 3
  else 4

/-! ### Registers of the acting context -/

/-- Scalar registers (04 R74). -/
def State.rs (s : State) (n : Nat) : Word := vget s.ctx.regs n 0#64
def State.ws (s : State) (n : Nat) (v : Word) : State := s.setCtx { s.ctx with regs := vset s.ctx.regs n v }
/-- Vector registers, accumulators of a bank, region registers of the acting cell. -/
def State.rv (s : State) (n : Nat) : Vector (BitVec 32) 32 := vget s.myCell.v n zeroLanes
def State.wv (s : State) (n : Nat) (x : Vector (BitVec 32) 32) : State :=
  s.setMyCell { s.myCell with v := vset s.myCell.v n x }
def State.rg (s : State) (n : Nat) : GReg := vget s.myCell.g n GReg.unset
/-- A write of a region register; an error that it held is gone (06 R148). -/
def State.wg (s : State) (n : Nat) (x : GReg) : State :=
  s.setMyCell { s.myCell with g := vset s.myCell.g n x, gbad := s.myCell.gbad &&& ~~~(1#16 <<< n) }

/-- What the acting context's instruction has captured, when it has paid and waits (04 R79). -/
def State.held (s : State) : Option Cap := if s.ctx.paid.isSome then s.ctx.cap else none

/-! ### Register windows (04 R77) -/

/-- A window that no live context owns and that holds no parked image. -/
def Cell.windowEmpty (x : Cell) (w : Nat) : Bool :=
  (x.slots.toList.all fun c => !c.live || c.win.toNat != w) && x.parkw.all fun q => q.1 != w
/-- The window that a context of identity `f` takes when it becomes live, and the images that stay: the window of its own
image, else the lowest empty one, else that of the image parked longest ago, which is dropped. -/
def Cell.freeWindow (x : Cell) (f : Word) : BitVec 4 × List (Nat × Word × Vector Word 16) :=
  match (if f = 0#64 then none else x.parkw.find? (·.2.1 == f)) with
  | some q => (BitVec.ofNat 4 q.1, x.parkw.filter (·.1 != q.1))
  | none =>
    match (List.range 16).find? x.windowEmpty with
    | some w => (BitVec.ofNat 4 w, x.parkw)
    | none => (BitVec.ofNat 4 (x.parkw.headD (0, 0#64, Vector.replicate 16 0#64)).1, x.parkw.drop 1)

/-- A context becomes live in slot (c, n), in a window of its own. -/
def State.setLive (s : State) (c n : Nat) (y : Ctx) : State :=
  let x := s.cell c
  let w := x.freeWindow y.ident
  s.setCell c ({ x with parkw := w.2 }.setSlot n { y with win := w.1 })

def Cell.bank (x : Cell) (b : Bool) : Bank := if b then x.bank1 else x.bank0
def Cell.setBank (x : Cell) (b : Bool) (k : Bank) : Cell := if b then { x with bank1 := k } else { x with bank0 := k }

/-- User mode (00 R9). -/
def Ctx.user (c : Ctx) : Bool := c.mode == 0#2
/-- The address space of a tile (04 R81 asid; 12 R291). -/
def State.asidOf (s : State) (t : Nat) : BitVec 12 := (s.tile t).asid
def State.asid (s : State) : BitVec 12 := s.asidOf s.tid
/-- The 16-bit space tag of a message (12 R291): the asid within the module. -/
def spaceTag (a : BitVec 12) : BitVec 16 := a.setWidth 16

/-- The pc after an instruction of `n` words. -/
def State.addPc (s : State) (n : Nat) : State := s.setCtx { s.ctx with pc := s.ctx.pc + BitVec.ofNat 64 (2 * n) }
def State.setPc (s : State) (a : Word) : State := s.setCtx { s.ctx with pc := a }

/-! ### The address map (01 R20, R21) -/

def scratchBase : Nat := 0xFE00000000000000
def windowBase : Nat := 0xFF00000000000000
def scratchSize : Nat := 0x100000

/-- The memory key of a byte of a tile's scratchpad. -/
def scratchKey (t off : Nat) : Nat := scratchBase + t * scratchSize + off

/-- Where an address lies. -/
inductive Place where
  | virt
  | scratch (t off : Nat)
  | window (w off : Nat)
  | unmapped
  deriving DecidableEq, Repr

def place (va : Nat) : Place :=
  if va < 2 ^ 57 then .virt
  else if scratchBase ≤ va ∧ va < scratchBase + numTiles * scratchSize then
    .scratch ((va - scratchBase) / scratchSize) ((va - scratchBase) % scratchSize)
  else if windowBase ≤ va ∧ va < windowBase + 8 * 0x1000000 then
    .window ((va - windowBase) / 0x1000000) ((va - windowBase) % 0x1000000)
  else .unmapped

/-- Drop every line of the L1 of every cell of a tile; an L1 may drop a line at any time (10 R242). -/
def State.dropL1 (s : State) (t : Nat) : State :=
  { s with cells := s.cells.map fun (k, c) => if k / 16 = t ∧ c.l1 ≠ [] then (k, { c with l1 := [] }) else (k, c) }

/-- Acquire by the context of slot (c, n): the fetch buffer is emptied (03 R73); at cluster scope or wider the L1 is invalidated
(10 R243, 11 R269), here those of all cells of the tile, which may synchronise among each other at tile scope after it (R270). -/
def State.acquireAt (s : State) (c n scope : Nat) : State :=
  let s := s.setCtxAt c n { s.ctxAt c n with fbuf := none }
  if 2 ≤ scope then s.dropL1 (c / 16) else s
def State.acquire (s : State) (scope : Nat) : State := s.acquireAt s.cid s.sid scope

/-- A write by a tile at memory keys: it invalidates the lines in the L1 of every cell of that tile (10 R243). -/
def State.dropLines (s : State) (t : Nat) (lines : List Nat) : State :=
  { s with cells := s.cells.map fun (k, c) =>
      if k / 16 = t ∧ c.l1 ≠ [] then (k, { c with l1 := c.l1.filter fun l => !lines.contains l.line }) else (k, c) }

/-- Perform a list of bytes, each with the bits it writes, on behalf of tile `t`. -/
def applyBytes : Memory → List WByte → Memory
  | m, [] => m
  | m, b :: bs => applyBytes (wr8 m b.pa ((rd8 m b.pa &&& ~~~b.mask) ||| (b.val &&& b.mask))) bs

def State.perform (s : State) (t : Nat) (bs : List WByte) : State :=
  { s.dropLines t (bs.map fun b => b.pa / 64) with mem := applyBytes s.mem bs }

/-- Whole bytes from a key on. -/
def wbytes (pa : Nat) : List Byte → List WByte
  | [] => []
  | b :: bs => ⟨pa, b, 0xFF#8⟩ :: wbytes (pa + 1) bs

/-- Write `n` little-endian bytes on behalf of tile `t`. -/
def State.putN (s : State) (t pa n x : Nat) : State := s.perform t (wbytes pa (leBytes n x))
def State.put64 (s : State) (t pa : Nat) (x : Word) : State := s.putN t pa 8 x.toNat

/-- A free value (log entry 5): each draw advances the tick. -/
def State.draw (s : State) : Word × State := (Config.freeWord s.tick, { s with tick := s.tick + 1 })

/-! ### Saturating sums (05 R121) -/

def sat32 (n : Nat) : BitVec 32 := BitVec.ofNat 32 (min n (2 ^ 32 - 1))
def addSat (a b : BitVec 32) : BitVec 32 := sat32 (a.toNat + b.toNat)
/-- Units join a context's allowances, saturating (05 R121). -/
def Ctx.addAllow (c : Ctx) (i m : BitVec 32) : Ctx := { c with iallow := addSat c.iallow i, mallow := addSat c.mallow m }
def incSat (a : Word) : Word := if a = BitVec.allOnes 64 then a else a + 1#64

/-! ### The violation log (06 R147) -/

/-- Enter one event in a tile's violation log: 16 entries, the oldest overwritten, and a saturating count. -/
def State.logViolation (s : State) (t : Nat) (addr : Word) (cell desc kind right : Nat) : State :=
  let e : BitVec 256 := BitVec.ofNat 256
    (s.cycle.toNat + addr.toNat * 2 ^ 64 + (cell % 2 ^ 32) * 2 ^ 128 + (desc % 2 ^ 16) * 2 ^ 160
      + (kind % 256) * 2 ^ 176 + (right % 256) * 2 ^ 184)
  let x := s.tile t
  let old := if x.viol.length < 16 then x.viol else x.viol.drop 1
  s.setTile t { x with viol := old ++ [e], violN := incSat x.violN }

/-- Enter one event in a tile's error log (14 R360). -/
def State.logError (s : State) (t : Nat) (array addr : Nat) (lasting : Bool) : State :=
  let e : BitVec 256 := BitVec.ofNat 256
    (s.cycle.toNat + (array % 2 ^ 64) * 2 ^ 64 + (addr % 2 ^ 64) * 2 ^ 128 + (if lasting then 2 ^ 192 else 0))
  let x := s.tile t
  let old := if x.elog.length < 16 then x.elog else x.elog.drop 1
  s.setTile t (if lasting then { x with elog := old ++ [e], elogL := incSat x.elogL }
    else { x with elog := old ++ [e], elogT := incSat x.elogT })

end Sys2Proof.Machine
end

