-- ==== Sys2Proof/Machine/Canon.lean ====
section
/-! DEFINITION. Sys2Proof/Machine/Canon.lean: sets of coordinates as unions of boxes on natural numbers, the canonical form
(06 R134), Cover (R137), counting, enumeration and splitting; the descriptors of regions, their boxes as natural numbers, the
lengths of ragged ones. -/

namespace Sys2Proof.Machine

/-- One dimension of a box on unbounded naturals: lo, lo + step, …, `cnt` members (06 R128). -/
structure Rng where
  lo   : Nat
  cnt  : Nat
  step : Nat
  deriving DecidableEq, Repr

/-- A box: dimension 0, the outermost, first. -/
abbrev NBox := List Rng

def Rng.has (r : Rng) (x : Nat) : Bool := decide (r.lo ≤ x) && (x - r.lo) % r.step == 0 && decide ((x - r.lo) / r.step < r.cnt)
def Rng.last (r : Rng) : Nat := r.lo + (r.cnt - 1) * r.step

def NBox.has : NBox → List Nat → Bool
  | [], _ => true
  | r :: b, x :: xs => r.has x && NBox.has b xs
  | _ :: _, [] => false

/-- The number of members of a box. -/
def NBox.size (b : NBox) : Nat := b.foldl (fun n r => n * r.cnt) 1
/-- The number of members of a list of disjoint boxes. -/
def volume (bs : List NBox) : Nat := bs.foldl (fun n b => n + NBox.size b) 0

/-! ### Canon (06 R134) -/

/-- The points at which a range begins or ends: every run of consecutive members, rising. -/
def Rng.cuts (r : Rng) : List Nat :=
  if r.step = 1 ∨ r.cnt = 1 then [r.lo, r.lo + r.cnt]
  else (List.range r.cnt).flatMap fun i => [r.lo + i * r.step, r.lo + i * r.step + 1]

/-- Merge two rising lists into one without repeats; the first argument bounds their length. -/
def mergeNat : Nat → List Nat → List Nat → List Nat
  | _, [], b => b
  | _, a, [] => a
  | 0, a, _ => a
  | n + 1, x :: a, y :: b =>
    if x < y then x :: mergeNat n a (y :: b)
    else if y < x then y :: mergeNat n (x :: a) b
    else x :: mergeNat n a b

/-- Drop repeats of a rising list. -/
def dedup : List Nat → List Nat
  | [] => []
  | [x] => [x]
  | x :: y :: l => if x = y then dedup (y :: l) else x :: dedup (y :: l)

def allCuts (bs : List NBox) : List Nat :=
  bs.foldl (fun acc b => match b with
    | [] => acc
    | r :: _ => let c := dedup r.cuts; mergeNat (acc.length + c.length) acc c) []

/-- Consecutive pairs. -/
def gaps : List Nat → List (Nat × Nat)
  | x :: y :: l => (x, y) :: gaps (y :: l)
  | _ => []

/-- The slices at x: the rests of the boxes whose first dimension has x. -/
def sliceAt (bs : List NBox) (x : Nat) : List NBox :=
  bs.filterMap fun b => match b with
    | r :: rest => if r.has x then some rest else none
    | [] => none

/-- A group of equal slices with its maximal runs (first, length), the last run first. -/
abbrev Group1 := List NBox × List (Nat × Nat)

def addRun (a n : Nat) : List (Nat × Nat) → List (Nat × Nat)
  | [] => [(a, n)]
  | (x, c) :: rs => if x + c = a then (x, c + n) :: rs else (a, n) :: (x, c) :: rs

def addGroup (sub : List NBox) (a n : Nat) : List Group1 → List Group1
  | [] => [(sub, [(a, n)])]
  | (l, rs) :: gs => if l = sub then (l, addRun a n rs) :: gs else (l, rs) :: addGroup sub a n gs

/-- Take from a rising list the members `next`, `next + st`, … as far as they go; their number and the rest. -/
def takeProg (st : Nat) : Nat → List Nat → Nat × List Nat
  | _, [] => (0, [])
  | next, x :: xs =>
    if x = next then let r := takeProg st (next + st) xs; (r.1 + 1, r.2)
    else let r := takeProg st next xs; (r.1, x :: r.2)

/-- The progressions of single members (strided mode); the first argument bounds the list's length. -/
def singles : Nat → List Nat → List Rng
  | 0, _ => []
  | _, [] => []
  | _, [x] => [⟨x, 1, 1⟩]
  | n + 1, x :: y :: l =>
    let r := takeProg (y - x) y (y :: l)
    ⟨x, r.1 + 1, y - x⟩ :: singles n r.2

/-- Progressions(C, mode) of a set given by its maximal runs, rising. -/
def progs (strided : Bool) (runs : List (Nat × Nat)) : List Rng :=
  if strided then
    let long := runs.filter fun r => r.2 != 1
    let one := (runs.filter fun r => r.2 == 1).map (·.1)
    long.map (fun r => ⟨r.1, r.2, 1⟩) ++ singles one.length one
  else runs.map fun r => ⟨r.1, r.2, 1⟩

/-- Boxes(S, k, mode) of the set of points for which `op` holds of "in some box of L" and "in some box of R", over `n` more
dimensions; `op false false` is taken to be false. -/
def boxesFrom (op : Bool → Bool → Bool) (strided : Bool) : Nat → List NBox → List NBox → List NBox
  | 0, L, R => if op (!L.isEmpty) (!R.isEmpty) then [[]] else []
  | n + 1, L, R =>
    if L.isEmpty && R.isEmpty then []
    else
      let groups := (gaps (allCuts (L ++ R))).foldl (fun gs ab =>
        let sub := boxesFrom op strided n (sliceAt L ab.1) (sliceAt R ab.1)
        if sub.isEmpty then gs else addGroup sub ab.1 (ab.2 - ab.1) gs) []
      groups.flatMap fun g => (progs strided g.2.reverse).flatMap fun q => g.1.map fun b => q :: b

/-- The sort key: the lo vector, then the step vector. -/
def boxKey (b : NBox) : List Nat := b.map (·.lo) ++ b.map (·.step)
def lexLt : List Nat → List Nat → Bool
  | [], [] => false
  | [], _ => true
  | _, [] => false
  | x :: xs, y :: ys => decide (x < y) || (x == y && lexLt xs ys)

def insertBox (b : NBox) : List NBox → List NBox
  | [] => [b]
  | c :: cs => if lexLt (boxKey b) (boxKey c) then b :: c :: cs else c :: insertBox b cs
def sortBoxes : List NBox → List NBox
  | [] => []
  | b :: bs => insertBox b (sortBoxes bs)

/-- Canon of a set combined of two unions of boxes. -/
def canonOf (op : Bool → Bool → Bool) (strided : Bool) (n : Nat) (L R : List NBox) : List NBox :=
  sortBoxes (boxesFrom op strided n L R)
def opOr (a b : Bool) : Bool := a || b
def opAnd (a b : Bool) : Bool := a && b
def opDiff (a b : Bool) : Bool := a && !b
/-- Canon of a union of boxes. -/
def canon (strided : Bool) (n : Nat) (L : List NBox) : List NBox := canonOf opOr strided n L []

/-- Two unions hold the same set; one holds no member outside the other. -/
def sameSet (n : Nat) (L R : List NBox) : Bool := canon false n L == canon false n R
def subSet (n : Nat) (L R : List NBox) : Bool := (boxesFrom opDiff false n L R).isEmpty

/-! ### Cover (06 R137) -/

/-- The hull of two boxes, dimension by dimension. -/
def hull2 : NBox → NBox → NBox
  | r :: b, q :: c => ⟨min r.lo q.lo, max r.last q.last - min r.lo q.lo + 1, 1⟩ :: hull2 b c
  | _, _ => []

/-- The members of a range that lie in a step-1 range. -/
def Rng.countIn (r h : Rng) : Nat :=
  let lo := if h.lo ≤ r.lo then 0 else ceilDiv (h.lo - r.lo) r.step
  let hi := if h.lo + h.cnt ≤ r.lo then 0 else min r.cnt (ceilDiv (h.lo + h.cnt - r.lo) r.step)
  hi - lo

def boxCountIn : NBox → NBox → Nat
  | r :: b, h :: c => r.countIn h * boxCountIn b c
  | _, _ => 1

/-- |H - U| for a canonical list, whose boxes are disjoint. -/
def missing (bs : List NBox) (h : NBox) : Nat := NBox.size h - (bs.foldl (fun n b => n + boxCountIn b h) 0)

/-- All pairs i < j in order. -/
def pairs : List NBox → List (NBox × NBox)
  | [] => []
  | b :: bs => bs.map (fun c => (b, c)) ++ pairs bs

/-- The pair whose hull adds the fewest members, at least one; the first on a tie. -/
def bestHull (bs : List NBox) : Option (Nat × NBox) :=
  (pairs bs).foldl (fun best bc =>
    let h := hull2 bc.1 bc.2
    let c := missing bs h
    if c = 0 then best
    else match best with
      | none => some (c, h)
      | some (c0, _) => if c < c0 then some (c, h) else best) none

/-- Cover(), by rounds, each of which adds at least one member of the hull of all the boxes. -/
def coverFuel (strided : Bool) (n : Nat) : Nat → List NBox → List NBox
  | 0, bs => bs
  | fuel + 1, bs =>
    if bs.length ≤ 8 then bs
    else match bestHull bs with
      | some (_, h) => coverFuel strided n fuel (canon strided n (h :: bs))
      | none =>
        match bs with
        | [] => []
        | b :: rest => coverFuel strided n fuel (canon strided n [rest.foldl hull2 (hull2 b b)])
/-- The members of the hull of all the boxes: Cover() has no more rounds. -/
def coverRounds : List NBox → Nat
  | [] => 0
  | b :: bs => NBox.size (bs.foldl hull2 (hull2 b b))
def cover (strided : Bool) (n : Nat) (bs : List NBox) : List NBox := coverFuel strided n (coverRounds bs) bs

/-! ### Clipping, splitting, enumeration -/

/-- A range on integers clipped to [0, size). -/
def clipRng (lo : Int) (cnt step size : Nat) : Rng :=
  let i0 := if lo < 0 then ceilDiv (-lo).toNat step else 0
  let i1 := if lo < size then min cnt (ceilDiv ((size : Int) - lo).toNat step) else 0
  ⟨(lo + (i0 * step : Nat)).toNat, i1 - i0, step⟩

/-- A box clipped to sizes; `none` when nothing is left. -/
def clipBox : List Nat → NBox → Option NBox
  | _, [] => some []
  | [], r :: b => (clipBox [] b).map (r :: ·)
  | n :: ns, r :: b =>
    let q := clipRng r.lo r.cnt r.step n
    if q.cnt = 0 then none else (clipBox ns b).map (q :: ·)

/-- The members with row-major index `i` to `j - 1` of a box, as boxes (06 R159). -/
def boxPart : NBox → Nat → Nat → List NBox
  | [], i, j => if i < j then [[]] else []
  | r :: b, i, j =>
    let sz := NBox.size b
    if sz = 0 ∨ j ≤ i then []
    else
      let row (k a c : Nat) : List NBox := (boxPart b a c).map (⟨r.lo + k * r.step, 1, 1⟩ :: ·)
      let i0 := i / sz
      let j0 := j / sz
      if i0 = j0 then row i0 (i % sz) (j % sz)
      else
        let first := if i % sz = 0 then i0 else i0 + 1
        (if i % sz = 0 then [] else row i0 (i % sz) sz)
          ++ (if first < j0 then [⟨r.lo + first * r.step, j0 - first, r.step⟩ :: b] else [])
          ++ (if j % sz = 0 then [] else row j0 0 (j % sz))

/-- The members with index `i` to `j - 1` of a list of boxes. -/
def listPart : List NBox → Nat → Nat → List NBox
  | [], _, _ => []
  | b :: bs, i, j =>
    let n := NBox.size b
    boxPart b (min i n) (min j n) ++ listPart bs (i - n) (j - n)

/-- The coordinates of the member with row-major index `i` of a box. -/
def boxMember : NBox → Nat → List Nat
  | [], _ => []
  | r :: b, i => let sz := NBox.size b; (r.lo + i / sz * r.step) :: boxMember b (i % sz)

/-- The member with index `i` of a list of boxes, in canonical enumeration order (06 R159). -/
def listMember : List NBox → Nat → List Nat
  | [], _ => []
  | b :: bs, i => if i < NBox.size b then boxMember b i else listMember bs (i - NBox.size b)

/-- The first member, in enumeration order, of boxes that lies outside a union. -/
def firstOutside (n : Nat) (U : List NBox) : List NBox → Option (List Nat)
  | [] => none
  | b :: bs =>
    match canonOf opDiff false n [b] U with
    | [] => firstOutside n U bs
    | c :: _ => some (c.map (·.lo))

/-! ### Descriptors and region registers -/

/-- The descriptor in slot `i` of address space `asid` (06 R141). -/
def State.descOf (s : State) (asid : BitVec 12) (i : Nat) : Desc := mget s.descs (asid.toNat * 4096 + i) Desc.none
def State.desc (s : State) (i : BitVec 12) : Desc := s.descOf s.asid i.toNat
def Desc.installed (D : Desc) : Bool := D.rank != 0#8
def Desc.n (D : Desc) : Nat := D.rank.toNat
def Desc.sizes (D : Desc) : List Nat := (D.size.toList.map (·.toNat)).take D.n

def Dim.rng (x : Dim) : Rng := ⟨x.lo.toNat, x.cnt.toNat, x.step.toNat⟩
def Rng.dim (r : Rng) : Dim := ⟨BitVec.ofNat 32 r.lo, BitVec.ofNat 32 r.cnt, BitVec.ofNat 32 r.step⟩
def oneRng : Rng := ⟨0, 1, 1⟩
/-- A box with exactly `n` dimensions: those at or beyond the rank take no part (R128). A region register or a grant whose RANK
is not that of a descriptor that has replaced its own is read over the new rank: further dimensions hold 0 alone, and those
beyond it are left out (R144 states no case; DESIGN CHOICE, log entry 34). -/
def fitBox (n : Nat) (b : NBox) : NBox := (b ++ List.replicate n oneRng).take n
def GReg.nboxes (g : GReg) (n : Nat) : List NBox := g.boxes.map fun b => fitBox n (b.map Dim.rng)

/-- The outer box of a ragged region. -/
def GReg.outer (g : GReg) (n : Nat) : NBox := ((g.nboxes n).headD []).take (n - 1)
/-- The number of table entries. -/
def GReg.entries (g : GReg) (n : Nat) : Nat := NBox.size (g.outer n)
/-- The lengths that the table holds, for the first `k` outer members. -/
def tableLens (m : Memory) (ltab : Nat) : Nat → List Nat
  | 0 => []
  | k + 1 => tableLens m ltab k ++ [rdN m (ltab + 4 * k) 4]
def State.lens (s : State) (g : GReg) (n : Nat) : List Nat :=
  if g.ragged then tableLens s.mem g.ltab.toNat (g.entries n) else []

end Sys2Proof.Machine
end

