-- ==== Sys2Proof/Machine/Translate.lean ====
section
/-! DEFINITION. Sys2Proof/Machine/Translate.lean: page walks, cached translations, rights, physical targets (10 R240 to R251),
and where an access goes. -/

namespace Sys2Proof.Machine

/-- An error response: the cause, taddr and tinfo of its trap, and the violation log's kind, descriptor and right. -/
structure Err where
  cause : Nat
  addr  : Word
  info  : Word
  log   : Option (Nat × Nat × Nat)
  deriving DecidableEq, Repr

/-- What an access needs of its page (10 Table 10-4). -/
inductive Need where
  | read | write | atomic | fetch | stage
  deriving DecidableEq, Repr

/-- Page sizes by size code, as the number of offset bits (10 Table 10-3). -/
def pageBits (size : BitVec 3) : Nat :=
  match size.toNat with
  | 0 => 12 | 1 => 16 | 2 => 21 | 3 => 25 | 4 => 30 | _ => 34

/-! ### Page-table entries (10 Table 10-2) -/

def pteV (e : Word) : Bool := e.getLsbD 0
def pteR (e : Word) : Bool := e.getLsbD 1
def pteW (e : Word) : Bool := e.getLsbD 2
def pteX (e : Word) : Bool := e.getLsbD 3
def pteS (e : Word) : Bool := e.getLsbD 4
def pteCM (e : Word) : BitVec 2 := e.extractLsb' 5 2
def pteSize (e : Word) : BitVec 3 := e.extractLsb' 7 3
def pteK (e : Word) : Bool := e.getLsbD 10
/-- PA bits 57:12 of the page or next table. -/
def ptePA (e : Word) : Nat := (e.extractLsb' 12 46).toNat * 4096

/-- The result of a walk; `refused` is the error response to the read of an entry: a table that lies nowhere, or (`lost`) in a
module that no path reaches or on a line with an uncorrectable error. -/
inductive Walk where
  | leaf (pte : Word)
  | absent
  | malformed
  | refused (lost : Bool)
  deriving DecidableEq, Repr

/-- Where a physical address leads (10 R240, 15 R367): its memory key and memory scope (11 Table 11-1). -/
inductive Phys where
  | ok (pa scope : Nat)
  | bad
  | lost
  deriving DecidableEq, Repr

/-- Where a physical address leads. One of target 2 that names this module's own id is local HBM at its offset: 10 R240 and 15 R367 do not
say (DESIGN CHOICE, log entry 37). -/
def State.phys (s : State) (pa : Nat) : Phys :=
  match pa / 2 ^ 56 with
  | 0 => if pa < 2 ^ 40 then .ok pa 1 else .bad
  | 1 => .ok pa 6
  | 2 =>
    let id := BitVec.ofNat 10 (pa / 2 ^ 46)
    if id = s.fab.devid then (if pa % 2 ^ 46 < 2 ^ 40 then .ok (pa % 2 ^ 46) 1 else .bad)
    else if !s.fab.domain.contains id then .bad
    else if 2 ^ 40 ≤ pa % 2 ^ 46 then .bad
    else if s.fab.lost.contains id then .lost
    else .ok pa 5
  | _ => .bad

/-- The size codes that a leaf may have at the level that VA bit `shift` indexes (10 R246). -/
def leafOk (shift : Nat) (size : BitVec 3) : Bool :=
  match shift, size.toNat with
  | 12, 0 => true | 12, 1 => true | 21, 2 => true | 21, 3 => true | 30, 4 => true | 30, 5 => true
  | _, _ => false

/-- The entry at a physical address, read at its home, with its memory key (10 R240, R244, R245). -/
def State.entryAt (s : State) (pa : Nat) : Except Walk (Nat × Word) :=
  match s.phys pa with
  | .ok k _ => if s.poison.contains (k / 64) then .error (.refused true) else .ok (k, rd64 s.mem k)
  | .lost => .error (.refused true)
  | .bad => .error (.refused false)

/-- Walk the remaining levels from the table at physical address `tab` (10 R245, R246): the keys of the entries read, and the
result. An entry with V = 0 is absent whatever its other bits: R246 calls one with a reserved bit set, CM 3 or SIZE 6 malformed too
(DESIGN CHOICE, log entry 37). -/
def State.walkFrom (s : State) (va : Nat) : Nat → List Nat → List Nat × Walk
  | _, [] => ([], .malformed)
  | tab, shift :: rest =>
    match s.entryAt (tab + 8 * (va / 2 ^ shift % 512)) with
    | .error w => ([], w)
    | .ok (k, e) =>
      if !pteV e then ([k], .absent)
      else if e.extractLsb' 58 6 != 0#6 || e.getLsbD 11 || pteCM e == 3#2 then ([k], .malformed)
      else if pteSize e == 7#3 then
        match rest with
        | [] => ([k], .malformed)
        | _ :: _ => let r := s.walkFrom va (ptePA e) rest; (k :: r.1, r.2)
      else if leafOk shift (pteSize e) then ([k], .leaf e)
      else ([k], .malformed)

/-- The five-level walk of an address space from its entry in the address-space table (10 R245), and the keys that it reads. -/
def State.walkKeys (s : State) (asid : BitVec 12) (va : Nat) : List Nat × Walk :=
  match s.entryAt (s.asBase.toNat + 8 * asid.toNat) with
  | .error w => ([], w)
  | .ok (k, root) =>
    if !root.getLsbD 0 then ([k], .absent)
    else let r := s.walkFrom va (ptePA root) [48, 39, 30, 21, 12]; (k :: r.1, r.2)
def State.walk (s : State) (asid : BitVec 12) (va : Nat) : Walk := (s.walkKeys asid va).2

/-- The translation that a leaf gives for the page of `va`. -/
def mkTlb (asid : BitVec 12) (va : Nat) (pte : Word) : TlbEntry :=
  ⟨asid, pteSize pte, va / 2 ^ pageBits (pteSize pte) * 2 ^ pageBits (pteSize pte), pte⟩

def TlbEntry.covers (e : TlbEntry) (asid : BitVec 12) (va : Nat) : Bool :=
  e.asid == asid && decide (e.va ≤ va) && decide (va < e.va + 2 ^ pageBits e.size)

/-- The cached translation of an address: the cell's micro-TLB, then its tile's TLB (10 R249). -/
def State.cached (s : State) (c : Nat) (asid : BitVec 12) (va : Nat) : Option TlbEntry :=
  match (s.cell c).utlb.find? (·.covers asid va) with
  | some e => some e
  | none => (s.tile (c / 16)).tlb.find? (·.covers asid va)

/-- The filter with the bits of a micro-TLB fill set: three hashes of the page base VA >> 12 and the size code (10 R250). -/
def filterAdd (b : BitVec 1024) (e : TlbEntry) : BitVec 1024 :=
  (List.finRange 3).foldl (fun b k => b ||| BitVec.ofNat 1024 (2 ^ (Config.filterHash k (e.va / 4096) e.size).val)) b
/-- Replace a cell's micro-TLB; the filter is cleared when no entry is left (10 R250). -/
def Cell.setUtlb (x : Cell) (l : List TlbEntry) : Cell :=
  { x with utlb := l, filt := if l = [] then 0#1024 else x.filt }

/-- Fill both TLBs with a translation, oldest entries dropped at 32 and 1,024 (10 R249; replacement is not architectural);
the fill of the micro-TLB sets the filter's bits (R250). -/
def State.fillTlb (s : State) (c : Nat) (e : TlbEntry) : State :=
  let x := s.cell c
  let t := s.tile (c / 16)
  let s := s.setCell c { x with utlb := (e :: x.utlb).take 32, filt := filterAdd x.filt e }
  s.setTile (c / 16) { t with tlb := (e :: t.tlb).take 1024 }

/-- The rights of Table 10-4; user data accesses never reach a page with S set (10 R247). -/
def permits (pte : Word) (need : Need) (user : Bool) : Bool :=
  !(user && pteK pte) &&
  match need with
  | .read => pteR pte && !(user && pteS pte)
  | .write => pteW pte && !(user && pteS pte)
  | .atomic => pteR pte && pteW pte && !(user && pteS pte)
  | .fetch => pteX pte
  | .stage => pteS pte

/-- Where an access goes: memory, or an element of format window 1 to 7, or nowhere. -/
inductive Acc where
  | mem (pa : Nat) (cached : Bool) (scope : Nat)
  | win (w off : Nat)
  | miss
  | err (e : Err)
  deriving DecidableEq, Repr

/-- Protection error on an address, with the kind that the violation log gets. -/
def protErr (va : Nat) (log : Option Nat) : Acc :=
  .err ⟨6, BitVec.ofNat 64 va, 0#64, log.map fun k => (k, 0, 0)⟩

/-- Through one translation: rights, then the physical target, then poison (10 R240, R244, R247). -/
def State.through (s : State) (pte : Word) (pageVa va : Nat) (need : Need) (user : Bool) : Acc :=
  if !permits pte need user then protErr va none
  else
    let bits := pageBits (pteSize pte)
    match s.phys (ptePA pte / 2 ^ bits * 2 ^ bits + (va - pageVa)) with
    | .bad => protErr va (some 2)
    | .lost => .err ⟨0x15, BitVec.ofNat 64 va, 0#64, none⟩
    | .ok pa sc =>
      if need ≠ .write ∧ s.poison.contains (pa / 64) then .err ⟨0x15, BitVec.ofNat 64 va, 0#64, none⟩
      else .mem pa (pteCM pte == 0#2 && sc != 5) sc

/-- The untranslated ranges (01 R20, R21; 03 R72): fetches never reach them, atomics and stage words not through windows. The
protection error of an atomic through windows 1 to 7 (10 R252) is entered in the violation log with kind 2, as one on an
address that is not mapped is (DESIGN CHOICE, log entry 35). -/
def State.rawAccess (s : State) (t : Nat) (user : Bool) (need : Need) (va n : Nat) : Acc :=
  match place va with
  | .virt => .miss
  | .scratch u off =>
    if need = .fetch then protErr va (some 2)
    else if user ∧ computeTiles ≤ u then protErr va (some 3)
    else if scratchSize < off + n then protErr va (some 2)
    else if need ≠ .write ∧ s.poison.contains (scratchKey u off / 64) then .err ⟨0x15, BitVec.ofNat 64 va, 0#64, none⟩
    else .mem (scratchKey u off) false (scopeOf t u)
  | .window 0 off =>
    if need = .fetch ∨ scratchSize < off + n then protErr va (some 2)
    else if need ≠ .write ∧ s.poison.contains (scratchKey t off / 64) then .err ⟨0x15, BitVec.ofNat 64 va, 0#64, none⟩
    else .mem (scratchKey t off) false 1
  | .window w off =>
    match need with
    | .read | .write => .win w off
    | _ => protErr va (some 2)
  | .unmapped => protErr va (some 2)

/-- A member address is never decoded through a window: the whole window range counts as not mapped (06 R143). -/
def inWindows (va : Nat) : Bool := decide (windowBase ≤ va) && decide (va < windowBase + 8 * 0x1000000)
def asMember (va : Nat) (a : Acc) : Acc := if inWindows va then protErr va (some 2) else a

/-- What the walk of an address gives an access: translation with tinfo bit 8 for a malformed entry (10 R246), an error for an error
response to its reads, else a miss, which the MTU handles. -/
def Walk.acc (w : Walk) (va : Nat) : Acc :=
  match w with
  | .malformed => .err ⟨5, BitVec.ofNat 64 va, 0x100#64, none⟩
  | .refused true => .err ⟨0x15, BitVec.ofNat 64 va, 0#64, none⟩
  | .refused false => protErr va (some 2)
  | _ => .miss

/-- An access of a cell in its address space: cached translations only; a miss goes to the MTU (10 R249), whose walk of a
malformed entry traps (R248). -/
def State.access (s : State) (c : Nat) (user : Bool) (need : Need) (va n : Nat) : Acc :=
  if va < 2 ^ 57 then
    match s.cached c (s.asidOf (c / 16)) va with
    | none => (s.walk (s.asidOf (c / 16)) va).acc va
    | some e => s.through e.pte e.va va need user
  else s.rawAccess (c / 16) user need va n

/-- An access of an engine, stream or home in address space `asid`: the tile's cached translation, else a walk of its own;
`miss` is an absent page, a malformed entry an error with cause 0x05 and tinfo bit 8 (10 R246, R248). -/
def State.walkAccess (s : State) (t : Nat) (asid : BitVec 12) (user : Bool) (need : Need) (va n : Nat) : Acc :=
  if va < 2 ^ 57 then
    match (s.tile t).tlb.find? (·.covers asid va) with
    | some e => s.through e.pte e.va va need user
    | none =>
      match s.walk asid va with
      | .leaf pte => s.through pte (mkTlb asid va pte).va va need user
      | w => w.acc va
  else s.rawAccess t user need va n

/-- The physical target of a virtual address, whatever its rights: cached, else walked. -/
def State.physOf (s : State) (c va : Nat) : Option Phys :=
  match s.cached c (s.asidOf (c / 16)) va with
  | some e => some (s.phys (ptePA e.pte / 2 ^ pageBits e.size * 2 ^ pageBits e.size + (va - e.va)))
  | none =>
    match s.walk (s.asidOf (c / 16)) va with
    | .leaf pte =>
      let bits := pageBits (pteSize pte)
      some (s.phys (ptePA pte / 2 ^ bits * 2 ^ bits + va % 2 ^ bits))
    | _ => none

/-- The bytes of an access that lie in charged memory (05 R113): the translated range and other tiles' scratchpads. -/
def chargedBytes (t va n : Nat) : Nat :=
  match place va with
  | .virt => n
  | .scratch u _ => if u = t then 0 else n
  | _ => 0

/-- The traffic units of `b` bytes (05 R114). -/
def units (b : Nat) : Nat := ceilDiv b 64

/-- Read `n` bytes as a cell sees them: from its L1 where it holds the line, else at the home (10 R242, R243). -/
def State.seen (s : State) (c : Nat) (cached : Bool) (pa n : Nat) : List Byte :=
  match (if cached then (s.cell c).l1.find? (·.line == pa / 64) else none) with
  | some l => (l.bytes.drop (pa % 64)).take n
  | none => rdBytes s.mem pa n

/-- The home slice of an offset in a module's local HBM, by the cluster that it belongs to (10 Table 10-1). -/
def homeSlice (off : Nat) : Nat := 10 * (off / 2 ^ 36 % 16) + off / 4096 % 10
/-- The home of a memory key as a stage store (10 R240, R255): a cluster's slice, 1,000 + tile for a scratchpad, and for another
module 5,000 + 160 × its id + the slice that its own rule gives. -/
def homeOf (pa : Nat) : Nat :=
  if scratchBase ≤ pa then 1000 + (pa - scratchBase) / scratchSize
  else if pa / 2 ^ 56 = 0 then homeSlice pa
  else if pa / 2 ^ 56 = 1 then pa % 2 ^ 56 / 4096 % 160
  else 5000 + 160 * (pa / 2 ^ 46 % 1024) + homeSlice (pa % 2 ^ 46)
/-- The tile in whose error log an error of local HBM is entered when an access of no tile finds it: the first one of the cluster
that is its home (14 R360; DESIGN CHOICE, log entry 30). -/
def homeTile (pa : Nat) : Nat := 16 * homeSlice pa

end Sys2Proof.Machine
end

