-- ==== Sys2Proof/Machine/Counters.lean ====
section
/-! DEFINITION. Sys2Proof/Machine/Counters.lean: message counters, the ready queue's acceptance and the firing check (12 R287,
R288, R294, R296, R300). -/

namespace Sys2Proof.Machine

def Tile.ctr (x : Tile) (n : Nat) : Counter := mget x.ctrs n Counter.zero
def Tile.setCtr (x : Tile) (n : Nat) (c : Counter) : Tile := { x with ctrs := mset x.ctrs n c }
def Tile.entry (x : Tile) (e : Nat) : WttEntry := mget x.wtt e WttEntry.free
def Tile.setEntry (x : Tile) (e : Nat) (w : WttEntry) : Tile := { x with wtt := mset x.wtt e w }

/-! ### JOIN word fields (12 Table 12-4) -/

def joinModule (j : Word) : BitVec 10 := j.extractLsb' 54 10
def joinTile (j : Word) : BitVec 12 := j.extractLsb' 42 12
def joinSoff (j : Word) : BitVec 17 := j.extractLsb' 25 17
def joinAfe (j : Word) : Bool := j.getLsbD 22
def joinCtr (j : Word) : BitVec 10 := j.extractLsb' 12 10
def joinPrio (j : Word) : Nat := (j.extractLsb' 10 2).toNat
def joinBpol (j : Word) : BitVec 2 := j.extractLsb' 8 2
def joinAff (j : Word) : Nat := (j.extractLsb' 4 4).toNat
def joinUnmI (j : Word) : Bool := j.getLsbD 3
def joinUnmM (j : Word) : Bool := j.getLsbD 2
def joinCtl (j : Word) : Bool := j.getLsbD 1
/-- A null reference: bits 63:25 and 21:12 all zero (12 R297). -/
def joinNull (j : Word) : Bool := j.extractLsb' 25 39 == 0#39 && j.extractLsb' 12 10 == 0#10

/-- The 64-byte record at a memory key. -/
def rdRecord (m : Memory) (pa : Nat) : Vector Word 8 :=
  #v[rd64 m pa, rd64 m (pa + 8), rd64 m (pa + 16), rd64 m (pa + 24), rd64 m (pa + 32), rd64 m (pa + 40),
    rd64 m (pa + 48), rd64 m (pa + 56)]

/-- Entries that count against the 256 (12 R300). -/
def Tile.queued (x : Tile) : Nat := (x.rq.filter fun e => e.own.isNone).length + x.resv
/-- No WTT entry is fired-pending. -/
def Tile.nonePending (x : Tile) : Bool := x.wtt.all fun e => e.2.st != 2#2
/-- The ready queue accepts an entry (12 R300). -/
def Tile.accepts (x : Tile) : Bool := decide (x.queued < 256) && x.nonePending

/-- The ready entry of a frame held at memory key `f` (12 R298, R300). -/
def frameEntry (m : Memory) (f : Word) (own : Option Nat) (scope : Nat) (ctr : Option (BitVec 10)) : RqEntry :=
  ⟨none, f, true, false, joinPrio (rd64 m (f.toNat + 0x38)), 0, own, scope, ctr, 0⟩

/-- The memory key of a record address in a tile's address space, when it can be read (12 R296; log entry 8). -/
def State.recordKey (s : State) (t : Nat) (a : Word) : Option Nat :=
  match s.walkAccess t (s.asidOf t) false .read a.toNat 64 with
  | .mem pa _ _ => some pa
  | _ => none

/-- A frame's memory key: frames lie in HBM through the tile's address space (12 R299). -/
def State.frameKey (s : State) (t : Nat) (f : Word) : Option Nat := s.recordKey t f

/-- Read a frame's entry through translation. -/
def State.frameRq (s : State) (t : Nat) (f : Word) (scope : Nat) (ctr : Option (BitVec 10)) : RqEntry :=
  match s.frameKey t f with
  | some pa => { frameEntry s.mem (BitVec.ofNat 64 pa) none scope ctr with frame := f }
  | none => ⟨none, f, true, false, 0, 0, none, scope, ctr, 0⟩

/-- A WTT entry after its enqueue: armed again when it re-arms a task record, else free (12 R296). -/
def WttEntry.fired (w : WttEntry) : WttEntry :=
  if w.rearm && !w.frame then { w with st := 1#2, held := none } else { w with st := 0#2, held := none }

/-- Enqueue what entry `e` has fired, or leave the entry fired-pending (12 R296, R300). -/
def State.putFired (s : State) (t e : Nat) (r : RqEntry) : State :=
  let x := s.tile t
  let w := x.entry e
  if x.accepts then s.setTile t { x with rq := x.rq ++ [r], wtt := mset x.wtt e w.fired }
  else s.setTile t (x.setEntry e { w with st := 2#2, held := some r })

/-- An access of tile `t` that no instruction makes: the correctable errors of its lines are met at the end of the step
(`State.meetTouched`; 10 R244). -/
def State.note (s : State) (t pa n : Nat) : State := if s.flaws = [] then s else { s with touched := s.touched ++ [(t, pa, n)] }
/-- The same for the walk to a record, when the tile holds no translation, and for the record's 64 bytes. -/
def State.noteRecord (s : State) (t : Nat) (a : Word) : State :=
  if s.flaws = [] then s
  else
    let ks := if a.toNat < 2 ^ 57 ∧ (s.tile t).tlb.all (fun e => !e.covers (s.asidOf t) a.toNat) then (s.walkKeys (s.asidOf t) a.toNat).1 else []
    let s := ks.foldl (fun s k => s.note t k 8) s
    match s.recordKey t a with | some pa => s.note t pa 64 | none => s

/-- The ready entry of a task record: its copy, its grant words read and cleared; none when it cannot be read (12 R296).
It does not count as enqueued by a kernel-mode instruction, also when the firing is that of one (WTARM, CTRADD, SUSP): R297 does
not say (DESIGN CHOICE, log entry 36). -/
def State.takeRecord (s : State) (t : Nat) (a : Word) (scope : Nat) : Option (RqEntry × State) :=
  (s.recordKey t a).map fun pa =>
    let r := rdRecord s.mem pa
    (⟨some r, 0#64, false, false, joinPrio (vget r 7 0#64), 0, none, scope, none, 0⟩, s.putN t (pa + 0x30) 8 0)

/-- Fire(e) (12 R296): read the record and clear its grant words, or take the frame; enqueue it or leave it pending. The
counter's SCOPE goes with the entry and is cleared; a frame receives the counter's refunds at its resume (R308). -/
def State.fire (s : State) (t e : Nat) : State :=
  let x := s.tile t
  let w := x.entry e
  let c := x.ctr w.ctr.toNat
  let sc := c.scope.toNat
  let s := (s.setTile t (x.setCtr w.ctr.toNat { c with scope := 0#3 })).noteRecord t w.record
  if w.frame then
    let r := s.frameRq t w.record sc (some w.ctr)
    (match s.frameKey t w.record with | some pa => s.putN t (pa + 8) 1 1 | none => s).putFired t e r
  else
    match s.takeRecord t w.record sc with
    | some (r, s) => s.putFired t e r
    | none =>
      let s := s.logViolation t w.record 0 0 4 0
      s.setTile t ((s.tile t).setEntry e w.fired)

/-- An entry that a counter's value makes fire (12 R296). -/
def WttEntry.due (w : WttEntry) (c : Nat) (v : BitVec 32) : Bool :=
  w.ctr.toNat == c && w.thresh != 0#32 && (w.st == 1#2 || w.st == 3#2) && decide (w.thresh ≤ v)

/-- One pass over the entries in rising index; true when one fired. -/
def firePass (t c : Nat) : List Nat → State → Bool × State
  | [], s => (false, s)
  | e :: es, s =>
    let x := s.tile t
    let w := x.entry e
    let k := x.ctr c
    if w.due c k.value then
      let s := s.setTile t (x.setCtr c { k with value := k.value - w.thresh })
      (true, (firePass t c es (s.fire t e)).2)
    else firePass t c es s

/-- CheckFire(c) (12 R296): passes until none fires; each firing lowers VALUE, so VALUE + 1 passes are enough. -/
def checkFireFuel (t c : Nat) : Nat → State → State
  | 0, s => s
  | n + 1, s =>
    match firePass t c ((s.tile t).wtt.map (·.1)) s with
    | (false, s) => s
    | (true, s) => checkFireFuel t c n s

def State.checkFire (s : State) (t c : Nat) : State := checkFireFuel t c (((s.tile t).ctr c).value.toNat + 1) s

/-- The context's CWAIT of `n` words is over, with the refunds of a counter. -/
def Ctx.endCwait (y : Ctx) (i m : BitVec 32) (n : Nat) : Ctx :=
  { y.addAllow i m with wait := .none, paid := none, cap := none, pc := y.pc + BitVec.ofNat 64 (2 * n) }
/-- A CWAIT of slot (c, n) on counter `k` of tile `t` completes when its condition holds: the acquire at the recorded scope, and
the refunds, in one step at the counter (12 R293). The wait of a stopped user context stays pending (14 R355). -/
def State.meetWait (s : State) (t k c n : Nat) : State :=
  let y := s.ctxAt c n
  match y.wait with
  | .counter i v len =>
    let q := (s.tile t).ctr k
    if y.live && (!y.user || (s.tile t).run == .running) && i.toNat == k && decide (v ≤ q.value) then
      ((s.setCtxAt c n (y.endCwait q.iref q.mref len)).acquireAt c n q.scope.toNat).setTile t
        ((s.tile t).setCtr k { q with scope := 0#3, iref := 0#32, mref := 0#32 })
    else s
  | _ => s

/-- The places of the contexts of a tile that wait in a CWAIT, in rising order of cell and slot: the counter's order, which 12 R312
leaves open (DESIGN CHOICE, log entry 35). -/
def State.waiters (s : State) (t : Nat) : List (Nat × Nat) :=
  (s.cells.filter fun (c, _) => c / 16 == t).flatMap fun (c, x) =>
    ((List.range 11).filter fun n => match (x.slot n).wait with | .counter _ _ _ => true | _ => false).map fun n => (c, n)

/-- Every CWAIT on counter `k` whose condition holds completes. -/
def State.meetWaits (s : State) (t k : Nat) : State := (s.waiters t).foldl (fun s p => s.meetWait t k p.1 p.2) s

/-- Add to a counter at a scope, with refunds; the waits that it satisfies complete, then its firing check runs (12 R288,
R293, 11 R274). That the waits come before the check is the model's choice (DESIGN CHOICE, log entry 35). -/
def State.bump (s : State) (t c : Nat) (by_ : BitVec 32) (scope : Nat) (iref mref : BitVec 32) : State :=
  let x := s.tile t
  let k := x.ctr c
  let k : Counter := ⟨k.value + by_, BitVec.ofNat 3 (max k.scope.toNat scope), addSat k.iref iref, addSat k.mref mref⟩
  ((s.setTile t (x.setCtr c k)).meetWaits t c).checkFire t c

end Sys2Proof.Machine
end

