-- ==== Sys2Proof/Machine/Ops.lean ====
section
/-! DEFINITION. Sys2Proof/Machine/Ops.lean: the outcomes of an instruction, fault records, TAKING A TRAP and returning from it
(14 R337 to R343, R346), the predicate stack (04 R88 to R92), releases and acquires (11 R268, R269). -/

namespace Sys2Proof.Machine

/-- What a meaning answers, on the state after its charge, its pc still at the first word. -/
inductive Res where
  /-- Completes; the pc goes to the next instruction. -/
  | ok (s : State)
  /-- Completes; the pc goes to the target. -/
  | goto (s : State) (target : Word)
  /-- Completes and the context has left its slot, or its pc stands as it is. -/
  | left (s : State)
  /-- Traps with no effect and its charge returned (02 R42, 05 R117). -/
  | trap (e : Err)
  /-- Traps, and the state given is kept: a trap that is the instruction's effect, or one that leaves an effect. -/
  | trapKeep (s : State) (e : Err)
  /-- Traps with its charge returned, and keeps only this effect (06 R136). -/
  | trapOnly (f : State → State) (e : Err)
  /-- Waits: tried again, abandoned by a PMREQ. -/
  | poll
  /-- Waits in a way of its own, abandoned by a PMREQ (CWAIT). -/
  | pollAs (w : Wait)
  /-- Waits for issued accesses or a unit: tried again, completed before a PMREQ acts. -/
  | hold
  /-- Waits for its queues with its bindings to be released (08 R207): tried again, completed before a PMREQ acts. -/
  | closing
  /-- Waits in the cell's vector queue for a stream unit, or for an instruction before it that waits for one (08 R196, R205): what it
  claims, and what it asks for. -/
  | streamWait (k : VClaim) (f : State → State)
  /-- Its stage step has joined a park queue (10 R259). -/
  | parked (s : State)
  /-- Its access has missed in the TLBs. -/
  | miss (va : Word) (kind : AccKind)
  /-- The access of an instruction in the vector queue has missed. -/
  | missIn (k : VClaim) (va : Word) (kind : AccKind)
  /-- The read on which its charge depends has missed: its charge is not taken yet. -/
  | missFirst (va : Word) (kind : AccKind)
  /-- Stalls before it is issued: nothing is charged, and a PMREQ finds it not issued (01 R22, 05 R117). -/
  | stall
  /-- Stalls so, having asked for a page. -/
  | stallFor (f : State → State)

abbrev Result := Host.Outcome State Fault Refusal

/-- A trap with cause, taddr and tinfo, nothing for the violation log. -/
def mkErr (cause : Nat) (addr info : Word) : Err := ⟨cause, addr, info, none⟩

/-! ### Pending accesses and the bytes that they touch (11 R266) -/

/-- Two byte ranges share a byte. -/
def overlap (a n b m : Nat) : Bool := decide (a < b + m) && decide (b < a + n)
/-- A pending access touches these bytes. -/
def Pend.touches (p : Pend) (pa n : Nat) : Bool :=
  match p with
  | .load a m _ _ _ _ _ _ => overlap a m pa n
  | .store bs _ _ => bs.any fun b => overlap b.pa 1 pa n
def Ctx.pendTouches (c : Ctx) (pa n : Nat) : Bool := c.pend.any (·.touches pa n)

/-- A unit that slot `n` of the cell has pushed and that is not yet performed touches these bytes (08 R206). -/
def Cell.pushTouches (x : Cell) (n : BitVec 4) (pa k : Nat) : Bool :=
  x.strm.toList.any fun b =>
    match b with
    | some st => st.pushed.any fun q => q.slot == n &&
        q.ws.any fun b => overlap b.pa 1 pa k
    | none => false

/-- Slot `n` of the cell has pushed a unit that is not yet performed. -/
def Cell.pushes (x : Cell) (n : BitVec 4) : Bool :=
  x.strm.toList.any fun b => match b with | some st => st.pushed.any fun q => q.slot == n | none => false

/-- An access or a pushed unit of the acting context that is not yet performed touches these bytes: a later access of the
context to them waits. -/
def State.pendTouches (s : State) (pa n : Nat) : Bool := s.ctx.pendTouches pa n || s.myCell.pushTouches s.sel.slot pa n
def State.pendMeets (s : State) (bs : List WByte) : Bool := bs.any fun b => s.pendTouches b.pa 1

/-- Stores of a VMEM of the context are pending: its later accesses wait (08 R201). -/
def Ctx.vmemPending (c : Ctx) : Bool :=
  c.pend.any fun p => match p with | .store _ _ k => k == .vmem | .load _ _ _ _ _ _ _ _ => false
/-- An acquire load is pending: it holds back the later accesses that it covers (11 R269). -/
def Ctx.acqPending (c : Ctx) : Bool :=
  c.pend.any fun p => match p with | .load _ _ _ _ _ _ a _ => a.isSome | .store _ _ _ => false
/-- An access that acts at issue waits for the context's pending vector stores and acquire loads. -/
def Ctx.accessHeld (c : Ctx) : Bool := c.vmemPending || c.acqPending

/-! ### Entries of the vector queue (08 R196, R205) -/

/-- Nothing claimed: an entry whose result is formed. -/
def VClaim.none : VClaim := ⟨[], [], Option.none, Option.none⟩
/-- The entry has not taken its effect yet. -/
def VEnt.isOpen (e : VEnt) : Bool := e.kind != .ready
/-- The entry of the acting context's instruction, which waits in the cell's vector queue with it. -/
def State.ownEnt (s : State) (e : VEnt) : Bool := e.kind == .waits && e.slot == s.sel.slot
/-- The acting context's vector instruction waits in the queue, at the place that it took at its issue. -/
def State.queueWait (s : State) (k : VClaim) : State :=
  let x := s.myCell
  if x.vq.any s.ownEnt then s
  else s.setMyCell { x with vq := x.vq ++ [⟨s.sel.slot, s.ctx.ident, true, 15#4, 0#5, .waits, k⟩] }
/-- The instruction of the acting context that has waited in the queue leaves it with no effect, or the context leaves its slot no more:
its bindings stay. -/
def State.leaveQueue (s : State) : State :=
  let mine (e : VEnt) : Bool := (e.kind == .waits || e.kind == .release) && e.slot == s.sel.slot
  if s.myCell.vq.any mine then s.setMyCell { s.myCell with vq := s.myCell.vq.filter fun e => !mine e } else s
def State.unqueue (s : State) : State := if s.ctx.paid.isSome then s.leaveQueue else s

/-- The release of binding `k` of the acting cell (08 R207). -/
def releaseEnt (slot : BitVec 4) (ident : Word) (k : Nat) : VEnt :=
  ⟨slot, ident, false, 15#4, 0#5, .release, ⟨[], [28 + k], some (28 + k, Option.none), Option.none⟩⟩
def VEnt.releases (e : VEnt) (k : Nat) : Bool := e.kind == .release && e.claim.bind == some (28 + k, Option.none)
/-- The acting context begins WaitContextQueues(): its bindings are to be released behind what stands in the queue (08 R207). -/
def State.closeStreams (s : State) : State :=
  (List.range 4).foldl (fun s k =>
    let x := s.myCell
    match vget x.strm k Option.none with
    | some st =>
      if st.slot == s.sel.slot && !x.vq.any (·.releases k) then
        s.setMyCell { x with vq := x.vq ++ [releaseEnt s.sel.slot s.ctx.ident k] }
      else s
    | Option.none => s) s

/-! ### Errors (00 R11, 10 R244, 14 R360) -/

/-- The code of an array and the address in an error log entry. -/
def Array.code : Array → Nat × Nat
  | .line n => (1, 64 * n)
  | .region n => (2, n)
  | .prot t => (3, t)
  | .acc n => (4, n)
  | .sreg n => (5, n)
  | .vreg n => (6, n)
  | .tlb t => (7, t)
  | .granule n => (8, n)
  | .park h => (9, h)
  | .counter n => (10, n)
  | .wtt n => (11, n)

/-- The tile in whose error log an error of the array is entered: where it was found, which is where the array is (14 R360); a line is
found where it is accessed, and a park queue of a cluster's slice counts with the cluster's first tile. -/
def Array.tile : Array → Nat
  | .line _ => numTiles
  | .region n => n / 256
  | .prot t => t
  | .acc n => n / 128
  | .sreg n => n / 4096
  | .vreg n => n / 512
  | .tlb t => t
  | .granule n => n / 1024
  | .park h => if h < 160 then 16 * h else if 1000 ≤ h then h - 1000 else numTiles
  | .counter n => n / 1024
  | .wtt n => n / 512

/-! ### Fault records (14 R346) -/

/-- Write one record (VA, WHO, ID, CYCLE) into the MTU's ring and increment the service tile's counter. -/
def State.ringPut (s : State) (n : Nat) (r : Word × Word × BitVec 32 × Word) : State :=
  let m := s.mtu n
  let t := (m.fqb.toNat - scratchBase) / scratchSize
  let a := m.fqb.toNat + 32 * (m.tail % 64)
  let s := s.setMtu n { m with tail := m.tail + 1, sent := m.sent ++ [r.2.2.1] }
  let s := if scratchBase ≤ m.fqb.toNat ∧ t < numTiles then
      ((((s.note t a 32).put64 t a r.1).put64 t (a + 8) r.2.1).putN t (a + 16) 8 r.2.2.1.toNat).put64 t (a + 24) r.2.2.2
    else s
  s.bump (computeTiles + n / 4) (m.fqc.toNat % 1024) 1#32 0 0#32 0#32

/-- WHO of a fault record: global cell index, slot, asid, kind. -/
def whoWord (c n : Nat) (asid : BitVec 12) (kind : Nat) : Word :=
  BitVec.ofNat 64 (c % 65536 + n % 16 * 2 ^ 16 + asid.toNat * 2 ^ 20 + kind * 2 ^ 32)

/-- Send a fault record, or hold it while the ring has 64 records not yet consumed. The fault id is answered. -/
def State.sendFault (s : State) (n : Nat) (va who : Word) : BitVec 32 × State :=
  let m := s.mtu n
  let id := m.next
  let s := s.setMtu n { m with next := m.next + 1#32 }
  if m.sent.length < 64 then (id, s.ringPut n (va, who, id, s.cycle))
  else
    let m := s.mtu n
    (id, s.setMtu n { m with held := m.held ++ [(va, who, id, s.cycle)] })

/-- A record has been consumed, as an ANSWER that names its id says: the oldest held fault goes out (14 R346). -/
def State.consume (s : State) (n : Nat) (id : BitVec 32) : State :=
  let m := s.mtu n
  if !m.sent.contains id then s
  else
    let m := { m with sent := m.sent.erase id }
    match m.held with
    | [] => s.setMtu n m
    | r :: rs => (s.setMtu n { m with held := rs }).ringPut n r

/-- Park an access at the MTU of tile `t`'s span: a record goes out in normal mode, none in late-answer mode (R345, R348). -/
def State.parkFault (s : State) (t : Nat) (va who : Word) : BitVec 32 × State :=
  let n := spanOf t
  let m := s.mtu n
  if m.late then (m.next, s.setMtu n { m with next := m.next + 1#32 }) else s.sendFault n va who

/-- Enter a correctable error in a tile's log; a lasting one also sends a fault record of kind 6 (14 R360). -/
def State.reportError (s : State) (t array addr : Nat) (lasting : Bool) : State :=
  let s := s.logError t array addr lasting
  if lasting then (s.sendFault (spanOf t) (BitVec.ofNat 64 addr) (whoWord (16 * t) 0 (s.asidOf t) 6)).2 else s

/-- An access by tile `t` meets the correctable error of an array, if it has one: it is corrected, retried once and logged. -/
def State.meetFlaw (s : State) (t : Nat) (a : Array) : State :=
  match s.flaws.find? (·.1 == a) with
  | none => s
  | some (_, lasting) =>
    { s with flaws := s.flaws.filter (·.1 != a) }.reportError t a.code.1 a.code.2 lasting

/-- A read of several arrays meets their correctable errors. -/
def State.meetArrays (s : State) (sel : Array → Bool) : State :=
  s.flaws.foldl (fun s f => if sel f.1 then s.meetFlaw f.1.tile f.1 else s) s

/-- The lines of `n` bytes from a memory key on. -/
def linesOf (pa n : Nat) : List Nat := (List.range ((pa + n - 1) / 64 + 1 - pa / 64)).map (pa / 64 + ·)
/-- A read of `n` bytes by tile `t` meets the correctable errors of its lines. -/
def State.meetLines (s : State) (t pa n : Nat) : State :=
  if s.flaws = [] then s else (linesOf pa n).foldl (fun s l => s.meetFlaw t (.line l)) s

/-- A walk by tile `t` meets the correctable errors of the lines of the entries that it reads (10 R244). -/
def State.meetWalk (s : State) (t : Nat) (asid : BitVec 12) (va : Nat) : State :=
  (s.walkKeys asid va).1.foldl (fun s k => s.meetLines t k 8) s
/-- An access of tile `t` to address `va` of a space: its walk, when the tile holds no translation, meets them. -/
def State.meetPath (s : State) (t : Nat) (asid : BitVec 12) (va : Nat) : State :=
  if s.flaws = [] || decide (2 ^ 57 ≤ va) || ((s.tile t).tlb.any (·.covers asid va)) then s else s.meetWalk t asid va

/-- The end of a step: the correctable errors are met of what was accessed in it by no instruction (10 R244, 14 R360). What their own
fault records then access is met at the end of the next step. -/
def State.meetTouched (s : State) : State :=
  s.touched.foldl (fun s x => s.meetLines x.1 x.2.1 x.2.2) { s with touched := [] }

/-- The trap of an access of the acting context that is refused: when a walk refuses it, the reads of the entries have met the correctable
errors of their lines (10 R244). -/
def State.refuse (s : State) (va : Word) (e : Err) : Res :=
  if s.flaws = [] || decide (2 ^ 57 ≤ va.toNat) || (s.cached s.cid s.asid va.toNat).isSome then .trap e
  else .trapOnly (fun t => t.meetWalk t.tid t.asid va.toNat) e

/-- A store of bytes by tile `t`: the correctable errors of their lines are met (10 R244), then it is performed. -/
def State.write (s : State) (t : Nat) (bs : List WByte) : State :=
  (if s.flaws = [] then s else bs.foldl (fun s b => s.meetFlaw t (.line (b.pa / 64))) s).perform t bs

def AccKind.code : AccKind → Nat
  | .load => 0 | .store => 1 | .fetch => 2 | .stream => 3 | .engine => 4 | .stage => 5

/-! ### Trap entry and return (14 R337, R338, R342, R343) -/

/-- tstat after entry: PMODE, TACT 1, ILEN. -/
def tstatOf (mode : BitVec 2) (ilen : Nat) : Word := BitVec.ofNat 64 (mode.toNat + 4 + ilen % 8 * 16)
def tact (c : Ctx) : Bool := c.tstat.getLsbD 2

/-- A double trap: the context stops issuing, its registers as they are, and a fault record of kind 7 goes out. -/
def State.doubleTrap (s : State) (e : Err) : State :=
  let s := s.setCtx { s.ctx with double := true, wait := .none, paid := none, cap := none }
  (s.sendFault (spanOf s.tid) e.addr (whoWord s.cid s.sid s.asid 7)).2

/-- The entry itself (14 R337): the trap registers are saved, kernel mode is entered, the pc goes to tvec. -/
def Ctx.enter (c : Ctx) (first : Word) (e : Err) (ilen : Nat) : Ctx :=
  { c with
    tpc := first
    tcause := BitVec.ofNat 64 e.cause
    taddr := e.addr
    tinfo := e.info
    tstat := tstatOf c.mode ilen
    mode := if c.mode = 0#2 then 1#2 else c.mode
    hnd := c.hnd || c.mode == 0#2
    pc := c.tvec
    wait := .none
    paid := none
    cap := none }

/-- TAKING A TRAP: the one operation every trap of the acting context goes through. `ilen` is the number of words of the
instruction, 0 when it was not complete. The pc is still at the first word. -/
def State.takeTrap (s : State) (e : Err) (ilen : Nat) : State :=
  let s := match e.log with
    | some (kind, desc, right) => s.logViolation s.tid e.addr s.cid desc kind right
    | none => s
  let c := s.ctx
  if tact c || c.tvec == 0#64 || c.tvec.getLsbD 0 then s.doubleTrap e
  else s.setCtx (c.enter c.pc e ilen)

/-- TRET's effect (14 R343): the mode never rises, TACT is cleared, the fetch buffer is emptied. -/
def Ctx.trapReturn (c : Ctx) : Ctx :=
  { c with
    mode := if (c.tstat.extractLsb' 0 2) ≤ c.mode then c.tstat.extractLsb' 0 2 else c.mode
    hnd := c.hnd && c.tstat.extractLsb' 0 2 != 0#2
    tstat := c.tstat &&& ~~~4#64
    pc := c.tpc
    fbuf := none }

/-! ### The predicate stack (04 R88 to R92) -/

/-- The depth of a context's predicate stack. -/
def Ctx.pdepth (c : Ctx) : Nat := c.pst.length + c.spilled

/-- The memory key of the spill entry that is j-th from the bottom (04 R91): the area wraps at the scratchpad's end. -/
def spillKey (t : Nat) (pspill : Word) (j : Nat) : Nat :=
  scratchKey t (((pspill.extractLsb' 3 17).toNat * 8 + 8 * (j - 1)) % scratchSize)

def spillWord (e : PEntry) : Word := 0#31 ++ bit 1 e.s ++ e.mask
def unspill (w : Word) : PEntry := ⟨w.getLsbD 32, w.extractLsb' 0 32⟩

/-- The running AND of the spilled entries, recomputed from the area after one is read back (log entry 9). -/
def State.spillAnd (s : State) : Nat → Bool × BitVec 32
  | 0 => (true, BitVec.allOnes 32)
  | j + 1 =>
    let e := unspill (rd64 s.mem (spillKey s.tid s.ctx.pspill (j + 1)))
    let r := s.spillAnd j
    (e.s && r.1, e.mask &&& r.2)

/-- Push an entry (04 R88, R91); `none` at depth 64. -/
def State.push (s : State) (e : PEntry) : Option State :=
  let c := s.ctx
  if 64 ≤ c.pdepth then none
  else if c.pst.length < 16 then some (s.setCtx { c with pst := e :: c.pst })
  else
    let bot := c.pst.getLastD ⟨true, BitVec.allOnes 32⟩
    let s := s.write s.tid (wbytes (spillKey s.tid c.pspill (c.spilled + 1)) (leBytes 8 (spillWord bot).toNat))
    some (s.setCtx { c with
      pst := e :: c.pst.dropLast
      spilled := c.spilled + 1
      pss := c.pss && bot.s
      psmask := c.psmask &&& bot.mask })

/-- The spilled entry nearest the top whose line holds an uncorrectable error: a pop reads them all for the running AND. -/
def State.spillLost (s : State) : Option Nat :=
  ((List.range s.ctx.spilled).reverse.map (· + 1)).find? fun j => s.poison.contains (spillKey s.tid s.ctx.pspill j / 64)

/-- Pop the top entry; when spilled entries lie below, the one nearest the top is read back (04 R91). There is no pop of an empty
stack, nor one that an uncorrectable error meets. -/
def State.pop (s : State) : Option (PEntry × State) :=
  let c := s.ctx
  match c.pst with
  | [] => none
  | e :: rest =>
    if c.spilled = 0 then some (e, s.setCtx { c with pst := rest })
    else if s.spillLost.isSome then none
    else
      let s := (List.range c.spilled).foldl (fun s j => s.meetLines s.tid (spillKey s.tid c.pspill (j + 1)) 8) s
      let b := unspill (rd64 s.mem (spillKey s.tid c.pspill c.spilled))
      let r := s.spillAnd (c.spilled - 1)
      some (e, s.setCtx { c with
        pst := rest ++ [b]
        spilled := c.spilled - 1
        pss := r.1
        psmask := r.2 })

/-- The trap where there is no pop: predicate underflow (04 R92), or uncorrectable memory error with the entry's address in the own
scratchpad (10 R244). -/
def State.popErr (s : State) : Err :=
  match s.ctx.pst, s.spillLost with
  | _ :: _, some j => mkErr 0x15 (BitVec.ofNat 64 (spillKey s.tid s.ctx.pspill j)) 0#64
  | _, _ => mkErr 0x0D s.ctx.pc 0#64

/-- The mask that a condition pushes (04 R88). -/
def fullMask (b : Bool) : BitVec 32 := if b then BitVec.allOnes 32 else 0#32
def condEntry (b : Bool) : PEntry := ⟨b, fullMask b⟩

/-- AND of the entries of a list and of the spilled ones. -/
def Ctx.andFrom (c : Ctx) (l : List PEntry) : PEntry :=
  l.foldl (fun r e => ⟨r.s && e.s, r.mask &&& e.mask⟩) ⟨c.pss, c.psmask⟩

/-- The guard of 04 R89 at depth k: the k-th entry, inverted under neg, and every entry below it; `none` when
k ≥ pdepth, but an empty stack with k = 0 and no neg gives 1 and all ones. -/
def Ctx.guardAt (c : Ctx) (k : Nat) (neg : Bool) : Option PEntry :=
  if c.pdepth ≤ k then (if k = 0 ∧ ¬ neg then some ⟨true, BitVec.allOnes 32⟩ else none)
  else
    match c.pst.drop k with
    | [] => some (c.andFrom [])
    | e :: rest => some (c.andFrom ((if neg then ⟨!e.s, ~~~e.mask⟩ else e) :: rest))

/-- The k-th entry itself, inverted under neg, and the AND of those below it (VSEL, 08 R210). -/
def Ctx.entryAt (c : Ctx) (k : Nat) (neg : Bool) : Option (PEntry × PEntry) :=
  match c.pst.drop k with
  | [] => none
  | e :: rest => some (if neg then ⟨!e.s, ~~~e.mask⟩ else e, c.andFrom rest)

/-! ### Ordering (11 R268, R269) -/

/-- The spill area's entries that a push or a pop may touch are still being accessed by the context itself: its spill
traffic keeps the order of the program (04 R91). -/
def State.spillBusy (s : State) : Bool :=
  decide (16 ≤ s.ctx.pdepth) &&
  (List.range (s.ctx.spilled + 1)).any fun j => s.pendTouches (spillKey s.tid s.ctx.pspill (j + 1)) 8

/-- The memory scope of a pending access and whether a release at `scope` waits for it (11 R267, R268). -/
def Pend.scopeNo : Pend → Nat
  | .load _ _ _ _ _ sc _ _ => sc
  | .store _ sc _ => sc

def coveredBy (scope accScope : Nat) : Bool := scope == 0 || decide (accScope ≤ scope)

/-- Every access that a release at `scope` covers has been performed: the context's pending accesses and the units that
it has pushed into write streams (08 R206). -/
def State.released (s : State) (scope : Nat) : Bool :=
  s.ctx.pend.all (fun p => !coveredBy scope p.scopeNo) && !s.myCell.pushes s.sel.slot

/-- Release at cluster scope or wider: no later access of the context may read a line fetched before it (11 R268, R272), so
the L1s of its tile drop their lines. -/
def State.release (s : State) (scope : Nat) : State := if 2 ≤ scope then s.dropL1 s.tid else s

/-- A context begins in a slot: the lines that its cell's L1 holds may be older than what it has read elsewhere, and are
dropped (11 R266, R276); then the acquire of its start. -/
def State.beginAt (s : State) (c n scope : Nat) : State :=
  (s.setCell c { s.cell c with l1 := [] }).acquireAt c n scope

/-- What a change of address space ends in a cell: its stream bindings (08 R207), both latch slots and their status (09 R223). -/
def Cell.changeSpace (x : Cell) : Cell := { x with strm := Vector.replicate 4 none, latch := Latch.reset }

/-- The kernel installs an address space on a tile: where it is another one, every cell of the tile changes with it and the
out-of-bounds counter is cleared (06 R148). -/
def State.changeSpace (s : State) (t : Nat) (a : BitVec 12) : State :=
  if s.asidOf t = a then s
  else
    let s := s.eachCell t Cell.changeSpace
    s.setTile t { s.tile t with asid := a, oob := 0#64 }

/-- Scope codes from PFX.X order: 7 acts as system (03 R47). -/
def scopeNo (b : BitVec 3) : Nat := min b.toNat 6

end Sys2Proof.Machine
end

