-- ==== Sys2Proof/Machine/Operands.lean ====
section
/-! DEFINITION. Sys2Proof/Machine/Operands.lean: every operand form (03 R50, R55 to R57): the two-operand and three-operand
forms, immediates, branch targets, addresses, and the traffic that an address costs. -/

namespace Sys2Proof.Machine

/-- Register operands of F0 (03 R55). -/
def opD (p : Pfx) (d : BitVec 4) (s : State) : Word := s.rs (p.dn d)
def opA (p : Pfx) (a : BitVec 4) (s : State) : Word := s.rs (p.an a)
def opE (p : Pfx) (s : State) : Word := s.rs p.en

/-- F0 arithmetic (03 R56): x, y are d, a without PFX.R and a, e with it. -/
def opX (p : Pfx) (d a : BitVec 4) (s : State) : Word := if p.hasR then opA p a s else opD p d s
def opY (p : Pfx) (a : BitVec 4) (s : State) : Word := if p.hasR then opE p s else opA p a s

/-- An immediate as a word, modulo 2^64. -/
def immWord (i : Int) : Word := BitVec.ofInt 64 i

/-- Target() (03 R57): the first word's address plus twice the sign-extended offset. -/
def target {n : Nat} (p : Pfx) (o : BitVec n) (s : State) : Word := s.ctx.pc + immWord (2 * p.imm o)

/-- The address of the word after an instruction of `n` words. -/
def nextPc (s : State) (n : Nat) : Word := s.ctx.pc + BitVec.ofNat 64 (2 * n)

/-- Addresses of LD and ST (04 R103), of LDX (R104), and of an access with a PFX.I byte offset (06 R149, 08 R212). -/
def addrF3 (p : Pfx) (a i : BitVec 4) (s : State) : Word := opA p a s + immWord (8 * p.immF3 i)
def addrX (p : Pfx) (a : BitVec 4) (s : State) : Word := opA p a s + p.immW
/-- Addresses of MMA and MLDB: 16-byte steps (09 R219). -/
def addr16 (p : Pfx) (a : BitVec 4) (s : State) : Word := opA p a s + immWord (16 * p.imm0)

/-- The traffic of one access of `n` bytes (05 R114); a misaligned one is never charged (04 R102). -/
def traffic (s : State) (va : Word) (n : Nat) : Nat :=
  if va.toNat % n = 0 then units (chargedBytes s.tid va.toNat n) else 0

/-- PFX.X order fields (03 R47): scope, and whether the order has a release or an acquire part. -/
def pScope (p : Pfx) : Nat := match p.order with | some o => scopeNo o.scope | none => 0
def pRel (p : Pfx) : Bool := match p.order with | some o => o.order.getLsbD 1 | none => false
def pAcq (p : Pfx) : Bool := match p.order with | some o => o.order.getLsbD 0 | none => false

/-- PFX.X guard fields (03 R47, 04 R89): depth and negate, 0 and off when absent. -/
def gDepth (p : Pfx) : Nat := match p.guard with | some g => g.depth.toNat | none => 0
def gNeg (p : Pfx) : Bool := match p.guard with | some g => g.neg | none => false

/-- Wait for the release of PFX.X order, then go on (04 R102). -/
def withRelease (p : Pfx) (s : State) (k : State → Res) : Res :=
  if pRel p then (if s.released (pScope p) then k (s.release (pScope p)) else .hold) else k s
/-- The acquire of PFX.X order. -/
def withAcquire (p : Pfx) (s : State) : State := if pAcq p then s.acquire (pScope p) else s

/-- Coordinate vectors (06 R150): dimension k of the vector that starts at register n. -/
def vecField (p : Pfx) (n k : Nat) (s : State) : BitVec 32 :=
  if p.wide then (s.rs (n + k / 2)).extractLsb' (32 * (k % 2)) 32
  else ((s.rs n).extractLsb' (16 * k) 16).setWidth 32
/-- The signed reading of GSHIFT. -/
def vecSigned (p : Pfx) (n k : Nat) (s : State) : Int :=
  if p.wide then ((s.rs (n + k / 2)).extractLsb' (32 * (k % 2)) 32).toInt
  else ((s.rs n).extractLsb' (16 * k) 16).toInt
/-- The number of registers of one vector. -/
def vecRegs (p : Pfx) : Nat := if p.wide then 2 else 1

end Sys2Proof.Machine
end

