-- ==== Sys2Proof/Machine/Flags.lean ====
section
/-! DEFINITION. Sys2Proof/Machine/Flags.lean: rounding modes (07 R168) and the sticky flags of fcsr (04 R82, 07 R170), and the
conditions of compares (04 R101). Scalar integer arithmetic sets no flag (04 R87). -/

namespace Sys2Proof.Machine

/-- Rounding modes. -/
inductive RM where
  | rne | rz | rup | rdn | rna
  deriving DecidableEq, Repr

/-- fcsr.RM: 5 to 7 act as RNE (04 R82). -/
def rmOfFcsr (f : BitVec 8) : RM :=
  match (f.extractLsb' 0 3).toNat with
  | 1 => .rz | 2 => .rup | 3 => .rdn | 4 => .rna | _ => .rne

/-- A rounding code of PFX.X arith or of a window: 1 to 5 name a mode, the others inherit (07 R168). -/
def rmOfCode (code : BitVec 3) (inherit : RM) : RM :=
  match code.toNat with
  | 1 => .rne | 2 => .rz | 3 => .rup | 4 => .rdn | 5 => .rna | _ => inherit

/-- The resolved rounding mode of an operation. -/
def roundMode (p : Pfx) (s : State) : RM :=
  match p.arith with
  | some a => rmOfCode a.rnd (rmOfFcsr s.ctx.fcsr)
  | none => rmOfFcsr s.ctx.fcsr

/-- PFX.X arith sat. -/
def satOn (p : Pfx) : Bool := match p.arith with | some a => a.sat | none => false

/-- Exception flags of an operation: NV DZ OF UF NX in bits 4:0, as in fcsr 7:3. -/
abbrev FFlags := BitVec 5
def fNV : FFlags := 16#5
def fDZ : FFlags := 8#5
def fOF : FFlags := 4#5
def fUF : FFlags := 2#5
def fNX : FFlags := 1#5
def flagIf (b : Bool) (f : FFlags) : FFlags := if b then f else 0#5

/-- OR flags into fcsr; flags are sticky (04 R82). -/
def Ctx.raise (c : Ctx) (f : FFlags) : Ctx := { c with fcsr := c.fcsr ||| (f ++ 0#3) }
def State.raise (s : State) (f : FFlags) : State := s.setCtx (s.ctx.raise f)

/-- The eight conditions of CMP and CMPI (04 R101). -/
def cmpCond (c : BitVec 3) (x y : Word) : Bool :=
  match c.toNat with
  | 0 => x == y
  | 1 => x != y
  | 2 => x.slt y
  | 3 => !x.slt y
  | 4 => x.ult y
  | 5 => !x.ult y
  | 6 => x &&& y != 0#64
  | _ => x &&& y == 0#64

end Sys2Proof.Machine
end

