-- ==== Sys2Proof/Machine/Issue.lean ====
section
/-! DEFINITION. Sys2Proof/Machine/Issue.lean: Issue() (02 R43), which runs before the meaning of every instruction: the stall of
a context that cannot issue, the encoding and privilege traps, the guard (04 R89, R90), the charge (05 R112 to R118), and
what becomes of the meaning's outcome. -/

namespace Sys2Proof.Machine

/-- How an instruction meets its guard: as R43; as a pushing instruction (04 R90); not at all (PRED, BT, BF, hints);
by the entries below the selector (VSEL, 08 R210). -/
inductive GuardMode where
  | plain | push | never | select
  deriving DecidableEq, Repr

/-- What Issue() needs to know of an instruction, and its meaning. -/
structure Shape where
  gm     : GuardMode := .plain
  kernel : Bool := false
  /-- The readiness condition before Issue (09 R218, 13 R316, R320). -/
  ready  : State → Bool := fun _ => true
  /-- An illegal-instruction or privilege trap of the instruction's own that needs the state: R340 puts it before the guard's
  underflow and the charge, R60 and R43 after a guard that is false (14 R340; 04 R97; 08 R205; DESIGN CHOICE, log entry 35). -/
  own    : State → Option Err := fun _ => none
  /-- Its charge depends on a stream unit that is not fetched yet: it waits in the vector queue before it is charged (08 R205). -/
  early  : State → Option VClaim := fun _ => none
  queues : Bool := false
  /-- Instruction and traffic units (05 Table 05-2). -/
  cost   : State → Nat × Nat := fun _ => (1, 0)
  body   : State → Res

/-- The shapes of most instructions: `n` instruction units and no traffic; with traffic; a pushing instruction (04 R90). -/
def plain (n : Nat) (body : State → Res) : Shape := { cost := fun _ => (n, 0), body := body }
def memory (n : Nat) (m : State → Nat) (body : State → Res) : Shape := { cost := fun s => (n, m s), body := body }
def pushing (n : Nat) (m : State → Nat) (body : State → Res) : Shape :=
  { gm := .push, cost := fun s => (n, m s), body := body }

/-! ### Which contexts can issue -/

/-- The registers that pending loads and queued vector instructions will write. -/
def Ctx.loadDests (c : Ctx) : List Nat :=
  c.vdest ++ c.pend.filterMap fun p => match p with | .load _ _ _ _ d _ _ _ => some d | .store _ _ _ => none

/-- The register an operand of the s class names. -/
def Operand.sreg : Operand → Option Nat
  | .s n => some n
  | _ => none
/-- The register an operand of the g class names. -/
def Operand.greg : Operand → Option Nat
  | .g n => some n
  | _ => none

/-- The scalar registers that an instruction reads or writes: its operands, and those that it touches besides: s14 of calls
and returns, the words of a SEND, the second register of a pair, the control words of an engine command. -/
def touchedRegs (i : Instr) (c : Ctx) : List Nat :=
  i.operands.filterMap Operand.sreg ++
  match i with
  | .call _ _ | .callr _ _ _ | .ret _ _ _ => [14]
  | .send p d a => (List.range (((vget c.regs (p.dn d) 0#64).extractLsb' 9 3).toNat + 1)).map (p.an a + ·)
  | .wdset _ _ a => [a.toNat]
  | .grdbox p d _ => (List.range 6).map (p.dn d + ·)
  | .acas p _ _ => [p.en + 1]
  | .afaddcp p d _ => [p.dn d + 1]
  | .copy p _ _ | .gpool p _ _ | .xred p _ _ | .xbcast p _ _ | .xgath p _ _ => (List.range 4).map (p.en + ·)
  | _ => []

/-- The interlock of 04 R79: a register that the instruction touches is still to be written by a load. -/
def interlocked (i : Instr) (c : Ctx) : Bool := (touchedRegs i c).any c.loadDests.contains

/-- Instructions whose rules say that they ignore PFX.X: the guard is as if it were absent (03 R51; 12 R289, R293, R295, R304;
13 R318; 07 R186). -/
def ignoresX : Instr → Bool
  | .send _ _ _ | .ctradd _ _ _ | .ctrrd _ _ _ | .cwait _ _ _ | .wtarm _ _ _ | .wtdis _ _ _ | .spawn _ _ _ | .start _ _ _
  | .hjoin _ _ _ | .susp _ _ _ | .arrive _ _ _ | .bwait _ _ _ | .bstat _ _ _ | .wdset _ _ _ => true
  | _ => false
/-- The prefix state as the guard of an instruction sees it. -/
def guardPfx (i : Instr) : Pfx :=
  let p := i.pfx.getD Pfx.none
  if ignoresX i then { p with guard := none } else p

/-- The region registers that an instruction reads: GBOX, GLAT and GRAG take the descriptor from g[d] (06 R155 to R157). -/
def readRegions (i : Instr) : List Nat :=
  match i with
  | .gset _ _ _ | .gempty _ _ _ | .gld _ _ _ => []
  | .gbox p d _ | .glat p d _ | .grag p d _ => [p.dn d]
  | .gdil p _ a | .gshift p _ a | .gproj p _ a | .gsplit p _ a | .gcanon p _ a => [p.an a]
  | .gint p d a | .guni p d a | .gsub p d a => if p.hasR then [p.an a, p.en] else [p.dn d, p.an a]
  | _ => i.operands.filterMap Operand.greg

/-- A region register that the instruction reads holds an uncorrectable error: cause 0x15, with the instruction's address in
taddr, since the register has no virtual one (06 R148; log entry 34). -/
def regionFault (i : Instr) (s : State) : Option Err :=
  if (readRegions i).any s.myCell.gbad.getLsbD then some (mkErr 0x15 s.ctx.pc 0#64) else none
/-- What an instruction captures of the region registers and descriptors when it issues: of those that can wait once they have paid,
LDS, STS, TRN and STQ take their region as it stands, GST the register that it stores, GLD the descriptors (04 R79; 06 R139, R144). -/
def State.capture (s : State) : Instr → Option Cap
  | .lds p _ a | .sts p _ a | .trn p _ a | .stq p _ a =>
    let g := s.rg (p.an a)
    some ⟨g, s.desc g.desc, s.lens g (s.desc g.desc).n, []⟩
  | .gst p d _ => some ⟨s.rg (p.dn d), Desc.none, [], []⟩
  | .gld _ _ _ => some ⟨GReg.unset, Desc.none, [], s.descs.filter fun e => e.1 / 4096 == s.asid.toNat⟩
  | _ => none
/-- The correctable errors of the region registers that it reads are corrected and logged. -/
def meetRegions (i : Instr) (s : State) : State :=
  if s.flaws = [] then s else (readRegions i).foldl (fun s n => s.meetFlaw s.tid (.region (16 * s.cid + n))) s

/-- A wait whose instruction is tried again by the context itself. -/
def Wait.retries : Wait → Bool
  | .none | .poll | .counter _ _ _ | .hold | .asked | .stream | .answered => true
  | _ => false

/-- A wait whose instruction has been issued: it goes on without being fetched again (04 R79). -/
def Wait.issued : Wait → Bool
  | .poll | .counter _ _ _ | .hold | .asked | .stream | .answered => true
  | _ => false
/-- A wait for whose end the cell keeps the instruction: also one for an access that has missed. -/
def Wait.keeps : Wait → Bool
  | .walk _ _ => true
  | w => w.issued

/-- Whether a context may issue at all: live, not waiting for a step of another unit, not stopped by a double trap, a
tile stop (14 R355; an access whose page has been served completes, R361) or the power state (15 R372). -/
def State.canRun (s : State) : Bool :=
  let c := s.ctx
  decide (s.sid ≤ 10) && decide (s.cid < numCells) && c.live && !c.double &&
  c.wait.retries &&
  (!c.user || s.myTile.run == .running || c.wait == .answered) &&
  (s.host.pstate == 0#2 || decide (computeTiles ≤ s.tid))

/-! ### Charges (05 R110 to R118) -/

/-- One budget pays `n` units; an unmetered one pays without decrease. -/
def Budget.pays (b : Budget) (n : Nat) : Bool := b.unm || decide (n ≤ b.count.toNat)
def Budget.pay (b : Budget) (n : Nat) : Budget := if b.unm then b else { b with count := b.count - BitVec.ofNat 32 n }
def Budget.repay (b : Budget) (n : BitVec 32) : Budget := if b.unm then b else { b with count := b.count + n }

/-- Charge(i, m): the charged context, or the reason of the yield (05 R118). Nothing is charged in kernel or firmware mode
(R112), nor again on an instruction that has paid and waits (R117). After a PMREQ every user-mode instruction that has not
paid fails its charge, with reason PREEMPT (R125). -/
def Ctx.charge (c : Ctx) (i m : Nat) : Ctx ⊕ BitVec 3 :=
  if !c.user || c.paid.isSome then .inl c
  else if c.preq.isSome then .inr 3#3
  else if c.ibud.pays i && c.mbud.pays m then .inl { c with ibud := c.ibud.pay i, mbud := c.mbud.pay m }
  else if !c.ibud.pays i then .inr 1#3
  else .inr 2#3

/-- The charge of an instruction that waits in the vector queue for the unit on which its charge depends (08 R205). One that a PMREQ finds
there has been issued and completes first (05 R125, R126): it pays its instruction units from the ibud that the PMREQ has kept, and
yields when that or mbud does not suffice. From what it then pays the spec does not say (DESIGN CHOICE, log entry 37). -/
def Ctx.chargeQueued (c : Ctx) (i m : Nat) : Ctx ⊕ BitVec 3 :=
  match c.charge i m, c.preq with
  | .inr r, some q =>
    if c.wait = .stream ∧ q.saved.pays i = true ∧ c.mbud.pays m = true then
      .inl { c with preq := some { q with saved := q.saved.pay i }, mbud := c.mbud.pay m }
    else .inr r
  | x, _ => x

/-- Give back what a trapping instruction has paid (05 R117); after a PMREQ, into the copy of ibud that it keeps (R125). -/
def Ctx.unpay (c : Ctx) : Ctx :=
  match c.paid with
  | some (i, m) =>
    let c := match c.preq with
      | some q => { c with preq := some { q with saved := q.saved.repay i } }
      | none => { c with ibud := c.ibud.repay i }
    { c with mbud := c.mbud.repay m, paid := none, cap := none, wait := .none }
  | none => { c with wait := .none }

/-- An abandoned wait: the instruction is issued and charged again, its charge stands (05 R125, 14 R350; log entry 19). -/
def Ctx.abandon (c : Ctx) : Ctx := { c with paid := none, cap := none, wait := .none }

/-- What the context remembers of its payment while it waits. -/
def Ctx.waitAs (c : Ctx) (i m : Nat) (w : Wait) : Ctx :=
  { c with
    wait := w
    paid := match c.paid with
      | some x => some x
      | none => if c.user then some (BitVec.ofNat 32 i, BitVec.ofNat 32 m) else some (0#32, 0#32) }

/-- A trap of the acting context's instruction while it waits: its payment is returned, and its place in the vector queue is free. -/
def State.trapBack (s : State) (e : Err) (ilen : Nat) : State := (s.unqueue.setCtx s.ctx.unpay).takeTrap e ilen

/-- The instruction is over: no wait, nothing paid in advance. -/
def Ctx.settle (c : Ctx) : Ctx := { c with wait := .none, paid := none, cap := none }
def State.settle (s : State) : State := s.setCtx s.ctx.settle

/-- cont is no place to continue at (05 R118). -/
def Ctx.badCont (c : Ctx) : Bool := c.cont == 0#64 || c.cont.getLsbD 0

/-- Yield(reason) up to the drain of the context's queues (05 R118, R125): a budget trap, or the context is leaving. -/
def State.beginYield (s : State) (reason : BitVec 3) (ilen : Nat) : State :=
  let c := s.ctx
  let kill := reason == 3#3 && (match c.preq with | some q => q.disp == 2#2 | none => false)
  if 2#2 ≤ c.bpol ∧ (reason = 1#3 ∨ reason = 2#3) then
    s.takeTrap (mkErr 8 c.pc (reason.setWidth 64)) ilen
  else if c.badCont && !kill then
    let s := match c.preq with
      | some q => if reason = 3#3 then s.setCtx { c with ibud := q.saved, preq := none } else s
      | none => s
    s.takeTrap (mkErr 8 c.pc (0x100#64 ||| reason.setWidth 64)) ilen
  else s.setCtx { c.settle with wait := .leaving reason }

/-! ### Issue -/

/-- The state after an outcome: `s0` before the instruction, `s1` after its charge of `i` and `m`. -/
def finish (n : Nat) (s0 s1 : State) (i m : Nat) : Res → State
  | .ok s => s.settle.addPc n
  | .goto s t => s.settle.setPc t
  | .left s => s
  | .trap e => (s0.unqueue.setCtx s0.ctx.unpay).takeTrap e n
  | .trapOnly f e => (f (s0.unqueue.setCtx s0.ctx.unpay)).takeTrap e n
  | .trapKeep s e => s.settle.takeTrap e n
  | .poll => s1.setCtx (s1.ctx.waitAs i m .poll)
  | .pollAs w => s1.setCtx (s1.ctx.waitAs i m w)
  | .hold => s1.setCtx (s1.ctx.waitAs i m .hold)
  | .closing => s1.closeStreams.setCtx (s1.ctx.waitAs i m .hold)
  | .streamWait k f => (f (s1.queueWait k)).setCtx (s1.ctx.waitAs i m .stream)
  | .parked s => s.setCtx (s.ctx.waitAs i m .stage)
  | .miss va k => s1.setCtx (s1.ctx.waitAs i m (.walk va k))
  | .missIn q va k => (s1.queueWait q).setCtx (s1.ctx.waitAs i m (.walk va k))
  | .missFirst va k => s0.setCtx { s0.ctx with wait := .walk va k }
  | .stall => if s0.ctx.paid.isSome then s0.setCtx { s0.ctx with wait := .poll } else s0
  | .stallFor f => f s0

/-- The guard that Issue() uses; `none` is predicate underflow (04 R89, R92; 08 R210). A PFX.X guard whose depth is at or
beyond pdepth traps, also with depth 0 on an empty stack (log entry 10). -/
def issueGuard (gm : GuardMode) (p : Pfx) (c : Ctx) : Option PEntry :=
  let k := gDepth p
  let neg := gNeg p
  match gm with
  | .never => some ⟨true, BitVec.allOnes 32⟩
  | .select => if c.pdepth ≤ k then none else (c.entryAt k neg).map (·.2)
  | _ => if p.guard.isSome && decide (c.pdepth ≤ k) then none else c.guardAt k neg

/-- Push an entry in a meaning, with the trap of 04 R92. -/
def pushRes (s : State) (e : PEntry) : Res :=
  if s.spillBusy then .hold
  else match s.push e with
    | some s => .ok s
    | none => .trap (mkErr 9 s.ctx.pc 0#64)

/-- An instruction that waits before its issue for whatever its own steps wait for: nothing is charged meanwhile (09 R218, 13
R320, 05 R117). -/
def Res.unissued : Res → Res
  | .hold => .stall
  | .streamWait _ f => .stallFor f
  | .miss va k | .missIn _ va k => .missFirst va k
  | r => r
def Shape.unissued (sh : Shape) : Shape := { sh with body := fun s => (sh.body s).unissued }

/-- The meaning of an instruction whose guard is true, unless a region register that it reads, and has not captured, is in error. -/
def runBody (i : Instr) (sh : Shape) (s : State) : Res :=
  match (if s.held.isSome then none else regionFault i s) with
  | some e => .trap e
  | none => sh.body (meetRegions i s)

/-- The instruction has paid and waits for an access. -/
def Res.waits : Res → Bool
  | .hold | .miss _ _ => true
  | _ => false
/-- An instruction that has paid and waits keeps what it has captured: `s` is the state in which it issues, `t` the one that it leaves. -/
def keepCap (i : Instr) (r : Res) (s t : State) : State :=
  match r.waits && s.ctx.paid.isNone, s.capture i with
  | true, some k => t.setCtx { t.ctx with cap := some k }
  | _, _ => t

/-- Issue() and the instruction (02 R43). A trap that is judged before the charge leaves the state as it was. An instruction
that has paid and waits goes on only when its unit is ready; one that has not paid when a PMREQ is pending yields. -/
def issue (i : Instr) (sh : Shape) (s : State) : Result :=
  let n := i.ilen
  let c := s.ctx
  if !s.canRun || interlocked i c then .next s
  else if !i.wf then .next (s.takeTrap (mkErr 1 c.pc i.tinfo) n)
  else if sh.kernel && c.user then .next (s.takeTrap (mkErr 3 c.pc i.tinfo) n)
  else
    match issueGuard sh.gm (guardPfx i) c with
    | none => .next (s.takeTrap ((sh.own s).getD (mkErr 0x0D c.pc 0#64)) n)
    | some g =>
      match (if g.s && c.paid.isNone then sh.own s else none) with
      | some e => .next (s.takeTrap e n)
      | none =>
        let stopped := c.user && c.preq.isSome && c.paid.isNone && !(sh.queues && c.wait == .stream)
        if g.s && !sh.ready s && !stopped then .next s
        else
          match (if g.s && c.paid.isNone && !stopped then sh.early s else none) with
          | some k => .next ((s.queueWait k).setCtx { c with wait := .stream })
          | none =>
            let s0 := if sh.queues && c.paid.isNone then s.leaveQueue else s
            let cost := if g.s then sh.cost s else (1, 0)
            match (if sh.queues then c.chargeQueued cost.1 cost.2 else c.charge cost.1 cost.2) with
            | .inr reason => .next (s0.beginYield reason n)
            | .inl c1 =>
              let s1 := s.setCtx c1
              let r :=
                if g.s then runBody i sh s1
                else if sh.gm = .push then pushRes s1 ⟨false, 0#32⟩
                else .ok s1
              .next (keepCap i r s (finish n s0 s1 cost.1 cost.2 r))

end Sys2Proof.Machine
end

