-- ==== Sys2Proof/Machine/NumFmt.lean ====
section
/-! DEFINITION. Sys2Proof/Machine/NumFmt.lean: the number formats, rounding, conversion, the Q4N codebook and floating
arithmetic (07 R165 to R178, R190, R191). A code of a format is a natural number; arithmetic is exact until the one rounding. -/

namespace Sys2Proof.Machine

/-- A floating format (07 Table 07-1): its width, fraction width, bias, and whether it has infinities and -0. -/
structure FFmt where
  bits : Nat
  frac : Nat
  bias : Nat
  ieee : Bool
  deriving DecidableEq, Repr

def fmtF64 : FFmt := ⟨64, 52, 1023, true⟩
def fmtF32 : FFmt := ⟨32, 23, 127, true⟩
def fmtF16 : FFmt := ⟨16, 10, 15, true⟩
def fmtBf16 : FFmt := ⟨16, 7, 127, true⟩
def fmtE4m3n : FFmt := ⟨8, 3, 8, false⟩
def fmtE5m2n : FFmt := ⟨8, 2, 16, false⟩

/-- Element types (06 Table 06-5). -/
inductive Ty where
  | f64 | f32 | bf16 | f16 | e4m3n | e5m2n | q4n | i8 | n8 | i16 | n16 | i32 | n32 | i64 | n64
  deriving DecidableEq, Repr

/-- The type of a code of Table 06-5; 15 is reserved. -/
def tyOfCode (c : Nat) : Option Ty :=
  match c with
  | 0 => some .f64 | 1 => some .f32 | 2 => some .bf16 | 3 => some .f16 | 4 => some .e4m3n | 5 => some .e5m2n
  | 6 => some .q4n | 7 => some .i8 | 8 => some .n8 | 9 => some .i16 | 10 => some .n16 | 11 => some .i32 | 12 => some .n32
  | 13 => some .i64 | 14 => some .n64 | _ => none

/-- The scalar format codes of 03 R69. -/
def tyOfScalarCode (c : Nat) : Ty :=
  match c with
  | 0 => .f64 | 1 => .f32 | 2 => .bf16 | 3 => .f16 | 4 => .e4m3n | 5 => .e5m2n | 6 => .i64 | _ => .n64

def Ty.flt : Ty → Option FFmt
  | .f64 => some fmtF64 | .f32 => some fmtF32 | .bf16 => some fmtBf16 | .f16 => some fmtF16
  | .e4m3n => some fmtE4m3n | .e5m2n => some fmtE5m2n | _ => none

/-- Signedness and width of an integer type. -/
def Ty.int : Ty → Option (Bool × Nat)
  | .i8 => some (true, 8) | .n8 => some (false, 8) | .i16 => some (true, 16) | .n16 => some (false, 16)
  | .i32 => some (true, 32) | .n32 => some (false, 32) | .i64 => some (true, 64) | .n64 => some (false, 64) | _ => none

/-- The size of an element in nibbles (Table 06-5). -/
def Ty.nibbles : Ty → Nat
  | .f64 | .i64 | .n64 => 16
  | .f32 | .i32 | .n32 => 8
  | .bf16 | .f16 | .i16 | .n16 => 4
  | .e4m3n | .e5m2n | .i8 | .n8 => 2
  | .q4n => 1
/-- The size in bytes; of q4n, half a byte, 0. -/
def Ty.bytes (t : Ty) : Nat := t.nibbles / 2

/-- The exact value of a code: `(-1)^neg * m * 2^e`. -/
inductive Val where
  | nan (sig : Bool)
  | inf (neg : Bool)
  | fin (neg : Bool) (m : Nat) (e : Int)
  deriving DecidableEq, Repr

namespace FFmt

def expMax (f : FFmt) : Nat := 2 ^ (f.bits - 1 - f.frac) - 1
def signBit (f : FFmt) : Nat := 2 ^ (f.bits - 1)
/-- The exponent of the least subnormal's unit. -/
def qmin (f : FFmt) : Int := 1 - (f.bias : Int) - f.frac
/-- The code of the largest finite value. -/
def largest (f : FFmt) : Nat := if f.ieee then f.expMax * 2 ^ f.frac - 1 else f.signBit - 1
def infCode (f : FFmt) : Nat := f.expMax * 2 ^ f.frac
/-- The canonical NaN (07 Table 07-1). -/
def canonNaN (f : FFmt) : Nat := if f.ieee then f.infCode + 2 ^ (f.frac - 1) else 0x80
def withSign (f : FFmt) (neg : Bool) (x : Nat) : Nat := if neg then f.signBit + x else x

/-- The value of a code (07 R165). -/
def decode (f : FFmt) (x0 : Nat) : Val :=
  let x := x0 % 2 ^ f.bits
  let neg := decide (f.signBit ≤ x)
  let mag := x % f.signBit
  let e := mag / 2 ^ f.frac
  let m := mag % 2 ^ f.frac
  if f.ieee && e == f.expMax then (if m = 0 then .inf neg else .nan (decide (m < 2 ^ (f.frac - 1))))
  else if !f.ieee && neg && mag == 0 then .nan false
  else if e = 0 then .fin neg m f.qmin
  else .fin neg (2 ^ f.frac + m) (f.qmin + (e - 1 : Nat))

end FFmt

/-- `m / 2^sh` rounded, and whether it was inexact (07 R169 step 2). -/
def roundShift (mode : RM) (neg : Bool) (m sh : Nat) : Nat × Bool :=
  let q := m / 2 ^ sh
  let r := m % 2 ^ sh
  let up := match mode with
    | .rne => decide (2 ^ sh < 2 * r) || (2 * r == 2 ^ sh && q % 2 == 1)
    | .rna => r != 0 && decide (2 ^ sh ≤ 2 * r)
    | .rz => false
    | .rup => r != 0 && !neg
    | .rdn => r != 0 && neg
  (if up then q + 1 else q, r != 0)

/-- Round a finite value into a format (07 R169). -/
def roundFin (f : FFmt) (mode : RM) (neg : Bool) (m : Nat) (e : Int) : Nat × FFlags :=
  if m = 0 then (if f.ieee then (f.withSign neg 0, 0#5) else (0, flagIf neg fNX))
  else
    let top : Int := m.log2 + e
    let q := max (top - f.frac) f.qmin
    let (r, inexact) := if e < q then roundShift mode neg m (q - e).toNat else (m * 2 ^ (e - q).toNat, false)
    let code := (q - f.qmin).toNat * 2 ^ f.frac + r
    let tiny := decide (top < f.qmin + f.frac)
    if f.largest < code then
      let sat := !f.ieee || (match mode with | .rne => false | .rna => false | .rz => true | .rup => neg | .rdn => !neg)
      (f.withSign neg (if sat then f.largest else f.infCode), fOF ||| fNX)
    else
      (if code = 0 && !f.ieee then 0 else f.withSign neg code, flagIf inexact fNX ||| flagIf (inexact && tiny) fUF)

/-- Round any value: a NaN becomes the canonical NaN, an infinity stays or becomes the largest value (07 R167, R171). -/
def roundVal (f : FFmt) (mode : RM) : Val → Nat × FFlags
  | .nan sig => (f.canonNaN, flagIf sig fNV)
  | .inf neg => if f.ieee then (f.withSign neg f.infCode, 0#5) else (f.withSign neg f.largest, fOF ||| fNX)
  | .fin neg m e => roundFin f mode neg m e

/-! ### Exact arithmetic on values -/

/-- The signed integer that a finite value is in units of `2^e0`, `e0` at most its exponent. -/
def scaleTo (e0 : Int) (neg : Bool) (m : Nat) (e : Int) : Int :=
  let x : Int := (m * 2 ^ (e - e0).toNat : Nat)
  if neg then -x else x

/-- Comparison of two values that are no NaN: -1, 0, 1. -/
def cmpVal : Val → Val → Int
  | .fin n1 m1 e1, .fin n2 m2 e2 =>
    let e0 := min e1 e2
    (scaleTo e0 n1 m1 e1 - scaleTo e0 n2 m2 e2).sign
  | .inf n1, .inf n2 => if n1 = n2 then 0 else if n1 then -1 else 1
  | .inf n, _ => if n then -1 else 1
  | _, .inf n => if n then 1 else -1
  | _, _ => 0

def Val.isNaN : Val → Bool | .nan _ => true | _ => false
def Val.isSig : Val → Bool | .nan s => s | _ => false
def Val.isInf : Val → Bool | .inf _ => true | _ => false
def Val.isZero : Val → Bool | .fin _ m _ => m == 0 | _ => false
def Val.neg : Val → Bool | .nan _ => false | .inf n => n | .fin n _ _ => n
def Val.negate : Val → Val | .nan s => .nan s | .inf n => .inf (!n) | .fin n m e => .fin (!n) m e

/-- An integer as a value. -/
def Val.ofInt (i : Int) : Val := .fin (decide (i < 0)) i.natAbs 0

/-- The value of a code of any type but q4n, whose code is given as the f32 that it decodes to. -/
def Ty.val (t : Ty) (x : Nat) : Val :=
  match t.flt, t.int with
  | some f, _ => f.decode x
  | none, some (sg, w) => .ofInt (if sg then (BitVec.ofNat w x).toInt else (x % 2 ^ w : Nat))
  | none, none => fmtF32.decode x

/-! ### Clamp and conversion (07 R171, R177) -/

/-- The usable bound: `big` is the largest value of the stored format, none for q4n; `none` is no bound but infinity. -/
def boundOf (big : Option Val) (raw : Nat) : Option Val :=
  match fmtF32.decode raw with
  | .nan _ => big
  | .inf neg => if neg then big else big
  | .fin neg m e =>
    if neg then big
    else match big with
      | some b => if 0 < cmpVal (.fin false m e) b then big else some (.fin false m e)
      | none => some (.fin false m e)

/-- Clamp a value to a bound: the value and the flags of an infinite x. -/
def clampVal (bound : Option Val) (v : Val) : Val × FFlags :=
  match bound, v with
  | some (.fin _ bm be), .fin neg m e =>
    if 0 < cmpVal (.fin false m e) (.fin false bm be) then (.fin neg bm be, 0#5) else (v, 0#5)
  | some (.fin _ bm be), .inf neg => (.fin neg bm be, fOF ||| fNX)
  | none, .inf neg => (.inf neg, fOF ||| fNX)
  | _, _ => (v, 0#5)

/-- Low `w` bits of an integer. -/
def wrapInt (w : Nat) (i : Int) : Nat := (BitVec.ofInt w i).toNat
def intMin (sg : Bool) (w : Nat) : Int := if sg then -(2 ^ (w - 1) : Nat) else 0
def intMax (sg : Bool) (w : Nat) : Int := if sg then (2 ^ (w - 1) : Nat) - 1 else (2 ^ w : Nat) - 1

/-- A finite value rounded to an integer, and whether that was inexact. -/
def roundToInt (mode : RM) (neg : Bool) (m : Nat) (e : Int) : Int × Bool :=
  let (r, x) := if e < 0 then roundShift mode neg m (-e).toNat else (m * 2 ^ e.toNat, false)
  (if neg then -(r : Int) else r, x)

/-- Store a value into an integer type; `fromInt` when the source is an integer (07 R171). -/
def storeInt (sg : Bool) (w : Nat) (mode : RM) (sat fromInt : Bool) : Val → Nat × FFlags
  | .nan _ => (0, fNV)
  | .inf neg => (wrapInt w (if neg then intMin sg w else intMax sg w), fNV)
  | .fin neg m e =>
    let (i, inexact) := roundToInt mode neg m e
    if intMin sg w ≤ i ∧ i ≤ intMax sg w then (wrapInt w i, flagIf inexact fNX)
    else if fromInt && !sat then (wrapInt w i, 0#5)
    else (wrapInt w (if i < 0 then intMin sg w else intMax sg w), fNV)

/-- Convert a value of type `src` into a code of `dst`, which is not q4n (07 R171); `clamp` is the raw f32 bound. -/
def convertVal (src dst : Ty) (mode : RM) (sat : Bool) (clamp : Option Nat) (v : Val) : Nat × FFlags :=
  match dst.flt, dst.int with
  | some f, _ =>
    match clamp with
    | none => roundVal f mode v
    | some raw =>
      let (v, fl) := clampVal (boundOf (some (f.decode f.largest)) raw) v
      let (r, fl2) := roundVal f mode v
      (r, fl ||| fl2)
  | none, some (sg, w) => storeInt sg w mode sat src.int.isSome v
  | none, none => roundVal fmtF32 mode v

def convert (src dst : Ty) (mode : RM) (sat : Bool) (x : Nat) : Nat × FFlags := convertVal src dst mode sat none (src.val x)

/-! ### Arithmetic with one rounding (07 R190) -/

/-- The canonical NaN, NV when an operand is signalling. -/
def nanOf (f : FFmt) (vs : List Val) : Nat × FFlags := (f.canonNaN, flagIf (vs.any Val.isSig) fNV)

/-- The sum of two values that are no NaN; an exact zero sum is -0 under RDN or when both are -0. -/
def addVals (f : FFmt) (mode : RM) (a b : Val) : Nat × FFlags :=
  match a, b with
  | .inf n1, .inf n2 => if n1 = n2 then roundVal f mode a else (f.canonNaN, fNV)
  | .inf _, _ => roundVal f mode a
  | _, .inf _ => roundVal f mode b
  | .fin n1 m1 e1, .fin n2 m2 e2 =>
    let e0 := min e1 e2
    let t := scaleTo e0 n1 m1 e1 + scaleTo e0 n2 m2 e2
    if t = 0 then roundFin f mode (mode == .rdn || (m1 == 0 && m2 == 0 && n1 && n2)) 0 0
    else roundFin f mode (decide (t < 0)) t.natAbs e0
  | _, _ => (f.canonNaN, 0#5)

/-- The exact product, or none for infinity times zero; the operands are no NaN. -/
def mulVals (a b : Val) : Option Val :=
  let neg := a.neg != b.neg
  match a, b with
  | .fin _ m1 e1, .fin _ m2 e2 => some (.fin neg (m1 * m2) (e1 + e2))
  | _, _ => if a.isZero || b.isZero then none else some (.inf neg)

def fadd (f : FFmt) (mode : RM) (x y : Nat) : Nat × FFlags :=
  let a := f.decode x; let b := f.decode y
  if a.isNaN || b.isNaN then nanOf f [a, b] else addVals f mode a b
def fsub (f : FFmt) (mode : RM) (x y : Nat) : Nat × FFlags :=
  let a := f.decode x; let b := f.decode y
  if a.isNaN || b.isNaN then nanOf f [a, b] else addVals f mode a b.negate
def fmul (f : FFmt) (mode : RM) (x y : Nat) : Nat × FFlags :=
  let a := f.decode x; let b := f.decode y
  if a.isNaN || b.isNaN then nanOf f [a, b]
  else match mulVals a b with
    | none => (f.canonNaN, fNV)
    | some v => roundVal f mode v

/-- d + x × y, rounded once; infinity times zero sets NV even with a NaN addend. -/
def ffma (f : FFmt) (mode : RM) (d x y : Nat) : Nat × FFlags :=
  let c := f.decode d; let a := f.decode x; let b := f.decode y
  let prod := if a.isNaN || b.isNaN then some (.nan false) else mulVals a b
  match prod with
  | none => (f.canonNaN, fNV)
  | some v => if a.isNaN || b.isNaN || c.isNaN then nanOf f [c, a, b] else addVals f mode c v

/-- The quotient of two values that are no NaN, rounded once. -/
def divVals (f : FFmt) (mode : RM) (a b : Val) : Nat × FFlags :=
  let neg := a.neg != b.neg
  match a, b with
  | .fin _ m1 e1, .fin _ m2 e2 =>
    if m2 = 0 then (if m1 = 0 then (f.canonNaN, fNV) else (f.withSign neg f.infCode, fDZ))
    else
      let sh := f.frac + 4 + m2.log2
      let q := m1 * 2 ^ sh / m2
      let sticky := if m1 * 2 ^ sh % m2 = 0 then 0 else 1
      roundFin f mode neg (2 * q + sticky) (e1 - e2 - sh - 1)
  | .inf _, .inf _ => (f.canonNaN, fNV)
  | .inf _, _ => roundVal f mode (.inf neg)
  | _, _ => roundFin f mode neg 0 0

def fdiv (f : FFmt) (mode : RM) (x y : Nat) : Nat × FFlags :=
  let a := f.decode x; let b := f.decode y
  if a.isNaN || b.isNaN then nanOf f [a, b] else divVals f mode a b

/-- The integer square root, bit by bit. -/
def isqrtFrom (n : Nat) : Nat → Nat → Nat
  | 0, r => r
  | k + 1, r => isqrtFrom n k (if (r + 2 ^ k) * (r + 2 ^ k) ≤ n then r + 2 ^ k else r)
def isqrt (n : Nat) : Nat := isqrtFrom n (n.log2 / 2 + 1) 0

def fsqrt (f : FFmt) (mode : RM) (x : Nat) : Nat × FFlags :=
  match f.decode x with
  | .nan sig => (f.canonNaN, flagIf sig fNV)
  | .inf neg => if neg then (f.canonNaN, fNV) else roundVal f mode (.inf false)
  | .fin neg m e =>
    if m = 0 then roundFin f mode neg 0 0
    else if neg then (f.canonNaN, fNV)
    else
      let odd := e % 2 != 0
      let m := if odd then 2 * m else m
      let e := if odd then e - 1 else e
      let k := f.frac + 4
      let n := m * 2 ^ (2 * k)
      let r := isqrt n
      roundFin f mode false (2 * r + (if r * r = n then 0 else 1)) (e / 2 - k - 1)

/-- The lesser or greater: -0 below +0; a NaN gives the other operand (R190). -/
def fminmax (f : FFmt) (wantMax : Bool) (x y : Nat) : Nat × FFlags :=
  let a := f.decode x; let b := f.decode y
  let fl := flagIf (a.isSig || b.isSig) fNV
  if a.isNaN && b.isNaN then (f.canonNaN, fl)
  else if a.isNaN then (y, fl)
  else if b.isNaN then (x, fl)
  else
    let c := cmpVal a b
    let below := decide (c < 0) || (c == 0 && a.neg && !b.neg)
    (if below != wantMax then x else y, fl)

/-- FABS and FNEG: the sign bit only; 0x00 and 0x80 of the narrow formats stand. -/
def fabs (f : FFmt) (x : Nat) : Nat := if !f.ieee && x % f.signBit == 0 then x % 2 ^ f.bits else x % f.signBit
def fneg (f : FFmt) (x0 : Nat) : Nat :=
  let x := x0 % 2 ^ f.bits
  if !f.ieee && x % f.signBit == 0 then x else if f.signBit ≤ x then x - f.signBit else x + f.signBit

/-- Compare conditions. -/
inductive FCond where
  | eq | ne | lt | le | ge | un | ord
  deriving DecidableEq, Repr

/-- A floating compare: NV on any NaN for the ordered conditions, else on a signalling one (R191, 08 R211). -/
def fcompare (f : FFmt) (c : FCond) (x y : Nat) : Bool × FFlags :=
  let a := f.decode x; let b := f.decode y
  let nan := a.isNaN || b.isNaN
  let sig := a.isSig || b.isSig
  let t := cmpVal a b
  match c with
  | .eq => (!nan && t == 0, flagIf sig fNV)
  | .ne => (nan || t != 0, flagIf sig fNV)
  | .lt => (!nan && decide (t < 0), flagIf nan fNV)
  | .le => (!nan && decide (t ≤ 0), flagIf nan fNV)
  | .ge => (!nan && decide (0 ≤ t), flagIf nan fNV)
  | .un => (nan, flagIf sig fNV)
  | .ord => (!nan, flagIf sig fNV)

/-- FCLASS's mask (R193). -/
def fclassOf (f : FFmt) (x : Nat) : Nat :=
  match f.decode x with
  | .nan sig => if sig then 2 ^ 8 else 2 ^ 9
  | .inf neg => if neg then 1 else 2 ^ 7
  | .fin neg m _ =>
    if m = 0 then (if neg then 2 ^ 3 else 2 ^ 4)
    else if m < 2 ^ f.frac then (if neg then 2 ^ 2 else 2 ^ 5)
    else (if neg then 2 ^ 1 else 2 ^ 6)

/-! ### Q4N (07 R172 to R176) -/

/-- The magnitude of a level in units of 2^-10 (07 Table 07-3). -/
def q4Mag (c : Nat) : Nat :=
  match c with
  | 0 | 15 => 1024 | 1 | 14 => 724 | 2 | 13 => 556 | 3 | 12 => 426 | 4 | 11 => 318 | 5 | 10 => 221 | 6 | 9 => 130 | _ => 43
def q4Level (c : Nat) : Val := .fin (decide (c < 8)) (q4Mag c) (-10)
/-- A level as an f32 code. -/
def q4F32 (c : Nat) : Nat := (roundVal fmtF32 .rne (q4Level c)).1

/-- The block scale b of a scale byte and a super-scale (R175). -/
def q4Block (scale sup : Nat) : Nat :=
  let t := (fmul fmtF32 .rne sup (roundFin fmtF32 .rne false (scale + 1) 0).1).1
  (fmul fmtF32 .rne t (roundFin fmtF32 .rne false 1 (-8)).1).1
/-- The f32 value of a code under a block scale (R175). -/
def q4Decode (code b : Nat) : Nat := (fmul fmtF32 .rne b (q4F32 code)).1

/-- The nearest code to r = x / b, both finite and b not 0: the least distance, then the least magnitude, then code 8. -/
def q4Nearest (xneg : Bool) (xm : Nat) (xe : Int) (bneg : Bool) (bm : Nat) (be : Int) : Nat :=
  let e0 := min xe (be - 10)
  let x := scaleTo e0 xneg xm xe
  let dist (c : Nat) : Nat := (x - scaleTo e0 (bneg != decide (c < 8)) (bm * q4Mag c) (be - 10)).natAbs
  let better (c d : Nat) : Bool := decide (dist c < dist d) || (dist c == dist d && decide (q4Mag c < q4Mag d))
  [7, 9, 6, 10, 5, 11, 4, 12, 3, 13, 2, 14, 1, 15, 0].foldl (fun best c => if better c best then c else best) 8

/-- The code of a value under a block scale (R176 from step 3). NX compares the stored level with x also where NV is set, but
not when x or the scale is a NaN, which no level equals or differs from (log entry 32). -/
def q4Encode (x : Val) (b : Nat) : Nat × FFlags :=
  let bv := fmtF32.decode b
  let inexact (code : Nat) : FFlags := flagIf (cmpVal (fmtF32.decode (q4Decode code b)) x != 0) fNX
  if x.isNaN || bv.isNaN then (8, fNV)
  else if bv.isZero || (x.isInf && bv.isInf) then (8, fNV ||| inexact 8)
  else
    let code := match x, bv with
      | .inf n, _ => if n != bv.neg then 0 else 15
      | _, .inf _ => 8
      | .fin xn xm xe, .fin bn bm be => q4Nearest xn xm xe bn bm be
      | _, _ => 8
    (code, inexact code)

/-- The clamp of a write into q4n: its largest value is infinity (R177). -/
def q4Clamp (clamp : Option Nat) (v : Val) : Val × FFlags :=
  match clamp with
  | none => (v, 0#5)
  | some raw => clampVal (boundOf none raw) v

end Sys2Proof.Machine
end

