-- ==== Sys2Proof/Machine/Window.lean ====
section
/-! DEFINITION. Sys2Proof/Machine/Window.lean: format windows 1 to 7 (07 R181 to R187): descriptors, decoding on reads,
encoding on writes, and WDSET. -/

namespace Sys2Proof.Machine

/-! ### Descriptor fields (07 Table 07-7) -/

/-- The fields of a descriptor: its reserved bits 63:58 and 15:13 read 0, and writes to them are ignored (00 R7). -/
def wFields (D : BitVec 128) : BitVec 128 := D &&& 0xFFFFFFFFFFFFFFFF03FFFFFFFFFF1FFF#128


def wStored (D : BitVec 128) : Nat := (D.extractLsb' 0 4).toNat
def wDeliv (D : BitVec 128) : Nat := (D.extractLsb' 4 4).toNat
def wRnd (D : BitVec 128) : BitVec 3 := D.extractLsb' 8 3
def wClamp (D : BitVec 128) : Bool := D.getLsbD 11
def wSat (D : BitVec 128) : Bool := D.getLsbD 12
def wBase (D : BitVec 128) : Nat := (D.extractLsb' 16 20).toNat
def wExtent (D : BitVec 128) : Nat := (D.extractLsb' 36 22).toNat
def wParam (D : BitVec 128) : Nat := (D.extractLsb' 64 64).toNat
def tyNibbles (code : Nat) : Nat := match tyOfCode code with | some t => t.nibbles | none => 2

/-- The raw offset of an address of the own tile's scratchpad, in window-0 or 0xFE00 form (07 R174). -/
def ownOffset (t va : Nat) : Option Nat :=
  match place va with
  | .scratch u off => if u = t then some off else none
  | .window 0 off => if off < scratchSize then some off else none
  | _ => none

/-- The first nibble of stored element `e`, counted in nibbles from the scratchpad's start (R182, R173). -/
def wNibble (D : BitVec 128) (e : Nat) : Nat := 2 * wBase D + e * tyNibbles (wStored D)

/-- A protection error of a window address. -/
def winErr (cause : Nat) (va : Word) : Err := ⟨cause, va, 0#64, if cause = 6 then some (2, 0, 0) else none⟩

/-- What the violation log gets of a refused access to `n` bytes by tile `t` (01 R21, 06 R147): kind 2 for a range marked not
mapped, beyond window 0 or beyond the extent of another window, kind 3 for a user's access to a service tile's scratchpad. -/
def State.unmappedLog (s : State) (t : Nat) (user : Bool) (va n : Nat) : Option (Nat × Nat × Nat) :=
  match place va with
  | .virt => none
  | .unmapped => some (2, 0, 0)
  | .scratch u off =>
    if user ∧ computeTiles ≤ u then some (3, 0, 0) else if scratchSize < off + n then some (2, 0, 0) else none
  | .window w off =>
    let D := vget (s.tile t).win w 0#128
    let lim := if w = 0 then scratchSize else wExtent D * (tyNibbles (wDeliv D) / 2)
    if lim < off + n then some (2, 0, 0) else none
/-- A protection error on an address that a window's record or descriptor names. -/
def ownErr (s : State) (t : Nat) (user : Bool) (va n : Nat) : Err :=
  ⟨6, BitVec.ofNat 64 va, 0#64, s.unmappedLog t user (va % 2 ^ 64) n⟩

/-- The memory key of a window's parameter record. WDSET puts no other address into PARAM; one that CTXLD has loaded and that
is not in the own scratchpad gives the access a protection error on it (07 R174 states no case; DESIGN CHOICE, log entry 34). -/
def winRecord (s : State) (t : Nat) (user : Bool) (D : BitVec 128) : Except Err Nat :=
  match ownOffset t (wParam D) with
  | some off => .ok (scratchKey t off)
  | none => .error (ownErr s t user (wParam D) 32)

/-- The scale and super-scale addresses of element `e` as raw offsets, each checked (R174). SCALES is judged first, then
whether SUPERS lies in the own scratchpad, then its alignment: R174 gives no order (DESIGN CHOICE, log entry 34). -/
def winScales (s : State) (t : Nat) (user : Bool) (D : BitVec 128) (e : Nat) : Except Err (Nat × Nat) :=
  match winRecord s t user D with
  | .error x => .error x
  | .ok r =>
    let sc := (rd64 s.mem (r + 8)).toNat + e / 64
    let su := (rd64 s.mem (r + 16)).toNat + 4 * (e / 16384)
    match ownOffset t (sc % 2 ^ 64), ownOffset t (su % 2 ^ 64) with
    | none, _ => .error (ownErr s t user sc 1)
    | some _, none => .error (ownErr s t user su 4)
    | some a, some b =>
      if scratchSize < b + 4 then .error (ownErr s t user su 4)
      else if su % 4 ≠ 0 then .error ⟨4, BitVec.ofNat 64 su, 0#64, none⟩
      else .ok (scratchKey t a, scratchKey t b)

/-- The block scale of element `e`, and the memory keys that it was read from. -/
def winBlock (s : State) (t : Nat) (user : Bool) (D : BitVec 128) (e : Nat) : Except Err (Nat × List (Nat × Nat)) :=
  match winRecord s t user D, winScales s t user D e with
  | .ok r, .ok (a, b) => .ok (q4Block (rd8 s.mem a).toNat (rdN s.mem b 4), [(r, 32), (a, 1), (b, 4)])
  | .error x, _ => .error x
  | _, .error x => .error x

/-- The clamp bound of a descriptor and the keys that it was read from (R177). -/
def winClamp (s : State) (t : Nat) (user : Bool) (D : BitVec 128) : Except Err (Option Nat × List (Nat × Nat)) :=
  if wClamp D then
    match winRecord s t user D with
    | .ok r => .ok (some (rdN s.mem (r + 0x18) 4), [(r, 32)])
    | .error x => .error x
  else .ok (none, [])

/-- The memory keys of a stored element. -/
def winKeys (t : Nat) (D : BitVec 128) (e : Nat) : Nat × Nat :=
  (scratchKey t (wNibble D e / 2), max 1 (tyNibbles (wStored D) / 2))

/-- Decode element `e` into a code of the delivered type, by R171 with RNE (R182). An integer beyond a narrower delivered integer type
wraps: R182 gives a read no sat, and SAT of Table 07-7 is of writes (DESIGN CHOICE, log entry 36). -/
def winDecode (s : State) (t : Nat) (user : Bool) (D : BitVec 128) (e : Nat) : Except Err (Nat × List (Nat × Nat)) :=
  let st := (tyOfCode (wStored D)).getD .n8
  let dl := (tyOfCode (wDeliv D)).getD .n8
  let k := winKeys t D e
  if st = .q4n then
    match winBlock s t user D e with
    | .error x => .error x
    | .ok (b, keys) =>
      let code := (rd8 s.mem k.1).toNat / (if e % 2 = 0 then 1 else 16) % 16
      .ok ((convert .f32 dl .rne false (q4Decode code b)).1, k :: keys)
  else .ok ((convert st dl .rne false (rdN s.mem k.1 k.2)).1, [k])

/-- Encode a delivered code into element `e` (R182, R176): the bytes written, the flags, the keys read. -/
def winEncode (s : State) (t : Nat) (user : Bool) (D : BitVec 128) (mode : RM) (e x : Nat) :
    Except Err (List WByte × FFlags × List (Nat × Nat)) :=
  let st := (tyOfCode (wStored D)).getD .n8
  let dl := (tyOfCode (wDeliv D)).getD .n8
  let k := winKeys t D e
  match winClamp s t user D with
  | .error x => .error x
  | .ok (clamp, ckeys) =>
    if st = .q4n then
      match winBlock s t user D e with
      | .error x => .error x
      | .ok (b, keys) =>
        let (v, f1) := q4Clamp clamp (dl.val x)
        let (c, f2) := q4Encode v b
        let w : WByte := if e % 2 = 0 then ⟨k.1, BitVec.ofNat 8 c, 0x0F#8⟩ else ⟨k.1, BitVec.ofNat 8 (c * 16), 0xF0#8⟩
        .ok ([w], f1 ||| f2, keys ++ ckeys)
    else
      let (c, f) := convertVal dl st mode (wSat D) clamp (dl.val x)
      .ok (wbytes k.1 (leBytes k.2 c), f, ckeys)

/-- What a window access answers: a value, an error, or a wait for an own store to bytes that it reads. -/
inductive WinRes (α : Type) where
  | ok (x : α)
  | wait
  | err (e : Err)

/-- The check of R182: the descriptor, or the trap of an access at or beyond the extent. -/
def winCheck (s : State) (t w off n : Nat) (va : Word) : Except Err (BitVec 128) :=
  let D := vget (s.tile t).win w 0#128
  let lim := wExtent D * (tyNibbles (wDeliv D) / 2)
  if lim ≤ off then .error (winErr 6 va)
  else if lim < off + n then .error (winErr 6 (BitVec.ofNat 64 (windowBase + w * 0x1000000 + lim)))
  else .ok D

/-- Decode `k` elements from `e` on into bytes. -/
def winElems (s : State) (t : Nat) (user : Bool) (D : BitVec 128) : Nat → Nat → Except Err (List Byte × List (Nat × Nat))
  | _, 0 => .ok ([], [])
  | e, k + 1 =>
    match winDecode s t user D e with
    | .error x => .error x
    | .ok (v, keys) =>
      match winElems s t user D (e + 1) k with
      | .error x => .error x
      | .ok (bs, keys2) => .ok (leBytes (tyNibbles (wDeliv D) / 2) v ++ bs, keys ++ keys2)

/-- Read `n` bytes at offset `off` of window `w` of tile `t`, for a user or not; `held` says which bytes a pending access of the reader
touches (R182). -/
def winRead (s : State) (t : Nat) (user : Bool) (held : Nat → Nat → Bool) (w off n : Nat) (va : Word) : WinRes (List Byte) :=
  match winCheck s t w off n va with
  | .error e => .err e
  | .ok D =>
    let ds := tyNibbles (wDeliv D) / 2
    match winElems s t user D (off / ds) (max 1 (n / ds)) with
    | .error e => .err e
    | .ok (bs, keys) =>
      if keys.any fun k => s.poison.contains (k.1 / 64) then .err ⟨0x15, va, 0#64, none⟩
      else if keys.any fun k => held k.1 k.2 then .wait
      else .ok ((bs.drop (off % ds)).take n)

/-- Encode the elements of a list of bytes from `e` on. -/
def winPuts (s : State) (t : Nat) (user : Bool) (D : BitVec 128) (mode : RM) (ds : Nat) :
    Nat → Nat → List Byte → Except Err (List WByte × FFlags × List (Nat × Nat))
  | _, 0, _ => .ok ([], 0#5, [])
  | e, k + 1, bs =>
    match winEncode s t user D mode e (leNat (bs.take ds)) with
    | .error x => .error x
    | .ok (w, f, keys) =>
      match winPuts s t user D mode ds (e + 1) k (bs.drop ds) with
      | .error x => .error x
      | .ok (w2, f2, keys2) => .ok (w ++ w2, f ||| f2, keys ++ keys2)

/-- What a write of bytes through a window stores, with the writer's flags (R182). The block scale, super-scale and clamp bound that it
needs are data that the context reads: where one lies on a line with an uncorrectable error the access traps 0x15 with its own address
in taddr, and nothing is written (10 R244 does not name such a read; DESIGN CHOICE, log entry 37). -/
def winWrite (s : State) (t : Nat) (c : Ctx) (held : Nat → Nat → Bool) (w off : Nat) (va : Word) (bs : List Byte) : WinRes (List WByte × FFlags) :=
  match winCheck s t w off bs.length va with
  | .error e => .err e
  | .ok D =>
    let ds := tyNibbles (wDeliv D) / 2
    if bs.length < ds then .err (winErr 4 va)
    else
      match winPuts s t c.user D (rmOfCode (wRnd D) (rmOfFcsr c.fcsr)) ds (off / ds) (bs.length / ds) bs with
      | .error e => .err e
      | .ok (ws, f, keys) =>
        if keys.any fun k => s.poison.contains (k.1 / 64) then .err ⟨0x15, va, 0#64, none⟩
        else if keys.any fun k => held k.1 k.2 then .wait
        else .ok (ws, f)

/-! ### WDSET (07 R186) -/

/-- A descriptor or a window number that WDSET calls illegal. -/
def wdsetIllegal (d : BitVec 4) (D : BitVec 128) : Bool :=
  decide (d = 0#4 ∨ 8 ≤ d.toNat ∨ wStored D = 15 ∨ wDeliv D = 6 ∨ wDeliv D = 15 ∨ wBase D % 16 ≠ 0
    ∨ scratchSize < wBase D + ceilDiv (wExtent D * tyNibbles (wStored D)) 2
    ∨ 0x1000000 < wExtent D * (tyNibbles (wDeliv D) / 2))
/-- The descriptor that WDSET installs, or its trap on PARAM. -/
def wdsetCheck (t : Nat) (D : BitVec 128) : Except Err (BitVec 128) :=
  let param := wParam D
  let low := D.extractLsb' 0 64
  if wStored D = 6 ∨ wClamp D then
    match ownOffset t param with
    | none => .error (mkErr 6 (BitVec.ofNat 64 param) 0#64)
    | some off =>
      if scratchSize < off + 32 then .error (mkErr 6 (BitVec.ofNat 64 param) 0#64)
      else if param % 8 ≠ 0 then .error (mkErr 4 (BitVec.ofNat 64 param) 0#64)
      else .ok (BitVec.ofNat 64 (scratchKey t off) ++ low)
  else .ok (0#64 ++ low)
/-- The operand of WDSET, its reserved bits 0 (00 R7). -/
def wdsetArg (a : BitVec 4) (s : State) : BitVec 128 := wFields (s.rs (a.toNat + 1) ++ s.rs a.toNat)

/-- WDSET. Its illegal-instruction traps are judged before the charge, its traps on PARAM after it: R186 gives no place against the
charge, and 14 R340 item 3 puts the former before it (DESIGN CHOICE, log entry 35). -/
def execWdset (p : Pfx) (d a : BitVec 4) (s : State) : Result :=
  issue (.wdset p d a) { plain 2 (fun s =>
    match wdsetCheck s.tid (wdsetArg a s) with
    | .error e => .trap e
    | .ok D => .ok (s.setMyTile { s.myTile with win := vset s.myTile.win d.toNat D })) with
    own := fun s => if wdsetIllegal d (wdsetArg a s) then some (mkErr 1 s.ctx.pc (Instr.wdset p d a).tinfo) else none } s

end Sys2Proof.Machine
end

