-- ==== Sys2Proof/Machine/Access.lean ====
section
/-! DEFINITION. Sys2Proof/Machine/Access.lean: the data accesses of a context: one piece read at issue, one piece to be
stored, and the order that pending accesses keep (10 R241 to R245, 11 R266). -/

namespace Sys2Proof.Machine

/-- Read one aligned piece of `n` bytes for the acting context, at issue: after its own pending accesses to those bytes. -/
def State.readPiece (s : State) (va : Word) (n : Nat) : Except Res (List Byte) :=
  if va.toNat % n ≠ 0 then .error (.trap (mkErr 4 va 0#64))
  else match s.access s.cid s.ctx.user .read va.toNat n with
    | .mem pa cached _ => if s.pendTouches pa n then .error .hold else .ok (s.seen s.cid cached pa n)
    | .win w off =>
      match winRead s s.tid s.ctx.user s.pendTouches w off n va with
      | .ok bs => .ok bs
      | .wait => .error .hold
      | .err e => .error (.trap e)
    | .miss => .error (.miss va .load)
    | .err e => .error (s.refuse va e)

/-- Allocate the line of a cached read in the cell's L1 of 512 lines, write-through, the oldest dropped (10 R242). -/
def State.fillL1 (s : State) (c pa : Nat) : State :=
  let x := s.cell c
  if x.l1.any (·.line == pa / 64) then s
  else s.setCell c { x with l1 := (⟨pa / 64, rdBytes s.mem (pa / 64 * 64) 64⟩ :: x.l1).take 512 }

/-- The lines of a window access of a user or not meet their correctable errors. -/
def State.meetWin (s : State) (user : Bool) (w off n : Nat) (va : Word) : State :=
  if s.flaws = [] then s
  else match winCheck s s.tid w off n va with
    | .error _ => s
    | .ok D =>
      let ds := tyNibbles (wDeliv D) / 2
      match winElems s s.tid user D (off / ds) (max 1 (n / ds)) with
      | .error _ => s
      | .ok (_, keys) => keys.foldl (fun s k => s.meetLines s.tid k.1 k.2) s

def State.touchWin (s : State) (w off n : Nat) (va : Word) : State := s.meetWin s.ctx.user w off n va

/-- What a write of `n` bytes through a window reads for them, a record, scales and a clamp bound, meets its correctable errors. -/
def State.meetPut (s : State) (w off n : Nat) (va : Word) : State :=
  if s.flaws = [] then s
  else match winCheck s s.tid w off n va with
    | .error _ => s
    | .ok D =>
      let ds := tyNibbles (wDeliv D) / 2
      match winPuts s s.tid s.ctx.user D .rne ds (off / ds) (n / ds) [] with
      | .error _ => s
      | .ok (_, _, keys) => keys.foldl (fun s k => s.meetLines s.tid k.1 k.2) s
/-- What a store of `n` bytes by the acting context meets when it is issued; its own lines it meets when it is performed. -/
def State.touchPut (s : State) (va : Word) (n : Nat) : State :=
  match s.access s.cid s.ctx.user .write va.toNat n with
  | .win w off => s.meetPut w off n va
  | _ => s
/-- The same for the pieces of a wider store. -/
def State.touchPuts (s : State) (vas : List Word) (n : Nat) : State := vas.foldl (fun s va => s.touchPut va n) s

/-- A read of bytes by the acting context: correctable errors are corrected and logged (10 R244); a cached line is allocated in the L1
(R242), and no L1 of the tile keeps an older copy of one that is read at its home (11 R266). -/
def State.readLine (s : State) (cached : Bool) (pa n : Nat) : State :=
  let s := s.meetLines s.tid pa n
  if cached then s.fillL1 s.cid pa else s.dropLines s.tid [pa / 64]

/-- What a read of `n` bytes by the acting context does to the memory path. -/
def State.touch (s : State) (va : Word) (n : Nat) : State :=
  match s.access s.cid s.ctx.user .read va.toNat n with
  | .mem pa cached _ => s.readLine cached pa n
  | .win w off => s.touchWin w off n va
  | _ => s

/-- The same for the pieces of a wider read. -/
def State.touchAll (s : State) (vas : List Word) (n : Nat) : State := vas.foldl (fun s va => s.touch va n) s
/-- The addresses of `k` pieces of `n` bytes. -/
def pieces (va : Word) (n k : Nat) : List Word := (List.range k).map fun j => va + BitVec.ofNat 64 (n * j)

/-- What one aligned piece stores: its bytes, scope and flags; what its window reads for it is read after the context's earlier
acquires and accesses (11 R266, R269). -/
def State.storePiece (s : State) (va : Word) (bs : List Byte) : Except Res (List WByte × Nat × FFlags) :=
  if va.toNat % bs.length ≠ 0 then .error (.trap (mkErr 4 va 0#64))
  else match s.access s.cid s.ctx.user .write va.toNat bs.length with
    | .mem pa _ sc => .ok (wbytes pa bs, sc, 0#5)
    | .win w off =>
      match winWrite s s.tid s.ctx (fun a k => s.ctx.acqPending || s.pendTouches a k) w off va bs with
      | .ok (ws, f) => .ok (ws, 1, f)
      | .wait => .error .hold
      | .err e => .error (.trap e)
    | .miss => .error (.miss va .store)
    | .err e => .error (s.refuse va e)

/-- Issue an access: it joins the context's pending accesses. -/
def State.addPend (s : State) (p : Pend) : State := s.setCtx { s.ctx with pend := s.ctx.pend ++ [p] }

/-- Store one piece: it is issued, and performed later. -/
def State.issueStore (s : State) (x : List WByte × Nat × FFlags) (k : StKind) : State :=
  (s.addPend (.store x.1 x.2.1 k)).raise x.2.2

/-- Read a number of little-endian bytes. -/
def State.readNat (s : State) (va : Word) (n : Nat) : Except Res Nat := (s.readPiece va n).map leNat

/-- A value of `n` bytes extended to 64 bits. -/
def extend (signed : Bool) (n : Nat) (v : Nat) : Word :=
  if signed then (BitVec.ofNat (8 * n) v).signExtend 64 else BitVec.ofNat 64 v

/-! ### Page-0 loads and stores (04 R102 to R104) -/

/-- Issue a load into `d`: alignment, release, translation, then it joins the pending accesses; a window's value is
formed at issue, under one descriptor (07 R187). -/
def loadBody (p : Pfx) (d : BitVec 4) (va : Word) (n : Nat) (signed : Bool) (s : State) : Res :=
  if va.toNat % n ≠ 0 then .trap (mkErr 4 va 0#64)
  else if s.ctx.vmemPending then .hold
  else withRelease p s fun s =>
    let acq := if pAcq p then some (pScope p) else none
    match s.access s.cid s.ctx.user .read va.toNat n with
    | .mem pa cached sc => .ok (s.addPend (.load pa n signed cached (p.dn d) sc acq none))
    | .win w off =>
      if s.ctx.acqPending then .hold
      else match winRead s s.tid s.ctx.user s.pendTouches w off n va with
      | .ok bs => .ok ((s.touchWin w off n va).addPend (.load 0 0 signed false (p.dn d) 1 acq (some (extend signed n (leNat bs)))))
      | .wait => .hold
      | .err e => .trap e
    | .miss => .miss va .load
    | .err e => s.refuse va e

/-- Issue a store of the low `n` bytes of a word; an acquire part is performed when the store has been (log entry 11). -/
def storeBody (p : Pfx) (va : Word) (n : Nat) (v : Word) (s : State) : Res :=
  if va.toNat % n ≠ 0 then .trap (mkErr 4 va 0#64)
  else if s.ctx.vmemPending then .hold
  else withRelease p s fun s =>
    match s.storePiece va (leBytes n v.toNat) with
    | .ok x =>
      if pAcq p then
        if s.ctx.pend.isEmpty && !s.pendMeets x.1 then .ok (withAcquire p (((s.touchPut va n).raise x.2.2).write s.tid x.1)) else .hold
      else .ok ((s.touchPut va n).issueStore x .plain)
    | .error r => r

/-- LD and ST (R103). -/
def execLd (p : Pfx) (d a i : BitVec 4) (s : State) : Result :=
  issue (.ld p d a i) (memory 1 (fun s => traffic s (addrF3 p a i s) 8) fun s => loadBody p d (addrF3 p a i s) 8 false s) s
def execSt (p : Pfx) (d a i : BitVec 4) (s : State) : Result :=
  issue (.st p d a i) (memory 1 (fun s => traffic s (addrF3 p a i s) 8) fun s =>
    storeBody p (addrF3 p a i s) 8 (opD p d s) s) s

/-- LDX loads and stores (R104). -/
def ldx (i : Instr) (p : Pfx) (d a : BitVec 4) (n : Nat) (signed : Bool) (s : State) : Result :=
  issue i (memory 1 (fun s => traffic s (addrX p a s) n) fun s => loadBody p d (addrX p a s) n signed s) s
def stx (i : Instr) (p : Pfx) (d a : BitVec 4) (n : Nat) (s : State) : Result :=
  issue i (memory 1 (fun s => traffic s (addrX p a s) n) fun s => storeBody p (addrX p a s) n (opD p d s) s) s

def execLb (p : Pfx) (d a : BitVec 4) (s : State) : Result := ldx (.lb p d a) p d a 1 true s
def execLbu (p : Pfx) (d a : BitVec 4) (s : State) : Result := ldx (.lbu p d a) p d a 1 false s
def execLh (p : Pfx) (d a : BitVec 4) (s : State) : Result := ldx (.lh p d a) p d a 2 true s
def execLhu (p : Pfx) (d a : BitVec 4) (s : State) : Result := ldx (.lhu p d a) p d a 2 false s
def execLw (p : Pfx) (d a : BitVec 4) (s : State) : Result := ldx (.lw p d a) p d a 4 true s
def execLwu (p : Pfx) (d a : BitVec 4) (s : State) : Result := ldx (.lwu p d a) p d a 4 false s
def execSb (p : Pfx) (d a : BitVec 4) (s : State) : Result := stx (.sb p d a) p d a 1 s
def execSh (p : Pfx) (d a : BitVec 4) (s : State) : Result := stx (.sh p d a) p d a 2 s
def execSw (p : Pfx) (d a : BitVec 4) (s : State) : Result := stx (.sw p d a) p d a 4 s

/-! ### The machine performs a pending access (LOAD_COMPLETE, STORE_PERFORMED) -/

/-- An acquire load holds back an access at memory scope `sc` that it covers (11 R267, R269). -/
def Pend.holdsBack (p : Pend) (sc : Nat) : Bool :=
  match p with
  | .load _ _ _ _ _ _ (some a) _ => coveredBy a sc
  | _ => false

/-- The k-th pending access may be performed: no earlier one of the context shares a byte with it (11 R266), no earlier
acquire covers it (R269), and no unit that the context has pushed earlier into a write stream will store to its bytes (08 R206). -/
def State.inOrder (s : State) (k : Nat) : Bool :=
  match s.ctx.pend[k]? with
  | some (.load pa n _ _ _ sc _ _) =>
    (s.ctx.pend.take k).all (fun q => !q.touches pa n && !q.holdsBack sc) && !s.myCell.pushTouches s.sel.slot pa n
  | some (.store bs sc _) =>
    (s.ctx.pend.take k).all (fun q => !q.holdsBack sc && bs.all fun b => !q.touches b.pa 1) &&
    bs.all fun b => !s.myCell.pushTouches s.sel.slot b.pa 1
  | none => false

/-- The load at place `k` of the acting context completes: correctable errors of its lines are corrected, retried and logged
(10 R244), its register gets the value, and an acquire is performed (04 R102). The store at place `k` is performed at its
home (10 R241, R243, R244). -/
def State.completeAt (s : State) (k : Nat) : State :=
  match s.ctx.pend[k]? with
  | some (.load pa n signed cached d _ acq val) =>
    let s := if val.isNone then s.readLine cached pa n else s
    let v := match val with | some v => v | none => extend signed n (leNat (s.seen s.cid cached pa n))
    let s := s.setCtx { s.ctx with pend := s.ctx.pend.eraseIdx k }
    let s := s.ws d v
    match acq with | some sc => s.acquire sc | none => s
  | some (.store bs _ _) =>
    let s := s.setCtx { s.ctx with pend := s.ctx.pend.eraseIdx k }
    s.write s.tid bs
  | none => s

/-- LOAD_COMPLETE and STORE_PERFORMED of the access at place `k`. -/
def execLoadComplete (s : State) : Result :=
  match s.ctx.pend[s.sel.k]? with
  | some (.load _ _ _ _ _ _ _ _) => if s.inOrder s.sel.k then .next (s.completeAt s.sel.k) else .next s
  | _ => .next s
def execStorePerformed (s : State) : Result :=
  match s.ctx.pend[s.sel.k]? with
  | some (.store _ _ _) => if s.inOrder s.sel.k then .next (s.completeAt s.sel.k) else .next s
  | _ => .next s

end Sys2Proof.Machine
end

