-- ==== Sys2Proof/Machine/Regions.lean ====
section
/-! DEFINITION. Sys2Proof/Machine/Regions.lean: region registers and the instructions of page 3 (06 R128 to R163). -/

namespace Sys2Proof.Machine

/-! ### Region operands -/

/-- The region register, its descriptor and the boxes that an instruction uses: as it captured them when it issued, once it has paid and
waits (04 R79; 06 R129, R139, R144, R153), else as they stand. -/
def State.gOp (s : State) (n : Nat) : GReg := match s.held with | some k => k.reg | none => s.rg n
def State.dOp (s : State) (n : Nat) : Desc := match s.held with | some k => k.desc | none => s.desc (s.rg n).desc
/-- The state with the descriptors that an instruction which has paid and waits had at its issue (R144). -/
def State.asIssued (s : State) : State := match s.held with | some k => { s with descs := k.descs } | none => s

/-- Region illegal (R152): taddr is the first word. -/
def rErr (reason : Nat) (s : State) : Err := mkErr 0x0B s.ctx.pc (BitVec.ofNat 64 reason)

/-- Reason 3 or 2 of a region operand, if it has one. -/
def State.gBad (s : State) (g : GReg) (ragOk : Bool) : Option Nat :=
  if g.rank = 0#3 ∨ !(s.desc g.desc).installed then some 3
  else if g.ragged && !ragOk then some 2
  else none

/-! ### Ragged regions (R139, R140) -/

/-- The boxes of a ragged region with given lengths: one for each outer member with a member. -/
def ragBoxes (outer : NBox) (last : Rng) (size : Nat) : Nat → List Nat → List NBox
  | _, [] => []
  | j, len :: ls =>
    let q := clipRng last.lo len last.step size
    let rest := ragBoxes outer last size (j + 1) ls
    if q.cnt = 0 then rest else ((boxMember outer j).map (fun x => (⟨x, 1, 1⟩ : Rng)) ++ [q]) :: rest

/-- The boxes that a region holds, over `D`'s rank, with the lengths given for a ragged one. -/
def regionBoxes (g : GReg) (D : Desc) (lens : List Nat) : List NBox :=
  if g.ragged then
    let b := (g.nboxes D.n).headD []
    ragBoxes (b.take (D.n - 1)) ((b.drop (D.n - 1)).headD oneRng) ((D.sizes.getLastD 0)) 0 lens
  else g.nboxes D.n
def State.boxes (s : State) (g : GReg) : List NBox := regionBoxes g (s.desc g.desc) (s.lens g (s.desc g.desc).n)

def State.boxesOp (s : State) (n : Nat) : List NBox := match s.held with | some k => regionBoxes k.reg k.desc k.lens | none => s.boxes (s.rg n)

/-- The table cannot be read yet: this context is storing to it (11 R266), or an acquire load or a VMEM of it is not complete (11 R269, 08
R201). -/
def State.ragWait (s : State) (g : GReg) : Bool :=
  g.ragged && (s.ctx.accessHeld || s.pendTouches g.ltab.toNat (4 * g.entries (s.desc g.desc).n))
/-- The first entry of a length table of `k` entries that lies in a line with an uncorrectable error (10 R244). -/
def State.badEntry (s : State) (ltab : Word) (k : Nat) : Option Word :=
  ((List.range k).find? fun j => s.poison.contains ((ltab.toNat + 4 * j) / 64)).map fun j => ltab + BitVec.ofNat 64 (4 * j)
/-- The entry of a region's length table that cannot be read. -/
def State.ragPoison (s : State) (g : GReg) : Option Word :=
  if g.ragged then s.badEntry g.ltab (g.entries (s.desc g.desc).n) else none
/-- Reading the table meets the correctable errors of its lines. -/
def State.meetTable (s : State) (g : GReg) : State :=
  if g.ragged then s.meetLines s.tid g.ltab.toNat (4 * g.entries (s.desc g.desc).n) else s

/-- Use a region operand: its check, a wait for own stores to its table, a table that cannot be read. -/
def withRegion (g : GReg) (ragOk : Bool) (s : State) (k : State → Res) : Res :=
  match s.gBad g ragOk with
  | some r => .trap (rErr r s)
  | none =>
    if s.ragWait g then .hold
    else match s.ragPoison g with
      | some a => .trap (mkErr 0x15 a 0#64)
      | none => k (s.meetTable g)

/-! ### Produce (R151) -/

/-- gmode.OVF and gmode.CMODE (04 R83). -/
def coverOn (s : State) : Bool := s.ctx.gmode.getLsbD 0
def cmode (s : State) : Bool := s.ctx.gmode.getLsbD 1

/-- What Produce makes: a region, or more than eight boxes under EXACT. -/
inductive Produced where
  | ok (g : GReg)
  | over (n : Nat)
  deriving DecidableEq, Repr

/-- The empty region of a descriptor. -/
def emptyRegion (i : BitVec 12) (D : Desc) (mode inx ovf : Bool) : GReg :=
  ⟨i, BitVec.ofNat 3 D.n, ovf, false, mode, inx, 0#64, []⟩

/-- Clip, Canon and Cover of `{x | op (x in L) (x in R)}`. -/
def produce (s : State) (i : BitVec 12) (op : Bool → Bool → Bool) (L R : List NBox) (mode inx ovf : Bool) : Produced :=
  let D := s.desc i
  let raw := boxesFrom op mode D.n (L.filterMap (clipBox D.sizes)) (R.filterMap (clipBox D.sizes))
  let mk (bs : List NBox) (inx ovf : Bool) : GReg :=
    { emptyRegion i D mode inx ovf with boxes := bs.map fun b => b.map Rng.dim }
  if raw.length ≤ 8 then .ok (mk (sortBoxes raw) inx ovf)
  else if coverOn s then .ok (mk (cover mode D.n (sortBoxes raw)) true true)
  else .over raw.length

/-- Box count for the charge (05 R116): nothing is charged for an overflow under EXACT. -/
def regionCost (base per : Nat) (r : Option Produced) : Nat × Nat :=
  match r with
  | some (.ok g) => (base + per * g.boxes.length, 0)
  | some (.over _) => (0, 0)
  | none => (base, 0)

/-- Set a register's OVF flag. -/
def markOvf (n : Nat) (s : State) : State := s.wg n { s.rg n with ovf := true }
/-- Write what Produce made; an overflow sets only the destination's OVF and traps (R136). -/
def putRegion (n : Nat) (r : Produced) (s : State) : Res :=
  match r with
  | .ok g => .ok (s.wg n g)
  | .over k => .trapOnly (markOvf n) (mkErr 0x0A s.ctx.pc (BitVec.ofNat 64 k))

/-- A region-writing instruction: `make` gives the reason of its trap or its result, on the state it issues in. -/
def regionOp (i : Instr) (n base per : Nat) (make : State → Except Nat Produced) (s : State) : Result :=
  issue i { cost := fun s => regionCost base per (make s).toOption, body := fun s => (
    match make s with
    | .error r => .trap (rErr r s)
    | .ok x => putRegion n x s) } s

/-! ### GINT, GUNI, GSUB (R154) -/

def algebra (i : Instr) (op : Bool → Bool → Bool) (p : Pfx) (d a : BitVec 4) (s : State) : Result :=
  regionOp i (p.dn d) 4 2 (fun s =>
    let P := s.rg (if p.hasR then p.an a else p.dn d)
    let Q := s.rg (if p.hasR then p.en else p.an a)
    if P.rank = 0#3 ∨ Q.rank = 0#3 ∨ !(s.desc P.desc).installed then .error 3
    else if P.ragged || Q.ragged then .error 2
    else if P.desc ≠ Q.desc then .error 1
    else .ok (produce s P.desc op (s.boxes P) (s.boxes Q) P.strided (P.inexact || Q.inexact) (P.ovf || Q.ovf))) s

def execGint (p : Pfx) (d a : BitVec 4) (s : State) : Result := algebra (.gint p d a) opAnd p d a s
def execGuni (p : Pfx) (d a : BitVec 4) (s : State) : Result := algebra (.guni p d a) opOr p d a s
def execGsub (p : Pfx) (d a : BitVec 4) (s : State) : Result := algebra (.gsub p d a) opDiff p d a s

/-! ### GSET, GEMPTY, GBOX, GLAT (R155, R156) -/

/-- The box of the whole tensor. -/
def wholeBox (D : Desc) : NBox := D.sizes.map fun n => ⟨0, n, 1⟩

def execGset (p : Pfx) (d a : BitVec 4) (s : State) : Result :=
  regionOp (.gset p d a) (p.dn d) 2 0 (fun s =>
    let i := (opA p a s).extractLsb' 0 12
    if !(s.desc i).installed then .error 3
    else .ok (produce s i opOr [wholeBox (s.desc i)] [] (cmode s) false false)) s
def execGempty (p : Pfx) (d a : BitVec 4) (s : State) : Result :=
  regionOp (.gempty p d a) (p.dn d) 2 0 (fun s =>
    let i := (opA p a s).extractLsb' 0 12
    if !(s.desc i).installed then .error 3
    else .ok (produce s i opOr [] [] (cmode s) false false)) s

/-- The fields of a coordinate vector over `n` dimensions. -/
def vecList (p : Pfx) (reg n : Nat) (s : State) : List Nat := (List.range n).map fun k => (vecField p reg k s).toNat

/-- A box from lists of lo, cnt and step. -/
def mkBox : List Nat → List Nat → List Nat → NBox
  | l :: ls, c :: cs, t :: ts => ⟨l, c, t⟩ :: mkBox ls cs ts
  | _, _, _ => []

def execGbox (p : Pfx) (d a : BitVec 4) (s : State) : Result :=
  regionOp (.gbox p d a) (p.dn d) 2 0 (fun s =>
    let g := s.rg (p.dn d)
    let D := s.desc g.desc
    let cnt := vecList p p.en D.n s
    let st := vecList p (p.en + vecRegs p) D.n s
    if (s.gBad g true).isSome then .error 3
    else if g.ragged then .error 2
    else if cnt.contains 0 || st.contains 0 then .error 4
    else .ok (produce s g.desc opOr [mkBox (vecList p (p.an a) D.n s) cnt st] [] (cmode s) false false)) s

def execGlat (p : Pfx) (d a : BitVec 4) (s : State) : Result :=
  regionOp (.glat p d a) (p.dn d) 2 0 (fun s =>
    let g := s.rg (p.dn d)
    let D := s.desc g.desc
    let lo := vecList p (p.an a) D.n s
    let st := vecList p p.en D.n s
    let cnt := (List.range D.n).map fun k => ceilDiv ((D.sizes[k]?).getD 0 - (lo[k]?).getD 0) ((st[k]?).getD 1)
    if (s.gBad g true).isSome then .error 3
    else if g.ragged then .error 2
    else if st.contains 0 then .error 4
    else .ok (produce s g.desc opOr (if cnt.contains 0 then [] else [mkBox lo cnt st]) [] (cmode s) false false)) s

/-! ### GRAG (R157) -/

/-- The own-tile 0xFE00 form of a table address that holds `k` entries (R140). -/
def tableAddr (s : State) (a : Word) (k : Nat) : Option Word :=
  match ownOffset s.tid a.toNat with
  | some off => if a.toNat % 4 = 0 ∧ off + 4 * k ≤ scratchSize then some (BitVec.ofNat 64 (scratchKey s.tid off)) else none
  | none => none

/-- A range of one member has step 1. -/
def Rng.norm (r : Rng) : Rng := if r.cnt = 1 then { r with step := 1 } else r

/-- A ragged region over a clipped outer box, or the trap of R140, or the empty region. -/
def mkRagged (s : State) (i : BitVec 12) (outer : NBox) (last : Rng) (ltab : Word) (mode inx ovf : Bool) : Option GReg :=
  let D := s.desc i
  match clipBox D.sizes outer with
  | none => some (emptyRegion i D mode inx ovf)
  | some O =>
    if 256 < NBox.size O then none
    else match tableAddr s ltab (NBox.size O) with
      | none => none
      | some t =>
        some ⟨i, BitVec.ofNat 3 D.n, ovf, true, mode, inx, t, [(O.map Rng.norm ++ [(⟨last.lo, 1, last.step⟩ : Rng)]).map Rng.dim]⟩

def execGrag (p : Pfx) (d a : BitVec 4) (s : State) : Result :=
  regionOp (.grag p d a) (p.dn d) 2 0 (fun s =>
    let g := s.rg (p.dn d)
    let D := s.desc g.desc
    let lo := vecList p p.en D.n s
    let cnt := vecList p (p.en + vecRegs p) D.n s
    let st := vecList p (p.en + 2 * vecRegs p) D.n s
    if (s.gBad g true).isSome then .error 3
    else if D.n < 2 ∨ !D.ragged then .error 8
    else if st.contains 0 || (cnt.take (D.n - 1)).contains 0 then .error 4
    else
      let b := mkBox lo cnt st
      match mkRagged s g.desc (b.take (D.n - 1)) ((b.drop (D.n - 1)).headD oneRng) (opA p a s) (cmode s) false false with
      | none => .error 8
      | some r => .ok (.ok r)) s

/-! ### GDIL, GSHIFT, GPROJ (R158) -/

/-- A transform of one region: its boxes on integers, clipped by the rule of R129. -/
def transform (i : Instr) (p : Pfx) (d a : BitVec 4) (f : State → Nat → List NBox → List NBox) (s : State) : Result :=
  regionOp i (p.dn d) 4 2 (fun s =>
    let g := s.rg (p.an a)
    match s.gBad g false with
    | some r => .error r
    | none => .ok (produce s g.desc opOr (f s (s.desc g.desc).n (s.boxes g)) [] g.strided g.inexact g.ovf)) s

/-- One range dilated by `r` within [0, size): one run when the runs meet, else one for each member or each offset. -/
def dilateRng (r size : Nat) (q : Rng) : List Rng :=
  let clip (x : Int) (c st : Nat) : List Rng := let z := clipRng x c st size; if z.cnt = 0 then [] else [z]
  if q.step ≤ 2 * r + 1 ∨ q.cnt = 1 then clip ((q.lo : Int) - r) ((q.cnt - 1) * q.step + 2 * r + 1) 1
  else if q.cnt ≤ 2 * r + 1 then (List.range q.cnt).flatMap fun k => clip ((q.lo + k * q.step : Nat) - (r : Int)) (2 * r + 1) 1
  else (List.range (2 * r + 1)).flatMap fun k => clip ((q.lo + k : Nat) - (r : Int)) q.cnt q.step

/-- Every way to take one range for each dimension. -/
def crossRngs : List (List Rng) → List NBox
  | [] => [[]]
  | rs :: rest => rs.flatMap fun r => (crossRngs rest).map (r :: ·)

def dilateBox : List Nat → List Nat → NBox → List (List Rng)
  | r :: rs, n :: ns, q :: b => dilateRng r n q :: dilateBox rs ns b
  | _, _, _ => []

def execGdil (p : Pfx) (d a : BitVec 4) (s : State) : Result :=
  transform (.gdil p d a) p d a (fun s n bs =>
    bs.flatMap fun b => crossRngs (dilateBox (vecList p p.en n s) (s.desc (s.rg (p.an a)).desc).sizes b)) s

/-- A box shifted by signed offsets and clipped. -/
def shiftBox : List Int → List Nat → NBox → Option NBox
  | o :: os, n :: ns, q :: b =>
    let z := clipRng ((q.lo : Int) + o) q.cnt q.step n
    if z.cnt = 0 then none else (shiftBox os ns b).map (z :: ·)
  | _, _, _ => some []

def execGshift (p : Pfx) (d a : BitVec 4) (s : State) : Result :=
  transform (.gshift p d a) p d a (fun s n bs =>
    let os := (List.range n).map fun k => vecSigned p p.en k s
    bs.filterMap (shiftBox os (s.desc (s.rg (p.an a)).desc).sizes)) s

/-- A box projected: dimensions whose mask bit is 0 become 0. -/
def projBox (mask : Nat) : Nat → NBox → NBox
  | _, [] => []
  | k, q :: b => (if mask / 2 ^ k % 2 = 1 then q else oneRng) :: projBox mask (k + 1) b

def execGproj (p : Pfx) (d a : BitVec 4) (s : State) : Result :=
  transform (.gproj p d a) p d a (fun _ _ bs => bs.map (projBox (p.immW.toNat % 16) 0)) s

/-! ### GSPLIT and GCANON (R159, R160) -/

/-- Index range of part `i` of `k` of `v` members. -/
def partStart (v k i : Nat) : Nat := i * (v / k) + min i (v % k)

/-- GSPLIT. An unset operand is reason 3 also with k = 0 or i ≥ k, for which R159 names reason 5 alone (DESIGN CHOICE, log entry
36). A ragged part whose descriptor has shrunk since is clipped in every outer dimension, where R159 adjusts lo_0 and cnt_0 alone, so the
table's entries are then counted over the members that remain (DESIGN CHOICE, log entry 37). -/
def execGsplit (p : Pfx) (d a : BitVec 4) (s : State) : Result :=
  regionOp (.gsplit p d a) (p.dn d) 4 2 (fun s =>
    let g := s.rg (p.an a)
    let D := s.desc g.desc
    let i := ((opE p s).extractLsb' 0 32).toNat
    let k := ((opE p s).extractLsb' 32 32).toNat
    match s.gBad g true with
    | some r => .error r
    | none =>
      if k = 0 ∨ k ≤ i then .error 5
      else if g.ragged then
        match g.outer D.n with
        | [] => .ok (.ok (emptyRegion g.desc D g.strided g.inexact g.ovf))
        | r0 :: rest =>
          let from_ := partStart r0.cnt k i
          let n := partStart r0.cnt k (i + 1) - from_
          let last := (((g.nboxes D.n).headD []).drop (D.n - 1)).headD oneRng
          match (if n = 0 then none else clipBox D.sizes (⟨r0.lo + from_ * r0.step, n, r0.step⟩ :: rest)) with
          | none => .ok (.ok (emptyRegion g.desc D g.strided g.inexact g.ovf))
          | some O => .ok (.ok { g with
            rank := BitVec.ofNat 3 D.n
            ltab := g.ltab + BitVec.ofNat 64 (4 * from_ * NBox.size rest)
            boxes := [(O.map Rng.norm ++ [last]).map Rng.dim] })
      else
        let bs := s.boxes g
        let v := volume bs
        if 2 ^ 64 ≤ v then .error 5
        else .ok (produce s g.desc opOr (listPart bs (partStart v k i) (partStart v k (i + 1))) [] g.strided g.inexact g.ovf)) s

def execGcanon (p : Pfx) (d a : BitVec 4) (s : State) : Result :=
  regionOp (.gcanon p d a) (p.dn d) 8 4 (fun s =>
    let g := s.rg (p.an a)
    match s.gBad g false with
    | some r => .error r
    | none => .ok (produce s g.desc opOr (s.boxes g) [] (p.fx.getLsbD 0) g.inexact g.ovf)) s

/-! ### Images: GLD and GST (R131, R161) -/

def dimWords (x : Dim) : List Byte := leBytes 4 x.lo.toNat ++ leBytes 4 x.cnt.toNat ++ leBytes 4 x.step.toNat
def Dim.one : Dim := ⟨0#32, 1#32, 1#32⟩
def boxImage (b : List Dim) : List Byte := ((b ++ List.replicate 4 Dim.one).take 4).flatMap dimWords

/-- The 400-byte image of a region (06 Table 06-2). -/
def GReg.image (g : GReg) : List Byte :=
  (leBytes 2 g.desc.toNat
    ++ [BitVec.ofNat 8 g.rank.toNat, BitVec.ofNat 8 g.boxes.length,
        bit 8 g.inexact ||| (bit 8 g.strided <<< 1) ||| (bit 8 g.ragged <<< 2) ||| (bit 8 g.ovf <<< 3)]
    ++ leBytes 3 0 ++ leBytes 8 g.ltab.toNat ++ g.boxes.flatMap boxImage ++ leBytes 400 0).take 400

def byteAt (bs : List Byte) (i : Nat) : Nat := ((bs[i]?).getD 0#8).toNat
def natAt (bs : List Byte) (i n : Nat) : Nat := leNat ((bs.drop i).take n)
/-- Dimension `k` of box `b` of an image. -/
def imageDim (bs : List Byte) (b k : Nat) : Dim :=
  let o := 0x10 + 48 * b + 12 * k
  ⟨BitVec.ofNat 32 (natAt bs o 4), BitVec.ofNat 32 (natAt bs (o + 4) 4), BitVec.ofNat 32 (natAt bs (o + 8) 4)⟩
def imageBoxes (bs : List Byte) (cnt n : Nat) : List (List Dim) :=
  (List.range cnt).map fun b => (List.range n).map fun k => imageDim bs b k

/-- What a valid image loads as: reason 7 or 8, or the region (R161). -/
def loadImage (s : State) (bs : List Byte) : Except Nat Produced :=
  let i := BitVec.ofNat 12 (natAt bs 0 2)
  let D := s.desc i
  let rank := byteAt bs 2
  let cnt := byteAt bs 3
  let fl := byteAt bs 4
  let inx := fl % 2 == 1
  let mode := fl / 2 % 2 == 1
  let ovf := fl / 8 % 2 == 1
  let boxes := imageBoxes bs cnt rank
  if rank = 0 ∨ 4 < rank ∨ !D.installed ∨ rank ≠ D.n ∨ 8 < cnt then .error 7
  else if boxes.any fun b => b.any fun x => x.cnt == 0#32 || x.step == 0#32 then .error 7
  else if fl / 4 % 2 = 1 then
    let b := (boxes.headD []).map Dim.rng
    if cnt ≠ 1 ∨ rank < 2 ∨ !D.ragged then .error 8
    else match mkRagged s i (b.take (rank - 1)) ((b.drop (rank - 1)).headD oneRng)
        (BitVec.ofNat 64 (natAt bs 8 8)) mode inx ovf with
      | none => .error 8
      | some g => .ok (.ok g)
  else .ok (produce s i opOr (boxes.map fun b => b.map Dim.rng) [] mode inx ovf)

/-- Read `k` pieces of 16 bytes. -/
def readPieces (s : State) (va : Word) : Nat → Except Res (List Byte)
  | 0 => .ok []
  | k + 1 =>
    match readPieces s va k with
    | .error r => .error r
    | .ok bs =>
      match s.readPiece (va + BitVec.ofNat 64 (16 * k)) 16 with
      | .error r => .error r
      | .ok x => .ok (bs ++ x)

/-- The traffic of an image (05 Table 05-2). -/
def bulkTraffic (s : State) (va : Word) (n : Nat) : Nat := units (chargedBytes s.tid va.toNat n)

/-- GLD (R161). Its traps of reasons 7 and 8 give the image address, as its pseudocode says; R152 names reason 7 alone (DESIGN
CHOICE for reason 8, log entry 34). -/
def execGld (p : Pfx) (d a : BitVec 4) (s : State) : Result :=
  issue (.gld p d a) (memory 2 (fun s => bulkTraffic s (addrX p a s) 400) fun s =>
    let va := addrX p a s
    if va.toNat % 16 ≠ 0 then .trap (mkErr 4 va 0#64)
    else if s.ctx.accessHeld then .hold
    else withRelease p s fun s =>
      match readPieces s va 25 with
      | .error r => r
      | .ok bs =>
        match loadImage s.asIssued bs with
        | .error r => .trap (mkErr 0x0B va (BitVec.ofNat 64 r))
        | .ok (.ok g) => .ok (withAcquire p ((s.touchAll (pieces va 16 25) 16).wg (p.dn d) g))
        | .ok (.over k) => .trapOnly (markOvf (p.dn d)) (mkErr 0x0A s.ctx.pc (BitVec.ofNat 64 k))) s

/-- Pieces of 16 bytes to be stored: all are checked before any is issued. -/
def storePieces (s : State) (va : Word) : Nat → List Byte → Except Res (List (List WByte × Nat × FFlags))
  | 0, _ => .ok []
  | k + 1, bs =>
    match s.storePiece va (bs.take 16) with
    | .error r => .error r
    | .ok x =>
      match storePieces s (va + 16#64) k (bs.drop 16) with
      | .error r => .error r
      | .ok xs => .ok (x :: xs)

/-- GST (R161): 25 stores are issued; with an acquire part they are performed first (11 R269), as in ST (log entry 11). The
region of a descriptor that has been removed is stored as it stands, as an unset one is: whether GST is a use in the sense of
R144 the spec leaves open (DESIGN CHOICE, log entry 34). -/
def execGst (p : Pfx) (d a : BitVec 4) (s : State) : Result :=
  issue (.gst p d a) (memory 2 (fun s => bulkTraffic s (addrX p a s) 400) fun s =>
    let va := addrX p a s
    if va.toNat % 16 ≠ 0 then .trap (mkErr 4 va 0#64)
    else if s.ctx.accessHeld then .hold
    else withRelease p s fun s =>
      match storePieces s va 25 (s.gOp (p.dn d)).image with
      | .error r => r
      | .ok xs =>
        if pAcq p then
          if s.ctx.pend.isEmpty && !s.pendMeets (xs.flatMap (·.1)) then
            .ok (withAcquire p (xs.foldl (fun s x => (s.raise x.2.2).write s.tid x.1) (s.touchPuts (pieces va 16 25) 16)))
          else .hold
        else .ok (xs.foldl (fun s x => s.issueStore x .plain) (s.touchPuts (pieces va 16 25) 16))) s

/-! ### Queries (R162) -/

/-- The uses of a region that read no length: its check alone. -/
def checkRegion (g : GReg) (ragOk : Bool) (s : State) (k : State → Res) : Res :=
  match s.gBad g ragOk with
  | some r => .trap (rErr r s)
  | none => k s

/-- A query: it issues once the lengths of a ragged operand can be read (11 R266, R269), and then waits no more. -/
def query (i : Instr) (ragOk : Bool) (g : State → GReg) (f : State → GReg → Res) (s : State) : Result :=
  issue i { plain 2 fun s => withRegion (g s) ragOk s fun s => f s (g s) with ready := fun s => !ragOk || !s.ragWait (g s) } s

def execGcnt (p : Pfx) (d a : BitVec 4) (s : State) : Result :=
  issue (.gcnt p d a) (plain 2 fun s => checkRegion (s.rg (p.an a)) true s fun s =>
    .ok (s.ws (p.dn d) (BitVec.ofNat 64 (s.rg (p.an a)).boxes.length))) s
def execGvol (p : Pfx) (d a : BitVec 4) (s : State) : Result :=
  query (.gvol p d a) true (·.rg (p.an a)) (fun s g =>
    .ok (s.ws (p.dn d) (BitVec.ofNat 64 (min (volume (s.boxes g)) (2 ^ 64 - 1))))) s

/-- Two 32-bit fields in one register. -/
def pairWord (x y : BitVec 32) : Word := y ++ x
def dimAt (b : List Dim) (k : Nat) : Dim := (b[k]?).getD Dim.one

/-- GRDBOX. A ragged operand is reason 2 also when b is at or beyond COUNT: R162 names reason 6 before it, and the check of the operand
is every region instruction's first (DESIGN CHOICE, log entry 36). -/
def execGrdbox (p : Pfx) (d a : BitVec 4) (s : State) : Result :=
  query (.grdbox p d a) false (·.rg (p.an a)) (fun s g =>
    match g.boxes[p.immW.toNat % 8]? with
    | none => .trap (rErr 6 s)
    | some b =>
      let n := p.dn d
      let w (k : Nat) (f : Dim → BitVec 32) : Word := pairWord (f (dimAt b k)) (f (dimAt b (k + 1)))
      .ok ((((((s.ws n (w 0 (·.lo))).ws (n + 1) (w 2 (·.lo))).ws (n + 2) (w 0 (·.cnt))).ws (n + 3) (w 2 (·.cnt))).ws
        (n + 4) (w 0 (·.step))).ws (n + 5) (w 2 (·.step)))) s

/-! ### GTEST and GEQ (R163) -/

/-- GTEST issues once the lengths that it reads can be read and its push need not wait, and then waits no more. -/
def execGtest (p : Pfx) (d a : BitVec 4) (s : State) : Result :=
  issue (.gtest p d a) { pushing 2 (fun _ => 0) (fun s =>
    let g := s.rg (p.an a)
    withRegion g true s fun s =>
      let D := s.desc g.desc
      match p.immW.toNat % 4 with
      | 0 => pushRes s (condEntry ((s.boxes g).isEmpty))
      | 1 => pushRes s (condEntry ((s.boxes g).any fun b => NBox.has b (vecList p p.en D.n s)))
      | 2 =>
        let h := s.rg p.en
        withRegion h true s fun s =>
          pushRes s (condEntry (g.desc == h.desc && subSet D.n (s.boxes g) (s.boxes h)))
      | _ => pushRes s (condEntry g.inexact)) with
    ready := fun s => !s.ragWait (s.rg (p.an a)) && (p.immW.toNat % 4 != 2 || !s.ragWait (s.rg p.en)) && !s.spillBusy } s

/-- GEQ. g[d] is checked wholly before g[a]: an unset or ragged g[d] is reported whatever g[a] is, where R163 names reason 2 before
reason 3 (DESIGN CHOICE, log entry 36). -/
def execGeq (p : Pfx) (d a : BitVec 4) (s : State) : Result :=
  issue (.geq p d a) { pushing 2 (fun _ => 0) (fun s =>
    let g := s.rg (p.dn d)
    let h := s.rg (p.an a)
    withRegion g false s fun s => withRegion h false s fun s =>
      pushRes s (condEntry (g.desc == h.desc && sameSet (s.desc g.desc).n (s.boxes g) (s.boxes h)))) with
    ready := fun s => !s.spillBusy } s

end Sys2Proof.Machine
end

