-- ==== Sys2Proof/Machine/Streams.lean ====
section
/-! DEFINITION. Sys2Proof/Machine/Streams.lean: streams bound to v28 to v31: their geometry, the tile stream unit's fetches and
writes (08 R202 to R207). -/

namespace Sys2Proof.Machine

abbrev Lanes := Vector (BitVec 32) 32

/-- A register file built place by place. -/
def mkVec {α : Type} {n : Nat} (d : α) (f : Nat → α) : Vector α n :=
  (List.range n).foldl (fun v i => vset v i (f i)) (Vector.replicate n d)
def mkLanes (f : Nat → BitVec 32) : Lanes := mkVec 0#32 f
def lane (v : Lanes) (i : Nat) : BitVec 32 := vget v i 0#32

/-- 128 bytes as 1,024 bits, byte 0 lowest, and as lanes. -/
def packBytes (bs : List Byte) : BitVec 1024 := BitVec.ofNat 1024 (leNat bs)
def unpackLanes (x : BitVec 1024) : Lanes := mkLanes fun i => x.extractLsb' (32 * i) 32
def packLanes (v : Lanes) : BitVec 1024 := BitVec.ofNat 1024 ((List.range 32).foldr (fun i n => (lane v i).toNat + n * 2 ^ 32) 0)

/-! ### Members of tensors (06 R143) -/

/-- BASE + Σ x_k × STRIDE_k, modulo 2^64. -/
def Desc.addrInts (D : Desc) (base : Word) (xs : List Int) : Word :=
  ((List.range xs.length).foldl (fun (a : Word) k => a + BitVec.ofInt 64 ((xs[k]?).getD 0) * vget D.stride k 0#64) base)
def Desc.addr (D : Desc) (xs : List Nat) : Word := D.addrInts D.base (xs.map Int.ofNat)
/-- The index of a q4n member. -/
def Desc.index (D : Desc) (xs : List Nat) : Word := D.addrInts 0#64 (xs.map Int.ofNat)
def Desc.tyOf (D : Desc) : Ty := (tyOfCode D.ty.toNat).getD .n8

/-- Two's complement value of a 64-bit field. -/
def sInt (w : Word) : Int := w.toInt

/-! ### Geometry (R203) -/

namespace Stream

def elTy (st : Stream) : Ty := if st.coord then st.desc.tyOf else (tyOfCode st.ty.toNat).getD .n8
def esize (st : Stream) : Nat := st.elTy.bytes
def cntAt (st : Stream) (k : Nat) : Nat := (vget st.cnt k 0#32).toNat
def total (st : Stream) : Nat := st.cntAt 0 * st.cntAt 1 * st.cntAt 2
/-- The length in transfer units. -/
def unitsLen (st : Stream) : Nat := ceilDiv (st.total * st.esize) 128

/-- The coordinate of an element in coordinate mode. -/
def coordOf (st : Stream) (i0 i1 i2 : Nat) : List Int :=
  (List.range st.desc.n).map fun k =>
    let o := (st.base.extractLsb' (16 * k) 16).toInt
    let l := st.desc.n - 1 - k
    if l = 0 then o + i0 * sInt (vget st.stride 0 0#64)
    else if l = 1 then o + i1 * sInt (vget st.stride 1 0#64)
    else if l = 2 then o + i2 * sInt (vget st.stride 2 0#64)
    else o

/-- A coordinate is inside the descriptor's sizes. -/
def inside (D : Desc) (xs : List Int) : Bool :=
  (List.range xs.length).all fun k => let x := (xs[k]?).getD 0; decide (0 ≤ x) && decide (x < (D.sizes[k]?).getD 0)

/-- The address of element (i0, i1, i2); `none` when it is out of bounds. -/
def addrAt (st : Stream) (i0 i1 i2 : Nat) : Option Word :=
  if st.coord then
    let xs := st.coordOf i0 i1 i2
    if inside st.desc xs then some (st.desc.addrInts st.desc.base xs) else none
  else some (st.base + BitVec.ofNat 64 i0 * vget st.stride 0 0#64 + BitVec.ofNat 64 i1 * vget st.stride 1 0#64
    + BitVec.ofNat 64 i2 * vget st.stride 2 0#64)

/-- The address of element `e` of the sequence. -/
def addrOf (st : Stream) (e : Nat) : Option Word :=
  st.addrAt (e % st.cntAt 0) (e / st.cntAt 0 % st.cntAt 1) (e / (st.cntAt 0 * st.cntAt 1))

/-- The elements of unit `u`: first and number. -/
def unitElems (st : Stream) (u : Nat) : Nat × Nat :=
  let per := 128 / st.esize
  (u * per, min per (st.total - u * per))

/-- Bytes in charged memory of `n` elements from `i0` on at one (i1, i2): all alike when both ends are translated. -/
def rowCharge (st : Stream) (t i1 i2 : Nat) : Nat → Nat
  | 0 => 0
  | n + 1 => st.rowCharge t i1 i2 n +
    (match st.addrAt n i1 i2 with | some a => chargedBytes t a.toNat st.esize | none => 0)

/-- The traffic of the whole stream in bytes (R204). -/
def charge (st : Stream) (t : Nat) : Nat :=
  (List.range (st.cntAt 1 * st.cntAt 2)).foldl (fun b r =>
    let i1 := r % st.cntAt 1
    let i2 := r / st.cntAt 1
    let a0 := sInt st.base + i1 * sInt (vget st.stride 1 0#64) + i2 * sInt (vget st.stride 2 0#64)
    let a1 := a0 + (st.cntAt 0 - 1 : Nat) * sInt (vget st.stride 0 0#64)
    let plainRow := !st.coord && decide (0 ≤ a0) && decide (a0 < 2 ^ 57) && decide (0 ≤ a1) && decide (a1 < 2 ^ 57)
    b + (if plainRow then st.cntAt 0 * st.esize else st.rowCharge t i1 i2 (st.cntAt 0))) 0

/-- The FILL bytes of a coordinate-mode stream. -/
def fillBytes (st : Stream) : List Byte := leBytes st.esize st.desc.fill.toNat

end Stream

/-! ### The stream unit -/

/-- What the stream unit finds at a place. -/
inductive UnitRes (α : Type) where
  | ok (x : α)
  | absent (va : Word)
  | bad (e : Err)
  | wait

/-- An access of the stream unit of tile `t`: members of tensors never pass through a window (06 R143). -/
def streamAccess (s : State) (t : Nat) (st : Stream) (need : Need) (va : Word) (n : Nat) : Acc :=
  let a := s.walkAccess t st.asid st.user need va.toNat n
  if st.coord then asMember va.toNat a else a

/-- A failure of an access to the element at `va` is reported with the element's address (R206). -/
def Err.ofElement (e : Err) (va : Word) (n : Nat) : Err :=
  if va.toNat ≤ e.addr.toNat ∧ e.addr.toNat < va.toNat + n then { e with addr := va } else e

/-- One element read whole. Through a format window it is decoded by the descriptor that stands when the unit is fetched, also after a
WDSET later than the VBIND: 07 R187 does not say to which instruction such a read belongs (DESIGN CHOICE, log entry 36). -/
def streamRead (s : State) (t : Nat) (st : Stream) (e : Nat) : UnitRes (List Byte) :=
  match st.addrOf e with
  | none => .ok st.fillBytes
  | some va =>
    match streamAccess s t st .read va st.esize with
    | .mem pa _ _ => .ok (rdBytes s.mem pa st.esize)
    | .win w off =>
      match winRead s t st.user (fun _ _ => false) w off st.esize va with
      | .ok bs => .ok bs
      | .wait => .wait
      | .err e => .bad (e.ofElement va st.esize)
    | .miss => .absent va
    | .err e => .bad (e.ofElement va st.esize)

/-- `n` elements from `e` on. -/
def streamReads (s : State) (t : Nat) (st : Stream) : Nat → Nat → UnitRes (List Byte)
  | _, 0 => .ok []
  | e, n + 1 =>
    match streamRead s t st e with
    | .ok bs =>
      match streamReads s t st (e + 1) n with
      | .ok cs => .ok (bs ++ cs)
      | r => r
    | r => r

def Cell.stream (x : Cell) (k : Nat) : Option Stream := vget x.strm k none
def Cell.setStream (x : Cell) (k : Nat) (st : Option Stream) : Cell := { x with strm := vset x.strm k st }

/-- Park the stream for an absent page: it is only delayed (R206). -/
def State.streamPark (s : State) (k : Nat) (st : Stream) (va : Word) : State :=
  let (id, s) := s.parkFault s.tid va (whoWord s.cid st.slot.toNat st.asid 3)
  s.setMyCell (s.myCell.setStream k (some { st with fault := some (id, va) }))

/-- Put the stream in error at a unit (R206): an address that is not mapped goes into the violation log. -/
def State.streamErr (s : State) (k : Nat) (st : Stream) (u : Nat) (e : Err) : State :=
  let s := match e.log with | some (kind, d, r) => s.logViolation s.tid e.addr s.cid d kind r | none => s
  s.setMyCell (s.myCell.setStream k (some { st with err := some (u, e.cause, e.addr) }))
/-- The trap of a pop or push of a stream in error: protection (R206), or what the element's page or line gave (10 R244, R246). -/
def streamTrap (x : Nat × Nat × Word) : Err := mkErr x.2.1 x.2.2 (if x.2.1 = 5 then 0x100#64 else 0#64)

/-- The elements of a unit have been read at their homes: the correctable errors of their lines and of the walks are met (10 R244),
and the L1s of the tile keep no older line (11 R266). -/
def State.meetUnit (s : State) (st : Stream) (e n : Nat) : State :=
  let vas := (List.range n).filterMap fun j => st.addrOf (e + j)
  let keys := vas.filterMap fun va =>
    match streamAccess s s.tid st .read va st.esize with
    | .mem pa _ _ => some pa
    | _ => none
  let met := vas.foldl (fun (s : State) va =>
    let s := s.meetPath s.tid st.asid va.toNat
    match streamAccess s s.tid st .read va st.esize with
    | .mem pa _ _ => s.meetLines s.tid pa st.esize
    | .win w off => s.meetWin st.user w off st.esize va
    | _ => s) s
  met.dropLines s.tid (keys.map (· / 64))

/-- The walks for the elements of a pushed unit, and what a window reads to encode them, meet the correctable errors of their lines. -/
def State.meetUnitWalks (s : State) (st : Stream) (e n : Nat) : State :=
  if s.flaws = [] then s
  else (List.range n).foldl (fun s j =>
    match st.addrOf (e + j) with
    | some va =>
      let s := s.meetPath s.tid st.asid va.toNat
      match streamAccess s s.tid st .write va st.esize with
      | .win w off => s.meetPut w off st.esize va
      | _ => s
    | none => s) s

/-- STREAM_UNIT_FETCH: the next unit of the read stream `k` of the cell. -/
def execStreamUnitFetch (s : State) : Result :=
  match s.myCell.stream s.sel.k with
  | none => .next s
  | some st =>
    let u := st.done + st.ready.length
    if s.myTile.run == .stopped || st.wr || st.err.isSome || st.fault.isSome || decide (8 ≤ st.ready.length) || decide (st.unitsLen ≤ u) then .next s
    else
      let (e, n) := st.unitElems u
      match streamReads s s.tid st e n with
      | .ok bs =>
        let s := s.meetUnit st e n
        .next (s.setMyCell (s.myCell.setStream s.sel.k (some { st with ready := st.ready ++ [packBytes bs] })))
      | .absent va => .next (s.streamPark s.sel.k st va)
      | .bad e => .next (s.streamErr s.sel.k st u e)
      | .wait => .next s

/-- The pieces of element `e` that the written lanes of its unit store: byte offset in the element, bytes. -/
def elemPieces (st : Stream) (data : BitVec 1024) (mask : BitVec 32) (j : Nat) : List (Nat × List Byte) :=
  let size := st.esize
  let bytes (o n : Nat) : List Byte := (List.range n).map fun i => data.extractLsb' (8 * (o + i)) 8
  if size = 8 then
    let lo := mask.getLsbD (2 * j)
    let hi := mask.getLsbD (2 * j + 1)
    if lo && hi then [(0, bytes (8 * j) 8)]
    else if lo then [(0, bytes (8 * j) 4)]
    else if hi then [(4, bytes (8 * j + 4) 4)]
    else []
  else if mask.getLsbD (size * j / 4) then [(0, bytes (size * j) size)] else []

/-- What one piece stores: its bytes and flags; it waits while a pending access of the pusher touches what a window reads. -/
def pieceWrite (s : State) (t : Nat) (st : Stream) (c : Ctx) (held : Nat → Nat → Bool) (va : Word) (bs : List Byte) :
    UnitRes (List WByte × FFlags) :=
  match streamAccess s t st .write va bs.length with
  | .mem pa _ _ => .ok (wbytes pa bs, 0#5)
  | .win w off =>
    match winWrite s t c held w off va bs with
    | .ok x => .ok x
    | .wait => .wait
    | .err e => .bad e
  | .miss => .absent va
  | .err e => .bad e

/-- The pieces of one element, after what earlier elements store. -/
def piecesWrite (s : State) (t : Nat) (st : Stream) (c : Ctx) (held : Nat → Nat → Bool) (va : Word) :
    List (Nat × List Byte) → List WByte × FFlags × Nat → UnitRes (List WByte × FFlags × Nat)
  | [], acc => .ok acc
  | q :: qs, (ws, f, drops) =>
    match pieceWrite s t st c held (va + BitVec.ofNat 64 q.1) q.2 with
    | .ok (w2, f2) => piecesWrite s t st c held va qs (ws ++ w2, f ||| f2, drops)
    | .absent _ => .absent va
    | .bad e => .bad (e.ofElement va 8)
    | .wait => .wait

/-- The stores of elements `e0`, … of a unit pushed by context `c`: bytes, flags, and the number of dropped elements; an element
out of bounds stores nothing. -/
def unitStores (s : State) (t : Nat) (st : Stream) (c : Ctx) (held : Nat → Nat → Bool) (data : BitVec 1024) (mask : BitVec 32)
    (e0 : Nat) : Nat → UnitRes (List WByte × FFlags × Nat)
  | 0 => .ok ([], 0#5, 0)
  | n + 1 =>
    match unitStores s t st c held data mask e0 n with
    | .ok (ws, f, drops) =>
      match elemPieces st data mask n with
      | [] => .ok (ws, f, drops)
      | ps =>
        match st.addrOf (e0 + n) with
        | none => .ok (ws, f, drops + 1)
        | some va => piecesWrite s t st c held va ps (ws, f, drops)
    | r => r

/-- Dropped elements are counted by the tile (06 R148). -/
def State.countOob (s : State) (t n : Nat) : State :=
  let x := s.tile t
  s.setTile t { x with oob := BitVec.ofNat 64 (min (x.oob.toNat + n) (2 ^ 64 - 1)) }

/-- The oldest pushed unit `q` of the write stream `k` is performed as stores of the context that pushed it, the units `rest` staying. -/
def State.writeUnit (s : State) (k : Nat) (st : Stream) (q : Push) (rest : List Push) : State :=
  let s := s.write s.tid q.ws
  s.setMyCell (s.myCell.setStream k (some { st with pushed := rest }))

/-- STREAM_UNIT_WRITE: the oldest pushed unit of the write stream `k` is performed. -/
def execStreamUnitWrite (s : State) : Result :=
  match s.myCell.stream s.sel.k with
  | none => .next s
  | some st =>
    match st.pushed with
    | [] => .next s
    | q :: rest => if s.myTile.run == .stopped then .next s else .next (s.writeUnit s.sel.k st q rest)

end Sys2Proof.Machine
end

