-- ==== Sys2Proof/Machine/Rights.lean ====
section
/-! DEFINITION. Sys2Proof/Machine/Rights.lean: the protection table and the check of region-addressed operations (06 R145 to
R147), members of regions, and the bytes that a region is charged for (05 R115). -/

namespace Sys2Proof.Machine

/-- The first 408 bytes of grant `k` of a tile (Table 06-6): its region image and RIGHTS. -/
def Tile.grant (x : Tile) (k : Nat) : List Byte :=
  (List.range 51).flatMap fun j => leBytes 8 (mget x.prot (64 * k + j) 0#64).toNat

/-- The boxes that a grant gives on descriptor slot `i` with right bit `b` (0 R, 1 W, 2 S). R145 names no case for a malformed image:
one of RANK 0 grants nothing, a RANK above 4 is read as 4 and a COUNT above 8 as 8 (DESIGN CHOICE, log entry 35); a box with a CNT of
0 has no member, and one with a STEP of 0 the coordinate LO alone in that dimension (DESIGN CHOICE, log entry 37). -/
def grantBoxes (D : Desc) (i : BitVec 12) (b : Nat) (g : List Byte) : List NBox :=
  let fl := byteAt g 4
  let rights := byteAt g 400
  if 128 ≤ rights ∧ rights / 2 ^ b % 2 = 1 ∧ fl % 2 = 0 ∧ fl / 4 % 2 = 0 ∧ D.installed ∧ natAt g 0 2 % 4096 = i.toNat ∧ byteAt g 2 ≠ 0 then
    (imageBoxes g (min 8 (byteAt g 3)) (min 4 (byteAt g 2))).map fun x => fitBox D.n (x.map Dim.rng)
  else []

/-- The union of the grants of a tile: those whose VALID bit, bit 7 of byte 400, is set. -/
def grantUnion (s : State) (t : Nat) (D : Desc) (i : BitVec 12) (b : Nat) : List NBox :=
  if (s.tile t).prot.isEmpty then []
  else (List.range 64).flatMap fun k =>
    if (mget (s.tile t).prot (64 * k + 50) 0#64).getLsbD 7 then grantBoxes D i b ((s.tile t).grant k) else []

/-- The place of a member in canonical enumeration order (R159). -/
def rowIndex : NBox → List Nat → Nat
  | r :: b, x :: xs => (x - r.lo) / r.step * NBox.size b + rowIndex b xs
  | _, _ => 0
def memberIndex : List NBox → List Nat → Nat
  | [], _ => 0
  | b :: bs, x => if NBox.has b x then rowIndex b x else NBox.size b + memberIndex bs x

/-- The address of a member, or for q4n its index (R143, R147). -/
def memberWord (D : Desc) (x : List Nat) : Word := if D.tyOf = .q4n then D.index x else D.addr x

/-- The first uncovered member and the first right that it lacks. -/
def firstLacking (s : State) (t : Nat) (D : Desc) (i : BitVec 12) (bs : List NBox) : List Nat → Option (List Nat × Nat)
  | [] => none
  | b :: rest =>
    match firstOutside D.n (grantUnion s t D i b) bs, firstLacking s t D i bs rest with
    | none, r => r
    | some x, none => some (x, b)
    | some x, some (y, c) => if memberIndex bs y < memberIndex bs x then some (y, c) else some (x, b)

/-- The check of R146 for right bits in the order R, W, S; its trap (R147). A protection table with an uncorrectable error traps
the reading context with 0x15 (R148); taddr is the instruction's address, since the table has no virtual one (log entry 34). -/
def checkRights (s : State) (i : BitVec 12) (D : Desc) (bs : List NBox) (rights : List Nat) : Option Err :=
  if s.myTile.pbad then some (mkErr 0x15 s.ctx.pc 0#64)
  else match firstLacking s s.tid D i bs rights with
  | none => none
  | some (x, b) =>
    some ⟨6, memberWord D x, BitVec.ofNat 64 (i.toNat + 2 ^ b * 65536), some (1, i.toNat, 2 ^ b)⟩
/-- The check meets the table's correctable error (R148). -/
def State.meetProt (s : State) : State := s.meetFlaw s.tid (.prot s.tid)

/-- One member as a box. -/
def pointBox (x : List Nat) : NBox := x.map fun v => ⟨v, 1, 1⟩

/-- Every member of a list of boxes, in canonical order. -/
def boxMembers (b : NBox) : List (List Nat) := (List.range (NBox.size b)).map (boxMember b)
def members (bs : List NBox) : List (List Nat) := bs.flatMap boxMembers

/-- The least and greatest address of a box as integers. -/
def boxSpan (D : Desc) (b : NBox) : Int × Int :=
  (List.range b.length).foldl (fun a k =>
    let r := (b[k]?).getD oneRng
    let st := sInt (vget D.stride k 0#64)
    let u := r.lo * st
    let v := (r.lo + (r.cnt - 1) * r.step : Nat) * st
    (a.1 + min u v, a.2 + max u v)) ((D.base.toNat : Int), (D.base.toNat : Int))

/-- Word `k` of the parameter record of a q4n tensor (07 R172: CODES, SCALES, SUPERS), or the record's address when the word
cannot be read. -/
def paramWord (s : State) (t : Nat) (D : Desc) (k : Nat) : Word :=
  match s.walkAccess t (s.asidOf t) false .read (D.param.toNat + 8 * k) 8 with
  | .mem pa _ _ => rd64 s.mem pa
  | _ => D.param
/-- The address of the code array of a q4n tensor. -/
def codesAddr (s : State) (t : Nat) (D : Desc) : Word := paramWord s t D 0

/-- The addresses that an access to member `x` reaches: its own, or for q4n its record, code, scale and super-scale (07 R173,
R174); none when it is out of bounds (R148). -/
def memberAddrs (s : State) (t : Nat) (D : Desc) (x : List Nat) : List Word :=
  if !Stream.inside D (x.map Int.ofNat) then []
  else if D.tyOf = .q4n then
    let j := (D.index x).toNat
    let at_ (w : Word) (n : Nat) : Word := w + BitVec.ofNat 64 n
    [D.param, at_ (paramWord s t D 0) (j / 2), at_ (paramWord s t D 1) (j / 64), at_ (paramWord s t D 2) (4 * (j / 16384))]
  else [D.addr x]

/-- The bytes of a region's members in charged memory (05 R115). Whether the codes of a q4n tensor lie there is judged on the
first byte of its code array alone (R115 does not say; DESIGN CHOICE, log entry 34). -/
def regionBytes (s : State) (D : Desc) (bs : List NBox) : Nat :=
  if D.tyOf = .q4n then (if chargedBytes s.tid (codesAddr s s.tid D).toNat 1 = 0 then 0 else ceilDiv (volume bs) 2)
  else bs.foldl (fun n b =>
    let r := boxSpan D b
    n + (if 0 ≤ r.1 ∧ r.2 < 2 ^ 57 then NBox.size b * D.tyOf.bytes
      else (boxMembers b).foldl (fun n x => n + chargedBytes s.tid (D.addr x).toNat D.tyOf.bytes) 0)) 0

end Sys2Proof.Machine
end

