-- ==== Sys2Proof/Machine/Atomic.lean ====
section
/-! DEFINITION. Sys2Proof/Machine/Atomic.lean: the atomic functions (10 R252 to R254), PREF and INVL1 (R263), and the walk of a
TLB miss (R245, R248). -/

namespace Sys2Proof.Machine

/-! ### AMO (R253) -/

/-- The operand width in bytes. -/
def amoBytes (p : Pfx) : Nat := if p.fx.getLsbD 4 then 8 else 4
def amoFmt (p : Pfx) : FFmt := if p.fx.getLsbD 4 then fmtF64 else fmtF32
/-- The low bits of a register. -/
def lowOf (n : Nat) (w : Word) : Nat := w.toNat % 2 ^ (8 * n)

/-- One indivisible operation on `n` bytes: `new` gives what is written, none for no write; `put` delivers the old value. The
home's value has been read, so the tile's L1s keep no older line, also where nothing is written (11 R266). -/
def amoBody (p : Pfx) (a : BitVec 4) (n : Nat) (new : Nat → Option Nat) (put : Nat → State → State) (s : State) : Res :=
  let va := opA p a s
  if va.toNat % n ≠ 0 then .trap (mkErr 4 va 0#64)
  else if s.ctx.accessHeld then .hold
  else match s.access s.cid s.ctx.user .atomic va.toNat n with
    | .mem pa _ _ =>
      withRelease p s fun s =>
        if s.pendTouches pa n then .hold
        else
          let s := (s.meetLines s.tid pa n).dropLines s.tid [pa / 64]
          let old := rdN s.mem pa n
          let s := match new old with | some v => s.putN s.tid pa n v | none => s
          .ok (withAcquire p (put old s))
    | .win _ _ => .trap ⟨6, va, 0#64, some (2, 0, 0)⟩
    | .miss => .miss va .store
    | .err e => s.refuse va e

/-- Charge 2, and 1 traffic unit in charged memory. -/
def amoCost (p : Pfx) (a : BitVec 4) (n : Nat) (s : State) : Nat := units (chargedBytes s.tid (opA p a s).toNat n)

/-- An AMO whose new value is a function of the old value and s[e]. -/
def amo (i : Instr) (p : Pfx) (d a : BitVec 4) (f : Nat → Nat → Nat) (s : State) : Result :=
  let n := amoBytes p
  issue i (memory 2 (amoCost p a n) fun s =>
    amoBody p a n (fun old => some (f old (lowOf n (opE p s)))) (fun old s => s.ws (p.dn d) (BitVec.ofNat 64 old)) s) s

/-- A signed comparison of codes of `n` bytes. -/
def signedLt (n x y : Nat) : Bool := decide ((BitVec.ofNat (8 * n) x).toInt < (BitVec.ofNat (8 * n) y).toInt)

def execAadd (p : Pfx) (d a : BitVec 4) (s : State) : Result :=
  amo (.aadd p d a) p d a (fun x y => (x + y) % 2 ^ (8 * amoBytes p)) s
def execAand (p : Pfx) (d a : BitVec 4) (s : State) : Result := amo (.aand p d a) p d a (fun x y => x &&& y) s
def execAor (p : Pfx) (d a : BitVec 4) (s : State) : Result := amo (.aor p d a) p d a (fun x y => x ||| y) s
def execAxor (p : Pfx) (d a : BitVec 4) (s : State) : Result := amo (.axor p d a) p d a (fun x y => x ^^^ y) s
def execAmin (p : Pfx) (d a : BitVec 4) (s : State) : Result :=
  amo (.amin p d a) p d a (fun x y => if signedLt (amoBytes p) y x then y else x) s
def execAmax (p : Pfx) (d a : BitVec 4) (s : State) : Result :=
  amo (.amax p d a) p d a (fun x y => if signedLt (amoBytes p) x y then y else x) s
def execAminu (p : Pfx) (d a : BitVec 4) (s : State) : Result := amo (.aminu p d a) p d a min s
def execAmaxu (p : Pfx) (d a : BitVec 4) (s : State) : Result := amo (.amaxu p d a) p d a max s
def execAswap (p : Pfx) (d a : BitVec 4) (s : State) : Result := amo (.aswap p d a) p d a (fun _ y => y) s
def execAfadd (p : Pfx) (d a : BitVec 4) (s : State) : Result :=
  amo (.afadd p d a) p d a (fun x y => (fadd (amoFmt p) .rne x y).1) s

/-- The second register of a pair is beyond the class: R55 and R58 put the trap before any charge, the pseudocode of R253 after Issue();
the model judges it under a guard that is true and before the charge (DESIGN CHOICE, log entry 35). -/
def pairErr (i : Instr) (n : Nat) (s : State) : Option Err := if n = 15 then some (mkErr 1 s.ctx.pc i.tinfo) else none

def execAcas (p : Pfx) (d a : BitVec 4) (s : State) : Result :=
  let n := amoBytes p
  issue (.acas p d a) { memory 2 (amoCost p a n) (fun s =>
    amoBody p a n (fun old => if old = lowOf n (opE p s) then some (lowOf n (s.rs (p.en + 1))) else none)
      (fun old s => s.ws (p.dn d) (BitVec.ofNat 64 old)) s) with own := pairErr (.acas p d a) p.en } s

/-- The compensated pair update, every operation in f64 and RNE (R254); an addend of +0 leaves the pair unchanged. -/
def pairAdd (old x : Nat) : Nat :=
  if x = 0 then old
  else
    let sum := old % 2 ^ 64
    let err := old / 2 ^ 64
    let s2 := (fadd fmtF64 .rne sum x).1
    let e := match fmtF64.decode sum, fmtF64.decode x, fmtF64.decode s2 with
      | .fin n1 m1 e1, .fin n2 m2 e2, .fin n3 m3 e3 =>
        let e0 := min e1 (min e2 e3)
        let t := scaleTo e0 n1 m1 e1 + scaleTo e0 n2 m2 e2 - scaleTo e0 n3 m3 e3
        (roundFin fmtF64 .rne (decide (t < 0)) t.natAbs e0).1
      | _, _, _ => 0
    s2 + (fadd fmtF64 .rne err e).1 * 2 ^ 64

def execAfaddcp (p : Pfx) (d a : BitVec 4) (s : State) : Result :=
  issue (.afaddcp p d a) { memory 2 (amoCost p a 16) (fun s =>
    let x := lowOf (amoBytes p) (opE p s)
    let x := if amoBytes p = 8 then x else (convert .f32 .f64 .rne false x).1
    amoBody p a 16 (fun old => some (pairAdd old x)) (fun old s =>
      (s.ws (p.dn d) (BitVec.ofNat 64 old)).ws (p.dn d + 1) (BitVec.ofNat 64 (old / 2 ^ 64))) s) with
    own := pairErr (.afaddcp p d a) (p.dn d) } s

/-! ### PREF and INVL1 (R263) -/

/-- PREF of a line changes no value that an access returns. -/
def execPrefLine (p : Pfx) (a : BitVec 4) (s : State) : Result :=
  issue (.prefLine p a) (memory 1 (fun s => units (chargedBytes s.tid (opA p a s).toNat 1)) .ok) s

def execPrefRegion (p : Pfx) (a : BitVec 4) (s : State) : Result :=
  issue (.prefRegion p a) { memory 1 (fun s =>
      let g := s.rg (p.an a)
      if (s.gBad g true).isSome then 0 else units (regionBytes s (s.desc g.desc) (s.boxes g))) (fun s =>
    let g := s.rg (p.an a)
    withRegion g true s fun s =>
      match checkRights s g.desc (s.desc g.desc) (s.boxes g) [0] with
      | some e => .trap e
      | none => .ok s.meetProt) with ready := fun s => !s.ragWait (s.rg (p.an a)) } s

def execInvl1All (p : Pfx) (a : BitVec 4) (s : State) : Result :=
  issue (.invl1All p a) (plain 1 fun s => .ok (s.setMyCell { s.myCell with l1 := [] })) s

/-- INVL1 of a line: an address that has no translation does nothing. -/
def execInvl1Line (p : Pfx) (a : BitVec 4) (s : State) : Result :=
  issue (.invl1Line p a) (plain 1 fun s =>
    let va := (opA p a s).toNat
    if va < 2 ^ 57 then
      match s.physOf s.cid va with
      | some (.ok pa _) => .ok (s.setMyCell { s.myCell with l1 := s.myCell.l1.filter (·.line != pa / 64) })
      | _ => .ok s
    else .ok s) s

/-! ### TLB_MISS_WALK (R245, R248, 14 R345) -/

/-- What a context's wait becomes when its access is to be tried again. -/
def Ctx.again (c : Ctx) : Ctx := { c with wait := if c.paid.isSome then .answered else .none }

/-- The MTU walks the tables for the selected context's miss: the translation is filled, or the access is parked. An entry whose
read gives an error response ends the walk, and the access is tried again, as for a malformed one. -/
def execTlbMissWalk (s : State) : Result :=
  let c := s.ctx
  match c.wait with
  | .walk va kind =>
    let w := s.walk s.asid va.toNat
    let s := s.meetWalk s.tid s.asid va.toNat
    match w with
    | .leaf pte => .next ((s.fillTlb s.cid (mkTlb s.asid va.toNat pte)).setCtx c.again)
    | .malformed | .refused _ => .next (s.setCtx c.again)
    | .absent =>
      let (id, s) := s.parkFault s.tid va (whoWord s.cid s.sid s.asid kind.code)
      .next (s.setCtx { c with wait := .mtu id va kind })
  | _ => .next s

end Sys2Proof.Machine
end

