-- ==== Sys2Proof/Machine/Vector.lean ====
section
/-! DEFINITION. Sys2Proof/Machine/Vector.lean: the quartet vector unit: the cell's queue and the arbiter (08 R196 to R199), and the
instructions of page 1 (R208 to R216). Results are formed at issue, in the cell's issue order; the queue holds what remains
of an instruction until it completes (R198: the arbiter changes no result). -/

namespace Sys2Proof.Machine

/-! ### Element types (08 Table 08-1) -/

/-- A vector element type: elements a lane, width, element format. -/
structure VTy where
  n  : Nat
  w  : Nat
  ty : Ty
  deriving DecidableEq, Repr

def vtyOf (code : Nat) : VTy :=
  match code with
  | 0 => ⟨1, 32, .i32⟩ | 1 => ⟨1, 32, .n32⟩ | 2 => ⟨1, 32, .f32⟩ | 3 => ⟨2, 16, .bf16⟩ | 4 => ⟨2, 16, .f16⟩
  | 5 => ⟨2, 16, .i16⟩ | 6 => ⟨4, 8, .i8⟩ | _ => ⟨4, 8, .e4m3n⟩
def pVty (p : Pfx) : VTy := vtyOf p.fx53.toNat

/-- Sub-element `j` of a lane (R194), and a lane of sub-elements. -/
def subEl (T : VTy) (x : BitVec 32) (j : Nat) : Nat := x.toNat / 2 ^ (T.w * j) % 2 ^ T.w
def packEls (T : VTy) (xs : List Nat) : BitVec 32 := BitVec.ofNat 32 (xs.foldr (fun x n => x % 2 ^ T.w + n * 2 ^ T.w) 0)
/-- Element `e` of a register. -/
def element (T : VTy) (v : Lanes) (e : Nat) : Nat := subEl T (lane v (e / T.n)) (e % T.n)
/-- The integer that an element of an integer type stands for. -/
def elInt (T : VTy) (x : Nat) : Int :=
  match T.ty.int with
  | some (true, w) => (BitVec.ofNat w x).toInt
  | _ => (x : Int)

/-- Active lanes (R195): the lane guard, below min(vcnt, 32). -/
def activeMask (p : Pfx) (s : State) : BitVec 32 :=
  let k := gDepth p
  let neg := gNeg p
  let m := match s.ctx.guardAt k neg with | some e => e.mask | none => 0#32
  m &&& BitVec.ofNat 32 (2 ^ (min s.ctx.vcnt.toNat 32) - 1)

/-! ### The queue (R196) -/

/-- The entry of an instruction joins the cell's queue, or takes the place in which the instruction has waited. -/
def State.enqueueV (s : State) (whole : Bool) (flags : FFlags) : State :=
  let x := s.myCell
  let e : VEnt := ⟨s.sel.slot, s.ctx.ident, whole, 15#4, flags, .ready, VClaim.none⟩
  s.setMyCell { x with vq := if x.vq.any s.ownEnt then x.vq.map fun q => if s.ownEnt q then e else q else x.vq ++ [e] }

/-- The cell's queue takes the instruction, or holds it already: a context that finds it full stalls at issue, uncharged (R196). -/
def State.vroom (s : State) : Bool :=
  decide ((s.myCell.vq.filter fun e => e.kind != .release).length < 8) || s.myCell.vq.any s.ownEnt
/-- What stands in the queue before the acting context's instruction. -/
def State.vbefore (s : State) : List VEnt := s.myCell.vq.takeWhile fun e => !s.ownEnt e
/-- An earlier entry has not taken its effect: an instruction on a stream or on memory waits in the queue behind it (R196). -/
def State.vbusy (s : State) : Bool := s.vbefore.any (·.isOpen)
/-- The entry has still to write a register that the instruction names, or to read one that it writes. -/
def VEnt.blocks (e : VEnt) (rd wr : List Nat) : Bool :=
  e.isOpen && (e.claim.wr.any (rd ++ wr).contains || e.claim.rd.any wr.contains)
/-- An earlier entry of the queue must take its effect before an instruction that reads the vector registers `rd` and writes `wr`. -/
def State.vheld (s : State) (rd wr : List Nat) : Bool := s.vbefore.any (·.blocks rd wr)

/-- The binding of a vector register. -/
def State.binding (s : State) (n : Nat) : Option Stream := if 28 ≤ n then s.myCell.stream (n - 28) else none

/-- The direction in which a register is bound (true: write), as every instruction issued earlier on the cell leaves it (R205). -/
def State.dirAt (s : State) (n : Nat) : Option Bool :=
  s.vbefore.foldl (fun b e =>
    match e.isOpen, e.claim.bind with
    | true, some (k, d) => if k = n then d else b
    | _, _ => b) ((s.binding n).map (·.wr))
/-- One of the registers is bound. -/
def State.onStream (s : State) (ns : List Nat) : Bool := ns.any fun n => (s.dirAt n).isSome

/-- Misuse of a bound register (R205). -/
def misuse (srcs : List Nat) (dst : Option Nat) (s : State) : Bool :=
  srcs.any (fun n => s.dirAt n == some true) || dst.any fun n => s.dirAt n == some false

/-- Misuse traps as an illegal instruction at issue. -/
def misuseErr (i : Instr) (srcs : List Nat) (dst : Option Nat) (s : State) : Option Err :=
  if misuse srcs dst s then some (mkErr 1 s.ctx.pc i.tinfo) else none
/-- The shape of a page-1 instruction that reads the vector registers `srcs` and writes `dst`. -/
def queued (i : Instr) (srcs : List Nat) (dst : Option Nat) (sh : Shape) : Shape :=
  { sh with ready := State.vroom, own := misuseErr i srcs dst }

/-- What a pop delivers. -/
inductive Pop where
  | unit (x : Lanes)
  | wait
  | err (e : Err)

/-- The next unit of a read stream, not yet taken. -/
def Stream.peek (st : Stream) : Pop :=
  if st.unitsLen ≤ st.done then .unit zeroLanes
  else match st.ready with
    | x :: _ => .unit (unpackLanes x)
    | [] => match st.err with | some x => .err (streamTrap x) | none => .wait
/-- Take it. -/
def Stream.pop (st : Stream) : Stream :=
  if st.unitsLen ≤ st.done then { st with eos := true } else { st with done := st.done + 1, ready := st.ready.drop 1 }

/-- The popped units of the bound registers among the sources, each once. -/
def popAll (s : State) : List Nat → Except Res (List (Nat × Lanes))
  | [] => .ok []
  | n :: ns =>
    match popAll s ns with
    | .error r => .error r
    | .ok vs =>
      if vs.any (·.1 == n) then .ok vs
      else match s.binding n with
        | none => .ok vs
        | some st =>
          match st.peek with
          | .unit x => .ok ((n, x) :: vs)
          | .wait => .error (.streamWait VClaim.none id)
          | .err e => .error (.trap e)

/-- Advance the streams that were popped. -/
def takePops (vs : List (Nat × Lanes)) (s : State) : State :=
  vs.foldl (fun s v => match s.binding v.1 with
    | some st => s.setMyCell (s.myCell.setStream (v.1 - 28) (some st.pop))
    | none => s) s

/-- A source register: its popped unit, or its lanes. -/
def vsrc (vs : List (Nat × Lanes)) (s : State) (n : Nat) : Lanes :=
  match vs.find? (·.1 == n) with
  | some v => v.2
  | none => s.rv n

/-- A result: the lanes that `mask` names, and the flags. -/
structure VRes where
  new   : Lanes
  mask  : BitVec 32
  flags : FFlags

/-- Lanes of `new` where the mask is 1, of `old` elsewhere (02 R44). -/
def mergeLanes (old new : Lanes) (mask : BitVec 32) : Lanes :=
  mkLanes fun i => if mask.getLsbD i then lane new i else lane old i

/-- Push one unit into a write stream: its check is made now (R200, R206), and its stores are formed, with their flags and drops,
which come with the instruction (log entry 21); past the end nothing is stored (R205). The page of an element that is absent is
asked for, and the push waits for it. Its stores count as the context's, so the push waits for the context's earlier accesses to
those bytes, those of units in other streams among them, and for its vector stores (R201). -/
def pushUnit (k : Nat) (st : Stream) (r : VRes) (s : State) : Except Res (State × FFlags) :=
  let put (st : Stream) (s : State) : State := s.setMyCell (s.myCell.setStream k (some st))
  let add (ws : List WByte) (s : State) : State :=
    put { st with done := st.done + 1, pushed := st.pushed ++ [⟨st.done, packLanes r.new, r.mask, s.sel.slot, ws⟩] } s
  let others := s.myCell.setStream k none
  match st.err with
  | some x => .error (.trap (streamTrap x))
  | none =>
    if st.unitsLen ≤ st.done then .ok (put { st with eos := true } s, 0#5)
    else if st.fault.isSome || decide (8 ≤ st.pushed.length) then .error (.streamWait VClaim.none id)
    else if s.ctx.accessHeld then .error .hold
    else
      let (e, n) := st.unitElems st.done
      match unitStores s s.tid st s.ctx s.pendTouches (packLanes r.new) r.mask e n with
      | .bad e => .error (.trapOnly (fun s => s.streamErr k st st.done e) { e with log := none })
      | .wait => .error .hold
      | .absent va => .error (.streamWait VClaim.none fun s => s.streamPark k st va)
      | .ok (ws, f, drops) =>
        if ws.any fun b => s.ctx.pendTouches b.pa 1 || others.pushTouches s.sel.slot b.pa 1 then .error .hold
        else .ok ((add ws (s.meetUnitWalks st e n)).countOob s.tid drops, f)

/-- Write a vector result: the lanes of a plain register, or a unit of a write stream, and the flags that its window adds. -/
def putLanes (dst : Nat) (r : VRes) (s : State) : Except Res (State × FFlags) :=
  match s.binding dst with
  | some st => pushUnit (dst - 28) st r s
  | none => .ok (s.wv dst (mergeLanes (s.rv dst) r.new r.mask), 0#5)

/-- An instruction that waits or whose access has missed stands in the vector queue from its issue on, and says what it claims. -/
def Res.names (k : VClaim) : Res → Res
  | .streamWait _ f => .streamWait k f
  | .hold => .streamWait k id
  | .miss va a => .missIn k va a
  | r => r

/-- What an instruction claims while it waits: a stream that it pops moves. -/
def State.claimOf (s : State) (srcs : List Nat) (dst : Option Nat) : VClaim :=
  ⟨srcs.filter fun n => (s.dirAt n).isNone, dst.toList ++ srcs.filter fun n => (s.dirAt n).isSome, none, none⟩

/-- A queued instruction: misuse (judged at its issue, and again when it goes on after a wait), its turn behind those that wait
(an access to memory and a stream behind all of them: R196), pops, its own effect, its entry. `f` gets the operand reader. -/
def vqueue (i : Instr) (whole mem : Bool) (srcs : List Nat) (dst : Option Nat)
    (f : (Nat → Lanes) → State → Except Res (State × FFlags)) (s : State) : Res :=
  let k := s.claimOf srcs dst
  let bound := s.onStream (srcs ++ dst.toList)
  if misuse srcs dst s then .trap (mkErr 1 s.ctx.pc i.tinfo)
  else if (if mem || bound then s.vbusy else s.vheld srcs dst.toList) then .streamWait k id
  else match popAll s srcs with
    | .error r => r.names k
    | .ok vs =>
      match f (vsrc vs s) s with
      | .error r => r.names k
      | .ok (t, flags) => .ok ((takePops vs t).enqueueV (whole || bound) flags)

/-- The meaning of an instruction on vector registers alone: whole-register or not, sources, destination (a scalar register for
VEXT: lane 0 of the result), and the result from the registers. -/
structure VForm where
  whole : Bool
  srcs  : List Nat
  dst   : Nat
  toS   : Bool := false
  f     : (Nat → Lanes) → State → VRes
def VForm.vdst (F : VForm) : Option Nat := if F.toS then none else some F.dst

/-- Put a result where it goes. -/
def VForm.put (F : VForm) (r : VRes) (s : State) : Except Res (State × FFlags) :=
  if F.toS then .ok (s.ws F.dst ((lane r.new 0).setWidth 64), 0#5) else putLanes F.dst r s

/-- The instruction joins the queue behind entries that have still to write what it reads, or to use what it writes: its context goes
on, and the result is formed later from the scalar registers and the guard that it has captured (R79, R196, R200). -/
def State.joinLate (s : State) (i : Instr) (F : VForm) : State :=
  let x := s.myCell
  let s1 := s.setMyCell { x with
    vq := x.vq ++ [⟨s.sel.slot, s.ctx.ident, F.whole, 15#4, 0#5, .late i s.ctx, ⟨F.srcs, F.vdst.toList, none, none⟩⟩] }
  if F.toS then s1.setCtx { s1.ctx with vdest := s1.ctx.vdest ++ [F.dst] } else s1

/-- An instruction on vector registers. -/
def vwrite (i : Instr) (F : VForm) (s : State) : Res :=
  if !s.onStream (F.srcs ++ F.vdst.toList) && s.vheld F.srcs F.vdst.toList then .ok (s.joinLate i F)
  else vqueue i F.whole false F.srcs F.vdst (fun rd s =>
    let r := F.f rd s
    match F.put r s with
    | .error e => .error e
    | .ok (t, fl) => .ok (t, r.flags ||| fl)) s

/-- Issue of such an instruction. -/
def vexec (i : Instr) (F : VForm) (s : State) : Result := issue i (queued i F.srcs F.vdst (plain 1 (vwrite i F))) s

/-! ### Elementwise instructions -/

/-- Apply an element function to the sub-elements of one lane: the lane and its flags. -/
def laneOp (T : VTy) (f : Nat → Nat → Nat → Nat × FFlags) (x y z : BitVec 32) : BitVec 32 × FFlags :=
  let rs := (List.range T.n).map fun j => f (subEl T x j) (subEl T y j) (subEl T z j)
  (packEls T (rs.map (·.1)), rs.foldl (fun a r => a ||| r.2) 0#5)

/-- Apply it to the active lanes. -/
def lanesOp (T : VTy) (mask : BitVec 32) (f : Nat → Nat → Nat → Nat × FFlags) (x y z : Lanes) : VRes :=
  let r (i : Nat) : BitVec 32 × FFlags := laneOp T f (lane x i) (lane y i) (lane z i)
  ⟨mkLanes fun i => if mask.getLsbD i then (r i).1 else 0#32, mask,
    (List.range 32).foldl (fun a i => if mask.getLsbD i then a ||| (r i).2 else a) 0#5⟩

/-- The two sources of an F0 arithmetic form (03 R56). -/
def vx (p : Pfx) (d a : BitVec 4) : Nat := if p.hasR then p.an a else p.dn d
def vy (p : Pfx) (a : BitVec 4) : Nat := if p.hasR then p.en else p.an a

/-- A two-source element instruction, one with one source, and one that also reads d. -/
def velem2 (p : Pfx) (d a : BitVec 4) (T : VTy) (f : State → Nat → Nat → Nat × FFlags) : VForm where
  whole := false
  srcs := [vx p d a, vy p a]
  dst := p.dn d
  f := fun rd s => lanesOp T (activeMask p s) (fun x y _ => f s x y) (rd (vx p d a)) (rd (vy p a)) zeroLanes
def velem1 (p : Pfx) (d a : BitVec 4) (T : VTy) (f : State → Nat → Nat × FFlags) : VForm where
  whole := false
  srcs := [p.an a]
  dst := p.dn d
  f := fun rd s => lanesOp T (activeMask p s) (fun x _ _ => f s x) (rd (p.an a)) zeroLanes zeroLanes
def velem3 (p : Pfx) (d a : BitVec 4) (T : VTy) (f : State → Nat → Nat → Nat → Nat × FFlags) : VForm where
  whole := false
  srcs := [p.dn d, p.an a, p.en]
  dst := p.dn d
  f := fun rd s => lanesOp T (activeMask p s) (fun x y z => f s x y z) (rd (p.dn d)) (rd (p.an a)) (rd p.en)

/-- An exact integer result: modulo 2^width, or clamped to the element's range under sat; no flag (R209). -/
def intResult (T : VTy) (sat : Bool) (i : Int) : Nat × FFlags :=
  let sg := match T.ty.int with | some (b, _) => b | none => false
  if sat && decide (i < intMin sg T.w) then (wrapInt T.w (intMin sg T.w), 0#5)
  else if sat && decide (intMax sg T.w < i) then (wrapInt T.w (intMax sg T.w), 0#5)
  else (wrapInt T.w i, 0#5)

/-- VARITH on one element: the floating function, or the integer one (R209). -/
def arith2 (p : Pfx) (ff : FFmt → RM → Nat → Nat → Nat × FFlags) (fi : Int → Int → Int) (s : State) (x y : Nat) : Nat × FFlags :=
  let T := pVty p
  match T.ty.flt with
  | some f => ff f (roundMode p s) x y
  | none => intResult T (satOn p) (fi (elInt T x) (elInt T y))
def arith1 (p : Pfx) (ff : FFmt → Nat → Nat) (fi : Int → Int) (x : Nat) : Nat × FFlags :=
  let T := pVty p
  match T.ty.flt with
  | some f => (ff f x, 0#5)
  | none => intResult T (satOn p) (fi (elInt T x))

def formVadd (p : Pfx) (d a : BitVec 4) : VForm :=
  velem2 p d a (pVty p) (arith2 p fadd (· + ·))
def execVadd (p : Pfx) (d a : BitVec 4) (s : State) : Result := vexec (.vadd p d a) (formVadd p d a) s
def formVsub (p : Pfx) (d a : BitVec 4) : VForm :=
  velem2 p d a (pVty p) (arith2 p fsub (· - ·))
def execVsub (p : Pfx) (d a : BitVec 4) (s : State) : Result := vexec (.vsub p d a) (formVsub p d a) s
def formVmul (p : Pfx) (d a : BitVec 4) : VForm :=
  velem2 p d a (pVty p) (arith2 p fmul (· * ·))
def execVmul (p : Pfx) (d a : BitVec 4) (s : State) : Result := vexec (.vmul p d a) (formVmul p d a) s
/-- VFMA: d + a × e. -/
def formVfma (p : Pfx) (d a : BitVec 4) : VForm :=
  velem3 p d a (pVty p) (fun s z x y =>
    let T := pVty p
    match T.ty.flt with
    | some f => ffma f (roundMode p s) z x y
    | none => intResult T (satOn p) (elInt T z + elInt T x * elInt T y))
def execVfma (p : Pfx) (d a : BitVec 4) (s : State) : Result := vexec (.vfma p d a) (formVfma p d a) s
def formVmin (p : Pfx) (d a : BitVec 4) : VForm :=
  velem2 p d a (pVty p) (arith2 p (fun f _ => fminmax f false) min)
def execVmin (p : Pfx) (d a : BitVec 4) (s : State) : Result := vexec (.vmin p d a) (formVmin p d a) s
def formVmax (p : Pfx) (d a : BitVec 4) : VForm :=
  velem2 p d a (pVty p) (arith2 p (fun f _ => fminmax f true) max)
def execVmax (p : Pfx) (d a : BitVec 4) (s : State) : Result := vexec (.vmax p d a) (formVmax p d a) s
def formVabs (p : Pfx) (d a : BitVec 4) : VForm :=
  velem1 p d a (pVty p) (fun _ => arith1 p fabs (fun i => (i.natAbs : Int)))
def execVabs (p : Pfx) (d a : BitVec 4) (s : State) : Result := vexec (.vabs p d a) (formVabs p d a) s
def formVneg (p : Pfx) (d a : BitVec 4) : VForm :=
  velem1 p d a (pVty p) (fun _ => arith1 p fneg (fun i => -i))
def execVneg (p : Pfx) (d a : BitVec 4) (s : State) : Result := vexec (.vneg p d a) (formVneg p d a) s

/-! ### VLOGIC (R210) -/

def whole32 : VTy := ⟨1, 32, .n32⟩
def formVand (p : Pfx) (d a : BitVec 4) : VForm :=
  velem2 p d a whole32 (fun _ x y => (x &&& y, 0#5))
def execVand (p : Pfx) (d a : BitVec 4) (s : State) : Result := vexec (.vand p d a) (formVand p d a) s
def formVor (p : Pfx) (d a : BitVec 4) : VForm :=
  velem2 p d a whole32 (fun _ x y => (x ||| y, 0#5))
def execVor (p : Pfx) (d a : BitVec 4) (s : State) : Result := vexec (.vor p d a) (formVor p d a) s
def formVxor (p : Pfx) (d a : BitVec 4) : VForm :=
  velem2 p d a whole32 (fun _ x y => (x ^^^ y, 0#5))
def execVxor (p : Pfx) (d a : BitVec 4) (s : State) : Result := vexec (.vxor p d a) (formVxor p d a) s
def formVnot (p : Pfx) (d a : BitVec 4) : VForm :=
  velem1 p d a whole32 (fun _ x => (2 ^ 32 - 1 - x, 0#5))
def execVnot (p : Pfx) (d a : BitVec 4) (s : State) : Result := vexec (.vnot p d a) (formVnot p d a) s
def formVshl (p : Pfx) (d a : BitVec 4) : VForm :=
  velem2 p d a (pVty p) (fun _ x y => (x * 2 ^ (y % (pVty p).w) % 2 ^ (pVty p).w, 0#5))
def execVshl (p : Pfx) (d a : BitVec 4) (s : State) : Result := vexec (.vshl p d a) (formVshl p d a) s
def formVshr (p : Pfx) (d a : BitVec 4) : VForm :=
  velem2 p d a (pVty p) (fun _ x y => (x / 2 ^ (y % (pVty p).w), 0#5))
def execVshr (p : Pfx) (d a : BitVec 4) (s : State) : Result := vexec (.vshr p d a) (formVshr p d a) s
def formVsra (p : Pfx) (d a : BitVec 4) : VForm :=
  velem2 p d a (pVty p) (fun _ x y =>
    (((BitVec.ofNat (pVty p).w x).sshiftRight (y % (pVty p).w)).toNat, 0#5))
def execVsra (p : Pfx) (d a : BitVec 4) (s : State) : Result := vexec (.vsra p d a) (formVsra p d a) s

/-- VSEL: y where the selector's bit is 1, else x; its guard is the AND of the entries below the selector. Its d counts among its sources
(R205). -/
def formVsel (p : Pfx) (d a : BitVec 4) : VForm where
  whole := false
  srcs := [vx p d a, vy p a, p.dn d]
  dst := p.dn d
  f := fun rd s =>
    match s.ctx.entryAt (gDepth p) (gNeg p) with
    | none => ⟨zeroLanes, 0#32, 0#5⟩
    | some (e, g) => ⟨mergeLanes (rd (vx p d a)) (rd (vy p a)) e.mask, g.mask &&& BitVec.ofNat 32 (2 ^ (min s.ctx.vcnt.toNat 32) - 1), 0#5⟩
def execVsel (p : Pfx) (d a : BitVec 4) (s : State) : Result :=
  let F := formVsel p d a
  issue (.vsel p d a) (queued (.vsel p d a) F.srcs F.vdst { gm := .select, body := vwrite (.vsel p d a) F }) s

/-! ### VCMP (R211) -/

/-- The condition of a VCMP on two elements. -/
def vcond (T : VTy) (c : Nat) (x y : Nat) : Bool × FFlags :=
  match T.ty.flt with
  | some f => fcompare f (match c with | 0 => .eq | 1 => .ne | 2 => .lt | 3 => .ge | 4 => .un | _ => .ord) x y
  | none =>
    let i := elInt T x
    let j := elInt T y
    (match c with | 0 => i == j | 1 => i != j | 2 => decide (i < j) | 3 => decide (j ≤ i) | 4 => false | _ => true, 0#5)

/-- The condition on every sub-element of a lane. -/
def vcondLane (T : VTy) (c : Nat) (x y : BitVec 32) : Bool × FFlags :=
  (List.range T.n).foldl (fun a j => let r := vcond T c (subEl T x j) (subEl T y j); (a.1 && r.1, a.2 ||| r.2)) (true, 0#5)

/-- VCMP pushes S = 1 and the mask of the active lanes for which the condition holds. Its context waits for the entry: every later
instruction's guard reads it (04 R89). -/
def execVcmp (p : Pfx) (d a : BitVec 4) (c : BitVec 4) (s : State) : Result :=
  issue (.vcmp p d a c) (queued (.vcmp p d a c) [vx p d a, vy p a] none <| pushing 1 (fun _ => 0) fun s =>
    vqueue (.vcmp p d a c) false false [vx p d a, vy p a] none (fun rd s =>
      let T := pVty p
      let act := activeMask p s
      let r (i : Nat) : Bool × FFlags := vcondLane T c.toNat (lane (rd (vx p d a)) i) (lane (rd (vy p a)) i)
      let mask := BitVec.ofNat 32 ((List.range 32).foldl (fun n i => if act.getLsbD i && (r i).1 then n + 2 ^ i else n) 0)
      let fl := (List.range 32).foldl (fun f i => if act.getLsbD i then f ||| (r i).2 else f) 0#5
      if s.spillBusy then .error .hold
      else match s.push ⟨true, mask⟩ with
      | some t => .ok (t, fl)
      | none => .error (.trap (mkErr 9 s.ctx.pc 0#64))) s) s

/-! ### VMEM (R212) -/

/-- Lane numbers of a mask, rising. -/
def lanesOf (m : BitVec 32) : List Nat := (List.range 32).filter fun i => m.getLsbD i

/-- Traffic of a VMEM: 4 bytes a guarded lane in charged memory (05 Table 05-2). -/
def vmemTraffic (p : Pfx) (addr : State → Nat → Word) (s : State) : Nat :=
  units ((lanesOf (activeMask p s)).foldl (fun b i => b + chargedBytes s.tid (addr s i).toNat 4) 0)

/-- Alignment, translation and rights of every lane, in rising order, before any lane is read (R212). -/
def checkLanes (s : State) (addr : Nat → Word) : List Nat → Except Res Unit
  | [] => .ok ()
  | i :: is =>
    match s.readPiece (addr i) 4 with
    | .error (.trap e) => if e.cause = 0x15 then checkLanes s addr is else .error (.trap e)
    | .error (.miss va k) => .error (.miss va k)
    | _ => checkLanes s addr is

/-- Read the lanes in rising order; the first that cannot be read gives the trap. -/
def readLanes (s : State) (addr : Nat → Word) : List Nat → Except Res (List (Nat × BitVec 32))
  | [] => .ok []
  | i :: is =>
    match s.readPiece (addr i) 4 with
    | .error r => .error r
    | .ok bs =>
      match readLanes s addr is with
      | .error r => .error r
      | .ok xs => .ok ((i, BitVec.ofNat 32 (leNat bs)) :: xs)

/-- What the lanes store, in rising lane order; every lane is checked before any is issued. -/
def storeLanes (s : State) (addr : Nat → Word) (v : Lanes) : List Nat → Except Res (List (List WByte × Nat × FFlags))
  | [] => .ok []
  | i :: is =>
    match s.storePiece (addr i) (leBytes 4 (lane v i).toNat) with
    | .error r => .error r
    | .ok x =>
      match storeLanes s addr v is with
      | .error r => .error r
      | .ok xs => .ok (x :: xs)

/-- A source register as the charge sees it: the unit that will be popped, or the lanes. -/
def vpeek (s : State) (n : Nat) : Lanes :=
  match s.binding n with
  | some st => if st.wr then s.rv n else match st.peek with | .unit x => x | _ => s.rv n
  | none => s.rv n
/-- The units of the registers on which the charge depends have been fetched. -/
def peekable (srcs : List Nat) (s : State) : Bool :=
  srcs.all fun n => match s.binding n with
    | some st => st.wr || (match st.peek with | .wait => false | _ => true)
    | none => true
/-- The shape of a VMEM whose lane addresses depend on the registers `srcs`, and which reads `dst` too or writes it. Where they are
still to be written, or wait for a stream unit, it waits in the queue before it is charged (R205; 05 R114). -/
def vmem (i : Instr) (p : Pfx) (srcs : List Nat) (dst : Nat) (writes : Bool) (addr : (Nat → Lanes) → State → Nat → Word)
    (body : State → Res) : Shape :=
  let rd := if writes then srcs else dst :: srcs
  let wr := if writes then some dst else none
  { queued i rd wr (memory 2 (vmemTraffic p (fun s => addr (vpeek s) s)) body) with
    early := fun s => if !srcs.isEmpty && (s.vbusy || !peekable srcs s) then some (s.claimOf rd wr) else none
    queues := !srcs.isEmpty }

/-- Loads (R212). The offsets register of VGATH and VSCAT joins the sources; `addr rd s i` is the address of lane `i`. -/
def vload (i : Instr) (p : Pfx) (d : BitVec 4) (srcs : List Nat) (addr : (Nat → Lanes) → State → Nat → Word) (s : State) :
    Result :=
  issue i (vmem i p srcs (p.dn d) true addr fun s => Res.names (s.claimOf srcs (some (p.dn d))) <|
    if s.ctx.accessHeld then .hold
    else withRelease p s fun s =>
      vqueue i true true srcs (some (p.dn d)) (fun rd s =>
        let lanes := lanesOf (activeMask p s)
        match checkLanes s (addr rd s) lanes with
        | .error r => .error r
        | .ok _ =>
        match readLanes s (addr rd s) lanes with
        | .error r => .error r
        | .ok xs =>
          let s := s.touchAll (lanes.map (addr rd s)) 4
          match putLanes (p.dn d) ⟨mkLanes fun i => ((xs.find? (·.1 == i)).map (·.2)).getD 0#32, activeMask p s, 0#5⟩ s with
          | .error r => .error r
          | .ok (t, fl) => .ok (withAcquire p t, fl)) s) s

/-- Stores (R212); an acquire part is performed when they have been (log entry 11). -/
def vstore (i : Instr) (p : Pfx) (d : BitVec 4) (srcs : List Nat) (addr : (Nat → Lanes) → State → Nat → Word) (s : State) :
    Result :=
  issue i (vmem i p srcs (p.dn d) false addr fun s => Res.names (s.claimOf (p.dn d :: srcs) none) <|
    if s.ctx.accessHeld then .hold
    else withRelease p s fun s =>
      vqueue i true true (p.dn d :: srcs) none (fun rd s =>
        let lanes := lanesOf (activeMask p s)
        match storeLanes s (addr rd s) (rd (p.dn d)) lanes with
        | .error r => .error r
        | .ok xs =>
          let s1 := s.touchPuts (lanes.map (addr rd s)) 4
          let fl := xs.foldl (fun f x => f ||| x.2.2) 0#5
          if pAcq p then
            if s.ctx.pend.isEmpty && !s.pendMeets (xs.flatMap (·.1)) then
              .ok (withAcquire p (xs.foldl (fun s x => s.write s.tid x.1) s1), fl)
            else .error .hold
          else .ok (xs.foldl (fun s x => s.addPend (.store x.1 x.2.1 .vmem)) s1, fl)) s) s

/-- Lane addresses (R212). -/
def addrUnit (p : Pfx) (a : BitVec 4) (_ : Nat → Lanes) (s : State) (i : Nat) : Word := addrX p a s + BitVec.ofNat 64 (4 * i)
def addrStride (p : Pfx) (a : BitVec 4) (_ : Nat → Lanes) (s : State) (i : Nat) : Word :=
  addrX p a s + BitVec.ofNat 64 i * opE p s
def addrIndex (p : Pfx) (a : BitVec 4) (rd : Nat → Lanes) (s : State) (i : Nat) : Word :=
  addrX p a s + (lane (rd p.en) i).setWidth 64

def execVld (p : Pfx) (d a : BitVec 4) (s : State) : Result := vload (.vld p d a) p d [] (addrUnit p a) s
def execVst (p : Pfx) (d a : BitVec 4) (s : State) : Result := vstore (.vst p d a) p d [] (addrUnit p a) s
def execVlds (p : Pfx) (d a : BitVec 4) (s : State) : Result := vload (.vlds p d a) p d [] (addrStride p a) s
def execVsts (p : Pfx) (d a : BitVec 4) (s : State) : Result := vstore (.vsts p d a) p d [] (addrStride p a) s
def execVgath (p : Pfx) (d a : BitVec 4) (s : State) : Result := vload (.vgath p d a) p d [p.en] (addrIndex p a) s
def execVscat (p : Pfx) (d a : BitVec 4) (s : State) : Result := vstore (.vscat p d a) p d [p.en] (addrIndex p a) s

/-! ### VLANE (R213, R214) -/

/-- The lane number of VEXT and VINS. -/
def laneNo (p : Pfx) : Nat := (p.immW.extractLsb' 0 5).toNat

def formVbcast (p : Pfx) (d a : BitVec 4) : VForm :=
  ⟨false, [], p.dn d, false, fun _ s => ⟨mkLanes fun _ => (opA p a s).extractLsb' 0 32, activeMask p s, 0#5⟩⟩
def execVbcast (p : Pfx) (d a : BitVec 4) (s : State) : Result := vexec (.vbcast p d a) (formVbcast p d a) s
/-- VEXT: lane Imm() of v[a] goes to s[d]. -/
def formVext (p : Pfx) (d a : BitVec 4) : VForm :=
  ⟨true, [p.an a], p.dn d, true, fun rd _ => ⟨mkLanes fun _ => lane (rd (p.an a)) (laneNo p), 0#32, 0#5⟩⟩
def execVext (p : Pfx) (d a : BitVec 4) (s : State) : Result := vexec (.vext p d a) (formVext p d a) s
def formVins (p : Pfx) (d a : BitVec 4) : VForm :=
  ⟨false, [p.dn d], p.dn d, false, fun _ s =>
    ⟨mkLanes fun _ => (opA p a s).extractLsb' 0 32, activeMask p s &&& BitVec.ofNat 32 (2 ^ laneNo p), 0#5⟩⟩
def execVins (p : Pfx) (d a : BitVec 4) (s : State) : Result := vexec (.vins p d a) (formVins p d a) s
def formVperm (p : Pfx) (d a : BitVec 4) : VForm :=
  ⟨true, [p.an a, p.en], p.dn d, false, fun rd s =>
    ⟨mkLanes fun i => lane (rd (p.an a)) ((lane (rd p.en) i).toNat % 32), activeMask p s, 0#5⟩⟩
def execVperm (p : Pfx) (d a : BitVec 4) (s : State) : Result := vexec (.vperm p d a) (formVperm p d a) s
/-- VIOTA: sub-element x is x, converted in the resolved mode. -/
def formViota (p : Pfx) (d _a : BitVec 4) : VForm :=
  ⟨false, [], p.dn d, false, fun _ s =>
    let T := pVty p
    let el (x : Nat) : Nat × FFlags := convertVal .i64 T.ty (roundMode p s) false none (.fin false x 0)
    let act := activeMask p s
    ⟨mkLanes fun i => packEls T ((List.range T.n).map fun j => (el (T.n * i + j)).1), act,
      (List.range (32 * T.n)).foldl (fun f x => if act.getLsbD (x / T.n) then f ||| (el x).2 else f) 0#5⟩⟩
def execViota (p : Pfx) (d a : BitVec 4) (s : State) : Result := vexec (.viota p d a) (formViota p d a) s

/-- One level of the tree: pairs combined, a single one passed on, absent where neither is present. -/
def treeLevel {α : Type} (op : α → α → α × FFlags) : List (Option α) → List (Option α) × FFlags
  | x :: y :: l =>
    let (rest, f) := treeLevel op l
    match x, y with
    | some a, some b => let r := op a b; (some r.1 :: rest, r.2 ||| f)
    | some a, none => (some a :: rest, f)
    | none, b => (b :: rest, f)
  | l => (l, 0#5)
/-- The tree over 2^k elements. -/
def tree {α : Type} (op : α → α → α × FFlags) : Nat → List (Option α) → Option α × FFlags
  | 0, l => (l.headD none, 0#5)
  | k + 1, l =>
    let (l2, f) := treeLevel op l
    let (r, g) := tree op k l2
    (r, f ||| g)
/-- log2 of 32, 64 or 128. -/
def treeDepth (T : VTy) : Nat := match T.n with | 1 => 5 | 2 => 6 | _ => 7

/-- A floating reduction into f32 and an integer one into 32 bits (R214): result and flags. The widening is Convert, so a signalling NaN
sets NV and is delivered as the canonical NaN also when it is the only active element, of f32 too, which no Op sees: R214 says only
"widened exactly" (DESIGN CHOICE, log entry 37). -/
def reduceFlt (T : VTy) (act : BitVec 32) (v : Lanes) (op : Nat → Nat → Nat × FFlags) (ident : Nat) : Nat × FFlags :=
  let els := (List.range (32 * T.n)).map fun e =>
    if act.getLsbD (e / T.n) then some (convert T.ty .f32 .rne false (element T v e)) else none
  let (r, f) := tree op (treeDepth T) (els.map fun e => e.map (·.1))
  (r.getD ident, f ||| els.foldl (fun g e => match e with | some x => g ||| x.2 | none => g) 0#5)
def reduceInt (T : VTy) (act : BitVec 32) (v : Lanes) (op : Int → Int → Int) (ident : Int) : Nat :=
  let els := (List.range (32 * T.n)).map fun e => if act.getLsbD (e / T.n) then some (elInt T (element T v e)) else none
  wrapInt 32 (((tree (fun a b => (op a b, 0#5)) (treeDepth T) els).1).getD ident)

/-- The result type of an integer reduction: n32 for n32, else i32. -/
def redSigned (T : VTy) : Bool := T.ty != .n32
/-- An integer add of the tree: wrapped, or saturated under sat. -/
def redAdd (T : VTy) (sat : Bool) (a b : Int) : Int :=
  let sg := redSigned T
  if sat then max (intMin sg 32) (min (intMax sg 32) (a + b))
  else if sg then (BitVec.ofInt 32 (a + b)).toInt else ((BitVec.ofInt 32 (a + b)).toNat : Int)

/-- A reduction writes lane 0 whenever Guard() = 1. -/
def reduction (p : Pfx) (d a : BitVec 4) (ff : RM → Nat → Nat → Nat × FFlags) (fident : Nat) (fi : Int → Int → Int) (iident : Int) :
    VForm :=
  ⟨true, [p.an a], p.dn d, false, fun rd s =>
    let T := pVty p
    let r := match T.ty.flt with
      | some _ => reduceFlt T (activeMask p s) (rd (p.an a)) (ff (roundMode p s)) fident
      | none => (reduceInt T (activeMask p s) (rd (p.an a)) fi iident, 0#5)
    ⟨mkLanes fun _ => BitVec.ofNat 32 r.1, 1#32, r.2⟩⟩

def formVredadd (p : Pfx) (d a : BitVec 4) : VForm := reduction p d a (fadd fmtF32) 0 (redAdd (pVty p) (satOn p)) 0
def execVredadd (p : Pfx) (d a : BitVec 4) (s : State) : Result := vexec (.vredadd p d a) (formVredadd p d a) s
def formVredmin (p : Pfx) (d a : BitVec 4) : VForm :=
  reduction p d a (fun _ => fminmax fmtF32 false) 0x7F800000 min (intMax (redSigned (pVty p)) 32)
def execVredmin (p : Pfx) (d a : BitVec 4) (s : State) : Result := vexec (.vredmin p d a) (formVredmin p d a) s
def formVredmax (p : Pfx) (d a : BitVec 4) : VForm :=
  reduction p d a (fun _ => fminmax fmtF32 true) 0xFF800000 max (intMin (redSigned (pVty p)) 32)
def execVredmax (p : Pfx) (d a : BitVec 4) (s : State) : Result := vexec (.vredmax p d a) (formVredmax p d a) s

/-! ### VCVT (R215) -/

/-- Replace element `e` of a register. -/
def setElement (T : VTy) (v : Lanes) (e x : Nat) : Lanes :=
  let i := e / T.n
  vset v i (packEls T ((List.range T.n).map fun j => if j = e % T.n then x else subEl T (lane v i) j))

/-- The parts of a VCVT from one element type to another. -/
def vcvtParts (S D : VTy) : Nat := if D.n ≤ S.n then S.n / D.n else D.n / S.n
/-- The illegal-instruction traps of VCVT: a part that its types do not have, which its pseudocode names as its own step (log entry
35), and misuse. -/
def vcvtOwn (i : Instr) (p : Pfx) (d a : BitVec 4) (g : BitVec 3) (s : State) : Option Err :=
  if vcvtParts (pVty p) (vtyOf g.toNat) ≤ p.immW.toNat % 4 then some (mkErr 1 s.ctx.pc i.tinfo)
  else misuseErr i [p.an a] (some (p.dn d)) s

def formVcvt (p : Pfx) (d a : BitVec 4) (g : BitVec 3) : VForm :=
  let S := pVty p
  let D := vtyOf g.toNat
  let N := 32 * min S.n D.n
  let part := p.immW.toNat % 4
  let src0 := if D.n ≤ S.n then N * part else 0
  let dst0 := if D.n ≤ S.n then 0 else N * part
  ⟨S.n != D.n, [p.an a], p.dn d, false, fun rd s =>
    let act := activeMask p s
    let v := rd (p.an a)
    let cv (t : Nat) : Nat × FFlags := convert S.ty D.ty (roundMode p s) (satOn p) (element S v (src0 + t))
    let ts := (List.range N).filter fun t => act.getLsbD ((dst0 + t) / D.n)
    let old := s.rv (p.dn d)
    ⟨ts.foldl (fun w t => setElement D w (dst0 + t) (cv t).1) old,
      BitVec.ofNat 32 (ts.foldl (fun m t => m ||| 2 ^ ((dst0 + t) / D.n)) 0),
      ts.foldl (fun f t => f ||| (cv t).2) 0#5⟩⟩
def execVcvt (p : Pfx) (d a : BitVec 4) (g : BitVec 3) (s : State) : Result :=
  issue (.vcvt p d a g)
    { ready := State.vroom, own := vcvtOwn (.vcvt p d a g) p d a g, body := vwrite (.vcvt p d a g) (formVcvt p d a g) } s

/-- The meanings on vector registers alone. -/
def vform : Instr → Option VForm
  | .vadd p d a => some (formVadd p d a)
  | .vsub p d a => some (formVsub p d a)
  | .vmul p d a => some (formVmul p d a)
  | .vfma p d a => some (formVfma p d a)
  | .vmin p d a => some (formVmin p d a)
  | .vmax p d a => some (formVmax p d a)
  | .vabs p d a => some (formVabs p d a)
  | .vneg p d a => some (formVneg p d a)
  | .vand p d a => some (formVand p d a)
  | .vor p d a => some (formVor p d a)
  | .vxor p d a => some (formVxor p d a)
  | .vnot p d a => some (formVnot p d a)
  | .vshl p d a => some (formVshl p d a)
  | .vshr p d a => some (formVshr p d a)
  | .vsra p d a => some (formVsra p d a)
  | .vsel p d a => some (formVsel p d a)
  | .vbcast p d a => some (formVbcast p d a)
  | .vext p d a => some (formVext p d a)
  | .vins p d a => some (formVins p d a)
  | .vperm p d a => some (formVperm p d a)
  | .viota p d a => some (formViota p d a)
  | .vredadd p d a => some (formVredadd p d a)
  | .vredmin p d a => some (formVredmin p d a)
  | .vredmax p d a => some (formVredmax p d a)
  | .vcvt p d a g => some (formVcvt p d a g)
  | _ => none

/-! ### VSTRM (R204, R216) -/

/-- The 48 bytes of a stream descriptor. -/
def readDesc48 (s : State) (va : Word) : Nat → Except Res (List Byte)
  | 0 => .ok []
  | k + 1 =>
    match readDesc48 s va k with
    | .error r => .error r
    | .ok bs =>
      match s.readPiece (va + BitVec.ofNat 64 (8 * k)) 8 with
      | .error r => .error r
      | .ok x => .ok (bs ++ x)

/-- The stream of a descriptor, or the reason of R204. A coordinate-mode stream keeps the tensor descriptor as it stands at VBIND, also
when a SYSC replaces or removes it: 06 R144 speaks of region instructions and engine commands alone (DESIGN CHOICE, log entry 36). -/
def streamOf (s : State) (bs : List Byte) : Except Nat Stream :=
  let w8 (o : Nat) : Word := BitVec.ofNat 64 (natAt bs o 8)
  let c (k : Nat) : BitVec 32 := BitVec.ofNat 32 (natAt bs (8 + 4 * k) 4)
  let ty := byteAt bs 0x14
  let ctl := byteAt bs 0x15
  let dsc := natAt bs 0x16 2
  let coord := decide (0x8000 ≤ dsc)
  let D := s.descOf s.asid (dsc % 4096)
  let st : Stream := ⟨s.tick, ctl % 2 == 1, coord, w8 0, #v[c 0, c 1, c 2], BitVec.ofNat 4 ty, if coord then D else Desc.none,
    #v[w8 0x18, w8 0x20, w8 0x28], s.sel.slot, s.asid, s.ctx.user, 0, [], [], false, none, none⟩
  if c 0 = 0#32 ∨ c 1 = 0#32 ∨ c 2 = 0#32 then .error 1
  else if (coord && D.installed && D.ty == 6#4) || (!coord && (ty % 16 == 6 || ty % 16 == 15)) then .error 2
  else if 16 ≤ ty ∨ 2 ≤ ctl ∨ dsc / 4096 % 8 ≠ 0 then .error 3
  else if coord && (!D.installed || (List.range 3).any fun l => decide (D.n ≤ l) && decide (1 < (vget st.cnt l 0#32).toNat)) then .error 4
  else if !coord && (st.base.toNat % st.esize != 0 || (List.range 3).any fun l => (vget st.stride l 0#64).toNat % st.esize != 0) then .error 5
  else .ok st

/-- The traffic of a VBIND: the whole stream, when its descriptor can be read and is valid. -/
def bindTraffic (p : Pfx) (a : BitVec 4) (s : State) : Nat :=
  match readDesc48 s (opA p a s) 6 with
  | .error _ => 0
  | .ok bs => match streamOf s bs with | .error _ => 0 | .ok st => units (st.charge s.tid)

/-- The context has no access pending, nor a pushed unit that is not yet performed. -/
def State.accessesDone (s : State) : Bool := s.ctx.pend.isEmpty && !s.myCell.pushes s.sel.slot

/-- What the acting context's waiting entry claims. -/
def State.ownClaim (s : State) : VClaim := ((s.myCell.vq.find? s.ownEnt).map (·.claim)).getD VClaim.none

/-- The binding is made, once the entries before it that name the register have taken their effect. -/
def bindTo (n : Nat) (st : Stream) (f : State → State) (s : State) : Res :=
  if s.vheld [] [n] then .streamWait ⟨[], [n], some (n, some st.wr), some st⟩ f
  else
    let s := f s
    .ok ((s.setMyCell (s.myCell.setStream (n - 28) (some st))).enqueueV false 0#5)

/-- VBIND (R204): its charge needs the descriptor, so it waits for the context's stores before it is issued. The descriptor is read at
issue; the binding takes its place behind the instructions of the queue that name its register. One already bound, as earlier
instructions leave it, is misuse (R205). -/
def execVbind (p : Pfx) (d a : BitVec 4) (s : State) : Result :=
  issue (.vbind p d a) { memory 2 (bindTraffic p a) (fun s =>
      match s.ownClaim.st with
      | some st => bindTo (p.dn d) st id s
      | none =>
        match readDesc48 s (opA p a s) 6 with
        | .error (.miss va k) => .missFirst va k
        | .error r => r
        | .ok bs =>
          match streamOf s bs with
          | .error r => .trap (mkErr 0x13 s.ctx.pc (BitVec.ofNat 64 r))
          | .ok st => bindTo (p.dn d) st (fun s => s.touchAll (pieces (opA p a s) 8 6) 8) s) with
    ready := fun s => s.vroom && s.accessesDone
    own := fun s => if (s.dirAt (p.dn d)).isSome then some (mkErr 1 s.ctx.pc (Instr.vbind p d a).tinfo) else none } s

/-- VUNBIND waits in the queue until every unit already pushed has been performed; later instructions find the register unbound. -/
def execVunbind (p : Pfx) (d a : BitVec 4) (s : State) : Result :=
  issue (.vunbind p d a) { plain 2 (fun s =>
      let n := p.dn d
      if (s.dirAt n).isNone then .ok (s.enqueueV false 0#5)
      else if s.vheld [] [n] || (match s.binding n with | some st => !st.pushed.isEmpty | none => false) then
        .streamWait ⟨[], [n], some (n, none), none⟩ id
      else .ok ((s.setMyCell (s.myCell.setStream (n - 28) none)).enqueueV true 0#5)) with
    ready := State.vroom } s

/-- The status word of a binding (08 Table 08-4). -/
def Stream.status (st : Stream) : Word :=
  let left := min (st.unitsLen - st.done) (2 ^ 32 - 1)
  let buf := if st.wr then st.pushed.length else st.ready.length
  BitVec.ofNat 64 (left * 2 ^ 32 + buf * 16 + (if st.err.isSome then 8 else 0) + (if st.eos then 4 else 0)
    + (if st.wr then 2 else 0) + 1)

def execVstat (p : Pfx) (d a : BitVec 4) (s : State) : Result :=
  issue (.vstat p d a) (queued (.vstat p d a) [] none <| plain 2 fun s =>
    let n := p.an a
    if (s.dirAt n).isNone then .ok ((s.ws (p.dn d) 0#64).enqueueV false 0#5)
    else if s.vheld [n] [n] then .streamWait ⟨[n], [], none, none⟩ id
    else .ok ((s.ws (p.dn d) (match s.binding n with | some st => st.status | none => 0#64)).enqueueV (s.binding n).isSome 0#5)) s

/-! ### The arbiter and completion (R197, R199) -/

/-- The weight of position `k` (04 R84). -/
def weightOf (w : BitVec 16) (k : Nat) : Nat := (w.extractLsb' (4 * k) 4).toNat

/-- The place in the queue of the oldest entry whose slice `g` has not started. -/
def oldestAt (q : List VEnt) (g : Nat) : Option Nat := (q.findIdx? fun e => e.kind != .release && e.todo.getLsbD g)

/-- An entry that has not started waits for its stream unit and its operands (R197), and while its tile is stopped (14 R355). -/
def State.entryHeld (s : State) (c : Nat) (e : VEnt) : Bool :=
  e.isOpen || (e.todo == 15#4 && (s.ctxAt c e.slot.toNat).user && (s.tile (c / 16)).run != .running)

/-- The groups of `free` that the cell's queue takes in this cycle. -/
def takeGroups (held : VEnt → Bool) (q : List VEnt) (free : List Nat) : List Nat :=
  free.filter fun g =>
    match oldestAt q g with
    | none => false
    | some i =>
      match q[i]? with
      | some e => !held e && (!e.whole || (decide (free.length = 4) && (List.range 4).all fun h => oldestAt q h == some i))
      | none => false

/-- The cell has an eligible slice: the oldest one of a lane group that no wait holds back (R197). -/
def State.eligible (s : State) (c : Nat) : Bool :=
  let q := (s.cell c).vq
  (List.range 4).any fun g => match (oldestAt q g).bind (q[·]?) with | some e => !s.entryHeld c e | none => false

/-- Start those slices; entries all of whose slices have started leave the queue. -/
def startSlices (x : Cell) (gs : List Nat) : Cell :=
  let q := gs.foldl (fun (q : List VEnt) g =>
    match oldestAt q g with
    | some i => q.modify i fun e => { e with todo := e.todo &&& ~~~(1#4 <<< g) }
    | none => q) x.vq
  { x with vq := q.filter fun e => e.todo != 0#4, vrun := x.vrun ++ q.filter fun e => e.todo == 0#4 }

/-- The weighted cells of a quartet in rising pass value, ties to the lower position. -/
def insertPass (c : Nat × Nat) : List (Nat × Nat) → List (Nat × Nat)
  | [] => [c]
  | d :: l => if d.2 ≤ c.2 then d :: insertPass c l else c :: d :: l
def passOrder (l : List (Nat × Nat)) : List (Nat × Nat) := l.foldl (fun acc c => insertPass c acc) []

/-- A cell that gains an eligible slice first catches up (R197). -/
def catchUp (q : Nat) (w : BitVec 16) (s : State) : State :=
  let olds := (List.range 4).filter fun k =>
    decide (1 ≤ weightOf w k) && (s.cell (4 * q + k)).elig && s.eligible (4 * q + k)
  let least := olds.foldl (fun (m : Option Nat) k =>
    let v := (s.cell (4 * q + k)).pval
    match m with | none => some v | some u => some (min u v)) none
  (List.range 4).foldl (fun s k =>
    let x := s.cell (4 * q + k)
    let now := s.eligible (4 * q + k)
    let pv := if now && !x.elig then (match least with | some m => max x.pval m | none => x.pval) else x.pval
    if now != x.elig || pv != x.pval then s.setCell (4 * q + k) { x with elig := now, pval := pv } else s) s

/-- One grant to one cell. -/
def grantTo (q : Nat) (w : BitVec 16) (acc : List Nat × State) (k : Nat) : List Nat × State :=
  let x := acc.2.cell (4 * q + k)
  let gs := takeGroups (acc.2.entryHeld (4 * q + k)) x.vq acc.1
  let wk := weightOf w k
  let x2 := startSlices x gs
  (acc.1.filter fun g => !gs.contains g,
    if gs.isEmpty then acc.2
    else acc.2.setCell (4 * q + k) { x2 with pval := if wk = 0 then x.pval else x.pval + gs.length * (360360 / wk) })

/-- The result of the late entry at place `j` of cell `c`'s queue is formed, from the registers that its context had at issue. -/
def State.formAt (s : State) (c j : Nat) : State :=
  match (s.cell c).vq[j]? with
  | some e =>
    match e.kind with
    | .late i y =>
      match vform i with
      | some F =>
        let t : State := { s with sel := ⟨BitVec.ofNat 16 c, e.slot, 0⟩ }
        let r := F.f t.rv (t.setCtx y)
        let z := s.ctxAt c e.slot.toNat
        let s :=
          if !F.toS then s.setCell c { s.cell c with v := vset (s.cell c).v F.dst (mergeLanes (t.rv F.dst) r.new r.mask) }
          else if z.live && z.ident == e.ident then
            s.setCtxAt c e.slot.toNat { z with
              regs := vset z.regs F.dst ((lane r.new 0).setWidth 64)
              vdest := z.vdest.erase F.dst }
          else s
        s.setCell c { s.cell c with vq := (s.cell c).vq.modify j fun e => { e with kind := .ready, claim := VClaim.none, flags := r.flags } }
      | none => s
    | _ => s
  | none => s
/-- Every late entry of a cell whose operands are ready. -/
def State.formCell (s : State) (c : Nat) : State :=
  (List.range (s.cell c).vq.length).foldl (fun s j =>
    let q := (s.cell c).vq
    match q[j]? with
    | some e => if e.isOpen && !(q.take j).any (·.blocks e.claim.rd e.claim.wr) then s.formAt c j else s
    | none => s) s

/-- ARBITER_GRANT: one cycle of the arbiter of the selected cell's quartet, once the operands of its entries have been looked for. -/
def execArbiterGrant (s : State) : Result :=
  let q := s.cid / 4
  let w := (s.quart q).force
  let s := (List.range 4).foldl (fun s k => s.formCell (4 * q + k)) s
  let s := catchUp q w s
  let ws := (List.range 4).filter fun k => decide (1 ≤ weightOf w k)
  let order := (passOrder (ws.map fun k => (k, (s.cell (4 * q + k)).pval))).map (·.1)
  let zs := (List.range 4).filter fun k => weightOf w k == 0
  .next ((order ++ zs).foldl (grantTo q w) ([0, 1, 2, 3], s)).2

/-- ARBITER_WINDOW: a new 64-cycle window takes the weights that vshare now holds. -/
def execArbiterWindow (s : State) : Result :=
  let q := s.cid / 4
  let x := s.quart q
  .next (s.setQuart q { x with force := x.vshare })

/-- VECTOR_COMPLETE: the oldest started instruction of the cell completes and its flags join its context's fcsr. -/
def execVectorComplete (s : State) : Result :=
  let x := s.myCell
  match x.vrun with
  | [] => .next s
  | e :: rest =>
    let s := s.setMyCell { x with vrun := rest }
    let c := s.ctxAt s.cid e.slot.toNat
    if c.live && c.ident == e.ident then .next (s.setCtxAt s.cid e.slot.toNat (c.raise e.flags)) else .next s

/-- Binding `k` of a cell can be released (08 R207): no unit waits to be performed, and no instruction that stands in the queue before
the release still names its register. -/
def Cell.releasable (x : Cell) (k : Nat) (st : Stream) : Bool :=
  st.pushed.isEmpty &&
  (x.vq.takeWhile fun e => !e.releases k).all fun e => e.kind == .release || !e.blocks [28 + k] [28 + k]

/-- WaitContextQueues() is over: the context's vector-queue entries and matrix steps are complete, its pushed units performed, and its
bindings can be released (04 R95, 08 R207). -/
def State.queuesDone (s : State) : Bool :=
  let x := s.myCell
  (x.vq ++ x.vrun).all (fun e => e.slot != s.sel.slot || e.kind == .release) &&
  (match x.mrun with | some m => m.slot != s.sel.slot | none => true) &&
  (List.range 4).all fun k => match x.stream k with
    | some st => (st.slot != s.sel.slot || x.releasable k st) && st.pushed.all fun q => q.slot != s.sel.slot
    | none => true

/-- The context's bindings end with it (08 R207). -/
def endStreams (x : Cell) (n k : Nat) : Option Stream :=
  match x.stream k with
  | some st => if st.slot.toNat = n then none else some st
  | none => none
def State.dropStreams (s : State) (c n : Nat) : State :=
  s.setCell c { s.cell c with strm := mkVec none (endStreams (s.cell c) n) }

end Sys2Proof.Machine
end

