-- ==== Sys2Proof/Machine/Matrix.lean ====
section
/-! DEFINITION. Sys2Proof/Machine/Matrix.lean: the matrix unit, its accumulator banks, the operand latch and the string ring
(09 R218 to R239). -/

namespace Sys2Proof.Machine

/-! ### Shapes and views (Table 09-1, R221) -/

/-- The shape of a format: M, K, N, the element type, the accumulator's element type. -/
structure MShape where
  m   : Nat
  k   : Nat
  n   : Nat
  ty  : Ty
  acc : Ty
  deriving DecidableEq, Repr

def mshape (code : Nat) : MShape :=
  match code with
  | 0 => ⟨8, 4, 8, .f64, .f64⟩
  | 1 => ⟨16, 4, 16, .f32, .f32⟩
  | 2 => ⟨16, 16, 16, .bf16, .f32⟩
  | 3 => ⟨16, 16, 16, .f16, .f32⟩
  | 4 => ⟨16, 32, 16, .e4m3n, .f32⟩
  | 5 => ⟨16, 32, 16, .e5m2n, .f32⟩
  | _ => ⟨16, 32, 16, .i8, .i32⟩
def pShape (p : Pfx) : MShape := mshape p.fx53.toNat

/-- Element `idx` of a packed block whose elements have `w` bits. -/
def elAt (w x idx : Nat) : Nat := x / 2 ^ (w * idx) % 2 ^ w
/-- Elements packed from the lowest place on, and put in place of the low part of an accumulator. -/
def packNats (w : Nat) (xs : List Nat) : Nat := xs.foldr (fun x n => x % 2 ^ w + n * 2 ^ w) 0
def setLow (w : Nat) (xs : List Nat) (acc : BitVec 8192) : BitVec 8192 :=
  BitVec.ofNat 8192 (packNats w xs + acc.toNat / 2 ^ (w * xs.length) * 2 ^ (w * xs.length))

/-! ### The step (R178, R179, R222) -/

/-- A product of two codes: none for infinity times zero. -/
def mmaProduct (t : Ty) (x y : Nat) : Option Val :=
  let a := t.val x
  let b := t.val y
  if a.isNaN || b.isNaN then some (.nan false) else mulVals a b

/-- The signed integer that a finite value is in units of 2^e0. -/
def valScaled (e0 : Int) : Val → Int
  | .fin n m e => scaleTo e0 n m e
  | _ => 0
def valExp : Val → Int
  | .fin _ _ e => e
  | _ => 0

/-- StepRound of the sum of the terms: one rounding (R222, R178). -/
def stepRound (f : FFmt) (mode : RM) (terms : List (Option Val)) : Nat × FFlags :=
  let vs := terms.filterMap id
  if vs.length < terms.length || vs.any Val.isNaN then (f.canonNaN, fNV)
  else if vs.any Val.isInf then
    let infs := vs.filter Val.isInf
    if infs.any Val.neg && infs.any (fun v => !v.neg) then (f.canonNaN, fNV) else roundVal f mode (.inf (infs.any Val.neg))
  else
    let e0 := vs.foldl (fun e v => min e (valExp v)) 0
    let t := vs.foldl (fun a v => a + valScaled e0 v) 0
    if t = 0 then roundFin f mode (mode == .rdn || vs.all (fun v => v.isZero && v.neg)) 0 0
    else roundFin f mode (decide (t < 0)) t.natAbs e0

/-- The i8 step: the products are added one at a time in increasing k (R179). -/
def stepInt (sat : Bool) (x : Int) (prods : List Int) : Int :=
  prods.foldl (fun a q =>
    if sat then max (intMin true 32) (min (intMax true 32) (a + q)) else (BitVec.ofInt 32 (a + q)).toInt) x

/-- Element (i, j) of a step: its code and flags. -/
def stepElem (sh : MShape) (mode : RM) (sat : Bool) (A B : Nat) (acc : BitVec 8192) (i j : Nat) : Nat × FFlags :=
  let w := 4 * sh.ty.nibbles
  let aw := 4 * sh.acc.nibbles
  let x := elAt aw acc.toNat (sh.n * i + j)
  match sh.acc.flt with
  | none =>
    let q := (List.range sh.k).map fun k =>
      (BitVec.ofNat 8 (elAt w A (sh.k * i + k))).toInt * (BitVec.ofNat 8 (elAt w B (sh.n * k + j))).toInt
    (wrapInt 32 (stepInt sat (BitVec.ofNat 32 x).toInt q), 0#5)
  | some f =>
    stepRound f mode (some (f.decode x) ::
      (List.range sh.k).map fun k => mmaProduct sh.ty (elAt w A (sh.k * i + k)) (elAt w B (sh.n * k + j)))

/-- A step over `v` rows: the accumulator after it, and its flags. -/
def stepAcc (sh : MShape) (mode : RM) (sat : Bool) (v A B : Nat) (acc : BitVec 8192) : BitVec 8192 × FFlags :=
  let rs := (List.range (v * sh.n)).map fun q => stepElem sh mode sat A B acc (q / sh.n) (q % sh.n)
  (setLow (4 * sh.acc.nibbles) (rs.map (·.1)) acc, rs.foldl (fun f r => f ||| r.2) 0#5)

/-- The valid rows of a step of `m` rows (04 R86). -/
def validRows (s : State) (m : Nat) : Nat := min s.ctx.vcnt.toNat m

/-! ### Operands in the own scratchpad (R219, R220) -/

/-- The first byte of a range that lies in a poisoned line, as an offset. -/
def firstPoison (s : State) (pa n : Nat) : Option Nat := (List.range n).find? fun i => s.poison.contains ((pa + i) / 64)

/-- The check of an operand of `n` bytes: the alignment, then the range (no byte: no range). The operand is the bytes that the
instruction moves, those of its valid rows: whether R219 judges the rest of the block, and an operand of no byte, the spec
leaves open (DESIGN CHOICE, log entry 34). An operand outside the own tile's scratchpad, also one in a service tile's for a user, is
entered in the violation log with kind 2, and a user's in the own service tile's with kind 3: R219 states the 0x06 trap alone (DESIGN
CHOICE, log entry 37). -/
def matCheck (s : State) (va : Word) (n : Nat) : Except Err Place :=
  let bad (x : Nat) : Except Err Place := .error ⟨6, BitVec.ofNat 64 x, 0#64, some (2, 0, 0)⟩
  if va.toNat % 16 ≠ 0 then .error (mkErr 4 va 0#64)
  else if n = 0 then .ok .virt
  else match place va.toNat with
    | .scratch u off =>
      if u ≠ s.tid then bad va.toNat
      else if s.ctx.user ∧ computeTiles ≤ u then .error ⟨6, va, 0#64, some (3, 0, 0)⟩
      else if scratchSize < off + n then bad (va.toNat + (scratchSize - off))
      else .ok (.scratch u off)
    | .window 0 off =>
      if scratchSize ≤ off then bad va.toNat
      else if scratchSize < off + n then bad (va.toNat + (scratchSize - off))
      else .ok (.scratch s.tid off)
    | .window w off =>
      match winCheck s s.tid w off n va with
      | .error e => .error e
      | .ok _ => .ok (.window w off)
    | _ => bad va.toNat

/-- Read an operand whole, as a little-endian number. -/
def matRead (s : State) (va : Word) (n : Nat) : Except Res Nat :=
  match matCheck s va n with
  | .error e => .error (.trap e)
  | .ok (.window w off) =>
    if n = 0 then .ok 0
    else match winRead s s.tid s.ctx.user s.pendTouches w off n va with
      | .ok bs => .ok (leNat bs)
      | .wait => .error .hold
      | .err e => .error (.trap e)
  | .ok (.scratch t off) =>
    let pa := scratchKey t off
    match firstPoison s pa n with
    | some i => .error (.trap (mkErr 0x15 (va + BitVec.ofNat 64 i) 0#64))
    | none => if s.pendTouches pa n then .error .hold else .ok (rdN s.mem pa n)
  | .ok _ => .ok 0
/-- The read meets the correctable errors of its lines: each is retried once (R220). -/
def State.matTouch (s : State) (va : Word) (n : Nat) : State :=
  match matCheck s va n with
  | .ok (.scratch t off) => s.meetLines s.tid (scratchKey t off) n
  | .ok (.window w off) => s.touchWin w off n va
  | _ => s

/-- A matrix instruction that accesses memory: it waits for VMEM stores and acquires, and for its release. -/
def matMem (p : Pfx) (s : State) (k : State → Res) : Res :=
  if s.ctx.accessHeld then .hold else withRelease p s k

/-! ### Banks (R228 to R230) -/

/-- The context's bank of a cell: one whose owner is the identity. A context without identity finds a free bank (log 12). -/
def Cell.ownBank (x : Cell) (me : Word) : Option Bool :=
  if x.bank0.owner = me then some false else if x.bank1.owner = me then some true else none

/-- The cells of the acting tile but the acting cell. -/
def State.otherCells (s : State) : List Nat := ((List.range 16).map (s.tid * 16 + ·)).filter (· != s.cid)

/-- Another cell of the tile holds the identity's bank. -/
def State.bankElsewhere (s : State) (me : Word) : Option (Nat × Bool) :=
  if me = 0#64 then none
  else (s.otherCells.filterMap fun c => ((s.cell c).ownBank me).map fun b => (c, b)).head?

/-- The accumulator save area of an identity (R229, 14 R349). -/
def saveArea (x : Tile) (me : Word) : Word :=
  x.saveBase + 4608#64 * BitVec.ofNat 64 ((me - x.poolBase).toNat / 256) + 512#64

/-- The memory keys of 64 blocks of 64 bytes from `va` on, through `look`; the failing access otherwise. -/
def blockKeys (look : Word → Acc) (va : Word) : Nat → Except Err (List Nat)
  | 0 => .ok []
  | n + 1 =>
    match look va with
    | .mem pa _ _ =>
      match blockKeys look (va + 64#64) n with
      | .ok ks => .ok (pa :: ks)
      | .error a => .error a
    | .err e => .error e
    | _ => .error (mkErr 5 va 0#64)

/-- The keys of an identity's save area, with kernel rights. -/
def State.saveKeys (s : State) (me : Word) (need : Need) : Except Err (List Nat) :=
  blockKeys (fun va => s.walkAccess s.tid s.asid false need va.toNat 64) (saveArea s.myTile me) 64

/-- The 4,096 bytes of a bank, and a bank's accumulators from them. -/
def Bank.bytes (k : Bank) : List Byte := k.acc.toList.flatMap fun a => leBytes 1024 a.toNat
def accsOf (x : Nat) : Vector (BitVec 8192) 4 :=
  #v[BitVec.ofNat 8192 x, BitVec.ofNat 8192 (x / 2 ^ 8192), BitVec.ofNat 8192 (x / 2 ^ 16384), BitVec.ofNat 8192 (x / 2 ^ 24576)]

/-- Write a bank's bytes at the keys of 64 blocks, and read them. -/
def blocksOut : List Nat → List Byte → List WByte
  | [], _ => []
  | k :: ks, bs => wbytes k (bs.take 64) ++ blocksOut ks (bs.drop 64)
def blocksIn (m : Memory) (ks : List Nat) : List Byte := ks.flatMap fun k => rdBytes m k 64

/-- The bank of an identity of address space `a` is in its save area, or not (R229). -/
def State.isSpilt (s : State) (a : BitVec 12) (me : Word) : Bool := s.spilt.contains (a, me)
def State.setSpilt (s : State) (a : BitVec 12) (me : Word) (on : Bool) : State :=
  { s with spilt := if on then (a, me) :: s.spilt.filter (· != (a, me)) else s.spilt.filter (· != (a, me)) }

/-- The lines that a bank's accumulators with an uncorrectable error are written to: sixteen for each. -/
def Bank.badLines (k : Bank) (keys : List Nat) : List Nat :=
  ((List.range keys.length).filter fun i => k.bad.getLsbD (i / 16)).map fun i => (keys[i]?).getD 0 / 64
/-- The bytes of a bank are stored; what an accumulator in error holds stays marked in its lines (10 R244; log entry 34). -/
def State.storeBank (s : State) (k : Bank) (ws : List WByte) (keys : List Nat) : State :=
  let s := s.write s.tid ws
  { s with poison := k.badLines keys ++ s.poison }

/-- Spill bank `b` of cell `c` to its owner's area: the area is written, the bank is free and clear, the owner marked. -/
def State.spill (s : State) (c : Nat) (b : Bool) (keys : List Nat) : State :=
  let k := (s.cell c).bank b
  let s := (s.storeBank k (blocksOut keys k.bytes) keys).setSpilt s.asid k.owner true
  s.setCell c ((s.cell c).setBank b Bank.free)

/-- Claim a bank for the identity: cleared, or refilled from its area. -/
def State.refill (s : State) (b : Bool) (me : Word) (keys : Option (List Nat)) : State :=
  let acc := match keys with
    | some ks => accsOf (leNat (blocksIn s.mem ks))
    | none => Bank.free.acc
  let s := s.setSpilt s.asid me false
  s.setMyCell { (s.myCell.setBank b ⟨me, acc, 0#4⟩) with lru := !b }

/-- The trap of a save area that cannot be accessed (R229); an address that is not mapped is entered in the violation log (01 R21). -/
def saveErr (e : Err) : Err := ⟨0x0E, e.addr, 0#64, e.log⟩
/-- The walks for a save area meet the correctable errors of their lines (10 R244). -/
def State.meetArea (s : State) (me : Word) : State := s.meetPath s.tid s.asid (saveArea s.myTile me).toNat

/-- The bank that the context uses, and the state after claim, spill and refill (R228, R229). -/
def State.claimBank (s : State) : Except Err (Bool × State) :=
  let me := s.ctx.ident
  let x := s.myCell
  match x.ownBank me with
  | some b => .ok (b, s.setMyCell { x with lru := !b })
  | none =>
    let far := s.bankElsewhere me
    let back := far.isSome || s.isSpilt s.asid me
    let b := if x.bank0.owner = 0#64 then false else if x.bank1.owner = 0#64 then true else x.lru
    let mine := if back then (s.saveKeys me (if far.isSome then .write else .read)).map some else .ok none
    let outKeys := if (x.bank b).owner = 0#64 then .ok none else (s.saveKeys (x.bank b).owner .write).map some
    match mine, outKeys with
    | .error e, _ => .error (saveErr e)
    | _, .error e => .error (saveErr e)
    | .ok home, .ok away =>
      let s := if home.isSome then s.meetArea me else s
      let s := if away.isSome then s.meetArea (x.bank b).owner else s
      let s := match far, home with | some (c, k), some ks => s.spill c k ks | _, _ => s
      let s := match away with | some ks => s.spill s.cid b ks | none => s
      match (home.getD []).findIdx? fun k => s.poison.contains (k / 64) with
      | some i => .error (saveErr (mkErr 0x0E (saveArea s.myTile me + BitVec.ofNat 64 (64 * i)) 0#64))
      | none => .ok (b, (home.getD []).foldl (fun s k => s.meetLines s.tid k 64) s |>.refill b me home)

/-- Every bank of the identity in a tile becomes free and clear (R230), its spilled mark with it. -/
def Cell.freeBanks (x : Cell) (me : Word) : Cell :=
  { x with
    bank0 := if x.bank0.owner = me then Bank.free else x.bank0
    bank1 := if x.bank1.owner = me then Bank.free else x.bank1 }
def State.freeBanks (s : State) (t : Nat) (me : Word) : State :=
  if me = 0#64 then s
  else
    let s := s.setSpilt (s.asidOf t) me false
    (List.range 16).foldl (fun s k =>
      let c := t * 16 + k
      if ((s.cell c).ownBank me).isSome then s.setCell c ((s.cell c).freeBanks me) else s) s

/-! ### Readiness (R218, R224, R227, R229) -/

/-- The unit is free. -/
def unitFree (s : State) : Bool := s.myCell.mrun.isNone
/-- No cell of the tile runs a step on the bank that the context would have spilled there. -/
def bankReady (s : State) : Bool :=
  match s.bankElsewhere s.ctx.ident with
  | some (c, _) => (s.cell c).mrun.isNone
  | none => true
def accReady (s : State) : Bool := unitFree s && bankReady s
def latchReady (s : State) : Bool := unitFree s && !s.myCell.latch.pending
def ringReady (s : State) : Bool := accReady s && s.myCell.latch.infull && !s.myCell.latch.pending

/-- The read stream bound to v31. -/
def weightStream (s : State) : Option Stream := (s.myCell.stream 3).filter fun st => !st.wr
/-- The units it must have fetched: 8, or those that are left (R227). -/
def weightsReady (s : State) : Bool :=
  match weightStream s with
  | some st => st.err.isSome || decide (min 8 (st.unitsLen - st.done) ≤ st.ready.length)
  | none => true
/-- MMV reads v0 to v7 and pops from v31 in the cell's issue order: no earlier vector instruction of the cell waits that names
one of them (R227). -/
def mmvReady (s : State) : Bool := accReady s && weightsReady s && !s.vheld (List.range 8) [31]

/-- A matrix instruction's shape: its readiness, its charge. What its steps wait for (the context's own accesses, a release, a
walk) is waited for before Issue() too, so that the unit takes its instructions in issue order and only an instruction that
starts is charged (R218). -/
def matrix (ready : State → Bool) (n : Nat) (body : State → Res) : Shape :=
  Shape.unissued { ready := ready, cost := fun _ => (n, 0), body := body }

/-! ### MMA and MMV (R232, R233) -/

/-- Accumulator `d` of a bank. -/
def Bank.at (k : Bank) (d : Nat) : BitVec 8192 := vget k.acc d 0#8192
/-- A write of an accumulator; an error that it held is gone. -/
def Bank.put (k : Bank) (d : Nat) (x : BitVec 8192) : Bank := { k with acc := vset k.acc d x, bad := k.bad &&& ~~~(1#4 <<< d) }
/-- Read an accumulator of the cell's bank `b`: an uncorrectable error traps (Table 09-5), with the instruction's address in
taddr, since an accumulator has no virtual one (log entry 34); a correctable one is corrected and logged. -/
def readAcc (s : State) (b : Bool) (d : Nat) (k : BitVec 8192 → State → Res) : Res :=
  if (s.myCell.bank b).bad.getLsbD d then .trap (mkErr 0x15 s.ctx.pc 0#64)
  else k ((s.myCell.bank b).at d) (s.meetFlaw s.tid (.acc (8 * s.cid + (if b then 4 else 0) + d)))

/-- The step starts: its result is written when it retires. -/
def State.startStep (s : State) (b : Bool) (d : Nat) (r : BitVec 8192 × FFlags) (handoff : Bool) : State :=
  s.setMyCell { s.myCell with mrun := some ⟨s.sel.slot, s.ctx.ident, b, d, r.1, r.2, handoff⟩ }

/-- The ring's B: CUR := IN at the start of a ring step. -/
def Latch.take (l : Latch) : Latch := { l with cur := l.inn, chops := l.ihops, infull := false }

def mma (i : Instr) (ring : Bool) (p : Pfx) (d a : BitVec 4) (s : State) : Result :=
  issue i (matrix (if ring then ringReady else accReady) 64 fun s =>
    let sh := pShape p
    let v := validRows s sh.m
    matMem p s fun s =>
      match matRead s (addr16 p a s) (v * sh.k * sh.ty.bytes) with
      | .error r => r
      | .ok A =>
        match s.claimBank with
        | .error e => .trap e
        | .ok (b, s1) => readAcc s1 b (p.dn d) fun acc s1 =>
          let s1 := s1.matTouch (addr16 p a s) (v * sh.k * sh.ty.bytes)
          let s1 := if ring then s1.setMyCell { s1.myCell with latch := s1.myCell.latch.take } else s1
          let r := stepAcc sh (roundMode p s1) (satOn p) v A s1.myCell.latch.cur.toNat acc
          .ok (withAcquire p (s1.startStep b (p.dn d) r ring))) s

def execMmaRing (p : Pfx) (d a : BitVec 4) (s : State) : Result := mma (.mmaRing p d a) true p d a s
def execMmaHold (p : Pfx) (d a : BitVec 4) (s : State) : Result := mma (.mmaHold p d a) false p d a s

/-- Pop `n` units: their bits, the first lowest, and the stream after it; the trap of a failed unit before any is taken. -/
def Stream.popMany (st : Stream) : Nat → Except Err (Nat × Stream)
  | 0 => .ok (0, st)
  | n + 1 =>
    match st.peek with
    | .unit x =>
      match st.pop.popMany n with
      | .ok (w, t) => .ok ((packLanes x).toNat + w * 2 ^ 1024, t)
      | .error a => .error a
    | .err e => .error e
    | .wait => .ok (0, st)

/-- Half `h` of the first `v` vectors, packed as rows of 32 bf16 elements. -/
def halfRows (s : State) (v h : Nat) : Nat :=
  packNats 512 ((List.range v).map fun i => (packLanes (s.rv i)).toNat / 2 ^ (512 * h))

/-- MMV with no read stream bound to v31 is misuse (R205, R227). -/
def mmvOwn (i : Instr) (s : State) : Option Err :=
  if s.dirAt 31 != some false then some (mkErr 1 s.ctx.pc i.tinfo) else none
def execMmv (p : Pfx) (d a : BitVec 4) (s : State) : Result :=
  issue (.mmv p d a) { matrix mmvReady 64 (fun s =>
    match weightStream s with
    | none => .trap (mkErr 1 s.ctx.pc (Instr.mmv p d a).tinfo)
    | some st =>
      match st.popMany 8 with
      | .error e => .trap e
      | .ok (W, st) =>
        match s.claimBank with
        | .error e => .trap e
        | .ok (b, s) => readAcc s b (p.dn d) fun acc s =>
          let v := validRows s 8
          let sh : MShape := ⟨8, 32, 16, .bf16, .f32⟩
          let X := halfRows s v (p.immW.toNat % 2)
          let s := s.setMyCell (s.myCell.setStream 3 (some st))
          let r := stepAcc sh (roundMode p s) false v X W acc
          .ok (s.startStep b (p.dn d) r false)) with own := mmvOwn (.mmv p d a) } s

/-! ### The latch and the ring (R223 to R226, R234) -/

/-- The next cell of the ring. -/
def ringNext (c : Nat) : Nat := c / 16 * 16 + (c + 1) % 16

/-- A handoff of CUR by cell `c`: none at the sixteenth, pending when the next IN is full or about to be. -/
def State.handoff (s : State) (c : Nat) : State :=
  let x := s.cell c
  let l := x.latch
  if l.chops = 15#4 then s
  else if (s.cell (ringNext c)).latch.infull || !l.flight.isEmpty then s.setCell c { x with latch := { l with pending := true } }
  else s.setCell c { x with latch := { l with flight := [(l.cur, l.chops + 1#4)] } }

def execMldb (p : Pfx) (d a : BitVec 4) (s : State) : Result :=
  issue (.mldb p d a) (matrix latchReady 2 fun s =>
    let sh := pShape p
    let n := sh.k * sh.n * sh.ty.bytes
    matMem p s fun s =>
      match matRead s (addr16 p a s) n with
      | .error r => r
      | .ok B =>
        let s := s.matTouch (addr16 p a s) n
        let x := s.myCell
        let cur := BitVec.ofNat 4096 (B + x.latch.cur.toNat / 2 ^ (8 * n) * 2 ^ (8 * n))
        .ok (withAcquire p (s.setMyCell { x with latch := { x.latch with cur := cur, chops := 0#4 } }))) s

def execMpass (p : Pfx) (d a : BitVec 4) (s : State) : Result :=
  issue (.mpass p d a) (matrix latchReady 2 fun s => .ok (s.handoff s.cid)) s

/-- MATRIX_STEP_RETIRE: the running step of the selected cell writes its accumulator, adds its flags, makes its handoff. -/
def execMatrixStepRetire (s : State) : Result :=
  match s.myCell.mrun with
  | none => .next s
  | some r =>
    let x := s.myCell
    let s := s.setMyCell { (x.setBank r.bank ((x.bank r.bank).put r.d r.result)) with mrun := none }
    let n := r.slot.toNat
    let s := s.setCtxAt s.cid n ((s.ctxAt s.cid n).raise r.flags)
    .next (if r.handoff then s.handoff s.cid else s)

/-- HANDOFF_LAND: a handoff of the selected cell lands in the next cell's IN, when that is empty (R224); one that is PENDING at a stop
lands at the restart (14 R356). -/
def execHandoffLand (s : State) : Result :=
  let x := s.myCell
  let l := x.latch
  let n := ringNext s.cid
  let land (b : BitVec 4096) (h : BitVec 4) (l : Latch) : State :=
    let s := s.setMyCell { x with latch := l }
    let y := s.cell n
    s.setCell n { y with latch := { y.latch with inn := b, ihops := h, infull := true } }
  if s.myTile.run == .stopped || (s.cell n).latch.infull then .next s
  else match l.flight with
    | (b, h) :: rest => .next (land b h { l with flight := rest })
    | [] => if l.pending then .next (land l.cur (l.chops + 1#4) { l with pending := false }) else .next s

/-! ### MZERO, MROW, MST, MLD (R235, R236) -/

/-- With the context's bank. -/
def withBank (s : State) (k : Bool → State → Res) : Res :=
  match s.claimBank with
  | .error e => .trap e
  | .ok (b, s) => k b s

/-- Write accumulator `d` of bank `b`. -/
def State.putAcc (s : State) (b : Bool) (d : Nat) (x : BitVec 8192) : State :=
  s.setMyCell (s.myCell.setBank b ((s.myCell.bank b).put d x))

def execMzero (p : Pfx) (d a : BitVec 4) (s : State) : Result :=
  issue (.mzero p d a) (matrix accReady 2 fun s => withBank s fun b s => .ok (s.putAcc b (p.dn d) 0#8192)) s

def execMrow (p : Pfx) (d a : BitVec 4) (s : State) : Result :=
  issue (.mrow p d a) { matrix (fun s => accReady s && !s.vheld [] [p.an a]) 2 (fun s =>
    withBank s fun b s => readAcc s b (p.dn d) fun acc s =>
      let x := acc.extractLsb' (1024 * (p.immW.toNat % 8)) 1024
      match putLanes (p.an a) ⟨unpackLanes x, BitVec.allOnes 32, 0#5⟩ s with
      | .error r => r
      | .ok (s, fl) => .ok (s.raise fl)) with own := misuseErr (.mrow p d a) [] (some (p.an a)) } s

/-- A view: its element type, columns, rows; none for raw (R221, R236). -/
def viewOf (p : Pfx) : Option (Ty × Nat × Nat) :=
  match p.immW.toNat % 4 with
  | 0 => some (.f32, 16, 16) | 1 => some (.i32, 16, 16) | 2 => some (.f64, 8, 8) | _ => none

/-- The pieces of an MST: codes of `n` bytes and the flags of their conversions. -/
def mstPieces (p : Pfx) (acc : BitVec 8192) (s : State) : Nat × List Nat × FFlags :=
  match viewOf p with
  | none => (8, (List.range (8 * validRows s 16)).map (elAt 64 acc.toNat), 0#5)
  | some (t, c, rows) =>
    let rs := (List.range (validRows s rows * c)).map fun q =>
      convert t (pShape p).ty (roundMode p s) (satOn p) (elAt (4 * t.nibbles) acc.toNat q)
    ((pShape p).ty.bytes, rs.map (·.1), rs.foldl (fun f r => f ||| r.2) 0#5)

/-- What the pieces of an MST store, from `va` on. -/
def mstStores (s : State) (n : Nat) : Word → List Nat → Except Res (List (List WByte × Nat × FFlags))
  | _, [] => .ok []
  | va, x :: xs =>
    match s.storePiece va (leBytes n x) with
    | .error r => .error r
    | .ok y =>
      match mstStores s n (va + BitVec.ofNat 64 n) xs with
      | .error r => .error r
      | .ok ys => .ok (y :: ys)

/-- The size and rows of an operand of MST and MLD: bytes of one element, elements moved. -/
def moveSize (p : Pfx) (s : State) : Nat × Nat :=
  match viewOf p with
  | none => (8, 8 * validRows s 16)
  | some (_, c, rows) => ((pShape p).ty.bytes, validRows s rows * c)

/-- MST's check of a window: its delivered size against the element size (R219). -/
def mstWindow (s : State) (n : Nat) : Place → Bool
  | .window w _ => decide (n < tyNibbles (wDeliv (vget s.myTile.win w 0#128)) / 2)
  | _ => false

def execMst (p : Pfx) (d a : BitVec 4) (s : State) : Result :=
  issue (.mst p d a) (matrix accReady 16 fun s =>
    let va := opA p a s
    let (n, k) := moveSize p s
    matMem p s fun s =>
      match matCheck s va (n * k) with
      | .error e => .trap e
      | .ok pl =>
        if mstWindow s n pl then .trap (mkErr 4 va 0#64)
        else if pAcq p && !s.ctx.pend.isEmpty then .hold
        else withBank s fun b s => readAcc s b (p.dn d) fun acc s =>
          let (n, xs, fl) := mstPieces p acc s
          match mstStores s n va xs with
          | .error r => r
          | .ok ys =>
            let s := (s.touchPuts (pieces va n xs.length) n).raise fl
            if pAcq p && s.pendMeets (ys.flatMap (·.1)) then .hold
            else if pAcq p then .ok (withAcquire p (ys.foldl (fun s y => (s.raise y.2.2).write s.tid y.1) s))
            else .ok (ys.foldl (fun s y => s.issueStore y .matrix) s)) s

def execMld (p : Pfx) (d a : BitVec 4) (s : State) : Result :=
  issue (.mld p d a) (matrix accReady 16 fun s =>
    let (n, k) := moveSize p s
    matMem p s fun s =>
      match matRead s (opA p a s) (n * k) with
      | .error r => r
      | .ok M =>
        withBank (s.matTouch (opA p a s) (n * k)) fun b s =>
          let acc := (s.myCell.bank b).at (p.dn d)
          let rs := (List.range k).map fun q =>
            match viewOf p with
            | none => (elAt 64 M q, 0#5)
            | some (t, _, _) => convert (pShape p).ty t (roundMode p s) (satOn p) (elAt (8 * n) M q)
          let w := match viewOf p with | none => 64 | some (t, _, _) => 4 * t.nibbles
          let bad := (s.myCell.bank b).bad
          let s := s.putAcc b (p.dn d) (setLow w (rs.map (·.1)) acc)
          let s := if w * rs.length < 8192 then s.setMyCell (s.myCell.setBank b { s.myCell.bank b with bad := bad }) else s
          .ok (withAcquire p (s.raise (rs.foldl (fun f r => f ||| r.2) 0#5)))) s

/-! ### MWAIT and MBANK (R237, R238) -/

/-- No context of the cell has an MST whose writes are pending. -/
def mstDone (s : State) : Bool :=
  (List.range 11).all fun n =>
    (s.ctxAt s.cid n).pend.all fun p => match p with | .store _ _ k => k != .matrix | .load _ _ _ _ _ _ _ _ => true

def execMwait (p : Pfx) (d a : BitVec 4) (s : State) : Result :=
  issue (.mwait p d a) (plain 2 fun s => if unitFree s && mstDone s then .ok s else .poll) s

/-- MBANK: kernel only; the bank's owner has no instruction in the unit. -/
def mbank (i : Instr) (body : State → Res) (s : State) : Result :=
  issue i { kernel := true, ready := unitFree, cost := fun _ => (2, 0), body := body } s

/-- MBANK that tags or frees a bank. The spilled mark of R229 of the identity stays as it was, so that a refill is from the save area of
its last spill: R238 is silent (DESIGN CHOICE, log entry 36). -/
def execMbankSel (p : Pfx) (d a : BitVec 4) (s : State) : Result :=
  mbank (.mbankSel p d a) (fun s =>
    let b := p.dn d == 1
    let v := opA p a s
    let k := s.myCell.bank b
    .ok (s.setMyCell (s.myCell.setBank b (if v = 0#64 then Bank.free else { k with owner := v })))) s

/-- What a bank's bytes store in 64-byte pieces from `va` on, each checked, through a window as it encodes them (07 R183). -/
def bankStores (s : State) : Word → Nat → List Byte → Except Res (List (List WByte × Nat × FFlags))
  | _, 0, _ => .ok []
  | va, n + 1, bs =>
    match s.storePiece va (bs.take 64) with
    | .error r => .error r
    | .ok x =>
      if s.pendMeets x.1 then .error .hold
      else match bankStores s (va + 64#64) n (bs.drop 64) with
        | .error r => .error r
        | .ok xs => .ok (x :: xs)
/-- The bytes of a bank read in 64-byte pieces. -/
def bankRead (s : State) (va : Word) : Nat → Except Res (List Byte)
  | 0 => .ok []
  | n + 1 =>
    match bankRead s va n with
    | .error r => .error r
    | .ok bs =>
      match s.readPiece (va + BitVec.ofNat 64 (64 * n)) 64 with
      | .error r => .error r
      | .ok x => .ok (bs ++ x)

def execMbankSpill (p : Pfx) (d a : BitVec 4) (s : State) : Result :=
  mbank (.mbankSpill p d a) (fun s =>
    let b := p.dn d == 1
    let va := opA p a s
    let k := s.myCell.bank b
    if va.toNat % 64 ≠ 0 then .trap (mkErr 4 va 0#64)
    else if s.ctx.accessHeld then .hold
    else match bankStores s va 64 k.bytes with
      | .error r => r
      | .ok xs =>
        let keys := xs.map fun x => match x.1 with | w :: _ => w.pa | [] => 0
        let s := (xs.foldl (fun s x => s.raise x.2.2) (s.touchPuts (pieces va 64 64) 64)).storeBank k (xs.flatMap (·.1)) keys
        .ok (s.setMyCell (s.myCell.setBank b Bank.free))) s

def execMbankFill (p : Pfx) (d a : BitVec 4) (s : State) : Result :=
  mbank (.mbankFill p d a) (fun s =>
    let b := p.dn d == 1
    let va := opA p a s
    if va.toNat % 64 ≠ 0 then .trap (mkErr 4 va 0#64)
    else if s.ctx.accessHeld then .hold
    else match bankRead s va 64 with
      | .error r => r
      | .ok bs =>
        let s := s.touchAll (pieces va 64 64) 64
        let k := s.myCell.bank b
        .ok (s.setMyCell (s.myCell.setBank b ⟨k.owner, accsOf (leNat bs), 0#4⟩))) s

end Sys2Proof.Machine
end

