-- ==== Sys2Proof/Machine/Barrier.lean ====
section
/-! DEFINITION. Sys2Proof/Machine/Barrier.lean: the chord network: its nodes, groups, openings and withdrawals (13 R313 to R317),
ARRIVE, BWAIT, BSTAT (R318), and the write of a configuration word. -/

namespace Sys2Proof.Machine

/-! ### Nodes (R313) -/

/-- The key of a node's word for a channel. Levels: 0 tile, 1 cluster, 2 span, 3 die, 4 module. -/
def chordKey (level node chan : Nat) : Nat := (level * 4096 + node) * 32 + chan
def State.chordWord (s : State) (level node chan : Nat) : BitVec 32 := mget s.chord (chordKey level node chan) 0#32
def State.setChord (s : State) (level node chan : Nat) (w : BitVec 32) : State :=
  { s with chord := mset s.chord (chordKey level node chan) w }

def cwMemb (w : BitVec 32) (i : Nat) : Bool := w.getLsbD i && decide (i < 16)
def cwRoot (w : BitVec 32) : Bool := w.getLsbD 17
def cwWd (w : BitVec 32) : Bool := w.getLsbD 18
def cwPhase (w : BitVec 32) : Bool := w.getLsbD 19

/-- The children of a node of a level, and the number of nodes of a level. -/
def fanOut (level : Nat) : Nat := match level with | 0 => 16 | 1 => 16 | 2 => 10 | _ => 4
def nodeCount (level : Nat) : Nat := match level with | 0 => 2560 | 1 => 160 | 2 => 16 | 3 => 4 | _ => 1

/-- A node is a root: its ROOT bit, and the module node always (R314). -/
def State.isRoot (s : State) (level node chan : Nat) : Bool := decide (4 ≤ level) || cwRoot (s.chordWord level node chan)

/-- The root that the chain of set MEMB bits from a node reaches; the first argument counts the levels above. -/
def State.rootFrom (s : State) (chan : Nat) : Nat → Nat → Nat → Option (Nat × Nat)
  | 0, level, node => some (level, node)
  | k + 1, level, node =>
    if s.isRoot level node chan then some (level, node)
    else
      let n := fanOut (level + 1)
      if cwMemb (s.chordWord (level + 1) (node / n) chan) (node % n) then s.rootFrom chan k (level + 1) (node / n) else none

/-- The root of the group that a cell is a member of (R314). -/
def State.rootOf (s : State) (c chan : Nat) : Option (Nat × Nat) :=
  if decide (c / 16 < computeTiles) && cwMemb (s.chordWord 0 (c / 16) chan) (c % 16) then s.rootFrom chan 4 0 (c / 16) else none
def State.isMember (s : State) (c chan : Nat) : Bool := (s.rootOf c chan).isSome

/-- The members below a node. -/
def State.membersBelow (s : State) (chan : Nat) : Nat → Nat → List Nat
  | 0, node => ((List.range 16).filter (cwMemb (s.chordWord 0 node chan))).map (node * 16 + ·)
  | level + 1, node =>
    ((List.range (fanOut (level + 1))).filter fun i =>
        cwMemb (s.chordWord (level + 1) node chan) i && !cwRoot (s.chordWord level (node * fanOut (level + 1) + i) chan)).flatMap
      fun i => s.membersBelow chan level (node * fanOut (level + 1) + i)

/-- The scope of a group by its root's level (R315). -/
def groupScope (level : Nat) : Nat := match level with | 0 => 1 | 1 => 2 | 2 => 3 | 3 => 3 | _ => 4

/-- A cell's ARRIVED bit. -/
def Cell.arrived (x : Cell) (chan : Nat) : Bool := x.arrive.getLsbD chan
def setBit {n : Nat} (w : BitVec n) (i : Nat) (b : Bool) : BitVec n :=
  if b then w ||| BitVec.ofNat n (2 ^ i) else w &&& ~~~BitVec.ofNat n (2 ^ i)
def State.setArrived (s : State) (c chan : Nat) (b : Bool) : State :=
  let x := s.cell c
  if x.arrived chan = b then s else s.setCell c { x with arrive := setBit x.arrive chan b }

/-- Discard arrivals. -/
def State.clearArrivals (s : State) (chan : Nat) (cs : List Nat) : State := cs.foldl (fun s c => s.setArrived c chan false) s

/-- The group opens when every member has arrived (R316). -/
def State.openIfDone (s : State) (level node chan : Nat) : State :=
  let ms := s.membersBelow chan level node
  if ms.all fun c => (s.cell c).arrived chan then
    (s.setChord level node chan (s.chordWord level node chan ^^^ 0x80000#32)).clearArrivals chan ms
  else s

/-- Withdraw a cell from one channel (R317). -/
def State.withdrawFrom (s : State) (c chan : Nat) : State :=
  match s.rootOf c chan with
  | none => s
  | some (level, node) =>
    let s := s.setChord 0 (c / 16) chan (setBit (s.chordWord 0 (c / 16) chan) (c % 16) false)
    let s := s.setChord level node chan (setBit (s.chordWord level node chan) 18 true)
    (s.setArrived c chan false).openIfDone level node chan

/-- Withdraw a cell from every channel. -/
def State.withdraw (s : State) (c : Nat) : State :=
  if s.chord.isEmpty then s else (List.range 32).foldl (fun s n => s.withdrawFrom c n) s

/-- The slot `n` of cell `c` has been left by EXIT or a kill: withdraw the cell where R317 applies. -/
def State.withdrawAfter (s : State) (c n : Nat) : State :=
  if n = 0 ∨ (s.cell c).slots.toList.all fun x => !x.live then s.withdraw c else s

/-- bchan: bit n tells whether the cell is a member of channel n (R314). -/
def State.bchan (s : State) (c : Nat) : Word :=
  if s.chord.isEmpty then 0#64
  else BitVec.ofNat 64 ((List.range 32).foldl (fun w n => if s.isMember c n then w + 2 ^ n else w) 0)

/-- A kernel write of a word: MEMB and ROOT are taken, PHASE stands, WD is cleared; a root's write discards the arrivals
that are pending in its group, and never opens it (R314). -/
def State.chordWrite (s : State) (level node chan : Nat) (w : BitVec 32) : State :=
  if 4 < level ∨ nodeCount level ≤ node ∨ 32 ≤ chan then s
  else
    let old := s.chordWord level node chan
    let root := s.isRoot level node chan || cwRoot w
    let before := s.membersBelow chan level node
    let s := s.setChord level node chan ((old &&& 0x80000#32) ||| (w &&& 0x2FFFF#32))
    if root then s.clearArrivals chan (before ++ s.membersBelow chan level node) else s

/-- CHORD_CONFIG_WRITE: the service kernel writes one word. -/
def execChordConfigWrite (level : BitVec 3) (node : BitVec 12) (chan : BitVec 5) (w : BitVec 32) (s : State) : Result :=
  .next (s.chordWrite level.toNat node.toNat chan.toNat w)

/-! ### ARRIVE, BWAIT, BSTAT (R318) -/

/-- The channel of s[a]. -/
def channel (p : Pfx) (a : BitVec 4) (s : State) : Nat := (opA p a s).toNat % 32

/-- With the group that the cell is a member of, or the trap. -/
def withGroup (n : Nat) (s : State) (k : Nat → Nat → State → Res) : Res :=
  match s.rootOf s.cid n with
  | none => .trap (mkErr 0x16 s.ctx.pc (BitVec.ofNat 64 n))
  | some (level, node) => k level node s

/-- PHASE of a root. -/
def State.phase (s : State) (level node chan : Nat) : Bool := cwPhase (s.chordWord level node chan)

/-- ARRIVE stalls before issue while the cell has arrived (R316), and until its release is performed, which is not charged
either (11 R268). -/
def arriveReady (p : Pfx) (a : BitVec 4) (s : State) : Bool :=
  match s.rootOf s.cid (channel p a s) with
  | none => true
  | some (level, _) => !s.myCell.arrived (channel p a s) && s.released (groupScope level)

def execArrive (p : Pfx) (d a : BitVec 4) (s : State) : Result :=
  issue (.arrive p d a) { ready := arriveReady p a, body := fun s => (
      let n := channel p a s
      withGroup n s fun level node s =>
        let s := s.release (groupScope level)
        let x := s.myCell
        let s := s.setMyCell { x with aphase := setBit x.aphase n (s.phase level node n) }
        .ok ((s.setArrived s.cid n true).openIfDone level node n)) } s

def execBwait (p : Pfx) (d a : BitVec 4) (s : State) : Result :=
  issue (.bwait p d a) (plain 1 fun s =>
    let n := channel p a s
    withGroup n s fun level node s =>
      if s.myCell.arrived n then .poll
      else
        let w := s.chordWord level node n
        .ok ((s.acquire (groupScope level)).ws (p.dn d) (bit 64 (cwPhase w) ||| (bit 64 (cwWd w) <<< 1)))) s

def execBstat (p : Pfx) (d a : BitVec 4) (s : State) : Result :=
  issue (.bstat p d a) (plain 1 fun s =>
    let n := channel p a s
    match s.rootOf s.cid n with
    | none => .ok (s.ws (p.dn d) 0#64)
    | some (level, node) =>
      let w := s.chordWord level node n
      let waiting := ((s.membersBelow n level node).filter fun c => !(s.cell c).arrived n).length
      .ok (s.ws (p.dn d) (BitVec.ofNat 64
        (1 + (s.myCell.arrived n).toNat * 2 + (cwPhase w).toNat * 4 + (cwWd w).toNat * 8 + level * 256
          + min waiting 65535 * 2 ^ 32)))) s

end Sys2Proof.Machine
end

