-- ==== Sys2Proof/Machine/Stage.lean ====
section
/-! DEFINITION. Sys2Proof/Machine/Stage.lean: staged objects: automata, granules, the stage step, park queues (10 R255 to R259), and
LDS, STS, TRN, STQ, AUTLD (R261, R262). -/

namespace Sys2Proof.Machine

/-! ### Automata (R256) -/

/-- Automaton 0 (Table 10-6), as entry bytes. -/
def autFE (st tr : Nat) : Nat :=
  if 8 ≤ st then 0
  else match tr, st with
    | 0, 0 => 0x41 | 0, 1 => 0x08
    | 1, 0 => 0x08 | 1, 1 => 0x20
    | 2, 0 => 0x08 | 2, 1 => 0x21
    | 3, _ => 0x18
    | _, _ => 0

/-- The entry of an automaton of an address space for a state and a transition. -/
def State.autEntry (s : State) (asid : BitVec 12) (aut : BitVec 4) (st tr : Nat) : Nat :=
  if aut = 0#4 then autFE st tr else byteAt (mget s.auts (asid.toNat * 16 + aut.toNat) []) (16 * st + tr) % 128

/-- Actions. -/
inductive Act where
  | ok | park | fault | noData
  deriving DecidableEq, Repr

def entAct (e : Nat) : Act :=
  if e = 0 then .fault else match e / 8 % 4 with | 0 => .ok | 1 => .park | 2 => .fault | _ => .noData
/-- Bit 0 acquire, bit 1 release. -/
def entSide (e : Nat) : BitVec 2 := BitVec.ofNat 2 (e / 32)
def entNext (e : Nat) : Nat := e % 8

/-- The state count of an image. -/
def stateCount (img : List Byte) : Nat :=
  (List.range 8).foldl (fun c st => if (List.range 16).any (fun t => byteAt img (16 * st + t) % 128 != 0) then st + 1 else c) 0

/-! ### Granules (R255) -/

/-- The granules of a dimension. -/
def Desc.grans (D : Desc) (k : Nat) : Nat := ceilDiv ((D.sizes[k]?).getD 1) (2 ^ (vget D.block k 0#8).toNat)
/-- The index of the granule with coordinates `gs`, from dimension `k` on. -/
def Desc.granFrom (D : Desc) : Nat → List Nat → Nat → Nat
  | _, [], n => n
  | k, g :: gs, n => D.granFrom (k + 1) gs (n * D.grans k + g)
/-- The index of the granule that holds member `x`. -/
def Desc.granule (D : Desc) (x : List Nat) : Nat :=
  D.granFrom 0 ((List.range x.length).map fun k => (x[k]?).getD 0 / 2 ^ (vget D.block k 0#8).toNat) 0

/-- Insert a number into a rising list without repeats. -/
def insertNat (x : Nat) : List Nat → List Nat
  | [] => [x]
  | y :: ys => if x < y then x :: y :: ys else if x = y then y :: ys else y :: insertNat x ys

/-- The coordinates of granules that a range of dimension `k` meets, rising. -/
def Desc.granCoords (D : Desc) (k : Nat) (r : Rng) : List Nat :=
  dedup ((List.range r.cnt).map fun i => (r.lo + i * r.step) / 2 ^ (vget D.block k 0#8).toNat)
def crossNat : List (List Nat) → List (List Nat)
  | [] => [[]]
  | xs :: rest => xs.flatMap fun x => (crossNat rest).map (x :: ·)
/-- Every granule that holds a member, by rising index. -/
def Desc.granules (D : Desc) (bs : List NBox) : List Nat :=
  (bs.flatMap fun b => (crossNat ((List.range b.length).map fun k => D.granCoords k ((b[k]?).getD oneRng))).map
    fun gs => D.granFrom 0 gs 0).foldl (fun l g => insertNat g l) []

/-- The address of the stage word of granule `i`. -/
def Desc.stageVa (D : Desc) (i : Nat) : Word := D.stages + BitVec.ofNat 64 (8 * (i / 16))

/-- Where granule `i`'s state is held; `look` gives an access to the stage word (R247: right S). User mode does not reach the
controller of a service tile (01 R14). A stage word that lies in a raw scratchpad range has no page that could lack S: it is
stepped there with no right needed (R255 asks no more than R142's alignment; DESIGN CHOICE, log entry 35). -/
def granLoc (D : Desc) (user : Bool) (look : Word → Acc) (i : Nat) : Except Acc GLoc :=
  match place D.base.toNat with
  | .scratch t _ => if user ∧ computeTiles ≤ t then .error (protErr D.base.toNat (some 3))
      else .ok (.ctl t ((D.stages.toNat + i) % 1024))
  | _ =>
    match look (D.stageVa i) with
    | .mem pa _ _ => .ok (.word pa (i % 16))
    | .win _ _ => .error (protErr (D.stageVa i).toNat (some 2))
    | a => .error a

/-- The state of a granule, and writing it on behalf of tile `t`; an error that a controller's granule held is gone. -/
def State.granState (s : State) : GLoc → Nat
  | .ctl t n => (mget (s.tile t).gran n 0#4).toNat
  | .word pa k => rdN s.mem (pa + k / 2) 1 / 16 ^ (k % 2) % 16
def State.setGran (s : State) (t : Nat) (l : GLoc) (v : Nat) : State :=
  match l with
  | .ctl u n => s.setTile u { s.tile u with
      gran := mset (s.tile u).gran n (BitVec.ofNat 4 v), granBad := (s.tile u).granBad &&& ~~~(1#1024 <<< n) }
  | .word pa k => s.perform t [⟨pa + k / 2, BitVec.ofNat 8 (v * 16 ^ (k % 2)), if k % 2 = 0 then 0x0F#8 else 0xF0#8⟩]

/-- The granule's state holds an uncorrectable error (R244). -/
def State.granLost (s : State) : GLoc → Bool
  | .ctl t n => (s.tile t).granBad.getLsbD n
  | .word pa _ => s.poison.contains (pa / 64)

/-- The stage store of a granule, and the places of its park queue (R259). -/
def GLoc.home : GLoc → Nat
  | .ctl t _ => 1000 + t
  | .word pa _ => homeOf pa
def queueCap (home : Nat) : Nat := if 1000 ≤ home ∧ home < 5000 then 64 else 256

/-- The smallest scope that spans a tile and the home of a memory key (R257). -/
def homeScope (t pa : Nat) : Nat :=
  if scratchBase ≤ pa then scopeOf t ((pa - scratchBase) / scratchSize)
  else if pa / 2 ^ 56 = 1 then 6
  else if pa / 2 ^ 56 = 2 then 5
  else if t < computeTiles ∧ clusterOf t = homeOf pa then 2
  else if dieOf t = homeOf pa / 40 then 3
  else 4
def GLoc.scope (t : Nat) : GLoc → Nat
  | .ctl u _ => scopeOf t u
  | .word pa _ => homeScope t pa

/-- The scope that the tensor's BASE adds; none when BASE's own page has no translation or its module is lost: R257 does not say
(DESIGN CHOICE, log entry 36). -/
def baseScope (s : State) (D : Desc) : Nat :=
  match place D.base.toNat with
  | .scratch t _ => scopeOf s.tid t
  | .virt => match s.physOf s.cid D.base.toNat with | some (.ok pa _) => homeScope s.tid pa | _ => 0
  | _ => 0

/-! ### The stage step (R257) -/

/-- The entry that decides a step. -/
def State.stageEntry (s : State) (r : StageReq) (l : GLoc) : Nat :=
  match r.col with
  | some c => byteAt c (s.granState l) % 128
  | none => s.autEntry r.asid r.desc.aut (s.granState l) r.trn.toNat

/-- A parked step on the granule is due: other steps on it wait (R257, R259). -/
def State.granDue (s : State) (l : GLoc) : Bool :=
  s.parked.any fun q => q.inq && q.loc == l && entAct (s.stageEntry q.req l) != .park

/-- An element of the low bytes of a value, extended by its type (R261). -/
def elemValue (t : Ty) (x : Nat) : Word :=
  match t.int with
  | some (true, w) => (BitVec.ofNat w x).signExtend 64
  | _ => BitVec.ofNat 64 (x % 2 ^ (8 * t.bytes))

/-- The data part of an OK step on behalf of tile `t`. A load reads the home, so the tile's L1s keep no older line (11 R266). -/
def stageData (s : State) (t : Nat) (r : StageReq) : Option Word × State :=
  let ty := r.desc.tyOf
  match r.op, r.pa with
  | .lds, some pa => (some (elemValue ty (rdN s.mem pa ty.bytes)), (s.meetLines t pa ty.bytes).dropLines t [pa / 64])
  | .lds, none => (some (elemValue ty r.desc.fill.toNat), s)
  | .sts, some pa => (none, s.write t (wbytes pa (leBytes ty.bytes r.val.toNat)))
  | .sts, none => (none, s.countOob t 1)
  | .trn, _ => (none, s)

/-- How a run of steps ends: done, with the value loaded and the sides met; stopped at a granule, in its park queue (`inq`) or
not yet; full or due at its first granule, nothing done; or FAULT at granule `g` in state `st`. -/
inductive StageOut where
  | done (s : State) (v : Option Word) (order : BitVec 2)
  | park (s : State) (r : StageReq) (l : GLoc) (inq : Bool)
  | full
  | wait
  | fault (s : State) (g st : Nat)

/-- Where a run of steps stands: at the first granule of an access that is issued, at the granule in whose queue it was, or at
one that it reaches. -/
inductive StageAt where
  | issue | queued | later
  deriving DecidableEq, Repr

/-- The park queue of a home has room (R259). -/
def State.parkRoom (s : State) (home : Nat) : Bool :=
  decide ((s.parked.filter fun q => q.inq && q.loc.home == home).length < queueCap home)

/-- The read of a granule's state at its home meets the correctable errors of its word's line (R244), and the tile's L1s keep no older
copy of it (11 R266). -/
def State.meetGran (s : State) (t : Nat) (l : GLoc) : State :=
  match l with
  | .word pa k => (s.meetLines t (pa + k / 2) 1).dropLines t [pa / 64]
  | .ctl _ _ => s

/-- Step granules in order on behalf of tile `t`; `v` is the value loaded so far. A step joins the park queue of its granule
when that has room, and passes no parked step that is due (R257, R259). -/
def stageRun (t : Nat) (r : StageReq) : StageAt → Option Word → BitVec 2 → List (Nat × GLoc) → State → StageOut
  | _, v, o, [], s => .done s v o
  | w, v, o, (g, l) :: rest, s =>
    let e := s.stageEntry r l
    let stop (inq : Bool) : StageOut := .park (s.meetGran t l) { r with grans := (g, l) :: rest, order := o } l inq
    if w != .queued && s.granDue l then (if w = .issue then .wait else stop false)
    else
    let s := s.meetGran t l
    match entAct e with
      | .fault => .fault s g (s.granState l)
      | .park => if w = .queued || s.parkRoom l.home then stop true else if w = .issue then .full else stop false
      | .ok =>
        let (x, s) := stageData s t r
        stageRun t r .later (x.or v) (o ||| entSide e) rest (s.setGran t l (entNext e))
      | .noData => stageRun t r .later v (o ||| entSide e) rest (s.setGran t l (entNext e))

/-- The step may have a release side: its order, or an entry of its transition. -/
def State.stageRel (s : State) (r : StageReq) : Bool :=
  r.order.getLsbD 1 || (List.range 8).any fun st => (entSide (s.autEntry r.asid r.desc.aut st r.trn.toNat)).getLsbD 1

/-- The virtual address of a granule's state in a trap: its stage word's, or BASE for one in a tile controller, as R258 has it. -/
def Desc.granVa (D : Desc) (g : Nat) : Word := match place D.base.toNat with | .scratch _ _ => D.base | _ => D.stageVa g

/-- The trap of a FAULT action (R258). -/
def stageErr (r : StageReq) (g st : Nat) : Err :=
  mkErr 7 (r.desc.granVa g)
    (BitVec.ofNat 64 (g % 2 ^ 32 + st * 2 ^ 32 + r.trn.toNat * 2 ^ 36 + r.desc.aut.toNat * 2 ^ 40))

/-! ### LDS, STS, TRN, STQ (R261) -/

/-- The transition of PFX.X stage. -/
def pTrn (p : Pfx) : BitVec 4 := p.stage.getD 0#4
def pOrder (p : Pfx) : BitVec 2 := match p.order with | some o => o.order | none => 0#2

/-- The member number. -/
def memberNo (p : Pfx) (s : State) : Nat := if p.hasR then (opE p s).toNat else 0

/-- The member that LDS, STS and STQ name. -/
def stageMember (p : Pfx) (a : BitVec 4) (s : State) : List Nat := listMember (s.boxesOp (p.an a)) (memberNo p s)

/-- The checks of R261 that come before the rights: made once, at issue (06 R146). -/
def stageCheck (p : Pfx) (a : BitVec 4) (one elem : Bool) (s : State) (k : State → Res) : Res :=
  let g := s.rg (p.an a)
  let D := s.desc g.desc
  if s.held.isSome then k s
  else withRegion g true s fun s =>
    if g.inexact then .trap (rErr 9 s)
    else if !D.staged then .trap (rErr 10 s)
    else if one && decide (volume (s.boxes g) ≤ memberNo p s) then .trap (rErr 11 s)
    else if elem && D.tyOf == .q4n then .trap (rErr 12 s)
    else k s

/-- The rights of R261, checked once, at issue (06 R146). -/
def stageRights (g : GReg) (D : Desc) (bs : List NBox) (rights : List Nat) (s : State) : Option Err :=
  if s.held.isSome then none else checkRights s g.desc D bs rights

/-- What an access that does not go through answers. -/
def accRes (s : State) (va : Word) (kind : AccKind) : Acc → Res
  | .miss => .miss va kind
  | .err e => s.refuse va e
  | _ => .trap ⟨6, va, 0#64, some (2, 0, 0)⟩

/-- The places of granules, through the acting context's translations; a state that holds an uncorrectable error traps (R244; that
taddr is then BASE for a tile controller is DESIGN CHOICE, log entry 34). -/
def granLocs (s : State) (D : Desc) : List Nat → Except Res (List (Nat × GLoc))
  | [] => .ok []
  | i :: is =>
    match granLoc D s.ctx.user (fun va => s.access s.cid s.ctx.user .stage va.toNat 8) i with
    | .error a => .error (accRes s (D.stageVa i) .stage a)
    | .ok l =>
      if s.granLost l then .error (.trap (mkErr 0x15 (D.granVa i) 0#64))
      else match granLocs s D is with
      | .error r => .error r
      | .ok ls => .ok ((i, l) :: ls)

/-- The memory key of the member's element: none when it is out of bounds (R148). -/
def elemKey (s : State) (D : Desc) (need : Need) (x : List Nat) : Except Res (Option Nat) :=
  if !Stream.inside D (x.map Int.ofNat) then .ok none
  else
    let va := D.addr x
    match asMember va.toNat (s.access s.cid s.ctx.user need va.toNat D.tyOf.bytes) with
    | .mem pa _ _ => .ok (some pa)
    | a => .error (accRes s va .stage a)

/-- Run a context's stage step. One that would park once a PMREQ is pending is withdrawn instead: its instruction is issued again
after the yield (05 R125). -/
def stageGo (r : StageReq) (s : State) : Res :=
  if s.stageRel r && !s.released r.scope then .hold
  else match stageRun s.tid r .issue none r.order r.grans (if s.stageRel r then s.release r.scope else s) with
    | .done s v o =>
      let s := match v with | some v => s.ws r.dest v | none => s
      .ok (if o.getLsbD 0 then s.acquire r.scope else s)
    | .park s r l inq =>
      if s.ctx.user && s.ctx.preq.isSome then .left (s.setCtx s.ctx.abandon)
      else .parked { s with parked := s.parked ++ [⟨.ctx s.sel.cell s.sel.slot, l, r, inq⟩] }
    | .full => .stall
    | .wait => .hold
    | .fault t g st => .trapOnly (fun s0 => t.setCtx s0.ctx) (stageErr r g st)

/-- An earlier access of the context to the stage word of one of these granules is not performed (11 R266). -/
def State.wordsBusy (s : State) (ls : List (Nat × GLoc)) : Bool :=
  ls.any fun l => match l.2 with | .word pa _ => s.pendTouches pa 8 | .ctl _ _ => false

/-- LDS, STS and TRN on the members `xs` of g[a]. -/
def stageOp (i : Instr) (p : Pfx) (d a : BitVec 4) (op : StageOp) (rights : List Nat) (s : State) : Res :=
  let D := s.dOp (p.an a)
  let bs := s.boxesOp (p.an a)
  let x := stageMember p a s
  let one := op != .trn
  stageCheck p a one one s fun s =>
    match stageRights (s.gOp (p.an a)) D (if one then [pointBox x] else bs) rights s with
    | some e => .trap e
    | none =>
      if s.ctx.accessHeld then .hold
      else match granLocs s D (if one then [D.granule x] else D.granules bs) with
        | .error r => r
        | .ok ls =>
          match (if one then elemKey s D (if op = .lds then .read else .write) x else .ok none) with
          | .error r => r
          | .ok pa =>
            if s.wordsBusy ls || pa.any fun k => s.pendTouches k D.tyOf.bytes then .hold
            else
              let scope := ls.foldl (fun m l => max m (l.2.scope s.tid)) (max (pScope p) (baseScope s D))
              stageGo ⟨op, D, s.asid, pTrn p, ls, pa, opD p d s, p.dn d, scope, pOrder p, i.ilen, s.ctx.pc, none,
                pa.map fun _ => D.addr x, s.ctx.user⟩ s.meetProt

/-- Traffic: the element's bytes and each stage word, in charged memory. -/
def stageCost (p : Pfx) (a : BitVec 4) (one elem : Bool) (s : State) : Nat :=
  let g := s.rg (p.an a)
  let D := s.desc g.desc
  if (s.gBad g true).isSome || !D.staged || (one && decide (volume (s.boxes g) ≤ memberNo p s)) then 0
  else
    let x := stageMember p a s
    let words := match place D.base.toNat with
      | .scratch _ _ => []
      | _ => dedup ((if one then [D.granule x] else D.granules (s.boxes g)).map (· / 16))
    units (words.foldl (fun n w => n + chargedBytes s.tid (D.stageVa (16 * w)).toNat 8) 0
      + (if elem && Stream.inside D (x.map Int.ofNat) then chargedBytes s.tid (D.addr x).toNat D.tyOf.bytes else 0))

/-- The shape of a stage instruction: its charge depends on a ragged region's lengths, so it waits for the context's own stores to
the table before it is issued (05 R114). -/
def stageShape (p : Pfx) (a : BitVec 4) (one elem : Bool) (body : State → Res) : Shape :=
  { memory 2 (stageCost p a one elem) body with ready := fun s => s.held.isSome || !s.ragWait (s.rg (p.an a)) }

def execLds (p : Pfx) (d a : BitVec 4) (s : State) : Result :=
  issue (.lds p d a) (stageShape p a true true (stageOp (.lds p d a) p d a .lds [0, 2])) s
def execSts (p : Pfx) (d a : BitVec 4) (s : State) : Result :=
  issue (.sts p d a) (stageShape p a true true (stageOp (.sts p d a) p d a .sts [1, 2])) s
def execTrn (p : Pfx) (d a : BitVec 4) (s : State) : Result :=
  issue (.trn p d a) (stageShape p a false false (stageOp (.trn p d a) p d a .trn [2])) s

/-- STQ reads the granule's state: no step, no side. -/
def execStq (p : Pfx) (d a : BitVec 4) (s : State) : Result :=
  issue (.stq p d a) (stageShape p a true false fun s =>
    let D := s.dOp (p.an a)
    let x := stageMember p a s
    stageCheck p a true false s fun s =>
      match stageRights (s.gOp (p.an a)) D [pointBox x] [2] s with
      | some e => .trap e
      | none =>
        if s.ctx.accessHeld then .hold
        else withRelease p s fun s =>
          match granLocs s D [D.granule x] with
          | .error r => r
          | .ok ls =>
            if s.wordsBusy ls then .hold
            else
            let s := s.meetProt
            let s := ls.foldl (fun s l => s.meetGran s.tid l.2) s
            let st := ls.foldl (fun _ l => s.granState l.2) 0
            .ok (withAcquire p (s.ws (p.dn d) (BitVec.ofNat 64 st)))) s

/-! ### AUTLD (R262) -/

/-- Some installed staged descriptor of the address space names the automaton. -/
def State.autBusy (s : State) (asid : BitVec 12) (n : BitVec 4) : Bool :=
  s.descs.any fun e => e.1 / 4096 == asid.toNat && e.2.installed && e.2.staged && e.2.aut == n

/-- AUTLD. Its d field is the number of the automaton, four bits: bit d4 of PFX.R, which extends register fields, does not join it
(03 R55 leaves it open; DESIGN CHOICE, log entry 36). -/
def execAutld (p : Pfx) (d a : BitVec 4) (s : State) : Result :=
  issue (.autld p d a) (memory 2 (fun s => bulkTraffic s (opA p a s) 128) fun s =>
    let va := opA p a s
    if d = 0#4 then .trap (mkErr 0x10 s.ctx.pc 1#64)
    else if va.toNat % 16 ≠ 0 then .trap (mkErr 4 va 0#64)
    else if s.ctx.accessHeld then .hold
    else match readPieces s va 8 with
      | .error r => r
      | .ok img =>
        let c := stateCount img
        let bad := img.any fun b =>
          let e := b.toNat % 128
          (entAct e == .ok || entAct e == .noData) && decide (c ≤ entNext e)
        if s.autBusy s.asid d then .trap (mkErr 0x0F s.ctx.pc (d.setWidth 64))
        else if bad then .trap (mkErr 0x10 s.ctx.pc 2#64)
        else if !s.released 4 then .hold
        else
          let s := (s.touchAll (pieces va 16 8) 16).release 4
          .ok { s with auts := mset s.auts (s.asid.toNat * 16 + d.toNat) img }) s

end Sys2Proof.Machine
end

