-- ==== Sys2Proof/Machine/Tasks.lean ====
section
/-! DEFINITION. Sys2Proof/Machine/Tasks.lean: frames and continuation records (12 R297 to R299), leaving a slot (04 R95, 05 R118
to R121), the send buffer and what it delivers (12 R290, R291, R297), and the dispatcher (R300 to R303). -/

namespace Sys2Proof.Machine

/-! ### Frames (R298, R299) -/

/-- Offsets in a frame (Table 12-5). -/
def fSTATE : Nat := 0x08
def fCELL : Nat := 0x09
def fIQ : Nat := 0x10
def fMQ : Nat := 0x14
def fIBUD : Nat := 0x18
def fMBUD : Nat := 0x1C
def fFTADDR : Nat := 0x20
def fFTINFO : Nat := 0x28
def fIGW : Nat := 0x30
def fMGW : Nat := 0x34
def fJOIN : Nat := 0x38
def fCPC : Nat := 0x40
def fLIVE : Nat := 0x48
def fS (n : Nat) : Nat := 0x50 + 8 * n

/-- Fields of the frame at a memory key. -/
def State.f32 (s : State) (key off : Nat) : BitVec 32 := BitVec.ofNat 32 (rdN s.mem (key + off) 4)
def State.f64 (s : State) (key off : Nat) : Word := rd64 s.mem (key + off)
def State.setF (s : State) (t key off n : Nat) (v : Nat) : State := s.putN t (key + off) n v
def State.setF32 (s : State) (t key off : Nat) (v : BitVec 32) : State := s.setF t key off 4 v.toNat
def State.setF64 (s : State) (t key off : Nat) (v : Word) : State := s.setF t key off 8 v.toNat

/-- The lowest free frame among `n` frames from `base` on. -/
def freeFrom (used : List Word) : Nat → Word → Option Word
  | 0, _ => none
  | n + 1, f => if used.contains f then freeFrom used n (f + 256#64) else some f
def Tile.inUse (x : Tile) : List Word := (x.used.filter (·.1 == x.asid)).map (·.2)
/-- AllocFrame takes the lowest-numbered free frame of the pool; R299 names none (DESIGN CHOICE, log entry 35). -/
def Tile.freeFrame (x : Tile) : Option Word := freeFrom x.inUse (min x.poolSize.toNat (x.inUse.length + 1)) x.poolBase

/-- A free frame that the tile can reach, with its memory key. -/
def State.newFrame (s : State) (t : Nat) : Option (Word × Nat) :=
  match (s.tile t).freeFrame with
  | none => none
  | some f => (s.frameKey t f).map fun k => (f, k)

/-- Tile `t` uses the first `n` bytes of frame `f`: the walk and the reads meet the correctable errors of their lines (10 R244). -/
def State.meetFrame (s : State) (t : Nat) (f : Word) (n : Nat) : State :=
  if s.flaws = [] || f == 0#64 then s
  else
    let s := s.meetPath t (s.asidOf t) f.toNat
    match s.frameKey t f with | some key => s.meetLines t key n | none => s

/-- Set up a frame: its other bytes are 0. -/
def State.initFrame (s : State) (t : Nat) (f : Word) (key : Nat) (entry : Word) (iq mq : BitVec 32) (join : Word) (pos : Nat) : State :=
  let s := s.setTile t { s.tile t with used := (s.asidOf t, f) :: (s.tile t).used }
  let s := s.perform t (wbytes key (List.replicate 256 0#8))
  let s := s.setF64 t key 0 entry
  let s := s.setF t key fCELL 1 pos
  let s := (s.setF32 t key fIQ iq).setF32 t key fMQ mq
  s.setF64 t key fJOIN (join ||| 1#64)

def State.dropFrame (s : State) (t : Nat) (f : Word) : State :=
  s.setTile t { s.tile t with used := (s.tile t).used.filter (· != (s.asidOf t, f)) }

/-! ### Leaving a slot -/

/-- What belongs to the slot stays with it (04 Table 04-1), and the stores that an EXIT has left unperformed (R95). -/
def Ctx.fresh (c : Ctx) (live : Bool) : Ctx :=
  { Ctx.reset with
    live := live, win := c.win, pspill := c.pspill, tvec := c.tvec, ks := c.ks
    pend := c.pend.filter fun p => match p with | .store _ _ _ => true | .load _ _ _ _ _ _ _ _ => false }

/-- The slot is freed: bindings released (08 R207), parked access withdrawn, a waiting vector instruction gone, window free. -/
def State.freeSlot (s : State) (c n : Nat) : State :=
  let s := s.dropStreams c n
  let s := { s with parked := s.parked.filter fun q => q.who != Who.ctx (BitVec.ofNat 16 c) (BitVec.ofNat 4 n) }
  let s := s.setCell c { s.cell c with vq := (s.cell c).vq.filter fun e => !((e.kind == .waits || e.kind == .release) && e.slot == BitVec.ofNat 4 n) }
  s.setCtxAt c n ((s.ctxAt c n).fresh false)

/-- ClaimGrants: the grant words of a frame, read and cleared (05 R121). -/
def State.claimGrants (s : State) (t key : Nat) : BitVec 32 × BitVec 32 × State :=
  let i := s.f32 key fIGW
  let m := s.f32 key fMGW
  (i, m, (s.setF32 t key fIGW 0#32).setF32 t key fMGW 0#32)

/-- The registers of a slot that is left stay in its window as a parked image of its record (04 R77). -/
def State.parkImage (s : State) (c n : Nat) : State :=
  let x := s.cell c
  let y := x.slot n
  s.setCell c { x with parkw := x.parkw.filter (fun q => q.1 != y.win.toNat && q.2.1 != y.ident) ++ [(y.win.toNat, y.ident, y.regs)] }

/-- The saved registers of a record. -/
def saveRegs (t key : Nat) (c : Ctx) (mask : BitVec 16) (s : State) : State :=
  (List.range 16).foldl (fun s n => s.setF64 t key (fS n) (if mask.getLsbD n then vget c.regs n 0#64 else 0#64)) s

/-- Write the continuation record of slot (c, n) (05 R118, 12 R298); after a PMREQ it holds the copied ibud (05 R125). -/
def State.saveRecord (s : State) (c n key : Nat) (cpc : Word) (mask : BitVec 16) (reason : BitVec 3) : State :=
  let t := c / 16
  let x := s.ctxAt c n
  let s := s.meetFrame t x.ident 256
  let ib := match x.preq with | some q => q.saved.count | none => x.ibud.count
  let (gi, gm, s) := s.claimGrants t key
  let s := (s.setF32 t key fIBUD ib).setF32 t key fMBUD x.mbud.count
  let s := (s.setF64 t key fFTADDR 0#64).setF64 t key fFTINFO 0#64
  let s := (s.setF32 t key fIGW (addSat x.iallow gi)).setF32 t key fMGW (addSat x.mallow gm)
  let j := (s.f64 key fJOIN &&& ~~~0x300#64) ||| (x.bpol.setWidth 64 <<< 8)
  let s := s.setF64 t key fJOIN j
  let s := s.setF64 t key fCPC ((cpc &&& 0x01FFFFFFFFFFFFFE#64) ||| (reason.setWidth 64 <<< 61))
  (saveRegs t key x mask (s.setF64 t key fLIVE (mask.setWidth 64))).parkImage c n

/-- Refill of one kind (05 R119): what is left, the allowance, the units gained. -/
def refillKind (quantum left allow : BitVec 32) : BitVec 32 × BitVec 32 × Nat :=
  let take := min (quantum.toNat - left.toNat) allow.toNat
  (left + BitVec.ofNat 32 take, allow - BitVec.ofNat 32 take, take)

/-- Refill a frame; whether the kind that reason names gained a unit. -/
def State.refillFrame (s : State) (t key : Nat) (reason : BitVec 3) : Bool × State :=
  let (ib, ia, gi) := refillKind (s.f32 key fIQ) (s.f32 key fIBUD) (s.f32 key fIGW)
  let (mb, ma, gm) := refillKind (s.f32 key fMQ) (s.f32 key fMBUD) (s.f32 key fMGW)
  let s := (s.setF32 t key fIBUD ib).setF32 t key fMBUD mb
  (decide (0 < (if reason = 1#3 then gi else gm)), (s.setF32 t key fIGW ia).setF32 t key fMGW ma)

/-! ### The send buffer (R289, R290) -/

def Out.isMsg : Out → Bool
  | .spawn _ _ _ _ _ _ => false
  | _ => true
/-- A place is free among the eight of a cell. -/
def Cell.sendRoom (x : Cell) : Bool := decide ((x.sendq.filter Out.isMsg).length < 8)
def State.post (s : State) (c : Nat) (o : Out) : State :=
  let x := s.cell c
  s.setCell c { x with sendq := x.sendq ++ [o] }

/-- The task that sent an item, 0 for none that a kill could name. -/
def Out.sender : Out → Word
  | .msg _ _ _ _ _ _ _ _ f => f
  | .join _ _ _ _ _ _ _ f => f
  | .spawn _ _ _ _ _ _ => 0#64
def Out.orphan : Out → Out
  | .msg m t off c ws g q sc _ => .msg m t off c ws g q sc 0#64
  | .join j f k i m g sc _ => .join j f k i m g sc 0#64
  | o => o
def Out.modu (dev : BitVec 10) : Out → BitVec 10
  | .msg m _ _ _ _ _ _ _ _ => m
  | .join j _ _ _ _ _ _ _ => joinModule j
  | .spawn _ _ _ _ _ _ => dev

/-- The tile and space tag that an item is for, when it is for this module. -/
def Out.tile : Out → Nat
  | .msg _ t _ _ _ _ _ _ _ => t.toNat
  | .join j _ _ _ _ _ _ _ => (joinTile j).toNat
  | .spawn t _ _ _ _ _ => t.toNat
def Out.tag : Out → BitVec 16
  | .msg _ _ _ _ _ g _ _ _ => g
  | .join _ _ _ _ _ g _ _ => g
  | .spawn _ _ _ _ g _ => g

/-- The space tag of a message to a module (R291). -/
def State.tagFor (s : State) (modu : BitVec 10) (asid : BitVec 12) : BitVec 16 :=
  if modu = s.fab.devid then spaceTag asid else mget s.ftags asid.toNat 0#16
/-- The narrowest scope that spans a tile and another tile of a module (R273). -/
def State.spanTo (s : State) (t : Nat) (modu : BitVec 10) (u : Nat) : Nat := if modu = s.fab.devid then scopeOf t u else 5

/-- A join increment leaves cell `c` (R297): discarded and logged when it cannot be delivered. -/
def State.sendJoin (s : State) (c : Nat) (f j : Word) (kind : BitVec 8) (iref mref : BitVec 32) : State :=
  let t := c / 16
  if joinNull j then s
  else if !s.fab.domain.contains (joinModule j) || decide (computeTiles ≤ (joinTile j).toNat) then
    s.logViolation t f c (joinTile j).toNat 5 0
  else s.post c (.join j f kind iref mref (s.tagFor (joinModule j) (s.asidOf t)) (s.spanTo t (joinModule j) (joinTile j).toNat) f)

/-! ### Ending a task (04 R95, 14 R354, R400) -/

/-- Helper-join entries of a cell when identity `f` ends (12 R307); `refund` is none at a kill. A kill of the helper frees its entry,
so that a waiting HJOIN finds none and completes: R307 does not name that kill (DESIGN CHOICE, log entry 35). -/
def hjoinEnd (f : Word) (refund : Option (BitVec 32 × BitVec 32)) (e : HJoin) : Option HJoin :=
  if e.helper = f ∧ !e.done then
    match refund with
    | some (i, m) => if e.starter = 0#64 then none else some { e with done := true, iref := addSat e.iref i, mref := addSat e.mref m }
    | none => none
  else if e.starter = f then (if e.done then none else some { e with starter := 0#64 })
  else some e

/-- The tag runs a command that identity `f` of address space `a` has issued. -/
def Tag.isOf (x : Tag) (f : Word) (a : BitVec 12) : Bool :=
  x.busy && x.issuer == f && match x.cmd with | some q => q.asid == a | none => false
/-- A command that is to stop at its stop unit. -/
def Tag.halt (x : Tag) : Tag := { x with cmd := x.cmd.map fun q => { q with stop := true } }
/-- Engine commands of a killed task of tile `t` stop at their stop units (13 R336): a tag, and all tags of the tile. -/
def Tag.haltOf (f : Word) (a : BitVec 12) (g : Tag) : Tag := if g.isOf f a then g.halt else g
def State.stopCommands (s : State) (t : Nat) (f : Word) : State :=
  s.eachCell t fun x => { x with tags := mkVec Tag.idle fun i => Tag.haltOf f (s.asidOf t) (vget x.tags i Tag.idle) }
/-- Task `f` of the space of tile `t` has sent the item: its space tag tells the spaces apart. -/
def State.sentBy (s : State) (t : Nat) (f : Word) (o : Out) : Bool :=
  f != 0#64 && o.sender == f && o.tag == s.tagFor (o.modu s.fab.devid) (s.asidOf t)
/-- What a killed task has sent toward a module that no path reaches is dropped (15 R367). -/
def State.dropSent (s : State) (t : Nat) (f : Word) : State :=
  if s.fab.lost = [] then s
  else s.eachCell t fun x => { x with sendq := x.sendq.filter fun o => !s.sentBy t f o || !s.fab.lost.contains (o.modu s.fab.devid) }
/-- Task `f` is over: what it has sent is no longer a task's that a kill could name. -/
def State.orphanSent (s : State) (t : Nat) (f : Word) (q : List Out) : List Out :=
  q.map fun o => if s.sentBy t f o then o.orphan else o

/-- The context of slot (c, n) ends: at EXIT with kind 0, by the service kernel with 0x80 plus a cause, or killed. -/
def State.endTask (s : State) (c n : Nat) (kind : Option (BitVec 8)) : State :=
  let t := c / 16
  let x := s.ctxAt c n
  let f := x.ident
  let ib := match x.preq with | some q => q.saved | none => x.ibud
  let s := s.meetFrame t f 64
  let (gi, gm, j, s) := match (if f = 0#64 then none else s.frameKey t f) with
    | some key =>
      let (gi, gm, s) := s.claimGrants t key
      (gi, gm, s.f64 key fJOIN, s)
    | none => (0#32, 0#32, 0#64, s)
  let ri := if ib.unm then 0#32 else addSat (addSat ib.count x.iallow) gi
  let rm := if x.mbud.unm then 0#32 else addSat (addSat x.mbud.count x.mallow) gm
  let s := match kind with
    | some k => s.sendJoin c f j k ri rm
    | none => (s.stopCommands t f).dropSent t f
  let s := if f = 0#64 then s
    else s.eachCell t fun y => { y with
      hjoin := y.hjoin.filterMap (hjoinEnd f (kind.map fun _ => (ri, rm))), sendq := s.orphanSent t f y.sendq }
  let s := (s.freeBanks t f).dropFrame t f
  (s.freeSlot c n).withdrawAfter c n

/-- A context may leave: its queues are done and its accesses performed (05 R118, 11 R276). -/
def State.canLeave (s : State) : Bool := s.queuesDone && s.ctx.pend.isEmpty

/-- The join reference of the acting context, 0 for none. -/
def State.joinRef (s : State) : Word :=
  match (if s.ctx.ident = 0#64 then none else s.frameKey s.tid s.ctx.ident) with
  | some key => s.f64 key fJOIN
  | none => 0#64
/-- The acting context is a helper whose entry is still open: its EXIT makes a release at cell scope (12 R307). -/
def State.isHelper (s : State) : Bool := s.myCell.hjoin.any fun e => e.helper == s.ctx.ident && !e.done
/-- EXIT may end the context (04 R95): its queues are done, its loads complete, and what its release covers, its join's or a
helper's, is performed. Its other stores may be performed after it. -/
def State.canExit (s : State) : Bool :=
  let j := s.joinRef
  s.queuesDone && (s.ctx.pend.all fun p => match p with | .store _ _ _ => true | .load _ _ _ _ _ _ _ _ => false) &&
  (joinNull j || s.released (s.spanTo s.tid (joinModule j) (joinTile j).toNat)) && (!s.isHelper || s.released 0)

/-- EXIT (04 R95): it waits for its queues, its release and, where it sends a join increment, a place for it. -/
def execExit (p : Pfx) (d a : BitVec 4) (s : State) : Result :=
  issue (.exit p d a) (plain 1 fun s =>
    if !s.canExit || !(joinNull s.joinRef || s.myCell.sendRoom) then .closing else .left (s.endTask s.cid s.sid (some 0#8))) s

/-! ### The ready queue -/

/-- The requeue place of a slot of its tile, and whether it is free (R300). -/
def placeOf (c n : Nat) : Nat := 11 * (c % 16) + n
def Tile.placeFree (x : Tile) (k : Nat) : Bool := x.rq.all fun e => e.own != some k

/-- A frame enters the queue in requeue place `k`. -/
def State.requeue (s : State) (t : Nat) (f : Word) (key scope ilen k : Nat) : State :=
  let s := s.setF t key fSTATE 1 1
  let e : RqEntry := { frameEntry s.mem (BitVec.ofNat 64 key) (some k) scope none with frame := f, ilen := ilen }
  s.setTile t { s.tile t with rq := (s.tile t).rq ++ [e] }

/-- The highest-numbered free WTT entry (R294). -/
def freeEntry (x : Tile) : Nat → Option Nat
  | 0 => none
  | n + 1 => if (x.entry n).st = 0#2 then some n else freeEntry x n

/-- Notify the parent of a record that stands in its frame (05 R119, 12 R297). -/
def State.notify (s : State) (c : Nat) (f : Word) (key : Nat) (reason : BitVec 3) : State :=
  s.sendJoin c f (s.f64 key fJOIN) (reason.setWidth 8) 0#32 0#32

/-- Disposal as under POL 1: parked in WTT entry `e`, the slot freed. -/
def State.parkNotified (s : State) (c n e : Nat) (f : Word) (key : Nat) (reason : BitVec 3) : State :=
  let t := c / 16
  let s := s.setF t key fSTATE 1 2
  let s := s.setTile t ((s.tile t).setEntry e ⟨f, 0#32, 3#2, false, true, 0#10, none⟩)
  (s.notify c f key reason).freeSlot c n

/-- BUDGET_YIELD (05 R118, R119): the selected context, which has begun a yield, leaves its slot. -/
def execBudgetYield (s : State) : Result :=
  let c := s.cid
  let n := s.sid
  let t := s.tid
  let x := s.ctx
  match x.wait with
  | .leaving reason =>
    let disp := match x.preq with | some q => q.disp | none => 0#2
    if !s.canLeave then .next s.closeStreams
    else if reason = 3#3 ∧ disp = 2#2 then .next (s.endTask c n none)
    else match s.frameKey t x.ident with
      | none => .next s
      | some key =>
        let saved := s.saveRecord c n key x.cont x.cmask reason
        let place := placeOf c n
        let requeue (t' : State) : Result :=
          if (s.tile t).placeFree place then .next ((t'.freeSlot c n).requeue t x.ident key 1 0 place) else .next s
        if reason = 1#3 ∨ reason = 2#3 then
          let (gained, refilled) := if x.bpol = 0#2 then saved.refillFrame t key reason else (false, saved)
          if gained then requeue refilled
          else match freeEntry (s.tile t) 512 with
            | some e => if s.myCell.sendRoom then .next (refilled.parkNotified c n e x.ident key reason) else .next s
            | none => .next s
        else if reason = 3#3 ∧ disp ≠ 0#2 then .next ((saved.setF t key fSTATE 1 4).freeSlot c n)
        else requeue saved
  | _ => .next s

/-! ### Delivery (R290, R291, R297, R305) -/

/-- What a message does to its tile: the words, the increment. -/
def applyMsg (t : Nat) (off : Nat) (words : List Word) (ctr : Nat) (scope : Nat) (iref mref : BitVec 32) (s : State) : State :=
  let s := s.write t (wbytes (scratchKey t off) (words.flatMap fun w => leBytes 8 w.toNat))
  s.bump t ctr 1#32 scope iref mref

/-- RECV, and the sender's cell and sequence number in RLAST, of the tile's partition (14 R358). -/
def Tile.received (x : Tile) (c : Nat) (seq : BitVec 32) : Tile :=
  let a := x.asid.toNat
  { x with
    recv := mset x.recv a (mget x.recv a 0#64 + 1#64)
    rlast := mset x.rlast a (((seq ++ BitVec.ofNat 32 c) :: mget x.rlast a []).take 4) }

/-- The entry that a SPAWN enqueues. -/
def spawnEntry (r : Vector Word 8) (kernel : Bool) (scope : Nat) : RqEntry :=
  ⟨some r, 0#64, true, kernel, joinPrio (vget r 7 0#64), 0, none, scope, none, 0⟩
def State.enqueueRq (s : State) (t : Nat) (e : RqEntry) : State := s.setTile t { s.tile t with rq := (s.tile t).rq ++ [e] }

/-- Apply an item to a tile whose resident space has its tag; `c` is the sender's cell. -/
def State.applyOut (s : State) (c : Nat) (o : Out) : State :=
  match o with
  | .msg _ t off ctr ws _ seq scope _ =>
    let s := s.setTile t.toNat ((s.tile t.toNat).received c seq)
    applyMsg t.toNat off.toNat ws ctr.toNat scope 0#32 0#32 s
  | .join j f kind iref mref _ scope _ =>
    let words := if joinSoff j = 0#17 then [] else [(f &&& ~~~0xFF#64) ||| kind.setWidth 64]
    applyMsg (joinTile j).toNat (8 * (joinSoff j).toNat) words (joinCtr j).toNat scope iref mref s
  | .spawn t r k _ _ scope => s.enqueueRq t.toNat (spawnEntry r k scope)

/-! ### Message logs (R291) -/

/-- The address space that a message's tag names: an asid within the module, else the space to which the kernel gave the fabric
tag; a tag that no space has stands for itself. -/
def State.spaceOf (s : State) (remote : Bool) (tag : BitVec 16) : Nat :=
  if remote then (match s.ftags.find? (·.2 == tag) with | some e => e.1 | none => 65536 + tag.toNat) else tag.toNat
def State.logOf (s : State) (a : Nat) : List (Nat × Out) := mget s.mlogs a []
/-- The items logged for a tile, of one space and of all; the log has room for LOGSIZE / 128 of them (log entry 34). -/
def State.loggedFor (s : State) (t a : Nat) : List (Nat × Out) := (s.logOf a).filter fun e => e.2.tile == t
def State.logged (s : State) (t : Nat) : Nat := s.mlogs.foldl (fun n e => n + (e.2.filter fun e => e.2.tile == t).length) 0
def State.logRoom (s : State) (t : Nat) : Bool := decide (s.logged t < (s.tile t).logSize.toNat / 128)
/-- Append an item of cell `c` to the message log of space `a`. -/
def State.logOut (s : State) (a c : Nat) (o : Out) : State := { s with mlogs := mset s.mlogs a (s.logOf a ++ [(c, o)]) }

def Out.isSpawn : Out → Bool
  | .spawn _ _ _ _ _ _ => true
  | _ => false
/-- An item of the resident space is applied at once, after everything that was logged before it. -/
def State.applies (s : State) (a : Nat) (o : Out) : Bool :=
  (s.asidOf o.tile).toNat == a && (s.loggedFor o.tile a).isEmpty

/-- An item of space `a` has reached its tile: it is applied, or logged, or held at the ingress while the log is full. -/
def State.deliver (s : State) (a c : Nat) (o : Out) : State :=
  if s.applies a o then s.applyOut c o
  else if s.logRoom o.tile then s.logOut a c o
  else s.setTile o.tile { s.tile o.tile with ingress := some (a, c, o) }

/-- The item that a tile's ingress holds is applied or logged once that is possible; a SPAWN of the resident space enters the ready
queue only when that accepts it (R300). -/
def State.flushIngress (s : State) (t : Nat) : State :=
  match (s.tile t).ingress with
  | none => s
  | some (a, c, o) =>
    if (if s.applies a o then !o.isSpawn || (s.tile t).accepts else s.logRoom t) then
      (s.setTile t { s.tile t with ingress := none }).deliver a c o
    else s

/-- Apply logged items in their order. A SPAWN waits until the ready queue accepts it (R300), and what was logged after it stays
logged until a dispatch has made room, since R291 keeps the log's order (DESIGN CHOICE, log entry 35). -/
def replayList (t : Nat) : List (Nat × Out) → State → List (Nat × Out) × State
  | [], s => ([], s)
  | (c, o) :: l, s => if o.isSpawn && !(s.tile t).accepts then ((c, o) :: l, s) else replayList t l (s.applyOut c o)
/-- The kernel has restored a space onto tile `t`: its logged messages for the tile are applied (R291). -/
def State.replay (s : State) (t : Nat) : State :=
  let a := (s.asidOf t).toNat
  match s.loggedFor t a with
  | [] => s
  | l =>
    let s : State := { s with mlogs := mset s.mlogs a ((s.logOf a).filter fun e => e.2.tile != t) }
    let r := replayList t l s
    { r.2 with mlogs := mset r.2.mlogs a (r.1 ++ r.2.logOf a) }

/-- The kernel makes a space resident on a tile: on a running one, what was logged for it there is applied before any context issues
(R291); on a stopped one that is done at the restart. -/
def State.enterSpace (s : State) (t : Nat) (a : BitVec 12) : State :=
  let s := s.changeSpace t a
  if (s.tile t).run = .running then (s.replay t).flushIngress t else s

/-- No earlier item of the buffer goes to the same tile (R290). -/
def firstTo (q : List Out) (dev : BitVec 10) (k : Nat) (o : Out) : Bool :=
  (q.take k).all fun x => !x.isMsg || x.tile != o.tile || x.modu dev != o.modu dev

/-- Deliver the k-th item of the selected cell's buffer if `ok` accepts it: to its tile, or out to its module. -/
def deliverK (ok : Out → Bool) (s : State) : Result :=
  let x := s.myCell
  let dev := s.fab.devid
  match x.sendq[s.sel.k]? with
  | none => .next (s.flushIngress s.tid)
  | some o =>
    if o.modu dev == dev && (s.tile o.tile).ingress.isSome then .next (s.flushIngress o.tile)
    else if !ok o || !firstTo x.sendq dev s.sel.k o || (o.modu dev == dev && !s.clocked o.tile) then .next s
    else
      let t := s.setMyCell { x with sendq := x.sendq.eraseIdx s.sel.k }
      if o.modu dev = dev then .next (t.deliver o.tag.toNat s.cid o)
      else if s.fab.lost.contains (o.modu dev) then .next s
      else .next { t with fab := { t.fab with out := t.fab.out ++ [(o.modu dev, o)] } }

/-- MESSAGE_DELIVERY and JOIN_INCREMENT. -/
def execMessageDelivery (s : State) : Result :=
  deliverK (fun o => match o with | .msg _ _ _ _ _ _ _ _ _ => true | _ => false) s
def execJoinIncrement (s : State) : Result :=
  deliverK (fun o => match o with | .join _ _ _ _ _ _ _ _ => true | _ => false) s

/-- SPAWN_ENQUEUE: the k-th item of the selected cell's buffer, a record copy, reaches its tile (R305). -/
def execSpawnEnqueue (s : State) : Result :=
  let x := s.myCell
  match x.sendq[s.sel.k]? with
  | some (.spawn t r kern place tag scope) =>
    let u := t.toNat
    let y := s.tile u
    if y.ingress.isSome then .next (s.flushIngress u)
    else if !s.clocked u || (!place && spaceTag y.asid = tag && !y.accepts) then .next s
    else
      let s := s.setMyCell { x with sendq := x.sendq.eraseIdx s.sel.k }
      let s := if place then s.setTile u { s.tile u with resv := (s.tile u).resv - 1 } else s
      .next (s.deliver tag.toNat s.cid (.spawn t r kern place tag scope))
  | _ => .next s

/-- FIRED_PENDING_ENQUEUE: a freed place of the selected cell's tile goes to the lowest-numbered fired-pending entry (R300). An
entry that an image from elsewhere has brought, with nothing held, reads its record or its frame now (log entry 15); a record that
cannot be read is entered in the violation log, as at the firing (R296). -/
def execFiredPendingEnqueue (s : State) : Result :=
  let t := s.tid
  let x := s.myTile
  if 256 ≤ x.queued then .next s
  else match x.wtt.find? (fun e => e.2.st == 2#2) with
    | none => .next s
    | some (e, w) =>
      let put (s : State) (r : RqEntry) : State :=
        let x := s.tile t
        s.setTile t { x with rq := x.rq ++ [r], wtt := mset x.wtt e w.fired }
      match w.held with
      | some r => .next (put s r)
      | none =>
        let s := s.noteRecord t w.record
        if w.frame then .next (put s (s.frameRq t w.record 6 none))
        else match s.takeRecord t w.record 6 with
          | some (r, s) => .next (put s r)
          | none =>
            let s := s.logViolation t w.record 0 0 4 0
            .next (s.setTile t { s.tile t with wtt := mset x.wtt e w.fired })

/-! ### The dispatcher (R301 to R303) -/

/-- A restore is due for a slot: the dispatcher leaves it alone (14 R347). -/
def State.restoreDue (s : State) (c n : Nat) : Bool :=
  s.away.any fun w => w.due && w.cell == c && w.slot == n
def State.slotFree (s : State) (c n : Nat) : Bool := !(s.ctxAt c n).live && !s.restoreDue c n
/-- The lowest-numbered free helper slot. -/
def State.helperSlot (s : State) (c : Nat) : Option Nat := ((List.range 11).drop 1).find? fun n => s.slotFree c n
def State.liveCount (s : State) (c : Nat) : Nat := ((s.cell c).slots.toList.filter (·.live)).length

/-- The cell with the fewest live contexts among those with a free helper slot, lowest position on ties. -/
def State.emptiest (s : State) (t : Nat) : Option (Nat × Nat) :=
  (((List.range 16).map (t * 16 + ·)).foldl (fun (best : Option (Nat × Nat × Nat)) c =>
    match s.helperSlot c with
    | none => best
    | some n =>
      match best with
      | some (_, _, k) => if s.liveCount c < k then some (c, n, s.liveCount c) else best
      | none => some (c, n, s.liveCount c)) none).map fun r => (r.1, r.2.1)

/-- The first of these cells with a free helper slot. -/
def State.firstHelper (s : State) (cs : List Nat) : Option (Nat × Nat) :=
  (cs.filterMap fun c => (s.helperSlot c).map fun n => (c, n)).head?

/-- The cell to which a helper's frame is bound (R306): its helper-join entry is there. -/
def State.helperCell (s : State) (t : Nat) (f : Word) : Option Nat :=
  ((List.range 16).map (t * 16 + ·)).find? fun c => (s.cell c).hjoin.any fun e => e.helper == f && !e.done

/-- Where an entry can be bound now (R302). -/
def State.placeFor (s : State) (t : Nat) (e : RqEntry) : Option (Nat × Nat) :=
  let aff (j : Word) : List Nat := if joinAfe j then [t * 16 + joinAff j] else []
  let at_ (cs : List Nat) : Option (Nat × Nat) := match s.firstHelper cs with | some r => some r | none => s.emptiest t
  match e.copy with
  | some r =>
    let j := vget r 7 0#64
    if (s.newFrame t).isNone then none
    else if joinCtl j then
      (((List.range 16).map (t * 16 + ·)).find? fun c => (List.range 11).all fun n => s.slotFree c n).map fun c => (c, 0)
    else at_ (aff j)
  | none =>
    match s.frameKey t e.frame with
    | none => none
    | some key =>
      match s.helperCell t e.frame with
      | some c => (s.helperSlot c).map fun n => (c, n)
      | none => at_ ((t * 16 + rdN s.mem (key + fCELL) 1 % 16) :: aff (s.f64 key fJOIN))

/-- The order in which entries are tried (R301), by index. -/
def dispatchOrder (q : List RqEntry) : List Nat :=
  let ids := List.range q.length
  let sel (f : RqEntry → Bool) : List Nat := ids.filter fun i => match q[i]? with | some e => f e | none => false
  sel (fun e => decide (256 ≤ e.bypass)) ++ [3, 2, 1, 0].flatMap fun p => sel fun e => e.prio == p && decide (e.bypass < 256)

/-- Bind a fresh task to slot (c, n) (R303). -/
def State.bindFresh (s : State) (c n : Nat) (e : RqEntry) (r : Vector Word 8) : State :=
  let t := c / 16
  match s.newFrame t with
  | none => s
  | some (f, key) =>
    let w (k : Nat) : Word := vget r k 0#64
    let ig := (w 5).extractLsb' 0 32
    let mg := (w 5).extractLsb' 32 32
    let gi := (w 6).extractLsb' 0 32
    let gm := (w 6).extractLsb' 32 32
    let j := w 7
    let ib := if e.paid then ig else BitVec.ofNat 32 (min ig.toNat gi.toNat)
    let mb := if e.paid then mg else BitVec.ofNat 32 (min mg.toNat gm.toNat)
    let s := s.initFrame t f key (w 0) ig mg j (c % 16)
    let x := (s.ctxAt c n).fresh true
    let x : Ctx := { x with
      pc := w 0 &&& ~~~1#64
      ident := f
      ibud := ⟨e.kernel && joinUnmI j, ib⟩
      mbud := ⟨e.kernel && joinUnmM j, mb⟩
      iallow := if e.paid then gi else gi - ib
      mallow := if e.paid then gm else gm - mb
      bpol := joinBpol j
      regs := vset (vset (vset (vset x.regs 0 (w 1)) 1 (w 2)) 2 (w 3)) 3 (w 4) }
    (s.setLive c n x).beginAt c n e.scope

/-- The refunds of the counter that fired an entry, taken at the resume (R308, 05 R121). -/
def State.takeRefunds (s : State) (t : Nat) (k : Option (BitVec 10)) : BitVec 32 × BitVec 32 × State :=
  match k with
  | none => (0#32, 0#32, s)
  | some k =>
    let x := s.tile t
    let q := x.ctr k.toNat
    (q.iref, q.mref, s.setTile t (x.setCtr k.toNat { q with iref := 0#32, mref := 0#32 }))

/-- Resume a frame in slot (c, n) (R303, R308, 05 R119, R121). -/
def State.bindFrame (s : State) (c n : Nat) (e : RqEntry) (key : Nat) : State :=
  let t := c / 16
  let s := s.meetFrame t e.frame 256
  let cpc := s.f64 key fCPC
  let reason := cpc.extractLsb' 61 3
  let j := s.f64 key fJOIN
  let (gi, gm, s) := s.claimGrants t key
  let (ri, rm, s) := s.takeRefunds t e.ctr
  let gi := addSat gi ri
  let gm := addSat gm rm
  let ref := reason == 1#3 || reason == 2#3
  let ib := s.f32 key fIBUD
  let mb := s.f32 key fMBUD
  let (ib, ia, _) := if ref then refillKind (s.f32 key fIQ) ib gi else (ib, gi, 0)
  let (mb, ma, _) := if ref then refillKind (s.f32 key fMQ) mb gm else (mb, gm, 0)
  let live := (s.f64 key fLIVE).extractLsb' 0 16
  let s := (s.setF t key fSTATE 1 0).setF t key fCELL 1 (c % 16)
  let x := (s.ctxAt c n).fresh true
  let x := { x with
    pc := cpc &&& 0x01FFFFFFFFFFFFFE#64
    ident := e.frame
    ibud := ⟨e.kernel && joinUnmI j, ib⟩
    mbud := ⟨e.kernel && joinUnmM j, mb⟩
    iallow := ia
    mallow := ma
    bpol := joinBpol j
    regs := mkVec 0#64 fun k => if live.getLsbD k then s.f64 key (fS k) else 0#64 }
  let s := (s.setLive c n x).beginAt c n (max 1 e.scope)
  if reason = 6#3 then
    let sel := s.sel
    let s := { s with sel := ⟨BitVec.ofNat 16 c, BitVec.ofNat 4 n, 0⟩ }
    { s.takeTrap (mkErr 7 (s.f64 key fFTADDR) (s.f64 key fFTINFO)) e.ilen with sel := sel }
  else s

/-- DISPATCH: the selected cell's tile binds one entry; the place that it frees may let a logged SPAWN in. Service tiles run in
every power state (15 R372). -/
def execDispatch (s : State) : Result :=
  let t := s.tid
  let x := s.myTile
  if x.run ≠ .running ∨ (s.host.pstate ≠ 0#2 ∧ t < computeTiles) then .next s
  else
    let cand := (dispatchOrder x.rq).filterMap fun i =>
      match x.rq[i]? with
      | some e => (s.placeFor t e).map fun r => (i, e, r)
      | none => none
    match cand.head? with
    | none => .next s
    | some (i, e, c, n) =>
      let pass (f : RqEntry) : RqEntry := if f.prio < e.prio then { f with bypass := f.bypass + 1 } else f
      let s := s.setMyTile { x with rq := (x.rq.eraseIdx i).map pass }
      match e.copy with
      | some r => .next ((s.bindFresh c n e r).replay t)
      | none =>
        match s.frameKey t e.frame with
        | some key => .next ((s.bindFrame c n e key).replay t)
        | none => .next s

end Sys2Proof.Machine
end

