-- ==== Sys2Proof/Machine/TaskOps.lean ====
section
/-! DEFINITION. Sys2Proof/Machine/TaskOps.lean: the instructions of page 5 on messages, counters, the waiting-task table, tasks,
deques and budgets (12 R289 to R310, 05 R121 to R124). -/

namespace Sys2Proof.Machine

/-- Message destination invalid (R292). -/
def dErr (reason : Nat) (s : State) : Err := mkErr 0x14 s.ctx.pc (BitVec.ofNat 64 reason)

/-! ### SEND (R289) -/

/-- Fields of a destination word. -/
def dwModule (w : Word) : BitVec 10 := w.extractLsb' 54 10
def dwTile (w : Word) : BitVec 12 := w.extractLsb' 42 12
def dwOff (w : Word) : BitVec 20 := w.extractLsb' 22 20
def dwCtr (w : Word) : BitVec 10 := w.extractLsb' 12 10
def dwCount (w : Word) : Nat := (w.extractLsb' 9 3).toNat + 1

/-- SEND: its words leave as the context's accesses do: after its release at the message's scope and after the acquires that cover
it (11 R268, R269, R273). Words beyond s15 are illegal, which is judged before the charge (14 R340). -/
def execSend (p : Pfx) (d a : BitVec 4) (s : State) : Result :=
  issue (.send p d a) { memory 2 (fun s =>
      let w := opD p d s
      if dwModule w = s.fab.devid ∧ (dwTile w).toNat = s.tid then 0 else units (8 * dwCount w)) (fun s =>
    let w := opD p d s
    let n := dwCount w
    if !s.fab.domain.contains (dwModule w) then .trap (dErr 1 s)
    else if computeTiles ≤ (dwTile w).toNat then .trap (dErr 2 s)
    else if scratchSize < (dwOff w).toNat * 8 + 8 * n then .trap (dErr 3 s)
    else
      let scope := s.spanTo s.tid (dwModule w) (dwTile w).toNat
      if !s.myCell.sendRoom || !s.released scope || s.ctx.pend.any (·.holdsBack scope) then .stall
      else
        let s := s.release scope
        let words := (List.range n).map fun i => s.rs (p.an a + i)
        let x := s.myCell
        let n := mget x.sent s.asid.toNat 0#64 + 1#64
        let seq := n.setWidth 32
        let s := s.setMyCell { x with sent := mset x.sent s.asid.toNat n }
        let off := BitVec.ofNat 20 ((dwOff w).toNat * 8)
        .ok (s.post s.cid (.msg (dwModule w) (dwTile w) off (dwCtr w) words (s.tagFor (dwModule w) s.asid) seq scope
          s.ctx.ident))) with
    own := fun s => if 15 < p.an a + dwCount (opD p d s) - 1 then some (mkErr 1 s.ctx.pc (Instr.send p d a).tinfo) else none } s

/-! ### CTRADD, CTRRD, CWAIT (R293) -/

/-- The counter index in bits 9:0 of a register. -/
def ctrOf (w : Word) : Nat := (w.extractLsb' 0 10).toNat

def execCtradd (p : Pfx) (d a : BitVec 4) (s : State) : Result :=
  issue (.ctradd p d a) (plain 2 fun s =>
    .ok (s.bump s.tid (ctrOf (opD p d s)) ((opA p a s).extractLsb' 0 32) 0 0#32 0#32)) s

def execCtrrd (p : Pfx) (d a : BitVec 4) (s : State) : Result :=
  issue (.ctrrd p d a) (plain 2 fun s =>
    .ok (s.ws (p.dn d) ((s.myTile.ctr (ctrOf (opA p a s))).value.setWidth 64))) s

/-- CWAIT completes when its condition holds at the counter: at its turn, or while it waits, where State.meetWait completes it. -/
def execCwait (p : Pfx) (d a : BitVec 4) (s : State) : Result :=
  issue (.cwait p d a) (plain 2 fun s =>
    let n := ctrOf (opD p d s)
    let v := (opA p a s).extractLsb' 0 32
    let k := s.myTile.ctr n
    if k.value < v then .pollAs (.counter (BitVec.ofNat 10 n) v (Instr.cwait p d a).ilen)
    else
      let s := s.acquire k.scope.toNat
      let s := s.setCtx (s.ctx.addAllow k.iref k.mref)
      .ok (s.setMyTile (s.myTile.setCtr n { k with scope := 0#3, iref := 0#32, mref := 0#32 }))) s

/-! ### WTARM and WTDIS (R295) -/

def wtEntry (w : Word) : Nat := (w.extractLsb' 0 9).toNat
def wtCtr (w : Word) : BitVec 10 := w.extractLsb' 16 10
def wtThresh (w : Word) : BitVec 32 := w.extractLsb' 32 32

def execWtarm (p : Pfx) (d a : BitVec 4) (s : State) : Result :=
  issue (.wtarm p d a) (plain 2 fun s =>
    let w := opD p d s
    let r := opA p a s
    if wtThresh w = 0#32 then .trap (dErr 4 s)
    else if r.toNat % 64 ≠ 0 then .trap (mkErr 4 r 0#64)
    else if 2#2 ≤ (s.myTile.entry (wtEntry w)).st then .trap (dErr 5 s)
    else if !s.released 1 then .hold
    else
      let e : WttEntry := ⟨r, wtThresh w, 1#2, w.getLsbD 31, false, wtCtr w, none⟩
      .ok ((s.setMyTile (s.myTile.setEntry (wtEntry w) e)).checkFire s.tid (wtCtr w).toNat)) s

def execWtdis (p : Pfx) (d a : BitVec 4) (s : State) : Result :=
  issue (.wtdis p d a) (plain 2 fun s =>
    let e := wtEntry (opD p d s)
    let w := s.myTile.entry e
    match w.st.toNat with
    | 3 => .trap (dErr 5 s)
    | 1 => .ok (s.setMyTile (s.myTile.setEntry e { w with st := 0#2 }))
    | 2 => .ok (s.setMyTile (s.myTile.setEntry e { w with rearm := false }))
    | _ => .ok s) s

/-! ### Spending units (05 R121, R123) -/

/-- What a context can spend of a kind: its allowance and what is left of its quantum; an unmetered kind pays always. -/
def spendable (b : Budget) (allow : BitVec 32) (n : Nat) : Bool := b.unm || decide (n ≤ allow.toNat + b.count.toNat)
/-- Allowance first, then the quantum. -/
def spend (b : Budget) (allow : BitVec 32) (n : Nat) : Budget × BitVec 32 :=
  if b.unm then (b, allow)
  else
    let k := min n allow.toNat
    ({ b with count := b.count - BitVec.ofNat 32 (n - k) }, allow - BitVec.ofNat 32 k)

def Ctx.canSpend (c : Ctx) (i m : Nat) : Bool := spendable c.ibud c.iallow i && spendable c.mbud c.mallow m
def Ctx.spendUnits (c : Ctx) (i m : Nat) : Ctx :=
  let (ib, ia) := spend c.ibud c.iallow i
  let (mb, ma) := spend c.mbud c.mallow m
  { c with ibud := ib, iallow := ia, mbud := mb, mallow := ma }

/-- Carving: a kernel-mode SPAWN carves nothing (05 R112, 12 R303), nor does a kernel-mode START (R112). A kernel-mode BGRANT
deducts nothing either and always succeeds: R123 tests no mode, and units are created only by the kernel (R121; DESIGN
CHOICE, log entry 34). -/
def Ctx.canCarve (c : Ctx) (i m : Nat) : Bool := !c.user || c.canSpend i m
def Ctx.carve (c : Ctx) (i m : Nat) : Ctx := if c.user then c.spendUnits i m else c

/-! ### SPAWN (R305) -/

/-- The tile of a cluster that a SPAWN to any tile of it takes: resident in this space, the fewest occupied entries. -/
def State.spawnTile (s : State) (t : Nat) : Nat :=
  let cands := ((List.range 16).map (t / 16 * 16 + ·)).filter fun u => s.asidOf u == s.asid
  (cands.foldl (fun (best : Option (Nat × Nat)) u =>
    let q := (s.tile u).queued
    match best with
    | some (_, k) => if q < k then some (u, q) else best
    | none => some (u, q)) none).elim t (·.1)

/-- Push (0, 0) or (1, all ones) as a structural instruction does. -/
def pushFalse (s : State) : Res := pushRes s ⟨false, 0#32⟩
def pushTrue (s : State) : Res := pushRes s ⟨true, BitVec.allOnes 32⟩

def execSpawn (p : Pfx) (d a : BitVec 4) (s : State) : Result :=
  issue (.spawn p d a) (pushing 2 (fun s => bulkTraffic s (opA p a s) 64) fun s =>
    let va := opA p a s
    let w := opD p d s
    let t := (w.extractLsb' 0 12).toNat
    if va.toNat % 64 ≠ 0 then .trap (mkErr 4 va 0#64)
    else if computeTiles ≤ t then .trap (dErr 2 s)
    else if s.ctx.accessHeld then .hold
    else match readPieces s va 4 with
      | .error r => r
      | .ok bs =>
        let r := accWords bs
        let u := if w.getLsbD 12 then s.spawnTile t else t
        let here := s.asidOf u == s.asid
        let f (k o : Nat) : Nat := ((vget r k 0#64).extractLsb' o 32).toNat
        let ci := f 5 0 + f 6 0
        let cm := f 5 32 + f 6 32
        let scope := if w.getLsbD 12 then 2 else scopeOf s.tid u
        if !((s.tile u).accepts || !here) || !s.ctx.canCarve ci cm then pushFalse s
        else if !s.released scope then .hold
        else
          let kern := !s.ctx.user
          let s := (s.touchAll (pieces va 16 4) 16).release scope
          let s := s.setCtx (s.ctx.carve ci cm)
          let s := if here then s.setTile u { s.tile u with resv := (s.tile u).resv + 1 } else s
          pushTrue (s.post s.cid (.spawn (BitVec.ofNat 12 u) r kern here (spaceTag s.asid) scope))) s
where
  accWords (bs : List Byte) : Vector Word 8 := mkVec 0#64 fun k => BitVec.ofNat 64 (natAt bs (8 * k) 8)

/-! ### START, HJOIN, SUSP (R306 to R308) -/

/-- The JOIN word of a helper's frame: null, AFE and AFF this cell's position, the starter's priority and bpol. -/
def helperJoin (prio : Nat) (bpol : BitVec 2) (pos : Nat) : Word :=
  BitVec.ofNat 64 (2 ^ 22 + prio % 4 * 1024 + bpol.toNat * 256 + pos % 16 * 16)

/-- The priority of the acting context's task. -/
def State.myPrio (s : State) : Nat :=
  match (if s.ctx.ident = 0#64 then none else s.frameKey s.tid s.ctx.ident) with
  | some key => joinPrio (s.f64 key fJOIN)
  | none => 0

/-- START. With no free helper slot, no free frame, no free entry or too few units it pushes S = 0: R306 names each of these, and is
followed where R299 says that a START without a free frame waits (DESIGN CHOICE, log entry 35). -/
def execStart (p : Pfx) (d a : BitVec 4) (s : State) : Result :=
  issue (.start p d a) (pushing 2 (fun _ => 0) fun s =>
    let entry := opA p a s
    let iu := (opE p s).extractLsb' 0 32
    let mu := (opE p s).extractLsb' 32 32
    if entry.getLsbD 0 then .trap (mkErr 4 entry 0#64)
    else match s.helperSlot s.cid, s.newFrame s.tid with
      | some n, some (f, key) =>
        if 16 ≤ s.myCell.hjoin.length || !s.ctx.canCarve iu.toNat mu.toNat then pushFalse s
        else if !s.released 0 then .hold
        else
          let me := s.ctx
          let arg := opD p d s
          let s := s.setCtx (me.carve iu.toNat mu.toNat)
          let s := s.initFrame s.tid f key entry iu mu (helperJoin s.myPrio me.bpol (s.cid % 16)) (s.cid % 16)
          let x := (s.ctxAt s.cid n).fresh true
          let s := s.setLive s.cid n { x with
            pc := entry, ident := f, ibud := ⟨false, iu⟩, mbud := ⟨false, mu⟩, bpol := me.bpol, regs := vset x.regs 0 arg }
          let y := s.myCell
          let s := s.setMyCell { y with hjoin := y.hjoin ++ [⟨f, me.ident, false, 0#32, 0#32⟩] }
          pushTrue (s.ws (p.dn d) f)
      | _, _ => pushFalse s) s

def execHjoin (p : Pfx) (d a : BitVec 4) (s : State) : Result :=
  issue (.hjoin p d a) (plain 2 fun s =>
    let f := opA p a s
    let mine (e : HJoin) : Bool := e.helper == f && e.starter == s.ctx.ident
    match s.myCell.hjoin.find? mine with
    | none => .ok s
    | some e =>
      if !e.done then .poll
      else
        let s := s.acquire 0
        let s := s.setCtx (s.ctx.addAllow e.iref e.mref)
        let y := s.myCell
        .ok (s.setMyCell { y with hjoin := y.hjoin.erase e })) s

def execSusp (p : Pfx) (d a : BitVec 4) (s : State) : Result :=
  issue (.susp p d a) (plain 2 fun s =>
    let w := opD p d s
    let e := wtEntry w
    if wtThresh w = 0#32 then .trap (dErr 4 s)
    else if (s.myTile.entry e).st ≠ 0#2 then .trap (dErr 5 s)
    else if !s.canLeave then .closing
    else match s.frameKey s.tid s.ctx.ident with
      | none => .hold
      | some key =>
        let f := s.ctx.ident
        let s := s.saveRecord s.cid s.sid key (nextPc s (Instr.susp p d a).ilen) s.ctx.cmask 0#3
        let s := s.setF s.tid key fSTATE 1 3
        let s := s.setMyTile (s.myTile.setEntry e ⟨f, wtThresh w, 3#2, false, true, wtCtr w, none⟩)
        .left ((s.freeSlot s.cid s.sid).checkFire s.tid (wtCtr w).toNat)) s

/-! ### Deques (R309, R310) -/

/-- A deque operation at the header `va`: on RING, CAP, TOP, BOT and the pc it answers a trap reason, an empty deque, or the
entry's index and what to do with the entry's key. -/
inductive DqOut where
  | bad (reason : Nat)
  | empty
  | entry (i : Nat) (f : Nat → State → Res)

/-- The keys of a header and an entry, through the acting context's translations. -/
def dqKey (s : State) (va : Word) (n : Nat) : Except Res Nat :=
  match s.access s.cid s.ctx.user .atomic va.toNat n with
  | .mem pa _ _ => if s.pendTouches pa n then .error .hold else .ok pa
  | .win _ _ => .error (.trap ⟨6, va, 0#64, some (2, 0, 0)⟩)
  | .miss => .error (.miss va .store)
  | .err e => .error (s.refuse va e)

/-- A read of `n` bytes at their home by the acting context's tile: the correctable errors of their lines are met (10 R244), and the
L1s of the tile keep no older copy (11 R266). -/
def State.homeRead (s : State) (pa n : Nat) : State := (s.meetLines s.tid pa n).dropLines s.tid (linesOf pa n)

/-- A deque operation; `f` gets the header's key, CAP, TOP and BOT. -/
def dqBody (p : Pfx) (va : Word) (f : Nat → Nat → Nat → Nat → DqOut) (empty : State → Res) (s : State) : Res :=
  if va.toNat % 64 ≠ 0 then .trap (mkErr 4 va 0#64)
  else if s.ctx.accessHeld then .hold
  else match dqKey s va 64 with
    | .error r => r
    | .ok h =>
      withRelease p s fun s =>
        let s := s.homeRead h 64
        let ring := rd64 s.mem h
        let cap := rdN s.mem (h + 8) 4
        let top := rdN s.mem (h + 0x10) 8
        let bot := rdN s.mem (h + 0x18) 8
        if cap = 0 ∨ ring.toNat % 8 ≠ 0 ∨ cap < (bot + 2 ^ 64 - top) % 2 ^ 64 then .trap (dErr 7 s)
        else match f h cap top bot with
          | .bad r => .trap (dErr r s)
          | .empty => empty (withAcquire p s)
          | .entry i g =>
            match dqKey s (ring + BitVec.ofNat 64 (8 * (i % cap))) 8 with
            | .error r => r
            | .ok k => g k (s.homeRead k 8)

/-- Charge 2, and 1 traffic unit in charged memory, by the header's address alone when header and ring lie in different memories: R310
does not say (DESIGN CHOICE, log entry 36). -/
def dqCost (s : State) (va : Word) : Nat := units (chargedBytes s.tid va.toNat 16)

def execDqpush (p : Pfx) (d a : BitVec 4) (s : State) : Result :=
  issue (.dqpush p d a) (memory 2 (fun s => dqCost s (opD p d s)) fun s =>
    dqBody p (opD p d s) (fun h cap top bot =>
      if (bot + 2 ^ 64 - top) % 2 ^ 64 = cap then .bad 6
      else .entry bot fun k s =>
        .ok (withAcquire p ((s.put64 s.tid k (opA p a s)).putN s.tid (h + 0x18) 8 ((bot + 1) % 2 ^ 64)))) .ok s) s

def execDqpop (p : Pfx) (d a : BitVec 4) (s : State) : Result :=
  issue (.dqpop p d a) (pushing 2 (fun s => dqCost s (opA p a s)) fun s =>
    dqBody p (opA p a s) (fun h _ top bot =>
      if top = bot then .empty
      else
        let i := (bot + 2 ^ 64 - 1) % 2 ^ 64
        .entry i fun k s =>
          pushTrue (withAcquire p ((s.putN s.tid (h + 0x18) 8 i).ws (p.dn d) (rd64 s.mem k)))) pushFalse s) s

def execDqsteal (p : Pfx) (d a : BitVec 4) (s : State) : Result :=
  issue (.dqsteal p d a) (pushing 2 (fun s => dqCost s (opA p a s)) fun s =>
    dqBody p (opA p a s) (fun h _ top bot =>
      if top = bot then .empty
      else .entry top fun k s =>
        pushTrue (withAcquire p ((s.putN s.tid (h + 0x10) 8 ((top + 1) % 2 ^ 64)).ws (p.dn d) (rd64 s.mem k)))) pushFalse s) s

/-! ### BSETC, BGRANT, BTOP, BYIELD (05 R122 to R124) -/

def execBsetcRel (p : Pfx) (a : BitVec 4) (s : State) : Result :=
  issue (.bsetcRel p a) (plain 2 fun s =>
    .ok (s.setCtx { s.ctx with
      cont := s.ctx.pc + immWord (2 * (p.imm0 / 65536))
      cmask := p.immW.extractLsb' 0 16 })) s
def execBsetcReg (p : Pfx) (a : BitVec 4) (s : State) : Result :=
  issue (.bsetcReg p a) (plain 2 fun s =>
    .ok (s.setCtx { s.ctx with cont := opA p a s, cmask := p.immW.extractLsb' 0 16 })) s

/-- A notified record's tile and WTT entry (05 R123, 12 R294). One whose tile's address space is not resident, so that its entry is in a saved
tile image, is not found: the grant words are added and nothing wakes, for which R123 states no case (DESIGN CHOICE, log entry 37). -/
def State.notifiedAt (s : State) (f : Word) : Option (Nat × Nat) :=
  (s.tiles.filterMap fun (t, x) =>
    if x.asid = s.asid then (x.wtt.find? fun e => e.2.st == 3#2 && e.2.frame && e.2.thresh == 0#32 && e.2.record == f).map
      fun e => (t, e.1)
    else none).head?

/-- A grant wakes a notified record: it is refilled and its entry fires, or its parent is told again (05 R123). -/
def State.wake (s : State) (f : Word) (kernel : Bool) : State :=
  match s.notifiedAt f with
  | none => s
  | some (t, e) =>
    match s.frameKey t f with
    | none => s
    | some key =>
      let s := s.meetFrame t f 128
      let reason := (s.f64 key fCPC).extractLsb' 61 3
      let (gained, s) := s.refillFrame t key reason
      if !gained then s.notify s.cid f key reason
      else
        let s := s.setF t key fSTATE 1 1
        s.putFired t e { s.frameRq t f 1 none with kernel := kernel }

/-- The add at the record's home: the grant words, and for BTOP the unmetered bits of JOIN. -/
def grantAt (s : State) (pa : Nat) (iu mu : BitVec 32) (unm : Bool) : State :=
  let s := s.meetLines s.tid pa 64
  let s := (s.setF32 s.tid pa fIGW (addSat (s.f32 pa fIGW) iu)).setF32 s.tid pa fMGW (addSat (s.f32 pa fMGW) mu)
  if unm then s.setF64 s.tid pa fJOIN (s.f64 pa fJOIN ||| 0xC#64) else s

def execBgrant (p : Pfx) (d a : BitVec 4) (s : State) : Result :=
  issue (.bgrant p d a) (pushing 2 (fun s => units (chargedBytes s.tid (opD p d s).toNat 8)) fun s =>
    let va := opD p d s
    let iu := (opA p a s).extractLsb' 0 32
    let mu := (opA p a s).extractLsb' 32 32
    if va.toNat % 64 ≠ 0 then .trap (mkErr 4 va 0#64)
    else if !s.ctx.canCarve iu.toNat mu.toNat then pushFalse s
    else if s.ctx.accessHeld then .hold
    else match dqKey s va 64 with
      | .error r => r
      | .ok pa =>
        let s := s.setCtx (s.ctx.carve iu.toNat mu.toNat)
        pushTrue ((grantAt s pa iu mu false).wake va (!s.ctx.user))) s

def execBtop (p : Pfx) (d a : BitVec 4) (s : State) : Result :=
  issue (.btop p d a) { kernel := true, cost := fun _ => (2, 0), body := fun s => (
    let w := opD p d s
    let va := w &&& ~~~0x80000000#64
    if w.toNat % 64 ≠ 0 then .trap (mkErr 4 w 0#64)
    else if s.ctx.accessHeld then .hold
    else match dqKey s va 64 with
      | .error r => r
      | .ok pa =>
        .ok ((grantAt s pa ((opA p a s).extractLsb' 0 32) ((opA p a s).extractLsb' 32 32) (w.getLsbD 31)).wake va true)) } s

/-- BYIELD: nothing in kernel or firmware mode. -/
def execByield (p : Pfx) (d a : BitVec 4) (s : State) : Result :=
  issue (.byield p d a) (plain 2 fun s =>
    if !s.ctx.user then .ok s
    else if s.ctx.badCont then .trap (mkErr 8 s.ctx.pc 0x104#64)
    else .left (s.setCtx { s.ctx.settle with wait := .leaving 4#3 })) s

end Sys2Proof.Machine
end

