-- ==== Sys2Proof/Machine/Special.lean ====
section
/-! DEFINITION. Sys2Proof/Machine/Special.lean: the special registers (04 R81 to R86, R97): their access codes, what a read
answers and what a write stores, and MFS and MTS. -/

namespace Sys2Proof.Machine

/-- The access codes of the Access column (00 R6); `none` is an unlisted number. -/
inductive SprAccess where
  | none | r | rw | kernelWrites | kernelW | kernel
  deriving DecidableEq, Repr

/-- The access code of a number (Table 04-3). -/
def sprAccess (n : Nat) : SprAccess :=
  if n ≤ 4 ∨ n = 0x009 ∨ n = 0x012 ∨ n = 0x013 ∨ n = 0x030 ∨ (0x050 ≤ n ∧ n ≤ 0x057) ∨ n = 0x060 ∨ n = 0x070 then .r
  else if n = 0x008 ∨ n = 0x010 ∨ n = 0x011 ∨ (0x014 ≤ n ∧ n ≤ 0x016) ∨ n = 0x023 then .kernelWrites
  else if 0x020 ≤ n ∧ n ≤ 0x022 then .rw
  else if n = 0x031 then .kernelW
  else if (0x040 ≤ n ∧ n ≤ 0x045) ∨ (0x048 ≤ n ∧ n ≤ 0x04B) then .kernel
  else .none

/-- Permitted (R97, 00 R6). -/
def sprPermitted (n : Nat) (user write : Bool) : Bool :=
  !user ||
  match sprAccess n with
  | .kernel => false
  | .kernelWrites | .kernelW => !write
  | _ => true

/-- UNM in bit 63 and COUNT in bits 31:0 (05 R110). -/
def Budget.toWord (b : Budget) : Word := bit 1 b.unm ++ 0#31 ++ b.count
def Budget.ofWord (w : Word) : Budget := ⟨w.getLsbD 63, w.extractLsb' 0 32⟩

/-- pstat (R85): LATE, TSTOP (from the stop request until the restart, 14 R355), PREQ. -/
def State.pstat (s : State) : Word :=
  BitVec.ofNat 64 (s.ctx.preq.isSome.toNat + (s.myTile.run != .running).toNat * 2 + (s.mtu (spanOf s.tid)).late.toNat * 4)

/-- SpecialRead: 0 for an unlisted number (R81), and for a user read of pspill (00 R6). -/
def State.sprRead (s : State) (n : Nat) : Word :=
  let c := s.ctx
  match n with
  | 0x000 => s.cycle
  | 0x001 => BitVec.ofNat 64 s.cid
  | 0x002 => BitVec.ofNat 64 s.sid
  | 0x003 => BitVec.ofNat 64 s.tid
  | 0x004 => s.fab.devid.setWidth 64
  | 0x008 => s.asid.setWidth 64
  | 0x009 => c.mode.setWidth 64
  | 0x010 => c.ibud.toWord
  | 0x011 => c.mbud.toWord
  | 0x012 => c.cont
  | 0x013 => c.cmask.setWidth 64
  | 0x014 => c.bpol.setWidth 64
  | 0x015 => c.iallow.setWidth 64
  | 0x016 => c.mallow.setWidth 64
  | 0x020 => c.fcsr.setWidth 64
  | 0x021 => c.vcnt.setWidth 64
  | 0x022 => c.gmode.setWidth 64
  | 0x023 => (s.quart (s.cid / 4)).vshare.setWidth 64
  | 0x030 => BitVec.ofNat 64 c.pdepth
  | 0x031 => if c.user then 0#64 else c.pspill
  | 0x040 => c.tpc
  | 0x041 => c.tcause
  | 0x042 => c.taddr
  | 0x043 => c.tinfo
  | 0x044 => c.tvec
  | 0x045 => c.tstat
  | 0x060 => s.pstat
  | 0x070 => s.bchan s.cid
  | _ =>
    if 0x048 ≤ n ∧ n ≤ 0x04B then vget c.ks (n - 0x048) 0#64
    else if 0x050 ≤ n ∧ n ≤ 0x057 then (vget s.myTile.win (n - 0x050) 0#128).extractLsb' 0 64
    else 0#64

/-- SpecialWrite: a field keeps its low bits; r and unlisted registers ignore it (R81). vshare is one register per quartet,
and the arbiter takes it at its next window (R84). tstat's bits 63:7 and 3 are reserved (14 R338). Bits 63:20 and 2:0 of
pspill are ignored by the spill area (R91); they are stored and read back (R91 does not call them reserved: DESIGN CHOICE, log
entry 34). A write of asid makes another space resident on the tile. -/
def State.sprWrite (s : State) (n : Nat) (v : Word) : State :=
  let c := s.ctx
  match n with
  | 0x008 => s.enterSpace s.tid (v.extractLsb' 0 12)
  | 0x010 => s.setCtx { c with ibud := Budget.ofWord v }
  | 0x011 => s.setCtx { c with mbud := Budget.ofWord v }
  | 0x014 => s.setCtx { c with bpol := v.extractLsb' 0 2 }
  | 0x015 => s.setCtx { c with iallow := v.extractLsb' 0 32 }
  | 0x016 => s.setCtx { c with mallow := v.extractLsb' 0 32 }
  | 0x020 => s.setCtx { c with fcsr := v.extractLsb' 0 8 }
  | 0x021 => s.setCtx { c with vcnt := v.extractLsb' 0 32 }
  | 0x022 => s.setCtx { c with gmode := v.extractLsb' 0 2 }
  | 0x023 => s.setQuart (s.cid / 4) { s.quart (s.cid / 4) with vshare := v.extractLsb' 0 16 }
  | 0x031 => s.setCtx { c with pspill := v }
  | 0x040 => s.setCtx { c with tpc := v }
  | 0x041 => s.setCtx { c with tcause := v }
  | 0x042 => s.setCtx { c with taddr := v }
  | 0x043 => s.setCtx { c with tinfo := v }
  | 0x044 => s.setCtx { c with tvec := v }
  | 0x045 => s.setCtx { c with tstat := v &&& 0x77#64 }
  | _ => if 0x048 ≤ n ∧ n ≤ 0x04B then s.setCtx { c with ks := vset c.ks (n - 0x048) v } else s

/-- The number that MFS or MTS names (R97): Imm()[9:4] over the a field. -/
def sprNum (p : Pfx) (a : BitVec 4) : Nat := ((BitVec.ofInt 64 p.imm0).extractLsb' 4 6).toNat * 16 + a.toNat

/-- Every earlier vector and matrix instruction of the context has completed (07 R170). -/
def State.flagsIn (s : State) : Bool :=
  let x := s.myCell
  (x.vq ++ x.vrun).all (fun e => e.slot != s.sel.slot) &&
  match x.mrun with | some m => m.slot != s.sel.slot | none => true

/-- A cell of the tile has pushed units that are not yet performed: they are stores of the address space in which they were pushed
(08 R206), and no other one is installed on the running tile before they are performed. -/
def State.tilePushes (s : State) (t : Nat) : Bool :=
  (List.range 16).any fun i => (s.cell (16 * t + i)).strm.toList.any fun b =>
    match b with | some st => !st.pushed.isEmpty | none => false

/-- An access of a special register: the privilege trap comes before the guard's underflow and any charge (R97, 14 R340);
fcsr waits for the flags (07 R170), a change of asid for the pushed units of the tile. -/
def sprShape (n : Nat) (write : Bool) (k : State → State) : Shape where
  own := fun s => if sprPermitted n s.ctx.user write then none else some (mkErr 3 s.ctx.pc (BitVec.ofNat 64 n))
  body := fun s => (
    if n = 0x020 ∧ !s.flagsIn then .hold
    else if n = 0x008 && s.tilePushes s.tid && (k s).asid != s.asid then .hold
    else .ok (k s))

def execMfs (p : Pfx) (d a : BitVec 4) (s : State) : Result :=
  issue (.mfs p d a) (sprShape (sprNum p a) false fun s => s.ws (p.dn d) (s.sprRead (sprNum p a))) s
def execMts (p : Pfx) (d a : BitVec 4) (s : State) : Result :=
  issue (.mts p d a) (sprShape (sprNum p a) true fun s => s.sprWrite (sprNum p a) (opD p d s)) s

end Sys2Proof.Machine
end

