-- ==== Sys2Proof/Machine/Engine.lean ====
section
/-! DEFINITION. Sys2Proof/Machine/Engine.lean: engine tags and commands: their issue and its checks (13 R319 to R321), the reading
and writing of elements, chunks (R322 to R325), completion and its transitions (R275, R323), COPY, EWAIT, ETEST, CHUNKRD. -/

namespace Sys2Proof.Machine

/-! ### Tags and control words (R319, R320) -/

def Cell.tag (x : Cell) (k : Nat) : Tag := vget x.tags k Tag.idle
def State.tagAt (s : State) (c k : Nat) : Tag := (s.cell c).tag k
def State.setTag (s : State) (c k : Nat) (t : Tag) : State :=
  let x := s.cell c
  s.setCell c { x with tags := vset x.tags k t }

/-- Fields of the control word (Table 13-4). -/
def cwTag (w : Word) : Nat := (w.extractLsb' 0 3).toNat
def cwTen (w : Word) : Bool := w.getLsbD 3
def cwTrn (w : Word) : BitVec 4 := w.extractLsb' 4 4
def cwSat (w : Word) : Bool := w.getLsbD 8
def cwMode (w : Word) : BitVec 2 := w.extractLsb' 9 2
def cwOp (w : Word) : BitVec 2 := w.extractLsb' 12 2
def cwArg2 (w : Word) : BitVec 12 := w.extractLsb' 16 12
def cwGroup (w : Word) : BitVec 8 := w.extractLsb' 16 8
def cwArg3 (w : Word) : BitVec 12 := w.extractLsb' 28 12
def cwSeq (w : Word) : BitVec 16 := w.extractLsb' 40 16

def EKind.collective : EKind → Bool
  | .xred | .xbcast | .xgath => true
  | _ => false

/-- The control bits that a command may use; every other bit must be 0. -/
def cwUsed (k : EKind) (w : Word) : Word :=
  match k with
  | .copy => 0x1FF#64
  | .gpool => 0x0FFF07FF#64 ||| (if cwMode w = 3#2 then 0xFFF0000000#64 else 0#64)
  | .xred => 0x00FFFF0000FF31FF#64
  | .xbcast => 0x00FFFFFFF0FF01FF#64
  | .xgath => 0x00FFFF0000FF01FF#64

/-! ### Groups (R327) -/

def State.group (s : State) (asid : BitVec 12) (g : BitVec 8) : Option Group := mget? s.groups (asid.toNat * 256 + g.toNat)
/-- The place of a value in a list. -/
def placeIn (x : Nat) : List Nat → Option Nat
  | [] => none
  | y :: ys => if x = y then some 0 else (placeIn x ys).map (· + 1)
def Group.ids (g : Group) : List Nat := g.members.map (·.toNat)
/-- The rank of tile `t` of this module in a group. -/
def State.rankIn (s : State) (g : Group) (t : Nat) : Option Nat :=
  placeIn (if g.modules then s.fab.devid.toNat else t) g.ids

/-! ### Issue (R321) -/

/-- The memory scope of the byte at an address (11 R267). One whose page is absent when the command is issued counts as tile
scope, also after the page is served: R267 gives a place that is not yet mapped none (DESIGN CHOICE, log entry 35). -/
def addrScope (s : State) (va : Word) : Nat :=
  match place va.toNat with
  | .scratch t _ => scopeOf s.tid t
  | .virt => match s.physOf s.cid va.toNat with | some (.ok _ sc) => sc | _ => 1
  | _ => 1
/-- The narrowest scope that spans the acting cell and the memory of every member of boxes of a tensor (11 R275). -/
def memScope (s : State) (D : Desc) (bs : List NBox) : Nat :=
  (members bs).foldl (fun m x => (memberAddrs s s.tid D x).foldl (fun m va => max m (addrScope s va)) m) 1

/-- The checks of Table 13-5, in its order. -/
def engineJudge (k : EKind) (p : Pfx) (d a : BitVec 4) (s : State) : Option Err :=
  let w := opE p s
  let src := s.rg (p.an a)
  let dst := s.rg (p.dn d)
  let D := s.desc dst.desc
  let e13 (n : Nat) : Option Err := some (mkErr 0x13 s.ctx.pc (BitVec.ofNat 64 n))
  let tab := s.desc (cwArg2 w)
  let orElse (x y : Option Err) : Option Err := match x with | some e => some e | none => y
  if w &&& ~~~cwUsed k w ≠ 0#64 then e13 3
  else if k = .xred ∧ cwOp w = 3#2 then e13 7
  else if k.collective ∧ ((s.group s.asid (cwGroup w)).bind (s.rankIn · s.tid)).isNone then e13 6
  else if k = .gpool ∧ (!tab.installed || tab.n != 2 || (cwMode w == 3#2 && !(s.desc (cwArg3 w)).installed)) then e13 8
  else if (s.gBad src true).isSome ∨ (s.gBad dst true).isSome then some (rErr 3 s)
  else if (k ≠ .copy ∧ dst.ragged) ∨ (k.collective ∧ src.ragged) then some (rErr 2 s)
  else if dst.inexact then some (rErr 9 s)
  else if cwTen w ∧ !D.staged then some (rErr 10 s)
  else orElse ((s.ragPoison src).map (mkErr 0x15 · 0#64)) (orElse ((s.ragPoison dst).map (mkErr 0x15 · 0#64))
    (orElse (checkRights s src.desc (s.desc src.desc) (s.boxes src) [0])
    (orElse (if k = .gpool then checkRights s (cwArg2 w) tab [wholeBox tab] [0] else none)
      (checkRights s dst.desc D (s.boxes dst) (if cwTen w then [1, 2] else [1])))))

/-- The traffic of a command (05 R115): what it reads from and writes to charged memory. Whether the rows of a GPOOL table lie
there is judged on the table's first byte, for all rows together (R115 does not say; DESIGN CHOICE, log entry 34). -/
def engineTraffic (k : EKind) (p : Pfx) (d a : BitVec 4) (s : State) : Nat :=
  let w := opE p s
  let src := s.rg (p.an a)
  let dst := s.rg (p.dn d)
  let tab := s.desc (cwArg2 w)
  let rows :=
    if k ≠ .gpool then 0
    else
      let at_ := if tab.tyOf = .q4n then codesAddr s s.tid tab else tab.base
      if chargedBytes s.tid at_.toNat 1 = 0 then 0
      else ceilDiv (volume (s.boxes src) * (tab.sizes[1]?).getD 0 * tab.tyOf.nibbles) 2
  units (regionBytes s (s.desc src.desc) (s.boxes src) + rows + regionBytes s (s.desc dst.desc) (s.boxes dst))

/-- The command scope (11 R275); a GPOOL reads any row of its table and its weights (13 R332). A collective of a module group counts fabric
scope, since other modules' members read and write for it: R275 names only PFX.X, the cell and the two memories (DESIGN CHOICE, log
entry 37). -/
def commandScope (k : EKind) (p : Pfx) (d a : BitVec 4) (s : State) : Nat :=
  let w := opE p s
  let whole (D : Desc) : Nat := memScope s D [wholeBox D]
  let region (g : GReg) : Nat := memScope s (s.desc g.desc) (s.boxes g)
  let tabs := if k = .gpool then max (whole (s.desc (cwArg2 w))) (if cwMode w = 3#2 then whole (s.desc (cwArg3 w)) else 0) else 0
  let fab := if k.collective then (match s.group s.asid (cwGroup w) with | some g => if g.modules then 5 else 0 | none => 0) else 0
  max (max (max (pScope p) tabs) fab) (max (region (s.rg (p.an a))) (region (s.rg (p.dn d))))

/-- Capture a command in its tag (R319, R320, 04 R79). -/
def engineCapture (k : EKind) (p : Pfx) (d a : BitVec 4) (scope : Nat) (s : State) : State :=
  let w := opE p s
  let src := s.rg (p.an a)
  let dst := s.rg (p.dn d)
  let cmd : Cmd :=
    { num := s.tick, src := src, dst := dst, srcD := s.desc src.desc, dstD := s.desc dst.desc, tabD := s.desc (cwArg2 w), wD := s.desc (cwArg3 w)
      srcLen := s.lens src (s.desc src.desc).n, dstLen := s.lens dst (s.desc dst.desc).n
      ctl := w, arr := p.fx.getLsbD 5, asid := s.asid, user := s.ctx.user, slot := s.sel.slot
      pos := 0, vals := none, posted := false, grans := none, fault := none, park := false, stop := false, lacks := false
      closed := false, late := 0#4, undo := [], coll := if k.collective then some (BitVec.ofNat 12 s.tid) else none }
  s.setTag s.cid (cwTag w) ⟨true, 0#4, 0, s.ctx.ident, some k, scope, some cmd⟩

/-! ### EWAIT, ETEST, CHUNKRD (R326) -/

def tagOf (p : Pfx) (a : BitVec 4) (s : State) : Tag := s.myCell.tag ((opA p a s).toNat % 8)

def execEwait (p : Pfx) (d a : BitVec 4) (s : State) : Result :=
  issue (.ewait p d a) (plain 2 fun s =>
    let t := tagOf p a s
    if t.busy then .poll else .ok ((s.acquire 0).ws (p.dn d) (t.err.setWidth 64))) s

def execEtest (p : Pfx) (d a : BitVec 4) (s : State) : Result :=
  issue (.etest p d a) (pushing 2 (fun _ => 0) fun s =>
    let t := tagOf p a s
    if t.busy then pushRes s ⟨false, 0#32⟩
    else if s.spillBusy then .hold
    else match s.push ⟨true, BitVec.allOnes 32⟩ with
      | some s1 => .ok ((s1.acquire 0).ws (p.dn d) (t.err.setWidth 64))
      | none => .trap (mkErr 9 s.ctx.pc 0#64)) s

def execChunkrd (p : Pfx) (d a : BitVec 4) (s : State) : Result :=
  issue (.chunkrd p d a) (plain 2 fun s =>
    let t := tagOf p a s
    let n := match t.kind with | some .copy | some .xbcast | some .xgath => t.chunks | _ => 0
    .ok ((s.acquire t.scope).ws (p.dn d) (BitVec.ofNat 64 n))) s

/-! ### Elements -/

/-- What an engine finds at a place: a value, an uncorrectable error (ERR 0x1), a page that gives an error (ERR 0x2), an
absent page. -/
inductive Elem (α : Type) where
  | ok (x : α)
  | poison
  | bad (e : Err)
  | absent (va : Word)

def Elem.bind {α β : Type} (x : Elem α) (f : α → Elem β) : Elem β :=
  match x with | .ok v => f v | .poison => .poison | .bad e => .bad e | .absent va => .absent va
def Elem.map {α β : Type} (x : Elem α) (f : α → β) : Elem β := x.bind fun v => .ok (f v)

/-- The access of an engine of tile `t` for a command: in the issuer's address space and mode (R323), never through a
window (06 R143). -/
def Cmd.access (c : Cmd) (s : State) (t : Nat) (need : Need) (va : Word) (n : Nat) : Acc :=
  asMember va.toNat (s.walkAccess t c.asid c.user need va.toNat n)

/-- Read `n` bytes. -/
def Cmd.rd (c : Cmd) (s : State) (t : Nat) (va : Word) (n : Nat) : Elem Nat :=
  match c.access s t .read va n with
  | .mem pa _ _ => .ok (rdN s.mem pa n)
  | .miss => .absent va
  | .err e => if e.cause = 0x15 then .poison else .bad e
  | .win _ _ => .absent va

/-- Elements of q4n are read as f32 values. -/
def readTy (t : Ty) : Ty := if t = .q4n then .f32 else t

/-- Read member `x` of a tensor: FILL when out of bounds (06 R148); a q4n element by its code and scales (07 R173, R175). The words of
a parameter record or of SUPERS that is not aligned are read as they stand: R174 gives a consequence for windows alone
(DESIGN CHOICE, log entry 35). -/
def Cmd.rdElem (c : Cmd) (s : State) (t : Nat) (D : Desc) (x : List Nat) : Elem Nat :=
  let ty := D.tyOf
  if !Stream.inside D (x.map Int.ofNat) then .ok (D.fill.toNat % 2 ^ (8 * (readTy ty).bytes))
  else if ty = .q4n then
    let j := (D.index x).toNat
    let at_ (w n : Nat) : Word := BitVec.ofNat 64 (w + n)
    (c.rd s t D.param 8).bind fun codes => (c.rd s t (at_ codes (j / 2)) 1).bind fun b =>
      (c.rd s t (at_ D.param.toNat 8) 8).bind fun sc => (c.rd s t (at_ sc (j / 64)) 1).bind fun scale =>
        (c.rd s t (at_ D.param.toNat 16) 8).bind fun su => (c.rd s t (at_ su (4 * (j / 16384))) 4).map fun sup =>
          q4Decode (b / 16 ^ (j % 2) % 16) (q4Block scale sup)
  else c.rd s t (D.addr x) ty.bytes

/-- The read meets the correctable errors of its lines and of its walks (10 R244). -/
def Cmd.touch (c : Cmd) (s : State) (t : Nat) (D : Desc) (x : List Nat) : State :=
  if s.flaws = [] then s
  else (memberAddrs s t D x).foldl (fun (s : State) va =>
    let s := s.meetPath t c.asid va.toNat
    match c.access s t .read va 1 with | .mem pa _ _ => s.meetLines t pa (max 1 D.tyOf.bytes) | _ => s) s

/-- Write a code to member `x` of the destination: dropped and counted when out of bounds; a module that no path reaches gives an
uncorrectable error (15 R367). -/
def Cmd.wrElem (c : Cmd) (s : State) (t : Nat) (x : List Nat) (v : Nat) : Elem State :=
  let D := c.dstD
  if !Stream.inside D (x.map Int.ofNat) then .ok (s.countOob t 1)
  else match c.access s t .write (D.addr x) D.tyOf.bytes with
    | .mem pa _ _ => .ok ((s.meetPath t c.asid (D.addr x).toNat).write t (wbytes pa (leBytes D.tyOf.bytes v)))
    | .miss => .absent (D.addr x)
    | .err e => if e.cause = 0x15 then .poison else .bad e
    | .win _ _ => .absent (D.addr x)
/-- What a write of member `x` of a collective's destination replaces. -/
def Cmd.before (c : Cmd) (s : State) (t : Nat) (x : List Nat) : List WByte :=
  if c.posted && Stream.inside c.dstD (x.map Int.ofNat) then
    match c.access s t .write (c.dstD.addr x) c.dstD.tyOf.bytes with
    | .mem pa _ _ => wbytes pa (rdBytes s.mem pa c.dstD.tyOf.bytes)
    | _ => []
  else []

def Cmd.srcBoxes (c : Cmd) : List NBox := regionBoxes c.src c.srcD c.srcLen
def Cmd.dstBoxes (c : Cmd) : List NBox := regionBoxes c.dst c.dstD c.dstLen

/-- Convert to the destination type (07 R171): RNE, SAT of the control word, no clamp, no flags. -/
def Cmd.conv (c : Cmd) (from_ : Ty) (x : Nat) : Nat := (convert from_ c.dstD.tyOf .rne (cwSat c.ctl) x).1

/-! ### Moving data (R322, R324) -/

/-- Where a run of element moves stands: state, ERR, moves made, whether it has met its end, an absent page, and what a collective's
writes have replaced. -/
structure Run where
  s      : State
  err    : BitVec 4
  n      : Nat
  ended  : Bool
  absent : Option Word
  undo   : List WByte

/-- The first error stands. -/
def Run.fail (r : Run) (e : BitVec 4) : Run := { r with err := if r.err = 0#4 then e else r.err }
/-- A page error ends the command (0x2), entered in the violation log where the rule asks for it. -/
def Run.page (r : Run) (t cell : Nat) (e : Err) : Run :=
  let s := match e.log with | some (kind, d, right) => r.s.logViolation t e.addr cell d kind right | none => r.s
  { r with s := s, ended := true }.fail 2#4
/-- An absent page: the command waits there; a refused one is a page error (14 R345). -/
def Run.gone (r : Run) (refused : Bool) (va : Word) : Run :=
  if refused then { r with ended := true }.fail 2#4 else { r with absent := some va }

/-- How a move finds the code that member `i` of the destination receives: it, and the state after the reads. -/
abbrev Source := State → Nat → Elem Nat × State

/-- Move `k` elements from the `i`-th on. -/
def moveRun (c : Cmd) (cell : Nat) (refused : Bool) (bs : List NBox) (get : Source) : Nat → Nat → Run → Run
  | 0, _, r => r
  | k + 1, i, r =>
    if r.ended || r.absent.isSome then r
    else
      let t := cell / 16
      let (x, s) := get r.s i
      let r := { r with s := s }
      moveRun c cell refused bs get k (i + 1) (
        match x with
        | .poison => { r with n := r.n + 1 }.fail 1#4
        | .bad e => r.page t cell e
        | .absent va => r.gone refused va
        | .ok v =>
          match c.wrElem r.s t (listMember bs i) v with
          | .ok s => { r with s := s, n := r.n + 1, undo := c.before r.s t (listMember bs i) ++ r.undo }
          | .bad e => r.page t cell e
          | .absent va => r.gone refused va
          | .poison => { r with n := r.n + 1 }.fail 1#4)

/-- The data part is over: the granules whose transition is due (R323), none with ERR 0x1 to 0x6 (R322). -/
def Cmd.over (c : Cmd) (err : BitVec 4) : Cmd :=
  { c with grans := some (if cwTen c.ctl && err == 0#4 then c.dstD.granules c.dstBoxes else []), fault := none }
def State.endMove (s : State) (cell k : Nat) (c : Cmd) (err : BitVec 4) : State :=
  s.setTag cell k { s.tagAt cell k with err := err, cmd := some (c.over err) }

/-- Park the command at the MTU for an absent page (14 R345): it is only delayed. -/
def State.engPark (s : State) (cell k : Nat) (c : Cmd) (va : Word) : State :=
  let (id, s) := s.parkFault (cell / 16) va (whoWord cell c.slot.toNat c.asid 4)
  s.setTag cell k { s.tagAt cell k with cmd := some { c with fault := some id } }

/-- The width D of a pooled row. -/
def Cmd.width (c : Cmd) : Nat := (c.tabD.sizes[1]?).getD 0
/-- The elements of a stop unit: those of a chunk of 4,096 bytes of the destination, or of a bag (R324, R332). -/
def Cmd.per (c : Cmd) (kind : Option EKind) : Nat := max 1 (if kind = some .gpool then c.width else 4096 / max 1 c.dstD.tyOf.bytes)
/-- The command stands at a stop unit: between two of them, or its data part is over. -/
def Cmd.atStop (c : Cmd) (kind : Option EKind) : Bool := c.grans.isSome || c.pos % c.per kind == 0
def chunksOf (kind : Option EKind) (n : Nat) : Nat := match kind with | some .xred | some .gpool => 0 | _ => n

/-- The elements that are performed in enumeration order without a gap, of the first `pos`: a gap is an element that could
not be read; `none` when it lies in a chunk that has been counted out already. -/
def Cmd.unbroken (c : Cmd) (err : BitVec 4) (pos : Nat) : Option Nat :=
  match c.vals with
  | some vs => some (min pos ((vs.takeWhile Option.isSome).length))
  | none => if err = 1#4 then none else some pos

/-- After a run: it parks, goes on or ends. The chunk count is that of the prefix of chunks wholly performed. -/
def State.afterRun (s0 : Tag) (cell k : Nat) (c : Cmd) (total : Nat) (r : Run) : State :=
  let pos := c.pos + r.n
  let done := r.ended || (r.absent.isNone && decide (total ≤ pos))
  let chunks := match c.unbroken r.err pos with
    | none => s0.chunks
    | some p => chunksOf s0.kind (if volume c.dstBoxes ≤ p then ceilDiv p (c.per s0.kind) else p / c.per s0.kind)
  let c := { c with pos := pos, undo := r.undo ++ c.undo }
  let s := r.s.setTag cell k { s0 with err := r.err, chunks := chunks, cmd := some c }
  match r.absent with
  | some va => s.engPark cell k c va
  | none => if done then s.endMove cell k c r.err else s

/-- The next `n` elements of `total`, at most to the end of the stop unit in hand; 0 takes all of it. An engine performs its
elements in no order that the issuer may rely on, and any number between two steps of the others (11 R275). -/
def State.moveChunk (s : State) (cell k : Nat) (c : Cmd) (refused : Bool) (n total : Nat) (get : Source) : State :=
  let t := s.tagAt cell k
  let left := min total ((c.pos / c.per t.kind + 1) * c.per t.kind) - c.pos
  State.afterRun t cell k c total
    (moveRun c cell refused c.dstBoxes get (if n = 0 then left else min n left) c.pos (Run.mk s t.err 0 false none []))

/-! ### COPY (R325) -/

/-- The scratchpads that members of boxes of a tensor lie in. -/
def scratchTiles (s : State) (t : Nat) (D : Desc) (bs : List NBox) : List Nat :=
  dedup ((members bs).flatMap fun x => (memberAddrs s t D x).filterMap fun va =>
    match place va.toNat with | .scratch u _ => some u | _ => none)
/-- Source and destination have members in one scratchpad: the whole source is read before any write. -/
def Cmd.oneScratch (c : Cmd) (s : State) (t : Nat) : Bool :=
  let ds := scratchTiles s t c.dstD c.dstBoxes
  (scratchTiles s t c.srcD c.srcBoxes).any ds.contains

/-- Read `k` members from the `i`-th on: their codes, none where the read met an uncorrectable error. -/
def readAll (c : Cmd) (t cell : Nat) (refused : Bool) (bs : List NBox) (f : Nat → Nat) :
    Nat → Nat → List (Option Nat) → Run → List (Option Nat) × Run
  | 0, _, vs, r => (vs.reverse, r)
  | k + 1, i, vs, r =>
    let x := c.rdElem r.s t c.srcD (listMember bs i)
    let r := { r with s := c.touch r.s t c.srcD (listMember bs i) }
    match x with
    | .ok v => readAll c t cell refused bs f k (i + 1) (some (f v) :: vs) r
    | .poison => readAll c t cell refused bs f k (i + 1) (none :: vs) (r.fail 1#4)
    | .bad e => (vs.reverse, r.page t cell e)
    | .absent va => (vs.reverse, r.gone refused va)

/-- The moves of values that are known. -/
def fromVals (vs : List (Option Nat)) : Source := fun s i =>
  (match vs[i]? with | some (some v) => .ok v | _ => .poison, s)
/-- The moves of a COPY's source. -/
def Cmd.fromSource (c : Cmd) (t : Nat) : Source := fun s i =>
  let x := listMember c.srcBoxes i
  ((c.rdElem s t c.srcD x).map (c.conv (readTy c.srcD.tyOf)), c.touch s t c.srcD x)

/-- The next `n` elements of a COPY. -/
def State.copyChunk (s : State) (cell k : Nat) (c : Cmd) (refused : Bool) (n : Nat) : State :=
  let v := volume c.srcBoxes
  let t := cell / 16
  if v ≠ volume c.dstBoxes then s.endMove cell k c 3#4
  else if c.dstD.tyOf = .q4n then s.endMove cell k c 4#4
  else match c.vals with
    | some vs => s.moveChunk cell k c refused n vs.length (fromVals vs)
    | none =>
      if c.pos = 0 && c.oneScratch s t then
        let (vs, r) := readAll c t cell refused c.srcBoxes (c.conv (readTy c.srcD.tyOf)) v 0 [] ⟨s, 0#4, 0, false, none, []⟩
        match r.absent with
        | some va => r.s.engPark cell k c va
        | none =>
          let c := { c with vals := some vs }
          (r.s.setTag cell k { s.tagAt cell k with err := r.err, cmd := some c }).moveChunk cell k c refused n vs.length (fromVals vs)
      else s.moveChunk cell k c refused n v (c.fromSource t)

/-! ### GPOOL (R332) -/

/-- Insert a member by its last coordinate. -/
def insertLast (x : List Nat) : List (List Nat) → List (List Nat)
  | [] => [x]
  | y :: ys => if x.getLastD 0 < y.getLastD 0 then x :: y :: ys else y :: insertLast x ys
/-- Add a member to the bag of its outer coordinate. -/
def addBag (n : Nat) (x : List Nat) : List (List Nat × List (List Nat)) → List (List Nat × List (List Nat))
  | [] => [(x.take n, [x])]
  | (o, b) :: rest => if o = x.take n then (o, insertLast x b) :: rest else (o, b) :: addBag n x rest

/-- The bags of the index region, each as its members in increasing order. -/
def Cmd.bags (c : Cmd) : List (List (List Nat)) :=
  let n := c.srcD.n
  if c.src.ragged then
    let b := (c.src.nboxes n).headD []
    (List.range c.srcLen.length).map fun j =>
      members (ragBoxes (b.take (n - 1)) ((b.drop (n - 1)).headD oneRng) (c.srcD.sizes.getLastD 0) j [(c.srcLen[j]?).getD 0])
  else ((members c.srcBoxes).foldl (fun bs x => addBag (n - 1) x bs) []).map (·.2)

/-- The member (j, k) of the table; a negative j is out of bounds. -/
def Cmd.tableAt (c : Cmd) (j : Int) (k : Nat) : List Nat := if j < 0 then [(c.tabD.sizes[0]?).getD 0, k] else [j.toNat, k]
/-- Element (j, k) of the table as f32: FILL out of bounds (06 R148). -/
def Cmd.tableElem (c : Cmd) (s : State) (t : Nat) (j : Int) (k : Nat) : Elem Nat :=
  (c.rdElem s t c.tabD (c.tableAt j k)).map fun v => (convert (readTy c.tabD.tyOf) .f32 .rne false v).1

/-- The index that a member of the index region holds. -/
def Cmd.indexAt (c : Cmd) (s : State) (t : Nat) (x : List Nat) : Elem Int :=
  (c.rdElem s t c.srcD x).map fun v =>
    match c.srcD.tyOf.int with
    | some (true, w) => (BitVec.ofNat w v).toInt
    | _ => (v : Int)

/-- The weight at the index member's coordinate; `free` where the weight tensor has another rank (log entry 13). -/
def Cmd.weightAt (c : Cmd) (s : State) (t : Nat) (free : Nat) (x : List Nat) : Elem Nat :=
  if cwMode c.ctl ≠ 3#2 then .ok 0
  else if c.wD.n ≠ c.srcD.n then .ok free
  else (c.rdElem s t c.wD x).map fun v => (convert (readTy c.wD.tyOf) .f32 .rne false v).1

/-- One step of the accumulation. -/
def poolStep (mode : BitVec 2) (acc : Option Nat) (w v : Nat) : Nat :=
  if mode = 3#2 then (ffma fmtF32 .rne (acc.getD 0) w v).1
  else match acc with
    | none => v
    | some a => if mode = 2#2 then (fminmax fmtF32 true a v).1 else (fadd fmtF32 .rne a v).1

/-- The accumulation of element `k` over the members of a bag. -/
def Cmd.pool (c : Cmd) (s : State) (t free k : Nat) : List (List Nat) → Option Nat → Elem (Option Nat)
  | [], acc => .ok acc
  | x :: xs, acc =>
    (c.indexAt s t x).bind fun j => (c.tableElem s t j k).bind fun v => (c.weightAt s t free x).bind fun w =>
      c.pool s t free k xs (some (poolStep (cwMode c.ctl) acc w v))

/-- Element `k` of the pooled row, in the destination type. -/
def Cmd.pooled (c : Cmd) (s : State) (t free k : Nat) (bag : List (List Nat)) : Elem Nat :=
  (c.pool s t free k bag none).map fun acc =>
    let a := acc.getD 0
    let v := if cwMode c.ctl = 1#2 ∧ bag ≠ [] then
        (if (fmtF32.decode a).isNaN then fmtF32.canonNaN else (divVals fmtF32 .rne (fmtF32.decode a) (Val.ofInt bag.length)).1)
      else a
    c.conv .f32 v

/-- The reads for element `k` of a bag meet correctable errors. -/
def Cmd.touchBag (c : Cmd) (s : State) (t k : Nat) (bag : List (List Nat)) : State :=
  if s.flaws = [] then s
  else bag.foldl (fun s x =>
    let s := c.touch s t c.srcD x
    let s := match c.indexAt s t x with | .ok j => c.touch s t c.tabD (c.tableAt j k) | _ => s
    if cwMode c.ctl = 3#2 then c.touch s t c.wD x else s) s

/-- The moves of a GPOOL: element `i` of the destination is element `i` mod D of the row of bag `i` / D. -/
def Cmd.fromBags (c : Cmd) (t free : Nat) (bags : List (List (List Nat))) : Source := fun s i =>
  let bag := (bags[i / c.width]?).getD []
  (c.pooled s t free (i % c.width) bag, c.touchBag s t (i % c.width) bag)

/-- The next `n` elements of a GPOOL; a bag is its stop unit. -/
def State.poolChunk (s : State) (cell k : Nat) (c : Cmd) (refused : Bool) (n : Nat) : State :=
  let bags := c.bags
  let idx := match c.srcD.tyOf with | .i32 | .n32 | .i64 | .n64 => true | _ => false
  if volume c.dstBoxes ≠ bags.length * c.width then s.endMove cell k c 3#4
  else if !idx || c.dstD.tyOf == .q4n then s.endMove cell k c 4#4
  else
    let (free, s) := if cwMode c.ctl = 3#2 ∧ c.wD.n ≠ c.srcD.n then (let d := s.draw; (d.1.toNat % 2 ^ 32, d.2)) else (0, s)
    s.moveChunk cell k c refused n (bags.length * c.width) (c.fromBags (cell / 16) free bags)

/-! ### The steps of an engine -/

/-- The next `n` elements of the command of a tag, 0 for the rest of a stop unit. -/
def State.engineUnit (s : State) (cell k : Nat) (refused : Bool) (n : Nat) : State :=
  let t := s.tagAt cell k
  match t.cmd, t.kind with
  | some c, some kind =>
    if c.grans.isSome then s
    else match kind with
      | .copy => s.copyChunk cell k c refused n
      | .gpool => s.poolChunk cell k c refused n
      | _ =>
        match c.vals with
        | none => s
        | some vs => s.moveChunk cell k c refused n vs.length (fromVals vs)
  | _, _ => s

/-- An engine may go on: no fault and no parked step holds it, and neither a stop of its tile nor a kill, but to the end of the
stop unit in hand (14 R355, R345; 13 R336). -/
def State.engineGoes (s : State) (cell : Nat) (kind : Option EKind) (c : Cmd) : Bool :=
  let run := (s.tile (cell / 16)).run
  c.fault.isNone && !c.park && (if run = .running && !c.stop then true else run != .stopped && !c.atStop kind)

/-- The command of a tag stands inside a stop unit and no absent page holds it. -/
def State.engineInside (s : State) (cell k : Nat) : Bool :=
  match (s.tagAt cell k).cmd with | some m => !m.atStop (s.tagAt cell k).kind && m.fault.isNone | none => false
/-- Another COPY of the tile stands inside a chunk, held by no fault: a tile has one copy engine (R319), which moves one chunk after
another. -/
def State.copyInside (s : State) (cell k : Nat) : Bool :=
  (List.range 128).any fun i =>
    let c := 16 * (cell / 16) + i / 8
    (c, i % 8) != (cell, k) && (s.tagAt c (i % 8)).kind == some .copy && s.engineInside c (i % 8)
/-- The engine of the tile takes up the command: a COPY's chunk begins between two chunks of the others. -/
def State.engineFree (s : State) (cell k : Nat) (kind : Option EKind) (c : Cmd) : Bool :=
  kind != some .copy || !c.atStop kind || !s.copyInside cell k

/-- ENGINE_CHUNK_PERFORMED: the command in tag `k` of the cell goes on, by as many elements as the schedule's slot says, 0 for the
rest of its stop unit. -/
def execEngineChunkPerformed (s : State) : Result :=
  let t := s.tagAt s.cid s.sel.k
  match t.cmd with
  | some c => if s.engineGoes s.cid t.kind c && s.engineFree s.cid s.sel.k t.kind c then .next (s.engineUnit s.cid s.sel.k false s.sid) else .next s
  | none => .next s

/-- The command is complete: BUSY is cleared; ERR and the chunk count stay (R320). -/
def State.finishTag (s : State) (cell k : Nat) : State :=
  s.setTag cell k { s.tagAt cell k with busy := false, cmd := none }

/-- The name of a collective command's instance: address space, group, SEQ (R327). -/
def Cmd.name (c : Cmd) : BitVec 12 × BitVec 8 × BitVec 16 := (c.asid, cwGroup c.ctl, cwSeq c.ctl)
def Inst.name (x : Inst) : BitVec 12 × BitVec 8 × BitVec 16 := (x.asid, x.group, x.seq)
/-- The outstanding commands of this module with a name, by cell and tag. -/
def State.named (s : State) (n : BitVec 12 × BitVec 8 × BitVec 16) : List (Nat × Nat × Cmd) :=
  s.cells.flatMap fun (c, x) => (List.range 8).filterMap fun k =>
    match (x.tag k).cmd with
    | some m => if ((x.tag k).kind.map EKind.collective).getD false && !m.closed && m.name == n then some (c, k, m) else none
    | none => none
/-- A command is in some tag of a cell. -/
def State.tagged (s : State) (num : Nat) : Bool :=
  s.cells.any fun (_, x) => x.tags.toList.any fun t => match t.cmd with | some m => m.num == num | none => false
/-- The outstanding commands with a name whose cells' images are elsewhere (14 R350), by the number that names them. -/
def State.shelved (s : State) (n : BitVec 12 × BitVec 8 × BitVec 16) : List (Nat × Cmd) :=
  s.vault.filterMap fun (k, h) =>
    match h with
    | .cmd m => if m.coll.isSome && !m.closed && m.name == n && !s.tagged m.num then some (k, m) else none
    | _ => none
def State.shelve (s : State) (k : Nat) (m : Cmd) : State := { s with vault := mset s.vault k (.cmd m) }
/-- The command is no more: no image brings it back. -/
def State.forget (s : State) (m : Cmd) : State := { s with vault := mdel s.vault m.num }
/-- A collective instance that has started goes when no command of this module is outstanding in it (R328). -/
def State.pruneInsts (s : State) : State :=
  { s with insts := s.insts.filter fun x =>
      !x.started || x.fate != 0#4 || !(s.named x.name).isEmpty || !(s.shelved x.name).isEmpty }
/-- The data part of every command with a name is over on this module: the instance is complete on all of them at once (R327). -/
def State.allOver (s : State) (n : BitVec 12 × BitVec 8 × BitVec 16) : Bool :=
  (s.named n).all (fun (_, _, m) => m.grans.isSome) && (s.shelved n).all fun (_, m) => m.grans.isSome
def State.closeInst (s : State) (n : BitVec 12 × BitVec 8 × BitVec 16) : State :=
  let s' := (s.named n).foldl (fun s (c, k, m) => s.setTag c k { s.tagAt c k with cmd := some { m with closed := true } }) s
  ((s.shelved n).foldl (fun s (k, m) => s.shelve k { m with closed := true }) s').pruneInsts

/-- A parked completion step of a tag is withdrawn. -/
def State.unparkTag (s : State) (c k : Nat) : State :=
  { s with parked := s.parked.filter fun q => q.who != .engine (BitVec.ofNat 16 c) (BitVec.ofNat 3 k) }

/-- Keep ERR 0x7 and the granules that are left. -/
def State.setLeft (s : State) (cell k : Nat) (c : Cmd) (err : BitVec 4) (left : List Nat) : State :=
  s.setTag cell k { s.tagAt cell k with err := err, cmd := some { c with grans := some left } }

/-- The completion transitions, one granule after another (R323). -/
def complete (cell k : Nat) (c : Cmd) : BitVec 4 → List Nat → State → State
  | err, [], s => ((s.setLeft cell k c err []).finishTag cell k).forget c
  | err, g :: gs, s =>
    let t := cell / 16
    let tag := s.tagAt cell k
    match granLoc c.dstD c.user (fun va => c.access s t .stage va 8) g with
    | .error .miss =>
      let s := s.setLeft cell k c err (g :: gs)
      match (s.tagAt cell k).cmd with
      | some c => s.engPark cell k c (c.dstD.stageVa g)
      | none => s
    | .error (.err e) =>
      let s := match e.log with | some (kind, d, right) => s.logViolation t e.addr cell d kind right | none => s
      complete cell k c 7#4 gs s
    | .error _ => complete cell k c 7#4 gs s
    | .ok l =>
      if s.granLost l then complete cell k c 7#4 gs s
      else
      let s := s.meetPath t c.asid (c.dstD.stageVa g).toNat
      let r : StageReq := ⟨.trn, c.dstD, c.asid, cwTrn c.ctl, [(g, l)], none, 0#64, 0, tag.scope, 0#2, 0, 0#64, none, none, c.user⟩
      match stageRun t r .issue none 0#2 [(g, l)] s with
      | .done s _ _ => complete cell k c err gs s
      | .fault s _ _ => complete cell k c 7#4 gs s
      | .park s r l inq =>
        let s : State := { s with parked := s.parked ++ [Parked.mk (.engine (BitVec.ofNat 16 cell) (BitVec.ofNat 3 k)) l r inq] }
        s.setLeft cell k { c with park := true } err gs
      | .full => s.setLeft cell k c err (g :: gs)
      | .wait => s.setLeft cell k c err (g :: gs)

/-- The command in tag `k` of a cell completes: a collective once its instance is complete on every member of this module. -/
def State.completeTag (s : State) (cell k : Nat) : State :=
  let t := s.tagAt cell k
  match t.cmd with
  | some c =>
    match c.grans with
    | some gs =>
      if !s.engineGoes cell t.kind c then s
      else if (t.kind.map EKind.collective).getD false && !c.closed then
        (if s.allOver c.name then complete cell k { c with closed := true } t.err gs (s.closeInst c.name) else s)
      else complete cell k c t.err gs s
    | none => s
  | none => s

/-- ENGINE_COMPLETION of the command in tag `k` of the cell. Its release needs no step: every write is performed. -/
def execEngineCompletion (s : State) : Result := .next (s.completeTag s.cid s.sel.k)

end Sys2Proof.Machine
end

