-- ==== Sys2Proof/Machine/Collective.lean ====
section
/-! DEFINITION. Sys2Proof/Machine/Collective.lean: collective instances: the parts of their members, their result, their errors
and their cancellation (13 R327 to R331, R336), and the stop units of engines (14 R355). -/

namespace Sys2Proof.Machine

/-! ### The result (R329 to R331) -/

/-- Op of XRED on codes of a type: no flag is set. -/
def redOp (ty : Ty) (op : BitVec 2) (sat : Bool) (a b : Nat) : Nat :=
  match ty.flt with
  | some f =>
    if op = 0#2 then (fadd f .rne a b).1 else (fminmax f (op == 2#2) a b).1
  | none =>
    match ty.int with
    | none => a
    | some (sg, w) =>
      let v (x : Nat) : Int := if sg then (BitVec.ofNat w x).toInt else (x : Int)
      if op = 0#2 then
        let r := v a + v b
        wrapInt w (if sat then max (intMin sg w) (min (intMax sg w) r) else r)
      else if op = 1#2 then (if v b < v a then b else a)
      else (if v a < v b then b else a)

/-- One level of the pairwise tree: absent entries lie at the end and pass through (08 R214). -/
def pairUp (f : Nat → Nat → Nat) : List Nat → List Nat
  | a :: b :: rest => f a b :: pairUp f rest
  | l => l
def treeFold (f : Nat → Nat → Nat) : Nat → List Nat → Nat
  | 0, l => l.headD 0
  | n + 1, l => if l.length ≤ 1 then l.headD 0 else treeFold f n (pairUp f l)
/-- The ARR fold in the order of arrival. -/
def arrFold (f : Nat → Nat → Nat) : List Nat → Nat
  | [] => 0
  | x :: xs => xs.foldl f x

def Part.tyOf (q : Part) : Ty := readTy ((tyOfCode q.ty.toNat).getD .n8)
def partRank (ps : List Part) (r : Nat) : Option Part := ps.find? (·.rank == r)
def byRank (ps : List Part) (n : Nat) : List Part := (List.range n).filterMap (partRank ps)

/-- Members disagree (ERR 0x5): in the kind of collective, mode and OP; for XRED and XGATH in type and V; for XBCAST in the
root, or on a root that is no rank. A part whose source met an error has no V to compare. -/
def disagree (ps : List Part) (n : Nat) : Bool :=
  match ps with
  | [] => false
  | q :: _ =>
    let whole := ps.filter (·.err == 0#4)
    ps.any (fun r => r.kind != q.kind) || decide (n < ps.length) ||
    (if q.kind = 2#2 then ps.any fun r => r.root != q.root || decide (n ≤ r.root)
     else ps.any (fun r => r.ty != q.ty || r.op != q.op) ||
       whole.any fun r => r.vals.length != (whole.headD q).vals.length)

/-- The result and its type; `arr` gives the parts in the order that rank 0's engine has fixed. -/
def collect (ps arr : List Part) (n : Nat) : Option (Ty × List Nat) :=
  match partRank ps 0 with
  | none => none
  | some p0 =>
    let ranked := byRank ps n
    match p0.kind.toNat with
    | 2 => (partRank ps p0.root).map fun q => (q.tyOf, q.vals)
    | 3 => some (p0.tyOf, ranked.flatMap (·.vals))
    | k =>
      match p0.tyOf with
      | .f32 | .f64 | .i32 | .n32 | .i64 | .n64 =>
        let f := redOp p0.tyOf p0.op p0.sat
        let at_ (l : List Part) (i : Nat) : List Nat := l.map fun q => (q.vals[i]?).getD 0
        some (p0.tyOf, (List.range p0.vals.length).map fun i =>
          if k = 0 then treeFold f n (at_ ranked i) else arrFold f (at_ arr i))
      | _ => none

/-! ### Instances (R327, R328) -/

/-- An instance that nothing has reached yet. -/
def Inst.fresh (n : BitVec 12 × BitVec 8 × BitVec 16) : Inst := ⟨n.1, n.2.1, n.2.2, false, none, 0#4, []⟩
def State.inst (s : State) (n : BitVec 12 × BitVec 8 × BitVec 16) : Inst := (s.insts.find? (·.name == n)).getD (Inst.fresh n)
def State.dropInst (s : State) (n : BitVec 12 × BitVec 8 × BitVec 16) : State :=
  { s with insts := s.insts.filter fun x => x.name != n }
def State.putInst (s : State) (x : Inst) : State := { s with insts := (s.dropInst x.name).insts ++ [x] }

/-- The member that tile `t` of this module is, or belongs to. -/
def State.memberId (s : State) (g : Group) (t : Nat) : Nat := if g.modules then s.fab.devid.toNat else t
/-- How many commands of member `m` an instance counts; the most of one member, at least 1; and whether commands of some member are
still to come, which fail too: a failed instance that one member has issued twice stands for two runs of it (log entry 24). -/
def Inst.commands (x : Inst) (m : Nat) : Nat := (x.parts.filter fun q => q.sender == m && q.n != 0).length
def Inst.rounds (x : Inst) : Nat := x.parts.foldl (fun r q => max r (x.commands q.sender)) 1
def Inst.awaits (x : Inst) (g : Group) : Bool := g.ids.any fun m => decide (x.commands m < x.rounds)

/-- A module's collective engine sends a request to every other member module (R328). -/
def State.sendColl (s : State) (g : Group) (r : CollReq) : State :=
  if !g.modules then s
  else { s with fab := { s.fab with colls := s.fab.colls ++
      (g.ids.filter (· != s.fab.devid.toNat)).map fun m => (BitVec.ofNat 10 m, r) } }
/-- The fabric tag of the space of an instance. -/
def State.collTag (s : State) (asid : BitVec 12) : BitVec 16 := mget s.ftags asid.toNat 0#16
/-- A request that carries an error in place of a source, 0x5 or 0x6: with `one` for a command of this module, else as a notice
(log entry 24). -/
def State.sendFail (s : State) (n : BitVec 12 × BitVec 8 × BitVec 16) (one : Bool) (err : BitVec 4) : State :=
  match s.group n.1 n.2.1 with
  | some g =>
    s.sendColl g (.there (s.collTag n.1) n.2.1 n.2.2 (if one then g.members.length else 0) s.fab.devid ((s.rankIn g 0).getD 0) 0#2 0#2 0#4 false 0 err [])
  | none => s

/-- What a command has written is taken back when it ends with a mismatch, which leaves nothing written on any member (Table 13-6;
log entry 24). -/
def State.takeBack (s : State) (t : Nat) (m : Cmd) (err : BitVec 4) : State := if err = 5#4 then s.perform t m.undo else s
/-- A command whose cell's image is elsewhere ends: its tag learns it when the image is back. -/
def State.endShelved (s : State) (k : Nat) (m : Cmd) (err : BitVec 4) : State := s.shelve k { m.over err with late := err }

/-- End every command of this module with a name, with an error and no transition. -/
def State.endNamed (s : State) (n : BitVec 12 × BitVec 8 × BitVec 16) (err : BitVec 4) : State :=
  let away := s.shelved n
  let s := (s.named n).foldl (fun s (c, k, m) =>
    let s := s.takeBack (c / 16) m err
    (s.endMove c k { m with park := false, undo := [], closed := true } err).unparkTag c k) s
  away.foldl (fun s (k, m) => (s.takeBack numTiles m err).endShelved k { m with undo := [], closed := true } err) s

/-- The tile whose member a command in a tag of cell `c` is: the one that issued it, also when its cell's image has been loaded on another
(R327; 14 R352). -/
def Cmd.issuer (m : Cmd) (c : Nat) : Nat := match m.coll with | some t => t.toNat | none => c / 16

/-- A command of member `m` that its instance's failure ends before it has read its source. -/
def Part.early (m n : Nat) : Part := ⟨m, n, 0, none, 0#2, 0#2, 0#4, false, 0, 5#4, []⟩
/-- The members whose commands with a name have read no source yet, one for each command. -/
def State.unposted (s : State) (g : Group) (n : BitVec 12 × BitVec 8 × BitVec 16) : List Nat :=
  ((s.named n).filterMap fun (c, _, m) => if m.posted then none else some (s.memberId g (m.issuer c))) ++
  (s.shelved n).filterMap fun (_, m) => if m.posted then none else m.coll.map fun t => s.memberId g t.toNat

/-- An instance fails on every member, also for the commands that are still to come: it is kept until every member has issued as
many as the one that has issued the most; between modules a mismatch is kept until the next instance begins, so that a late
request joins nothing. The other modules hear of each command that has sent no request (log entry 24). -/
def State.failInst (s : State) (x : Inst) (err : BitVec 4) : State :=
  match s.group x.asid x.group with
  | none => if err = 5#4 then (s.endNamed x.name err).putInst { x with fate := err } else (s.endNamed x.name err).dropInst x.name
  | some g =>
    let early := s.unposted g x.name
    let x := { x with fate := err, parts := x.parts ++ early.map fun m => Part.early m g.members.length }
    let s := early.foldl (fun s _ => s.sendFail x.name true 5#4) (s.endNamed x.name err)
    if (g.modules && err == 5#4) || x.awaits g then s.putInst x else s.dropInst x.name
/-- A mismatch that this module has found and another one may not find: it tells every other member (R328). -/
def State.failAll (s : State) (x : Inst) : State := (s.sendFail x.name false 5#4).failInst x 5#4

/-- Give the result to the commands of this module: a wrong count is 0x3, a q4n destination 0x4, on that member alone. -/
def State.giveResult (s : State) (x : Inst) (ty : Ty) (vs : List Nat) : State :=
  let fit (m : Cmd) : BitVec 4 := if volume m.dstBoxes ≠ vs.length then 3#4 else if m.dstD.tyOf = .q4n then 4#4 else 0#4
  let got (m : Cmd) : Cmd := { m with vals := some (vs.map fun v => some (m.conv ty v)) }
  let away := s.shelved x.name
  let s := (s.named x.name).foldl (fun s (c, k, m) =>
    if fit m = 0#4 then s.setTag c k { s.tagAt c k with cmd := some (got m) } else s.endMove c k m (fit m)) s
  away.foldl (fun s (k, m) => if fit m = 0#4 then s.shelve k (got m) else s.endShelved k m (fit m)) s

/-- The parts in the order in which an ARR joins them: the order of arrival at rank 0's engine, which is that of this module when
rank 0 is here, and else what rank 0 has sent; none until it has come (R329). -/
def State.arrOrder (s : State) (g : Group) (x : Inst) : Option (List Part) :=
  if !g.modules || s.rankIn g 0 == some 0 then some x.parts
  else match x.order with
    | some o =>
      if o.length = g.members.length ∧ (List.range g.members.length).all o.contains then some (o.filterMap (partRank x.parts)) else none
    | none => none

/-- Start an instance whose members have all issued it and agree: its result is written from now on. -/
def State.startInst (s : State) (g : Group) (x : Inst) (arr : List Part) : State :=
  match collect x.parts arr g.members.length with
  | none => s.failInst x 4#4
  | some (ty, vs) =>
    let s := if x.parts.any (·.kind == 1#2) && s.rankIn g 0 == some 0 then
        s.sendColl g (.order (s.collTag x.asid) x.group x.seq (arr.map (·.rank)))
      else s
    (s.putInst { x with started := true }).giveResult x ty vs

/-- A member module that has not sent its part, and that no path reaches (15 R367). -/
def State.cutOff (s : State) (g : Group) (x : Inst) : Bool :=
  g.modules && g.ids.any fun m => s.fab.lost.contains (BitVec.ofNat 10 m) && !x.parts.any (·.sender == m)

/-- Check an instance once a member of this module has issued it (R328), and start it once every member has; with a member that no
path reaches it is ERR 0x1 (15 R367). -/
def State.tryInst (s : State) (x : Inst) : State :=
  match s.group x.asid x.group with
  | none => s
  | some g =>
    let n := g.members.length
    if x.started || x.fate != 0#4 || !x.parts.any (·.here.isSome) then s
    else if x.parts.any fun q => q.n != n || placeIn q.sender g.ids != some q.rank then s.failAll x
    else if s.cutOff g x then s.failInst x 1#4
    else if !(List.range n).all fun r => (partRank x.parts r).isSome then s
    else if disagree x.parts n then s.failInst x 5#4
    else match (byRank x.parts n).find? (·.err != 0#4) with
      | some q => s.failInst x q.err
      | none =>
        if (x.parts.any (·.kind == 1#2)) then
          (match s.arrOrder g x with | some arr => s.startInst g x arr | none => s)
        else s.startInst g x x.parts

/-- The part of a member's next command begins the next instance: it has had its share of the failed one. -/
def Inst.begins (x : Inst) (m : Nat) : Bool := decide (x.rounds ≤ x.commands m)
/-- A part joins its instance. A second one of a member, or one that carries 0x5, fails it; one that joins an instance that has
failed fails too. -/
def State.addPart (s : State) (n : BitVec 12 × BitVec 8 × BitVec 16) (q : Part) : State :=
  let old := s.inst n
  let x := if old.fate ≠ 0#4 ∧ q.n ≠ 0 ∧ old.begins q.sender then Inst.fresh n else old
  let y : Inst := { x with parts := x.parts ++ [q] }
  if x.fate ≠ 0#4 then s.failInst y x.fate
  else if q.err = 5#4 ∨ x.parts.any (·.sender == q.sender) then s.failInst y 5#4
  else (s.putInst y).tryInst y

/-- The collective command just captured in tag `k` is the second of its member for an outstanding instance: 0x5 on every member
of every module, before anything more is written (R322, R336). -/
def State.judgeSecond (s : State) (cell k : Nat) : State :=
  match (s.tagAt cell k).cmd with
  | none => s
  | some c =>
    match s.group c.asid (cwGroup c.ctl) with
    | none => s
    | some g =>
      let m := s.memberId g (cell / 16)
      let x := s.inst c.name
      if x.fate = 0#4 ∧ (x.parts.any (·.sender == m) ∨
          ((s.named c.name).any fun (b, j, q) => (b, j) != (cell, k) && s.memberId g (q.issuer b) == m) ∨
          (s.shelved c.name).any fun (_, q) => q.coll.map (fun t => s.memberId g t.toNat) == some m) then
        s.failInst x 5#4
      else s

/-- A command stops at its stop unit with ERR 0x6 (R336); a saved image of its cell is told. -/
def State.killTag (s : State) (c k : Nat) : State :=
  let t := s.tagAt c k
  let s := match t.cmd with
    | some m => if (mget? s.vault m.num).isSome then s.shelve m.num { m.over 6#4 with late := 6#4, closed := true } else s
    | none => s
  (s.setTag c k { t with err := 6#4, busy := false, cmd := none }).unparkTag c k

/-- Nothing of the command is under way: it stands at a stop unit or waits for a page, which may stay pending over a stop of its tile (14
R355). -/
def State.atStop (s : State) (cell : Nat) (kind : Option EKind) (c : Cmd) : Bool :=
  c.atStop kind || c.fault.isSome || c.park || (s.tile (cell / 16)).run == .stopped

/-- A cancelled command that an absent page or a stop of its tile holds inside a chunk: it goes on to its stop unit, so that no part of a chunk stands
(R331, Table 13-6), and ends there. -/
def Cmd.cancelled (m : Cmd) : Cmd := { m with stop := true, closed := true }
/-- Cancel an instance on every member of this module (R327): each command goes on to its stop unit and ends with 0x6. -/
def State.cancelInst (s : State) (n : BitVec 12 × BitVec 8 × BitVec 16) : State :=
  let away := s.shelved n
  let s := (s.named n).foldl (fun s (c, k, _) =>
    let s := if s.engineInside c k && (s.tile (c / 16)).run != .stopped then s.engineUnit c k false 0 else s
    let t := s.tagAt c k
    match t.cmd with
    | some m => if m.atStop t.kind then s.killTag c k else s.setTag c k { t with cmd := some m.cancelled }
    | none => s) s
  (away.foldl (fun s (k, m) =>
    if m.atStop none then s.endShelved k { m with closed := true } 6#4 else s.shelve k m.cancelled) s).dropInst n

/-- The command of tag `k` reads its source, joins its instance and sends its request to the other modules of the group; a
non-root of XBCAST reads none (R331). An XRED between two types is a mismatch, and so is a request held here whose N or rank is
not this module's entry's (R328); one that joins a failed instance gives its ERR; a member module that no path reaches is ERR 0x1 (15 R367). -/
def State.postPart (s : State) (cell k : Nat) (c : Cmd) (refused : Bool) : State :=
  match s.group c.asid (cwGroup c.ctl), (s.tagAt cell k).kind with
  | some g, some kind =>
    let t := cell / 16
    let by_ := c.issuer cell
    let rank := (s.rankIn g by_).getD 0
    let err0 := (s.tagAt cell k).err
    let reads := err0 == 0#4 && (kind != .xbcast || rank == (cwArg3 c.ctl).toNat)
    let (vs, r) := readAll c t cell refused c.srcBoxes id (if reads then volume c.srcBoxes else 0) 0 [] ⟨s, err0, 0, false, none, []⟩
    match r.absent with
    | some va => r.s.engPark cell k c va
    | none =>
      let code : BitVec 2 := match kind with | .xbcast => 2#2 | .xgath => 3#2 | _ => if c.arr then 1#2 else 0#2
      let odd := (s.inst c.name).parts.any fun q => q.n != g.members.length || placeIn q.sender g.ids != some q.rank
      let old := s.inst c.name
      let err := if old.fate ≠ 0#4 ∧ !old.begins (s.memberId g by_) then old.fate
        else if (kind = .xred ∧ c.srcD.ty ≠ c.dstD.ty) ∨ (old.fate = 0#4 ∧ odd) then 5#4
        else if r.err ≠ 0#4 then r.err
        else if g.modules ∧ g.members.any (s.fab.lost.contains <| ·.setWidth 10) then 1#4 else 0#4
      let q : Part :=
        { sender := s.memberId g by_, n := g.members.length, rank := rank
          here := some (BitVec.ofNat 16 cell, BitVec.ofNat 3 k), kind := code, op := cwOp c.ctl, ty := c.srcD.ty
          sat := cwSat c.ctl, root := (cwArg3 c.ctl).toNat, err := err, vals := vs.filterMap id }
      let s := r.s.setTag cell k { s.tagAt cell k with cmd := some { c with posted := true } }
      let s := s.sendColl g (.there (s.collTag c.asid) (cwGroup c.ctl) (cwSeq c.ctl) q.n s.fab.devid q.rank q.kind q.op q.ty
        q.sat q.root q.err q.vals)
      s.addPart c.name q
  | _, _ => s

/-- COLLECTIVE_REQUEST: a request reaches this module's engine (R328); one of a space that has no such tag reaches none. -/
def execCollectiveRequest (r : CollReq) (s : State) : Result :=
  match r with
  | .here cell tag =>
    let t := s.tagAt cell.toNat tag.toNat
    match t.cmd, t.kind with
    | some c, some kind =>
      if kind.collective && !c.posted && c.grans.isNone && s.engineGoes cell.toNat t.kind c then
        .next (s.postPart cell.toNat tag.toNat c false)
      else .next s
    | _, _ => .next s
  | .there tag g seq n sender rank kind op ty sat root err vals =>
    let a := s.spaceOf true tag
    let name := (BitVec.ofNat 12 a, g, seq)
    if 4096 ≤ a then .next s
    else if err = 6#4 then .next (s.cancelInst name)
    else .next (s.addPart name ⟨sender.toNat, n, rank, none, kind, op, ty, sat, root, err, vals⟩)
  | .order tag g seq ranks =>
    let a := s.spaceOf true tag
    let x : Inst := { s.inst (BitVec.ofNat 12 a, g, seq) with order := some ranks }
    if 4096 ≤ a || x.fate != 0#4 then .next s else .next ((s.putInst x).tryInst x)

/-! ### An ANSWER that refuses a page (14 R345), and stop units (R355, R336) -/

/-- The refused page of a command: ERR 0x2, or FAULT of a completion step (R323). -/
def State.engineRefuse (s : State) (cell k : Nat) : State :=
  let t := s.tagAt cell k
  match t.cmd, t.kind with
  | some c, some kind =>
    let c := { c with fault := none }
    let s := s.setTag cell k { t with cmd := some c }
    match c.grans with
    | some gs => s.setLeft cell k c 7#4 (gs.drop 1)
    | none => if kind.collective && !c.posted then s.postPart cell k c true else s.engineUnit cell k true 0
  | _, _ => s

/-- A region of the command lacks a right that it needs under the grants of its tile as they stand. -/
def State.cmdLacks (s : State) (t : Nat) (kind : EKind) (c : Cmd) : Bool :=
  (firstLacking s t c.srcD c.src.desc c.srcBoxes [0]).isSome ||
  (kind == .gpool && (firstLacking s t c.tabD (cwArg2 c.ctl) [wholeBox c.tabD] [0]).isSome) ||
  (firstLacking s t c.dstD c.dst.desc c.dstBoxes (if cwTen c.ctl then [1, 2] else [1])).isSome

/-- After a restart a command whose region the kernel's changes of the grants during the stop have uncovered goes no further (11 Table
11-10): ERR 0x2, or 0x7 once its data part is over (log entry 34). One that they did not cover at the stop runs on under the
check made at its issue (06 Table 06-10). -/
def State.rejudge (s : State) (cell k : Nat) : State :=
  let t := s.tagAt cell k
  match t.cmd, t.kind with
  | some c, some kind =>
    if c.asid ≠ s.asidOf (cell / 16) ∨ c.lacks ∨ !s.cmdLacks (cell / 16) kind c then s
    else if c.grans.isSome then (s.setLeft cell k { c with park := false, fault := none } 7#4 []).unparkTag cell k
    else if kind.collective && !c.posted then s.setTag cell k { t with err := 2#4 }
    else s.endMove cell k c 2#4
  | _, _ => s
/-- Every command of a tile. -/
def State.rejudgeTile (s : State) (t : Nat) : State :=
  (List.range 128).foldl (fun s i => s.rejudge (16 * t + i / 8) (i % 8)) s

/-- At the stop every command notes whether the grants cover it. -/
def State.noteCmd (s : State) (cell k : Nat) : State :=
  let t := s.tagAt cell k
  match t.cmd, t.kind with
  | some c, some kind => s.setTag cell k { t with cmd := some { c with lacks := s.cmdLacks (cell / 16) kind c } }
  | _, _ => s
def State.noteTile (s : State) (t : Nat) : State :=
  (List.range 128).foldl (fun s i => s.noteCmd (16 * t + i / 8) (i % 8)) s

/-- A context that entered kernel mode from user mode and has not returned: it has not reached its next user instruction
boundary (14 R355). One that waits for a stop itself, and one in a double trap, issue nothing. -/
def Ctx.inHandler (c : Ctx) : Bool := c.live && !c.user && c.hnd && !c.double && c.wait != .asked
/-- An access that the context has issued is under way: not performed, or at the MTU with its page present. -/
def Ctx.underWay (c : Ctx) : Bool :=
  !c.pend.isEmpty || (c.live && c.user && match c.wait with | .walk _ _ => c.paid.isSome | .answered => true | _ => false)

/-- Every unit of a cell has reached its stop unit: started vector entries and matrix steps are complete, a handoff on its way has
landed (09 R224), contexts stand at user boundaries, what they have issued is performed (11 R278), and engines are between stop
units. -/
def State.cellStopped (s : State) (c : Nat) : Bool :=
  let x := s.cell c
  x.vrun.isEmpty && x.mrun.isNone && x.latch.flight.isEmpty && x.vq.all (·.todo == 15#4) &&
  x.slots.toList.all (fun y => !y.underWay && !y.inHandler) &&
  x.strm.toList.all (fun b => match b with | some st => st.pushed.isEmpty | none => true) &&
  x.tags.toList.all fun t => match t.cmd with | some m => s.atStop c t.kind m | none => true
def State.unitsStopped (s : State) (t : Nat) : Bool := (List.range 16).all fun i => s.cellStopped (16 * t + i)

/-- STOP_UNIT_REACHED: where the command in tag `k` was killed with its issuer, its collective instance is cancelled at once on every
member module (R327); the command ends at its stop unit alone, so that no part of a bag or of a chunk stands (R331, Table 13-11): one
that waits for an absent page inside it waits for the answer. Else the tile of the cell, when it is stopping, reports that every unit has acknowledged. -/
def execStopUnitReached (s : State) : Result :=
  let t := s.tagAt s.cid s.sel.k
  match t.cmd.filter (·.stop) with
  | some c =>
    if c.coll.isSome && !c.closed then .next ((s.sendFail c.name false 6#4).cancelInst c.name).pruneInsts
    else if c.atStop t.kind then .next (s.killTag s.cid s.sel.k).pruneInsts
    else .next s
  | none =>
    let x := s.myTile
    if x.run = .stopping && s.unitsStopped s.tid then
      .next ((s.noteTile s.tid).setTile s.tid { (s.noteTile s.tid).tile s.tid with run := .stopped, stopCyc := s.cycle })
    else .next s

/-! ### The commands (R321, R325, R329, R331, R332) -/

/-- A command stalls before Issue() while its tag is BUSY (R320), while the context's own stores to a length table are pending, on
which its check and its charge depend, and, when its check passes, until its release at the command scope is performed
(R275): so none is charged that does not get its tag. -/
def engineReady (k : EKind) (p : Pfx) (d a : BitVec 4) (s : State) : Bool :=
  !(s.myCell.tag (cwTag (opE p s))).busy && !s.ragWait (s.rg (p.an a)) && !s.ragWait (s.rg (p.dn d)) &&
  ((engineJudge k p d a s).isSome || (!s.ctx.accessHeld && s.released (commandScope k p d a s)))

/-- The meaning of an engine command: its checks, the release at its scope, its capture. -/
def engineBody (k : EKind) (p : Pfx) (d a : BitVec 4) (s : State) : Res :=
  match engineJudge k p d a s with
  | some e => .trap e
  | none =>
    let src := s.rg (p.an a)
    let dst := s.rg (p.dn d)
    let scope := commandScope k p d a s
    let s := engineCapture k p d a scope ((((s.meetTable src).meetTable dst).meetProt).release scope)
    .ok (if k.collective then s.judgeSecond s.cid (cwTag (opE p s)) else s)

/-- Issue an engine command: 4 units and its traffic, nothing for a failing check. -/
def engine (i : Instr) (k : EKind) (p : Pfx) (d a : BitVec 4) (s : State) : Result :=
  issue i {
    ready := engineReady k p d a
    cost := fun s => if (engineJudge k p d a s).isSome then (0, 0) else (4, engineTraffic k p d a s)
    body := engineBody k p d a } s

def execCopy (p : Pfx) (d a : BitVec 4) (s : State) : Result := engine (.copy p d a) .copy p d a s
def execGpool (p : Pfx) (d a : BitVec 4) (s : State) : Result := engine (.gpool p d a) .gpool p d a s
def execXred (p : Pfx) (d a : BitVec 4) (s : State) : Result := engine (.xred p d a) .xred p d a s
def execXbcast (p : Pfx) (d a : BitVec 4) (s : State) : Result := engine (.xbcast p d a) .xbcast p d a s
def execXgath (p : Pfx) (d a : BitVec 4) (s : State) : Result := engine (.xgath p d a) .xgath p d a s

end Sys2Proof.Machine
end

