-- ==== Sys2Proof/Machine/Float.lean ====
section
/-! DEFINITION. Sys2Proof/Machine/Float.lean: the page-8 instructions, scalar floating point (07 R189 to R193). -/

namespace Sys2Proof.Machine

/-- fx 5 selects f64 or f32 (03 R69). -/
def pFmt (p : Pfx) : FFmt := if p.fx.getLsbD 5 then fmtF64 else fmtF32
/-- A register's value as a code of the format: the higher bits are ignored (07 R166). -/
def codeOf (f : FFmt) (w : Word) : Nat := w.toNat % 2 ^ f.bits

/-- The result and flags of a page-8 instruction: higher bits zero (R166), flags ORed into fcsr (R170). -/
def fwrite (d : Nat) (r : Nat × FFlags) (s : State) : Res := .ok ((s.ws d (BitVec.ofNat 64 r.1)).raise r.2)
def fdone (p : Pfx) (d : BitVec 4) (r : Nat × FFlags) (s : State) : Res := fwrite (p.dn d) r s

/-- Two-operand FARITH. -/
def farith (i : Instr) (charge : Nat) (p : Pfx) (d a : BitVec 4) (f : FFmt → RM → Nat → Nat → Nat × FFlags) (s : State) :
    Result :=
  issue i (plain charge fun s =>
    fdone p d (f (pFmt p) (roundMode p s) (codeOf (pFmt p) (opX p d a s)) (codeOf (pFmt p) (opY p a s))) s) s
/-- One-source FARITH. -/
def farith1 (i : Instr) (charge : Nat) (p : Pfx) (d a : BitVec 4) (f : FFmt → RM → Nat → Nat × FFlags) (s : State) : Result :=
  issue i (plain charge fun s =>
    fdone p d (f (pFmt p) (roundMode p s) (codeOf (pFmt p) (opA p a s))) s) s

/-- FADD to FNEG (R190). -/
def execFadd (p : Pfx) (d a : BitVec 4) (s : State) : Result := farith (.fadd p d a) 1 p d a fadd s
def execFsub (p : Pfx) (d a : BitVec 4) (s : State) : Result := farith (.fsub p d a) 1 p d a fsub s
def execFmul (p : Pfx) (d a : BitVec 4) (s : State) : Result := farith (.fmul p d a) 1 p d a fmul s
def execFdiv (p : Pfx) (d a : BitVec 4) (s : State) : Result := farith (.fdiv p d a) 8 p d a fdiv s
def execFsqrt (p : Pfx) (d a : BitVec 4) (s : State) : Result := farith1 (.fsqrt p d a) 8 p d a fsqrt s
/-- FMA: d + a × e, one rounding; e is s0 without PFX.R. -/
def execFma (p : Pfx) (d a : BitVec 4) (s : State) : Result :=
  issue (.fma p d a) (plain 1 fun s =>
    let f := pFmt p
    fdone p d (ffma f (roundMode p s) (codeOf f (opD p d s)) (codeOf f (opA p a s)) (codeOf f (opE p s))) s) s
def execFmin (p : Pfx) (d a : BitVec 4) (s : State) : Result := farith (.fmin p d a) 1 p d a (fun f _ => fminmax f false) s
def execFmax (p : Pfx) (d a : BitVec 4) (s : State) : Result := farith (.fmax p d a) 1 p d a (fun f _ => fminmax f true) s
def execFabs (p : Pfx) (d a : BitVec 4) (s : State) : Result := farith1 (.fabs p d a) 1 p d a (fun f _ x => (fabs f x, 0#5)) s
def execFneg (p : Pfx) (d a : BitVec 4) (s : State) : Result := farith1 (.fneg p d a) 1 p d a (fun f _ x => (fneg f x, 0#5)) s

/-- The four conditions of FCMP (R191). -/
def fcondOf (c : BitVec 2) : FCond :=
  match c.toNat with
  | 0 => .eq | 1 => .lt | 2 => .le | _ => .un

/-- FCMP pushes a condition and sets NV (R191). -/
def execFcmp (p : Pfx) (d a : BitVec 4) (c : BitVec 2) (s : State) : Result :=
  issue (.fcmp p d a c) (pushing 1 (fun _ => 0) fun s =>
    let r := fcompare (pFmt p) (fcondOf c) (codeOf (pFmt p) (opX p d a s)) (codeOf (pFmt p) (opY p a s))
    pushRes (s.raise r.2) (condEntry r.1)) s

/-- FCVT: source code in fx 4:2, destination code in f (R192); PFX.R is ignored, so d and a are the bare fields. -/
def execFcvt (p : Pfx) (d a : BitVec 4) (g : BitVec 3) (s : State) : Result :=
  issue (.fcvt p d a g) (plain 1 fun s =>
    let src := tyOfScalarCode (p.fx.extractLsb' 2 3).toNat
    fwrite d.toNat (convert src (tyOfScalarCode g.toNat) (roundMode p s) (satOn p) (s.rs a.toNat).toNat) s) s

/-- FCLASS and FQNT (R193). -/
def execFclass (p : Pfx) (d a : BitVec 4) (s : State) : Result :=
  issue (.fclass p d a) (plain 1 fun s => fdone p d (fclassOf (pFmt p) (codeOf (pFmt p) (opA p a s)), 0#5) s) s
def execFqnt (p : Pfx) (d a : BitVec 4) (s : State) : Result :=
  issue (.fqnt p d a) (plain 1 fun s =>
    fdone p d (q4Encode ((pFmt p).decode (codeOf (pFmt p) (opA p a s))) (codeOf fmtF32 (opE p s))) s) s

end Sys2Proof.Machine
end

