-- ==== Sys2Proof/Machine/Fetch.lean ====
section
/-! DEFINITION. Sys2Proof/Machine/Fetch.lean: fetching an instruction's words through the fetch buffer (03 R45 to R49, R72,
R73), and storing an instruction where it is fetched. -/

namespace Sys2Proof.Machine

/-- One fetched word: the word, a TLB miss, or the trap of R72. -/
inductive FetchWord where
  | ok (w : Half) (s : State)
  | miss
  | err (e : Err)

/-- The sixteen words of the 32-byte block at a memory key. -/
def blockWords (m : Memory) (pa : Nat) : List Half := halves (rdBytes m pa 32)

/-- The word at `a`: from the fetch buffer, or after one access that fills it with the aligned block (R73), and that meets the
correctable errors of its line (10 R244). The buffer holds one block, fetched when a word of it is needed and never ahead of that, and
kept until another block takes its place or an acquire or FENCE empties it: R73 leaves open when it fetches, and so which of old and new
words run (DESIGN CHOICE, log entry 37). -/
def State.fetchWord (s : State) (a : Word) : FetchWord :=
  let here (b : FBuf) : Half := (b.words[a.toNat % 32 / 2]?).getD 0#16
  match s.ctx.fbuf.filter (·.block == a.toNat / 32) with
  | some b => .ok (here b) s
  | none =>
    match s.access s.cid s.ctx.user .fetch a.toNat 2 with
    | .mem pa _ _ =>
      let b : FBuf := ⟨a.toNat / 32, blockWords s.mem (pa / 32 * 32)⟩
      let s := s.meetLines s.tid (pa / 32 * 32) 32
      .ok (here b) (s.setCtx { s.ctx with fbuf := some b })
    | .win _ _ => .err ⟨6, a, 0#64, some (2, 0, 0)⟩
    | .miss => .miss
    | .err e => .err e

/-- What a fetch answers. -/
inductive Fetched where
  | instr (i : Instr) (s : State)
  | miss (va : Word) (s : State)
  | err (e : Err) (s : State)

/-- The state after a fetch at `a` that traps: a walk that refuses it has met the correctable errors of its lines (10 R244). -/
def State.fetchMet (s : State) (a : Word) : State :=
  if s.flaws = [] || decide (2 ^ 57 ≤ a.toNat) || (s.cached s.cid s.asid a.toNat).isSome then s else s.meetWalk s.tid s.asid a.toNat

/-- Fetch words from `a` on until they make an instruction; at most `n` more. -/
def fetchFrom : Nat → Word → List Half → State → Fetched
  | 0, a, _, s => .err ⟨2, a, 0#64, none⟩ s
  | n + 1, a, ws, s =>
    match s.fetchWord a with
    | .ok w s =>
      match decodeWords (ws ++ [w]) with
      | some (i, _) => .instr i s
      | none => fetchFrom n (a + 2#64) (ws ++ [w]) s
    | .miss => .miss a s
    | .err e => .err e (s.fetchMet a)

/-- Fetch the instruction at the pc: at most four prefix words and a base word, or a fifth prefix (R48). -/
def State.fetch (s : State) : Fetched := fetchFrom 5 s.ctx.pc [] s

/-- A fetch that missed waits for the MTU (10 R245). -/
def State.fetchMiss (s : State) (va : Word) : State := s.setCtx { s.ctx with wait := .walk va .fetch }

/-! ### An instruction stored where the next fetch reads -/

/-- The pc from which a stored instruction can be fetched: as it is when it is even and small enough. -/
def loadPc (pc : Word) : Word := if pc.toNat < 2 ^ 39 then pc &&& ~~~1#64 else 0#64

/-- A leaf entry that maps the 4 KiB page of `va` to the same offset of local HBM, with all rights and K as given. -/
def loadPte (va : Nat) : Word := BitVec.ofNat 64 (va / 4096 * 4096 + 0x0F)

/-- Translations of the page of `pc` and the one after it. -/
def State.mapCode (s : State) (pc : Nat) : State :=
  let asid := s.asid
  let x := s.myCell
  s.setMyCell { x with utlb := mkTlb asid pc (loadPte pc) :: mkTlb asid (pc + 4096) (loadPte (pc + 4096)) :: x.utlb }

/-- Make the selected context one that issues, with these words at its pc. -/
def State.loadWords (s : State) (ws : List Half) : State :=
  let s := if s.sid ≤ 10 ∧ s.cid < numCells then s else { s with sel := ⟨bootCell, 0#4, 0⟩ }
  let pc := loadPc s.ctx.pc
  let bytes := ws.flatMap fun w => [w.extractLsb' 0 8, w.extractLsb' 8 8]
  let s := if s.ctx.live then s else s.setCtx { s.ctx with live := true, win := (s.myCell.freeWindow s.ctx.ident).1 }
  let s := s.setCtx { s.ctx with pc := pc, double := false, wait := .none, paid := none, cap := none, fbuf := none, pend := [], vdest := [] }
  let s := s.setMyTile { s.myTile with run := .running }
  let s := s.mapCode pc.toNat
  { s with
    mem := wrBytes s.mem pc.toNat bytes
    power := true
    poison := s.poison.filter fun l => !(l == pc.toNat / 64 || l == (pc.toNat + bytes.length) / 64)
    host := { s.host with pstate := 0#2 }
    agenda := [.issue s.sel.cell s.sel.slot] }

end Sys2Proof.Machine
end

