-- ==== Sys2Proof/Machine/Routing.lean ====
section
/-! DEFINITION. Sys2Proof/Machine/Routing.lean: expert heaps and routing counters: HPOFFER, HPREAD, RCINC, RCSNAP (13 R333 to
R335). -/

namespace Sys2Proof.Machine

/-! ### Heaps (R333) -/

/-- Entry A ranks above B: the greater score (-0 = +0), then the lower token. -/
def ranksAbove (a b : Word) : Bool :=
  let x := fmtF32.decode (a.toNat % 2 ^ 32)
  let y := fmtF32.decode (b.toNat % 2 ^ 32)
  let c := cmpVal x y
  decide (0 < c) || (c == 0 && decide ((a.extractLsb' 32 32).toNat < (b.extractLsb' 32 32).toNat))

/-- Insert an entry in rank order, best first. -/
def insertRank (x : Word) : List Word → List Word
  | [] => [x]
  | y :: ys => if ranksAbove x y then x :: y :: ys else y :: insertRank x ys
def sortRank : List Word → List Word
  | [] => []
  | x :: xs => insertRank x (sortRank xs)

/-- The place and value of the lowest-ranked entry: the last of those that rank alike. -/
def lowest : Nat → List Word → Option (Nat × Word)
  | _, [] => none
  | i, x :: xs =>
    match lowest (i + 1) xs with
    | none => some (i, x)
    | some (j, y) => if ranksAbove y x then some (i, x) else some (j, y)

/-- The memory key of an address in a scratchpad, as the heap's address must be. -/
def heapKey (t : Nat) (va : Word) : Option Nat :=
  match place va.toNat with
  | .scratch u off => some (scratchKey u off)
  | .window 0 off => some (scratchKey t off)
  | _ => none

/-- CAP, COUNT and the entries of a heap. -/
def heapCap (s : State) (key : Nat) : Nat := rdN s.mem key 4
def heapCount (s : State) (key : Nat) : Nat := rdN s.mem (key + 4) 4
def heapEntries (s : State) (key n : Nat) : List Word := (List.range n).map fun i => rd64 s.mem (key + 16 + 8 * i)

/-- The trap of a read of `n` bytes that lie in more than one line, when one of them holds an uncorrectable error (10 R244). -/
def State.poisonIn (s : State) (va : Word) (pa n : Nat) : Option Err :=
  ((linesOf pa n).find? s.poison.contains).map fun l => mkErr 0x15 (va + BitVec.ofNat 64 (64 * l - pa)) 0#64

/-- The checks of a heap, for an operation with right `need`; then `k` on its key. -/
def withHeap (need : Need) (va : Word) (s : State) (k : Nat → State → Res) : Res :=
  match heapKey s.tid va with
  | none => .trap ⟨6, va, 0#64, s.unmappedLog s.tid s.ctx.user va.toNat 16⟩
  | some key =>
    match s.access s.cid s.ctx.user need va.toNat 16 with
    | .mem _ _ _ =>
      let size := 16 + 8 * heapCap s key
      if s.pendTouches key size then .hold
      else if heapCap s key = 0 ∨ 4096 < heapCap s key ∨ heapCap s key < heapCount s key then .trap (mkErr 0x13 s.ctx.pc 9#64)
      else match s.access s.cid s.ctx.user need va.toNat size with
        | .mem _ _ _ =>
          match s.poisonIn va key size with
          | some e => .trap e
          | none => k key (s.meetLines s.tid key size)
        | a => accRes s va .load a
    | a => accRes s va .load a

/-- The scratchpad of another tile. -/
def farHeap (s : State) (va : Word) : Bool := chargedBytes s.tid va.toNat 1 != 0

/-- HPOFFER (R334). -/
def offer (s : State) (key : Nat) (o : Word) : Word × State :=
  let cap := heapCap s key
  let n := heapCount s key
  if (fmtF32.decode (o.toNat % 2 ^ 32)).isNaN then (1#64, s)
  else if n < cap then (0#64, (s.put64 s.tid (key + 16 + 8 * n) o).putN s.tid (key + 4) 4 (n + 1))
  else match lowest 0 (heapEntries s key n) with
    | none => (1#64, s)
    | some (i, w) =>
      if ranksAbove o w then ((w >>> 32) <<< 32 ||| 2#64, s.put64 s.tid (key + 16 + 8 * i) o) else (1#64, s)

def execHpoffer (p : Pfx) (d a : BitVec 4) (s : State) : Result :=
  issue (.hpoffer p d a) (memory 2 (fun s => if farHeap s (opA p a s) then 1 else 0) fun s =>
    let va := opA p a s
    if va.toNat % 16 ≠ 0 then .trap (mkErr 4 va 0#64)
    else if s.ctx.accessHeld then .hold
    else withHeap .atomic va s fun key s => withRelease p s fun s =>
      let (r, s) := offer s key (opE p s)
      .ok (withAcquire p (s.ws (p.dn d) r))) s

/-! ### Stores of an operation, as accesses of the issuing context -/

/-- Pieces of 8 bytes from an address on: all are checked before any is stored. -/
def wordPieces (s : State) (va : Word) : List Word → Except Res (List WByte × FFlags)
  | [] => .ok ([], 0#5)
  | w :: ws =>
    match s.storePiece va (leBytes 8 w.toNat) with
    | .error r => .error r
    | .ok (bs, _, f) =>
      match wordPieces s (va + 8#64) ws with
      | .error r => .error r
      | .ok (cs, g) => .ok (bs ++ cs, f ||| g)

/-- The traffic of an HPREAD (R334): it depends on COUNT. -/
def hpreadCost (p : Pfx) (a : BitVec 4) (s : State) : Nat :=
  match heapKey s.tid (opA p a s) with
  | none => 0
  | some key =>
    let n := heapCount s key
    units ((if farHeap s (opA p a s) then 16 + 8 * n else 0) + chargedBytes s.tid (opE p s).toNat (8 * n))

/-- The context's own earlier accesses to CAP and COUNT are performed. -/
def heapReady (p : Pfx) (a : BitVec 4) (s : State) : Bool :=
  !s.ctx.accessHeld && match heapKey s.tid (opA p a s) with | some key => !s.pendTouches key 16 | none => true

/-- HPREAD: the entries in rank order (R334). A bad CAP or COUNT traps as for HPOFFER (log entry 14). It is charged in the step that
reads COUNT, so that it pays for what it moves. -/
def execHpread (p : Pfx) (d a : BitVec 4) (s : State) : Result :=
  issue (.hpread p d a) (Shape.unissued { ready := heapReady p a, cost := fun s => (2, hpreadCost p a s), body := fun s => (
    let va := opA p a s
    let dst := opE p s
    if va.toNat % 16 ≠ 0 then .trap (mkErr 4 va 0#64)
    else if dst.toNat % 8 ≠ 0 then .trap (mkErr 4 dst 0#64)
    else if s.ctx.accessHeld then .hold
    else withHeap .read va s fun key s =>
      let n := heapCount s key
      match wordPieces s dst (sortRank (heapEntries s key n)) with
      | .error r => r
      | .ok (bs, f) =>
        if s.pendMeets bs then .hold
        else withRelease p s fun s =>
          .ok (withAcquire p ((((s.touchPuts (pieces dst 8 n) 8).write s.tid bs).raise f).ws (p.dn d) (BitVec.ofNat 64 n)))) }) s

/-! ### Routing counters (R335) -/

/-- An indivisible operation on `n` bytes of counters: in local HBM, on a remote module or in a scratchpad. -/
def withCounters (va : Word) (n : Nat) (s : State) (k : Nat → State → Res) : Res :=
  if va.toNat % n ≠ 0 then .trap (mkErr 4 va 0#64)
  else if s.ctx.accessHeld then .hold
  else match s.access s.cid s.ctx.user .atomic va.toNat n with
    | .mem pa _ _ =>
      if pa < scratchBase ∧ pa / 2 ^ 56 = 1 then .trap (mkErr 6 va 0#64)
      else if s.pendTouches pa n then .hold
      else match s.poisonIn va pa n with
        | some e => .trap e
        | none => k pa (s.meetLines s.tid pa n)
    | a => accRes s va .store a

def execRcinc (p : Pfx) (d a : BitVec 4) (s : State) : Result :=
  issue (.rcinc p d a) (memory 2 (fun s => units (chargedBytes s.tid (opA p a s).toNat 4)) fun s =>
    withCounters (opA p a s) 4 s fun pa s => withRelease p s fun s =>
      let old := rdN s.mem pa 4
      let s := s.putN s.tid pa 4 (min (old + (opE p s).toNat % 2 ^ 32) (2 ^ 32 - 1))
      .ok (withAcquire p (s.ws (p.dn d) (BitVec.ofNat 64 old)))) s

/-- RCSNAP: the block is read and cleared as one, then written at s[d]; both addresses are checked before. -/
def execRcsnap (p : Pfx) (d a : BitVec 4) (s : State) : Result :=
  issue (.rcsnap p d a)
    (memory 2 (fun s => units (chargedBytes s.tid (opA p a s).toNat 256 + chargedBytes s.tid (opD p d s).toNat 256)) fun s =>
    let dst := opD p d s
    if (opA p a s).toNat % 256 ≠ 0 then .trap (mkErr 4 (opA p a s) 0#64)
    else if dst.toNat % 8 ≠ 0 then .trap (mkErr 4 dst 0#64)
    else withCounters (opA p a s) 256 s fun pa s =>
      match wordPieces s dst ((List.range 32).map fun i => rd64 s.mem (pa + 8 * i)) with
      | .error r => r
      | .ok (bs, f) =>
        if s.pendMeets bs then .hold
        else withRelease p s fun s =>
          .ok (withAcquire p ((((s.touchPuts (pieces dst 8 32) 8).putN s.tid pa 256 0).write s.tid bs).raise f))) s

end Sys2Proof.Machine
end

