-- ==== Sys2Proof/Machine/Park.lean ====
section
/-! DEFINITION. Sys2Proof/Machine/Park.lean: parked stage steps: their retry and the conversion of a long-parked context into a
record (10 R259, R260). -/

namespace Sys2Proof.Machine

/-- The tile on whose behalf a step is parked. -/
def Who.tile : Who → Nat
  | .ctx c _ => c.toNat / 16
  | .record t _ _ _ => t.toNat
  | .engine c _ => c.toNat / 16
  | .remote => numTiles

/-- The tile that a parked step acts as: for a step of another module the first of the cluster that is its home (14 R360; log entry 30). -/
def Parked.tile (q : Parked) : Nat :=
  match q.who, q.loc with
  | .remote, .word pa _ => homeTile pa
  | w, _ => w.tile

/-- Run `f` for the context of slot (c, n). -/
def State.asCtx (s : State) (c : BitVec 16) (n : BitVec 4) (f : State → State) : State :=
  { f { s with sel := ⟨c, n, 0⟩ } with sel := s.sel }

/-- The places of a parked step through the page tables as they stand; none when one is absent or forbidden now. A step of another
module comes with its places. -/
def State.relocate (s : State) (q : Parked) : Option Parked :=
  let r := q.req
  let look (need : Need) (n : Nat) (va : Word) : Acc := s.walkAccess q.who.tile r.asid r.user need va.toNat n
  let place_ (g : Nat × GLoc) : Option (Nat × GLoc) :=
    match g.2 with
    | .ctl _ _ => some g
    | .word _ _ => (granLoc r.desc r.user (look .stage 8) g.1).toOption.map fun l => (g.1, l)
  let pa : Option (Option Nat) :=
    match r.va with
    | none => some r.pa
    | some va => match look (if r.op = .lds then .read else .write) r.desc.tyOf.bytes va with | .mem pa _ _ => some (some pa) | _ => none
  if q.who = .remote then some q
  else match r.grans.mapM place_, pa with
    | some gs, some pa => some { q with loc := (gs.headD (0, q.loc)).2, req := { r with grans := gs, pa := pa } }
    | _, _ => none

/-- Translations of an address space are removed: its parked steps go on at the places that the tables now give (10 R251, R264).
Where they give none, a context's step is withdrawn and its instruction tried again, an engine's granule stays to be stepped,
and a record's step is to be sent again. One that has another home now is sent there, and joins that queue when it has room (R259). -/
def State.relocateParked (s : State) (asid : BitVec 12) : State :=
  s.parked.foldl (fun s q =>
    if q.who = .remote ∨ q.req.asid ≠ asid then { s with parked := s.parked ++ [q] }
    else match s.relocate q, q.who with
      | some p, _ =>
        { s with parked := s.parked ++ [{ p with inq := p.inq && p.loc.home == q.loc.home }] }
      | none, .ctx c n =>
        let x := s.ctxAt c.toNat n.toNat
        if x.wait = .stage then s.setCtxAt c.toNat n.toNat { x with wait := .answered } else s
      | none, .engine c k =>
        let x := s.tagAt c.toNat k.toNat
        s.setTag c.toNat k.toNat { x with cmd := x.cmd.map fun m =>
          { m with park := false, grans := m.grans.map fun gs => q.req.grans.map (·.1) ++ gs } }
      | none, _ => { s with parked := s.parked ++ [{ q with inq := false }] }) { s with parked := [] }

/-- The step may be retried: its context or engine is not stopped (14 R355), a record's frame can be reached and its requeue place is free
(12 R300). -/
def State.whoReady (s : State) : Who → Bool
  | .ctx c n => let x := s.ctxAt c.toNat n.toNat; x.wait == .stage && (!x.user || (s.tile (c.toNat / 16)).run == .running)
  | .record t f _ k => (s.frameKey t.toNat f).isSome && (s.tile t.toNat).placeFree k
  | .engine c k =>
    match (s.tagAt c.toNat k.toNat).cmd with
    | some m => m.park && !m.stop && (s.tile (c.toNat / 16)).run == .running
    | none => false
  | .remote => true

/-- An answer to another module. -/
def State.reply (s : State) (a : Answer) : State := { s with fab := { s.fab with answers := s.fab.answers ++ [a] } }

/-- Deliver a completed step: its value and its acquire to the context or the record, which enters the ready queue. -/
def State.stageDone (s : State) (q : Parked) (v : Option Word) (order : BitVec 2) : State :=
  let r := q.req
  match q.who with
  | .ctx c n => s.asCtx c n fun s =>
      let s := match v with | some v => s.ws r.dest v | none => s
      let s := if order.getLsbD 0 then s.acquire r.scope else s
      s.settle.addPc r.ilen
  | .record t f _ k =>
    match s.frameKey t.toNat f with
    | none => s
    | some key =>
      let s := match v with | some v => s.setF64 t.toNat key (fS r.dest) v | none => s
      s.requeue t.toNat f key (max 1 (if order.getLsbD 0 then r.scope else 0)) r.ilen k
  | .engine c k =>
    let x := s.tagAt c.toNat k.toNat
    s.setTag c.toNat k.toNat { x with cmd := x.cmd.map fun m => { m with park := false } }
  | .remote => s.reply (.data (match v with | some v => leBytes r.desc.tyOf.bytes v.toNat | none => []))

/-- Deliver a FAULT (R258): a trap, a record of reason 6, or ERR 0x7. -/
def State.stageFault (s : State) (q : Parked) (g st : Nat) : State :=
  let r := q.req
  let e := stageErr r g st
  match q.who with
  | .ctx c n => s.asCtx c n fun s => s.trapBack e r.ilen
  | .record t f _ k =>
    match s.frameKey t.toNat f with
    | none => s
    | some key =>
      let s := s.setF64 t.toNat key fCPC ((r.pc &&& 0x01FFFFFFFFFFFFFE#64) ||| (6#64 <<< 61))
      let s := (s.setF64 t.toNat key fFTADDR e.addr).setF64 t.toNat key fFTINFO e.info
      s.requeue t.toNat f key 1 r.ilen k
  | .engine c k =>
    let x := s.tagAt c.toNat k.toNat
    s.setTag c.toNat k.toNat { x with err := 7#4, cmd := x.cmd.map fun m => { m with park := false } }
  | .remote => s.reply (.fault st)

/-- The virtual address of a granule's state or an element of a parked step that holds an uncorrectable error now (R244). -/
def State.stepPoison (s : State) (r : StageReq) : Option Word :=
  let lost (pa : Nat) : Bool := s.poison.contains (pa / 64)
  match r.grans.find? (fun g => s.granLost g.2), r.op, r.pa, r.va with
  | some g, _, _, _ => some (r.desc.granVa g.1)
  | none, .lds, some pa, some va => if lost pa then some va else none
  | _, _, _, _ => none
/-- Nothing of the step is done: its context traps with 0x15, an engine meets a FAULT (13 R323), another module gets an error. A
record has no context to trap (R260 gives it the FAULT alone): its instruction is issued again, and traps then (log entry 35). -/
def State.stepLost (s : State) (q : Parked) (va : Word) : State :=
  let r := q.req
  match q.who with
  | .ctx c n => s.asCtx c n fun s => s.trapBack (mkErr 0x15 va 0#64) r.ilen
  | .record t f _ k =>
    match s.frameKey t.toNat f with
    | none => s
    | some key =>
      (s.setF64 t.toNat key fCPC ((r.pc &&& 0x01FFFFFFFFFFFFFE#64) ||| (5#64 <<< 61))).requeue t.toNat f key 1 r.ilen k
  | .engine c k =>
    let x := s.tagAt c.toNat k.toNat
    s.setTag c.toNat k.toNat { x with err := 7#4, cmd := x.cmd.map fun m => { m with park := false } }
  | .remote => s.reply .error

/-- The `i`-th parked step may go on: it is in its queue, its entry no longer says PARK, and no step that parked on its granule
before it is due (R259); or it is to be sent again. -/
def State.retryDue (s : State) (i : Nat) (q : Parked) : Bool :=
  let due (p : Parked) : Bool := p.inq && entAct (s.stageEntry p.req p.loc) != .park
  !q.inq || (due q && !(s.parked.take i).any fun p => p.loc == q.loc && due p)

/-- Retry the `i`-th parked step; one that must be sent again once more keeps its place in the list. -/
def State.retryParked (s : State) (i : Nat) : State :=
  match s.parked[i]? with
  | none => s
  | some q =>
    if !s.retryDue i q || !s.whoReady q.who then s
    else
      let rest : State := { s with parked := s.parked.eraseIdx i }
      match (if q.inq then some q else s.relocate q) with
      | none => s
      | some q =>
      match s.stepPoison q.req with
      | some va => rest.stepLost q va
      | none =>
      match stageRun q.tile q.req (if q.inq then .queued else .later) none q.req.order q.req.grans rest with
      | .done s v o => s.stageDone q v o
      | .park s r l inq => { s with parked :=
          if q.inq || inq then s.parked ++ [⟨q.who, l, r, inq⟩] else s.parked.take i ++ ⟨q.who, l, r, inq⟩ :: s.parked.drop i }
      | .fault s g st => s.stageFault q g st
      | .full => s
      | .wait => s

/-- PARKED_STEP_RETRY of the parked step at place `k`. -/
def execParkedStepRetry (s : State) : Result := .next (s.retryParked s.sel.k)

/-- LONG_PARK_CONVERSION (R260): the selected context leaves its slot as a record of reason 5; its step stays parked. When
4,096 cycles have passed is the schedule's (log entry 6). -/
def execLongParkConversion (s : State) : Result :=
  let x := s.ctx
  let me : Who := .ctx s.sel.cell s.sel.slot
  if x.wait != .stage || x.cmask == 0#16 || decide (2#2 ≤ x.bpol) || decide (0 < x.pdepth) || !x.user || x.preq.isSome || !s.canLeave
  then .next s
  else match s.parked.find? (fun q => q.inq && q.who == me), s.frameKey s.tid x.ident with
    | some q, some key =>
      let next := q.req.pc + BitVec.ofNat 64 (2 * q.req.ilen)
      let mask := if q.req.op = .lds then x.cmask ||| BitVec.ofNat 16 (2 ^ q.req.dest) else x.cmask
      let s := s.saveRecord s.cid s.sid key next mask 5#3
      let s : State := { s with parked := s.parked.map fun p =>
        if p.who = me then { p with who := .record (BitVec.ofNat 12 s.tid) x.ident next (placeOf s.cid s.sid) } else p }
      .next (s.freeSlot s.cid s.sid)
    | _, _ => .next s

end Sys2Proof.Machine
end

