-- ==== Sys2Proof/Machine/Image.lean ====
section
/-! DEFINITION. Sys2Proof/Machine/Image.lean: context, cell and tile images by doubleword (14 R350, R352), and answers to page
faults (R345, R347). Layouts that the spec leaves open are log entry 15's. -/

namespace Sys2Proof.Machine

/-- Two 32-bit halves of a doubleword, the low one first. -/
def dw (lo hi : BitVec 32) : Word := hi ++ lo
def lo32 (w : Word) : BitVec 32 := w.extractLsb' 0 32
def hi32 (w : Word) : BitVec 32 := w.extractLsb' 32 32
def byteOf (w : Word) (i : Nat) : BitVec 8 := w.extractLsb' (8 * i) 8
/-- Doubleword `k` of a bit vector, read and replaced. -/
def dwAt {n : Nat} (x : BitVec n) (k : Nat) : Word := x.extractLsb' (64 * k) 64
def dwSet {n : Nat} (x : BitVec n) (k : Nat) (w : Word) : BitVec n :=
  (x &&& ~~~((BitVec.allOnes 64).setWidth n <<< (64 * k))) ||| (w.setWidth n <<< (64 * k))

/-! ### The context image (Table 14-4) -/

/-- Doubleword `k` of the image of a context. -/
def Ctx.dw (x : Ctx) (k : Nat) : Word :=
  match k with
  | 0 => x.pc
  | 1 => x.ident
  | 2 => x.ibud.toWord
  | 3 => x.mbud.toWord
  | 4 => x.cont
  | 5 => x.cmask.setWidth 64
  | 6 => Machine.dw x.iallow x.mallow
  | 7 => BitVec.ofNat 64 (x.mode.toNat + x.bpol.toNat * 2 ^ 8 + x.pdepth * 2 ^ 16 + x.fcsr.toNat * 2 ^ 24 + x.gmode.toNat * 2 ^ 32)
  | 8 => Machine.dw x.vcnt x.psmask
  | 9 => bit 64 x.pss
  | 42 => x.tpc
  | 43 => x.tcause
  | 44 => x.taddr
  | 45 => x.tinfo
  | 46 => x.tvec
  | 47 => x.tstat
  | _ =>
    if 10 ≤ k ∧ k < 26 then vget x.regs (k - 10) 0#64
    else if 26 ≤ k ∧ k < 42 then (match x.pst[k - 26]? with | some e => spillWord e | none => 0#64)
    else if 48 ≤ k ∧ k < 52 then vget x.ks (k - 48) 0#64
    else 0#64

/-- A predicate stack of a given depth: at most sixteen entries in hardware, the rest spilled (04 R88, R91). -/
def Ctx.setDepth (x : Ctx) (n : Nat) : Ctx :=
  let n := min n 64
  { x with pst := (x.pst ++ List.replicate 16 (PEntry.mk false 0#32)).take (min n 16), spilled := n - 16 }

/-- A MODE byte as a writer of mode `by_` may load it (R339): kernel mode never makes a mode above 1. -/
def modeByte (by_ : BitVec 2) (b : BitVec 8) : BitVec 2 :=
  let m := BitVec.ofNat 2 (min b.toNat 2)
  if by_ = 2#2 then m else if m = 2#2 then 1#2 else m

/-- Write doubleword `k` of the image, by a writer of mode `by_`; the program counter is always even (03 R57). -/
def Ctx.setDw (x : Ctx) (by_ : BitVec 2) (k : Nat) (v : Word) : Ctx :=
  match k with
  | 0 => { x with pc := v &&& ~~~1#64, fbuf := none }
  | 1 => { x with ident := v }
  | 2 => { x with ibud := Budget.ofWord v }
  | 3 => { x with mbud := Budget.ofWord v }
  | 4 => { x with cont := v }
  | 5 => { x with cmask := v.extractLsb' 0 16 }
  | 6 => { x with iallow := lo32 v, mallow := hi32 v }
  | 7 => { (x.setDepth (byteOf v 2).toNat) with
      mode := modeByte by_ (byteOf v 0)
      bpol := (byteOf v 1).extractLsb' 0 2
      fcsr := byteOf v 3
      gmode := (byteOf v 4).extractLsb' 0 2 }
  | 8 => { x with vcnt := lo32 v, psmask := hi32 v }
  | 9 => { x with pss := v.getLsbD 0 }
  | 42 => { x with tpc := v }
  | 43 => { x with tcause := v }
  | 44 => { x with taddr := v }
  | 45 => { x with tinfo := v }
  | 46 => { x with tvec := v }
  | 47 => { x with tstat := v &&& 0x77#64 }
  | _ =>
    if 10 ≤ k ∧ k < 26 then { x with regs := vset x.regs (k - 10) v }
    else if 26 ≤ k ∧ k < 42 then (if k - 26 < x.pst.length then { x with pst := x.pst.set (k - 26) (unspill v) } else x)
    else if 48 ≤ k ∧ k < 52 then { x with ks := vset x.ks (k - 48) v }
    else x

/-- Write doublewords from the `k`-th on. -/
def Ctx.load (x : Ctx) (by_ : BitVec 2) : Nat → List Word → Ctx
  | _, [] => x
  | k, w :: ws => (x.setDw by_ k w).load by_ (k + 1) ws
def Ctx.image (x : Ctx) : List Word := (List.range 64).map x.dw

/-! ### The cell image (R352) -/

/-- The matrix status word (09 Table 09-2). -/
def Cell.matrixStatus (x : Cell) : Word :=
  bit 64 x.latch.infull ||| (bit 64 x.latch.pending <<< 1) ||| (bit 64 (x.bank0.owner != 0#64) <<< 2)
    ||| (bit 64 (x.bank1.owner != 0#64) <<< 3) ||| (bit 64 x.lru <<< 4) ||| (x.latch.ihops.setWidth 64 <<< 8)
    ||| (x.latch.chops.setWidth 64 <<< 12)

def ekindCode : Option EKind → Nat
  | none => 0 | some .copy => 1 | some .gpool => 2 | some .xred => 3 | some .xbcast => 4 | some .xgath => 5
def ekindOf (n : Nat) : Option EKind :=
  match n with | 1 => some .copy | 2 => some .gpool | 3 => some .xred | 4 => some .xbcast | 5 => some .xgath | _ => none

/-- Doubleword `k` of a tag: BUSY, ERR, kind and scope; chunk count; issuer; the number of its command, plus 1. -/
def Tag.dw (t : Tag) (k : Nat) : Word :=
  match k with
  | 0 => BitVec.ofNat 64 (t.busy.toNat + t.err.toNat * 16 + ekindCode t.kind * 256 + t.scope * 2 ^ 16)
  | 1 => BitVec.ofNat 64 t.chunks
  | 2 => t.issuer
  | 3 => (match t.cmd with | some c => BitVec.ofNat 64 (c.num + 1) | none => 0#64)
  | _ => 0#64

/-- The held command of a number, and the held binding. What waited at an MTU when the image was saved is accessed again: its answer
may have come meanwhile. -/
def State.heldCmd (s : State) (n : Nat) : Option Cmd :=
  match mget? s.vault n with | some (.cmd c) => some { c with fault := none } | _ => none
def State.heldStrm (s : State) (n : Nat) : Option Stream :=
  match mget? s.vault n with | some (.strm x) => some { x with fault := none } | _ => none

/-- A write of doubleword `k` of a tag; a command that has ended since its image was saved is BUSY no more. -/
def Tag.setDw (s : State) (t : Tag) (k : Nat) (v : Word) : Tag :=
  match k with
  | 0 => { t with busy := v.getLsbD 0, err := v.extractLsb' 4 4, kind := ekindOf (byteOf v 1).toNat, scope := (byteOf v 2).toNat }
  | 1 => { t with chunks := v.toNat }
  | 2 => { t with issuer := v }
  | 3 =>
    let cmd := if v = 0#64 then none else
      match t.cmd with
      | some c => if c.num + 1 = v.toNat then some c else s.heldCmd (v.toNat - 1)
      | none => s.heldCmd (v.toNat - 1)
    let late := match cmd with | some c => c.late | none => 0#4
    { t with cmd := cmd, err := if late = 0#4 then t.err else late, busy := t.busy && (v == 0#64 || cmd.isSome) }
  | _ => t

/-- Doubleword `k` of a stream binding: bound, direction, EOS and type; base; counts; strides; its number, plus 1. -/
def strmDw (x : Option Stream) (k : Nat) : Word :=
  match x with
  | none => 0#64
  | some st =>
    match k with
    | 0 => BitVec.ofNat 64 (1 + st.wr.toNat * 2 + st.coord.toNat * 4 + st.eos.toNat * 8 + st.ty.toNat * 256 + st.slot.toNat * 2 ^ 16)
    | 1 => st.base
    | 2 => Machine.dw (vget st.cnt 0 0#32) (vget st.cnt 1 0#32)
    | 3 => Machine.dw (vget st.cnt 2 0#32) 0#32
    | 4 => vget st.stride 0 0#64
    | 5 => vget st.stride 1 0#64
    | 6 => vget st.stride 2 0#64
    | _ => BitVec.ofNat 64 (st.num + 1)

/-- A write of a binding: its last doubleword names it, 0 in the first unbinds it; the rest is what it was bound with. -/
def strmSet (s : State) (x : Option Stream) (k : Nat) (v : Word) : Option Stream :=
  match k with
  | 0 => if v.getLsbD 0 then x else none
  | 7 =>
    if v = 0#64 then none
    else match x with
      | some st => if st.num + 1 = v.toNat then some st else s.heldStrm (v.toNat - 1)
      | none => s.heldStrm (v.toNat - 1)
  | _ => x

/-- The region image of a register padded to 512 bytes, by doubleword; writing one rebuilds the register (06 R131). -/
def GReg.dw (g : GReg) (k : Nat) : Word := BitVec.ofNat 64 (natAt g.image (8 * k) 8)
def GReg.ofImage (bs : List Byte) : GReg :=
  let rank := min 4 (byteAt bs 2)
  let fl := byteAt bs 4
  { desc := BitVec.ofNat 12 (natAt bs 0 2), rank := BitVec.ofNat 3 rank, ovf := fl / 8 % 2 == 1, ragged := fl / 4 % 2 == 1
    strided := fl / 2 % 2 == 1, inexact := fl % 2 == 1, ltab := BitVec.ofNat 64 (natAt bs 8 8)
    boxes := imageBoxes bs (min 8 (byteAt bs 3)) rank }
def GReg.setDw (g : GReg) (k : Nat) (v : Word) : GReg :=
  if 50 ≤ k then g
  else
    let bs := g.image
    GReg.ofImage (bs.take (8 * k) ++ leBytes 8 v.toNat ++ bs.drop (8 * k + 8))

/-- Doubleword `k` of the image of cell `c`. -/
def State.cellDw (s : State) (c k : Nat) : Word :=
  let x := s.cell c
  let o := 8 * k
  if o < 0x1000 then
    let v := vget x.v (k / 16) zeroLanes
    Machine.dw (vget v (2 * (k % 16)) 0#32) (vget v (2 * (k % 16) + 1) 0#32)
  else if o < 0x3000 then (vget x.g ((o - 0x1000) / 512) GReg.unset).dw ((o - 0x1000) / 8 % 64)
  else if o < 0x5000 then
    let j := (o - 0x3000) / 8
    dwAt (vget (x.bank (decide (512 ≤ j))).acc (j % 512 / 128) 0#8192) (j % 128)
  else if o = 0x5000 then x.bank0.owner
  else if o = 0x5008 then x.bank1.owner
  else if o = 0x5010 then x.matrixStatus
  else if 0x5040 ≤ o ∧ o < 0x5240 then dwAt x.latch.cur ((o - 0x5040) / 8)
  else if 0x5240 ≤ o ∧ o < 0x5440 then dwAt x.latch.inn ((o - 0x5240) / 8)
  else if 0x5440 ≤ o ∧ o < 0x5640 then (x.tag ((o - 0x5440) / 64)).dw ((o - 0x5440) / 8 % 8)
  else if 0x5640 ≤ o ∧ o < 0x5740 then strmDw (x.stream ((o - 0x5640) / 64)) ((o - 0x5640) / 8 % 8)
  else if o = 0x5740 then (s.quart (c / 4)).vshare.setWidth 64
  else 0#64

/-- Doubleword `k` of the image of cell `c` comes from a region register or an accumulator with an uncorrectable error. -/
def State.cellBad (s : State) (c k : Nat) : Bool :=
  let x := s.cell c
  let o := 8 * k
  if 0x1000 ≤ o ∧ o < 0x3000 then x.gbad.getLsbD ((o - 0x1000) / 512)
  else if 0x3000 ≤ o ∧ o < 0x5000 then (x.bank (decide (0x4000 ≤ o))).bad.getLsbD ((o - 0x3000) / 1024 % 4)
  else false

/-- What has come to the command of a tag since its cell's image was saved goes to the kept command, before an image replaces the
tag (13 R327; log entry 24). -/
def State.refreshTag (s : State) (c k : Nat) : State :=
  let t := s.tagAt c k
  match t.cmd with
  | some m =>
    let m := if t.err = 0#4 then m else { m with late := t.err }
    if (mget? s.vault m.num).isSome then (s.shelve m.num m).setTag c k { t with cmd := some m } else s
  | none => s

/-- A completion step of tag `k` of cell `c` that is parked is withdrawn: its granules are to be stepped again. -/
def State.withdrawStep (s : State) (c k : Nat) : State :=
  let me : Who := .engine (BitVec.ofNat 16 c) (BitVec.ofNat 3 k)
  match s.parked.find? (·.who == me) with
  | none => s
  | some q =>
    let t := s.tagAt c k
    let s : State := { s with parked := s.parked.filter (·.who != me) }
    s.setTag c k { t with cmd := t.cmd.map fun m =>
      { m with park := false, grans := m.grans.map fun gs => q.req.grans.map (·.1) ++ gs } }

/-- An image that names a command is loaded into tag `k` of cell `c` while another tag still holds that command: the image takes it as it
now stands, and that tag holds it no more (13 R327; log entry 24). -/
def State.recall (s : State) (c k num : Nat) : State :=
  match s.cells.findSome? fun (b, x) => ((List.range 8).find? fun j =>
      (b, j) != (c, k) && (match (x.tag j).cmd with | some m => m.num == num | none => false)).map fun j => (b, j) with
  | some (b, j) =>
    if (mget? s.vault num).isSome then
      let s := (s.withdrawStep b j).refreshTag b j
      s.setTag b j { s.tagAt b j with busy := false, cmd := none }
    else s
  | none => s

/-- Write doubleword `k` of the image of cell `c`; an error that the register held is gone. -/
def State.setCellDw (s : State) (c k : Nat) (w : Word) : State :=
  let x := s.cell c
  let o := 8 * k
  if o < 0x1000 then
    let v := vget x.v (k / 16) zeroLanes
    s.setCell c { x with v := vset x.v (k / 16) (vset (vset v (2 * (k % 16)) (lo32 w)) (2 * (k % 16) + 1) (hi32 w)) }
  else if o < 0x3000 then
    let n := (o - 0x1000) / 512
    s.setCell c { x with
      g := vset x.g n ((vget x.g n GReg.unset).setDw ((o - 0x1000) / 8 % 64) w), gbad := x.gbad &&& ~~~(1#16 <<< n) }
  else if o < 0x5000 then
    let j := (o - 0x3000) / 8
    let b := decide (512 ≤ j)
    let n := j % 512 / 128
    s.setCell c (x.setBank b { x.bank b with
      acc := vset (x.bank b).acc n (dwSet (vget (x.bank b).acc n 0#8192) (j % 128) w), bad := (x.bank b).bad &&& ~~~(1#4 <<< n) })
  else if o = 0x5000 then s.setCell c { x with bank0 := { x.bank0 with owner := w } }
  else if o = 0x5008 then s.setCell c { x with bank1 := { x.bank1 with owner := w } }
  else if o = 0x5010 then
    s.setCell c { x with
      lru := w.getLsbD 4
      latch := { x.latch with infull := w.getLsbD 0, pending := w.getLsbD 1, ihops := w.extractLsb' 8 4, chops := w.extractLsb' 12 4 } }
  else if 0x5040 ≤ o ∧ o < 0x5240 then s.setCell c { x with latch := { x.latch with cur := dwSet x.latch.cur ((o - 0x5040) / 8) w } }
  else if 0x5240 ≤ o ∧ o < 0x5440 then s.setCell c { x with latch := { x.latch with inn := dwSet x.latch.inn ((o - 0x5240) / 8) w } }
  else if 0x5440 ≤ o ∧ o < 0x5640 then
    let n := (o - 0x5440) / 64
    let s := if (o - 0x5440) / 8 % 8 = 0 then s.refreshTag c n
      else if (o - 0x5440) / 8 % 8 = 3 ∧ w ≠ 0#64 then s.recall c n (w.toNat - 1) else s
    s.setTag c n ((s.tagAt c n).setDw s ((o - 0x5440) / 8 % 8) w)
  else if 0x5640 ≤ o ∧ o < 0x5740 then
    let n := (o - 0x5640) / 64
    s.setCell c (x.setStream n (strmSet s (x.stream n) ((o - 0x5640) / 8 % 8) w))
  else if o = 0x5740 then s.setQuart (c / 4) { s.quart (c / 4) with vshare := w.extractLsb' 0 16 }
  else s

/-- Keep what a cell image names by number; its commands' parked steps are withdrawn, since the image may be loaded elsewhere. -/
def State.keepHeld (s : State) (c : Nat) : State :=
  let s := (List.range 8).foldl (fun s k => s.withdrawStep c k) s
  let x := s.cell c
  let v := x.tags.toList.foldl (fun v t => match t.cmd with | some q => mset v q.num (Held.cmd q) | none => v) s.vault
  { s with vault := x.strm.toList.foldl (fun v t => match t with | some q => mset v q.num (Held.strm q) | none => v) v }

/-! ### The tile image (Table 14-5) -/

/-- A WTT entry and a counter as 128 bits (12 Tables 12-3, 12-1). -/
def WttEntry.lo (w : WttEntry) : Word :=
  BitVec.ofNat 64 (w.ctr.toNat * 2 ^ 16 + w.frame.toNat * 2 ^ 28 + w.rearm.toNat * 2 ^ 29 + w.st.toNat * 2 ^ 30 + w.thresh.toNat * 2 ^ 32)
def WttEntry.setLo (w : WttEntry) (v : Word) : WttEntry :=
  { w with thresh := hi32 v, st := v.extractLsb' 30 2, rearm := v.getLsbD 29, frame := v.getLsbD 28, ctr := v.extractLsb' 16 10 }
def Counter.lo (c : Counter) : Word := BitVec.ofNat 64 (c.value.toNat + c.scope.toNat * 2 ^ 32)

/-- A ready-queue entry as twelve doublewords: flags with VALID in bit 0, the frame, its counter and requeue place, the record copy. -/
def RqEntry.dw (e : RqEntry) (k : Nat) : Word :=
  match k with
  | 0 => BitVec.ofNat 64 (1 + e.copy.isSome.toNat * 2 + e.paid.toNat * 4 + e.kernel.toNat * 8 + e.own.isSome.toNat * 16 + e.prio * 32
      + e.ctr.isSome.toNat * 128 + e.scope * 2 ^ 8 + e.ilen * 2 ^ 16 + e.bypass * 2 ^ 32)
  | 1 => e.frame
  | 2 => BitVec.ofNat 64 ((e.ctr.getD 0#10).toNat + e.own.getD 0 * 2 ^ 16)
  | _ => if 3 ≤ k ∧ k < 11 then (match e.copy with | some r => vget r (k - 3) 0#64 | none => 0#64) else 0#64
def RqEntry.setDw (e : RqEntry) (k : Nat) (v : Word) : RqEntry :=
  match k with
  | 0 => { e with
      copy := if v.getLsbD 1 then some (e.copy.getD (Vector.replicate 8 0#64)) else none
      paid := v.getLsbD 2, kernel := v.getLsbD 3, own := if v.getLsbD 4 then some (e.own.getD 0) else none
      ctr := if v.getLsbD 7 then some (e.ctr.getD 0#10) else none, prio := (v.extractLsb' 5 2).toNat
      scope := (byteOf v 1).toNat % 8, ilen := (byteOf v 2).toNat % 8, bypass := (hi32 v).toNat }
  | 1 => { e with frame := v }
  | 2 => { e with ctr := e.ctr.map fun _ => v.extractLsb' 0 10, own := e.own.map fun _ => (v.extractLsb' 16 8).toNat }
  | _ => if 3 ≤ k ∧ k < 11 then { e with copy := e.copy.map fun r => vset r (k - 3) v } else e
def RqEntry.none : RqEntry := ⟨Option.none, 0#64, false, false, 0, 0, Option.none, 0, Option.none, 0⟩

/-- The number under which what a fired-pending entry `e` of tile `t` will enqueue is kept while its image is elsewhere: numbers of
commands and bindings are below 2^96. -/
def heldNum (t : Nat) (asid : BitVec 12) (e : Nat) (record : Word) : Nat :=
  2 ^ 96 + ((t * 4096 + asid.toNat) * 512 + e) * 2 ^ 64 + record.toNat
/-- What the entry will enqueue, as it stands after a write `w'` of entry `w`: kept, or what was kept with its tile's image. -/
def State.heldRq (s : State) (t e : Nat) (w w' : WttEntry) : Option RqEntry :=
  if w'.st ≠ 2#2 then none
  else if w.st = 2#2 ∧ w.record = w'.record then w.held
  else match mget? s.vault (heldNum t (s.asidOf t) e w'.record) with | some (.rq r) => some r | _ => none
/-- Keep what the fired-pending entries of a tile will enqueue (12 R294: the table is saved with the tile's address space). -/
def State.keepWtt (s : State) (t : Nat) : State :=
  { s with vault := (s.tile t).wtt.foldl (fun v (e, w) =>
      match w.held with | some r => mset v (heldNum t (s.asidOf t) e w.record) (Held.rq r) | none => v) s.vault }

/-- A helper-join entry as four doublewords, VALID in bit 0 of the third. -/
def HJoin.dw (e : HJoin) (k : Nat) : Word :=
  match k with
  | 0 => e.helper | 1 => e.starter | 2 => BitVec.ofNat 64 (1 + e.done.toNat * 2) | _ => Machine.dw e.iref e.mref
def HJoin.setDw (e : HJoin) (k : Nat) (v : Word) : HJoin :=
  match k with
  | 0 => { e with helper := v } | 1 => { e with starter := v } | 2 => { e with done := v.getLsbD 1 }
  | _ => { e with iref := lo32 v, mref := hi32 v }
def HJoin.none : HJoin := ⟨0#64, 0#64, false, 0#32, 0#32⟩

/-- Write doubleword `k` of the `i`-th entry of a list: an entry is made at the list's end, and dropped when the doubleword
`v` that holds its VALID bit says so. -/
def listSet {α : Type} (blank : α) (set : α → Nat → Word → α) (valid : Nat) (l : List α) (i k : Nat) (v : Word) : List α :=
  if k = valid ∧ !v.getLsbD 0 then l.eraseIdx i
  else match l[i]? with
    | some e => l.set i (set e k v)
    | none => if i = l.length ∧ (k = valid ∨ v ≠ 0#64) then l ++ [set blank k v] else l

/-- POOLFREE: the free frames of the pool (12 R299). -/
def Tile.poolFree (x : Tile) : Nat := x.poolSize.toNat - x.inUse.length

/-- The bits of doubleword `k` of the protection table that are not reserved (06 Tables 06-2, 06-6; 00 R7). -/
def protMask (k : Nat) : Word :=
  match k % 64 with
  | 0 => 0x0000000FFFFF0FFF#64
  | 50 => 0x87#64
  | j => if j < 50 then BitVec.allOnes 64 else 0#64

/-- Doubleword `k` of the image of tile `t`. -/
def State.tileDw (s : State) (t k : Nat) : Word :=
  let x := s.tile t
  let o := 8 * k
  match k with
  | 0 => x.asid.setWidth 64
  | 1 => x.poolBase
  | 2 => x.poolSize
  | 3 => BitVec.ofNat 64 x.poolFree
  | 4 => x.saveBase
  | 5 => x.logBase
  | 6 => x.logSize
  | 7 => x.oob
  | _ =>
    if 0x100 ≤ o ∧ o < 0x170 then dwAt (vget x.win (1 + (o - 0x100) / 16) 0#128) ((o - 0x100) / 8 % 2)
    else if 0x200 ≤ o ∧ o < 0x400 then
      BitVec.ofNat 64 ((List.range 16).foldr (fun i n => (mget x.gran ((o - 0x200) / 8 * 16 + i) 0#4).toNat + n * 16) 0)
    else if 0x8000 ≤ o ∧ o < 0x10000 then mget x.prot ((o - 0x8000) / 8) 0#64
    else if 0x10000 ≤ o ∧ o < 0x14000 then
      let c := x.ctr ((o - 0x10000) / 16)
      if o % 16 = 0 then c.lo else Machine.dw c.mref c.iref
    else if 0x14000 ≤ o ∧ o < 0x16000 then
      let w := x.entry ((o - 0x14000) / 16)
      if o % 16 = 0 then w.lo else w.record
    else if 0x16000 ≤ o ∧ o < 0x1C000 then
      (match x.rq[(o - 0x16000) / 96]? with | some e => e.dw ((o - 0x16000) / 8 % 12) | none => 0#64)
    else if 0x1C000 ≤ o ∧ o < 0x1E000 then
      (match (s.cell (16 * t + (o - 0x1C000) / 512)).hjoin[(o - 0x1C000) / 32 % 16]? with
        | some e => e.dw ((o - 0x1C000) / 8 % 4) | none => 0#64)
    else if 0x1E000 ≤ o ∧ o < 0x1E080 then
      let n := (o - 0x1E000) / 4
      Machine.dw (s.chordWord 0 t n) (s.chordWord 0 t (n + 1))
    else 0#64

/-- Doubleword `k` of the image of tile `t` comes from a protection table or from granule states with an uncorrectable error. -/
def State.tileBad (s : State) (t k : Nat) : Bool :=
  ((s.tile t).pbad && decide (0x1000 ≤ k) && decide (k < 0x2000)) ||
  (decide (0x40 ≤ k) && decide (k < 0x80) && (s.tile t).granBad.extractLsb' (16 * (k - 0x40)) 16 != 0#16)

/-- Keep a sparse map free of its default. -/
def mput {α : Type} [DecidableEq α] (m : SMap α) (k : Nat) (v d : α) : SMap α := if v = d then mdel m k else mset m k v

/-- Write doubleword `k` of the image of tile `t`; POOLFREE is read only, reserved bits are ignored (00 R7), and another asid changes the
tile's address space. A new pool has no frame in use (log entry 16). -/
def State.setTileDw (s : State) (t k : Nat) (v : Word) : State :=
  let x := s.tile t
  let o := 8 * k
  match k with
  | 0 => s.changeSpace t (v.extractLsb' 0 12)
  | 1 => s.setTile t { x with poolBase := v }
  | 2 => s.setTile t { x with poolSize := v }
  | 3 => s
  | 4 => s.setTile t { x with saveBase := v }
  | 5 => s.setTile t { x with logBase := v }
  | 6 => s.setTile t { x with logSize := v }
  | 7 => s.setTile t { x with oob := v }
  | _ =>
    if 0x100 ≤ o ∧ o < 0x170 then
      let w := 1 + (o - 0x100) / 16
      s.setTile t { x with win := vset x.win w (wFields (dwSet (vget x.win w 0#128) ((o - 0x100) / 8 % 2) v)) }
    else if 0x200 ≤ o ∧ o < 0x400 then
      s.setTile t { x with
        gran := (List.range 16).foldl (fun m i => mput m ((o - 0x200) / 8 * 16 + i) (v.extractLsb' (4 * i) 4) 0#4) x.gran
        granBad := x.granBad &&& ~~~(0xFFFF#1024 <<< ((o - 0x200) / 8 * 16)) }
    else if 0x8000 ≤ o ∧ o < 0x10000 then s.setTile t { x with prot := mput x.prot ((o - 0x8000) / 8) (v &&& protMask ((o - 0x8000) / 8)) 0#64, pbad := false }
    else if 0x10000 ≤ o ∧ o < 0x14000 then
      let n := (o - 0x10000) / 16
      let c := x.ctr n
      let c := if o % 16 = 0 then { c with value := lo32 v, scope := v.extractLsb' 32 3 } else { c with mref := lo32 v, iref := hi32 v }
      s.setTile t { x with ctrs := mput x.ctrs n c Counter.zero }
    else if 0x14000 ≤ o ∧ o < 0x16000 then
      let n := (o - 0x14000) / 16
      let w := x.entry n
      let w' := if o % 16 = 0 then w.setLo v else { w with record := v }
      s.setTile t { x with wtt := mput x.wtt n { w' with held := s.heldRq t n w w' } WttEntry.free }
    else if 0x16000 ≤ o ∧ o < 0x1C000 then
      s.setTile t { x with rq := listSet RqEntry.none RqEntry.setDw 0 x.rq ((o - 0x16000) / 96) ((o - 0x16000) / 8 % 12) v }
    else if 0x1C000 ≤ o ∧ o < 0x1E000 then
      let c := 16 * t + (o - 0x1C000) / 512
      let y := s.cell c
      s.setCell c { y with hjoin := listSet HJoin.none HJoin.setDw 2 y.hjoin ((o - 0x1C000) / 32 % 16) ((o - 0x1C000) / 8 % 4) v }
    else if 0x1E000 ≤ o ∧ o < 0x1E080 then
      let n := (o - 0x1E000) / 4
      (s.chordWrite 0 t n (lo32 v)).chordWrite 0 t (n + 1) (hi32 v)
    else s

/-- A write of POOLBASE or POOLSIZE installs a pool. -/
def State.newPool (s : State) (t : Nat) : State :=
  let x := s.tile t
  s.setTile t { x with used := x.used.filter (·.1 != x.asid) }

/-- Write doublewords from the `k`-th on. -/
def State.loadCell (c : Nat) : Nat → List Word → State → State
  | _, [], s => s
  | k, w :: ws, s => State.loadCell c (k + 1) ws (s.setCellDw c k w)
def State.loadTile (t : Nat) : Nat → List Word → State → State
  | _, [], s => s
  | k, w :: ws, s => State.loadTile t (k + 1) ws (s.setTileDw t k w)

/-- The lists of a tile that its image replaces whole. -/
def State.clearTile (s : State) (t : Nat) : State :=
  let s := s.setTile t { s.tile t with gran := [], granBad := 0#1024, prot := [], pbad := false, ctrs := [], wtt := [], rq := [] }
  (List.range 16).foldl (fun s i =>
    let c := 16 * t + i
    if (s.cell c).hjoin.isEmpty then s else s.setCell c { s.cell c with hjoin := [] }) s

/-! ### Answers to page faults (R345, R347) -/

/-- The context that waits at MTU `n` under a fault id. -/
def State.mtuCtx (s : State) (n : Nat) (id : BitVec 32) : Option (Nat × Nat × Word × AccKind) :=
  (s.cells.filterMap fun (c, x) =>
    if spanOf (c / 16) ≠ n then none
    else ((List.range 11).filterMap fun k =>
      match (x.slot k).wait with
      | .mtu i va kind => if i = id ∧ (x.slot k).live then some (c, k, va, kind) else none
      | _ => none).head?).head?
/-- The stream, and the engine command, that wait there. -/
def State.mtuStream (s : State) (n : Nat) (id : BitVec 32) : Option (Nat × Nat) :=
  (s.cells.filterMap fun (c, x) =>
    if spanOf (c / 16) ≠ n then none
    else ((List.range 4).filterMap fun k =>
      match x.stream k with | some st => if st.fault.map (·.1) = some id then some (c, k) else none | none => none).head?).head?
def State.mtuCmd (s : State) (n : Nat) (id : BitVec 32) : Option (Nat × Nat) :=
  (s.cells.filterMap fun (c, x) =>
    if spanOf (c / 16) ≠ n then none
    else ((List.range 8).filterMap fun k =>
      match (x.tag k).cmd with | some q => if q.fault = some id then some (c, k) else none | none => none).head?).head?

/-- PARKED: the accesses that are parked at MTU `n` (Table 14-6). -/
def State.mtuParked (s : State) (n : Nat) : Nat :=
  (s.cells.map fun (c, x) =>
    if spanOf (c / 16) ≠ n then 0
    else (x.slots.toList.filter fun k => k.live && (match k.wait with | .mtu _ _ _ => true | _ => false)).length
      + (x.strm.toList.filter fun k => match k with | some st => st.fault.isSome | none => false).length
      + (x.tags.toList.filter fun k => match k.cmd with | some q => q.fault.isSome | none => false).length).foldl (· + ·) 0
    + (s.away.filter fun w => spanOf (w.cell / 16) == n && !w.due && !w.ready).length

/-- The words of the instruction that an access belongs to; 0 for a fetch (R338). The instruction is the one that its cell has kept
since the access missed. -/
def State.faultLen (s : State) (kind : AccKind) : Nat :=
  if kind = .fetch then 0
  else match s.ctx.cur with
  | some i => i.ilen
  | none => match s.fetch with | .instr i _ => i.ilen | _ => 0

/-- A refused access traps (R345). -/
def State.refuseCtx (s : State) (c k : Nat) (va : Word) (kind : AccKind) : State :=
  s.asCtx (BitVec.ofNat 16 c) (BitVec.ofNat 4 k) fun s =>
    s.trapBack (mkErr 5 va 0#64) (s.faultLen kind)

/-- A refused element puts its stream in error: its address is not mapped, and the later pop or push traps with cause 0x06 (08 R206). -/
def State.refuseStream (s : State) (c k : Nat) : State :=
  s.asCtx (BitVec.ofNat 16 c) 0#4 fun s =>
    match s.myCell.stream k with
    | none => s
    | some st =>
      match st.fault with
      | none => s
      | some (_, va) =>
        s.streamErr k { st with fault := none } (if st.wr then st.done else st.done + st.ready.length) (mkErr 6 va 0#64)

/-- The memory keys of the eight lines of the context image in a frame's save area (R349). -/
def State.saveLines (s : State) (t : Nat) (f : Word) (need : Need) : Option (List Nat) :=
  let x := s.tile t
  (blockKeys (fun va => s.walkAccess t (s.asidOf t) false need va.toNat 64)
    (x.saveBase + 4608#64 * BitVec.ofNat 64 ((f - x.poolBase).toNat / 256)) 8).toOption
/-- Write a context's image at the keys of its lines. -/
def State.putImage (s : State) (t : Nat) (keys : List Nat) (x : Ctx) : State :=
  s.perform t (blocksOut keys (x.image.flatMap fun w => leBytes 8 w.toNat))
/-- The doublewords of the image of frame `f` at the keys of its lines, whose correctable errors and whose walk's are met before. -/
def State.meetImage (s : State) (t : Nat) (f : Word) (keys : List Nat) : State :=
  if s.flaws = [] then s
  else keys.foldl (fun s k => s.meetLines t k 64)
    (s.meetPath t (s.asidOf t) ((s.tile t).saveBase + 4608#64 * BitVec.ofNat 64 ((f - (s.tile t).poolBase).toNat / 256)).toNat)
def State.getImage (s : State) (keys : List Nat) : List Word := keys.flatMap fun k => (List.range 8).map fun j => rd64 s.mem (k + 8 * j)
/-- The context of an image, as it stands before its access: with its instruction, what that has paid (05 R117) and captured (04 R79). A context that was not in
firmware mode is never loaded in it, whatever its image says now (R339). -/
def Away.ctx (w : Away) (base : Ctx) (ws : List Word) : Ctx :=
  { (base.fresh true).load w.mode 0 ws with cur := w.cur, paid := w.paid, cap := w.cap, hnd := w.hnd }

/-- The switch-out of R347; abandoned when the image cannot be written. No instruction makes that access, and one refused is not entered in
the violation log: R347 gives its own outcome and 01 R21 speaks of a context that traps (DESIGN CHOICE, log entry 37). -/
def State.switchOut (s : State) (c k : Nat) (id : BitVec 32) (va : Word) (kind : AccKind) : State :=
  let t := c / 16
  let x := s.ctxAt c k
  let x := match x.preq with | some q => { x with ibud := q.saved } | none => x
  match s.saveLines t x.ident .write, s.frameKey t x.ident with
  | some keys, some key =>
    let s := ((s.putImage t keys x).setF t key fSTATE 1 4).parkImage c k
    let s : State := { s with away := s.away ++ [⟨c, k, x.ident, id, va, kind, x.cur, x.paid, x.cap, false, false, false, x.mode, x.hnd⟩] }
    s.freeSlot c k
  | _, _ => s

/-- The page of a context that is away has been answered (R347): a refused access, a fetch, which changes nothing in the image, and
an instruction that has not been charged yet make the restore due; else the access can complete. -/
def answerAway (n : Nat) (id : BitVec 32) (refused : Bool) (w : Away) : Away :=
  if spanOf (w.cell / 16) = n ∧ w.id = id ∧ !w.ready ∧ !w.due then
    (if refused || w.kind == .fetch || w.paid.isNone then { w with due := true, refused := refused } else { w with ready := true })
  else w

def State.mapAway (s : State) (f : Away → Away) : State := { s with away := s.away.map f }

/-- A stream or a command that waited goes on. -/
def State.wakeStream (s : State) (n : Nat) (id : BitVec 32) : State :=
  match s.mtuStream n id with
  | none => s
  | some (c, k) =>
    let x := s.cell c
    s.setCell c (x.setStream k ((x.stream k).map fun (st : Stream) => { st with fault := none }))
def State.wakeCmd (s : State) (n : Nat) (id : BitVec 32) : State :=
  match s.mtuCmd n id with
  | none => s
  | some (c, k) =>
    let t := s.tagAt c k
    s.setTag c k { t with cmd := t.cmd.map fun (q : Cmd) => { q with fault := none } }

/-- A long-service answer must wait for the context's queues before the switch-out (05 R118, 11 R276). -/
def State.answerWaits (s : State) (n : Nat) (id : BitVec 32) (code : BitVec 2) : Bool :=
  code == 2#2 &&
  match s.mtuCtx n id with
  | some (c, k, _, _) => !(State.canLeave { s with sel := ⟨BitVec.ofNat 16 c, BitVec.ofNat 4 k, 0⟩ })
  | none => false

/-- ANSWER at MTU `n`: 0 retry, 1 refuse, 2 long service (R345). -/
def State.answer (s : State) (n : Nat) (id : BitVec 32) (code : BitVec 2) : State :=
  let s := s.consume n id
  match s.mtuCtx n id, code.toNat with
  | some (c, k, _, _), 0 => s.setCtxAt c k (s.ctxAt c k).again
  | some (c, k, va, kind), 1 => s.refuseCtx c k va kind
  | some (c, k, va, kind), 2 => s.switchOut c k id va kind
  | _, 0 => ((s.wakeStream n id).wakeCmd n id).mapAway (answerAway n id false)
  | _, 1 =>
    let s := match s.mtuStream n id with | some (c, k) => s.refuseStream c k | none => s
    let s := match s.mtuCmd n id with | some (c, k) => s.engineRefuse c k | none => s
    s.mapAway (answerAway n id true)
  | _, _ => s

/-- The answers as steps; a long service that must wait for the context's queues is taken later. -/
def execAnswerRetry (span : BitVec 4) (id : BitVec 32) (s : State) : Result := .next (s.answer span.toNat id 0#2)
def execAnswerRefuse (span : BitVec 4) (id : BitVec 32) (s : State) : Result := .next (s.answer span.toNat id 1#2)
def execAnswerLongService (span : BitVec 4) (id : BitVec 32) (s : State) : Result :=
  if s.answerWaits span.toNat id 2#2 then .next s else .next (s.answer span.toNat id 2#2)

/-- SWITCH_IN_RESTORE (R347): the selected slot takes back its context, whose image has received the access's result; it begins
with an acquire at tile scope. A refused access traps. -/
def execSwitchInRestore (s : State) : Result :=
  let c := s.cid
  let n := s.sid
  match s.away.find? (fun w => w.due && w.cell == c && w.slot == n) with
  | none => .next s
  | some w =>
    if (s.ctxAt c n).live then .next s
    else match s.saveLines s.tid w.frame .read, s.frameKey s.tid w.frame with
      | some keys, some key =>
        let s := (s.meetImage s.tid w.frame keys).meetFrame s.tid w.frame 64
        let x := w.ctx (s.ctxAt c n) (s.getImage keys)
        let s := ((s.setLive c n (if w.refused then x else x.settle)).setF s.tid key fSTATE 1 0).beginAt c n 1
        let s : State := { s with away := s.away.erase w }
        .next (if w.refused then s.refuseCtx c n w.va w.kind else s)
      | _, _ => .next s

end Sys2Proof.Machine
end

