-- ==== Sys2Proof/Machine/System.lean ====
section
/-! DEFINITION. Sys2Proof/Machine/System.lean: page 7: SYSC, TRET, CTXSV, CTXLD, state addresses and REGRD, PMREQ, tile stops,
GANGSTOP, TLBINV (14 R343, R344, R351 to R359). -/

namespace Sys2Proof.Machine

/-- The shape of a kernel-only instruction; nothing is charged in kernel mode (05 R112). -/
def kernelOp (body : State → Res) : Shape := { kernel := true, body := body }

/-! ### SYSC and TRET -/

def execSysc (p : Pfx) (n : BitVec 8) (s : State) : Result :=
  issue (.sysc p n) (plain 2 fun s => .trapKeep s (mkErr 0x11 s.ctx.pc (n.setWidth 64))) s

def execTret (p : Pfx) (d a : BitVec 4) (s : State) : Result :=
  issue (.tret p d a) (kernelOp fun s =>
    let c := s.ctx
    if c.tpc.getLsbD 0 then .trap (mkErr 4 c.tpc 0#64) else .goto (s.setCtx c.trapReturn) c.tpc) s

/-! ### State addresses (R353) -/

def saClass (a : Word) : Nat := (a.extractLsb' 56 8).toNat
def saUnit (a : Word) : Nat := (a.extractLsb' 44 12).toNat
def saCell (a : Word) : Nat := (a.extractLsb' 40 4).toNat
def saSub (a : Word) : Nat := (a.extractLsb' 36 4).toNat
def saOff (a : Word) : Nat := (a.extractLsb' 0 36).toNat
/-- The global index of the cell that a state address names. -/
def saGlobal (a : Word) : Nat := 16 * saUnit a + saCell a

/-- The registers of window `w` of a cell: of the live context that owns it, or a parked image (04 R77); one that has neither reads 0, for
which 04 R77 and 14 R353 give no value (DESIGN CHOICE, log entry 37). -/
def Cell.window (x : Cell) (w : Nat) : Vector Word 16 :=
  match x.slots.toList.find? (fun c => c.live && c.win.toNat == w) with
  | some c => c.regs
  | none => match x.parkw.find? (·.1 == w) with | some q => q.2.2 | none => Vector.replicate 16 0#64
def Cell.setWindow (x : Cell) (w k : Nat) (v : Word) : Cell :=
  match (List.range 11).find? (fun n => (x.slot n).live && (x.slot n).win.toNat == w) with
  | some n => x.setSlot n { x.slot n with regs := vset (x.slot n).regs k v }
  | none =>
    let id := match x.parkw.find? (·.1 == w) with | some q => q.2.1 | none => 0#64
    { x with parkw := x.parkw.filter (·.1 != w) ++ [(w, id, vset (x.window w) k v)] }

/-- Doubleword `k` of a log of 16 entries of 32 bytes, the oldest first, and its counts (log entry 15). -/
def logDw (l : List (BitVec 256)) (c0 c1 : Word) (k : Nat) : Word :=
  if k < 64 then (match l[k / 4]? with | some e => dwAt e (k % 4) | none => 0#64)
  else if k = 64 then c0
  else if k = 65 then c1
  else 0#64

/-- Doubleword `k` of an MTU (Table 14-6) for a reader in mode `by_`. MODE is read only in firmware mode (00 R6); another mode reads
0 (the spec says no more; DESIGN CHOICE, log entry 34). -/
def State.mtuDw (s : State) (by_ : BitVec 2) (n k : Nat) : Word :=
  let m := s.mtu n
  match k with
  | 0 => if by_ = 2#2 then bit 64 m.late else 0#64
  | 1 => m.fqb
  | 2 => m.fqc
  | 4 => BitVec.ofNat 64 (s.mtuParked n)
  | _ => 0#64

/-- An address that names an object and lies in it. -/
def saValid (a : Word) : Bool :=
  match saClass a with
  | 1 => decide (saUnit a < numTiles) && decide (saSub a ≤ 10) && decide (saOff a < 512)
  | 2 => decide (saUnit a < numTiles) && decide (saOff a < 128)
  | 3 => decide (saUnit a < numTiles) && decide (saOff a < 0x8000)
  | 4 => decide (saUnit a < numTiles) && decide (saOff a < 0x20000)
  | 5 => decide (saSub a ≤ 4) && decide (saUnit a < nodeCount (saSub a)) && decide (saOff a < 128)
  | 6 => decide (saUnit a < numTiles) && decide (saSub a ≤ 1) && decide (saOff a < 1024)
  | 7 => decide (saUnit a < 16) && decide (saOff a < 64)
  | _ => false

/-- The doubleword at a state address for a reader in mode `by_`; 0 outside every object. -/
def State.stateRead (s : State) (by_ : BitVec 2) (a : Word) : Word :=
  let k := saOff a / 8
  let t := s.tile (saUnit a)
  if !saValid a then 0#64
  else match saClass a with
    | 1 => (s.ctxAt (saGlobal a) (saSub a)).dw k
    | 2 => vget ((s.cell (saGlobal a)).window (saSub a)) k 0#64
    | 3 => s.cellDw (saGlobal a) k
    | 4 => s.tileDw (saUnit a) k
    | 5 => dw (s.chordWord (saSub a) (saUnit a) (2 * k)) (s.chordWord (saSub a) (saUnit a) (2 * k + 1))
    | 6 => if saSub a = 0 then logDw t.viol t.violN 0#64 k else logDw t.elog t.elogT t.elogL k
    | _ => s.mtuDw by_ (saUnit a) k

/-- The doubleword comes from an array with an uncorrectable error, which traps the reading context (06 R148, 09 Table 09-5). -/
def State.stateBad (s : State) (a : Word) : Bool :=
  saValid a && ((saClass a == 3 && s.cellBad (saGlobal a) (saOff a / 8)) || (saClass a == 4 && s.tileBad (saUnit a) (saOff a / 8)))

/-- A tile is stopped (R351). -/
def State.stopped (s : State) (t : Nat) : Bool := (s.tile t).run == .stopped

/-- A write by CTXLD.reg in mode `by_`: none when the table does not allow it. -/
def State.stateWrite (s : State) (by_ : BitVec 2) (a v : Word) : Option State :=
  let k := saOff a / 8
  let t := saUnit a
  let c := saGlobal a
  if !saValid a then some s
  else match saClass a with
    | 1 => if s.stopped t then some (s.setCtxAt c (saSub a) ((s.ctxAt c (saSub a)).setDw by_ k v)) else none
    | 2 => if s.stopped t then some (s.setCell c ((s.cell c).setWindow (saSub a) k v)) else none
    | 3 => if s.stopped t then some (s.setCellDw c k v) else none
    | 4 =>
      if k = 3 then none
      else if k = 0 then some (s.enterSpace t (v.extractLsb' 0 12))
      else
        let s := s.setTileDw t k v
        let s := if k = 1 ∨ k = 2 then s.newPool t else s
        some (if k = 6 then s.flushIngress t else s)
    | 5 => some ((s.chordWrite (saSub a) t (2 * k) (lo32 v)).chordWrite (saSub a) t (2 * k + 1) (hi32 v))
    | 6 =>
      let x := s.tile t
      if v ≠ 0#64 then none
      else if saSub a = 0 ∧ k = 64 then some (s.setTile t { x with violN := 0#64 })
      else if saSub a = 1 ∧ k = 64 then some (s.setTile t { x with elogT := 0#64 })
      else if saSub a = 1 ∧ k = 65 then some (s.setTile t { x with elogL := 0#64 })
      else none
    | _ =>
      let m := s.mtu t
      match k with
      | 0 => if by_ = 2#2 then some (s.setMtu t { m with late := v.getLsbD 0 }) else none
      | 1 => some (s.setMtu t { m with fqb := v })
      | 2 => some (s.setMtu t { m with fqc := v })
      | 3 => some (s.answer t (lo32 v) (v.extractLsb' 32 2))
      | _ => some s

/-- The array with errors of its own that a state address reads. -/
def saArray (a : Word) : Option Array :=
  let o := 8 * (saOff a / 8)
  match saClass a with
  | 3 =>
    if 0x1000 ≤ o ∧ o < 0x3000 then some (.region (16 * saGlobal a + (o - 0x1000) / 512))
    else if 0x3000 ≤ o ∧ o < 0x5000 then some (.acc (8 * saGlobal a + (o - 0x3000) / 1024))
    else none
  | 4 => if 0x8000 ≤ o ∧ o < 0x10000 then some (.prot (saUnit a)) else none
  | _ => none

/-- REGRD; an error of the array that it reads is corrected and logged (06 R148, 14 R360). -/
def execRegrd (p : Pfx) (d a : BitVec 4) (s : State) : Result :=
  issue (.regrd p d a) (kernelOp fun s =>
    let x := opA p a s
    if saOff x % 8 ≠ 0 then .trap (mkErr 4 x 0#64)
    else if s.stateBad x then .trap (mkErr 0x15 s.ctx.pc 0#64)
    else .ok ((s.meetArrays fun b => saArray x == some b).ws (p.dn d) (s.stateRead s.ctx.mode x))) s

/-- The write installs another address space on a tile whose pushed stream units are not performed. -/
def State.spaceWaits (s : State) (a v : Word) : Bool :=
  saClass a == 4 && saValid a && saOff a == 0 && v.extractLsb' 0 12 != s.asidOf (saUnit a) && s.tilePushes (saUnit a)

/-- CTXLD.reg: a write that the table does not allow traps as privileged, tinfo 0x100. -/
def execCtxldReg (p : Pfx) (a : BitVec 4) (s : State) : Result :=
  issue (.ctxldReg p a) (kernelOp fun s =>
    let x := opA p a s
    let v := opE p s
    if saOff x % 8 ≠ 0 then .trap (mkErr 4 x 0#64)
    else if saClass x = 7 ∧ saValid x ∧ saOff x = 0x18 ∧ s.answerWaits (saUnit x) (lo32 v) (v.extractLsb' 32 2) then .hold
    else if s.spaceWaits x v then .hold
    else match s.stateWrite s.ctx.mode x v with
      | some s => .ok s
      | none => .trap (mkErr 3 s.ctx.pc 0x100#64)) s

/-! ### Moving images (R351) -/

/-- Read and store pieces of 64 bytes. -/
def readLines (s : State) (va : Word) : Nat → Except Res (List Byte)
  | 0 => .ok []
  | k + 1 =>
    match readLines s va k with
    | .error r => .error r
    | .ok bs =>
      match s.readPiece (va + BitVec.ofNat 64 (64 * k)) 64 with
      | .error r => .error r
      | .ok x => .ok (bs ++ x)
def storeLines (s : State) (va : Word) : Nat → List Word → Except Res (List WByte × FFlags)
  | 0, _ => .ok ([], 0#5)
  | k + 1, ws =>
    match s.storePiece va ((ws.take 8).flatMap fun w => leBytes 8 w.toNat) with
    | .error r => .error r
    | .ok (bs, _, f) =>
      match storeLines s (va + 64#64) k (ws.drop 8) with
      | .error r => .error r
      | .ok (cs, g) => .ok (bs ++ cs, f ||| g)
/-- The doublewords of bytes. -/
def dwordsOf (bs : List Byte) (n : Nat) : List Word := (List.range n).map fun k => BitVec.ofNat 64 (natAt bs (8 * k) 8)

def e13 (s : State) (n : Nat) : Err := mkErr 0x13 s.ctx.pc (BitVec.ofNat 64 n)

/-- Store an image of `n` doublewords at s[e], then go on. Its accesses follow R102, a PFX.X order among it (R351). -/
def saveImage (p : Pfx) (va : Word) (ws : List Word) (s : State) (k : State → State) : Res :=
  if s.ctx.accessHeld then .hold
  else withRelease p s fun s =>
    match storeLines s va (ws.length / 8) ws with
    | .error r => r
    | .ok (bs, f) => if s.pendMeets bs then .hold else .ok
      (k (withAcquire p (((s.touchPuts (pieces va 64 (ws.length / 8)) 64).write s.tid bs).raise f)))
/-- Load an image of `n` doublewords from s[e]. Its accesses follow R102, a PFX.X order among it (R351); the acquire comes before the
image takes its effect. -/
def loadImageAt (p : Pfx) (va : Word) (n : Nat) (s : State) (k : State → List Word → Res) : Res :=
  if s.ctx.accessHeld then .hold
  else withRelease p s fun s =>
    match readLines s va (n / 8) with
    | .error r => r
    | .ok bs => k (withAcquire p (s.touchAll (pieces va 64 (n / 8)) 64)) (dwordsOf bs n)

/-- The checks that every form but .reg begins with; `free` says whether a free slot counts as stopped. -/
def imageForm (p : Pfx) (a : BitVec 4) (slot : Bool) (s : State) (k : Res) : Res :=
  let x := opA p a s
  let va := opE p s
  let t := saUnit x
  if va.toNat % 64 ≠ 0 then .trap (mkErr 4 va 0#64)
  else if numTiles ≤ t ∨ (slot ∧ 10 < saSub x) then .trap (e13 s 0x20)
  else if !s.stopped t && !(slot && !(s.ctxAt (saGlobal x) (saSub x)).live) then .trap (e13 s 0x20)
  else k

/-- The queued vector instructions of a slot are over: their results are formed, their flags are in (R355, log entry 17). -/
def State.drainQueue (s : State) (c n : Nat) : State :=
  let s := (List.range (s.cell c).vq.length).foldl (fun s j =>
    match (s.cell c).vq[j]? with | some e => if e.slot.toNat == n then s.formAt c j else s | none => s) s
  let x := s.cell c
  let mine (e : VEnt) : Bool := e.slot.toNat == n
  let y := x.slot n
  let y := (x.vrun ++ x.vq).foldl (fun y e => if mine e && e.ident == y.ident then y.raise e.flags else y) y
  s.setCell c ({ x with vq := x.vq.filter (!mine ·), vrun := x.vrun.filter (!mine ·) }.setSlot n y)

/-- A stopped context has no access outstanding: none pending, no unit pushed into a write stream, none left in a stream that
it has bound. -/
def State.quiet (s : State) (c n : Nat) : Bool :=
  (s.ctxAt c n).pend.isEmpty &&
  (s.cell c).strm.toList.all fun b =>
    match b with | some st => st.pushed.all (fun q => q.slot.toNat != n && st.slot.toNat != n) | none => true

/-- CTXSV.ctx: the image of a stopped context or a free slot, its wait abandoned (R350); the slot is freed. -/
def execCtxsvCtx (p : Pfx) (a : BitVec 4) (s : State) : Result :=
  issue (.ctxsvCtx p a) (kernelOp fun s =>
    imageForm p a true s (
      let x := opA p a s
      let c := saGlobal x
      let n := saSub x
      if !s.quiet c n then .hold
      else
        let s := s.drainQueue c n
        saveImage p (opE p s) (s.ctxAt c n).image s fun s => s.freeSlot c n)) s

/-- The arrays that a cell image is read from. -/
def Array.inCell (c : Nat) : Array → Bool
  | .region n => n / 16 == c
  | .acc n => n / 8 == c
  | _ => false

def execCtxsvCell (p : Pfx) (a : BitVec 4) (s : State) : Result :=
  issue (.ctxsvCell p a) (kernelOp fun s =>
    imageForm p a false s (
      let c := saGlobal (opA p a s)
      if (List.range 4096).any (s.cellBad c) then .trap (mkErr 0x15 s.ctx.pc 0#64)
      else saveImage p (opE p s) ((List.range 4096).map (s.cellDw c)) s fun s => (s.meetArrays (·.inCell c)).keepHeld c)) s

def execCtxsvTile (p : Pfx) (a : BitVec 4) (s : State) : Result :=
  issue (.ctxsvTile p a) (kernelOp fun s =>
    imageForm p a false s (
      let t := saUnit (opA p a s)
      if (s.tile t).pbad || (s.tile t).granBad != 0#1024 then .trap (mkErr 0x15 s.ctx.pc 0#64)
      else saveImage p (opE p s) ((List.range 16384).map (s.tileDw t)) s fun s => (s.meetArrays (· == .prot t)).keepWtt t)) s

/-- BindFrame (R351): the frame that a loaded context owns; none is a failure. -/
def State.bindIdent (s : State) (c : Nat) (ws : List Word) : Option (Word × State) :=
  let t := c / 16
  let x := s.tile t
  let w (k : Nat) : Word := (ws[k]?).getD 0#64
  let f := w 1
  if f = 0#64 then
    match s.newFrame t with
    | none => none
    | some (f, key) =>
      some (f, s.initFrame t f key (w 0) (lo32 (w 2)) (lo32 (w 3)) (BitVec.ofNat 64 (2 ^ 22 + c % 16 * 16)) (c % 16))
  else if f.toNat % 256 ≠ 0 ∨ f.toNat < x.poolBase.toNat ∨ x.poolBase.toNat + 256 * x.poolSize.toNat ≤ f.toNat then none
  else if x.inUse.contains f then some (f, s)
  else some (f, s.setTile t { x with used := (x.asid, f) :: x.used })

/-- CTXLD.ctx: the slot becomes live with the image's state and its frame, and begins with an acquire at device scope. -/
def execCtxldCtx (p : Pfx) (a : BitVec 4) (s : State) : Result :=
  issue (.ctxldCtx p a) (kernelOp fun s =>
    imageForm p a true s (
      let x := opA p a s
      let c := saGlobal x
      let n := saSub x
      if (s.ctxAt c n).live then .trap (e13 s 0x21)
      else loadImageAt p (opE p s) 64 s fun s ws =>
        match s.bindIdent c ws with
        | none => .trap (e13 s 0x22)
        | some (f, s1) =>
          let y := ((s1.ctxAt c n).fresh true).load s.ctx.mode 0 ws
          .ok ((s1.setLive c n { y with ident := f }).beginAt c n 4))) s

def execCtxldCell (p : Pfx) (a : BitVec 4) (s : State) : Result :=
  issue (.ctxldCell p a) (kernelOp fun s =>
    imageForm p a false s (
      loadImageAt p (opE p s) 4096 s fun s ws => .ok (State.loadCell (saGlobal (opA p a s)) 0 ws s))) s

/-- CTXLD.tile installs an address space: the tile's image, the out-of-bounds counter cleared (06 R148), then the replay of the
messages logged for its space (12 R291). -/
def State.installTile (s : State) (t : Nat) (ws : List Word) : State :=
  let s := State.loadTile t 0 ws (s.clearTile t)
  ((s.setTile t { s.tile t with oob := 0#64 }).replay t).flushIngress t

def execCtxldTile (p : Pfx) (a : BitVec 4) (s : State) : Result :=
  issue (.ctxldTile p a) (kernelOp fun s =>
    imageForm p a false s (
      let t := saUnit (opA p a s)
      loadImageAt p (opE p s) 16384 s fun s ws => .ok (s.installTile t ws))) s

/-! ### PMREQ and tile stops (R354 to R356) -/

/-- The instruction has made its request, and waits for its completion. -/
def await (s : State) : Res := .left (s.setCtx (s.ctx.waitAs 1 0 .asked))
def asked (s : State) : Bool := s.ctx.wait == .asked
/-- A wait that a PMREQ abandons (05 R125). -/
def Wait.abandoned : Wait → Bool
  | .poll | .stage | .counter _ _ _ => true
  | _ => false

/-- R125 on the context of slot (c, n): the copy of ibud, the zeroed ibud, PREQ; a wait or a parked access of user mode is
abandoned. A context in a double trap leaves at once (R354). -/
def State.preempt (s : State) (c n : Nat) (disp : BitVec 2) : State :=
  let x := s.ctxAt c n
  let stuck := x.user && x.wait.abandoned
  let s := if x.wait = .stage ∧ x.user then
      { s with parked := s.parked.filter fun q => q.who != Who.ctx (BitVec.ofNat 16 c) (BitVec.ofNat 4 n) }
    else s
  let x := if stuck then x.abandon else x
  let x := { x with preq := some ⟨x.ibud, disp⟩, ibud := ⟨false, 0#32⟩ }
  if x.double then
    (s.setCtxAt c n { x with double := false }).asCtx (BitVec.ofNat 16 c) (BitVec.ofNat 4 n) fun s => s.beginYield 3#3 0
  else s.setCtxAt c n x

/-- The context has begun a yield, or a request is pending on it. -/
def Ctx.going (x : Ctx) : Bool :=
  x.live && (x.preq.isSome || (match x.wait with | .leaving _ => true | _ => false))

def execPmreqCtx (p : Pfx) (a : BitVec 4) (s : State) : Result :=
  issue (.pmreqCtx p a) (kernelOp fun s =>
    let w := opA p a s
    let c := (w.extractLsb' 0 16).toNat
    let n := (w.extractLsb' 16 4).toNat
    let x := s.ctxAt c n
    if numCells ≤ c ∨ 10 < n then .trap (e13 s 0x23)
    else if asked s then (if x.going then await s else .ok s)
    else if !x.live then .ok s
    else if x.preq.isSome then .poll
    else if x.going then await s
    else await (s.preempt c n (w.extractLsb' 20 2))) s

/-- The tile of s[a] or s[e]. -/
def tileArg (w : Word) : Nat := (w.extractLsb' 0 12).toNat

def State.stopTile (s : State) (t : Nat) : State :=
  let x := s.tile t
  if x.run = .running then s.setTile t { x with run := .stopping } else s

/-- The waits of a tile's CWAITs whose counters satisfy them complete: those of user contexts stayed pending while it was stopped. -/
def State.meetTile (s : State) (t : Nat) : State :=
  (s.waiters t).foldl (fun s p =>
    match (s.ctxAt p.1 p.2).wait with | .counter i _ _ => s.meetWait t i.toNat p.1 p.2 | _ => s) s

/-- A restart: what was logged for the tile's space is applied before any context issues (12 R291), its commands are held to its grants
where it had stopped (11 R286), satisfied waits on its counters complete, and every live context of the tile begins with an acquire at
device scope (R356). -/
def State.goTile (s : State) (t : Nat) : State :=
  let x := s.tile t
  if x.run = .running then s
  else
    let s := ((s.setTile t { x with run := .running }).replay t).flushIngress t
    let s := (if x.run = .stopped then s.rejudgeTile t else s).meetTile t
    (List.range 16).foldl (fun s i =>
      (List.range 11).foldl (fun s n => if (s.ctxAt (16 * t + i) n).live then s.acquireAt (16 * t + i) n 4 else s) s) s

/-- PMREQ.stop: everything that the stopped contexts have issued happens before what the requester does after the completion (11
R278): an acquire at device scope. -/
def execPmreqStop (p : Pfx) (a : BitVec 4) (s : State) : Result :=
  issue (.pmreqStop p a) (kernelOp fun s =>
    let t := tileArg (opA p a s)
    if numTiles ≤ t then .trap (e13 s 0x23)
    else if s.stopped t then .ok (s.acquire 4)
    else if asked s then (if (s.tile t).run = .stopping then await s else .ok (s.acquire 4))
    else await (s.stopTile t)) s

def execPmreqGo (p : Pfx) (a : BitVec 4) (s : State) : Result :=
  issue (.pmreqGo p a) (kernelOp fun s =>
    let t := tileArg (opA p a s)
    if numTiles ≤ t then .trap (e13 s 0x23) else .ok (s.goTile t)) s

/-- PMREQ.frame: a held frame joins the tail of its priority; it waits while the queue accepts no entry (12 R300). -/
def execPmreqFrame (p : Pfx) (a : BitVec 4) (s : State) : Result :=
  issue (.pmreqFrame p a) (kernelOp fun s =>
    let f := opA p a s
    let t := tileArg (opE p s)
    if numTiles ≤ t then .trap (e13 s 0x23)
    else if !(s.tile t).accepts then .poll
    else match s.frameKey t f with
      | none => .trap ⟨6, f, 0#64, s.unmappedLog t s.ctx.user f.toNat 64⟩
      | some key =>
        let s := (s.meetFrame t f 64).setF t key fSTATE 1 1
        .ok (s.enqueueRq t { s.frameRq t f 1 none with kernel := true })) s

/-! ### GANGSTOP (R357, R358) -/

/-- The compute tiles of a partition: those whose resident address space is `asid`. -/
def State.partition (s : State) (asid : BitVec 12) : List Nat := (List.range computeTiles).filter fun t => s.asidOf t == asid

/-- A halt record as its 32 doublewords (R358); SENT, RECV and RLAST are those of the tile's partition. -/
def State.haltRecord (s : State) (c : Nat) : List Word :=
  let x := s.cell c
  let t := s.tile (c / 16)
  let a := t.asid.toNat
  let live (n : Nat) : Bool := (x.slot n).live
  let mask := (List.range 11).foldr (fun n m => (live n).toNat + 2 * m) 0
  [t.stopCyc, BitVec.ofNat 64 (c % 65536 + mask * 2 ^ 16), mget x.sent a 0#64, mget t.recv a 0#64]
    ++ ((List.range 4).map fun i => ((mget t.rlast a [])[i]?).getD 0#64)
    ++ ((List.range 11).map fun n => if live n then (x.slot n).pc else 0#64)
    ++ List.replicate 13 0#64

/-- The halt records of some cells, at `base` + 256 × cellid: all are checked before any is written. -/
def haltLines (s : State) (base : Word) : List Nat → Except Res (List WByte × FFlags)
  | [] => .ok ([], 0#5)
  | c :: cs =>
    match storeLines s (base + BitVec.ofNat 64 (256 * c)) 4 (s.haltRecord c) with
    | .error r => .error r
    | .ok (bs, f) =>
      match haltLines s base cs with
      | .error r => .error r
      | .ok (ds, g) => .ok (bs ++ ds, f ||| g)

/-- GANGSTOP: every tile stops; then every cell's record is written, and the instruction completes with an acquire at device
scope (11 R278). The records' addresses are checked before the stop. -/
def execGangstopStop (p : Pfx) (a : BitVec 4) (s : State) : Result :=
  issue (.gangstopStop p a) (kernelOp fun s =>
    let base := opE p s
    let ts := s.partition ((opA p a s).extractLsb' 0 12)
    if base.toNat % 256 ≠ 0 then .trap (mkErr 4 base 0#64)
    else if s.ctx.accessHeld then .hold
    else match haltLines s base (ts.flatMap fun t => (List.range 16).map (16 * t + ·)) with
      | .error r => r
      | .ok (bs, f) =>
        if s.pendMeets bs then .hold
        else if ts.all s.stopped then .ok (((s.write s.tid bs).raise f).acquire 4)
        else await (ts.foldl (fun s t => s.stopTile t) s)) s

def execGangstopRestart (p : Pfx) (a : BitVec 4) (s : State) : Result :=
  issue (.gangstopRestart p a) (kernelOp fun s =>
    .ok ((s.partition ((opA p a s).extractLsb' 0 12)).foldl (fun s t => s.goTile t) s)) s

/-! ### TLBINV (R359, 10 R251) -/

/-- A cached translation of `asid` whose page overlaps [lo, hi). -/
def TlbEntry.meets (e : TlbEntry) (asid : BitVec 12) (lo hi : Nat) : Bool :=
  e.asid == asid && decide (e.va < hi) && decide (lo < e.va + 2 ^ pageBits e.size)

/-- Perform `k` accesses of a context in its order. -/
def performFirst : Nat → State → State
  | 0, s => s
  | k + 1, s => performFirst k (s.completeAt 0)
/-- Perform the units pushed into stream `j` of the acting cell, at most `k`. -/
def performPushed (j : Nat) : Nat → State → State
  | 0, s => s
  | k + 1, s =>
    match s.myCell.stream j with
    | some st =>
      match st.pushed with
      | q :: rest => if st.wr then performPushed j k (s.writeUnit j st q rest) else s
      | [] => s
    | none => s
/-- Perform the units pushed into the write streams of a cell. -/
def State.flushPushed (s : State) (c : Nat) : State :=
  s.asCtx (BitVec.ofNat 16 c) 0#4 fun s =>
    (List.range 4).foldl (fun s j => performPushed j (match s.myCell.stream j with | some st => st.pushed.length | none => 0) s) s
/-- Perform everything that the contexts of a cell have issued: the pushed units, which are earlier than any pending access to
their bytes, then the pending accesses. -/
def State.flushCell (s : State) (c : Nat) : State :=
  let s := s.flushPushed c
  (List.range 11).foldl (fun s n =>
    if (s.ctxAt c n).pend.isEmpty then s
    else s.asCtx (BitVec.ofNat 16 c) (BitVec.ofNat 4 n) (performFirst (s.ctxAt c n).pend.length)) s

/-- Invalidate a range in every cell and tile: entries are removed, a filter whose micro-TLB is empty is cleared (10 R250), and what
any cell has issued is performed before the instruction completes, here at once, whatever space its tile has now. -/
def State.invalidate (s : State) (asid : BitVec 12) (lo hi : Nat) : State :=
  let s : State := { s with
    cells := s.cells.map fun (k, x) => (k, x.setUtlb (x.utlb.filter (!·.meets asid lo hi)))
    tiles := s.tiles.map fun (k, x) => (k, { x with tlb := x.tlb.filter (!·.meets asid lo hi) }) }
  ((s.cells.map (·.1)).foldl (fun s c => s.flushCell c) s).relocateParked asid

def execTlbinv (p : Pfx) (d a : BitVec 4) (s : State) : Result :=
  issue (.tlbinv p d a) (kernelOp fun s =>
    let lo := (opA p a s).toNat
    let len := (opE p s).toNat
    let hi := min (lo + len) (2 ^ 57)
    if len = 0 then .ok s else .ok (s.invalidate ((opD p d s).extractLsb' 0 12) lo hi)) s

end Sys2Proof.Machine
end

