-- ==== Sys2Proof/Machine/Service.lean ====
section
/-! DEFINITION. Sys2Proof/Machine/Service.lean: what the service kernel does for a user context that has trapped to its vector:
the calls of SYSC, and the end of a task (14 R344, R400; 06 R142, R144; 13 R327, R328). -/

namespace Sys2Proof.Machine

/-- Bytes of the caller's memory with right R; none when one cannot be read (R344). -/
def State.readUser (s : State) (t : Nat) (va : Word) : Nat → Option (List Byte)
  | 0 => some []
  | n + 1 =>
    match s.walkAccess t (s.asidOf t) true .read va.toNat 1, s.readUser t (va + 1#64) n with
    | .mem pa _ _, some bs => some (rd8 s.mem pa :: bs)
    | _, _ => none

/-- The walk and the lines of the `n` bytes from `va` on meet their correctable errors (10 R244). -/
def State.meetUser (s : State) (t : Nat) (va : Word) (n : Nat) : State :=
  if s.flaws = [] then s
  else (List.range n).foldl (fun s i =>
    let a := va + BitVec.ofNat 64 i
    let s := s.meetPath t (s.asidOf t) a.toNat
    match s.walkAccess t (s.asidOf t) true .read a.toNat 1 with | .mem pa _ _ => s.meetLines t pa 1 | _ => s) s

/-! ### Descriptors (06 R141, R142) -/

/-- The descriptor that an image holds. -/
def descOfImage (bs : List Byte) : Desc :=
  let w8 (o : Nat) : Word := BitVec.ofNat 64 (natAt bs o 8)
  let w4 (o : Nat) : BitVec 32 := BitVec.ofNat 32 (natAt bs o 4)
  let fl := byteAt bs 0x0A
  { base := w8 0, rank := BitVec.ofNat 8 (byteAt bs 8), ty := BitVec.ofNat 4 (byteAt bs 9), staged := fl % 2 == 1
    ragged := fl / 2 % 2 == 1, aut := BitVec.ofNat 4 (byteAt bs 0x0B)
    block := #v[BitVec.ofNat 8 (byteAt bs 0x0C), BitVec.ofNat 8 (byteAt bs 0x0D), BitVec.ofNat 8 (byteAt bs 0x0E),
      BitVec.ofNat 8 (byteAt bs 0x0F)]
    size := #v[w4 0x10, w4 0x14, w4 0x18, w4 0x1C]
    stride := #v[w8 0x20, w8 0x28, w8 0x30, w8 0x38]
    fill := w8 0x40, param := w8 0x48, stages := w8 0x50 }

/-- The granules of a tensor. -/
def Desc.granCount (D : Desc) : Nat := (List.range D.n).foldl (fun n k => n * D.grans k) 1

/-- The conditions of R142 on an image. -/
def imageOk (bs : List Byte) : Bool :=
  let D := descOfImage bs
  let n := byteAt bs 8
  let es := D.tyOf.bytes
  let size (k : Nat) : Nat := (vget D.size k 0#32).toNat
  let stride (k : Nat) : Nat := (vget D.stride k 0#64).toNat
  let block (k : Nat) : Nat := (vget D.block k 0#8).toNat
  decide (1 ≤ n) && decide (n ≤ 4) && decide (byteAt bs 9 < 15) && decide (byteAt bs 0x0A < 4) && decide (byteAt bs 0x0B < 16) &&
  natAt bs 0x58 8 == 0 && decide (D.base.toNat < windowBase) &&
  ((List.range 4).all fun k =>
    if k < n then decide (1 ≤ size k) && decide (block k ≤ 31) else size k == 1 && stride k == 0 && block k == 0) &&
  (D.tyOf == .q4n || (D.base.toNat % es == 0 && (List.range 4).all fun k => stride k % es == 0)) &&
  (!D.staged || (D.stages.toNat % 8 == 0 &&
    match place D.base.toNat with
    | .virt => true
    | .scratch _ _ => decide (D.granCount ≤ 1024)
    | _ => false))

/-- The tile in whose controller a staged tensor's granules are. -/
def Desc.granTile (D : Desc) : Option Nat :=
  if !D.staged then Option.none else match place D.base.toNat with | .scratch t _ => some t | _ => Option.none

/-- The granule numbers of tile `t` that other descriptors of the space hold. -/
def State.granTaken (s : State) (asid : BitVec 12) (idx t k : Nat) : Bool :=
  s.descs.any fun (j, D) =>
    j / 4096 == asid.toNat && j % 4096 != idx && D.granTile == some t &&
    decide (D.stages.toNat % 1024 ≤ k) && decide (k < D.stages.toNat % 1024 + D.granCount)

/-- The first place for `n` consecutive granule numbers. -/
def State.granRoom (s : State) (asid : BitVec 12) (idx t n : Nat) : Option Nat :=
  (List.range (1025 - n)).find? fun a => (List.range n).all fun i => !s.granTaken asid idx t (a + i)

/-- Set granules `0` to `n - 1` to state 0 (10 R255); none when a stage word cannot be reached. -/
def State.clearGrans (s : State) (t : Nat) (D : Desc) : Nat → Option State
  | 0 => some s
  | n + 1 =>
    match s.clearGrans t D n with
    | none => none
    | some s =>
      match granLoc D false (fun va => s.walkAccess t (s.asidOf t) false .stage va.toNat 8) n with
      | .ok l => some (((s.meetPath t (s.asidOf t) (D.stageVa n).toNat).meetGran t l).setGran t l 0)
      | .error _ => none

/-- Call 1: install or replace a descriptor. Where a stage word of the descriptor cannot be reached, so that its granules cannot be set
to 0, the call answers -2 and installs nothing: R255 and Table 14-2 name no such case (DESIGN CHOICE, log entry 35). -/
def State.callInstall (s : State) (t : Nat) (idx : Nat) (va : Word) : Int × State :=
  let asid := s.asidOf t
  if 4095 < idx then (-2, s)
  else match s.readUser t va 128 with
    | none => (-2, s.meetUser t va 128)
    | some bs =>
      let s := s.meetUser t va 128
      let D := descOfImage bs
      if !imageOk bs then (-2, s)
      else
        let room := match D.granTile with
          | some u => (s.granRoom asid idx u D.granCount).map fun a => { D with stages := BitVec.ofNat 64 a }
          | none => some D
        match room with
        | none => (-3, s)
        | some D =>
          match (if D.staged then s.clearGrans t D D.granCount else some s) with
          | none => (-2, s)
          | some s => (0, { s with descs := mset s.descs (asid.toNat * 4096 + idx) D })

/-- Call 2: remove a descriptor. -/
def State.callRemove (s : State) (t : Nat) (idx : Nat) : Int × State :=
  let k := (s.asidOf t).toNat * 4096 + idx
  if 4095 < idx ∨ !(s.descOf (s.asidOf t) idx).installed then (-2, s) else (0, { s with descs := mdel s.descs k })

/-! ### Groups (13 R327, R328) -/

/-- A mismatch is held here for commands of this module that the other modules have counted and that are still to come (R328; log
entry 24). -/
def State.fateHeld (s : State) (x : Inst) : Bool :=
  match s.group x.asid x.group with
  | some g => g.modules && decide (x.commands s.fab.devid.toNat < x.rounds)
  | none => false

/-- An instance of a group index is outstanding on this module: a command issued and not complete, or a request held. -/
def State.groupBusy (s : State) (asid : BitVec 12) (g : BitVec 8) : Bool :=
  (s.insts.any fun x => x.asid == asid && x.group == g && (x.fate == 0#4 || s.fateHeld x)) ||
  (s.vault.any fun (_, h) => match h with
    | .cmd m => m.coll.isSome && !m.closed && m.asid == asid && cwGroup m.ctl == g && !s.tagged m.num
    | _ => false) ||
  s.cells.any fun (_, x) => x.tags.toList.any fun t =>
    t.busy && (match t.cmd with | some c => c.coll.isSome && c.asid == asid && cwGroup c.ctl == g | none => false)

/-- A group is replaced or removed: what was kept of failed instances of its index goes; what has come before a group is installed
stays for it. -/
def State.dropFates (s : State) (asid : BitVec 12) (g : BitVec 8) : State :=
  if (s.group asid g).isNone then s
  else { s with insts := s.insts.filter fun x => x.asid != asid || x.group != g || x.fate == 0#4 }

def distinct : List Nat → Bool
  | [] => true
  | x :: xs => !xs.contains x && distinct xs

/-- Call 3: install a group image (Table 13-7). -/
def State.callGroup (s : State) (t : Nat) (idx : Nat) (va : Word) : Int × State :=
  let asid := s.asidOf t
  let g := BitVec.ofNat 8 idx
  if 255 < idx then (-2, s)
  else match s.readUser t va 8 with
    | none => (-2, s.meetUser t va 8)
    | some h =>
      let s := s.meetUser t va 8
      let kind := byteAt h 0
      let n := natAt h 2 2
      if 1 < kind ∨ byteAt h 1 ≠ 0 ∨ natAt h 4 4 ≠ 0 ∨ n = 0 ∨ (if kind = 1 then 1024 else 2560) < n then (-2, s)
      else match s.readUser t (va + 8#64) (2 * n) with
        | none => (-2, s.meetUser t (va + 8#64) (2 * n))
        | some bs =>
          let s := s.meetUser t (va + 8#64) (2 * n)
          let ms := (List.range n).map fun r => natAt bs (2 * r) 2
          let ok (m : Nat) : Bool :=
            if kind = 1 then decide (m < 1024) && s.fab.domain.contains (BitVec.ofNat 10 m)
            else decide (m < computeTiles) && s.asidOf m == asid
          if !ms.all ok || !distinct ms then (-2, s)
          else if (s.group asid g).isSome && s.groupBusy asid g then (-3, s)
          else (0, { s.dropFates asid g with groups := mset s.groups (asid.toNat * 256 + idx) ⟨kind == 1, ms.map (BitVec.ofNat 16)⟩ })

/-- Call 4: remove a group. -/
def State.callUngroup (s : State) (t : Nat) (idx : Nat) : Int × State :=
  let asid := s.asidOf t
  let g := BitVec.ofNat 8 idx
  if 255 < idx ∨ (s.group asid g).isNone then (-2, s)
  else if s.groupBusy asid g then (-3, s)
  else (0, { s.dropFates asid g with groups := mdel s.groups (asid.toNat * 256 + idx) })

/-- The calls of Table 14-2; other numbers return -1. -/
def State.syscall (s : State) (n : Word) : Int × State :=
  let idx := (s.rs 1).toNat
  match n.toNat with
  | 1 => s.callInstall s.tid idx (s.rs 2)
  | 2 => s.callRemove s.tid idx
  | 3 => s.callGroup s.tid idx (s.rs 2)
  | 4 => s.callUngroup s.tid idx
  | _ => (-1, s)

/-- The service kernel's turn for the acting context, when it has just trapped from user mode to the kernel's own vector: a syscall is
served and the program goes on after it, unless tpc is odd, where the kernel's TRET traps (03 R57); any other cause ends the task, as does
a double trap (R400). It waits for the context's accesses and queues, and for a place for the join increment. -/
def State.service (s : State) : State :=
  let c := s.ctx
  if !(c.live && tact c && c.tvec == Config.kernelVector && c.tvec != 0#64 && c.tstat.extractLsb' 0 2 == 0#2 && c.mode == 1#2 &&
      (c.double || c.pc == c.tvec)) then s
  else if c.tcause = 0x11#64 ∧ !c.double then
    if !s.released 0 then s
    else
      let (r, s) := s.syscall c.tinfo
      let s := s.ws 0 (BitVec.ofInt 64 r)
      let c := s.ctx
      if c.tpc.getLsbD 0 then s.takeTrap (mkErr 4 c.tpc 0#64) 1
      else s.setCtx { c.trapReturn with pc := c.tpc + 2#64 * (c.tstat.extractLsb' 4 3).setWidth 64 }
  else if !s.canLeave || !s.myCell.sendRoom then s
  else s.endTask s.cid s.sid (some (0x80#8 + c.tcause.extractLsb' 0 8))

end Sys2Proof.Machine
end

