-- ==== Sys2Proof/Machine/Host.lean ====
section
/-! DEFINITION. Sys2Proof/Machine/Host.lean: the host port, the command processor, boot and recovery, attestation, power, the
Guhorn links and the pool port (chapter 15, 11 R277, 10 R242). -/

namespace Sys2Proof.Machine

/-! ### BAR0 (R363) -/

/-- In recovery mode the host function offers only BAR2 (R370). -/
def State.bar0 (s : State) : Bool := !s.host.recovery

def State.setHost (s : State) (h : HostIf) : State := { s with host := h }
def State.queue (s : State) (q : Nat) : Queue := vget s.host.queues q Queue.reset
def State.setQueue (s : State) (q : Nat) (x : Queue) : State := s.setHost { s.host with queues := vset s.host.queues q x }

/-- QSTAT. -/
def Queue.stat (x : Queue) : Word := x.err.setWidth 64 <<< 8 ||| bit 64 x.stop ||| bit 64 x.pref <<< 1

/-- Doubleword `k` of a long field of BAR0. -/
def pieceOf (bs : List Byte) (k : Nat) : Word := BitVec.ofNat 64 (natAt bs (8 * k) 8)

/-- What a host read of a doubleword of BAR0 returns; other offsets read 0. MDATA reads as in kernel mode (log entry 34). -/
def State.barRead (s : State) (off : Nat) : Word :=
  let h := s.host
  if !s.bar0 then 0#64
  else if 0x100 ≤ off ∧ off < 0x300 then
    let x := s.queue ((off - 0x100) / 0x40)
    match (off - 0x100) % 0x40 with
    | 0x00 => x.qbase
    | 0x08 => x.qsize.setWidth 64
    | 0x10 => x.wptr.setWidth 64
    | 0x18 => x.rptr.setWidth 64
    | 0x20 => x.stat
    | 0x28 => x.qasid.setWidth 64
    | _ => 0#64
  else if off = 0x8000 then h.maddr
  else if off = 0x8008 then (if saOff h.maddr % 8 = 0 then s.stateRead 1#2 h.maddr else 0#64)
  else if off = 0x8010 then h.pstate.setWidth 64
  else if 0x8100 ≤ off ∧ off < 0x8120 then h.anonce.extractLsb' (8 * (off - 0x8100)) 64
  else if 0x8200 ≤ off ∧ off < 0x8328 then pieceOf h.report ((off - 0x8200) / 8)
  else 0#64

/-- A write of WPTR. -/
def State.writeWptr (s : State) (q : Nat) (v : BitVec 32) : State := s.setQueue q { s.queue q with wptr := v }

/-- A write of QSIZE: 0 disables; a disabled queue is enabled, and a stopped one resumes at RPTR; an enabled queue keeps its
size. A size above 16 is ignored (log entry 18). -/
def State.writeQsize (s : State) (q : Nat) (v : BitVec 5) : State :=
  let x := s.queue q
  if v = 0#5 then s.setQueue q { x with qsize := 0#5 }
  else if x.qsize ≠ 0#5 ∨ 16 < v.toNat then s
  else s.setQueue q { x with qsize := v, stop := false, err := 0#8 }

/-- A write of MDATA follows R353; what R353 does not allow is ignored (log entry 18). Units that the tile's contexts have pushed into
write streams are performed before another address space is installed (08 R206). -/
def State.writeMdata (s : State) (v : Word) : State :=
  let a := s.host.maddr
  if saOff a % 8 ≠ 0 then s
  else if saClass a = 7 ∧ saValid a ∧ saOff a = 0x18 ∧ s.answerWaits (saUnit a) (lo32 v) (v.extractLsb' 32 2) then s
  else
    let s := if s.spaceWaits a v then (List.range 16).foldl (fun s i => s.flushPushed (16 * saUnit a + i)) s else s
    (s.stateWrite 1#2 a v).getD s

/-- A write of ANONCE starts the signing of a new report (R371). -/
def State.writeAnonce (s : State) (n : BitVec 256) : State := s.setHost { s.host with anonce := n, signing := some n }

/-- Every partition is gang-stopped: each compute tile is stopped, or is assigned to no space and runs nothing (R372, 14 R357). -/
def State.allStopped (s : State) : Bool :=
  s.tiles.all (fun (t, x) => decide (computeTiles ≤ t) || x.run == .stopped || x.asid == 0#12) &&
  s.cells.all fun (c, x) =>
    decide (computeTiles ≤ c / 16) || (s.tile (c / 16)).run == .stopped || x.slots.toList.all fun k => !k.live

/-- A write of PSTATE. -/
def State.writePstate (s : State) (v : Nat) : State :=
  let pref (b : Bool) (s : State) : State := s.setQueue 0 { s.queue 0 with pref := b }
  if v = 0 then pref false (s.setHost { s.host with pstate := 0#2 })
  else if 2 < v then s
  else if s.allStopped then pref false (s.setHost { s.host with pstate := BitVec.ofNat 2 v })
  else pref true s

/-- A host write of one doubleword of BAR0. Read-only registers and other offsets ignore it. -/
def State.barWrite (s : State) (off : Nat) (v : Word) : State :=
  if 0x100 ≤ off ∧ off < 0x300 then
    let q := (off - 0x100) / 0x40
    let x := s.queue q
    match (off - 0x100) % 0x40 with
    | 0x00 => if x.qsize = 0#5 then s.setQueue q { x with qbase := v &&& 0xFFFFFFFFC0#64 } else s
    | 0x08 => s.writeQsize q (v.extractLsb' 0 5)
    | 0x10 => s.writeWptr q (v.extractLsb' 0 32)
    | 0x28 => if x.qsize = 0#5 then s.setQueue q { x with qasid := v.extractLsb' 0 12 } else s
    | _ => s
  else if off = 0x8000 then s.setHost { s.host with maddr := v }
  else if off = 0x8008 then s.writeMdata v
  else if off = 0x8010 then s.writePstate v.toNat
  else if 0x8100 ≤ off ∧ off < 0x8120 ∧ off % 8 = 0 then
    let k := 8 * (off - 0x8100)
    s.writeAnonce ((s.host.anonce &&& ~~~((BitVec.allOnes 64).setWidth 256 <<< k)) ||| (v.setWidth 256 <<< k))
  else s

def execWptrWrite (q : BitVec 3) (v : BitVec 32) (s : State) : Result := .next (if s.bar0 then s.writeWptr q.toNat v else s)
def execQsizeWrite (q : BitVec 3) (v : BitVec 5) (s : State) : Result := .next (if s.bar0 then s.writeQsize q.toNat v else s)
def execHostRegisterWrite (off : BitVec 16) (v : BitVec 64) (s : State) : Result :=
  .next (if s.bar0 then s.barWrite off.toNat v else s)
def execMdataWrite (v : BitVec 64) (s : State) : Result := .next (if s.bar0 then s.writeMdata v else s)
def execAnonceWrite (nonce : BitVec 256) (s : State) : Result := .next (if s.bar0 then s.writeAnonce nonce else s)
def execPstateFull (s : State) : Result := .next (if s.bar0 then s.writePstate 0 else s)
def execPstatePartitionOff (s : State) : Result := .next (if s.bar0 then s.writePstate 1 else s)
def execPstateIdle (s : State) : Result := .next (if s.bar0 then s.writePstate 2 else s)

/-- What a host read of a byte of BAR2 returns: the staging window in recovery mode, 0 elsewhere (R370). -/
def State.bar2Read (s : State) (off : Nat) : Byte :=
  if s.host.recovery && decide (off < 2 ^ 23) then s.host.staging.getD off 0#8 else 0#8
/-- A host write of bytes of BAR2: those beyond the staging window are ignored. -/
def State.bar2Write (s : State) (off : Nat) (bytes : List Byte) : State :=
  let h := s.host
  let bs := bytes.take (2 ^ 23 - off)
  if !h.recovery || bs.isEmpty then s
  else
    let old := h.staging ++ List.replicate (off - h.staging.length) 0#8
    s.setHost { h with staging := old.take off ++ bs ++ old.drop (off + bs.length) }

/-- An access of no tile to `n` bytes of local HBM meets the correctable errors of their lines (10 R244). -/
def State.meetHome (s : State) (pa n : Nat) : State := if n = 0 then s else s.meetLines (homeTile pa) pa n

/-- HOST_MEMORY_ACCESS: HBM at a physical offset, or BAR2 in recovery mode. A read returns the bytes of HBM, or `bar2Read`, and
changes nothing but a correctable error that it meets. -/
def execHostMemoryAccess (a : HostAcc) (s : State) : Result :=
  match a with
  | .staged _ _ => .next s
  | .read pa n => .next (if s.bar0 ∧ pa.toNat + n ≤ 2 ^ 40 then s.meetHome pa.toNat n else s)
  | .write pa bytes =>
    .next (if s.bar0 ∧ pa.toNat + bytes.length ≤ 2 ^ 40 then
      (s.meetHome pa.toNat bytes.length).perform numTiles (wbytes pa.toNat bytes) else s)
  | .stage off bytes => .next (s.bar2Write off.toNat bytes)

/-! ### The command processor (R364 to R366, 11 R277) -/

/-- The 64 bytes of the entry at RPTR. -/
def State.entryKey (s : State) (q : Nat) : Nat :=
  let x := s.queue q
  (x.qbase.toNat + 64 * (x.rptr.toNat % 2 ^ x.qsize.toNat)) % 2 ^ 40
def State.entryN (s : State) (q off n : Nat) : Nat := rdN s.mem (s.entryKey q + off) n

/-- The queue has an entry to process. -/
def State.hasEntry (s : State) (q : Nat) : Bool :=
  let x := s.queue q
  s.bar0 && decide (q < 8) && x.qsize != 0#5 && !x.stop && x.rptr != x.wptr

/-- The error code of the entry at RPTR, 0 when it is valid; a launch alone uses handles, and the reserved fields belong to every
KIND (log entry 18). -/
def State.entryErr (s : State) (q : Nat) : Nat :=
  let f (off n : Nat) : Nat := s.entryN q off n
  let kind := f 0 1
  let t := f 2 2
  if 3 < kind then 1
  else if kind = 1 ∧ 8 < f 1 1 then 2
  else if kind = 1 ∧ (computeTiles ≤ t ∨ s.asidOf t ≠ (s.queue q).qasid) then 3
  else if kind = 1 ∧ f 8 8 % 64 ≠ 0 then 4
  else if f 6 2 ≠ 0 ∨ f 0x18 8 ≠ 0 then 5
  else if (kind = 1 ∧ 1023 < f 4 2) ∨ ((kind = 2 ∨ kind = 3) ∧ 4095 < f 0x10 4) then 6
  else 0

/-- QUEUE_STOP. -/
def State.stopQueue (s : State) (q code : Nat) : State := s.setQueue q { s.queue q with stop := true, err := BitVec.ofNat 8 code }
def State.nextEntry (s : State) (q : Nat) : State := s.setQueue q { s.queue q with rptr := (s.queue q).rptr + 1#32 }

/-- Take the entry of queue `sel.k` when it is of this KIND; an entry that breaks a rule stops the queue. -/
def takeEntry (kind : Nat) (f : Nat → State → State) (s : State) : Result :=
  let q := s.sel.k
  if !s.hasEntry q then .next s
  else if s.entryErr q ≠ 0 then .next ((s.meetHome (s.entryKey q) 64).stopQueue q (s.entryErr q))
  else if s.entryN q 0 1 ≠ kind then .next s
  else .next (f q (s.meetHome (s.entryKey q) 64))

def execCmdNoop (s : State) : Result := takeEntry 0 (fun q s => s.nextEntry q) s

/-- The handles of the entry: number and W. -/
def State.entryHandles (s : State) (q : Nat) : List (BitVec 32) :=
  (List.range (s.entryN q 1 1)).map fun h => BitVec.ofNat 32 (s.entryN q (0x20 + 4 * h) 4)

/-- One handle makes a launch wait for another (R277): the same buffer, written by one of the two. -/
def clash (a b : BitVec 32) : Bool := a.extractLsb' 0 16 == b.extractLsb' 0 16 && (a.getLsbD 31 || b.getLsbD 31)
def Launch.blocks (l : Launch) (hs : List (BitVec 32)) : Bool := l.handles.any fun a => hs.any (clash a)

/-- No launch of an address space runs and none of its messages is under way. -/
def State.quietSpace (s : State) (a : BitVec 12) : Bool :=
  let mine (o : Out) : Bool := (match o with | .msg _ _ _ _ _ _ _ _ _ => true | _ => false) && s.spaceOf (o.tag != spaceTag a) o.tag == a.toNat
  (s.host.queues.toList.all fun q => q.runs.all fun l => s.asidOf l.tile.toNat != a) &&
  (s.cells.all fun (_, x) => x.sendq.all (!mine ·)) && (s.logOf a.toNat).isEmpty &&
  s.tiles.all fun (_, x) => match x.ingress with | some (b, _, _) => b != a.toNat | none => true
/-- A partition is launched when a launch finds its space quiet: the counts of its messages begin anew (14 R358: SENT counts since
the partition launched; log entry 35). -/
def State.launchSpace (s : State) (a : BitVec 12) : State :=
  if s.quietSpace a then
    { s with
      cells := s.cells.map fun (k, x) => (k, { x with sent := mdel x.sent a.toNat })
      tiles := s.tiles.map fun (k, x) => (k, { x with recv := mdel x.recv a.toNat, rlast := mdel x.rlast a.toNat }) }
  else s

/-- CMD_LAUNCH: a kernel-mode SPAWN in the QASID space, paid, nothing carved; its task begins with an acquire at system
scope. It waits for its handles and for a place in TILE's ready queue. A RECORD that cannot be read sets STOP with code 7 and is not
entered in the violation log (15 R366 gives that outcome and 01 R21 speaks of a context that traps: DESIGN CHOICE, log entry 37). -/
def execCmdLaunch (s : State) : Result :=
  takeEntry 1 (fun q s =>
    let x := s.queue q
    let hs := s.entryHandles q
    let t := s.entryN q 2 2
    if x.runs.any (·.blocks hs) then s
    else match s.walkAccess t x.qasid false .read (s.entryN q 8 8) 64 with
      | .mem pa _ _ =>
        if !(s.tile t).accepts || !s.clocked t then s
        else
          let l : Launch := ⟨BitVec.ofNat 12 t, BitVec.ofNat 10 (s.entryN q 4 2), BitVec.ofNat 32 (s.entryN q 0x14 4), hs⟩
          let s := (s.meetPath t x.qasid (s.entryN q 8 8)).meetLines t pa 64
          let s := (s.launchSpace x.qasid).enqueueRq t (spawnEntry (rdRecord s.mem pa) true 6)
          (s.setQueue q { s.queue q with runs := (s.queue q).runs ++ [l] }).nextEntry q
      | _ => s.stopQueue q 7) s

/-- The counter has reached COUNT. -/
def State.launchDone (s : State) (l : Launch) : Bool := decide (l.count ≤ ((s.tile l.tile.toNat).ctr l.ctr.toNat).value)

/-- A release at system scope for the contexts of an address space: their accesses are performed. -/
def State.flushSpace (s : State) (asid : BitVec 12) : State :=
  (s.cells.map (·.1)).foldl (fun s c => if s.asidOf (c / 16) = asid then s.flushCell c else s) s

/-- LAUNCH_END of the oldest launch of queue `sel.k` whose counter has reached COUNT. -/
def execLaunchEnd (s : State) : Result :=
  let q := s.sel.k
  match (s.queue q).runs.find? s.launchDone with
  | none => .next s
  | some l =>
    let s := s.flushSpace (s.asidOf l.tile.toNat)
    .next (s.setQueue q { s.queue q with runs := (s.queue q).runs.erase l })

/-- CMD_SIGNAL: after the queue's launches have ended, each of which performed its contexts' accesses. -/
def execCmdSignal (s : State) : Result :=
  takeEntry 2 (fun q s =>
    if !(s.queue q).runs.isEmpty then s
    else
      let e := s.entryN q 0x10 4
      let v := BitVec.ofNat 32 (max (mget s.host.events e 0#32).toNat (s.entryN q 0x14 4))
      (s.setHost { s.host with events := mset s.host.events e v }).nextEntry q) s

/-- CMD_WAIT: the acquire is made by every later launch of the queue. -/
def execCmdWait (s : State) : Result :=
  takeEntry 3 (fun q s =>
    if s.entryN q 0x14 4 ≤ (mget s.host.events (s.entryN q 0x10 4) 0#32).toNat then s.nextEntry q else s) s

/-! ### Boot and recovery (R369, R370, 01 R16) -/

def imgMagic : Nat := 0x4D58543430393646
def imgRollback (img : List Byte) : Nat := natAt img 8 4
def imgLength (img : List Byte) : Nat := natAt img 0x0C 4
def imgDigest (img : List Byte) : BitVec 512 := BitVec.ofNat 512 (natAt img 0x10 64)
/-- The LENGTH bytes of firmware after the header; what the flash or the staging window does not list reads as 0. -/
def imgBody (img : List Byte) : List Byte :=
  let b := (img.drop 256).take (imgLength img)
  b ++ List.replicate (imgLength img - b.length) 0#8

/-- Steps 1 to 3 of R369. -/
def imageVerifies (img : List Byte) (fuses : Nat) : Bool :=
  natAt img 0 8 == imgMagic && decide (imgLength img ≤ 2 ^ 23 - 256) &&
  Config.ed448Verify Config.maellorKey (img.take 0x50) (BitVec.ofNat 912 (natAt img 0x50 114)) &&
  imgDigest img == Config.shake256 (imgBody img) && decide (fuses ≤ imgRollback img)

/-- Module reset: every state to its reset value but the module flash, the fuses, the fabric domain's configuration and the
model's own schedule; then BOOT_ROM_VERIFY starts the firmware or enters recovery mode. -/
def State.bootReset (s : State) : State :=
  let h := s.host
  let r : State := { State.reset with
    tick := s.tick, agenda := s.agenda, fab := { Fabric.reset with devid := s.fab.devid, domain := s.fab.domain, lost := s.fab.lost } }
  if imageVerifies h.flash h.fuses then
    let r := r.setHost { HostIf.reset with
      flash := h.flash, fuses := max h.fuses (min (imgRollback h.flash) 64)
      rollback := BitVec.ofNat 32 (imgRollback h.flash), digest := imgDigest h.flash }
    r.setCtxAt bootCell.toNat 0 { r.ctxAt bootCell.toNat 0 with pc := Config.firmwareEntry &&& ~~~1#64 }
  else
    { r.setHost { HostIf.reset with flash := h.flash, fuses := h.fuses, recovery := true } with cells := [] }

def execModuleReset (s : State) : Result := .next s.bootReset

/-- RECOVERY_GO. -/
def execRecoveryGo (s : State) : Result :=
  let h := s.host
  if !h.recovery then .next s
  else
    let s := if imageVerifies h.staging h.fuses then s.setHost { h with flash := h.staging.take (256 + imgLength h.staging) } else s
    .next s.bootReset

/-- POWER_LOSS, during a recovery flash write or not: a write cut short leaves an image that fails verification. -/
def execPowerLoss (writing : Bool) (s : State) : Result :=
  let h := s.host
  let s : State := if writing && h.recovery && imageVerifies h.staging h.fuses then s.setHost { h with flash := [] } else s
  .next { s with power := false }

/-! ### Attestation (R371) -/

/-- Bytes 0x00 to 0xAF of the report. -/
def State.reportHead (s : State) (nonce : BitVec 256) : List Byte :=
  let h := s.host
  leBytes 4 1 ++ leBytes 4 s.fab.devid.toNat ++ leBytes 4 h.rollback.toNat ++ leBytes 4 h.fuses ++ leBytes 32 nonce.toNat
    ++ leBytes 64 h.digest.toNat ++ leBytes 57 Config.identityKey.toNat ++ leBytes 7 0

def execAttestationReportReady (s : State) : Result :=
  match s.host.signing with
  | none => .next s
  | some n =>
    let head := s.reportHead n
    .next (s.setHost { s.host with signing := none, report := head ++ leBytes 114 (Config.ed448Sign head).toNat })

/-! ### Guhorn links, the pool, other modules (R367, 10 R242, R257) -/

/-- LINK_CRC_RESEND: resent once; with `again` the link fails twice and is taken out, after which the modules `lost` have no path, and the
collective instances that wait for one of them fail. The error log and the fault record are those of the service tile of die link / 12 (14
R360; log entry 18). -/
def execLinkCrcResend (link : BitVec 6) (again : Bool) (lost : List (BitVec 10)) (s : State) : Result :=
  if 48 ≤ link.toNat ∨ s.fab.downs.contains link then .next s
  else
    let die := link.toNat / 12
    let s := s.logError (computeTiles + die) 0 link.toNat again
    let s : State := { s with fab := { s.fab with resends := s.fab.resends + 1 } }
    if !again then .next s
    else
      let s : State := { s with fab := { s.fab with
        downs := s.fab.downs ++ [link]
        lost := s.fab.lost ++ lost.filter fun m => m != s.fab.devid && !s.fab.lost.contains m } }
      let s := (s.sendFault (4 * die) (link.setWidth 64) (whoWord 0 0 0#12 6)).2
      .next (s.insts.foldl (fun s x => s.tryInst (s.inst x.name)) s)

def execModuleBecomesReachable (m : BitVec 10) (s : State) : Result :=
  .next { s with fab := { s.fab with lost := s.fab.lost.filter (· != m) } }

/-- POOL_BACK_INVALIDATE: the line leaves the home slice's L2, so later accesses see what the pool holds. -/
def execPoolBackInvalidate (line : BitVec 50) (bytes : BitVec 512) (s : State) : Result :=
  .next (s.perform numTiles (wbytes (2 ^ 56 + 64 * line.toNat) (leBytes 64 bytes.toNat)))

/-- The new value that an atomic function of R253 writes; `y` is ACAS's value. -/
def amoNew (f n old x y : Nat) : Option Nat :=
  let fmt := if n = 8 then fmtF64 else fmtF32
  match f with
  | 0 => some ((old + x) % 2 ^ (8 * n))
  | 1 => some (old &&& x)
  | 2 => some (old ||| x)
  | 3 => some (old ^^^ x)
  | 4 => some (if signedLt n x old then x else old)
  | 5 => some (if signedLt n old x then x else old)
  | 6 => some (min old x)
  | 7 => some (max old x)
  | 8 => some x
  | 9 => if old = x then some y else none
  | 10 => some (fadd fmt .rne old x).1
  | _ => none

/-- Local HBM holds the bytes and no poison meets them. -/
def State.hbmOk (s : State) (read : Bool) (pa n : Nat) : Bool :=
  decide (pa + n ≤ 2 ^ 40) && !(read && (s.poison.contains (pa / 64) || s.poison.contains ((pa + n - 1) / 64)))

/-- An element type of `n` bytes, as a type code. -/
def rawCode (n : Nat) : Option (BitVec 4) :=
  match n with
  | 1 => some 8#4 | 2 => some 10#4 | 4 => some 12#4 | 8 => some 14#4 | _ => none

/-- The stage step of another module: it is performed, refused, or joins the park queue of its home slice (10 R257, R259),
and errors that it meets are entered where its home is (14 R360). -/
def State.remoteStage (s : State) (word : Nat) (k : BitVec 4) (col : List Byte) (op : StageOp) (pa : Option Nat) (ty : BitVec 4)
    (v : Word) : State :=
  let l : GLoc := .word word k.toNat
  let r : StageReq := ⟨op, { Desc.none with ty := ty }, 0#12, 0#4, [(0, l)], pa, v, 0, 5, 0#2, 0, 0#64, some col, none, false⟩
  match stageRun (homeTile word) r .issue none 0#2 r.grans s with
  | .done s v o => s.stageDone ⟨.remote, l, r, true⟩ v o
  | .park s r l inq => { s with parked := s.parked ++ [⟨.remote, l, r, inq⟩] }
  | .fault s g st => s.stageFault ⟨.remote, l, r, true⟩ g st
  | .full => s
  | .wait => s

/-- A message or join increment of another module reaches its compute tile, unless the tile's ingress is full or has no clock. -/
def State.arrive (s : State) (a c : Nat) (o : Out) : State :=
  if computeTiles ≤ o.tile ∨ !s.clocked o.tile then s
  else if (s.tile o.tile).ingress.isSome then s.flushIngress o.tile
  else s.deliver a c o

def execRemoteRequestArrival (q : RemoteReq) (s : State) : Result :=
  match q with
  | .load pa n =>
    if s.hbmOk true pa.toNat n then .next ((s.meetHome pa.toNat n).reply (.data (rdBytes s.mem pa.toNat n)))
    else .next (s.reply .error)
  | .store pa bytes =>
    if s.hbmOk false pa.toNat bytes.length then .next (((s.meetHome pa.toNat bytes.length).perform numTiles (wbytes pa.toNat bytes)).reply (.data []))
    else .next (s.reply .error)
  | .atomic f wide pa x y =>
    let n := if f = 11#4 then 16 else if wide then 8 else 4
    let w := if wide then 8 else 4
    if 12 ≤ f.toNat ∨ pa.toNat % n ≠ 0 ∨ !s.hbmOk true pa.toNat n then .next (s.reply .error)
    else
      let s := s.meetHome pa.toNat n
      let old := rdN s.mem pa.toNat n
      let x := x.toNat % 2 ^ (8 * w)
      let new := if f = 11#4 then some (pairAdd old (if wide then x else (convert .f32 .f64 .rne false x).1))
        else amoNew f.toNat n old x (y.toNat % 2 ^ (8 * w))
      let s := match new with | some v => s.putN numTiles pa.toNat n v | none => s
      .next (s.reply (.data (leBytes n old)))
  | .stage word k col data =>
    if word.toNat % 8 ≠ 0 ∨ !s.hbmOk true word.toNat 8 then .next (s.reply .error)
    else match data with
      | .none => .next (s.remoteStage word.toNat k col .trn none 8#4 0#64)
      | .load pa n =>
        match rawCode n with
        | some ty =>
          if s.hbmOk true pa.toNat n then .next (s.remoteStage word.toNat k col .lds (some pa.toNat) ty 0#64) else .next (s.reply .error)
        | none => .next (s.reply .error)
      | .store pa bytes =>
        match rawCode bytes.length with
        | some ty =>
          if s.hbmOk false pa.toNat bytes.length then
            .next (s.remoteStage word.toNat k col .sts (some pa.toNat) ty (BitVec.ofNat 64 (leNat bytes)))
          else .next (s.reply .error)
        | none => .next (s.reply .error)
  | .message t off ctr ws tag cell seq => .next (s.arrive (s.spaceOf true tag) cell.toNat (.msg s.fab.devid t off ctr ws tag seq 5 0#64))
  | .join ref frame kind iref mref tag =>
    if joinModule ref ≠ s.fab.devid then .next s
    else .next (s.arrive (s.spaceOf true tag) 0 (.join ref frame kind iref mref tag 5 0#64))

end Sys2Proof.Machine
end

