-- ==== Sys2Proof/Machine/Scalar.lean ====
section
/-! DEFINITION. Sys2Proof/Machine/Scalar.lean: the page-0 instructions that access no memory (04 R87, R93 to R101, R105 to
R107, 03 R59). -/

namespace Sys2Proof.Machine

/-! ### Results (04 Tables 04-5 and 04-6, R87) -/

/-- Counting bits: leading and trailing zeros (64 for 0) and ones. -/
def leadingZeros (x : Word) : Word :=
  BitVec.ofNat 64 ((List.range 64).foldl (fun n k => if x.getLsbD k then 63 - k else n) 64)
def trailingZeros (x : Word) : Word :=
  BitVec.ofNat 64 ((List.range 64).foldr (fun k n => if x.getLsbD k then k else n) 64)
def onesCount (x : Word) : Word :=
  BitVec.ofNat 64 ((List.range 64).foldl (fun n k => if x.getLsbD k then n + 1 else n) 0)

def resAdd (x y : Word) : Word := x + y
def resSub (x y : Word) : Word := x - y
def resAnd (x y : Word) : Word := x &&& y
def resOr (x y : Word) : Word := x ||| y
def resXor (x y : Word) : Word := x ^^^ y
def resSll (x y : Word) : Word := x <<< (y.toNat % 64)
def resSrl (x y : Word) : Word := x >>> (y.toNat % 64)
def resSra (x y : Word) : Word := x.sshiftRight (y.toNat % 64)
def resMul (x y : Word) : Word := x * y
def resMulh (x y : Word) : Word := BitVec.ofInt 64 (toS x * toS y / 2 ^ 64)
def resMulhu (x y : Word) : Word := BitVec.ofNat 64 (x.toNat * y.toNat / 2 ^ 64)
def resMin (x y : Word) : Word := if x.slt y then x else y
def resMax (x y : Word) : Word := if x.slt y then y else x
def resMinu (x y : Word) : Word := if x.ult y then x else y
def resMaxu (x y : Word) : Word := if x.ult y then y else x
def resMov (x : Word) : Word := x
def resDiv (x y : Word) : Word := if y = 0#64 then BitVec.allOnes 64 else BitVec.ofInt 64 ((toS x).tdiv (toS y))
def resDivu (x y : Word) : Word := if y = 0#64 then BitVec.allOnes 64 else x / y
def resRem (x y : Word) : Word := if y = 0#64 then x else BitVec.ofInt 64 ((toS x).tmod (toS y))
def resRemu (x y : Word) : Word := if y = 0#64 then x else x % y
def resClz (x : Word) : Word := leadingZeros x
def resCtz (x : Word) : Word := trailingZeros x
def resPopc (x : Word) : Word := onesCount x
def resSextb (x : Word) : Word := (x.setWidth 8).signExtend 64
def resSexth (x : Word) : Word := (x.setWidth 16).signExtend 64
def resSextw (x : Word) : Word := (x.setWidth 32).signExtend 64
def resZextb (x : Word) : Word := (x.setWidth 8).setWidth 64
def resZexth (x : Word) : Word := (x.setWidth 16).setWidth 64
def resZextw (x : Word) : Word := (x.setWidth 32).setWidth 64
def resBswap (x : Word) : Word := x.extractLsb' 0 8 ++ x.extractLsb' 8 8 ++ x.extractLsb' 16 8 ++ x.extractLsb' 24 8 ++ x.extractLsb' 32 8
    ++ x.extractLsb' 40 8 ++ x.extractLsb' 48 8 ++ x.extractLsb' 56 8
def resAddw (x y : Word) : Word := ((x + y).setWidth 32).signExtend 64
def resSubw (x y : Word) : Word := ((x - y).setWidth 32).signExtend 64

/-! ### ALU and ALU2 (04 R99) -/

/-- F0 arithmetic: s[d] := f(x, y), with the charge of its row. -/
def alu (i : Instr) (charge : Nat) (p : Pfx) (d a : BitVec 4) (f : Word → Word → Word) (s : State) : Result :=
  issue i { cost := fun _ => (charge, 0), body := fun s => .ok (s.ws (p.dn d) (f (opX p d a s) (opY p a s))) } s

/-- One-source functions: s[d] := f(s[a]). -/
def alu1 (i : Instr) (p : Pfx) (d a : BitVec 4) (f : Word → Word) (s : State) : Result :=
  issue i { body := fun s => .ok (s.ws (p.dn d) (f (opA p a s))) } s

/-- ADD (04 Table 04-5). -/
def execAdd (p : Pfx) (d a : BitVec 4) (s : State) : Result := alu (.add p d a) 1 p d a resAdd s
/-- SUB (04 Table 04-5). -/
def execSub (p : Pfx) (d a : BitVec 4) (s : State) : Result := alu (.sub p d a) 1 p d a resSub s
/-- AND (04 Table 04-5). -/
def execAnd (p : Pfx) (d a : BitVec 4) (s : State) : Result := alu (.and p d a) 1 p d a resAnd s
/-- OR (04 Table 04-5). -/
def execOr (p : Pfx) (d a : BitVec 4) (s : State) : Result := alu (.or p d a) 1 p d a resOr s
/-- XOR (04 Table 04-5). -/
def execXor (p : Pfx) (d a : BitVec 4) (s : State) : Result := alu (.xor p d a) 1 p d a resXor s
/-- SLL (04 Table 04-5). -/
def execSll (p : Pfx) (d a : BitVec 4) (s : State) : Result := alu (.sll p d a) 1 p d a resSll s
/-- SRL (04 Table 04-5). -/
def execSrl (p : Pfx) (d a : BitVec 4) (s : State) : Result := alu (.srl p d a) 1 p d a resSrl s
/-- SRA (04 Table 04-5). -/
def execSra (p : Pfx) (d a : BitVec 4) (s : State) : Result := alu (.sra p d a) 1 p d a resSra s
/-- MUL (04 Table 04-5). -/
def execMul (p : Pfx) (d a : BitVec 4) (s : State) : Result := alu (.mul p d a) 2 p d a resMul s
/-- MULH (04 Table 04-5). -/
def execMulh (p : Pfx) (d a : BitVec 4) (s : State) : Result := alu (.mulh p d a) 2 p d a resMulh s
/-- MULHU (04 Table 04-5). -/
def execMulhu (p : Pfx) (d a : BitVec 4) (s : State) : Result := alu (.mulhu p d a) 2 p d a resMulhu s
/-- MIN (04 Table 04-5). -/
def execMin (p : Pfx) (d a : BitVec 4) (s : State) : Result := alu (.min p d a) 1 p d a resMin s
/-- MAX (04 Table 04-5). -/
def execMax (p : Pfx) (d a : BitVec 4) (s : State) : Result := alu (.max p d a) 1 p d a resMax s
/-- MINU (04 Table 04-5). -/
def execMinu (p : Pfx) (d a : BitVec 4) (s : State) : Result := alu (.minu p d a) 1 p d a resMinu s
/-- MAXU (04 Table 04-5). -/
def execMaxu (p : Pfx) (d a : BitVec 4) (s : State) : Result := alu (.maxu p d a) 1 p d a resMaxu s
/-- MOV (04 Table 04-5). -/
def execMov (p : Pfx) (d a : BitVec 4) (s : State) : Result := alu1 (.mov p d a) p d a resMov s
/-- DIV (04 Table 04-6). -/
def execDiv (p : Pfx) (d a : BitVec 4) (s : State) : Result := alu (.div p d a) 8 p d a resDiv s
/-- DIVU (04 Table 04-6). -/
def execDivu (p : Pfx) (d a : BitVec 4) (s : State) : Result := alu (.divu p d a) 8 p d a resDivu s
/-- REM (04 Table 04-6). -/
def execRem (p : Pfx) (d a : BitVec 4) (s : State) : Result := alu (.rem p d a) 8 p d a resRem s
/-- REMU (04 Table 04-6). -/
def execRemu (p : Pfx) (d a : BitVec 4) (s : State) : Result := alu (.remu p d a) 8 p d a resRemu s
/-- CLZ (04 Table 04-6). -/
def execClz (p : Pfx) (d a : BitVec 4) (s : State) : Result := alu1 (.clz p d a) p d a resClz s
/-- CTZ (04 Table 04-6). -/
def execCtz (p : Pfx) (d a : BitVec 4) (s : State) : Result := alu1 (.ctz p d a) p d a resCtz s
/-- POPC (04 Table 04-6). -/
def execPopc (p : Pfx) (d a : BitVec 4) (s : State) : Result := alu1 (.popc p d a) p d a resPopc s
/-- SEXTB (04 Table 04-6). -/
def execSextb (p : Pfx) (d a : BitVec 4) (s : State) : Result := alu1 (.sextb p d a) p d a resSextb s
/-- SEXTH (04 Table 04-6). -/
def execSexth (p : Pfx) (d a : BitVec 4) (s : State) : Result := alu1 (.sexth p d a) p d a resSexth s
/-- SEXTW (04 Table 04-6). -/
def execSextw (p : Pfx) (d a : BitVec 4) (s : State) : Result := alu1 (.sextw p d a) p d a resSextw s
/-- ZEXTB (04 Table 04-6). -/
def execZextb (p : Pfx) (d a : BitVec 4) (s : State) : Result := alu1 (.zextb p d a) p d a resZextb s
/-- ZEXTH (04 Table 04-6). -/
def execZexth (p : Pfx) (d a : BitVec 4) (s : State) : Result := alu1 (.zexth p d a) p d a resZexth s
/-- ZEXTW (04 Table 04-6). -/
def execZextw (p : Pfx) (d a : BitVec 4) (s : State) : Result := alu1 (.zextw p d a) p d a resZextw s
/-- BSWAP (04 Table 04-6). -/
def execBswap (p : Pfx) (d a : BitVec 4) (s : State) : Result := alu1 (.bswap p d a) p d a resBswap s
/-- ADDW (04 Table 04-6). -/
def execAddw (p : Pfx) (d a : BitVec 4) (s : State) : Result := alu (.addw p d a) 1 p d a resAddw s
/-- SUBW (04 Table 04-6). -/
def execSubw (p : Pfx) (d a : BitVec 4) (s : State) : Result := alu (.subw p d a) 1 p d a resSubw s

/-- ADDI and LI (04 R100): PFX.R is ignored. -/
def execAddi (p : Pfx) (d : BitVec 4) (i : BitVec 8) (s : State) : Result :=
  issue (.addi p d i) { body := fun s => .ok (s.ws d.toNat (s.rs d.toNat + immWord (p.imm i))) } s
def execLi (p : Pfx) (d : BitVec 4) (i : BitVec 8) (s : State) : Result :=
  issue (.li p d i) { body := fun s => .ok (s.ws d.toNat (immWord (p.imm i))) } s

/-! ### Compares (04 R101) -/

/-- CMP: push the condition of its operands; without PFX.R they are d and a, with it a and e. -/
def execCmp (p : Pfx) (d a : BitVec 4) (c : BitVec 3) (s : State) : Result :=
  issue (.cmp p d a c) { gm := .push, body := fun s => pushRes s (condEntry (cmpCond c (opX p d a s) (opY p a s))) } s
/-- CMPI: s[a] against the signed immediate. -/
def execCmpi (p : Pfx) (a : BitVec 4) (c : BitVec 3) (i : BitVec 4) (s : State) : Result :=
  issue (.cmpi p a c i) { gm := .push, body := fun s => pushRes s (condEntry (cmpCond c (opA p a s) (immWord (p.imm i)))) } s

/-! ### System functions without memory (04 R93 to R96, R98) -/

def execNop (p : Pfx) (d a : BitVec 4) (s : State) : Result := issue (.nop p d a) { body := .ok } s
/-- A hint: charged 1, its guard not evaluated (03 R59). -/
def execHint (p : Pfx) (w : Half) (s : State) : Result := issue (.hint p w) { gm := .never, body := .ok } s
/-- YIELD: the cell passes over the context until YIELD_PASS_END, while another can issue (`State.passedOver`,
Machine/Schedule.lean). -/
def execYield (p : Pfx) (d a : BitVec 4) (s : State) : Result :=
  issue (.yield p d a) { body := fun s => .ok (s.setCtx { s.ctx with pass := true }) } s
/-- The 16 cycles of a YIELD have passed. -/
def execYieldPassEnd (s : State) : Result :=
  if s.ctx.live && s.ctx.pass then .next (s.setCtx { s.ctx with pass := false }) else .next s
/-- Every FENCE empties the context's fetch buffer (03 R73). -/
def State.emptyFetch (s : State) : State := s.setCtx { s.ctx with fbuf := none }
/-- FENCE: release, acquire, and in every order the fetch buffer is emptied. -/
def execFence (p : Pfx) (d a : BitVec 4) (s : State) : Result :=
  issue (.fence p d a) { body := fun s => withRelease p s fun s => .ok (withAcquire p s).emptyFetch } s
/-- TRAP and BRK: the trap is the instruction's effect, and its charge stands. -/
def execTrap (p : Pfx) (d a : BitVec 4) (s : State) : Result :=
  issue (.trap p d a) { body := fun s => .trapKeep s (mkErr 0x17 s.ctx.pc (opA p a s)) } s
def execBrk (p : Pfx) (n : BitVec 8) (s : State) : Result :=
  issue (.brk p n) { body := fun s => .trapKeep s (mkErr 0x12 s.ctx.pc (n.setWidth 64)) } s
def execRdcyc (p : Pfx) (d a : BitVec 4) (s : State) : Result :=
  issue (.rdcyc p d a) { body := fun s => .ok (s.ws (p.dn d) s.cycle) } s

/-- A word sequence that is no instruction: cause 0x01 or 0x02 before any charge (02 R43, 03 R48, R58). -/
def execIllegalInstruction (w : Illegal) (s : State) : Result :=
  if !s.canRun || interlocked (.illegalInstruction w) s.ctx then .next s
  else
    let i : Instr := .illegalInstruction w
    let cause := match w with | .word _ _ => 1 | .chain _ _ => 2
    .next (s.takeTrap (mkErr cause s.ctx.pc i.tinfo) i.ilen)

/-! ### Branches and jumps (04 R105, R106) -/

def execB (p : Pfx) (o : BitVec 8) (s : State) : Result := issue (.b p o) { body := fun s => .goto s (target p o s) } s
def execJ (p : Pfx) (o : BitVec 12) (s : State) : Result := issue (.j p o) { body := fun s => .goto s (target p o s) } s
/-- CALL: s14 gets the address of the next instruction. -/
def execCall (p : Pfx) (o : BitVec 8) (s : State) : Result :=
  issue (.call p o) { body := fun s => .goto (s.ws 14 (nextPc s (Instr.call p o).ilen)) (target p o s) } s

/-- BT and BF: structural and without PFX.X guard; the top entry is popped in every case. -/
def branchIf (i : Instr) (want : Bool) (p : Pfx) (o : BitVec 8) (s : State) : Result :=
  issue i { gm := .never, body := fun s =>
    if s.spillBusy then .hold else
    match s.pop with
    | none => .trap s.popErr
    | some (e, t) => if (t.ctx.andFrom t.ctx.pst).s && e.s == want then .goto t (target p o s) else .ok t } s
def execBt (p : Pfx) (o : BitVec 8) (s : State) : Result := branchIf (.bt p o) true p o s
def execBf (p : Pfx) (o : BitVec 8) (s : State) : Result := branchIf (.bf p o) false p o s

/-- A register target: an odd one traps with cause misaligned before any write (03 R57). -/
def jumpTo (t : Word) (s : State) : Res := if t.getLsbD 0 then .trap (mkErr 4 t 0#64) else .goto s t
def execJr (p : Pfx) (d a : BitVec 4) (s : State) : Result := issue (.jr p d a) { body := fun s => jumpTo (opA p a s) s } s
def execCallr (p : Pfx) (d a : BitVec 4) (s : State) : Result :=
  issue (.callr p d a) { body := fun s => jumpTo (opA p a s) (s.ws 14 (nextPc s (Instr.callr p d a).ilen)) } s
def execRet (p : Pfx) (d a : BitVec 4) (s : State) : Result := issue (.ret p d a) { body := fun s => jumpTo (s.rs 14) s } s

/-! ### Predicate functions (04 R107) -/

/-- A PRED function that needs `n` entries. -/
def predOp (i : Instr) (n : Nat) (f : State → Res) (s : State) : Result :=
  issue i { gm := .never, body := fun s => if s.ctx.pdepth < n then .trap (mkErr 0x0D s.ctx.pc 0#64) else f s } s

/-- The top entry. -/
def topEntry (s : State) : PEntry := s.ctx.pst.headD ⟨true, BitVec.allOnes 32⟩
/-- Pop two entries and push their combination; spill traffic waits for the context's own accesses (04 R91). -/
def combine (f : PEntry → PEntry → PEntry) (s : State) : Res :=
  if s.spillBusy then .hold else
  match s.pop with
  | none => .trap s.popErr
  | some (x, t) =>
    match t.pop with
    | none => .trap t.popErr
    | some (y, u) => pushRes u (f x y)

def execPend (p : Pfx) (d a : BitVec 4) (s : State) : Result :=
  predOp (.pend p d a) 1 (fun s => if s.spillBusy then .hold else match s.pop with | some (_, t) => .ok t | none => .trap s.popErr) s
def execPelse (p : Pfx) (d a : BitVec 4) (s : State) : Result :=
  predOp (.pelse p d a) 1 (fun s =>
    .ok (s.setCtx { s.ctx with pst := ⟨!(topEntry s).s, ~~~(topEntry s).mask⟩ :: s.ctx.pst.drop 1 })) s
def execPand (p : Pfx) (d a : BitVec 4) (s : State) : Result :=
  predOp (.pand p d a) 2 (combine fun x y => ⟨x.s && y.s, x.mask &&& y.mask⟩) s
def execPor (p : Pfx) (d a : BitVec 4) (s : State) : Result :=
  predOp (.por p d a) 2 (combine fun x y => ⟨x.s || y.s, x.mask ||| y.mask⟩) s
def execPdup (p : Pfx) (d a : BitVec 4) (s : State) : Result :=
  predOp (.pdup p d a) 1 (fun s => pushRes s (topEntry s)) s
def execPset (p : Pfx) (d a : BitVec 4) (s : State) : Result :=
  predOp (.pset p d a) 0 (fun s => pushRes s (condEntry (opA p a s != 0#64))) s
def execPget (p : Pfx) (d a : BitVec 4) (s : State) : Result :=
  predOp (.pget p d a) 1 (fun s => .ok (s.ws (p.dn d) (bit 64 (topEntry s).s))) s
def execPcnt (p : Pfx) (d a : BitVec 4) (s : State) : Result :=
  predOp (.pcnt p d a) 0 (fun s => .ok (s.ws (p.dn d) (BitVec.ofNat 64 s.ctx.pdepth))) s

end Sys2Proof.Machine
end

