-- ==== Sys2Proof/Machine/Dispatch.lean ====
section
/-! DEFINITION. Sys2Proof/Machine/Dispatch.lean: one arm per constructor of Instr, each a direct call of its meaning. -/

namespace Sys2Proof.Machine

/-- The meaning of every instruction and machine step. -/
def exec (i : Instr) (s : State) : Host.Outcome State Fault Refusal :=
  match i with
  | .nop p d a => Sys2Proof.Machine.execNop p d a s
  | .fence p d a => Sys2Proof.Machine.execFence p d a s
  | .yield p d a => Sys2Proof.Machine.execYield p d a s
  | .exit p d a => Sys2Proof.Machine.execExit p d a s
  | .trap p d a => Sys2Proof.Machine.execTrap p d a s
  | .brk p n => Sys2Proof.Machine.execBrk p n s
  | .mfs p d a => Sys2Proof.Machine.execMfs p d a s
  | .mts p d a => Sys2Proof.Machine.execMts p d a s
  | .rdcyc p d a => Sys2Proof.Machine.execRdcyc p d a s
  | .add p d a => Sys2Proof.Machine.execAdd p d a s
  | .sub p d a => Sys2Proof.Machine.execSub p d a s
  | .and p d a => Sys2Proof.Machine.execAnd p d a s
  | .or p d a => Sys2Proof.Machine.execOr p d a s
  | .xor p d a => Sys2Proof.Machine.execXor p d a s
  | .sll p d a => Sys2Proof.Machine.execSll p d a s
  | .srl p d a => Sys2Proof.Machine.execSrl p d a s
  | .sra p d a => Sys2Proof.Machine.execSra p d a s
  | .mul p d a => Sys2Proof.Machine.execMul p d a s
  | .mulh p d a => Sys2Proof.Machine.execMulh p d a s
  | .mulhu p d a => Sys2Proof.Machine.execMulhu p d a s
  | .min p d a => Sys2Proof.Machine.execMin p d a s
  | .max p d a => Sys2Proof.Machine.execMax p d a s
  | .minu p d a => Sys2Proof.Machine.execMinu p d a s
  | .maxu p d a => Sys2Proof.Machine.execMaxu p d a s
  | .mov p d a => Sys2Proof.Machine.execMov p d a s
  | .div p d a => Sys2Proof.Machine.execDiv p d a s
  | .divu p d a => Sys2Proof.Machine.execDivu p d a s
  | .rem p d a => Sys2Proof.Machine.execRem p d a s
  | .remu p d a => Sys2Proof.Machine.execRemu p d a s
  | .clz p d a => Sys2Proof.Machine.execClz p d a s
  | .ctz p d a => Sys2Proof.Machine.execCtz p d a s
  | .popc p d a => Sys2Proof.Machine.execPopc p d a s
  | .sextb p d a => Sys2Proof.Machine.execSextb p d a s
  | .sexth p d a => Sys2Proof.Machine.execSexth p d a s
  | .sextw p d a => Sys2Proof.Machine.execSextw p d a s
  | .zextb p d a => Sys2Proof.Machine.execZextb p d a s
  | .zexth p d a => Sys2Proof.Machine.execZexth p d a s
  | .zextw p d a => Sys2Proof.Machine.execZextw p d a s
  | .bswap p d a => Sys2Proof.Machine.execBswap p d a s
  | .addw p d a => Sys2Proof.Machine.execAddw p d a s
  | .subw p d a => Sys2Proof.Machine.execSubw p d a s
  | .addi p d n => Sys2Proof.Machine.execAddi p d n s
  | .li p d n => Sys2Proof.Machine.execLi p d n s
  | .cmp p d a c => Sys2Proof.Machine.execCmp p d a c s
  | .cmpi p a c n => Sys2Proof.Machine.execCmpi p a c n s
  | .ld p d a n => Sys2Proof.Machine.execLd p d a n s
  | .st p d a n => Sys2Proof.Machine.execSt p d a n s
  | .lb p d a => Sys2Proof.Machine.execLb p d a s
  | .lbu p d a => Sys2Proof.Machine.execLbu p d a s
  | .lh p d a => Sys2Proof.Machine.execLh p d a s
  | .lhu p d a => Sys2Proof.Machine.execLhu p d a s
  | .lw p d a => Sys2Proof.Machine.execLw p d a s
  | .lwu p d a => Sys2Proof.Machine.execLwu p d a s
  | .sb p d a => Sys2Proof.Machine.execSb p d a s
  | .sh p d a => Sys2Proof.Machine.execSh p d a s
  | .sw p d a => Sys2Proof.Machine.execSw p d a s
  | .b p o => Sys2Proof.Machine.execB p o s
  | .bt p o => Sys2Proof.Machine.execBt p o s
  | .bf p o => Sys2Proof.Machine.execBf p o s
  | .call p o => Sys2Proof.Machine.execCall p o s
  | .j p o => Sys2Proof.Machine.execJ p o s
  | .pend p d a => Sys2Proof.Machine.execPend p d a s
  | .pelse p d a => Sys2Proof.Machine.execPelse p d a s
  | .pand p d a => Sys2Proof.Machine.execPand p d a s
  | .por p d a => Sys2Proof.Machine.execPor p d a s
  | .pdup p d a => Sys2Proof.Machine.execPdup p d a s
  | .pset p d a => Sys2Proof.Machine.execPset p d a s
  | .pget p d a => Sys2Proof.Machine.execPget p d a s
  | .pcnt p d a => Sys2Proof.Machine.execPcnt p d a s
  | .jr p d a => Sys2Proof.Machine.execJr p d a s
  | .callr p d a => Sys2Proof.Machine.execCallr p d a s
  | .ret p d a => Sys2Proof.Machine.execRet p d a s
  | .hint p w => Sys2Proof.Machine.execHint p w s
  | .vadd p d a => Sys2Proof.Machine.execVadd p d a s
  | .vsub p d a => Sys2Proof.Machine.execVsub p d a s
  | .vmul p d a => Sys2Proof.Machine.execVmul p d a s
  | .vfma p d a => Sys2Proof.Machine.execVfma p d a s
  | .vmin p d a => Sys2Proof.Machine.execVmin p d a s
  | .vmax p d a => Sys2Proof.Machine.execVmax p d a s
  | .vabs p d a => Sys2Proof.Machine.execVabs p d a s
  | .vneg p d a => Sys2Proof.Machine.execVneg p d a s
  | .vand p d a => Sys2Proof.Machine.execVand p d a s
  | .vor p d a => Sys2Proof.Machine.execVor p d a s
  | .vxor p d a => Sys2Proof.Machine.execVxor p d a s
  | .vnot p d a => Sys2Proof.Machine.execVnot p d a s
  | .vshl p d a => Sys2Proof.Machine.execVshl p d a s
  | .vshr p d a => Sys2Proof.Machine.execVshr p d a s
  | .vsra p d a => Sys2Proof.Machine.execVsra p d a s
  | .vsel p d a => Sys2Proof.Machine.execVsel p d a s
  | .vcmp p d a c => Sys2Proof.Machine.execVcmp p d a c s
  | .vld p d a => Sys2Proof.Machine.execVld p d a s
  | .vst p d a => Sys2Proof.Machine.execVst p d a s
  | .vlds p d a => Sys2Proof.Machine.execVlds p d a s
  | .vsts p d a => Sys2Proof.Machine.execVsts p d a s
  | .vgath p d a => Sys2Proof.Machine.execVgath p d a s
  | .vscat p d a => Sys2Proof.Machine.execVscat p d a s
  | .vbcast p d a => Sys2Proof.Machine.execVbcast p d a s
  | .vext p d a => Sys2Proof.Machine.execVext p d a s
  | .vins p d a => Sys2Proof.Machine.execVins p d a s
  | .vperm p d a => Sys2Proof.Machine.execVperm p d a s
  | .vredadd p d a => Sys2Proof.Machine.execVredadd p d a s
  | .vredmin p d a => Sys2Proof.Machine.execVredmin p d a s
  | .vredmax p d a => Sys2Proof.Machine.execVredmax p d a s
  | .viota p d a => Sys2Proof.Machine.execViota p d a s
  | .vbind p d a => Sys2Proof.Machine.execVbind p d a s
  | .vunbind p d a => Sys2Proof.Machine.execVunbind p d a s
  | .vstat p d a => Sys2Proof.Machine.execVstat p d a s
  | .vcvt p d a g => Sys2Proof.Machine.execVcvt p d a g s
  | .mmaRing p d a => Sys2Proof.Machine.execMmaRing p d a s
  | .mmaHold p d a => Sys2Proof.Machine.execMmaHold p d a s
  | .mmv p d a => Sys2Proof.Machine.execMmv p d a s
  | .mldb p d a => Sys2Proof.Machine.execMldb p d a s
  | .mpass p d a => Sys2Proof.Machine.execMpass p d a s
  | .mzero p d a => Sys2Proof.Machine.execMzero p d a s
  | .mst p d a => Sys2Proof.Machine.execMst p d a s
  | .mld p d a => Sys2Proof.Machine.execMld p d a s
  | .mrow p d a => Sys2Proof.Machine.execMrow p d a s
  | .mwait p d a => Sys2Proof.Machine.execMwait p d a s
  | .mbankSel p d a => Sys2Proof.Machine.execMbankSel p d a s
  | .mbankSpill p d a => Sys2Proof.Machine.execMbankSpill p d a s
  | .mbankFill p d a => Sys2Proof.Machine.execMbankFill p d a s
  | .gint p d a => Sys2Proof.Machine.execGint p d a s
  | .guni p d a => Sys2Proof.Machine.execGuni p d a s
  | .gsub p d a => Sys2Proof.Machine.execGsub p d a s
  | .gset p d a => Sys2Proof.Machine.execGset p d a s
  | .gempty p d a => Sys2Proof.Machine.execGempty p d a s
  | .gbox p d a => Sys2Proof.Machine.execGbox p d a s
  | .glat p d a => Sys2Proof.Machine.execGlat p d a s
  | .grag p d a => Sys2Proof.Machine.execGrag p d a s
  | .gdil p d a => Sys2Proof.Machine.execGdil p d a s
  | .gshift p d a => Sys2Proof.Machine.execGshift p d a s
  | .gproj p d a => Sys2Proof.Machine.execGproj p d a s
  | .gsplit p d a => Sys2Proof.Machine.execGsplit p d a s
  | .gcanon p d a => Sys2Proof.Machine.execGcanon p d a s
  | .gld p d a => Sys2Proof.Machine.execGld p d a s
  | .gst p d a => Sys2Proof.Machine.execGst p d a s
  | .gcnt p d a => Sys2Proof.Machine.execGcnt p d a s
  | .gvol p d a => Sys2Proof.Machine.execGvol p d a s
  | .grdbox p d a => Sys2Proof.Machine.execGrdbox p d a s
  | .gtest p d a => Sys2Proof.Machine.execGtest p d a s
  | .geq p d a => Sys2Proof.Machine.execGeq p d a s
  | .aadd p d a => Sys2Proof.Machine.execAadd p d a s
  | .aand p d a => Sys2Proof.Machine.execAand p d a s
  | .aor p d a => Sys2Proof.Machine.execAor p d a s
  | .axor p d a => Sys2Proof.Machine.execAxor p d a s
  | .amin p d a => Sys2Proof.Machine.execAmin p d a s
  | .amax p d a => Sys2Proof.Machine.execAmax p d a s
  | .aminu p d a => Sys2Proof.Machine.execAminu p d a s
  | .amaxu p d a => Sys2Proof.Machine.execAmaxu p d a s
  | .aswap p d a => Sys2Proof.Machine.execAswap p d a s
  | .acas p d a => Sys2Proof.Machine.execAcas p d a s
  | .afadd p d a => Sys2Proof.Machine.execAfadd p d a s
  | .afaddcp p d a => Sys2Proof.Machine.execAfaddcp p d a s
  | .lds p d a => Sys2Proof.Machine.execLds p d a s
  | .sts p d a => Sys2Proof.Machine.execSts p d a s
  | .trn p d a => Sys2Proof.Machine.execTrn p d a s
  | .stq p d a => Sys2Proof.Machine.execStq p d a s
  | .autld p d a => Sys2Proof.Machine.execAutld p d a s
  | .prefLine p a => Sys2Proof.Machine.execPrefLine p a s
  | .prefRegion p a => Sys2Proof.Machine.execPrefRegion p a s
  | .invl1All p a => Sys2Proof.Machine.execInvl1All p a s
  | .invl1Line p a => Sys2Proof.Machine.execInvl1Line p a s
  | .send p d a => Sys2Proof.Machine.execSend p d a s
  | .ctradd p d a => Sys2Proof.Machine.execCtradd p d a s
  | .ctrrd p d a => Sys2Proof.Machine.execCtrrd p d a s
  | .cwait p d a => Sys2Proof.Machine.execCwait p d a s
  | .wtarm p d a => Sys2Proof.Machine.execWtarm p d a s
  | .wtdis p d a => Sys2Proof.Machine.execWtdis p d a s
  | .spawn p d a => Sys2Proof.Machine.execSpawn p d a s
  | .start p d a => Sys2Proof.Machine.execStart p d a s
  | .hjoin p d a => Sys2Proof.Machine.execHjoin p d a s
  | .susp p d a => Sys2Proof.Machine.execSusp p d a s
  | .dqpush p d a => Sys2Proof.Machine.execDqpush p d a s
  | .dqpop p d a => Sys2Proof.Machine.execDqpop p d a s
  | .dqsteal p d a => Sys2Proof.Machine.execDqsteal p d a s
  | .bsetcRel p a => Sys2Proof.Machine.execBsetcRel p a s
  | .bsetcReg p a => Sys2Proof.Machine.execBsetcReg p a s
  | .bgrant p d a => Sys2Proof.Machine.execBgrant p d a s
  | .byield p d a => Sys2Proof.Machine.execByield p d a s
  | .btop p d a => Sys2Proof.Machine.execBtop p d a s
  | .arrive p d a => Sys2Proof.Machine.execArrive p d a s
  | .bwait p d a => Sys2Proof.Machine.execBwait p d a s
  | .bstat p d a => Sys2Proof.Machine.execBstat p d a s
  | .copy p d a => Sys2Proof.Machine.execCopy p d a s
  | .ewait p d a => Sys2Proof.Machine.execEwait p d a s
  | .etest p d a => Sys2Proof.Machine.execEtest p d a s
  | .gpool p d a => Sys2Proof.Machine.execGpool p d a s
  | .xred p d a => Sys2Proof.Machine.execXred p d a s
  | .xbcast p d a => Sys2Proof.Machine.execXbcast p d a s
  | .xgath p d a => Sys2Proof.Machine.execXgath p d a s
  | .chunkrd p d a => Sys2Proof.Machine.execChunkrd p d a s
  | .collectiveRequest r => Sys2Proof.Machine.execCollectiveRequest r s
  | .hpoffer p d a => Sys2Proof.Machine.execHpoffer p d a s
  | .hpread p d a => Sys2Proof.Machine.execHpread p d a s
  | .rcinc p d a => Sys2Proof.Machine.execRcinc p d a s
  | .rcsnap p d a => Sys2Proof.Machine.execRcsnap p d a s
  | .sysc p n => Sys2Proof.Machine.execSysc p n s
  | .tret p d a => Sys2Proof.Machine.execTret p d a s
  | .ctxsvCtx p a => Sys2Proof.Machine.execCtxsvCtx p a s
  | .ctxsvCell p a => Sys2Proof.Machine.execCtxsvCell p a s
  | .ctxsvTile p a => Sys2Proof.Machine.execCtxsvTile p a s
  | .ctxldCtx p a => Sys2Proof.Machine.execCtxldCtx p a s
  | .ctxldCell p a => Sys2Proof.Machine.execCtxldCell p a s
  | .ctxldTile p a => Sys2Proof.Machine.execCtxldTile p a s
  | .ctxldReg p a => Sys2Proof.Machine.execCtxldReg p a s
  | .chordConfigWrite level node chan w => Sys2Proof.Machine.execChordConfigWrite level node chan w s
  | .pmreqCtx p a => Sys2Proof.Machine.execPmreqCtx p a s
  | .pmreqStop p a => Sys2Proof.Machine.execPmreqStop p a s
  | .pmreqGo p a => Sys2Proof.Machine.execPmreqGo p a s
  | .pmreqFrame p a => Sys2Proof.Machine.execPmreqFrame p a s
  | .gangstopStop p a => Sys2Proof.Machine.execGangstopStop p a s
  | .gangstopRestart p a => Sys2Proof.Machine.execGangstopRestart p a s
  | .tlbinv p d a => Sys2Proof.Machine.execTlbinv p d a s
  | .regrd p d a => Sys2Proof.Machine.execRegrd p d a s
  | .wdset p d a => Sys2Proof.Machine.execWdset p d a s
  | .answerRetry span id => Sys2Proof.Machine.execAnswerRetry span id s
  | .answerRefuse span id => Sys2Proof.Machine.execAnswerRefuse span id s
  | .answerLongService span id => Sys2Proof.Machine.execAnswerLongService span id s
  | .fadd p d a => Sys2Proof.Machine.execFadd p d a s
  | .fsub p d a => Sys2Proof.Machine.execFsub p d a s
  | .fmul p d a => Sys2Proof.Machine.execFmul p d a s
  | .fdiv p d a => Sys2Proof.Machine.execFdiv p d a s
  | .fsqrt p d a => Sys2Proof.Machine.execFsqrt p d a s
  | .fma p d a => Sys2Proof.Machine.execFma p d a s
  | .fmin p d a => Sys2Proof.Machine.execFmin p d a s
  | .fmax p d a => Sys2Proof.Machine.execFmax p d a s
  | .fabs p d a => Sys2Proof.Machine.execFabs p d a s
  | .fneg p d a => Sys2Proof.Machine.execFneg p d a s
  | .fcmp p d a c => Sys2Proof.Machine.execFcmp p d a c s
  | .fcvt p d a g => Sys2Proof.Machine.execFcvt p d a g s
  | .fclass p d a => Sys2Proof.Machine.execFclass p d a s
  | .fqnt p d a => Sys2Proof.Machine.execFqnt p d a s
  | .wptrWrite q v => Sys2Proof.Machine.execWptrWrite q v s
  | .qsizeWrite q v => Sys2Proof.Machine.execQsizeWrite q v s
  | .hostRegisterWrite off v => Sys2Proof.Machine.execHostRegisterWrite off v s
  | .mdataWrite v => Sys2Proof.Machine.execMdataWrite v s
  | .anonceWrite nonce => Sys2Proof.Machine.execAnonceWrite nonce s
  | .linkCrcResend link again lost => Sys2Proof.Machine.execLinkCrcResend link again lost s
  | .illegalInstruction w => Sys2Proof.Machine.execIllegalInstruction w s
  | .moduleBecomesReachable m => Sys2Proof.Machine.execModuleBecomesReachable m s
  | .powerLoss writing => Sys2Proof.Machine.execPowerLoss writing s
  | .hostMemoryAccess a => Sys2Proof.Machine.execHostMemoryAccess a s
  | .poolBackInvalidate line bytes => Sys2Proof.Machine.execPoolBackInvalidate line bytes s
  | .remoteRequestArrival r => Sys2Proof.Machine.execRemoteRequestArrival r s
  | .yieldPassEnd => Sys2Proof.Machine.execYieldPassEnd s
  | .loadComplete => Sys2Proof.Machine.execLoadComplete s
  | .budgetYield => Sys2Proof.Machine.execBudgetYield s
  | .vectorComplete => Sys2Proof.Machine.execVectorComplete s
  | .arbiterWindow => Sys2Proof.Machine.execArbiterWindow s
  | .streamUnitFetch => Sys2Proof.Machine.execStreamUnitFetch s
  | .streamUnitWrite => Sys2Proof.Machine.execStreamUnitWrite s
  | .matrixStepRetire => Sys2Proof.Machine.execMatrixStepRetire s
  | .handoffLand => Sys2Proof.Machine.execHandoffLand s
  | .parkedStepRetry => Sys2Proof.Machine.execParkedStepRetry s
  | .longParkConversion => Sys2Proof.Machine.execLongParkConversion s
  | .tlbMissWalk => Sys2Proof.Machine.execTlbMissWalk s
  | .messageDelivery => Sys2Proof.Machine.execMessageDelivery s
  | .joinIncrement => Sys2Proof.Machine.execJoinIncrement s
  | .spawnEnqueue => Sys2Proof.Machine.execSpawnEnqueue s
  | .firedPendingEnqueue => Sys2Proof.Machine.execFiredPendingEnqueue s
  | .dispatch => Sys2Proof.Machine.execDispatch s
  | .engineChunkPerformed => Sys2Proof.Machine.execEngineChunkPerformed s
  | .engineCompletion => Sys2Proof.Machine.execEngineCompletion s
  | .switchInRestore => Sys2Proof.Machine.execSwitchInRestore s
  | .moduleReset => Sys2Proof.Machine.execModuleReset s
  | .recoveryGo => Sys2Proof.Machine.execRecoveryGo s
  | .cmdNoop => Sys2Proof.Machine.execCmdNoop s
  | .cmdLaunch => Sys2Proof.Machine.execCmdLaunch s
  | .launchEnd => Sys2Proof.Machine.execLaunchEnd s
  | .cmdSignal => Sys2Proof.Machine.execCmdSignal s
  | .cmdWait => Sys2Proof.Machine.execCmdWait s
  | .attestationReportReady => Sys2Proof.Machine.execAttestationReportReady s
  | .pstateFull => Sys2Proof.Machine.execPstateFull s
  | .pstatePartitionOff => Sys2Proof.Machine.execPstatePartitionOff s
  | .pstateIdle => Sys2Proof.Machine.execPstateIdle s
  | .arbiterGrant => Sys2Proof.Machine.execArbiterGrant s
  | .storePerformed => Sys2Proof.Machine.execStorePerformed s
  | .stopUnitReached => Sys2Proof.Machine.execStopUnitReached s

end Sys2Proof.Machine
end

