-- ==== Sys2Proof/Machine/Schedule.lean ====
section
/-! DEFINITION. Sys2Proof/Machine/Schedule.lean: which turn a step takes, and what a turn does (log entry 6). -/

namespace Sys2Proof.Machine

/-- One main-clock cycle at least passes (01 R16); how many more is free (log entry 5). -/
def State.clock (s : State) : State :=
  { s with cycle := s.cycle + BitVec.ofNat 64 (1 + Config.extraCycles s.tick), tick := s.tick + 1 }

/-- A step of the machine rather than an instruction of a context. -/
def isEvent : Instr → Bool
  | .illegalInstruction _ => false
  | i => !i.isWord

/-- The steps that a cell or its tile takes: they need a clock (15 R372). -/
def ofCell : Instr → Bool
  | .yieldPassEnd | .loadComplete | .budgetYield | .vectorComplete | .arbiterWindow | .streamUnitFetch | .streamUnitWrite
  | .matrixStepRetire | .handoffLand | .parkedStepRetry | .longParkConversion | .tlbMissWalk | .messageDelivery | .joinIncrement
  | .spawnEnqueue | .firedPendingEnqueue | .dispatch | .engineChunkPerformed | .engineCompletion | .switchInRestore
  | .arbiterGrant | .storePerformed | .stopUnitReached | .collectiveRequest (.here _ _) => true
  | _ => false

/-- The cell and slot exist, and the tile has a clock. -/
def State.selOk (s : State) (k : Sel) : Bool :=
  decide (k.cell.toNat < numCells) && decide (k.slot.toNat ≤ 10) && s.clocked (k.cell.toNat / 16)

/-- The instruction that the acting context executes: the one that it has issued and that waits, else the one at its pc. -/
def State.current (s : State) : Fetched :=
  match s.ctx.wait.issued, s.ctx.cur with
  | true, some i => .instr i s
  | _, _ => s.fetch

/-- The acting context fetches, decodes and executes (02 R43). -/
def issueNow (s : State) : Host.Outcome State Fault Refusal :=
  if s.canRun then
    match s.current with
    | .instr i s => exec i s
    | .miss va s => .next (s.fetchMiss va)
    | .err e s => .next (s.takeTrap e 0)
  else .next s

/-- What a step leaves differs from the state before it in more than the selection. -/
def differs (s : State) : Host.Outcome State Fault Refusal → Bool
  | .next t => { t with sel := s.sel } != s
  | _ => true

/-- An instruction that may leave its context as it was although it has issued: a jump to itself that nothing is charged for. -/
def loops : Instr → Bool
  | .b _ _ | .j _ _ | .jr _ _ _ | .ret _ _ _ => true
  | _ => false

/-- The context of a slot can issue: its turn changes something, or what it has to do is a jump to itself. -/
def State.canIssue (s : State) : Bool :=
  differs s (issueNow s) ||
  (s.canRun && match s.current with | .instr i _ => loops i && !interlocked i s.ctx | _ => false)

/-- The acting context has yielded, and another context of its cell, which has not, can issue (04 R93). -/
def State.passedOver (s : State) : Bool :=
  s.ctx.pass && (List.range 11).any fun n =>
    let t : State := { s with sel := ⟨s.sel.cell, BitVec.ofNat 4 n, 0⟩ }
    n != s.sid && t.ctx.live && !t.ctx.pass && t.canIssue

/-- What a cell notes of an instruction `i` that a turn has taken from `s` to `t`: the slot, when the instruction has issued, not
stalled (04 R79), and the instruction itself, when it now waits (also for an access that has missed: its words are then known, 14 R338). -/
def State.noted (t s : State) (i : Instr) : State :=
  let x := t.cell s.cid
  let y := x.slot s.sid
  let x := if y.wait.keeps then x.setSlot s.sid { y with cur := some i } else x
  let x := if y != s.ctx || (loops i && !interlocked i s.ctx) then { x with last := s.sel.slot } else x
  t.setCell s.cid x

/-- A context's turn. -/
def issueTurn (s : State) : Host.Outcome State Fault Refusal :=
  if s.passedOver then .next s
  else match s.canRun, s.current with
    | true, .instr i u =>
      match exec i u with
      | .next t => .next (t.noted u i)
      | o => o
    | _, _ => issueNow s

/-- The access of a context that is away and whose page has been answered completes (14 R347): its instruction runs on the image's
context, its accesses are performed, and the image receives the outcome; the restore is then due. A further page that it misses
is walked for, and parked for when it is absent. The slot keeps what it holds, its pending stores among it. -/
def State.awayTurn (s : State) : State :=
  match s.away.find? (fun w => w.ready && !w.due && w.cell == s.cid && w.slot == s.sid) with
  | none => s
  | some w =>
    match s.saveLines s.tid w.frame .write with
    | none => s
    | some keys =>
      let s := s.meetImage s.tid w.frame keys
      let put (v : Away) (t : State) : State := { t with away := t.away.map fun x => if x = w then v else x }
      match issueNow (s.setCtx { w.ctx s.ctx (s.getImage keys) with wait := .answered, pend := [] }) with
      | .next t =>
        match t.ctx.wait with
        | .walk va kind =>
          let w0 := s.walk s.asid va.toNat
          let s := s.meetWalk s.tid s.asid va.toNat
          match w0 with
          | .leaf pte => s.fillTlb s.cid (mkTlb s.asid va.toNat pte)
          | .absent =>
            let (id, t) := s.parkFault s.tid va (whoWord s.cid s.sid s.asid kind.code)
            put { w with id := id, va := va, kind := kind, ready := false } t
          | .malformed | .refused _ => s
        | .none =>
          let t := performFirst t.ctx.pend.length t
          { put { w with due := true } ((t.putImage s.tid keys t.ctx).setCtx s.ctx) with sel := s.sel }
        | _ => s
      | _ => s

/-- A load that is issued and not complete reads the line: it has been checked already. -/
def State.lineInUse (s : State) (n : Nat) : Bool :=
  s.cells.any fun (_, x) => x.slots.toList.any fun c => c.pend.any (·.touches (64 * n) 64)

/-- What reaches the module from outside: firmware has set the base of the address-space table, in local HBM (10 R245); an error
strikes an array (10 R244, 14 R360), or the kernel gives a space its fabric tag,
and what was logged under the tag becomes the space's, and is applied where the space is resident (12 R291). A correctable error of
a register, a TLB, a granule state, a park queue, a counter or a waiting-task entry is met, corrected and logged at once; one of a line,
a region register, a protection table or an accumulator when a step that reads it does, or when the schedule says that an access
of a tile has found it. An uncorrectable one of a register, a TLB, a park queue, a counter or a waiting-task entry does not arise (the
spec states no effect for it; log entry 30). Places outside the module are none. -/
def State.strike (s : State) (x : Stroke) : State :=
  match x with
  | .fabricTag asid tag =>
    if s.ftags.any fun e => e.2 == tag then s
    else
      let s : State := { s with ftags := mset s.ftags asid.toNat tag }
      let k := 65536 + tag.toNat
      let l := s.logOf k
      let s : State := { s with
        mlogs := if l.isEmpty then s.mlogs else mset (mdel s.mlogs k) asid.toNat (s.logOf asid.toNat ++ l)
        tiles := s.tiles.map fun (t, x) => (t, { x with ingress := x.ingress.map fun i => if i.1 = k then (asid.toNat, i.2) else i }) }
      (dedup (l.map (·.2.tile) ++ s.tiles.map (·.1))).foldl (fun s t => if s.asidOf t = asid then s.enterSpace t asid else s) s
  | .asTable base => if base.toNat + 8 * 4096 ≤ 2 ^ 40 then { s with asBase := base } else s
  | .found t a =>
    match a with
    | .line _ | .region _ | .prot _ | .acc _ => if t.toNat < numTiles then s.meetFlaw t.toNat a else s
    | _ => s
  | .upset a .uncorrectable =>
    match a with
    | .granule n =>
      if n < 1024 * numTiles then
        let x := s.tile (n / 1024)
        s.setTile (n / 1024) { x with granBad := x.granBad ||| (1#1024 <<< (n % 1024)) }
      else s
    | .line n => if s.lineInUse n || s.poison.contains n then s else { s with poison := n :: s.poison }
    | .region n =>
      if n < 16 * numCells then
        let x := s.cell (n / 16)
        s.setCell (n / 16) { x with gbad := x.gbad ||| (1#16 <<< (n % 16)) }
      else s
    | .prot t => if t < numTiles then s.setTile t { s.tile t with pbad := true } else s
    | .acc n =>
      if n < 8 * numCells then
        let x := s.cell (n / 8)
        let b := n / 4 % 2 == 1
        s.setCell (n / 8) (x.setBank b { x.bank b with bad := (x.bank b).bad ||| (1#4 <<< (n % 4)) })
      else s
    | _ => s
  | .upset a k =>
    match a with
    | .line _ | .region _ | .prot _ | .acc _ => if s.flaws.any (·.1 == a) then s else { s with flaws := (a, k == .lasting) :: s.flaws }
    | _ => if a.tile < numTiles then s.reportError a.tile a.code.1 a.code.2 (k == .lasting) else s

/-- One turn: what the schedule chose. A step of the machine that is not due changes nothing. -/
def turn (t : Turn) (s : State) : Host.Outcome State Fault Refusal :=
  match t with
  | .issue c n => issueTurn { s with sel := ⟨c, n, 0⟩ }
  | .event i k => if isEvent i && (!ofCell i || s.selOk k) then exec i { s with sel := k } else .next s
  | .service c n => if s.selOk ⟨c, n, 0⟩ then .next (State.service { s with sel := ⟨c, n, 0⟩ }) else .next s
  | .away c n => if s.selOk ⟨c, n, 0⟩ then .next (State.awayTurn { s with sel := ⟨c, n, 0⟩ }) else .next s
  | .stroke x => .next (s.strike x)

/-! ### The turn that a machine takes when none is placed -/

/-- Turns that are worth trying only under a condition. -/
def when (b : Bool) (ts : List Turn) : List Turn := if b then ts else []

/-- The steps of one slot, of one cell, of one tile and of the whole module that may be due. -/
def slotTurns (c : Nat) (x : Cell) (n : Nat) : List Turn :=
  let k : Sel := ⟨BitVec.ofNat 16 c, BitVec.ofNat 4 n, 0⟩
  let y := x.slot n
  when (!y.pend.isEmpty) [.event .storePerformed k, .event .loadComplete k]
    ++ (match y.wait with
      | .walk _ _ => [.event .tlbMissWalk k]
      | .leaving _ => [.event .budgetYield k]
      | _ => [])
    ++ when y.pass [.event .yieldPassEnd k]
    ++ when (y.live && tact y) [.service k.cell k.slot]
def cellTurns (c : Nat) (x : Cell) : List Turn :=
  let at_ (n : Nat) : Sel := ⟨BitVec.ofNat 16 c, 0#4, n⟩
  (List.range 11).flatMap (slotTurns c x)
    ++ when (!x.vrun.isEmpty) [.event .vectorComplete (at_ 0)]
    ++ when (x.strm.toList.any Option.isSome)
      ((List.range 4).flatMap fun i => [.event .streamUnitWrite (at_ i), .event .streamUnitFetch (at_ i)])
    ++ when x.mrun.isSome [.event .matrixStepRetire (at_ 0)]
    ++ when (x.latch.pending || !x.latch.flight.isEmpty) [.event .handoffLand (at_ 0)]
    ++ when (!x.vq.isEmpty) [.event .arbiterGrant (at_ 0), .event .arbiterWindow (at_ 0)]
    ++ (List.range x.sendq.length).flatMap (fun i =>
      [.event .messageDelivery (at_ i), .event .joinIncrement (at_ i), .event .spawnEnqueue (at_ i)])
    ++ when (x.tags.toList.any (·.busy)) ((List.range 8).flatMap fun i =>
      [.event (.collectiveRequest (.here (BitVec.ofNat 16 c) (BitVec.ofNat 3 i))) (at_ i), .event .engineChunkPerformed (at_ i),
        .event .engineCompletion (at_ i), .event .stopUnitReached (at_ i)])
def tileTurns (t : Nat) (x : Tile) : List Turn :=
  let k : Sel := ⟨BitVec.ofNat 16 (16 * t), 0#4, 0⟩
  when (x.run == .stopping) [.event .stopUnitReached ⟨k.cell, 0#4, 8⟩]
    ++ when x.ingress.isSome [.event .messageDelivery ⟨k.cell, 0#4, 65536⟩]
    ++ when (!x.nonePending) [.event .firedPendingEnqueue k]
    ++ when (!x.rq.isEmpty) [.event .dispatch k]
def moduleTurns (s : State) : List Turn :=
  let at_ (n : Nat) : Sel := ⟨bootCell, 0#4, n⟩
  (s.away.filter (·.due)).map (fun w => .event .switchInRestore ⟨BitVec.ofNat 16 w.cell, BitVec.ofNat 4 w.slot, 0⟩)
    ++ (s.away.filter (·.ready)).map (fun w => .away (BitVec.ofNat 16 w.cell) (BitVec.ofNat 4 w.slot))
    ++ (List.range s.parked.length).map (fun i => .event .parkedStepRetry (at_ i))
    ++ (List.range 8).flatMap (fun q =>
      when (!(s.queue q).runs.isEmpty) [.event .launchEnd (at_ q)]
        ++ when (s.hasEntry q) [.event .cmdNoop (at_ q), .event .cmdLaunch (at_ q), .event .cmdSignal (at_ q), .event .cmdWait (at_ q)])
    ++ when s.host.signing.isSome [.event .attestationReportReady (at_ 0)]

/-- The slots of a cell in round-robin order from the one after the slot that issued last (04 R79). -/
def Cell.slotOrder (x : Cell) : List Nat := (List.range 11).map fun i => (x.last.toNat + 1 + i) % 11
/-- The live contexts of the cells after the selected one, round to it again, each cell's in its round-robin order. -/
def issueTurns (s : State) : List Turn :=
  let of (p : Nat × Cell) : List Turn :=
    ((p.2.slotOrder).filter fun n => (p.2.slot n).live).map fun n => .issue (BitVec.ofNat 16 p.1) (BitVec.ofNat 4 n)
  (s.cells.filter fun p => decide (s.cid < p.1)).flatMap of ++ (s.cells.filter fun p => decide (p.1 ≤ s.cid)).flatMap of

/-- The turn changes something besides the selection. -/
def State.moved (s : State) (t : Turn) : Bool := differs s (turn t s)

/-- The first step that is due, else the next context that can go on. -/
def State.autoTurn (s : State) : Turn :=
  let ts := s.cells.flatMap (fun (c, x) => cellTurns c x) ++ s.tiles.flatMap (fun (t, x) => tileTurns t x) ++ moduleTurns s ++ issueTurns s
  (ts.find? s.moved).getD (.issue s.sel.cell s.sel.slot)

/-- The turn of this step: the next of the agenda, else the module's own choice. -/
def State.nextTurn (s : State) : Turn × State :=
  match s.agenda with
  | [] => (s.autoTurn, s)
  | t :: ts => (t, { s with agenda := ts })

end Sys2Proof.Machine
end

