-- ==== Sys2Proof/Machine/Step.lean ====
section
/-! DEFINITION. Sys2Proof/Machine/Step.lean: one step of the module. -/

namespace Sys2Proof.Machine

/-- A module without power takes only MODULE_RESET (15 R370). -/
def State.hasPower (s : State) (t : Turn) : Bool :=
  s.power || (match t with | .event i _ => i == .moduleReset | _ => false)

/-- One step: time passes, then one turn, and what it has accessed is met. -/
def step (s : State) : Host.Outcome State Fault Refusal :=
  let p := s.nextTurn
  if s.hasPower p.1 then
    match turn p.1 p.2.clock with
    | .next t => .next t.meetTouched
    | o => o
  else .fault .noPower

/-- `s` with this instruction stored where the next fetch reads, and the next turn given to that context (log entry 6). -/
def State.withFetchWord (s : State) (nbits w : Nat) : State :=
  s.loadWords (tableWords nbits w ++ List.replicate 4 0#16)

end Sys2Proof.Machine
end

