-- ==== Sys2Proof/Safety.lean ====
section
/-! DEFINITION. Sys2Proof/Safety.lean: what counts as a safe run, and the words in which claims speak of an instruction that
completes and of what it leaves unchanged. -/

namespace Sys2Proof.Machine

/-! ### Completion (02 R43) -/

/-- The acting context can run, is held back by no load, has the well-formed instruction `i` to do, its guard is true and
its budgets pay `n` instruction and `m` traffic units. -/
def State.issues (s : State) (i : Instr) (gm : GuardMode) (n m : Nat) : Bool :=
  s.canRun && !interlocked i s.ctx && i.wf &&
  (match issueGuard gm (guardPfx i) s.ctx with | some g => g.s | none => false) &&
  (s.ctx.charge n m).isLeft

/-- The state once `n` and `m` units are paid (05 R118). -/
def State.charged (s : State) (n m : Nat) : State :=
  match s.ctx.charge n m with
  | .inl c => s.setCtx c
  | .inr _ => s

/-- The state on which an instruction that reads region registers runs: its units are paid, and the correctable errors of
those registers are corrected and logged (06 R148). -/
def State.begun (s : State) (i : Instr) (n m : Nat) : State := meetRegions i (s.charged n m)

/-- The instruction is over and the pc stands at the next one. -/
def State.done (s : State) (i : Instr) : State := s.settle.addPc i.ilen

/-- The instruction is over and the pc stands at `a`. -/
def State.jumped (s : State) (a : Word) : State := s.settle.setPc a

/-- A machine step that has cells, slots and a clock. -/
def State.placed (s : State) : Prop := s.cid < numCells ∧ s.sid ≤ 10

/-! ### Frames -/

/-- Outside the acting cell everything is as before: every byte of memory, every other cell, every tile and quartet, every
table, MTU, queue and register of the module. -/
def SameModule (s t : State) : Prop :=
  (∀ a, rd8 t.mem a = rd8 s.mem a) ∧ (∀ c, c ≠ s.cid → t.cell c = s.cell c) ∧
  t.cycle = s.cycle ∧ t.power = s.power ∧ t.quarts = s.quarts ∧ t.tiles = s.tiles ∧ t.mtus = s.mtus ∧ t.descs = s.descs ∧
  t.auts = s.auts ∧ t.groups = s.groups ∧ t.insts = s.insts ∧ t.chord = s.chord ∧ t.parked = s.parked ∧ t.away = s.away ∧
  t.vault = s.vault ∧ t.mlogs = s.mlogs ∧ t.ftags = s.ftags ∧ t.asBase = s.asBase ∧ t.poison = s.poison ∧ t.flaws = s.flaws ∧ t.touched = s.touched ∧
  t.spilt = s.spilt ∧ t.host = s.host ∧ t.fab = s.fab ∧ t.sel = s.sel ∧ t.agenda = s.agenda

/-- In the acting cell everything but its slots is as before: vector and region registers, accumulators, latch, queues,
streams, tags, L1, send buffer, helper joins, barrier counters. -/
def SameUnits (s t : State) : Prop := { t.myCell with slots := s.myCell.slots } = s.myCell

/-- The other slots of the acting cell are as before. -/
def SameSlots (s t : State) : Prop := ∀ n, n ≠ s.sid → t.ctxAt s.cid n = s.ctxAt s.cid n

/-- In the acting context all but scalar registers, the pc, the budgets and the wait, with what it has paid and captured, is as before: the predicate stack,
the flags of fcsr, vcnt, the trap registers, cont and every other special register. -/
def SameSpecials (s t : State) : Prop :=
  { t.ctx with
    regs := s.ctx.regs, pc := s.ctx.pc, ibud := s.ctx.ibud, mbud := s.ctx.mbud, wait := s.ctx.wait, paid := s.ctx.paid, cap := s.ctx.cap }
    = s.ctx

/-- Every scalar register but those of `ds` is as before. -/
def SameRegs (s t : State) (ds : List Nat) : Prop := ∀ r, r ∉ ds → t.rs r = s.rs r

/-- The frame of an instruction that writes at most the scalar registers `ds`. -/
def FrameRegs (s t : State) (ds : List Nat) : Prop :=
  SameModule s t ∧ SameUnits s t ∧ SameSlots s t ∧ SameSpecials s t ∧ SameRegs s t ds

end Sys2Proof.Machine

namespace Sys2Proof

open Sys2Proof.Machine

/-- The invariant that every step keeps: memory is in its canonical form, so equal memories are equal data. -/
def MemInv (s : State) : Prop := s.mem.wf = true

/-- A step is safe when it answers a next state: no instruction stops the machine. -/
def Safe (s : State) : Prop := ∃ t, step s = .next t

end Sys2Proof
end

