-- ==== Sys2Proof/Certificates/Slice0/Obligations.lean ====
section
/-! DEFINITION. Sys2Proof/Certificates/Slice0/Obligations.lean: the statements for the provers, and the words they share. -/

namespace Sys2Proof.Claims

open Sys2Proof.Machine

/-! ### Scalar results -/

/-- The operands of F0 arithmetic (03 R56): d and a, or with PFX.R a and e. -/
def srcX (p : Pfx) (d a : BitVec 4) (s : State) : Word := if p.hasR then s.rs (p.an a) else s.rs (p.dn d)
def srcY (p : Pfx) (a : BitVec 4) (s : State) : Word := if p.hasR then s.rs p.en else s.rs (p.an a)

/-- A two-source function of charge `n`: s[d] := f(x, y), and the next instruction follows. -/
def Alu (mk : Pfx → BitVec 4 → BitVec 4 → Instr) (n : Nat) (f : Word → Word → Word) : Prop :=
  ∀ p d a s, s.issues (mk p d a) .plain n 0 = true →
    exec (mk p d a) s = .next (((s.charged n 0).ws (p.dn d) (f (srcX p d a s) (srcY p a s))).done (mk p d a))

/-- A one-source function of charge 1: s[d] := f(s[a]). -/
def Alu1 (mk : Pfx → BitVec 4 → BitVec 4 → Instr) (f : Word → Word) : Prop :=
  ∀ p d a s, s.issues (mk p d a) .plain 1 0 = true →
    exec (mk p d a) s = .next (((s.charged 1 0).ws (p.dn d) (f (s.rs (p.an a)))).done (mk p d a))

/-- `n` is the number of zero bits of `x` above its highest one; below its lowest one. -/
def IsClz (x n : Word) : Prop :=
  n.toNat ≤ 64 ∧ (∀ k, 64 - n.toNat ≤ k → x.getLsbD k = false) ∧ (n.toNat < 64 → x.getLsbD (63 - n.toNat) = true)
def IsCtz (x n : Word) : Prop :=
  n.toNat ≤ 64 ∧ (∀ k, k < n.toNat → x.getLsbD k = false) ∧ (n.toNat < 64 → x.getLsbD n.toNat = true)

/-- s[d] gets a value with the property. -/
def Alu1P (mk : Pfx → BitVec 4 → BitVec 4 → Instr) (P : Word → Word → Prop) : Prop :=
  ∀ p d a s, s.issues (mk p d a) .plain 1 0 = true → ∃ v, P (s.rs (p.an a)) v ∧
    exec (mk p d a) s = .next (((s.charged 1 0).ws (p.dn d) v).done (mk p d a))

end Sys2Proof.Claims

open Sys2Proof Sys2Proof.Machine Sys2Proof.Claims

/-! ### Reset, decoding, the step -/

/-- The state after module reset (01 R16, 04 Table 04-3, 14 R339): cycle counter 0, power full, the firmware context in slot
0 of the first cell of service tile 0 live in firmware mode, every other slot free. -/
def Obligations.ResetState : Prop :=
  State.reset.cycle = 0#64 ∧ State.reset.power = true ∧ State.reset.host.pstate = 0#2 ∧
  (State.reset.ctxAt 40960 0).live = true ∧ (State.reset.ctxAt 40960 0).mode = 2#2 ∧
  (∀ c n, ¬ (c = 40960 ∧ n = 0) → (State.reset.ctxAt c n).live = false) ∧
  (∀ c n, (State.reset.ctxAt c n).vcnt = 32#32 ∧ (State.reset.ctxAt c n).fcsr = 0#8 ∧ (State.reset.ctxAt c n).gmode = 0#2 ∧
    (State.reset.ctxAt c n).pst = [] ∧ (State.reset.ctxAt c n).tvec = 0#64 ∧ (State.reset.ctxAt c n).pspill = 0#64) ∧
  (∀ q, (State.reset.quart q).vshare = 0x1111#16) ∧ (∀ t, (State.reset.tile t).asid = 0#12) ∧
  (∀ t w, vget (State.reset.tile t).win w 0#128 = 0#128)

/-- The canonical form of memory holds after reset. -/
def Obligations.ResetInv : Prop := MemInv State.reset

/-- Every step keeps memory in its canonical form. -/
def Obligations.StepKeepsInv : Prop := ∀ s t, MemInv s → step s = .next t → MemInv t

/-- Words written out from the spec's encodings decode to the instructions they stand for. -/
def Obligations.DecodeWords : Prop :=
  decodeWords [0x0001#16] = some (.nop Pfx.none 0#4 0#4, 1) ∧
  decodeWords [0x02C6#16] = some (.brk Pfx.none 0x2C#8, 1) ∧
  decodeWords [0x141F#16] = some (.mov Pfx.none 4#4 1#4, 1) ∧
  decodeWords [0x5122#16] = some (.cmp Pfx.none 1#4 2#4 2#3, 1) ∧
  decodeWords [0xF460#16, 0x112A#16] = some (.mulhu { Pfx.none with r := some ⟨3#5, false, false⟩ } 1#4 2#4, 2) ∧
  decodeWords [0xF006#16, 0x6124#16] = some (.cmpi { Pfx.none with imms := [6#10] } 1#4 2#3 4#4, 2) ∧
  decodeWords [0xF020#16, 0x0317#16] = some (.mfs { Pfx.none with imms := [0x20#10] } 3#4 1#4, 2) ∧
  decodeWords [0xFC98#16, 0x0002#16] = some (.fence { Pfx.none with order := some ⟨4#3, 3#2⟩ } 0#4 0#4, 2) ∧
  decodeWords [0xFB80#16, 0x1234#16] = some (.hint { Pfx.none with p := some (14#4, 0#6) } 0x1234#16, 2)

/-- Decoding an encoded well-formed instruction gives it back, whatever words follow. -/
def Obligations.EncodeDecode : Prop :=
  ∀ (i : Instr) (rest : List Half), i.wf = true → i.isWord = true → decodeWords (encode i ++ rest) = some (i, (encode i).length)

/-- A step whose turn is a context's (the agenda is the model's choice of log entry 6, and the time that passes is free: log entry 5) runs the
instruction that the words at its pc decode to, or the one that it has issued and that waits, which is fetched no more (log entry 6), unless
the context has yielded and another of its cell can issue (04 R93). What follows is what the instruction answers, but for the cell's note
of the slot that issued last, the context's note of an instruction that waits, and the correctable errors, if any, of what the step has
accessed by no instruction (10 R244). The cycle counter rises by one cycle and as many more
as the step takes, whatever the instruction is. -/
def Obligations.StepRunsDecoded : Prop :=
  (∀ (s u v : State) (c : BitVec 16) (n : BitVec 4) (i : Instr) (ts : List Turn),
    s.power = true → s.agenda = .issue c n :: ts →
    v = { State.clock { s with agenda := ts } with sel := ⟨c, n, 0⟩ } → v.canRun = true →
    (v.ctx.wait.issued = false ∨ v.ctx.cur = none) ∧ v.fetch = .instr i u ∨ v.ctx.wait.issued = true ∧ v.ctx.cur = some i ∧ u = v →
    (v.passedOver = false → ∀ t, exec i u = .next t → step s = .next (t.noted u i).meetTouched) ∧ (v.passedOver = true → step s = .next v.meetTouched) ∧
    v.cycle = s.cycle + 1#64 + BitVec.ofNat 64 (Config.extraCycles s.tick) ∧ u.cycle = v.cycle ∧ v.agenda = ts) ∧
  (∀ (t u w : State) (i : Instr), w = t.noted u i → { w with cells := t.cells } = t ∧
    ∀ c, { w.cell c with last := (t.cell c).last, slots := (t.cell c).slots } = t.cell c ∧
      ∀ n, { w.ctxAt c n with cur := (t.ctxAt c n).cur } = t.ctxAt c n) ∧
  (∀ s : State, s.flaws = [] → s.meetTouched = { s with touched := [] }) ∧ (∀ s : State, s.touched = [] → s.meetTouched = s)

/-! ### Scalar integer results (04 R87, R99, R100) -/

/-- ALU and ALU2 functions of two sources: result and charge of Tables 04-5 and 04-6. Division rounds toward zero, the remainder takes the
dividend's sign; a zero divisor gives all ones and the dividend; -2^63 divided by -1 gives -2^63 and 0. Division never traps. ALU and ALU2
functions of one source, ADDI and LI. -/
def Obligations.IntegerResults : Prop :=
  ((Alu .add 1 (fun x y => x + y) ∧ Alu .sub 1 (fun x y => x - y) ∧ Alu .and 1 (fun x y => x &&& y) ∧
  Alu .or 1 (fun x y => x ||| y) ∧ Alu .xor 1 (fun x y => x ^^^ y) ∧
  Alu .sll 1 (fun x y => x <<< (y.extractLsb' 0 6).toNat) ∧ Alu .srl 1 (fun x y => x >>> (y.extractLsb' 0 6).toNat) ∧
  Alu .sra 1 (fun x y => x.sshiftRight (y.extractLsb' 0 6).toNat) ∧
  Alu .mul 2 (fun x y => BitVec.ofInt 64 (x.toInt * y.toInt)) ∧
  Alu .mulh 2 (fun x y => BitVec.ofInt 64 (x.toInt * y.toInt / 2 ^ 64)) ∧
  Alu .mulhu 2 (fun x y => BitVec.ofNat 64 (x.toNat * y.toNat / 2 ^ 64)) ∧
  Alu .min 1 (fun x y => if x.toInt ≤ y.toInt then x else y) ∧ Alu .max 1 (fun x y => if x.toInt ≤ y.toInt then y else x) ∧
  Alu .minu 1 (fun x y => if x.toNat ≤ y.toNat then x else y) ∧ Alu .maxu 1 (fun x y => if x.toNat ≤ y.toNat then y else x) ∧
  Alu .addw 1 (fun x y => BitVec.signExtend 64 ((x + y).extractLsb' 0 32)) ∧
  Alu .subw 1 (fun x y => BitVec.signExtend 64 ((x - y).extractLsb' 0 32))) ∧
  (Alu .div 8 (fun x y => if y = 0#64 then BitVec.allOnes 64 else BitVec.ofInt 64 (x.toInt.tdiv y.toInt)) ∧
  Alu .divu 8 (fun x y => if y = 0#64 then BitVec.allOnes 64 else BitVec.ofNat 64 (x.toNat / y.toNat)) ∧
  Alu .rem 8 (fun x y => if y = 0#64 then x else BitVec.ofInt 64 (x.toInt - x.toInt.tdiv y.toInt * y.toInt)) ∧
  Alu .remu 8 (fun x y => if y = 0#64 then x else BitVec.ofNat 64 (x.toNat % y.toNat)) ∧
  BitVec.ofInt 64 ((BitVec.intMin 64).toInt.tdiv (-1)) = BitVec.intMin 64)) ∧
  (Alu1 .mov (fun x => x) ∧ Alu1P .clz IsClz ∧ Alu1P .ctz IsCtz ∧
  Alu1P .popc (fun x v => v.toNat = ((List.range 64).filter fun k => x.getLsbD k).length) ∧
  Alu1 .sextb (fun x => BitVec.signExtend 64 (x.extractLsb' 0 8)) ∧ Alu1 .sexth (fun x => BitVec.signExtend 64 (x.extractLsb' 0 16)) ∧
  Alu1 .sextw (fun x => BitVec.signExtend 64 (x.extractLsb' 0 32)) ∧ Alu1 .zextb (fun x => BitVec.ofNat 64 (x.toNat % 2 ^ 8)) ∧
  Alu1 .zexth (fun x => BitVec.ofNat 64 (x.toNat % 2 ^ 16)) ∧ Alu1 .zextw (fun x => BitVec.ofNat 64 (x.toNat % 2 ^ 32)) ∧
  Alu1P .bswap (fun x v => ∀ k, k < 8 → v.extractLsb' (8 * k) 8 = x.extractLsb' (56 - 8 * k) 8) ∧
  (∀ p d i s, s.issues (.addi p d i) .plain 1 0 = true →
    exec (.addi p d i) s = .next (((s.charged 1 0).ws d.toNat (s.rs d.toNat + BitVec.ofInt 64 (p.imm i))).done (.addi p d i))) ∧
  (∀ p d i s, s.issues (.li p d i) .plain 1 0 = true →
    exec (.li p d i) s = .next (((s.charged 1 0).ws d.toNat (BitVec.ofInt 64 (p.imm i))).done (.li p d i))))

/-! ### The predicate stack, compares and branches (04 R88 to R92, R101, R105 to R107) -/

/-- The eight conditions of R101. -/
def Sys2Proof.Claims.condHolds (c : BitVec 3) (x y : Word) : Prop :=
  (c = 0#3 ∧ x = y) ∨ (c = 1#3 ∧ x ≠ y) ∨ (c = 2#3 ∧ x.toInt < y.toInt) ∨ (c = 3#3 ∧ y.toInt ≤ x.toInt) ∨
  (c = 4#3 ∧ x.toNat < y.toNat) ∨ (c = 5#3 ∧ y.toNat ≤ x.toNat) ∨ (c = 6#3 ∧ x &&& y ≠ 0#64) ∨ (c = 7#3 ∧ x &&& y = 0#64)

/-- The instruction completes by pushing a condition: S, and a mask of all ones or of zeros. -/
def Sys2Proof.Claims.Pushes (i : Instr) (s : State) (P : Prop) : Prop :=
  ∃ t, (s.charged 1 0).push (condEntry (@decide P (Classical.propDecidable P))) = some t ∧ exec i s = .next (t.done i)

/-- The structural instructions of R90: the pushing ones of R88 but PDUP, PAND and POR, the PRED functions, BT and BF. -/
def Sys2Proof.Claims.structural : Instr → Bool
  | .cmp _ _ _ _ | .cmpi _ _ _ _ | .fcmp _ _ _ _ | .vcmp _ _ _ _ | .spawn _ _ _ | .start _ _ _ | .dqpop _ _ _ | .dqsteal _ _ _
  | .etest _ _ _ | .gtest _ _ _ | .geq _ _ _ | .bgrant _ _ _ | .pend _ _ _ | .pelse _ _ _ | .pand _ _ _ | .por _ _ _ | .pdup _ _ _
  | .pset _ _ _ | .pget _ _ _ | .pcnt _ _ _ | .bt _ _ | .bf _ _ => true
  | _ => false
/-- The instructions that only kernel and firmware mode may issue (R43). -/
def Sys2Proof.Claims.kernelOnly : Instr → Bool
  | .tret _ _ _ | .regrd _ _ _ | .ctxldReg _ _ | .ctxldCtx _ _ | .ctxldCell _ _ | .ctxldTile _ _ | .ctxsvCtx _ _ | .ctxsvCell _ _
  | .ctxsvTile _ _ | .pmreqCtx _ _ | .pmreqStop _ _ | .pmreqGo _ _ | .pmreqFrame _ _ | .gangstopStop _ _ | .gangstopRestart _ _
  | .tlbinv _ _ _ | .btop _ _ _ | .mbankSel _ _ _ | .mbankSpill _ _ _ | .mbankFill _ _ _ => true
  | _ => false
/-- How the guard of an instruction that is not structural is formed: VSEL's from the entries below its selector (08 R210). -/
def Sys2Proof.Claims.guardMode : Instr → GuardMode
  | .vsel _ _ _ => .select
  | _ => .plain

/-- How Issue() meets the guard of an instruction: the PRED functions, BT, BF and hints not at all (R43, R105, R107). -/
def Sys2Proof.Claims.guardHow : Instr → GuardMode
  | .pend _ _ _ | .pelse _ _ _ | .pand _ _ _ | .por _ _ _ | .pdup _ _ _ | .pset _ _ _ | .pget _ _ _ | .pcnt _ _ _ | .bt _ _ | .bf _ _
  | .hint _ _ => .never
  | i => guardMode i

/-! ### Charges (05 R112 to R118) -/

/-- The instruction units of Table 05-2, for the instructions whose charge does not depend on a result. -/
def Sys2Proof.Claims.unitsOf : Instr → Nat
  | .div _ _ _ | .divu _ _ _ | .rem _ _ _ | .remu _ _ _ | .fdiv _ _ _ | .fsqrt _ _ _ => 8
  | .mmaRing _ _ _ | .mmaHold _ _ _ | .mmv _ _ _ => 64
  | .mst _ _ _ | .mld _ _ _ => 16
  | .copy _ _ _ | .gpool _ _ _ | .xred _ _ _ | .xbcast _ _ _ | .xgath _ _ _ => 4
  | .mul _ _ _ | .mulh _ _ _ | .mulhu _ _ _
  | .vld _ _ _ | .vst _ _ _ | .vlds _ _ _ | .vsts _ _ _ | .vgath _ _ _ | .vscat _ _ _ | .vbind _ _ _ | .vunbind _ _ _ | .vstat _ _ _
  | .mldb _ _ _ | .mpass _ _ _ | .mzero _ _ _ | .mrow _ _ _ | .mwait _ _ _
  | .gld _ _ _ | .gst _ _ _ | .gcnt _ _ _ | .gvol _ _ _ | .grdbox _ _ _ | .gtest _ _ _ | .geq _ _ _
  | .aadd _ _ _ | .aand _ _ _ | .aor _ _ _ | .axor _ _ _ | .amin _ _ _ | .amax _ _ _ | .aminu _ _ _ | .amaxu _ _ _ | .aswap _ _ _
  | .acas _ _ _ | .afadd _ _ _ | .afaddcp _ _ _ | .lds _ _ _ | .sts _ _ _ | .trn _ _ _ | .stq _ _ _ | .autld _ _ _
  | .send _ _ _ | .ctradd _ _ _ | .ctrrd _ _ _ | .cwait _ _ _ | .wtarm _ _ _ | .wtdis _ _ _ | .spawn _ _ _ | .start _ _ _ | .hjoin _ _ _
  | .susp _ _ _ | .dqpush _ _ _ | .dqpop _ _ _ | .dqsteal _ _ _ | .bsetcRel _ _ | .bsetcReg _ _ | .bgrant _ _ _ | .byield _ _ _
  | .ewait _ _ _ | .etest _ _ _ | .chunkrd _ _ _ | .hpoffer _ _ _ | .hpread _ _ _ | .rcinc _ _ _ | .rcsnap _ _ _ | .sysc _ _ | .wdset _ _ _ => 2
  | _ => 1
/-- The instructions that write a region register by Produce(): their charge follows their result (R116; `RegionDone`). -/
def Sys2Proof.Claims.regionWriter : Instr → Bool
  | .gint _ _ _ | .guni _ _ _ | .gsub _ _ _ | .gset _ _ _ | .gempty _ _ _ | .gbox _ _ _ | .glat _ _ _ | .grag _ _ _ | .gdil _ _ _
  | .gshift _ _ _ | .gproj _ _ _ | .gsplit _ _ _ | .gcanon _ _ _ => true
  | _ => false
/-- The unit that an instruction needs before its issue takes it (08 R196, R205, 09 R218, 13 R316, R320); an engine command passes the
checks of its issue. -/
def Sys2Proof.Claims.unitReady (s : State) : Instr → Prop
  | .mmaRing _ _ _ => ringReady s = true
  | .mmaHold _ _ _ | .mzero _ _ _ | .mst _ _ _ | .mld _ _ _ => accReady s = true
  | .mmv _ _ _ => mmvReady s = true
  | .mldb _ _ _ | .mpass _ _ _ => latchReady s = true
  | .mrow p _ a => accReady s = true ∧ s.vheld [] [p.an a] = false
  | .vadd _ _ _ | .vsub _ _ _ | .vmul _ _ _ | .vfma _ _ _ | .vmin _ _ _ | .vmax _ _ _ | .vabs _ _ _ | .vneg _ _ _ | .vand _ _ _ | .vor _ _ _
  | .vxor _ _ _ | .vnot _ _ _ | .vshl _ _ _ | .vshr _ _ _ | .vsra _ _ _ | .vsel _ _ _ | .vcmp _ _ _ _ | .vbcast _ _ _ | .vext _ _ _
  | .vins _ _ _ | .vperm _ _ _ | .vredadd _ _ _ | .vredmin _ _ _ | .vredmax _ _ _ | .viota _ _ _ | .vstat _ _ _ | .vcvt _ _ _ _
  | .vld _ _ _ | .vst _ _ _ | .vlds _ _ _ | .vsts _ _ _ => s.vroom = true
  | .vunbind _ _ _ => s.vroom = true
  | .vgath p _ _ | .vscat p _ _ => s.vroom = true ∧ s.vbusy = false ∧ peekable [p.en] s = true
  | .vbind _ _ _ => s.vroom = true ∧ s.accessesDone = true
  | .lds p _ a | .sts p _ a | .trn p _ a | .stq p _ a | .gvol p _ a | .prefRegion p a => s.ragWait (s.rg (p.an a)) = false
  | .gtest p _ a => s.ragWait (s.rg (p.an a)) = false ∧ (p.immW.toNat % 4 = 2 → s.ragWait (s.rg p.en) = false) ∧ s.spillBusy = false
  | .geq _ _ _ => s.spillBusy = false
  | .arrive p _ a => arriveReady p a s = true
  | .hpread p _ a => heapReady p a s = true
  | .copy p d a => engineReady .copy p d a s = true ∧ engineJudge .copy p d a s = none
  | .gpool p d a => engineReady .gpool p d a s = true ∧ engineJudge .gpool p d a s = none
  | .xred p d a => engineReady .xred p d a s = true ∧ engineJudge .xred p d a s = none
  | .xbcast p d a => engineReady .xbcast p d a s = true ∧ engineJudge .xbcast p d a s = none
  | .xgath p d a => engineReady .xgath p d a s = true ∧ engineJudge .xgath p d a s = none
  | _ => True
/-- No entry of the cell's vector queue waits for a stream unit, an operand or a release: each has its result (08 R196, R205). -/
def Sys2Proof.Claims.queueCalm (s : State) : Prop := ∀ e ∈ s.myCell.vq, e.kind = .ready

/-- No illegal-instruction or privilege trap of the instruction's own comes before its charge (14 R340): a special register that user mode
may access, a register pair and words of a SEND that exist, a window and a descriptor that WDSET takes (log entry 35), a part that VCVT has,
no misuse of a vector register that is bound to a stream or that an instruction of the queue will bind. -/
def Sys2Proof.Claims.ownFree (s : State) : Instr → Prop
  | .mfs p _ a => sprNum p a ∉ [0x040, 0x041, 0x042, 0x043, 0x044, 0x045, 0x048, 0x049, 0x04A, 0x04B]
  | .mts p _ a => sprNum p a ∉ [0x008, 0x010, 0x011, 0x014, 0x015, 0x016, 0x023, 0x031, 0x040, 0x041, 0x042, 0x043, 0x044, 0x045, 0x048,
      0x049, 0x04A, 0x04B]
  | .acas p _ _ => p.en ≠ 15
  | .afaddcp p d _ => p.dn d ≠ 15
  | .send p d a => p.an a + dwCount (opD p d s) ≤ 16
  | .wdset _ d a => wdsetIllegal d (wdsetArg a s) = false
  | .mmv _ _ _ => (weightStream s).isSome = true ∧ queueCalm s
  | .vcvt p d a g => p.immW.toNat % 4 < vcvtParts (pVty p) (vtyOf g.toNat) ∧ misuse [p.an a] (some (p.dn d)) s = false
  | .vbind p d _ => s.dirAt (p.dn d) = none
  | .vadd _ _ _ | .vsub _ _ _ | .vmul _ _ _ | .vfma _ _ _ | .vmin _ _ _ | .vmax _ _ _ | .vabs _ _ _ | .vneg _ _ _ | .vand _ _ _ | .vor _ _ _
  | .vxor _ _ _ | .vnot _ _ _ | .vshl _ _ _ | .vshr _ _ _ | .vsra _ _ _ | .vsel _ _ _ | .vcmp _ _ _ _ | .vbcast _ _ _ | .vext _ _ _
  | .vins _ _ _ | .vperm _ _ _ | .vredadd _ _ _ | .vredmin _ _ _ | .vredmax _ _ _ | .viota _ _ _
  | .vld _ _ _ | .vst _ _ _ | .vlds _ _ _ | .vsts _ _ _ | .vgath _ _ _ | .vscat _ _ _ | .mrow _ _ _ => queueCalm s ∧ ∀ k, s.myCell.stream k = none
  | _ => True

/-- The user context has the well-formed instruction `i` to do, nothing paid for it yet and no place for it or for a release in the cell's
vector queue, and its guard has the value `G`. -/
def Sys2Proof.Claims.Faces (s : State) (i : Instr) (gm : GuardMode) (G : Bool) : Prop :=
  s.canRun = true ∧ interlocked i s.ctx = false ∧ i.wf = true ∧ s.ctx.user = true ∧ s.ctx.paid = none ∧
  (∀ e ∈ s.myCell.vq, e.slot = s.sel.slot → e.kind ≠ .waits ∧ e.kind ≠ .release) ∧
  ∃ g, issueGuard gm (guardPfx i) s.ctx = some g ∧ g.s = G
/-- The instruction has no effect, and the context yields for reason `r` (1 for the instruction budget, 2 for the traffic): it begins to
leave; with no place to continue at it traps with the reason and 0x100, and under budget policy 2 or 3 with the reason (R118). -/
def Sys2Proof.Claims.Yields (s : State) (i : Instr) (r : BitVec 3) : Prop :=
  (s.ctx.bpol = 0#2 ∨ s.ctx.bpol = 1#2 → s.ctx.cont ≠ 0#64 → s.ctx.cont.getLsbD 0 = false →
    exec i s = .next (s.setCtx { s.ctx with wait := .leaving r, cap := none })) ∧
  (s.ctx.bpol = 0#2 ∨ s.ctx.bpol = 1#2 → s.ctx.cont = 0#64 ∨ s.ctx.cont.getLsbD 0 = true →
    exec i s = .next (s.takeTrap ⟨8, s.ctx.pc, 0x100#64 + r.setWidth 64, none⟩ i.ilen)) ∧
  (s.ctx.bpol = 2#2 ∨ s.ctx.bpol = 3#2 → exec i s = .next (s.takeTrap ⟨8, s.ctx.pc, r.setWidth 64, none⟩ i.ilen))
/-- A metered instruction budget of fewer than `n` units, with no PMREQ pending, makes the context yield. -/
def Sys2Proof.Claims.CannotPay (s : State) (i : Instr) (gm : GuardMode) (G : Bool) (n : Nat) : Prop :=
  Faces s i gm G → s.ctx.preq = none → s.ctx.ibud.unm = false → s.ctx.ibud.count.toNat < n → Yields s i 1#3

/-- A pushing instruction under a false guard is charged 1, pushes S = 0 with mask 0 and does nothing else (R90): CMP, CMPI, FCMP, PSET aside,
VCMP, SPAWN, START, DQPOP, DQSTEAL, ETEST, GTEST, GEQ, BGRANT. Every instruction that is not structural and no hint, under a false guard, is
charged 1 and does nothing else (R43, R89). -/
def Obligations.GuardFalse : Prop :=
  (∀ (i : Instr), ((∃ p d a c, i = .cmp p d a c) ∨ (∃ p a c k, i = .cmpi p a c k) ∨ (∃ p d a c, i = .fcmp p d a c) ∨
      (∃ p d a c, i = .vcmp p d a c) ∨
      (∃ mk ∈ [Instr.spawn, Instr.start, Instr.dqpop, Instr.dqsteal, Instr.etest, Instr.gtest, Instr.geq, Instr.bgrant],
        ∃ p d a, i = mk p d a)) →
    ∀ s g c, s.canRun = true → interlocked i s.ctx = false → i.wf = true → s.ctx.pdepth < 64 →
      s.spillBusy = false → issueGuard .push (guardPfx i) s.ctx = some g → g.s = false → s.ctx.charge 1 0 = .inl c →
      ∃ t, (s.setCtx c).push ⟨false, 0#32⟩ = some t ∧ exec i s = .next (t.done i)) ∧
  (∀ (i : Instr) s g c, i.isWord = true → structural i = false → (∀ p w, i ≠ .hint p w) → (∀ w, i ≠ .illegalInstruction w) →
    s.canRun = true → interlocked i s.ctx = false → i.wf = true → (kernelOnly i = true → s.ctx.user = false) →
    issueGuard (guardMode i) (guardPfx i) s.ctx = some g → g.s = false → s.ctx.charge 1 0 = .inl c →
    exec i s = .next ((s.setCtx c).done i))

/-- What a push does to the stack (R88, R91): the entry is on top; with 16 entries in hardware the bottom-most of them goes to place j =
spilled + 1 of the spill area of the tile's scratchpad, mask in bits 31:0 and S in bit 32, and the running ANDs take it in; at depth 64
there is no push. A pop gives the top entry, and reads the spilled entry nearest the top back below the others. A correctable error of the area's line would be met first (10 R244); none is pending here. -/
def Obligations.PredicateStack : Prop :=
  ∀ (s : State) (e : PEntry), s.sid ≤ 10 → s.ctx.pst.length ≤ 16 →
    (64 ≤ s.ctx.pdepth → s.push e = none) ∧
    (s.ctx.spilled = 0 → ∀ b bs, s.ctx.pst = b :: bs → s.pop = some (b, s.setCtx { s.ctx with pst := bs })) ∧
    (s.flaws = [] → s.poison = [] → 0 < s.ctx.spilled → ∀ b bs w, s.ctx.pst = b :: bs → w = rd64 s.mem (spillKey s.tid s.ctx.pspill s.ctx.spilled) →
      ∃ t, s.pop = some (b, t) ∧ t.ctx.pst = bs ++ [⟨w.getLsbD 32, w.extractLsb' 0 32⟩] ∧ t.ctx.spilled = s.ctx.spilled - 1 ∧ t.mem = s.mem) ∧
    (s.ctx.pdepth < 64 → s.ctx.pst.length < 16 → s.push e = some (s.setCtx { s.ctx with pst := e :: s.ctx.pst })) ∧
    (s.ctx.pdepth < 64 → s.ctx.pst.length = 16 → s.flaws = [] → ∃ t b, s.push e = some t ∧ s.ctx.pst.getLast? = some b ∧
      t.ctx.pst = e :: s.ctx.pst.dropLast ∧ t.ctx.spilled = s.ctx.spilled + 1 ∧
      t.ctx.pss = (s.ctx.pss && b.s) ∧ t.ctx.psmask = s.ctx.psmask &&& b.mask ∧
      (∀ a, (a < spillKey s.tid s.ctx.pspill (s.ctx.spilled + 1) ∨ spillKey s.tid s.ctx.pspill (s.ctx.spilled + 1) + 8 ≤ a) →
        rd8 t.mem a = rd8 s.mem a) ∧
      (MemInv s → rd64 t.mem (spillKey s.tid s.ctx.pspill (s.ctx.spilled + 1)) = 0#31 ++ bit 1 b.s ++ b.mask))

/-- The PRED functions (R107) act on the top of the stack whatever the guard, and are charged 1. Fewer entries than a function needs trap
predicate underflow (0x0D), PSET and PDUP at depth 64 predicate spill overflow (0x09), uncharged; PGET and PCNT write a register and the
others none; functions 8 to 15 are illegal instructions. Spill traffic waits for the context's own accesses to those entries (04 R91), and
a pop whose spilled entry lies on a line with an uncorrectable error traps 0x15 (10 R244). -/
def Obligations.PredicateFunctions : Prop :=
  (∀ p d a s e t, s.issues (.pend p d a) .never 1 0 = true → s.spillBusy = false → (s.charged 1 0).pop = some (e, t) →
    exec (.pend p d a) s = .next (t.done (.pend p d a))) ∧
  (∀ p d a s e es, s.issues (.pelse p d a) .never 1 0 = true → s.ctx.pst = e :: es →
    exec (.pelse p d a) s = .next (((s.charged 1 0).setCtx
      { (s.charged 1 0).ctx with pst := ⟨!e.s, ~~~e.mask⟩ :: es }).done (.pelse p d a))) ∧
  (∀ p d a s x y t u v, s.issues (.pand p d a) .never 1 0 = true → s.spillBusy = false → (s.charged 1 0).pop = some (x, t) → t.pop = some (y, u) →
    2 ≤ s.ctx.pdepth → u.push ⟨x.s && y.s, x.mask &&& y.mask⟩ = some v →
    exec (.pand p d a) s = .next (v.done (.pand p d a))) ∧
  (∀ p d a s x y t u v, s.issues (.por p d a) .never 1 0 = true → s.spillBusy = false → (s.charged 1 0).pop = some (x, t) → t.pop = some (y, u) →
    2 ≤ s.ctx.pdepth → u.push ⟨x.s || y.s, x.mask ||| y.mask⟩ = some v →
    exec (.por p d a) s = .next (v.done (.por p d a))) ∧
  (∀ p d a s e es, s.issues (.pdup p d a) .never 1 0 = true → s.spillBusy = false → s.ctx.pst = e :: es → s.ctx.pdepth < 64 →
    ∃ t, (s.charged 1 0).push e = some t ∧ exec (.pdup p d a) s = .next (t.done (.pdup p d a))) ∧
  (∀ p d a s, s.issues (.pset p d a) .never 1 0 = true → s.spillBusy = false → s.ctx.pdepth < 64 → Pushes (.pset p d a) s (s.rs (p.an a) ≠ 0#64)) ∧
  (∀ p d a s e es, s.issues (.pget p d a) .never 1 0 = true → s.ctx.pst = e :: es →
    exec (.pget p d a) s = .next (((s.charged 1 0).ws (p.dn d) (if e.s then 1#64 else 0#64)).done (.pget p d a))) ∧
  (∀ p d a s, s.issues (.pcnt p d a) .never 1 0 = true →
    exec (.pcnt p d a) s = .next (((s.charged 1 0).ws (p.dn d) (BitVec.ofNat 64 s.ctx.pdepth)).done (.pcnt p d a))) ∧
  (∀ mk ∈ [Instr.pend, Instr.pand, Instr.por], ∀ p d a s b bs x, s.issues (mk p d a) .never 1 0 = true → s.spillBusy = false → s.ctx.paid = none →
    2 ≤ s.ctx.pdepth → s.ctx.pst = b :: bs → 0 < s.ctx.spilled → x = spillKey s.tid s.ctx.pspill s.ctx.spilled → x / 64 ∈ s.poison →
    exec (mk p d a) s = .next ((s.setCtx { s.ctx with wait := .none }).takeTrap ⟨0x15, BitVec.ofNat 64 x, 0#64, none⟩ (mk p d a).ilen)) ∧
  (∀ mk n, (mk, n) ∈ [(Instr.pend, 1), (Instr.pelse, 1), (Instr.pand, 2), (Instr.por, 2), (Instr.pdup, 1), (Instr.pget, 1)] →
    ∀ p d a s, s.issues (mk p d a) .never 1 0 = true → s.ctx.paid = none → s.ctx.pdepth < n →
    exec (mk p d a) s = .next ((s.setCtx { s.ctx with wait := .none }).takeTrap ⟨0x0D, s.ctx.pc, 0#64, none⟩ (mk p d a).ilen)) ∧
  (∀ mk ∈ [Instr.pset, Instr.pdup], ∀ p d a s, s.issues (mk p d a) .never 1 0 = true → s.spillBusy = false → s.ctx.paid = none → s.ctx.pdepth = 64 →
    exec (mk p d a) s = .next ((s.setCtx { s.ctx with wait := .none }).takeTrap ⟨9, s.ctx.pc, 0#64, none⟩ (mk p d a).ilen)) ∧
  (∀ mk ∈ [Instr.pend, Instr.pelse, Instr.pand, Instr.por, Instr.pdup, Instr.pset], ∀ p d a s t, s.issues (mk p d a) .never 1 0 = true →
    exec (mk p d a) s = .next t → SameRegs s t []) ∧
  (∀ w : Half, w.extractLsb' 12 4 = 0xC#4 → w.getLsbD 3 = true → decodeWords [w] = some (.illegalInstruction (.word Pfx.none w), 1))

/-- CMP and CMPI (R101): x and y are s[d] and s[a], with PFX.R s[a] and s[e], or s[a] and the immediate; they push the condition, with a mask
of all ones or of zeros, 0 under a false guard, and write no register. A guard beyond the stack traps 0x0D, a push at depth 64 traps
0x09; conditions 8 to 15 are illegal instructions; the immediate of m prefix words is a signed value of 10m + 4 bits. -/
def Obligations.CompareResults : Prop :=
  (∀ p d a c s, s.issues (.cmp p d a c) .push 1 0 = true → s.spillBusy = false → s.ctx.pdepth < 64 →
    Pushes (.cmp p d a c) s (condHolds c (srcX p d a s) (srcY p a s))) ∧
  (∀ p a c i s, s.issues (.cmpi p a c i) .push 1 0 = true → s.spillBusy = false → s.ctx.pdepth < 64 →
    Pushes (.cmpi p a c i) s (condHolds c (s.rs (p.an a)) (BitVec.ofInt 64 (p.imm i)))) ∧
  (∀ (i : Instr), ((∃ p d a c, i = .cmp p d a c) ∨ (∃ p a c k, i = .cmpi p a c k)) →
    ∀ s, s.canRun = true → interlocked i s.ctx = false → i.wf = true →
      (∀ p, i.pfx = some p → 1 ≤ gDepth p → s.ctx.pdepth ≤ gDepth p →
        exec i s = .next (s.takeTrap ⟨0x0D, s.ctx.pc, 0#64, none⟩ i.ilen)) ∧
      (∀ g c, issueGuard .push (guardPfx i) s.ctx = some g → g.s = false → s.ctx.charge 1 0 = .inl c → s.ctx.pdepth < 64 →
        s.spillBusy = false → ∃ t, (s.setCtx c).push ⟨false, 0#32⟩ = some t ∧ exec i s = .next (t.done i)) ∧
      (∀ g c, issueGuard .push (guardPfx i) s.ctx = some g → s.ctx.charge 1 0 = .inl c → s.ctx.paid = none → s.ctx.pdepth = 64 →
        s.spillBusy = false → exec i s = .next ((s.setCtx { s.ctx with wait := .none }).takeTrap ⟨9, s.ctx.pc, 0#64, none⟩ i.ilen)) ∧
      (∀ t, s.ctx.pdepth < 64 → s.issues i .push 1 0 = true → exec i s = .next t → SameRegs s t [])) ∧
  (∀ w : Half, w.extractLsb' 12 4 = 5#4 ∧ w.getLsbD 3 = true ∨ w.extractLsb' 12 4 = 6#4 ∧ w.getLsbD 7 = true →
    decodeWords [w] = some (.illegalInstruction (.word Pfx.none w), 1)) ∧
  (∀ (p : Pfx) (i : BitVec 4), -(2 : Int) ^ (10 * p.m + 3) ≤ p.imm i ∧ p.imm i < 2 ^ (10 * p.m + 3)) ∧
  decodeWords [0x6300#16] = some (.cmpi Pfx.none 3#4 0#3 0#4, 1) ∧
  decodeWords [0xF006#16, 0x6124#16] = some (.cmpi { Pfx.none with imms := [6#10] } 1#4 2#3 4#4, 2)

/-- The AND of the S bits of a list of entries and of the spilled ones. -/
def Sys2Proof.Claims.allS (c : Ctx) (l : List PEntry) : Prop := c.pss = true ∧ ∀ e ∈ l, e.s = true

/-- Branches and jumps (R105, R106): B and J go to the target; CALL and CALLR put the next instruction's address in s14; BT
and BF pop the top and go to the target when the entries below are true and the top is true, or false, and on an empty stack trap
predicate underflow (0x0D), charged nothing (R92), or 0x15 where the entry read back holds an uncorrectable error (10 R244); JR, CALLR and RET go
to a register's even address; an odd one traps misaligned with the target in taddr, and s14 is not written (R57). -/
def Obligations.BranchResults : Prop :=
  (∀ p o s, s.issues (.b p o) .plain 1 0 = true →
    exec (.b p o) s = .next ((s.charged 1 0).jumped (s.ctx.pc + BitVec.ofInt 64 (2 * p.imm o)))) ∧
  (∀ p o s, s.issues (.j p o) .plain 1 0 = true →
    exec (.j p o) s = .next ((s.charged 1 0).jumped (s.ctx.pc + BitVec.ofInt 64 (2 * p.imm o)))) ∧
  (∀ p o s, s.issues (.call p o) .plain 1 0 = true →
    exec (.call p o) s = .next (((s.charged 1 0).ws 14 (s.ctx.pc + BitVec.ofNat 64 (2 * (Instr.call p o).ilen))).jumped
      (s.ctx.pc + BitVec.ofInt 64 (2 * p.imm o)))) ∧
  (∀ p o s e t, s.issues (.bt p o) .never 1 0 = true → s.spillBusy = false → (s.charged 1 0).pop = some (e, t) →
    (allS t.ctx t.ctx.pst ∧ e.s = true → exec (.bt p o) s = .next (t.jumped (s.ctx.pc + BitVec.ofInt 64 (2 * p.imm o)))) ∧
    (¬ (allS t.ctx t.ctx.pst ∧ e.s = true) → exec (.bt p o) s = .next (t.done (.bt p o)))) ∧
  (∀ p o s e t, s.issues (.bf p o) .never 1 0 = true → s.spillBusy = false → (s.charged 1 0).pop = some (e, t) →
    (allS t.ctx t.ctx.pst ∧ e.s = false → exec (.bf p o) s = .next (t.jumped (s.ctx.pc + BitVec.ofInt 64 (2 * p.imm o)))) ∧
    (¬ (allS t.ctx t.ctx.pst ∧ e.s = false) → exec (.bf p o) s = .next (t.done (.bf p o)))) ∧
  (∀ mk ∈ [Instr.bt, Instr.bf], ∀ p o s b bs x, s.issues (mk p o) .never 1 0 = true → s.ctx.paid = none → s.spillBusy = false →
    s.ctx.pst = b :: bs → 0 < s.ctx.spilled → x = spillKey s.tid s.ctx.pspill s.ctx.spilled → x / 64 ∈ s.poison →
    exec (mk p o) s = .next ((s.setCtx { s.ctx with wait := .none }).takeTrap ⟨0x15, BitVec.ofNat 64 x, 0#64, none⟩ (mk p o).ilen)) ∧
  (∀ mk ∈ [Instr.bt, Instr.bf], ∀ p o s, s.issues (mk p o) .never 1 0 = true → s.ctx.paid = none → s.spillBusy = false → s.ctx.pst = [] →
    exec (mk p o) s = .next ((s.setCtx { s.ctx with wait := .none }).takeTrap ⟨0x0D, s.ctx.pc, 0#64, none⟩ (mk p o).ilen)) ∧
  (∀ p d a s, s.issues (.jr p d a) .plain 1 0 = true → (s.rs (p.an a)).getLsbD 0 = false →
    exec (.jr p d a) s = .next ((s.charged 1 0).jumped (s.rs (p.an a)))) ∧
  (∀ p d a s, s.issues (.callr p d a) .plain 1 0 = true → (s.rs (p.an a)).getLsbD 0 = false →
    exec (.callr p d a) s = .next (((s.charged 1 0).ws 14 (s.ctx.pc + BitVec.ofNat 64 (2 * (Instr.callr p d a).ilen))).jumped
      (s.rs (p.an a)))) ∧
  (∀ p d a s, s.issues (.ret p d a) .plain 1 0 = true → (s.rs 14).getLsbD 0 = false →
    exec (.ret p d a) s = .next ((s.charged 1 0).jumped (s.rs 14))) ∧
  (∀ mk ∈ [Instr.jr, Instr.callr, Instr.ret], ∀ p d a s t, s.issues (mk p d a) .plain 1 0 = true → s.ctx.paid = none →
    t = (if mk p d a = .ret p d a then s.rs 14 else s.rs (p.an a)) → t.getLsbD 0 = true →
    exec (mk p d a) s = .next ((s.setCtx { s.ctx with wait := .none }).takeTrap ⟨4, t, 0#64, none⟩ (mk p d a).ilen))

/-! ### System functions, special registers, loads and stores (04 R93 to R98, R102 to R104) -/

/-! ### Traps (14 R337, R338, R342, R343) -/

/-- Trap entry: with TACT clear and an even tvec that is not 0, the trap registers, tstat (PMODE, TACT, ILEN), the mode and the
pc are as R337 says, and registers, stack, budgets and the rest of the machine are kept; else it is a double trap. -/
def Obligations.TrapEntry : Prop :=
  ∀ (s : State) (e : Err) (ilen : Nat), s.sid ≤ 10 → ilen ≤ 5 → e.log = none →
    (s.ctx.tstat.getLsbD 2 = false → s.ctx.tvec ≠ 0#64 → s.ctx.tvec.getLsbD 0 = false →
      ∃ t, s.takeTrap e ilen = t ∧ t.ctx.tpc = s.ctx.pc ∧ t.ctx.tcause = BitVec.ofNat 64 e.cause ∧ t.ctx.taddr = e.addr ∧
        t.ctx.tinfo = e.info ∧ t.ctx.tstat.extractLsb' 0 2 = s.ctx.mode ∧ t.ctx.tstat.getLsbD 2 = true ∧
        t.ctx.tstat.extractLsb' 4 3 = BitVec.ofNat 3 ilen ∧ t.ctx.tstat.extractLsb' 7 57 = 0#57 ∧
        t.ctx.mode = (if s.ctx.mode = 0#2 then 1#2 else s.ctx.mode) ∧ t.ctx.pc = s.ctx.tvec ∧
        t.ctx.pst = s.ctx.pst ∧ t.ctx.spilled = s.ctx.spilled ∧ t.ctx.ibud = s.ctx.ibud ∧ t.ctx.mbud = s.ctx.mbud ∧
        t.ctx.ks = s.ctx.ks ∧ t.ctx.fcsr = s.ctx.fcsr ∧ t.ctx.tvec = s.ctx.tvec ∧
        SameModule s t ∧ SameUnits s t ∧ SameSlots s t ∧ SameRegs s t []) ∧
    (s.ctx.tstat.getLsbD 2 = true ∨ s.ctx.tvec = 0#64 ∨ s.ctx.tvec.getLsbD 0 = true → s.takeTrap e ilen = s.doubleTrap e)

/-- A double trap: the context keeps its slot and every register, its trap registers keep the first trap, it issues no more,
and a fault record names it to the service tile of its die (R342): with fewer than 64 records not yet consumed, the record with
the faulting address, WHO (kind 7), the MTU's next fault id and the cycle is written into the ring's next place and the counter
is incremented; else it is held (R346). -/
def Obligations.DoubleTrap : Prop :=
  ∀ (s : State) (e : Err), s.cid < numCells → s.sid ≤ 10 →
    ∃ t, s.doubleTrap e = t ∧ t.ctx.double = true ∧ t.ctx.live = s.ctx.live ∧ t.ctx.pc = s.ctx.pc ∧ SameRegs s t [] ∧
      t.ctx.tpc = s.ctx.tpc ∧ t.ctx.tcause = s.ctx.tcause ∧ t.ctx.taddr = s.ctx.taddr ∧ t.ctx.tinfo = s.ctx.tinfo ∧
      t.ctx.tstat = s.ctx.tstat ∧ t.canRun = false ∧
      (∀ (m : Mtu) (n : Nat) (who : Word) (a : Nat), n = spanOf s.tid → m = s.mtu n →
        who = BitVec.ofNat 64 (s.cid % 65536 + s.sid * 2 ^ 16 + s.asid.toNat * 2 ^ 20 + 7 * 2 ^ 32) → a = m.fqb.toNat + 32 * (m.tail % 64) →
        (m.sent.length < 64 → ∃ u : State, t = u.bump (computeTiles + n / 4) (m.fqc.toNat % 1024) 1#32 0 0#32 0#32 ∧
          u.mtu n = { m with next := m.next + 1#32, sent := m.sent ++ [m.next], tail := m.tail + 1 } ∧
          (MemInv s → scratchBase ≤ m.fqb.toNat → (m.fqb.toNat - scratchBase) / scratchSize < numTiles →
            rd64 u.mem a = e.addr ∧ rd64 u.mem (a + 8) = who ∧ rdN u.mem (a + 16) 8 = m.next.toNat ∧ rd64 u.mem (a + 24) = s.cycle)) ∧
        (64 ≤ m.sent.length →
          t.mtu n = { m with next := m.next + 1#32, held := m.held ++ [(e.addr, who, m.next, s.cycle)] } ∧
          ∀ k, rd8 t.mem k = rd8 s.mem k))

/-- TRET in kernel or firmware mode with an even tpc: the mode is the lesser of PMODE and the mode, TACT is cleared, the pc goes
to tpc and the fetch buffer is emptied; an odd tpc traps misaligned; in user mode TRET traps privileged (R343). -/
def Obligations.TrapReturn : Prop :=
  (∀ p d a s, s.issues (.tret p d a) .plain 1 0 = true → s.ctx.user = false → s.ctx.tpc.getLsbD 0 = false →
    ∃ t, exec (.tret p d a) s = .next t ∧ t.ctx.pc = s.ctx.tpc ∧
      t.ctx.mode.toNat = min (s.ctx.tstat.extractLsb' 0 2).toNat s.ctx.mode.toNat ∧
      t.ctx.tstat = s.ctx.tstat &&& ~~~4#64 ∧ t.ctx.fbuf = none ∧ t.ctx.tpc = s.ctx.tpc ∧ t.ctx.tcause = s.ctx.tcause ∧
      t.ctx.pst = s.ctx.pst ∧ SameModule s t ∧ SameUnits s t ∧ SameSlots s t ∧ SameRegs s t []) ∧
  (∀ p d a s, s.issues (.tret p d a) .plain 1 0 = true → s.ctx.user = false → s.ctx.paid = none → s.ctx.tpc.getLsbD 0 = true →
    exec (.tret p d a) s = .next ((s.setCtx { s.ctx with wait := .none }).takeTrap ⟨4, s.ctx.tpc, 0#64, none⟩ (Instr.tret p d a).ilen)) ∧
  (∀ p d a s, s.canRun = true → interlocked (.tret p d a) s.ctx = false → (Instr.tret p d a).wf = true → s.ctx.user = true →
    exec (.tret p d a) s = .next (s.takeTrap ⟨3, s.ctx.pc, (Instr.tret p d a).tinfo, none⟩ (Instr.tret p d a).ilen)) ∧
  decodeWords [0xF9C0#16, 0x1001#16] = some (.tret { Pfx.none with p := some (7#4, 0#6) } 0#4 0#4, 2)

/-- NOP, HINT and RDCYC; YIELD makes the cell pass over the context, YIELD_PASS_END ends that; FENCE waits for the accesses that its release
covers, performs its acquire and empties the fetch buffer. A release covers an access of the context whose scope it spans: FENCE waits
while one is pending (R94, 11 R268); a relaxed FENCE waits for none. SYSC is charged 2 and takes the trap syscall (0x11) with n in
tinfo (R344). -/
def Obligations.SystemResults : Prop :=
  (((∀ p d a s, s.issues (.nop p d a) .plain 1 0 = true → exec (.nop p d a) s = .next ((s.charged 1 0).done (.nop p d a))) ∧
  (∀ p w s, s.issues (.hint p w) .never 1 0 = true → exec (.hint p w) s = .next ((s.charged 1 0).done (.hint p w))) ∧
  (∀ p d a s, s.issues (.rdcyc p d a) .plain 1 0 = true →
    exec (.rdcyc p d a) s = .next (((s.charged 1 0).ws (p.dn d) s.cycle).done (.rdcyc p d a))) ∧
  (∀ p d a s, s.issues (.yield p d a) .plain 1 0 = true →
    exec (.yield p d a) s = .next (((s.charged 1 0).setCtx { (s.charged 1 0).ctx with pass := true }).done (.yield p d a))) ∧
  (∀ s, s.ctx.live = true → s.ctx.pass = true → exec .yieldPassEnd s = .next (s.setCtx { s.ctx with pass := false })) ∧
  (∀ p d a s, s.issues (.fence p d a) .plain 1 0 = true → pRel p = true → pAcq p = false → s.released (pScope p) = true →
    exec (.fence p d a) s = .next (((s.charged 1 0).release (pScope p)).emptyFetch.done (.fence p d a))) ∧
  (∀ p d a s, s.issues (.fence p d a) .plain 1 0 = true → pRel p = false → pAcq p = false →
    exec (.fence p d a) s = .next ((s.charged 1 0).emptyFetch.done (.fence p d a))) ∧
  (∀ p d a s, s.issues (.fence p d a) .plain 1 0 = true → pRel p = true → s.released (pScope p) = true → pAcq p = true →
    exec (.fence p d a) s = .next ((((s.charged 1 0).release (pScope p)).acquire (pScope p)).emptyFetch.done (.fence p d a))) ∧
  (∀ p d a s, s.issues (.fence p d a) .plain 1 0 = true → pRel p = false → pAcq p = true →
    exec (.fence p d a) s = .next (((s.charged 1 0).acquire (pScope p)).emptyFetch.done (.fence p d a)))) ∧
  (∀ p d a s, s.issues (.fence p d a) .plain 1 0 = true → pRel p = true →
    (∃ x ∈ s.ctx.pend, x.scopeNo ≤ pScope p) →
    exec (.fence p d a) s = .next ((s.charged 1 0).setCtx ((s.charged 1 0).ctx.waitAs 1 0 .hold)))) ∧
  (∀ p n s, s.issues (.sysc p n) .plain 2 0 = true →
    exec (.sysc p n) s = .next ((s.charged 2 0).settle.takeTrap ⟨0x11, s.ctx.pc, n.setWidth 64, none⟩ (Instr.sysc p n).ilen))

/-- TRAP and BRK trap deliberately (R96): charged 1, cause 0x17 with s[a] in tinfo and 0x12 with n; tpc and taddr hold the address of the
first word, and with the words that tstat counts tpc comes to the following one; under a false guard they are charged 1 and do nothing. -/
def Obligations.DeliberateTraps : Prop :=
  (∀ p d a s, s.issues (.trap p d a) .plain 1 0 = true →
    exec (.trap p d a) s = .next ((s.charged 1 0).settle.takeTrap ⟨0x17, s.ctx.pc, s.rs (p.an a), none⟩ (Instr.trap p d a).ilen)) ∧
  (∀ p n s, s.issues (.brk p n) .plain 1 0 = true →
    exec (.brk p n) s = .next ((s.charged 1 0).settle.takeTrap ⟨0x12, s.ctx.pc, n.setWidth 64, none⟩ (Instr.brk p n).ilen)) ∧
  (∀ (i : Instr), ((∃ p d a, i = .trap p d a) ∨ ∃ p n, i = .brk p n) →
    (∀ s t, s.issues i .plain 1 0 = true → s.ctx.tstat.getLsbD 2 = false → s.ctx.tvec ≠ 0#64 → s.ctx.tvec.getLsbD 0 = false →
      exec i s = .next t → t.ctx.tpc = s.ctx.pc ∧ t.ctx.taddr = s.ctx.pc ∧ (∀ p n, i = .brk p n → t.ctx.tinfo = n.setWidth 64) ∧
        t.ctx.tpc + 2#64 * (t.ctx.tstat.extractLsb' 4 3).setWidth 64 = s.ctx.pc + BitVec.ofNat 64 (2 * i.ilen)) ∧
    (∀ s g c, s.canRun = true → interlocked i s.ctx = false → i.wf = true → issueGuard .plain (guardPfx i) s.ctx = some g →
      g.s = false → s.ctx.charge 1 0 = .inl c → exec i s = .next ((s.setCtx c).done i))) ∧
  decodeWords [0x02C6#16] = some (.brk Pfx.none 0x2C#8, 1)

/-! ### Special registers (04 R81 to R86, R97, R98) -/

/-- The value of each special register of Table 04-3. That pspill gives back all 64 bits that were written to it is log entry 34, that a
user's read of it gives 0, and that tstat keeps the bits 6:4 and 2:0 of a write, log entry 27: the model's choices. -/
def Sys2Proof.Claims.sprValues (s : State) : List (Nat × Word) :=
  [(0x000, s.cycle), (0x001, BitVec.ofNat 64 s.cid), (0x002, BitVec.ofNat 64 s.sid), (0x003, BitVec.ofNat 64 (s.cid / 16)),
   (0x004, s.fab.devid.setWidth 64), (0x008, s.myTile.asid.setWidth 64), (0x009, s.ctx.mode.setWidth 64),
   (0x010, (if s.ctx.ibud.unm then 1#1 else 0#1) ++ 0#31 ++ s.ctx.ibud.count),
   (0x011, (if s.ctx.mbud.unm then 1#1 else 0#1) ++ 0#31 ++ s.ctx.mbud.count),
   (0x012, s.ctx.cont), (0x013, s.ctx.cmask.setWidth 64), (0x014, s.ctx.bpol.setWidth 64), (0x015, s.ctx.iallow.setWidth 64),
   (0x016, s.ctx.mallow.setWidth 64), (0x020, s.ctx.fcsr.setWidth 64), (0x021, s.ctx.vcnt.setWidth 64),
   (0x022, s.ctx.gmode.setWidth 64), (0x023, (s.quart (s.cid / 4)).vshare.setWidth 64), (0x030, BitVec.ofNat 64 s.ctx.pdepth),
   (0x040, s.ctx.tpc), (0x041, s.ctx.tcause), (0x042, s.ctx.taddr), (0x043, s.ctx.tinfo), (0x044, s.ctx.tvec), (0x045, s.ctx.tstat),
   (0x048, s.ctx.ks[0]), (0x049, s.ctx.ks[1]), (0x04A, s.ctx.ks[2]), (0x04B, s.ctx.ks[3]),
   (0x031, if s.ctx.user then 0#64 else s.ctx.pspill), (0x060, s.pstat), (0x070, s.bchan s.cid)] ++
  (List.range 8).map fun w => (0x050 + w, (vget s.myTile.win w 0#128).extractLsb' 0 64)

/-- What each write of a special register stores: the field's low bits, one register per tile for asid, whose write changes the
tile's address space, and per quartet for vshare; all 64 bits of pspill (log entry 34) and bits 6:4 and 2:0 of tstat (log entry 27), the
model's choices. -/
def Sys2Proof.Claims.sprStores (u : State) (v : Word) : List (Nat × State) :=
  [(0x008, u.enterSpace u.tid (v.extractLsb' 0 12)),
   (0x010, u.setCtx { u.ctx with ibud := ⟨v.getLsbD 63, v.extractLsb' 0 32⟩ }),
   (0x011, u.setCtx { u.ctx with mbud := ⟨v.getLsbD 63, v.extractLsb' 0 32⟩ }),
   (0x014, u.setCtx { u.ctx with bpol := v.extractLsb' 0 2 }), (0x015, u.setCtx { u.ctx with iallow := v.extractLsb' 0 32 }),
   (0x016, u.setCtx { u.ctx with mallow := v.extractLsb' 0 32 }), (0x020, u.setCtx { u.ctx with fcsr := v.extractLsb' 0 8 }),
   (0x021, u.setCtx { u.ctx with vcnt := v.extractLsb' 0 32 }), (0x022, u.setCtx { u.ctx with gmode := v.extractLsb' 0 2 }),
   (0x023, u.setQuart (u.cid / 4) { u.quart (u.cid / 4) with vshare := v.extractLsb' 0 16 }),
   (0x031, u.setCtx { u.ctx with pspill := v }), (0x040, u.setCtx { u.ctx with tpc := v }), (0x041, u.setCtx { u.ctx with tcause := v }),
   (0x042, u.setCtx { u.ctx with taddr := v }), (0x043, u.setCtx { u.ctx with tinfo := v }), (0x044, u.setCtx { u.ctx with tvec := v }),
   (0x045, u.setCtx { u.ctx with tstat := v &&& 0x77#64 })] ++
  (List.range 4).map fun k => (0x048 + k, u.setCtx { u.ctx with ks := vset u.ctx.ks k v })

/-- MFS: s[d] gets the register's value, and 0 for a number that no table lists; fcsr once the context's vector and matrix instructions have
completed. `u` is the state after the charge. A tile whose address space changes ends the stream bindings of its cells (08 R207), zeroes
their latches (09 R223) and clears its out-of-bounds counter (06 R148); the same space again changes nothing; a running tile then takes
what was logged for the space. MTS in kernel or firmware mode writes the register and nothing else; in user mode it writes
fcsr, vcnt and gmode; a write of a register of code r or of an unlisted number is ignored in every mode. A write of another asid waits
for the pushed units of the tile's write streams. What pspill and tstat keep of a write and give back to a read is the model's choice (log
entries 34 and 27). -/
def Obligations.SpecialRegisters : Prop :=
  ((∀ p d a s u n v, u = s.charged 1 0 → s.issues (.mfs p d a) .plain 1 0 = true →
    ((BitVec.ofInt 64 p.imm0).extractLsb' 4 6).toNat * 16 + a.toNat = n → (n, v) ∈ sprValues u →
    (s.ctx.user = true → n < 0x040 ∨ 0x050 ≤ n) → (n = 0x020 → u.flagsIn = true) →
    exec (.mfs p d a) s = .next ((u.ws (p.dn d) v).done (.mfs p d a))) ∧
  (∀ p d a s u n, u = s.charged 1 0 → s.issues (.mfs p d a) .plain 1 0 = true →
    ((BitVec.ofInt 64 p.imm0).extractLsb' 4 6).toNat * 16 + a.toNat = n →
    (5 ≤ n ∧ n < 8 ∨ 0x00A ≤ n ∧ n < 0x010 ∨ 0x017 ≤ n ∧ n < 0x020 ∨ 0x024 ≤ n ∧ n < 0x030 ∨ 0x032 ≤ n ∧ n < 0x040 ∨
      0x046 ≤ n ∧ n < 0x048 ∨ 0x04C ≤ n ∧ n < 0x050 ∨ 0x058 ≤ n ∧ n < 0x060 ∨ 0x061 ≤ n ∧ n < 0x070 ∨ 0x071 ≤ n) →
    exec (.mfs p d a) s = .next ((u.ws (p.dn d) 0#64).done (.mfs p d a)))) ∧
  ((∀ p d a s u n t, u = s.charged 1 0 → s.issues (.mts p d a) .plain 1 0 = true →
    ((BitVec.ofInt 64 p.imm0).extractLsb' 4 6).toNat * 16 + a.toNat = n → (n, t) ∈ sprStores u (s.rs (p.dn d)) →
    (s.ctx.user = true → n = 0x020 ∨ n = 0x021 ∨ n = 0x022) → (n = 0x020 → u.flagsIn = true) →
    (n = 0x008 → u.tilePushes u.tid = false ∨ t.asid = u.asid) →
    exec (.mts p d a) s = .next (t.done (.mts p d a))) ∧
  (∀ p d a s u n, u = s.charged 1 0 → s.issues (.mts p d a) .plain 1 0 = true →
    ((BitVec.ofInt 64 p.imm0).extractLsb' 4 6).toNat * 16 + a.toNat = n →
    (n < 8 ∨ 9 ≤ n ∧ n < 0x010 ∨ n = 0x012 ∨ n = 0x013 ∨ 0x017 ≤ n ∧ n < 0x020 ∨ 0x024 ≤ n ∧ n < 0x031 ∨
      0x032 ≤ n ∧ n < 0x040 ∨ 0x046 ≤ n ∧ n < 0x048 ∨ 0x04C ≤ n) →
    exec (.mts p d a) s = .next (u.done (.mts p d a)))) ∧
  (∀ (s t : State) (n : Nat) (a : BitVec 12), t = s.changeSpace n a → (s.asidOf n = a → t = s) ∧
    (s.asidOf n ≠ a → t.asidOf n = a ∧ (t.tile n).oob = 0#64 ∧ (∀ a, rd8 t.mem a = rd8 s.mem a) ∧
      (∀ c, c / 16 = n → t.cell c = { s.cell c with strm := Vector.replicate 4 none, latch := Latch.reset }) ∧
      (∀ c, c / 16 ≠ n → t.cell c = s.cell c) ∧ ∀ k, k ≠ n → t.tile k = s.tile k)) ∧
  (∀ (s : State) (n : Nat) (a : BitVec 12), (s.tile n).run ≠ .running ∨ (s.loggedFor n a.toNat = [] ∧ (s.tile n).ingress = none) →
    s.enterSpace n a = s.changeSpace n a)

/-- RDCYC writes the cycle counter at its issue to s[d], whatever a is; `rdcyc s5` is 0x0509; it reads what MFS of number 0 reads. -/
def Obligations.ReadCycle : Prop :=
  (∀ p d a s, s.issues (.rdcyc p d a) .plain 1 0 = true → ∃ t, exec (.rdcyc p d a) s = .next t ∧ t.rs (p.dn d) = s.cycle) ∧
  decodeWords [0x0509#16] = some (.rdcyc Pfx.none 5#4 0#4, 1) ∧
  (∀ d s, s.issues (.rdcyc Pfx.none d 0#4) .plain 1 0 = true → s.issues (.mfs Pfx.none d 0#4) .plain 1 0 = true →
    exec (.mfs Pfx.none d 0#4) s = exec (.rdcyc Pfx.none d 0#4) s)

/-! ### Loads and stores (04 R102 to R104, 10 R241 to R243, 11 R266) -/

/-- The state once the release of an access is done (11 R268, R272). -/
def Sys2Proof.Claims.released (p : Pfx) (u : State) : State := if pRel p then u.release (pScope p) else u

/-- A page-0 load of `n` bytes into `d`, when its address is aligned and readable and its release is done: the access is issued;
no register is written yet. A load through a format window takes its value at issue (log entry 21, the model's choice). -/
def Sys2Proof.Claims.LoadIssues (i : Instr) (p : Pfx) (d : BitVec 4) (va : Word) (n : Nat) (signed : Bool) (s : State) : Prop :=
  ∀ u v, u = s.charged 1 (traffic s va n) → v = released p u → s.issues i .plain 1 (traffic s va n) = true → va.toNat % n = 0 →
    u.ctx.vmemPending = false → (pRel p = true → u.released (pScope p) = true) →
    (∀ pa cached sc, v.access v.cid v.ctx.user .read va.toNat n = .mem pa cached sc →
      exec i s = .next ((v.addPend (.load pa n signed cached (p.dn d) sc (if pAcq p then some (pScope p) else none) none)).done i)) ∧
    (∀ w off bs, v.access v.cid v.ctx.user .read va.toNat n = .win w off → v.ctx.acqPending = false →
      winRead v v.tid v.ctx.user v.pendTouches w off n va = .ok bs →
      exec i s = .next (((v.touchWin w off n va).addPend (.load 0 0 signed false (p.dn d) 1 (if pAcq p then some (pScope p) else none)
        (some (extend signed n (leNat bs))))).done i))

/-- LD and the LDX loads (R103, R104): an aligned and readable load at s[a] plus its immediate is issued with its size, extension, destination
and acquire; the register is written when the access completes. That a load through a format window takes its value at issue is the model's
choice (log entry 21). -/
def Obligations.LoadResults : Prop :=
  (∀ p d a i s, s.sid ≤ 10 → LoadIssues (.ld p d a i) p d (s.rs (p.an a) + BitVec.ofInt 64 (8 * p.immF3 i)) 8 false s) ∧
  (∀ p d a s, s.sid ≤ 10 → LoadIssues (.lb p d a) p d (s.rs (p.an a) + p.immW) 1 true s) ∧
  (∀ p d a s, s.sid ≤ 10 → LoadIssues (.lbu p d a) p d (s.rs (p.an a) + p.immW) 1 false s) ∧
  (∀ p d a s, s.sid ≤ 10 → LoadIssues (.lh p d a) p d (s.rs (p.an a) + p.immW) 2 true s) ∧
  (∀ p d a s, s.sid ≤ 10 → LoadIssues (.lhu p d a) p d (s.rs (p.an a) + p.immW) 2 false s) ∧
  (∀ p d a s, s.sid ≤ 10 → LoadIssues (.lw p d a) p d (s.rs (p.an a) + p.immW) 4 true s) ∧
  (∀ p d a s, s.sid ≤ 10 → LoadIssues (.lwu p d a) p d (s.rs (p.an a) + p.immW) 4 false s)

/-- A page-0 store of the low `n` bytes of s[d], when its address is aligned and writable: the access is issued with the bytes that it
will store, and no byte of memory changes yet. With an acquire part (log entry 11, the model's choice) it waits for the context's
accesses and its pushed units to those bytes, and is performed at once. A store through a format window is encoded, and raises its flags,
at issue (log entry 21, the model's choice). -/
def Sys2Proof.Claims.StoreIssues (i : Instr) (p : Pfx) (d : BitVec 4) (va : Word) (n : Nat) (s : State) : Prop :=
  ∀ u v, u = s.charged 1 (traffic s va n) → v = released p u → s.issues i .plain 1 (traffic s va n) = true → va.toNat % n = 0 →
    u.ctx.vmemPending = false → (pRel p = true → u.released (pScope p) = true) →
    (∀ pa cached sc, pAcq p = true → v.ctx.pend = [] → v.access v.cid v.ctx.user .write va.toNat n = .mem pa cached sc →
      v.pendMeets (wbytes pa (leBytes n (s.rs (p.dn d)).toNat)) = false → ∃ t,
      exec i s = .next t ∧ t = (((v.raise 0#5).write v.tid (wbytes pa (leBytes n (s.rs (p.dn d)).toNat))).acquire (pScope p)).done i ∧
      (s.flaws = [] → (∀ a, a < pa ∨ pa + n ≤ a → rd8 t.mem a = rd8 s.mem a) ∧ SameRegs s t [])) ∧
    (∀ x, pAcq p = true → v.storePiece va (leBytes n (s.rs (p.dn d)).toNat) = .ok x → v.ctx.pend ≠ [] ∨ v.pendMeets x.1 = true →
      exec i s = .next (u.setCtx (u.ctx.waitAs 1 (traffic s va n) .hold))) ∧
    (∀ pa cached sc, pAcq p = false → v.access v.cid v.ctx.user .write va.toNat n = .mem pa cached sc → ∃ t, exec i s = .next t ∧
      t = ((v.addPend (.store (wbytes pa (leBytes n (s.rs (p.dn d)).toNat)) sc .plain)).raise 0#5).done i ∧
      (∀ a, rd8 t.mem a = rd8 s.mem a) ∧ SameRegs s t []) ∧
    (∀ w off bs f, pAcq p = false → v.ctx.acqPending = false → v.access v.cid v.ctx.user .write va.toNat n = .win w off →
      winWrite v v.tid v.ctx v.pendTouches w off va (leBytes n (s.rs (p.dn d)).toNat) = .ok (bs, f) →
      exec i s = .next ((((v.touchPut va n).addPend (.store bs 1 .plain)).raise f).done i))

/-- ST, SB, SH and SW (R103, R104): an aligned and writable store is issued with the low bytes of s[d] at its address, no byte of memory
changing yet; with an acquire part (log entry 11, the model's choice) it waits for the accesses of its context and is performed at once. A
store through a format window raises its flags at issue (log entry 21, the model's choice). -/
def Obligations.StoreResults : Prop :=
  (∀ p d a i s, s.sid ≤ 10 → StoreIssues (.st p d a i) p d (s.rs (p.an a) + BitVec.ofInt 64 (8 * p.immF3 i)) 8 s) ∧
  (∀ p d a s, s.sid ≤ 10 → StoreIssues (.sb p d a) p d (s.rs (p.an a) + p.immW) 1 s) ∧
  (∀ p d a s, s.sid ≤ 10 → StoreIssues (.sh p d a) p d (s.rs (p.an a) + p.immW) 2 s) ∧
  (∀ p d a s, s.sid ≤ 10 → StoreIssues (.sw p d a) p d (s.rs (p.an a) + p.immW) 4 s)

/-- LOAD_COMPLETE writes the register of an access that no earlier one of the context overlaps and no earlier acquire covers: from the
cell's L1 when the access is cached and the line is there, else from memory, the line then allocated (10 R242); an uncached read leaves no
copy of its line in the tile's L1s (11 R266, log entry 20); every other register and every byte of memory stays. A transient correctable
error of its line is corrected, retried once and entered in the tile's error log (10 R244, 14 R360). STORE_PERFORMED writes exactly the
bytes of the access, little-endian from its address, once no earlier access of the context overlaps them; every other byte, every register
and every flag stays, and the tile's L1s lose those lines. -/
def Obligations.AccessesPerformed : Prop :=
  (∀ (s : State) (pa n : Nat) (signed cached : Bool) (d sc : Nat), s.sid ≤ 10 → d < 16 →
    n = 1 ∨ n = 2 ∨ n = 4 ∨ n = 8 → pa % n = 0 → s.flaws = [] →
    s.ctx.pend[s.sel.k]? = some (.load pa n signed cached d sc none none) → s.inOrder s.sel.k = true →
    ∃ t, exec .loadComplete s = .next t ∧ t.rs d = extend signed n (leNat (s.seen s.cid cached pa n)) ∧
      SameRegs s t [d] ∧ (∀ a, rd8 t.mem a = rd8 s.mem a) ∧ SameSlots s t ∧ t.ctx.pend = s.ctx.pend.eraseIdx s.sel.k ∧ t.ctx.pc = s.ctx.pc ∧
      t.ctx.pst = s.ctx.pst ∧ t.ctx.fcsr = s.ctx.fcsr ∧ (cached = true → SameModule s t ∧ ∃ l ∈ t.myCell.l1, l.line = pa / 64) ∧
      (cached = false → ∀ c, c ≠ s.cid → { t.cell c with l1 := (s.cell c).l1 } = s.cell c) ∧
      (cached = false → ∀ c l, c / 16 = s.tid → l ∈ (t.cell c).l1 → l.line ≠ pa / 64)) ∧
  (∀ (s : State) (pa n : Nat) (signed : Bool) (d sc : Nat), s.sid ≤ 10 → d < 16 →
    n = 1 ∨ n = 2 ∨ n = 4 ∨ n = 8 → pa % n = 0 → s.flaws = [(.line (pa / 64), false)] →
    s.ctx.pend[s.sel.k]? = some (.load pa n signed false d sc none none) → s.inOrder s.sel.k = true →
    ∃ t, exec .loadComplete s = .next t ∧ t.rs d = extend signed n (leNat (rdBytes s.mem pa n)) ∧ t.flaws = [] ∧
      t.myTile.elogT = incSat s.myTile.elogT ∧ t.myTile.elogL = s.myTile.elogL ∧ SameRegs s t [d] ∧ (∀ a, rd8 t.mem a = rd8 s.mem a)) ∧
  (∀ (s : State) (pa n x sc : Nat) (k : StKind), s.sid ≤ 10 → MemInv s → s.flaws = [] →
    s.ctx.pend[s.sel.k]? = some (.store (wbytes pa (leBytes n x)) sc k) → s.inOrder s.sel.k = true →
    ∃ t, exec .storePerformed s = .next t ∧ rdBytes t.mem pa n = leBytes n x ∧
      (∀ a, a < pa ∨ pa + n ≤ a → rd8 t.mem a = rd8 s.mem a) ∧ SameRegs s t [] ∧ t.ctx.fcsr = s.ctx.fcsr ∧ t.ctx.pst = s.ctx.pst ∧
      t.ctx.pend = s.ctx.pend.eraseIdx s.sel.k ∧
      (∀ c l, c / 16 = s.tid → l ∈ (t.cell c).l1 → ∀ a, pa ≤ a → a < pa + n → l.line ≠ a / 64))

/-- BTOP, MBANK and the page-7 functions that only kernel mode may run trap privileged (0x03) in user mode, with tinfo as R60 lays it out,
before any charge. Words that are no instruction trap before any charge: an unlisted base word with cause 0x01 and its length, an illegal
chain with cause 0x02 and length 0 (R58, R48, R60). A user access that the code of Table 04-3 does not permit traps privileged with the
number in tinfo, before any charge and before a guard's underflow (14 R340): a read of a kernel register, a write of a kernel or
kernel-written one (R81, R97). A load or store at an address that its size does not divide traps misaligned with the address in taddr,
charged nothing (R102): LDX loads and stores of 2 and 4 bytes, LD and ST. -/
def Obligations.EncodingTraps : Prop :=
  ((∀ i, ((∃ mk ∈ [Instr.tret, Instr.tlbinv, Instr.regrd, Instr.btop, Instr.mbankSel, Instr.mbankSpill, Instr.mbankFill], ∃ p d a, i = mk p d a) ∨
      (∃ mk ∈ [Instr.ctxsvCtx, Instr.ctxsvCell, Instr.ctxsvTile, Instr.ctxldCtx, Instr.ctxldCell, Instr.ctxldTile, Instr.ctxldReg,
        Instr.pmreqCtx, Instr.pmreqStop, Instr.pmreqGo, Instr.pmreqFrame, Instr.gangstopStop, Instr.gangstopRestart],
        ∃ p a, i = mk p a)) →
    ∀ s, s.canRun = true → interlocked i s.ctx = false → i.wf = true → s.ctx.user = true →
      exec i s = .next (s.takeTrap ⟨3, s.ctx.pc, i.tinfo, none⟩ i.ilen)) ∧
  ((∀ p w s, s.canRun = true → interlocked (.illegalInstruction (.word p w)) s.ctx = false →
    exec (.illegalInstruction (.word p w)) s = .next (s.takeTrap ⟨1, s.ctx.pc, 0#38 ++ p.fx ++ BitVec.ofNat 4 p.page ++ w, none⟩ (p.count + 1))) ∧
  (∀ pos w s, s.canRun = true → interlocked (.illegalInstruction (.chain pos w)) s.ctx = false →
    exec (.illegalInstruction (.chain pos w)) s = .next (s.takeTrap ⟨2, s.ctx.pc, 0#45 ++ pos ++ w, none⟩ 0))) ∧
  ((∀ p d a s n, s.canRun = true → interlocked (.mfs p d a) s.ctx = false → (Instr.mfs p d a).wf = true → s.ctx.user = true → s.ctx.paid = none →
    (∀ g, issueGuard .plain (guardPfx (.mfs p d a)) s.ctx = some g → g.s = true) →
    ((BitVec.ofInt 64 p.imm0).extractLsb' 4 6).toNat * 16 + a.toNat = n →
    (n ∈ [0x040, 0x041, 0x042, 0x043, 0x044, 0x045, 0x048, 0x049, 0x04A, 0x04B]) →
    exec (.mfs p d a) s = .next (s.takeTrap ⟨3, s.ctx.pc, BitVec.ofNat 64 n, none⟩ (Instr.mfs p d a).ilen)) ∧
  (∀ p d a s n, s.canRun = true → interlocked (.mts p d a) s.ctx = false → (Instr.mts p d a).wf = true → s.ctx.user = true → s.ctx.paid = none →
    (∀ g, issueGuard .plain (guardPfx (.mts p d a)) s.ctx = some g → g.s = true) →
    ((BitVec.ofInt 64 p.imm0).extractLsb' 4 6).toNat * 16 + a.toNat = n →
    (n ∈ [0x008, 0x010, 0x011, 0x014, 0x015, 0x016, 0x023, 0x031, 0x040, 0x041, 0x042, 0x043, 0x044, 0x045, 0x048, 0x049, 0x04A, 0x04B]) →
    exec (.mts p d a) s = .next (s.takeTrap ⟨3, s.ctx.pc, BitVec.ofNat 64 n, none⟩ (Instr.mts p d a).ilen)))) ∧
  ((∀ p d a i s, s.issues (.ld p d a i) .plain 1 0 = true → s.ctx.paid = none →
    (s.rs (p.an a) + BitVec.ofInt 64 (8 * p.immF3 i)).toNat % 8 ≠ 0 →
    exec (.ld p d a i) s = .next ((s.setCtx { s.ctx with wait := .none }).takeTrap
      ⟨4, s.rs (p.an a) + BitVec.ofInt 64 (8 * p.immF3 i), 0#64, none⟩ (Instr.ld p d a i).ilen)) ∧
  (∀ p d a i s, s.issues (.st p d a i) .plain 1 0 = true → s.ctx.paid = none →
    (s.rs (p.an a) + BitVec.ofInt 64 (8 * p.immF3 i)).toNat % 8 ≠ 0 →
    exec (.st p d a i) s = .next ((s.setCtx { s.ctx with wait := .none }).takeTrap
      ⟨4, s.rs (p.an a) + BitVec.ofInt 64 (8 * p.immF3 i), 0#64, none⟩ (Instr.st p d a i).ilen)) ∧
  (∀ mk n, (mk, n) ∈ [(Instr.lh, 2), (Instr.lhu, 2), (Instr.sh, 2), (Instr.lw, 4), (Instr.lwu, 4), (Instr.sw, 4)] →
    ∀ p d a s, s.issues (mk p d a) .plain 1 0 = true → s.ctx.paid = none → (s.rs (p.an a) + p.immW).toNat % n ≠ 0 →
    exec (mk p d a) s = .next ((s.setCtx { s.ctx with wait := .none }).takeTrap ⟨4, s.rs (p.an a) + p.immW, 0#64, none⟩ (mk p d a).ilen)))

/-! ### Scalar floating point (07 R165 to R171, R189 to R193) -/

/-- The format that fx 5 selects, and an operand's code in it. -/
def Sys2Proof.Claims.fmtOf (p : Pfx) : FFmt := if p.fx.getLsbD 5 then fmtF64 else fmtF32
def Sys2Proof.Claims.low (f : FFmt) (w : Word) : Nat := w.toNat % 2 ^ f.bits

/-- A page-8 instruction of charge `n` completes: s[d] gets the result's code with the higher bits 0, and fcsr takes in the flags. -/
def Sys2Proof.Claims.FDone (i : Instr) (p : Pfx) (d : BitVec 4) (n : Nat) (r : Nat × FFlags) (s : State) : Prop :=
  exec i s = .next ((((s.charged n 0).ws (p.dn d) (BitVec.ofNat 64 r.1)).raise r.2).done i)

def Sys2Proof.Claims.F2 (mk : Pfx → BitVec 4 → BitVec 4 → Instr) (n : Nat) (f : FFmt → RM → Nat → Nat → Nat × FFlags) : Prop :=
  ∀ p d a s, s.issues (mk p d a) .plain n 0 = true →
    FDone (mk p d a) p d n (f (fmtOf p) (roundMode p s) (low (fmtOf p) (srcX p d a s)) (low (fmtOf p) (srcY p a s))) s
def Sys2Proof.Claims.F1 (mk : Pfx → BitVec 4 → BitVec 4 → Instr) (n : Nat) (f : FFmt → RM → Nat → Nat × FFlags) : Prop :=
  ∀ p d a s, s.issues (mk p d a) .plain n 0 = true →
    FDone (mk p d a) p d n (f (fmtOf p) (roundMode p s) (low (fmtOf p) (s.rs (p.an a)))) s

/-- A finite value in units of `2^e0`, exact when e0 is at most its exponent. -/
def Sys2Proof.Claims.scaled (e0 : Int) (neg : Bool) (m : Nat) (e : Int) : Int := (if neg then -1 else 1) * m * 2 ^ (e - e0).toNat

/-- The exact results of R190. A sum, difference, product or fused sum of finite operands is the rounding of any value that equals it; a
quotient is the rounding of its first k bits with a sticky bit below them, for every k that is enough, and so a square root; what is
invalid gives the canonical NaN with NV, a finite value other than 0 divided by 0 an infinity with DZ; a NaN operand, first or second, gives
the canonical NaN, NV when one is signalling. -/
def Sys2Proof.Claims.FloatExact (f : FFmt) (mode : RM) (x y : Nat) : Prop :=
  (((f.decode x).isNaN = true ∨ (f.decode y).isNaN = true) → ∀ g ∈ [fadd, fsub, fmul, fdiv],
    g f mode x y = (f.canonNaN, if (f.decode x).isSig = true ∨ (f.decode y).isSig = true then fNV else 0#5)) ∧
  (∀ n1 m1 e1 n2 m2 e2, f.decode x = .fin n1 m1 e1 → f.decode y = .fin n2 m2 e2 →
    (∀ n m e e0, e0 = min e (min e1 e2) → m ≠ 0 →
      (scaled e0 n m e = scaled e0 n1 m1 e1 + scaled e0 n2 m2 e2 → fadd f mode x y = roundVal f mode (.fin n m e)) ∧
      (scaled e0 n m e = scaled e0 n1 m1 e1 - scaled e0 n2 m2 e2 → fsub f mode x y = roundVal f mode (.fin n m e))) ∧
    (scaled (min e1 e2) n1 m1 e1 + scaled (min e1 e2) n2 m2 e2 = 0 →
      fadd f mode x y = (f.withSign (mode == .rdn || (m1 == 0 && n1 && n2)) 0, 0#5)) ∧
    (scaled (min e1 e2) n1 m1 e1 = scaled (min e1 e2) n2 m2 e2 →
      fsub f mode x y = (f.withSign (mode == .rdn || (m1 == 0 && n1 && !n2)) 0, 0#5)) ∧
    (∀ m e e0, e0 = min e (e1 + e2) → m * 2 ^ (e - e0).toNat = m1 * m2 * 2 ^ (e1 + e2 - e0).toNat →
      fmul f mode x y = roundVal f mode (.fin (n1 != n2) m e)) ∧
    (m2 ≠ 0 → ∀ k, f.frac + 4 + m2.log2 ≤ k → fdiv f mode x y =
      roundVal f mode (.fin (n1 != n2) (2 * (m1 * 2 ^ k / m2) + (if m1 * 2 ^ k % m2 = 0 then 0 else 1)) (e1 - e2 - k - 1))) ∧
    (m2 = 0 → fdiv f mode x y = if m1 = 0 then (f.canonNaN, fNV) else (f.withSign (n1 != n2) f.infCode, fDZ)) ∧
    (∀ d n3 m3 e3, f.decode d = .fin n3 m3 e3 → ∀ n m e e0, e0 = min e (min e3 (e1 + e2)) → m ≠ 0 →
      scaled e0 n m e = scaled e0 n3 m3 e3 + scaled e0 (n1 != n2) (m1 * m2) (e1 + e2) →
      ffma f mode d x y = roundVal f mode (.fin n m e))) ∧
  (∀ n1 n2, f.decode x = .inf n1 → f.decode y = .inf n2 → fadd f mode x y = (if n1 = n2 then (x, 0#5) else (f.canonNaN, fNV)) ∧
    fsub f mode x y = (if n1 = n2 then (f.canonNaN, fNV) else (x, 0#5)) ∧ fdiv f mode x y = (f.canonNaN, fNV) ∧
    fmul f mode x y = (f.withSign (n1 != n2) f.infCode, 0#5)) ∧
  (∀ n1 n2 m2 e2, f.decode x = .inf n1 → f.decode y = .fin n2 m2 e2 → fadd f mode x y = (x, 0#5) ∧ fsub f mode x y = (x, 0#5) ∧
    fdiv f mode x y = (f.withSign (n1 != n2) f.infCode, 0#5) ∧
    fmul f mode x y = (if m2 = 0 then (f.canonNaN, fNV) else (f.withSign (n1 != n2) f.infCode, 0#5)) ∧
    (m2 = 0 → ∀ d, ffma f mode d x y = (f.canonNaN, fNV))) ∧
  (∀ n1 m1 e1 n2, f.decode x = .fin n1 m1 e1 → f.decode y = .inf n2 → fadd f mode x y = (y, 0#5) ∧
    fsub f mode x y = (f.withSign (!n2) f.infCode, 0#5) ∧ fdiv f mode x y = (f.withSign (n1 != n2) 0, 0#5) ∧
    fmul f mode x y = (if m1 = 0 then (f.canonNaN, fNV) else (f.withSign (n1 != n2) f.infCode, 0#5))) ∧
  (∀ m e k r m0 e0, f.decode x = .fin false m e → m ≠ 0 → (m0, e0) = (if e % 2 = 0 then (m, e) else (2 * m, e - 1)) → f.frac + 4 ≤ k →
    r * r ≤ m0 * 2 ^ (2 * k) → m0 * 2 ^ (2 * k) < (r + 1) * (r + 1) →
    fsqrt f mode x = roundVal f mode (.fin false (2 * r + (if r * r = m0 * 2 ^ (2 * k) then 0 else 1)) (e0 / 2 - k - 1))) ∧
  (∀ n e, f.decode x = .fin n 0 e → fsqrt f mode x = (x, 0#5)) ∧
  (∀ m e, f.decode x = .fin true m e → m ≠ 0 → fsqrt f mode x = (f.canonNaN, fNV)) ∧
  (∀ n, f.decode x = .inf n → fsqrt f mode x = if n then (f.canonNaN, fNV) else (x, 0#5)) ∧
  (∀ s, f.decode x = .nan s → fsqrt f mode x = (f.canonNaN, if s then fNV else 0#5))

/-- A product that is no number: infinity times zero. -/
def Sys2Proof.Claims.InfZero (a b : Val) : Prop := a.isInf = true ∧ b.isZero = true ∨ a.isZero = true ∧ b.isInf = true

/-- FMA beside the finite sum other than 0 (R190): infinity times zero is invalid, with any addend; else a NaN operand gives the canonical
NaN, NV when one is signalling; an infinite product or addend gives that infinity, two of opposite signs are invalid; an exact zero sum is
+0, or -0 under RDN or when product and addend are -0. -/
def Sys2Proof.Claims.FmaSpecials (f : FFmt) (mode : RM) (d x y : Nat) : Prop :=
  (InfZero (f.decode x) (f.decode y) → ffma f mode d x y = (f.canonNaN, fNV)) ∧
  (¬ InfZero (f.decode x) (f.decode y) →
    ((f.decode d).isNaN = true ∨ (f.decode x).isNaN = true ∨ (f.decode y).isNaN = true → ffma f mode d x y = (f.canonNaN,
      if (f.decode d).isSig = true ∨ (f.decode x).isSig = true ∨ (f.decode y).isSig = true then fNV else 0#5)) ∧
    ((f.decode x).isNaN = false → (f.decode y).isNaN = false → (f.decode x).isInf = true ∨ (f.decode y).isInf = true →
      ∀ n, n = ((f.decode x).neg != (f.decode y).neg) →
      (∀ n3 m3 e3, f.decode d = .fin n3 m3 e3 → ffma f mode d x y = (f.withSign n f.infCode, 0#5)) ∧
      (∀ n3, f.decode d = .inf n3 → ffma f mode d x y = if n3 = n then (f.withSign n f.infCode, 0#5) else (f.canonNaN, fNV)))) ∧
  (∀ n1 m1 e1 n2 m2 e2, f.decode x = .fin n1 m1 e1 → f.decode y = .fin n2 m2 e2 →
    (∀ n3, f.decode d = .inf n3 → ffma f mode d x y = (f.withSign n3 f.infCode, 0#5)) ∧
    (∀ n3 m3 e3 e0, f.decode d = .fin n3 m3 e3 → e0 = min e3 (e1 + e2) →
      scaled e0 n3 m3 e3 + scaled e0 (n1 != n2) (m1 * m2) (e1 + e2) = 0 →
      ffma f mode d x y = (f.withSign (mode == .rdn || (m3 == 0 && n3 && (n1 != n2))) 0, 0#5)))

/-- The order and the equality of two values that are no NaN: -0 and +0 are equal. -/
def Sys2Proof.Claims.ValLess : Val → Val → Prop
  | .fin n1 m1 e1, .fin n2 m2 e2 => scaled (min e1 e2) n1 m1 e1 < scaled (min e1 e2) n2 m2 e2
  | .inf n1, .inf n2 => n1 = true ∧ n2 = false
  | .inf n, .fin .. => n = true
  | .fin .., .inf n => n = false
  | _, _ => False
def Sys2Proof.Claims.ValSame : Val → Val → Prop
  | .fin n1 m1 e1, .fin n2 m2 e2 => scaled (min e1 e2) n1 m1 e1 = scaled (min e1 e2) n2 m2 e2
  | .inf n1, .inf n2 => n1 = n2
  | _, _ => False

/-- The cases of FMIN and FMAX (R190), without rounding: of two NaNs the canonical one, of one NaN the other operand, NV when one is
signalling; else the lesser or the greater, -0 below +0. -/
def Sys2Proof.Claims.MinMaxCases (f : FFmt) (x y : Nat) : Prop :=
  ∀ (big : Bool) fl, fl = (if (f.decode x).isSig = true ∨ (f.decode y).isSig = true then fNV else 0#5) →
    ((f.decode x).isNaN = true → (f.decode y).isNaN = true → fminmax f big x y = (f.canonNaN, fl)) ∧
    ((f.decode x).isNaN = true → (f.decode y).isNaN = false → fminmax f big x y = (y, fl)) ∧
    ((f.decode x).isNaN = false → (f.decode y).isNaN = true → fminmax f big x y = (x, fl)) ∧
    (∀ n1 m1 e1 n2 m2 e2 u v, f.decode x = .fin n1 m1 e1 → f.decode y = .fin n2 m2 e2 → u = scaled (min e1 e2) n1 m1 e1 →
      v = scaled (min e1 e2) n2 m2 e2 →
      (u < v ∨ u = v ∧ n1 = true ∧ n2 = false → fminmax f big x y = (if big then y else x, 0#5)) ∧
      (v < u ∨ u = v ∧ n1 = false ∧ n2 = true → fminmax f big x y = (if big then x else y, 0#5)) ∧
      (u = v → n1 = n2 → fminmax f big x y = (x, 0#5) ∨ fminmax f big x y = (y, 0#5))) ∧
    (∀ n, f.decode x = .inf n → (f.decode y).isNaN = false → f.decode y ≠ .inf n →
      fminmax f big x y = (if n = big then y else x, 0#5) ∧ fminmax f big y x = (if n = big then y else x, 0#5))

/-- FCLASS's bit by the sign, exponent and fraction fields of a code (R193). -/
def Sys2Proof.Claims.classBit (f : FFmt) (x : Nat) : Nat :=
  let neg := decide (x / 2 ^ (f.bits - 1) = 1)
  let e := x / 2 ^ f.frac % 2 ^ (f.bits - 1 - f.frac)
  let m := x % 2 ^ f.frac
  if e = 2 ^ (f.bits - 1 - f.frac) - 1 then
    if m = 0 then (if neg then 0 else 7) else if m < 2 ^ (f.frac - 1) then 8 else 9
  else if e = 0 then
    if m = 0 then (if neg then 3 else 4) else if neg then 2 else 5
  else if neg then 1 else 6

/-- The code of an integer in a width, and the least and greatest integer of an integer type. -/
def Sys2Proof.Claims.codeInt (w : Nat) (i : Int) : Nat := (i % 2 ^ w).toNat
def Sys2Proof.Claims.least (sg : Bool) (w : Nat) : Int := if sg then -2 ^ (w - 1) else 0
def Sys2Proof.Claims.greatest (sg : Bool) (w : Nat) : Int := if sg then 2 ^ (w - 1) - 1 else 2 ^ w - 1
/-- The quotient `q` with remainder `r` by `2^k` goes up (R169 step 2). -/
def Sys2Proof.Claims.GoesUp (mode : RM) (neg : Bool) (q r k : Nat) : Prop :=
  match mode with
  | .rne => 2 ^ k < 2 * r ∨ 2 * r = 2 ^ k ∧ q % 2 = 1
  | .rna => 2 ^ k ≤ 2 * r
  | .rz => False
  | .rup => r ≠ 0 ∧ neg = false
  | .rdn => r ≠ 0 ∧ neg = true

/-- The cases of Convert (R171) without a clamp, for a destination that is no q4n. -/
def Sys2Proof.Claims.ConvertCases (src dst : Ty) (mode : RM) (sat : Bool) (x : Nat) : Prop :=
  (∀ f, dst.flt = some f →
    (∀ s, src.val x = .nan s → convert src dst mode sat x = (f.canonNaN, if s then fNV else 0#5)) ∧
    (∀ n, src.val x = .inf n → convert src dst mode sat x =
      if f.ieee then (f.withSign n f.infCode, 0#5) else (f.withSign n f.largest, fOF ||| fNX)) ∧
    (∀ n m e, src.val x = .fin n m e → convert src dst mode sat x = roundVal f mode (.fin n m e))) ∧
  (∀ sg w, dst.int = some (sg, w) →
    (∀ s, src.val x = .nan s → convert src dst mode sat x = (0, fNV)) ∧
    (∀ n, src.val x = .inf n → convert src dst mode sat x = (codeInt w (if n then least sg w else greatest sg w), fNV)) ∧
    (∀ n m e k q r a i, src.val x = .fin n m e → k = (-e).toNat → q = m * 2 ^ e.toNat / 2 ^ k → r = m * 2 ^ e.toNat % 2 ^ k →
      (GoesUp mode n q r k → a = q + 1) → (¬ GoesUp mode n q r k → a = q) → i = (if n then -(a : Int) else a) →
      (least sg w ≤ i → i ≤ greatest sg w → convert src dst mode sat x = (codeInt w i, if r = 0 then 0#5 else fNX)) ∧
      (i < least sg w ∨ greatest sg w < i →
        (src.int.isSome = true ∧ sat = false → convert src dst mode sat x = (codeInt w i, 0#5)) ∧
        (src.int.isSome = false ∨ sat = true →
          convert src dst mode sat x = (codeInt w (if i < 0 then least sg w else greatest sg w), fNV)))))

/-- The magnitude of a Q4N level in units of `2^-10` (Table 07-3): those of codes 0 to 7 are negative. -/
def Sys2Proof.Claims.level (c : Nat) : Nat := [1024, 724, 556, 426, 318, 221, 130, 43].getD (if c < 8 then c else 15 - c) 0

/-- The cases of R176 from step 3: no scale or no quotient is code 8 with NV; an infinite value the end of its sign; a finite one the
nearest level, the smaller of two as near, code 8 before code 7. NX is step 5's "NX is set when Round(b × q[code], f32, RNE) ≠ x", beside
NV too, since step 5 excepts no case of step 3; that a NaN, of x or of the level, sets none is log entry 32, the model's choice. -/
def Sys2Proof.Claims.Q4Cases (x : Val) (b : Nat) : Prop :=
  (x.isNaN = true ∨ (fmtF32.decode b).isNaN = true → q4Encode x b = (8, fNV)) ∧
  (∀ bn be, fmtF32.decode b = .fin bn 0 be → x.isNaN = false →
    q4Encode x b = (8, if x.isZero then fNV else fNV ||| fNX)) ∧
  (∀ xn bn, x = .inf xn → fmtF32.decode b = .inf bn → q4Encode x b = (8, if xn = bn then fNV else fNV ||| fNX)) ∧
  (∀ xn xm xe bn, x = .fin xn xm xe → fmtF32.decode b = .inf bn → q4Encode x b = (8, fNX)) ∧
  (∀ xn bn bm be, x = .inf xn → fmtF32.decode b = .fin bn bm be → bm ≠ 0 → q4Encode x b = (if xn = bn then 15 else 0, fNX)) ∧
  (∀ xn xm xe bn bm be e0, x = .fin xn xm xe → fmtF32.decode b = .fin bn bm be → bm ≠ 0 → e0 = min xe (be - 10) →
    ∃ c, (q4Encode x b).1 = c ∧ c < 16 ∧
      (∀ d < 16, ∀ u v, u = (scaled e0 xn xm xe - scaled e0 (bn != decide (c < 8)) (bm * level c) (be - 10)).natAbs →
        v = (scaled e0 xn xm xe - scaled e0 (bn != decide (d < 8)) (bm * level d) (be - 10)).natAbs →
        u < v ∨ u = v ∧ (level c < level d ∨ level c = level d ∧ (c = 8 ∨ c = d))) ∧
      (∀ n m e, fmtF32.decode (q4Decode c b) = .fin n m e → (q4Encode x b).2 =
        if scaled (min e xe) n m e = scaled (min e xe) xn xm xe then 0#5 else fNX))

/-- FADD to FNEG, FMA, FCVT, FCLASS, FQNT: the result in the selected format, rounded once in the resolved mode, and the flags: of FADD, FSUB,
FMUL, FDIV, FSQRT and FMA the exact result rounded (`FloatExact`, `FmaSpecials`), of FMIN, FMAX, FCLASS, FCVT and FQNT the cases of R190, R193,
R171 and R176. That a zero sum under RDN is -0 whatever the signs of its zeros is R190's letter as log entry 32 reads it. FCMP pushes its
condition, false when an operand is a NaN but for the unordered one, and sets NV (R191). -/
def Obligations.FloatResults : Prop :=
  (F2 .fadd 1 fadd ∧ F2 .fsub 1 fsub ∧ F2 .fmul 1 fmul ∧ F2 .fdiv 8 fdiv ∧ F1 .fsqrt 8 fsqrt ∧
  F2 .fmin 1 (fun f _ x y => fminmax f false x y) ∧ F2 .fmax 1 (fun f _ x y => fminmax f true x y) ∧
  F1 .fabs 1 (fun f _ x => (fabs f x, 0#5)) ∧ F1 .fneg 1 (fun f _ x => (fneg f x, 0#5)) ∧
  F1 .fclass 1 (fun f _ x => (fclassOf f x, 0#5)) ∧
  (∀ p d a s, s.issues (.fma p d a) .plain 1 0 = true → FDone (.fma p d a) p d 1
    (ffma (fmtOf p) (roundMode p s) (low (fmtOf p) (s.rs (p.dn d))) (low (fmtOf p) (s.rs (p.an a))) (low (fmtOf p) (s.rs p.en))) s) ∧
  (∀ p d a g s r, s.issues (.fcvt p d a g) .plain 1 0 = true →
    r = convert (tyOfScalarCode (p.fx.extractLsb' 2 3).toNat) (tyOfScalarCode g.toNat) (roundMode p s) (satOn p) (s.rs a.toNat).toNat →
    exec (.fcvt p d a g) s = .next ((((s.charged 1 0).ws d.toNat (BitVec.ofNat 64 r.1)).raise r.2).done (.fcvt p d a g))) ∧
  (∀ p d a s, s.issues (.fqnt p d a) .plain 1 0 = true → FDone (.fqnt p d a) p d 1
    (q4Encode ((fmtOf p).decode (low (fmtOf p) (s.rs (p.an a)))) (low fmtF32 (s.rs p.en))) s)) ∧
  (∀ f ∈ [fmtF32, fmtF64], ∀ mode x y, x < 2 ^ f.bits → y < 2 ^ f.bits → FloatExact f mode x y ∧ MinMaxCases f x y ∧
    (∀ d, FmaSpecials f mode d x y) ∧
    fclassOf f x = 2 ^ classBit f x ∧ fabs f x = x % 2 ^ (f.bits - 1) ∧ fneg f x = x ^^^ 2 ^ (f.bits - 1)) ∧
  (∀ src dst mode sat x, dst ≠ .q4n → ConvertCases src dst mode sat x) ∧ (∀ x b, Q4Cases x b) ∧
  (∀ c < 16, roundVal fmtF32 .rne (.fin (decide (c < 8)) (level c) (-10)) = (q4F32 c, 0#5)) ∧
  (∀ p d a c s, s.issues (.fcmp p d a c) .push 1 0 = true → s.spillBusy = false → s.ctx.pdepth < 64 →
    ∃ t r, r = fcompare (fmtOf p) (fcondOf c) (low (fmtOf p) (srcX p d a s)) (low (fmtOf p) (srcY p a s)) ∧
      ((s.charged 1 0).raise r.2).push ⟨r.1, if r.1 then BitVec.allOnes 32 else 0#32⟩ = some t ∧
      exec (.fcmp p d a c) s = .next (t.done (.fcmp p d a c))) ∧
  (∀ f ∈ [fmtF32, fmtF64], ∀ x y, ∀ c : BitVec 2,
    (((f.decode x).isNaN = true ∨ (f.decode y).isNaN = true) → ((fcompare f (fcondOf c) x y).1 = true ↔ c = 3#2) ∧
      (fcompare f (fcondOf c) x y).2 = if c = 1#2 ∨ c = 2#2 ∨ (f.decode x).isSig = true ∨ (f.decode y).isSig = true then fNV else 0#5) ∧
    ((f.decode x).isNaN = false → (f.decode y).isNaN = false → ∀ lt eq, lt = ValLess (f.decode x) (f.decode y) →
      eq = ValSame (f.decode x) (f.decode y) → (fcompare f (fcondOf c) x y).2 = 0#5 ∧
      ((fcompare f (fcondOf c) x y).1 = true ↔ c = 0#2 ∧ eq ∨ c = 1#2 ∧ lt ∨ c = 2#2 ∧ (lt ∨ eq))))

/-- Rounding a finite code's own value gives that code and sets no flag, in every rounding mode and format (R165, R169). -/
def Obligations.RoundExact : Prop :=
  ∀ f ∈ [fmtF64, fmtF32, fmtF16, fmtBf16, fmtE4m3n, fmtE5m2n], ∀ (mode : RM) (x : Nat) (neg : Bool) (m : Nat) (e : Int),
    x < 2 ^ f.bits → f.decode x = .fin neg m e → roundVal f mode (f.decode x) = (x, 0#5)

/-! ### Vector instructions (08 R194 to R216) -/

/-- The turn of an instruction in the cell's queue has come (08 R196, R200): on a stream, when no entry before it is open; on registers
alone, when none still has to write a register that it names or to use one that it writes. -/
def Sys2Proof.Claims.VecTurn (u : State) (srcs dst : List Nat) : Prop :=
  (if u.onStream (srcs ++ dst) then u.vbusy else u.vheld srcs dst) = false

/-- A vector instruction that writes `dst` completes: `u` is the state after its charge. No register is misused, the cell's queue
has room, its turn has come, every bound source delivers its unit (`vs`), and the result can be
put where it goes (`t`), with the flags `fl` of a window that it is pushed through. Its entry joins the queue with its flags; a whole
instruction, or one on a stream, starts all slices together. -/
def Sys2Proof.Claims.VecWrites (i : Instr) (gm : GuardMode) (whole : Bool) (srcs : List Nat) (dst : Nat) (r : (Nat → Lanes) → State → VRes)
    (s : State) : Prop :=
  ∀ u vs t fl, u = s.charged 1 0 → s.issues i gm 1 0 = true → misuse srcs (some dst) u = false → s.vroom = true →
    VecTurn u srcs [dst] → popAll u srcs = .ok vs → putLanes dst (r (vsrc vs u) u) u = .ok (t, fl) →
    exec i s = .next (((takePops vs t).enqueueV (whole || u.onStream (srcs ++ [dst]))
      ((r (vsrc vs u) u).flags ||| fl)).done i)

/-- Elementwise on the active lanes: two sources, one source. -/
def Sys2Proof.Claims.V2 (mk : Pfx → BitVec 4 → BitVec 4 → Instr) (T : Pfx → VTy) (f : Pfx → State → Nat → Nat → Nat × FFlags) : Prop :=
  ∀ p d a s, VecWrites (mk p d a) .plain false [vx p d a, vy p a] (p.dn d) (fun rd u =>
    lanesOp (T p) (activeMask p u) (fun x y _ => f p u x y) (rd (vx p d a)) (rd (vy p a)) zeroLanes) s
def Sys2Proof.Claims.V1 (mk : Pfx → BitVec 4 → BitVec 4 → Instr) (T : Pfx → VTy) (f : Pfx → State → Nat → Nat × FFlags) : Prop :=
  ∀ p d a s, VecWrites (mk p d a) .plain false [p.an a] (p.dn d) (fun rd u =>
    lanesOp (T p) (activeMask p u) (fun x _ _ => f p u x) (rd (p.an a)) zeroLanes zeroLanes) s

/-- VARITH, VLOGIC and VSEL (R209, R210): the element function on the active lanes, floating types rounded once in the resolved
mode, integer types exact and then wrapped or saturated. -/
def Obligations.VectorArith : Prop :=
  V2 .vadd pVty (fun p u => arith2 p fadd (fun x y => x + y) u) ∧ V2 .vsub pVty (fun p u => arith2 p fsub (fun x y => x - y) u) ∧
  V2 .vmul pVty (fun p u => arith2 p fmul (fun x y => x * y) u) ∧
  V2 .vmin pVty (fun p u => arith2 p (fun f _ => fminmax f false) (fun x y => min x y) u) ∧
  V2 .vmax pVty (fun p u => arith2 p (fun f _ => fminmax f true) (fun x y => max x y) u) ∧
  V1 .vabs pVty (fun p _ => arith1 p fabs (fun x => (x.natAbs : Int))) ∧ V1 .vneg pVty (fun p _ => arith1 p fneg (fun x => -x)) ∧
  V2 .vand (fun _ => ⟨1, 32, .n32⟩) (fun _ _ x y => (x &&& y, 0#5)) ∧ V2 .vor (fun _ => ⟨1, 32, .n32⟩) (fun _ _ x y => (x ||| y, 0#5)) ∧
  V2 .vxor (fun _ => ⟨1, 32, .n32⟩) (fun _ _ x y => (x ^^^ y, 0#5)) ∧ V1 .vnot (fun _ => ⟨1, 32, .n32⟩) (fun _ _ x => (2 ^ 32 - 1 - x, 0#5)) ∧
  V2 .vshl pVty (fun p _ x y => (x * 2 ^ (y % (pVty p).w) % 2 ^ (pVty p).w, 0#5)) ∧
  V2 .vshr pVty (fun p _ x y => (x / 2 ^ (y % (pVty p).w), 0#5)) ∧
  V2 .vsra pVty (fun p _ x y => (((BitVec.ofNat (pVty p).w x).sshiftRight (y % (pVty p).w)).toNat, 0#5)) ∧
  (∀ p d a s, VecWrites (.vfma p d a) .plain false [p.dn d, p.an a, p.en] (p.dn d) (fun rd u =>
    lanesOp (pVty p) (activeMask p u) (fun z x y => match (pVty p).ty.flt with
      | some f => ffma f (roundMode p u) z x y
      | none => intResult (pVty p) (satOn p) (elInt (pVty p) z + elInt (pVty p) x * elInt (pVty p) y))
      (rd (p.dn d)) (rd (p.an a)) (rd p.en)) s) ∧
  (∀ p d a s u e g vs t fl, u = s.charged 1 0 → s.issues (.vsel p d a) .select 1 0 = true →
    u.ctx.entryAt (gDepth p) (gNeg p) = some (e, g) →
    misuse [vx p d a, vy p a, p.dn d] (some (p.dn d)) u = false → s.vroom = true → VecTurn u [vx p d a, vy p a, p.dn d] [p.dn d] →
    popAll u [vx p d a, vy p a, p.dn d] = .ok vs →
    putLanes (p.dn d) ⟨mergeLanes (vsrc vs u (vx p d a)) (vsrc vs u (vy p a)) e.mask,
      g.mask &&& BitVec.ofNat 32 (2 ^ (min u.ctx.vcnt.toNat 32) - 1), 0#5⟩ u = .ok (t, fl) →
    exec (.vsel p d a) s = .next (((takePops vs t).enqueueV (u.onStream [vx p d a, vy p a, p.dn d, p.dn d]) fl).done
      (.vsel p d a)))

/-- What a vector result does to a plain register (R195, 02 R44): the lanes of the mask take the new lanes, the others stay, and no
other register, byte of memory or context changes; the sources of a plain register are its lanes. -/
def Obligations.VectorLanes : Prop :=
  (∀ (s : State) (dst : Nat) (r : VRes), dst < 32 → s.binding dst = none → ∃ t, putLanes dst r s = .ok (t, 0#5) ∧
    (∀ i, i < 32 → lane (t.rv dst) i = if r.mask.getLsbD i then lane r.new i else lane (s.rv dst) i) ∧
    (∀ k, k ≠ dst → t.rv k = s.rv k) ∧ (∀ k, t.rg k = s.rg k) ∧ SameModule s t ∧ (∀ n, t.ctxAt s.cid n = s.ctxAt s.cid n)) ∧
  (∀ (s : State) (srcs : List Nat), (∀ n ∈ srcs, s.binding n = none) → popAll s srcs = .ok [] ∧ ∀ n, vsrc [] s n = s.rv n) ∧
  (∀ (p : Pfx) (u : State) (x y : Lanes) (i : Nat), i < 32 → pVty p = ⟨1, 32, .n32⟩ → satOn p = false →
    (activeMask p u).getLsbD i = true →
    lane (lanesOp (pVty p) (activeMask p u) (fun x y _ => arith2 p fadd (fun x y => x + y) u x y) x y zeroLanes).new i = lane x i + lane y i)

/-- A VCMP on this element sets NV (R211): LT and GE on a NaN, the other conditions on a signalling one; integers set no flag. -/
def Sys2Proof.Claims.vcmpNV (T : VTy) (c x y : Nat) : Prop :=
  ∃ f, T.ty.flt = some f ∧ ((c = 2 ∨ c = 3) ∧ ((f.decode x).isNaN = true ∨ (f.decode y).isNaN = true) ∨
    (f.decode x).isSig = true ∨ (f.decode y).isSig = true)

/-- The integer that a code of `w` bits stands for in two's complement, and that an element of an integer type stands for. -/
def Sys2Proof.Claims.signed (w x : Nat) : Int := if x < 2 ^ (w - 1) then x else (x : Int) - 2 ^ w
def Sys2Proof.Claims.intOf (T : VTy) (x : Nat) : Int := match T.ty.int with | some (true, w) => signed w x | _ => x

/-- The condition of code `c` on two elements (R211's table): EQ, NE, LT, GE, UN, ORD. -/
def Sys2Proof.Claims.VcmpHolds (T : VTy) (c x y : Nat) : Prop :=
  (∃ f a b, T.ty.flt = some f ∧ a = f.decode x ∧ b = f.decode y ∧
    (c = 0 ∧ ValSame a b ∨ c = 1 ∧ ¬ ValSame a b ∨ c = 2 ∧ ValLess a b ∨
      c = 3 ∧ a.isNaN = false ∧ b.isNaN = false ∧ ¬ ValLess a b ∨ c = 4 ∧ (a.isNaN = true ∨ b.isNaN = true) ∨
      c = 5 ∧ a.isNaN = false ∧ b.isNaN = false)) ∨
  (T.ty.flt = none ∧ (c = 0 ∧ intOf T x = intOf T y ∨ c = 1 ∧ intOf T x ≠ intOf T y ∨ c = 2 ∧ intOf T x < intOf T y ∨
    c = 3 ∧ intOf T y ≤ intOf T x ∨ c = 5))

/-- The tree of R214 over the elements `t`, `none` where an element is not active: entry `x` of the level `k` levels up, and the flags of
the operations under it. -/
def Sys2Proof.Claims.node {α : Type} (op : α → α → α × FFlags) (t : Nat → Option α) : Nat → Nat → Option α × FFlags
  | 0, x => (t x, 0#5)
  | k + 1, x =>
    match node op t k (2 * x), node op t k (2 * x + 1) with
    | (some a, f), (some b, g) => (some (op a b).1, f ||| g ||| (op a b).2)
    | (some a, f), (none, g) => (some a, f ||| g)
    | (none, f), (b, g) => (b, f ||| g)

/-- The reductions (R214): the active elements, widened exactly, combined over the fixed tree of the 32, 64 or 128 elements, the identity
where none is active; that the flags hold NV when an active element is signalling, also one that meets no other, is log entry 37, the
model's choice. The integer add wraps, or saturates at each add; the identities of least and greatest are those of the result type. -/
def Sys2Proof.Claims.Reductions (T : VTy) (act : BitVec 32) (v : Lanes) : Prop :=
  (∀ op ident k f N, T.ty.flt = some f → 2 ^ k = 32 * T.n →
    N = node op (fun e => if act.getLsbD (e / T.n) then some (convert T.ty .f32 .rne false (element T v e)).1 else none) k 0 →
    (reduceFlt T act v op ident).1 = N.1.getD ident ∧
    ((∃ e, e < 32 * T.n ∧ act.getLsbD (e / T.n) = true ∧ (f.decode (element T v e)).isSig = true) →
      (reduceFlt T act v op ident).2 = N.2 ||| fNV) ∧
    ((∀ e, e < 32 * T.n → act.getLsbD (e / T.n) = true → (f.decode (element T v e)).isSig = false) →
      (reduceFlt T act v op ident).2 = N.2)) ∧
  (∀ (op : Int → Int → Int) ident k, T.ty.flt = none → 2 ^ k = 32 * T.n → reduceInt T act v op ident = codeInt 32
    ((node (fun a b => (op a b, 0#5)) (fun e => if act.getLsbD (e / T.n) then some (intOf T (element T v e)) else none) k 0).1.getD ident)) ∧
  (∀ sg a b, sg = decide (T.ty ≠ .n32) →
    redAdd T true a b = max (least sg 32) (min (greatest sg 32) (a + b)) ∧
    redAdd T false a b = (a + b - least sg 32) % 2 ^ 32 + least sg 32 ∧
    intMax (redSigned T) 32 = greatest sg 32 ∧ intMin (redSigned T) 32 = least sg 32)

/-- VCMP pushes S = 1 with the mask of the active lanes whose condition holds on every sub-element (`VcmpHolds`), and sets NV, no other flag,
when an active element does (R211). VLANE, VIOTA, the reductions and VCVT (R213 to R215): broadcast, extract, insert, permute; VIOTA's flags are
those of its conversions on the active lanes; a reduction writes its tree's result (`Reductions`) to lane 0; a VCVT whose part does not exist is an illegal instruction, when
its guard is true and before any charge (log entry 35, the model's choice). -/
def Obligations.VectorLaneOps : Prop :=
  (∀ p d a c s u vs t fl, u = s.charged 1 0 → s.issues (.vcmp p d a c) .push 1 0 = true →
    u.spillBusy = false → misuse [vx p d a, vy p a] none u = false → s.vroom = true → VecTurn u [vx p d a, vy p a] [] →
    popAll u [vx p d a, vy p a] = .ok vs →
    (∃ m : BitVec 32, (∀ i, i < 32 → (m.getLsbD i = true ↔ (activeMask p u).getLsbD i = true ∧
        ∀ j, j < (pVty p).n → VcmpHolds (pVty p) c.toNat (subEl (pVty p) (lane (vsrc vs u (vx p d a)) i) j)
          (subEl (pVty p) (lane (vsrc vs u (vy p a)) i) j))) ∧
      u.push ⟨true, m⟩ = some t) →
    (fl = fNV ∧ (∃ i j, i < 32 ∧ (activeMask p u).getLsbD i = true ∧ j < (pVty p).n ∧
        vcmpNV (pVty p) c.toNat (subEl (pVty p) (lane (vsrc vs u (vx p d a)) i) j) (subEl (pVty p) (lane (vsrc vs u (vy p a)) i) j)) ∨
      fl = 0#5 ∧ ∀ i j, i < 32 → (activeMask p u).getLsbD i = true → j < (pVty p).n →
        ¬ vcmpNV (pVty p) c.toNat (subEl (pVty p) (lane (vsrc vs u (vx p d a)) i) j) (subEl (pVty p) (lane (vsrc vs u (vy p a)) i) j)) →
    exec (.vcmp p d a c) s = .next (((takePops vs t).enqueueV (u.onStream [vx p d a, vy p a]) fl).done
      (.vcmp p d a c))) ∧
  (∀ T ∈ (List.range 8).map vtyOf, ∀ act v, Reductions T act v) ∧
  ((∀ p d a s, VecWrites (.vbcast p d a) .plain false [] (p.dn d) (fun _ u =>
    ⟨mkLanes fun _ => (u.rs (p.an a)).extractLsb' 0 32, activeMask p u, 0#5⟩) s) ∧
  (∀ p d a s, VecWrites (.vins p d a) .plain false [p.dn d] (p.dn d) (fun _ u =>
    ⟨mkLanes fun _ => (u.rs (p.an a)).extractLsb' 0 32,
      activeMask p u &&& BitVec.ofNat 32 (2 ^ (p.immW.extractLsb' 0 5).toNat), 0#5⟩) s) ∧
  (∀ p d a s, VecWrites (.vperm p d a) .plain true [p.an a, p.en] (p.dn d) (fun rd u =>
    ⟨mkLanes fun i => lane (rd (p.an a)) ((lane (rd p.en) i).toNat % 32), activeMask p u, 0#5⟩) s) ∧
  (∀ p d a s u vs, u = s.charged 1 0 → s.issues (.vext p d a) .plain 1 0 = true → misuse [p.an a] none u = false →
    s.vroom = true → VecTurn u [p.an a] [] → popAll u [p.an a] = .ok vs →
    exec (.vext p d a) s = .next (((takePops vs (u.ws (p.dn d)
      ((lane (vsrc vs u (p.an a)) (p.immW.extractLsb' 0 5).toNat).setWidth 64))).enqueueV true 0#5).done (.vext p d a))) ∧
  (∀ p d a s, VecWrites (.viota p d a) .plain false [] (p.dn d) (fun _ u =>
    let el (x : Nat) : Nat × FFlags := convertVal .i64 (pVty p).ty (roundMode p u) false none (.fin false x 0)
    ⟨mkLanes fun i => packEls (pVty p) ((List.range (pVty p).n).map fun j => (el ((pVty p).n * i + j)).1), activeMask p u,
      (lanesOf (activeMask p u)).foldl (fun f i => (List.range (pVty p).n).foldl (fun f j => f ||| (el ((pVty p).n * i + j)).2) f) 0#5⟩) s) ∧
  (∀ p d a s, VecWrites (.vredadd p d a) .plain true [p.an a] (p.dn d) (fun rd u =>
    match (pVty p).ty.flt with
    | some _ => ⟨mkLanes fun _ => BitVec.ofNat 32 (reduceFlt (pVty p) (activeMask p u) (rd (p.an a)) (fadd fmtF32 (roundMode p u)) 0).1,
        1#32, (reduceFlt (pVty p) (activeMask p u) (rd (p.an a)) (fadd fmtF32 (roundMode p u)) 0).2⟩
    | none => ⟨mkLanes fun _ => BitVec.ofNat 32 (reduceInt (pVty p) (activeMask p u) (rd (p.an a)) (redAdd (pVty p) (satOn p)) 0), 1#32, 0#5⟩) s) ∧
  (∀ p d a s, VecWrites (.vredmin p d a) .plain true [p.an a] (p.dn d) (fun rd u =>
    match (pVty p).ty.flt with
    | some _ => ⟨mkLanes fun _ => BitVec.ofNat 32 (reduceFlt (pVty p) (activeMask p u) (rd (p.an a)) (fminmax fmtF32 false) 0x7F800000).1,
        1#32, (reduceFlt (pVty p) (activeMask p u) (rd (p.an a)) (fminmax fmtF32 false) 0x7F800000).2⟩
    | none => ⟨mkLanes fun _ => BitVec.ofNat 32 (reduceInt (pVty p) (activeMask p u) (rd (p.an a)) min (intMax (redSigned (pVty p)) 32)), 1#32, 0#5⟩) s) ∧
  (∀ p d a s, VecWrites (.vredmax p d a) .plain true [p.an a] (p.dn d) (fun rd u =>
    match (pVty p).ty.flt with
    | some _ => ⟨mkLanes fun _ => BitVec.ofNat 32 (reduceFlt (pVty p) (activeMask p u) (rd (p.an a)) (fminmax fmtF32 true) 0xFF800000).1,
        1#32, (reduceFlt (pVty p) (activeMask p u) (rd (p.an a)) (fminmax fmtF32 true) 0xFF800000).2⟩
    | none => ⟨mkLanes fun _ => BitVec.ofNat 32 (reduceInt (pVty p) (activeMask p u) (rd (p.an a)) max (intMin (redSigned (pVty p)) 32)), 1#32, 0#5⟩) s) ∧
  (∀ p d a g s S D N part parts src0 dst0, S = pVty p → D = vtyOf g.toNat → N = 32 * min S.n D.n → part = p.immW.toNat % 4 →
    parts = (if D.n ≤ S.n then S.n / D.n else D.n / S.n) → src0 = (if D.n ≤ S.n then N * part else 0) →
    dst0 = (if D.n ≤ S.n then 0 else N * part) →
    (part < parts → VecWrites (.vcvt p d a g) .plain (S.n != D.n) [p.an a] (p.dn d) (fun rd u =>
      let cv (t : Nat) : Nat × FFlags := convert S.ty D.ty (roundMode p u) (satOn p) (element S (rd (p.an a)) (src0 + t))
      let ts := (List.range N).filter fun t => (activeMask p u).getLsbD ((dst0 + t) / D.n)
      ⟨ts.foldl (fun w t => setElement D w (dst0 + t) (cv t).1) (u.rv (p.dn d)),
        BitVec.ofNat 32 (ts.foldl (fun m t => m ||| 2 ^ ((dst0 + t) / D.n)) 0), ts.foldl (fun f t => f ||| (cv t).2) 0#5⟩) s) ∧
    (∀ e, parts ≤ part → s.canRun = true → interlocked (.vcvt p d a g) s.ctx = false → (Instr.vcvt p d a g).wf = true →
      issueGuard .plain (guardPfx (.vcvt p d a g)) s.ctx = some e → e.s = true → s.ctx.paid = none →
      exec (.vcvt p d a g) s = .next (s.takeTrap ⟨1, s.ctx.pc, (Instr.vcvt p d a g).tinfo, none⟩ (Instr.vcvt p d a g).ilen))))

/-- A vector load of `n` lanes at the addresses `va`, behind no open entry of the cell's queue (R196): its traffic is that of the
addresses accessed; every active lane is checked, then the active lanes are read in rising order and put in the register; the others stay.
A vector store issues one access for each active lane, with the lane's four bytes; with an acquire part (log entry 11, the model's choice)
it waits for the context's accesses and is performed at once. -/
def Sys2Proof.Claims.VecLoads (i : Instr) (p : Pfx) (d : BitVec 4) (srcs : List Nat) (va : (Nat → Lanes) → State → Nat → Word) (s : State) : Prop :=
  ∀ m u v A w vs xs t fl, m = vmemTraffic p (fun s => va (vpeek s) s) s → u = s.charged 2 m → v = released p u → s.issues i .plain 2 m = true →
    s.vroom = true → s.vbusy = false → peekable srcs s = true → u.ctx.accessHeld = false → (pRel p = true → u.released (pScope p) = true) →
    misuse srcs (some (p.dn d)) v = false → popAll v srcs = .ok vs → A = va (vsrc vs v) v →
    checkLanes v A (lanesOf (activeMask p v)) = .ok () → readLanes v A (lanesOf (activeMask p v)) = .ok xs →
    w = v.touchAll ((lanesOf (activeMask p v)).map A) 4 →
    putLanes (p.dn d) ⟨mkLanes fun i => ((xs.find? (·.1 == i)).map (·.2)).getD 0#32, activeMask p w, 0#5⟩ w = .ok (t, fl) →
    exec i s = .next (((takePops vs (if pAcq p then t.acquire (pScope p) else t)).enqueueV true fl).done i)
def Sys2Proof.Claims.VecStores (i : Instr) (p : Pfx) (d : BitVec 4) (srcs : List Nat) (va : (Nat → Lanes) → State → Nat → Word) (s : State) : Prop :=
  ∀ m u v w vs xs, m = vmemTraffic p (fun s => va (vpeek s) s) s → u = s.charged 2 m → v = released p u → s.issues i .plain 2 m = true →
    s.vroom = true → s.vbusy = false → peekable srcs s = true → u.ctx.accessHeld = false →
    w = v.touchPuts ((lanesOf (activeMask p v)).map (va (vsrc vs v) v)) 4 → (pRel p = true → u.released (pScope p) = true) → misuse (p.dn d :: srcs) none v = false → popAll v (p.dn d :: srcs) = .ok vs →
    storeLanes v (va (vsrc vs v) v) (vsrc vs v (p.dn d)) (lanesOf (activeMask p v)) = .ok xs →
    (pAcq p = false → ∃ t, exec i s = .next t ∧
      t = (((takePops vs (xs.foldl (fun s x => s.addPend (.store x.1 x.2.1 .vmem)) w)).enqueueV true
        (xs.foldl (fun f x => f ||| x.2.2) 0#5)).done i) ∧ (s.flaws = [] → ∀ a, rd8 t.mem a = rd8 s.mem a)) ∧
    (pAcq p = true → v.ctx.pend = [] → v.pendMeets (xs.flatMap (·.1)) = false → exec i s = .next
      (((takePops vs ((xs.foldl (fun s x => s.write s.tid x.1) w).acquire (pScope p))).enqueueV true
        (xs.foldl (fun f x => f ||| x.2.2) 0#5)).done i))

/-- VLD, VST, VLDS, VSTS, VGATH and VSCAT at their lane addresses (R212): unit stride 4, stride s[e], offsets of register e. That a store
with an acquire part is performed at once, when nothing that it waits for is left, is the model's choice (log entry 11). A gather or
scatter that waits in the queue for its offsets when a PMREQ comes completes (05 R125); from what it then pays is log entry 37, the
model's choice. -/
def Obligations.VectorMemory : Prop :=
  (∀ p d a s, VecLoads (.vld p d a) p d [] (fun _ u i => u.rs (p.an a) + p.immW + BitVec.ofNat 64 (4 * i)) s) ∧
  (∀ p d a s, VecLoads (.vlds p d a) p d [] (fun _ u i => u.rs (p.an a) + p.immW + BitVec.ofNat 64 i * u.rs p.en) s) ∧
  (∀ p d a s, VecLoads (.vgath p d a) p d [p.en] (fun rd u i => u.rs (p.an a) + p.immW + (lane (rd p.en) i).setWidth 64) s) ∧
  (∀ p d a s, VecStores (.vst p d a) p d [] (fun _ u i => u.rs (p.an a) + p.immW + BitVec.ofNat 64 (4 * i)) s) ∧
  (∀ p d a s, VecStores (.vsts p d a) p d [] (fun _ u i => u.rs (p.an a) + p.immW + BitVec.ofNat 64 i * u.rs p.en) s) ∧
  (∀ p d a s, VecStores (.vscat p d a) p d [p.en] (fun rd u i => u.rs (p.an a) + p.immW + (lane (rd p.en) i).setWidth 64) s) ∧
  (∀ (c : Ctx) i m q, c.user = true → c.paid = none → c.preq = some q →
    (c.wait = .stream → q.saved.pays i = true → c.mbud.pays m = true →
      c.chargeQueued i m = .inl { c with preq := some { q with saved := q.saved.pay i }, mbud := c.mbud.pay m }) ∧
    (c.wait ≠ .stream ∨ q.saved.pays i = false ∨ c.mbud.pays m = false → c.chargeQueued i m = .inr 3#3)) ∧
  (∀ (c : Ctx) i m, c.preq = none → c.chargeQueued i m = c.charge i m)

/-- Streams (R204 to R207, R216): VBIND binds a register that is not bound to a valid descriptor, and waits in the queue with what it has
read while an earlier entry names the register; VUNBIND ends the binding once its pushed units are performed; VSTAT reads the status word,
0 for a register that is not bound; the stream unit fetches the next unit of a read stream in order, and performs the stores of the
oldest pushed unit of a write stream, which were formed at its push (log entry 21, the model's choice). The vector queue (R196 to R200):
an instruction on registers that an earlier entry has still to write, or to use, joins the queue and its context goes on; its result is
formed from the registers that it captured, and the scalar register that a VEXT will write is interlocked; one on a stream waits with its
context behind every open entry. The oldest started instruction completes and its flags join its context's fcsr; a new window takes the
weights of vshare; a grant starts the oldest instruction's slices when a whole one finds all four free. -/
def Obligations.VectorQueue : Prop :=
  ((∀ p d a s m u bs st w, m = bindTraffic p a s → u = s.charged 2 m → s.issues (.vbind p d a) .plain 2 m = true →
    s.dirAt (p.dn d) = none → s.accessesDone = true → w = u.touchAll (pieces (u.rs (p.an a)) 8 6) 8 →
    readDesc48 u (u.rs (p.an a)) 6 = .ok bs → streamOf u bs = .ok st → s.vroom = true → s.myCell.vq.any s.ownEnt = false →
    (s.vheld [] [p.dn d] = false →
      exec (.vbind p d a) s = .next (((w.setMyCell (w.myCell.setStream (p.dn d - 28) (some st))).enqueueV false 0#5).done (.vbind p d a))) ∧
    (s.vheld [] [p.dn d] = true → ∃ t, exec (.vbind p d a) s = .next t ∧ t.ctx.wait = .stream ∧
      (s.flaws = [] → t.myCell.vq = s.myCell.vq ++ [⟨s.sel.slot, s.ctx.ident, true, 15#4, 0#5, .waits,
        ⟨[], [p.dn d], some (p.dn d, some st.wr), some st⟩⟩]))) ∧
  (∀ p d a s u st, u = s.charged 2 0 → s.issues (.vunbind p d a) .plain 2 0 = true → (s.dirAt (p.dn d)).isSome = true →
    s.vroom = true → s.vheld [] [p.dn d] = false → u.binding (p.dn d) = some st → st.pushed = [] →
    exec (.vunbind p d a) s = .next (((u.setMyCell (u.myCell.setStream (p.dn d - 28) none)).enqueueV true 0#5).done (.vunbind p d a))) ∧
  (∀ p d a s u, u = s.charged 2 0 → s.issues (.vunbind p d a) .plain 2 0 = true → s.dirAt (p.dn d) = none → s.vroom = true →
    exec (.vunbind p d a) s = .next ((u.enqueueV false 0#5).done (.vunbind p d a))) ∧
  (∀ p d a s u, u = s.charged 2 0 → s.issues (.vstat p d a) .plain 2 0 = true → s.vroom = true →
    (s.dirAt (p.an a) = none → exec (.vstat p d a) s = .next (((u.ws (p.dn d) 0#64).enqueueV false 0#5).done (.vstat p d a))) ∧
    (∀ st, (s.dirAt (p.an a)).isSome = true → u.vheld [p.an a] [p.an a] = false → u.binding (p.an a) = some st →
      exec (.vstat p d a) s = .next (((u.ws (p.dn d) st.status).enqueueV true 0#5).done (.vstat p d a)))) ∧
  (∀ (s w : State) st bs e n, s.myCell.stream s.sel.k = some st → st.wr = false → st.err = none → st.fault = none → st.ready.length < 8 →
    s.myTile.run ≠ .stopped → st.done + st.ready.length < st.unitsLen → (e, n) = st.unitElems (st.done + st.ready.length) →
    streamReads s s.tid st e n = .ok bs → w = s.meetUnit st e n →
    exec .streamUnitFetch s = .next (w.setMyCell (w.myCell.setStream s.sel.k (some { st with ready := st.ready ++ [packBytes bs] })))) ∧
  (∀ (s : State) st q rest, s.myCell.stream s.sel.k = some st → st.pushed = q :: rest → s.myTile.run ≠ .stopped → s.flaws = [] →
    ∃ t, exec .streamUnitWrite s = .next t ∧ t.mem = applyBytes s.mem q.ws ∧
      (s.sel.k < 4 → t.myCell.stream s.sel.k = some { st with pushed := rest }))) ∧
  ((∀ (i : Instr) (F : VForm) (s u : State), vform i = some F → u = s.charged 1 0 → s.issues i (guardMode i) 1 0 = true → s.vroom = true →
    misuse F.srcs F.vdst s = false → (∀ p d a g, i = .vcvt p d a g → p.immW.toNat % 4 < vcvtParts (pVty p) (vtyOf g.toNat)) →
    (u.onStream (F.srcs ++ F.vdst.toList) = false → u.vheld F.srcs F.vdst.toList = true → ∃ t, exec i s = .next t ∧
      t.myCell.vq = s.myCell.vq ++ [⟨s.sel.slot, s.ctx.ident, F.whole, 15#4, 0#5, .late i u.ctx, ⟨F.srcs, F.vdst.toList, none, none⟩⟩] ∧
      t.myCell.v = s.myCell.v ∧ SameRegs s t [] ∧ SameModule s t ∧ SameSlots s t ∧ t.ctx.wait = .none ∧
      t.ctx.pc = s.ctx.pc + BitVec.ofNat 64 (2 * i.ilen) ∧ (F.toS = true → F.dst ∈ t.ctx.loadDests)) ∧
    (u.onStream (F.srcs ++ F.vdst.toList) = true → u.vbusy = true →
      exec i s = .next ((u.queueWait (u.claimOf F.srcs F.vdst)).setCtx (u.ctx.waitAs 1 0 .stream)))) ∧
  (∀ (s t x : State) (c j : Nat) e (i : Instr) (y : Ctx) (F : VForm), (s.cell c).vq[j]? = some e → e.kind = .late i y → vform i = some F →
    F.toS = false → e.slot.toNat ≤ 10 → c < numCells → x = State.setCtx { s with sel := ⟨BitVec.ofNat 16 c, e.slot, 0⟩ } y → t = s.formAt c j →
    (t.cell c).v = vset (s.cell c).v F.dst
      (mergeLanes (vget (s.cell c).v F.dst zeroLanes) (F.f (fun n => vget (s.cell c).v n zeroLanes) x).new
        (F.f (fun n => vget (s.cell c).v n zeroLanes) x).mask) ∧
    (t.cell c).vq[j]? = some { e with kind := .ready, claim := VClaim.none, flags := (F.f (fun n => vget (s.cell c).v n zeroLanes) x).flags } ∧
    t.mem = s.mem ∧ (t.cell c).slots = (s.cell c).slots)) ∧
  ((∀ (s : State) e rest, s.myCell.vrun = e :: rest → (s.ctxAt s.cid e.slot.toNat).live = true → (s.ctxAt s.cid e.slot.toNat).ident = e.ident →
    e.slot.toNat ≤ 10 → ∃ t, exec .vectorComplete s = .next t ∧ t.myCell.vrun = rest ∧
      (t.ctxAt s.cid e.slot.toNat).fcsr = (s.ctxAt s.cid e.slot.toNat).fcsr ||| (e.flags ++ 0#3) ∧ SameModule s t) ∧
  (∀ s, ∃ t, exec .arbiterWindow s = .next t ∧ (t.quart (s.cid / 4)).force = (s.quart (s.cid / 4)).vshare ∧
    (t.quart (s.cid / 4)).vshare = (s.quart (s.cid / 4)).vshare ∧ t.cells = s.cells ∧ t.mem = s.mem ∧ t.tiles = s.tiles) ∧
  (∀ (s : State) e, s.myCell.vq = [e] → e.todo = 15#4 → s.entryHeld s.cid e = false →
    (∀ c, c / 4 = s.cid / 4 → c ≠ s.cid → (s.cell c).vq = []) →
    ∃ t, exec .arbiterGrant s = .next t ∧ t.myCell.vq = [] ∧ t.myCell.vrun = s.myCell.vrun ++ [{ e with todo := 0#4 }] ∧
      t.mem = s.mem ∧ t.tiles = s.tiles))

/-! ### The matrix unit and the string ring (09 R218 to R238) -/

/-- An instruction that accesses memory may: no vector store and no acquire of the context is pending, its release is done (`v`). -/
def Sys2Proof.Claims.MemReady (p : Pfx) (u v : State) : Prop :=
  v = released p u ∧ u.ctx.accessHeld = false ∧ (pRel p = true → u.released (pScope p) = true)
/-- The bank `b` is claimed, its accumulator `d` holds `x`, in no uncorrectable error; `y` is the state after a correctable one is logged. -/
def Sys2Proof.Claims.AccRead (v : State) (d : Nat) (b : Bool) (x : BitVec 8192) (y : State) : Prop :=
  ∃ w, v.claimBank = .ok (b, w) ∧ (w.myCell.bank b).bad.getLsbD d = false ∧ x = (w.myCell.bank b).at d ∧
    y = w.meetFlaw w.tid (.acc (8 * w.cid + (if b then 4 else 0) + d))

/-- Element `i` of a packed block whose elements have `w` bits. -/
def Sys2Proof.Claims.slice (w x i : Nat) : Nat := x / 2 ^ (w * i) % 2 ^ w
/-- The value of a term in units of `2^e0`, and of a product. -/
def Sys2Proof.Claims.termAt (e0 : Int) : Val → Int
  | .fin n m e => scaled e0 n m e
  | _ => 0
def Sys2Proof.Claims.productAt (e0 : Int) : Val × Val → Int
  | (.fin n1 m1 e1, .fin n2 m2 e2) => scaled e0 (n1 != n2) (m1 * m2) (e1 + e2)
  | _ => 0
/-- `e0` is at most the exponent of every term. -/
def Sys2Proof.Claims.Below (e0 : Int) (x : Val) (ps : List (Val × Val)) : Prop :=
  (∀ n m e, x = .fin n m e → e0 ≤ e) ∧ ∀ n1 m1 e1 n2 m2 e2, (Val.fin n1 m1 e1, Val.fin n2 m2 e2) ∈ ps → e0 ≤ e1 + e2
/-- A term of the sum is an infinity of the sign. -/
def Sys2Proof.Claims.InfTerm (x : Val) (ps : List (Val × Val)) (n : Bool) : Prop :=
  x = .inf n ∨ ∃ p ∈ ps, (p.1.isInf = true ∨ p.2.isInf = true) ∧ (p.1.neg != p.2.neg) = n
/-- The step has no number as its result (R178): a NaN, infinity times zero, infinite terms of opposite signs. -/
def Sys2Proof.Claims.NoNumber (x : Val) (ps : List (Val × Val)) : Prop :=
  x.isNaN = true ∨ (∃ p ∈ ps, p.1.isNaN = true ∨ p.2.isNaN = true ∨ InfZero p.1 p.2) ∨ InfTerm x ps true ∧ InfTerm x ps false

/-- One element of a floating step (R178, R222): the exact sum of the accumulator element `x` and the products `ps`, rounded once. -/
def Sys2Proof.Claims.StepCell (f : FFmt) (mode : RM) (x : Val) (ps : List (Val × Val)) (r : Nat × FFlags) : Prop :=
  (NoNumber x ps → r = (f.canonNaN, fNV)) ∧
  (¬ NoNumber x ps → (∀ n, InfTerm x ps n → r = (f.withSign n f.infCode, 0#5)) ∧
    ((∀ n, ¬ InfTerm x ps n) → ∀ e0 T, Below e0 x ps → T = termAt e0 x + (ps.map (productAt e0)).sum →
      (∀ n m e, m ≠ 0 → e0 ≤ e → scaled e0 n m e = T → r = roundVal f mode (.fin n m e)) ∧
      (T = 0 → ((∃ e, x = .fin true 0 e) ∧ (∀ p ∈ ps, (p.1.isZero = true ∨ p.2.isZero = true) ∧ p.1.neg ≠ p.2.neg) ∨ mode = .rdn →
          r = (f.withSign true 0, 0#5)) ∧
        (¬ ((∃ e, x = .fin true 0 e) ∧ ∀ p ∈ ps, (p.1.isZero = true ∨ p.2.isZero = true) ∧ p.1.neg ≠ p.2.neg) → mode ≠ .rdn →
          r = (0, 0#5)))))
/-- One element of an i8 step (R179): the products are added in rising k, each sum saturated or wrapped. -/
def Sys2Proof.Claims.intCell (sat : Bool) (x : Int) (ps : List Int) : Int :=
  ps.foldl (fun a q => if sat then max (-2 ^ 31) (min (2 ^ 31 - 1) (a + q)) else (a + q + 2 ^ 31) % 2 ^ 32 - 2 ^ 31) x

/-- A step of shape M, K, N over `v` rows (R222): element (i, j) of the accumulator becomes that of the row i of A and the column j of B,
rows from `v` on are unchanged, and the flags are those of the elements. -/
def Sys2Proof.Claims.StepIs (sh : MShape) (mode : RM) (sat : Bool) (v A B : Nat) (acc : BitVec 8192) (r : BitVec 8192 × FFlags) : Prop :=
  ∃ (w aw : Nat) (cell : Nat → Nat → Nat × FFlags), w = 4 * sh.ty.nibbles ∧ aw = 4 * sh.acc.nibbles ∧
    (∀ i j, i < v → j < sh.n → slice aw r.1.toNat (sh.n * i + j) = (cell i j).1 ∧
      (∀ f, sh.acc.flt = some f → StepCell f mode (f.decode (slice aw acc.toNat (sh.n * i + j)))
        ((List.range sh.k).map fun k => (sh.ty.val (slice w A (sh.k * i + k)), sh.ty.val (slice w B (sh.n * k + j)))) (cell i j)) ∧
      (sh.acc.flt = none → cell i j = (codeInt 32 (intCell sat (signed 32 (slice 32 acc.toNat (sh.n * i + j)))
        ((List.range sh.k).map fun k => signed 8 (slice 8 A (sh.k * i + k)) * signed 8 (slice 8 B (sh.n * k + j)))), 0#5))) ∧
    (∀ i, v * sh.n ≤ i → slice aw r.1.toNat i = slice aw acc.toNat i) ∧
    (∀ b, r.2.getLsbD b = true ↔ ∃ i j, i < v ∧ j < sh.n ∧ (cell i j).2.getLsbD b = true)

/-- The steps (R222, R232, R233): with the unit free and the operands ready, the rows of A are read, the bank is claimed, and the step runs
with the accumulator's sum of products, rounded once (`StepIs`, of the shapes of Table 09-1); MMA on the ring takes IN as its B. The result, computed at the start, is written at
retirement (log entry 28), and the operand is checked over the bytes of its valid rows alone (log entry 34): the model's choices. Banks
(R228, R229): a context whose identity owns a bank of the cell uses it, and no byte of memory changes; one that owns none, in the tile or
spilled, takes a free bank, cleared and owned; that a context without an identity finds a free bank its own is the model's choice (log entry
12). A step retires (R222): its accumulator gets the result, its flags join its context's fcsr, the unit is free; a ring step hands its
B on, with its hop count raised, none at the sixteenth cell, and pending while the next cell's IN is full (R223 to R225). A handoff lands in
the next cell's empty IN (R224). -/
def Obligations.MatrixResults : Prop :=
  ((∀ sh ∈ [MShape.mk 8 4 8 .f64 .f64, ⟨16, 4, 16, .f32, .f32⟩, ⟨16, 16, 16, .bf16, .f32⟩, ⟨16, 16, 16, .f16, .f32⟩, ⟨16, 32, 16, .e4m3n, .f32⟩,
      ⟨16, 32, 16, .e5m2n, .f32⟩, ⟨16, 32, 16, .i8, .i32⟩, ⟨8, 32, 16, .bf16, .f32⟩], ∀ mode sat v A B acc, v ≤ sh.m →
    StepIs sh mode sat v A B acc (stepAcc sh mode sat v A B acc)) ∧
  (∀ p, [MShape.mk 8 4 8 .f64 .f64, ⟨16, 4, 16, .f32, .f32⟩, ⟨16, 16, 16, .bf16, .f32⟩, ⟨16, 16, 16, .f16, .f32⟩, ⟨16, 32, 16, .e4m3n, .f32⟩,
      ⟨16, 32, 16, .e5m2n, .f32⟩, ⟨16, 32, 16, .i8, .i32⟩][p.fx53.toNat]? = some (pShape p) ∨ p.fx53 = 7#3) ∧
  (∀ s m, validRows s m = min s.ctx.vcnt.toNat m)) ∧
  ((∀ p d a s u v A b x y va n w, u = s.charged 64 0 → s.issues (.mmaHold p d a) .plain 64 0 = true → accReady s = true → MemReady p u v →
    va = u.rs (p.an a) + BitVec.ofInt 64 (16 * p.imm0) → n = validRows u (pShape p).m * (pShape p).k * (pShape p).ty.bytes →
    matRead v va n = .ok A → AccRead v (p.dn d) b x y → w = y.matTouch va n →
    exec (.mmaHold p d a) s = .next ((withAcquire p (w.startStep b (p.dn d) (stepAcc (pShape p) (roundMode p w) (satOn p)
      (validRows u (pShape p).m) A w.myCell.latch.cur.toNat x) false)).done (.mmaHold p d a))) ∧
  (∀ p d a s u v A b x y va n w r, u = s.charged 64 0 → s.issues (.mmaRing p d a) .plain 64 0 = true → ringReady s = true → MemReady p u v →
    va = u.rs (p.an a) + BitVec.ofInt 64 (16 * p.imm0) → n = validRows u (pShape p).m * (pShape p).k * (pShape p).ty.bytes →
    matRead v va n = .ok A → AccRead v (p.dn d) b x y → w = y.matTouch va n →
    r = w.setMyCell { w.myCell with latch := w.myCell.latch.take } →
    exec (.mmaRing p d a) s = .next ((withAcquire p (r.startStep b (p.dn d) (stepAcc (pShape p) (roundMode p r) (satOn p)
      (validRows u (pShape p).m) A r.myCell.latch.cur.toNat x) true)).done (.mmaRing p d a))) ∧
  (∀ p d a s u st W st2 b x y r, u = s.charged 64 0 → s.issues (.mmv p d a) .plain 64 0 = true → mmvReady s = true →
    s.dirAt 31 = some false → weightStream u = some st → st.popMany 8 = .ok (W, st2) → AccRead u (p.dn d) b x y →
    r = y.setMyCell (y.myCell.setStream 3 (some st2)) →
    exec (.mmv p d a) s = .next ((r.startStep b (p.dn d) (stepAcc ⟨8, 32, 16, .bf16, .f32⟩ (roundMode p r) false (validRows y 8)
      (halfRows y (validRows y 8) (p.immW.toNat % 2)) W x) false).done (.mmv p d a)))) ∧
  (((∀ (s : State) (b : Bool), s.myCell.ownBank s.ctx.ident = some b → ∃ t, s.claimBank = .ok (b, t) ∧ t.mem = s.mem ∧ t.myCell.bank b = s.myCell.bank b ∧
    t.tiles = s.tiles) ∧
  (∀ s : State, s.myCell.ownBank s.ctx.ident = none → s.bankElsewhere s.ctx.ident = none → s.isSpilt s.asid s.ctx.ident = false →
    s.myCell.bank0.owner = 0#64 → ∃ t, s.claimBank = .ok (false, t) ∧ t.mem = s.mem ∧ t.myCell.bank0.owner = s.ctx.ident ∧
      (∀ d, (t.myCell.bank0).at d = 0#8192) ∧ t.myCell.bank1 = s.myCell.bank1 ∧ t.myCell.v = s.myCell.v)) ∧
  ((∀ (s : State) r, s.myCell.mrun = some r → r.d < 4 → r.slot.toNat ≤ 10 → r.handoff = false →
    ∃ t, exec .matrixStepRetire s = .next t ∧ t.myCell.mrun = none ∧ (t.myCell.bank r.bank).at r.d = r.result ∧
      (t.ctxAt s.cid r.slot.toNat).fcsr = (s.ctxAt s.cid r.slot.toNat).fcsr ||| (r.flags ++ 0#3) ∧
      (∀ k, k < 4 → k ≠ r.d → (t.myCell.bank r.bank).at k = (s.myCell.bank r.bank).at k) ∧
      t.myCell.bank (!r.bank) = s.myCell.bank (!r.bank) ∧ SameModule s t) ∧
  (∀ (s : State) r l, s.myCell.mrun = some r → r.d < 4 → r.slot.toNat ≤ 10 → r.handoff = true → l = s.myCell.latch →
    ∃ t, exec .matrixStepRetire s = .next t ∧ t.myCell.mrun = none ∧ (t.myCell.bank r.bank).at r.d = r.result ∧
      (t.ctxAt s.cid r.slot.toNat).fcsr = (s.ctxAt s.cid r.slot.toNat).fcsr ||| (r.flags ++ 0#3) ∧ SameModule s t ∧
      (l.chops = 15#4 → t.myCell.latch = l) ∧
      (l.chops ≠ 15#4 → (s.cell (ringNext s.cid)).latch.infull = false → l.flight = [] →
        t.myCell.latch = { l with flight := [(l.cur, l.chops + 1#4)] }) ∧
      (l.chops ≠ 15#4 → (s.cell (ringNext s.cid)).latch.infull = true ∨ l.flight ≠ [] → t.myCell.latch = { l with pending := true })) ∧
  (∀ (s : State) b h rest, s.myCell.latch.flight = (b, h) :: rest → (s.cell (ringNext s.cid)).latch.infull = false → ringNext s.cid ≠ s.cid →
    s.myTile.run ≠ .stopped →
    ∃ t, exec .handoffLand s = .next t ∧ (t.cell (ringNext s.cid)).latch.inn = b ∧ (t.cell (ringNext s.cid)).latch.ihops = h ∧
      (t.cell (ringNext s.cid)).latch.infull = true ∧ t.myCell.latch.flight = rest ∧ t.mem = s.mem)))

/-- MLDB loads the weights of its shape into the latch; MPASS hands the latch on; MZERO clears an accumulator; MROW moves one of its rows to a
vector register; MST issues the stores of the valid rows, and with an acquire part (log entry 11, the model's choice) performs them at once
when nothing that it waits for is left; MLD loads them, converted; MWAIT ends when the unit is free and the stores are
done; MBANK gives a bank an owner or frees it, spills it, fills it (R234 to R238). -/
def Obligations.MatrixMoves : Prop :=
  (∀ p d a s u v w va B n, u = s.charged 2 0 → s.issues (.mldb p d a) .plain 2 0 = true → latchReady s = true → MemReady p u v →
    n = (pShape p).k * (pShape p).n * (pShape p).ty.bytes → va = u.rs (p.an a) + BitVec.ofInt 64 (16 * p.imm0) → matRead v va n = .ok B →
    w = v.matTouch va n →
    exec (.mldb p d a) s = .next ((withAcquire p (w.setMyCell { w.myCell with latch := { w.myCell.latch with
      cur := BitVec.ofNat 4096 (B + w.myCell.latch.cur.toNat / 2 ^ (8 * n) * 2 ^ (8 * n)), chops := 0#4 } })).done (.mldb p d a))) ∧
  (∀ p d a s u, u = s.charged 2 0 → s.issues (.mpass p d a) .plain 2 0 = true → latchReady s = true →
    exec (.mpass p d a) s = .next ((u.handoff u.cid).done (.mpass p d a))) ∧
  (∀ p d a s u b w, u = s.charged 2 0 → s.issues (.mzero p d a) .plain 2 0 = true → accReady s = true → u.claimBank = .ok (b, w) →
    exec (.mzero p d a) s = .next ((w.putAcc b (p.dn d) 0#8192).done (.mzero p d a))) ∧
  (∀ p d a s u b x y t fl, u = s.charged 2 0 → s.issues (.mrow p d a) .plain 2 0 = true → accReady s = true → s.vheld [] [p.an a] = false →
    misuse [] (some (p.an a)) u = false → AccRead u (p.dn d) b x y →
    putLanes (p.an a) ⟨unpackLanes (x.extractLsb' (1024 * (p.immW.toNat % 8)) 1024), BitVec.allOnes 32, 0#5⟩ y = .ok (t, fl) →
    exec (.mrow p d a) s = .next ((t.raise fl).done (.mrow p d a))) ∧
  (∀ p d a s u v pl b x y z ys, u = s.charged 16 0 → s.issues (.mst p d a) .plain 16 0 = true → accReady s = true →
    MemReady p u v → (pAcq p = true → v.ctx.pend = []) →
    matCheck v (u.rs (p.an a)) ((moveSize p u).1 * (moveSize p u).2) = .ok pl → mstWindow v (moveSize p u).1 pl = false →
    AccRead v (p.dn d) b x y → mstStores y (mstPieces p x y).1 (u.rs (p.an a)) (mstPieces p x y).2.1 = .ok ys →
    z = y.touchPuts (pieces (u.rs (p.an a)) (mstPieces p x y).1 (mstPieces p x y).2.1.length) (mstPieces p x y).1 →
    (pAcq p = false → exec (.mst p d a) s = .next ((ys.foldl (fun s y => s.issueStore y .matrix)
      (z.raise (mstPieces p x y).2.2)).done (.mst p d a))) ∧
    (pAcq p = true → z.pendMeets (ys.flatMap (·.1)) = false → exec (.mst p d a) s = .next (((ys.foldl (fun s y => (s.raise y.2.2).write s.tid y.1)
      (z.raise (mstPieces p x y).2.2)).acquire (pScope p)).done (.mst p d a)))) ∧
  (∀ p d a s u v M b w k x y z, u = s.charged 16 0 → s.issues (.mld p d a) .plain 16 0 = true → accReady s = true → MemReady p u v →
    viewOf p = none → k = 8 * validRows u 16 → matRead v (u.rs (p.an a)) (8 * k) = .ok M →
    (v.matTouch (u.rs (p.an a)) (8 * k)).claimBank = .ok (b, w) →
    x = setLow 64 ((List.range k).map (elAt 64 M)) ((w.myCell.bank b).at (p.dn d)) → y = w.putAcc b (p.dn d) x →
    z = (if 64 * k < 8192 then y.setMyCell (y.myCell.setBank b { y.myCell.bank b with bad := (w.myCell.bank b).bad }) else y) →
    exec (.mld p d a) s = .next ((withAcquire p (z.raise 0#5)).done (.mld p d a))) ∧
  (∀ p d a s u v M b w t c rows n k rs x y z, u = s.charged 16 0 → s.issues (.mld p d a) .plain 16 0 = true → accReady s = true →
    MemReady p u v → viewOf p = some (t, c, rows) → n = (pShape p).ty.bytes →
    k = validRows u rows * c → matRead v (u.rs (p.an a)) (n * k) = .ok M → (v.matTouch (u.rs (p.an a)) (n * k)).claimBank = .ok (b, w) →
    rs = ((List.range k).map fun q => convert (pShape p).ty t (roundMode p w) (satOn p) (elAt (8 * n) M q)) →
    x = setLow (4 * t.nibbles) (rs.map (·.1)) ((w.myCell.bank b).at (p.dn d)) → y = w.putAcc b (p.dn d) x →
    z = (if 4 * t.nibbles * k < 8192 then y.setMyCell (y.myCell.setBank b { y.myCell.bank b with bad := (w.myCell.bank b).bad }) else y) →
    exec (.mld p d a) s = .next ((withAcquire p (z.raise (rs.foldl (fun f r => f ||| r.2) 0#5))).done (.mld p d a))) ∧
  (∀ p d a s u, u = s.charged 2 0 → s.issues (.mwait p d a) .plain 2 0 = true → unitFree u = true → mstDone u = true →
    exec (.mwait p d a) s = .next (u.done (.mwait p d a))) ∧
  (∀ p d a s u b, u = s.charged 2 0 → s.issues (.mbankSel p d a) .plain 2 0 = true → s.ctx.user = false → unitFree s = true →
    b = (p.dn d == 1) →
    (s.rs (p.an a) = 0#64 → exec (.mbankSel p d a) s = .next ((u.setMyCell (u.myCell.setBank b Bank.free)).done (.mbankSel p d a))) ∧
    (s.rs (p.an a) ≠ 0#64 → exec (.mbankSel p d a) s = .next ((u.setMyCell (u.myCell.setBank b { u.myCell.bank b with
      owner := s.rs (p.an a) })).done (.mbankSel p d a)))) ∧
  (∀ p d a s u b xs keys w, u = s.charged 2 0 → s.issues (.mbankSpill p d a) .plain 2 0 = true → s.ctx.user = false → unitFree s = true →
    b = (p.dn d == 1) → (s.rs (p.an a)).toNat % 64 = 0 → u.ctx.accessHeld = false →
    bankStores u (s.rs (p.an a)) 64 (u.myCell.bank b).bytes = .ok xs →
    keys = xs.map (fun x => match x.1 with | q :: _ => q.pa | [] => 0) →
    w = (xs.foldl (fun s x => s.raise x.2.2) (u.touchPuts (pieces (s.rs (p.an a)) 64 64) 64)).storeBank (u.myCell.bank b) (xs.flatMap (·.1)) keys →
    exec (.mbankSpill p d a) s = .next ((w.setMyCell (w.myCell.setBank b Bank.free)).done (.mbankSpill p d a)) ∧
      (s.flaws = [] → w.mem = applyBytes s.mem (xs.flatMap (·.1)))) ∧
  (∀ p d a s u b bs w, u = s.charged 2 0 → s.issues (.mbankFill p d a) .plain 2 0 = true → s.ctx.user = false → unitFree s = true →
    b = (p.dn d == 1) → (s.rs (p.an a)).toNat % 64 = 0 → u.ctx.accessHeld = false → bankRead u (s.rs (p.an a)) 64 = .ok bs →
    w = u.touchAll (pieces (s.rs (p.an a)) 64 64) 64 →
    exec (.mbankFill p d a) s = .next ((w.setMyCell (w.myCell.setBank b ⟨(w.myCell.bank b).owner, accsOf (leNat bs), 0#4⟩)).done
      (.mbankFill p d a)))

/-! ### Region registers (06 R128 to R163) -/

/-- The region registers that the instruction reads hold no uncorrectable error, and no correctable error is unmet (06 R148). -/
def Sys2Proof.Claims.Sound (i : Instr) (s : State) : Prop := regionFault i s = none ∧ s.flaws = []

/-- A region-writing instruction whose result has `g.boxes.length` boxes is charged `base + per` × that number and writes the register,
nothing else; a context that cannot pay that yields. -/
def Sys2Proof.Claims.RegionDone (i : Instr) (dst base per : Nat) (r : Produced) (s : State) : Prop :=
  ∀ g n, r = .ok g → n = base + per * g.boxes.length →
    (s.issues i .plain n 0 = true → Sound i s → exec i s = .next (((s.charged n 0).wg dst g).done i)) ∧ CannotPay s i .plain true n

/-- GINT, GUNI, GSUB: the set operation on the boxes of two regions of one descriptor (R154). -/
def Sys2Proof.Claims.RegionAlgebra (mk : Pfx → BitVec 4 → BitVec 4 → Instr) (op : Bool → Bool → Bool) : Prop :=
  ∀ p d a s P Q, P = s.rg (if p.hasR then p.an a else p.dn d) → Q = s.rg (if p.hasR then p.en else p.an a) → P.rank ≠ 0#3 → Q.rank ≠ 0#3 →
    (s.desc P.desc).installed = true → P.ragged = false → Q.ragged = false → P.desc = Q.desc →
    RegionDone (mk p d a) (p.dn d) 4 2 (produce s P.desc op (s.boxes P) (s.boxes Q) P.strided (P.inexact || Q.inexact) (P.ovf || Q.ovf)) s

/-- GDIL, GSHIFT, GPROJ: a transform of one region that is not ragged (R158). -/
def Sys2Proof.Claims.RegionTransform (mk : Pfx → BitVec 4 → BitVec 4 → Instr) (f : Pfx → State → Nat → List Nat → List NBox → List NBox) : Prop :=
  ∀ p d a s g, g = s.rg (p.an a) → g.rank ≠ 0#3 → (s.desc g.desc).installed = true → g.ragged = false →
    RegionDone (mk p d a) (p.dn d) 4 2 (produce s g.desc opOr (f p s (s.desc g.desc).n (s.desc g.desc).sizes (s.boxes g)) [] g.strided
      g.inexact g.ovf) s

/-- The region-writing instructions write the canonical form of their set and are charged by its boxes, and yield when that cannot be
paid: GINT, GUNI, GSUB, GSET, GEMPTY, GBOX, GLAT, GRAG, GDIL, GSHIFT, GPROJ, GSPLIT and GCANON (R154 to R160). -/
def Obligations.RegionResults : Prop :=
  RegionAlgebra .gint (fun x y => x && y) ∧ RegionAlgebra .guni (fun x y => x || y) ∧ RegionAlgebra .gsub (fun x y => x && !y) ∧
  (∀ p d a s, (s.desc ((s.rs (p.an a)).extractLsb' 0 12)).installed = true → s.sid ≤ 10 →
    RegionDone (.gset p d a) (p.dn d) 2 0 (produce s ((s.rs (p.an a)).extractLsb' 0 12) opOr
      [(s.desc ((s.rs (p.an a)).extractLsb' 0 12)).sizes.map fun n => ⟨0, n, 1⟩] [] (s.ctx.gmode.getLsbD 1) false false) s) ∧
  (∀ p d a s, (s.desc ((s.rs (p.an a)).extractLsb' 0 12)).installed = true → s.sid ≤ 10 →
    RegionDone (.gempty p d a) (p.dn d) 2 0 (produce s ((s.rs (p.an a)).extractLsb' 0 12) opOr [] [] (s.ctx.gmode.getLsbD 1) false false) s) ∧
  (∀ p d a s g n, g = s.rg (p.dn d) → g.rank ≠ 0#3 → (s.desc g.desc).installed = true → g.ragged = false → n = (s.desc g.desc).n →
    0 ∉ vecList p p.en n s → 0 ∉ vecList p (p.en + vecRegs p) n s →
    RegionDone (.gbox p d a) (p.dn d) 2 0 (produce s g.desc opOr
      [mkBox (vecList p (p.an a) n s) (vecList p p.en n s) (vecList p (p.en + vecRegs p) n s)] [] (s.ctx.gmode.getLsbD 1) false false) s) ∧
  (∀ p d a s g n cnt, g = s.rg (p.dn d) → g.rank ≠ 0#3 → (s.desc g.desc).installed = true → g.ragged = false → n = (s.desc g.desc).n →
    0 ∉ vecList p p.en n s →
    cnt = (List.range n).map (fun k => ceilDiv (((s.desc g.desc).sizes[k]?).getD 0 - ((vecList p (p.an a) n s)[k]?).getD 0)
      (((vecList p p.en n s)[k]?).getD 1)) →
    RegionDone (.glat p d a) (p.dn d) 2 0 (produce s g.desc opOr
      (if 0 ∈ cnt then [] else [mkBox (vecList p (p.an a) n s) cnt (vecList p p.en n s)]) [] (s.ctx.gmode.getLsbD 1) false false) s) ∧
  (∀ p d a s g n b r, g = s.rg (p.dn d) → g.rank ≠ 0#3 → (s.desc g.desc).installed = true → (s.desc g.desc).ragged = true →
    n = (s.desc g.desc).n → 2 ≤ n → 0 ∉ vecList p (p.en + 2 * vecRegs p) n s → 0 ∉ (vecList p (p.en + vecRegs p) n s).take (n - 1) →
    b = mkBox (vecList p p.en n s) (vecList p (p.en + vecRegs p) n s) (vecList p (p.en + 2 * vecRegs p) n s) →
    mkRagged s g.desc (b.take (n - 1)) ((b.drop (n - 1)).headD oneRng) (s.rs (p.an a)) (s.ctx.gmode.getLsbD 1) false false = some r →
    RegionDone (.grag p d a) (p.dn d) 2 0 (.ok r) s) ∧
  RegionTransform .gdil (fun p s n sizes bs => bs.flatMap fun b => crossRngs (dilateBox (vecList p p.en n s) sizes b)) ∧
  RegionTransform .gshift (fun p s n sizes bs => bs.filterMap (shiftBox ((List.range n).map fun k => vecSigned p p.en k s) sizes)) ∧
  RegionTransform .gproj (fun p _ _ _ bs => bs.map (projBox (p.immW.toNat % 16) 0)) ∧
  (∀ p d a s g i k, g = s.rg (p.an a) → g.rank ≠ 0#3 → (s.desc g.desc).installed = true → g.ragged = false →
    i = ((s.rs p.en).extractLsb' 0 32).toNat → k = ((s.rs p.en).extractLsb' 32 32).toNat → i < k → volume (s.boxes g) < 2 ^ 64 →
    RegionDone (.gsplit p d a) (p.dn d) 4 2 (produce s g.desc opOr
      (listPart (s.boxes g) (partStart (volume (s.boxes g)) k i) (partStart (volume (s.boxes g)) k (i + 1))) [] g.strided g.inexact g.ovf) s) ∧
  (∀ p d a s g D i k r0 rest fr n O, g = s.rg (p.an a) → g.rank ≠ 0#3 → D = s.desc g.desc → D.installed = true → g.ragged = true →
    i = ((s.rs p.en).extractLsb' 0 32).toNat → k = ((s.rs p.en).extractLsb' 32 32).toNat → i < k → g.outer D.n = r0 :: rest →
    fr = partStart r0.cnt k i → n = partStart r0.cnt k (i + 1) - fr →
    O = (if n = 0 then none else clipBox D.sizes (⟨r0.lo + fr * r0.step, n, r0.step⟩ :: rest)) →
    RegionDone (.gsplit p d a) (p.dn d) 4 2 (.ok (match O with
      | none => emptyRegion g.desc D g.strided g.inexact g.ovf
      | some O => { g with rank := BitVec.ofNat 3 D.n, ltab := g.ltab + BitVec.ofNat 64 (4 * fr * NBox.size rest)
                           boxes := [(O.map Rng.norm ++ [(((g.nboxes D.n).headD []).drop (D.n - 1)).headD oneRng]).map Rng.dim] })) s) ∧
  (∀ p d a s g, g = s.rg (p.an a) → g.rank ≠ 0#3 → (s.desc g.desc).installed = true → g.ragged = false →
    RegionDone (.gcanon p d a) (p.dn d) 8 4 (produce s g.desc opOr (s.boxes g) [] (p.fx.getLsbD 0) g.inexact g.ovf) s)

/-- More than eight boxes under EXACT trap region overflow (0x0A) with the exact count in tinfo; the destination's OVF is set, nothing else of
it changes, and nothing is charged (R136): GINT, GUNI, GSUB. Region illegal (0x0B), uncharged, with its reason: an unset operand or a
descriptor that is not installed (3), a ragged operand (2) or another descriptor (1) of the algebra and the transforms, a zero count or
step (4), a split out of range (5) (R152, R154 to R159). A region register that holds an uncorrectable error traps 0x15 when it is used, and
a correctable error is corrected and entered in the tile's error log (R148; the trap's taddr is the model's choice, log entry 34). -/
def Obligations.RegionTraps : Prop :=
  (∀ mk op, (mk, op) ∈ [(Instr.gint, fun x y : Bool => x && y), (Instr.guni, fun x y => x || y), (Instr.gsub, fun x y => x && !y)] →
    ∀ p d a s P Q k, P = s.rg (if p.hasR then p.an a else p.dn d) → Q = s.rg (if p.hasR then p.en else p.an a) → P.rank ≠ 0#3 →
      Q.rank ≠ 0#3 → (s.desc P.desc).installed = true → P.ragged = false → Q.ragged = false → P.desc = Q.desc → s.ctx.paid = none →
      produce s P.desc op (s.boxes P) (s.boxes Q) P.strided (P.inexact || Q.inexact) (P.ovf || Q.ovf) = .over k →
      s.issues (mk p d a) .plain 0 0 = true → Sound (mk p d a) s →
      exec (mk p d a) s = .next ((((s.setCtx { s.ctx with wait := .none }).wg (p.dn d)
        { (s.setCtx { s.ctx with wait := .none }).rg (p.dn d) with ovf := true }).takeTrap ⟨0x0A, s.ctx.pc, BitVec.ofNat 64 k, none⟩
        (mk p d a).ilen))) ∧
  ((∀ mk ∈ [Instr.gint, Instr.guni, Instr.gsub], ∀ p d a s P Q r, P = s.rg (if p.hasR then p.an a else p.dn d) →
    Q = s.rg (if p.hasR then p.en else p.an a) → s.issues (mk p d a) .plain 4 0 = true → Sound (mk p d a) s → s.ctx.paid = none →
    (r = 3 ∧ (P.rank = 0#3 ∨ Q.rank = 0#3 ∨ (s.desc P.desc).installed = false) ∨
      P.rank ≠ 0#3 ∧ Q.rank ≠ 0#3 ∧ (s.desc P.desc).installed = true ∧
        (r = 2 ∧ (P.ragged = true ∨ Q.ragged = true) ∨ r = 1 ∧ P.ragged = false ∧ Q.ragged = false ∧ P.desc ≠ Q.desc)) →
    exec (mk p d a) s = .next ((s.setCtx { s.ctx with wait := .none }).takeTrap ⟨0x0B, s.ctx.pc, BitVec.ofNat 64 r, none⟩ (mk p d a).ilen)) ∧
  (∀ mk n, (mk, n) ∈ [(Instr.gdil, 4), (Instr.gshift, 4), (Instr.gproj, 4), (Instr.gcanon, 8)] → ∀ p d a s g r, g = s.rg (p.an a) →
    s.issues (mk p d a) .plain n 0 = true → Sound (mk p d a) s → s.ctx.paid = none →
    (r = 3 ∧ (g.rank = 0#3 ∨ (s.desc g.desc).installed = false) ∨ r = 2 ∧ g.rank ≠ 0#3 ∧ (s.desc g.desc).installed = true ∧ g.ragged = true) →
    exec (mk p d a) s = .next ((s.setCtx { s.ctx with wait := .none }).takeTrap ⟨0x0B, s.ctx.pc, BitVec.ofNat 64 r, none⟩ (mk p d a).ilen)) ∧
  (∀ p d a s g n, g = s.rg (p.dn d) → g.rank ≠ 0#3 → (s.desc g.desc).installed = true → g.ragged = false → n = (s.desc g.desc).n →
    s.issues (.gbox p d a) .plain 2 0 = true → Sound (.gbox p d a) s → s.ctx.paid = none → 0 ∈ vecList p p.en n s ∨ 0 ∈ vecList p (p.en + vecRegs p) n s →
    exec (.gbox p d a) s = .next ((s.setCtx { s.ctx with wait := .none }).takeTrap ⟨0x0B, s.ctx.pc, 4#64, none⟩ (Instr.gbox p d a).ilen)) ∧
  (∀ p d a s g i k, g = s.rg (p.an a) → g.rank ≠ 0#3 → (s.desc g.desc).installed = true → i = ((s.rs p.en).extractLsb' 0 32).toNat →
    k = ((s.rs p.en).extractLsb' 32 32).toNat → k ≤ i → s.issues (.gsplit p d a) .plain 4 0 = true → Sound (.gsplit p d a) s → s.ctx.paid = none →
    exec (.gsplit p d a) s = .next ((s.setCtx { s.ctx with wait := .none }).takeTrap ⟨0x0B, s.ctx.pc, 5#64, none⟩ (Instr.gsplit p d a).ilen)) ∧
  (∀ mk ∈ [Instr.gcnt, Instr.gvol, Instr.grdbox], ∀ p d a s, s.issues (mk p d a) .plain 2 0 = true → s.ctx.paid = none →
    (mk = Instr.gvol → s.ragWait (s.rg (p.an a)) = false) → s.myCell.gbad.getLsbD (p.an a) = true →
    exec (mk p d a) s = .next ((s.setCtx { s.ctx with wait := .none }).takeTrap ⟨0x15, s.ctx.pc, 0#64, none⟩ (mk p d a).ilen)) ∧
  (∀ p d a s g, g = s.rg (p.an a) → s.issues (.gcnt p d a) .plain 2 0 = true → regionFault (.gcnt p d a) s = none → s.gBad g true = none →
    s.flaws = [(.region (16 * s.cid + p.an a), false)] → ∃ t, exec (.gcnt p d a) s = .next t ∧
      t.rs (p.dn d) = BitVec.ofNat 64 g.boxes.length ∧ t.flaws = [] ∧ t.myTile.elogT = incSat s.myTile.elogT))

/-- Boxes of `n` dimensions with members. -/
def Sys2Proof.Claims.Boxes (n : Nat) (bs : List NBox) : Prop := ∀ b ∈ bs, b.length = n ∧ ∀ r ∈ b, 0 < r.cnt ∧ 0 < r.step
/-- The point is a member of some box. -/
def Sys2Proof.Claims.In (bs : List NBox) (x : List Nat) : Prop := ∃ b ∈ bs, NBox.has b x = true
def Sys2Proof.Claims.co (x : List Nat) (k : Nat) : Nat := x.getD k 0

/-- The boxes of a canonical form hold exactly the set that they stand for, in both modes (R134, R154); clipping keeps exactly the members
inside the tensor (R129). A point is in the dilation, the shift or the projection of a box when R158 says so and, of the first two, it lies
in the tensor. A part of a split holds the members of its indices in enumeration order, which is row-major in each box; the parts have the
sizes of R159, no member in common when the boxes have none, and all members together. One set is a subset of another when each member of it
is a member of the other, and equal when each of the other is also one of it, whatever the boxes (R163). -/
def Obligations.RegionSets : Prop :=
  (∀ (op : Bool → Bool → Bool) strided n (L R : List NBox), op false false = false →
    (∀ b ∈ L ++ R, b.length = n ∧ ∀ r ∈ b, 0 < r.cnt ∧ 0 < r.step) →
    ∀ x : List Nat, x.length = n → ((canonOf op strided n L R).any fun b => NBox.has b x) =
      op (L.any fun b => NBox.has b x) (R.any fun b => NBox.has b x)) ∧
  (∀ (sizes : List Nat) (b : NBox) (x : List Nat), b.length = sizes.length → x.length = sizes.length → (∀ r ∈ b, 0 < r.cnt ∧ 0 < r.step) →
    ((clipBox sizes b).any fun c => NBox.has c x) = (NBox.has b x && (x.zip sizes).all fun y => decide (y.1 < y.2))) ∧
  (∀ (sizes : List Nat) (b : NBox) (y : List Nat), Boxes sizes.length [b] → y.length = sizes.length →
    (∀ rs : List Nat, rs.length = sizes.length → (In (crossRngs (dilateBox rs sizes b)) y ↔ (∀ k, k < sizes.length → co y k < co sizes k) ∧
      ∃ x, x.length = sizes.length ∧ NBox.has b x = true ∧ ∀ k, k < sizes.length → co y k ≤ co x k + co rs k ∧ co x k ≤ co y k + co rs k)) ∧
    (∀ os : List Int, os.length = sizes.length → (In (shiftBox os sizes b).toList y ↔ (∀ k, k < sizes.length → co y k < co sizes k) ∧
      ∃ x, x.length = sizes.length ∧ NBox.has b x = true ∧ ∀ k, k < sizes.length → (co y k : Int) = co x k + os.getD k 0)) ∧
    (∀ mask, In [projBox mask 0 b] y ↔ ∃ x, x.length = sizes.length ∧ NBox.has b x = true ∧
      ∀ k, k < sizes.length → co y k = if mask / 2 ^ k % 2 = 1 then co x k else 0)) ∧
  (∀ n bs, Boxes n bs → (∀ i j x, x.length = n → (In (listPart bs i j) x ↔ ∃ q, i ≤ q ∧ q < j ∧ q < volume bs ∧ listMember bs q = x)) ∧
    (∀ x, x.length = n → (In bs x ↔ ∃ q, q < volume bs ∧ listMember bs q = x)) ∧
    (∀ b ∈ bs, ∀ p q, p < q → q < NBox.size b → lexLt (boxMember b p) (boxMember b q) = true) ∧
    (∀ k (P : Nat → List NBox), 0 < k → (∀ i, P i = listPart bs (partStart (volume bs) k i) (partStart (volume bs) k (i + 1))) →
      (∀ i, i < k → volume (P i) = volume bs / k + (if i < volume bs % k then 1 else 0)) ∧
      (∀ x, x.length = n → (In bs x ↔ ∃ i, i < k ∧ In (P i) x)) ∧
      (bs.Pairwise (fun b c => ∀ x, x.length = n → NBox.has b x = true → NBox.has c x = false) → ∀ i j x, x.length = n → i < k → j < k →
        In (P i) x → In (P j) x → i = j))) ∧
  (∀ n L R, Boxes n L → Boxes n R →
    (subSet n L R = true ↔ ∀ x, x.length = n → In L x → In R x) ∧
    (sameSet n L R = true ↔ ∀ x, x.length = n → (In L x ↔ In R x)))

/-- The frame of an instruction that writes at most the scalar registers `ds` and the flags: every other special register is as before,
the rounding mode too, and a flag that was set stays set. -/
def Sys2Proof.Claims.FrameFlags (s t : State) (ds : List Nat) : Prop :=
  SameModule s t ∧ SameUnits s t ∧ SameSlots s t ∧ SameSpecials s (t.setCtx { t.ctx with fcsr := s.ctx.fcsr }) ∧ SameRegs s t ds ∧
  t.ctx.fcsr.extractLsb' 0 3 = s.ctx.fcsr.extractLsb' 0 3 ∧ t.ctx.fcsr &&& s.ctx.fcsr = s.ctx.fcsr

/-- ADD to SUBW, ADDI, LI and RDCYC change the destination register, the pc and the budgets and nothing else: no flag, no special register, no
byte of memory. B, J, JR and RET change the pc and the budgets and nothing else; CALL and CALLR also s14. FADD to FQNT and FCVT change the
destination register, the sticky flags, the pc and the budgets and nothing else; a flag that was set stays set; FCMP changes the flags and the
predicate stack. A region instruction
writes its region register, the pc and the budgets and nothing else: no flag, no scalar or special register, no byte of memory, no other
region register (R150, R151). The operations by which the other statements give a next state: performing accesses changes the bytes that
they store and drops lines of L1s; an acquire empties the fetch buffer and at cluster scope or wider, as a release does, drops the L1s of the
tile, where R269 and R243 name the issuing cell's alone and R268 none (log entry 20, the model's choice); writing a register, raising flags,
issuing an access and joining the vector queue change that register, those flags, that list of accesses and that queue. -/
def Obligations.InstructionFrames : Prop :=
  (((∀ mk ∈ [Instr.add, Instr.sub, Instr.and, Instr.or, Instr.xor, Instr.sll, Instr.srl, Instr.sra, Instr.min, Instr.max, Instr.minu,
      Instr.maxu, Instr.mov, Instr.clz, Instr.ctz, Instr.popc, Instr.sextb, Instr.sexth, Instr.sextw, Instr.zextb, Instr.zexth,
      Instr.zextw, Instr.bswap, Instr.addw, Instr.subw, Instr.rdcyc],
    ∀ p d a s t, s.issues (mk p d a) .plain 1 0 = true → exec (mk p d a) s = .next t → FrameRegs s t [p.dn d]) ∧
  (∀ mk ∈ [Instr.mul, Instr.mulh, Instr.mulhu],
    ∀ p d a s t, s.issues (mk p d a) .plain 2 0 = true → exec (mk p d a) s = .next t → FrameRegs s t [p.dn d]) ∧
  (∀ mk ∈ [Instr.div, Instr.divu, Instr.rem, Instr.remu],
    ∀ p d a s t, s.issues (mk p d a) .plain 8 0 = true → exec (mk p d a) s = .next t → FrameRegs s t [p.dn d]) ∧
  (∀ mk ∈ [Instr.addi, Instr.li],
    ∀ p d i s t, s.issues (mk p d i) .plain 1 0 = true → exec (mk p d i) s = .next t → FrameRegs s t [d.toNat])) ∧
  ((∀ p o s t, s.issues (.b p o) .plain 1 0 = true → exec (.b p o) s = .next t → FrameRegs s t []) ∧
  (∀ p o s t, s.issues (.j p o) .plain 1 0 = true → exec (.j p o) s = .next t → FrameRegs s t []) ∧
  (∀ p o s t, s.issues (.call p o) .plain 1 0 = true → exec (.call p o) s = .next t → FrameRegs s t [14]) ∧
  (∀ p d a s t, s.issues (.jr p d a) .plain 1 0 = true → (s.rs (p.an a)).getLsbD 0 = false →
    exec (.jr p d a) s = .next t → FrameRegs s t []) ∧
  (∀ p d a s t, s.issues (.callr p d a) .plain 1 0 = true → (s.rs (p.an a)).getLsbD 0 = false →
    exec (.callr p d a) s = .next t → FrameRegs s t [14]) ∧
  (∀ p d a s t, s.issues (.ret p d a) .plain 1 0 = true → (s.rs 14).getLsbD 0 = false →
    exec (.ret p d a) s = .next t → FrameRegs s t [])) ∧
  (∀ mk n, (mk, n) ∈ [(Instr.fadd, 1), (Instr.fsub, 1), (Instr.fmul, 1), (Instr.fdiv, 8), (Instr.fsqrt, 8), (Instr.fma, 1), (Instr.fmin, 1),
      (Instr.fmax, 1), (Instr.fabs, 1), (Instr.fneg, 1), (Instr.fclass, 1), (Instr.fqnt, 1)] →
    ∀ p d a s t, s.issues (mk p d a) .plain n 0 = true → exec (mk p d a) s = .next t →
      FrameFlags s t [p.dn d]) ∧
  (∀ p d a g s t, s.issues (.fcvt p d a g) .plain 1 0 = true → exec (.fcvt p d a g) s = .next t → FrameFlags s t [d.toNat]) ∧
  (∀ p d a c s t, s.issues (.fcmp p d a c) .push 1 0 = true → s.spillBusy = false → s.ctx.pst.length < 16 → s.ctx.pdepth < 64 →
    exec (.fcmp p d a c) s = .next t → FrameFlags s (t.setCtx { t.ctx with pst := s.ctx.pst }) [])) ∧
  (∀ (s : State) (dst n : Nat) (g : GReg) (i : Instr) (t : State), s.sid ≤ 10 → dst < 16 → t = ((s.charged n 0).wg dst g).done i →
    SameModule s t ∧ SameSlots s t ∧ SameSpecials s t ∧ SameRegs s t [] ∧ t.rg dst = g ∧ (∀ k, k ≠ dst → t.rg k = s.rg k) ∧
    { t.myCell with slots := s.myCell.slots, g := s.myCell.g, gbad := s.myCell.gbad } = s.myCell ∧
    t.myCell.gbad = s.myCell.gbad &&& ~~~(1#16 <<< dst)) ∧
  ((∀ (s : State) t bs, (∀ a, (∀ b ∈ bs, b.pa ≠ a) → rd8 (s.perform t bs).mem a = rd8 s.mem a) ∧
      (∀ c, { (s.perform t bs).cell c with l1 := (s.cell c).l1 } = s.cell c) ∧ { s.perform t bs with mem := s.mem, cells := s.cells } = s) ∧
  (∀ (s t : State) sc, s.sid ≤ 10 → t = s.acquire sc → { t with cells := s.cells } = s ∧
    (∀ c, { t.cell c with slots := (s.cell c).slots, l1 := (s.cell c).l1 } = s.cell c) ∧
    (∀ c n, ¬ (c = s.cid ∧ n = s.sid) → t.ctxAt c n = s.ctxAt c n) ∧ { t.ctx with fbuf := s.ctx.fbuf } = s.ctx ∧ t.ctx.fbuf = none ∧
    (∀ c, c / 16 ≠ s.tid → t.cell c = s.cell c) ∧ (2 ≤ sc → ∀ c, c / 16 = s.tid → (t.cell c).l1 = [])) ∧
  (∀ (s t : State) sc, t = s.release sc → { t with cells := s.cells } = s ∧ (∀ c, { t.cell c with l1 := (s.cell c).l1 } = s.cell c) ∧
    (2 ≤ sc → ∀ c, c / 16 = s.tid → (t.cell c).l1 = [])) ∧
  (∀ (s t : State) n v, s.sid ≤ 10 → t = s.ws n v → SameModule s t ∧ SameUnits s t ∧ SameSlots s t ∧ SameRegs s t [n] ∧
    { t.ctx with regs := s.ctx.regs } = s.ctx) ∧
  (∀ (s t : State) f, s.sid ≤ 10 → t = s.raise f → SameModule s t ∧ SameUnits s t ∧ SameSlots s t ∧ { t.ctx with fcsr := s.ctx.fcsr } = s.ctx) ∧
  (∀ (s t : State) x, s.sid ≤ 10 → t = s.addPend x → SameModule s t ∧ SameUnits s t ∧ SameSlots s t ∧
    { t.ctx with pend := s.ctx.pend } = s.ctx) ∧
  (∀ (s t : State) w f, t = s.enqueueV w f → SameModule s t ∧ SameSlots s t ∧ t.ctx = s.ctx ∧ { t.myCell with vq := s.myCell.vq } = s.myCell))

/-- GLD and GST move the image of a region register, GST as 25 stores that are issued, or with an acquire part (log entry 11, the model's
choice) performed before it once the context's accesses are; GCNT, GVOL and GRDBOX give its boxes, members and a box; GTEST pushes
whether it is empty, has a member, is a subset or is inexact; GEQ pushes whether two regions are equal (R161 to R163). -/
def Obligations.RegionQueries : Prop :=
  (∀ p d a s u v w va m bs g, va = s.rs (p.an a) + p.immW → m = bulkTraffic s va 400 → u = s.charged 2 m →
    s.issues (.gld p d a) .plain 2 m = true → va.toNat % 16 = 0 → MemReady p u v →
    readPieces v va 25 = .ok bs → loadImage v.asIssued bs = .ok (.ok g) → w = v.touchAll (pieces va 16 25) 16 →
    exec (.gld p d a) s = .next ((withAcquire p (w.wg (p.dn d) g)).done (.gld p d a))) ∧
  (∀ p d a s u v w va m xs, va = s.rs (p.an a) + p.immW → m = bulkTraffic s va 400 → u = s.charged 2 m →
    s.issues (.gst p d a) .plain 2 m = true → Sound (.gst p d a) s → va.toNat % 16 = 0 → MemReady p u v →
    storePieces v va 25 (s.gOp (p.dn d)).image = .ok xs → w = v.touchPuts (pieces va 16 25) 16 →
    (pAcq p = false → ∃ t, exec (.gst p d a) s = .next t ∧ t = (xs.foldl (fun s x => s.issueStore x .plain) w).done (.gst p d a) ∧
      ∀ k, rd8 t.mem k = rd8 s.mem k) ∧
    (pAcq p = true → v.ctx.pend = [] → v.pendMeets (xs.flatMap (·.1)) = false → exec (.gst p d a) s =
      .next (((xs.foldl (fun s x => (s.raise x.2.2).write s.tid x.1) w).acquire (pScope p)).done (.gst p d a))) ∧
    (pAcq p = true → v.ctx.pend ≠ [] ∨ v.pendMeets (xs.flatMap (·.1)) = true → exec (.gst p d a) s =
      .next (u.setCtx { u.ctx.waitAs 2 m .hold with cap := if s.ctx.paid = none then some ⟨s.rg (p.dn d), Desc.none, [], []⟩ else s.ctx.cap }))) ∧
  (∀ p d a s u g, u = s.charged 2 0 → g = s.rg (p.an a) → s.issues (.gcnt p d a) .plain 2 0 = true → Sound (.gcnt p d a) s →
    s.gBad g true = none →
    exec (.gcnt p d a) s = .next ((u.ws (p.dn d) (BitVec.ofNat 64 g.boxes.length)).done (.gcnt p d a))) ∧
  (∀ p d a s u g, u = s.charged 2 0 → g = s.rg (p.an a) → s.issues (.gvol p d a) .plain 2 0 = true → Sound (.gvol p d a) s →
    s.gBad g true = none → u.ragWait g = false → u.ragPoison g = none →
    exec (.gvol p d a) s = .next ((u.ws (p.dn d) (BitVec.ofNat 64 (min (volume (s.boxes g)) (2 ^ 64 - 1)))).done (.gvol p d a))) ∧
  (∀ p d a s u g b w, u = s.charged 2 0 → g = s.rg (p.an a) → s.issues (.grdbox p d a) .plain 2 0 = true → Sound (.grdbox p d a) s →
    s.gBad g false = none →
    g.boxes[p.immW.toNat % 8]? = some b → w = (fun (k : Nat) (f : Dim → BitVec 32) => (f (dimAt b (k + 1)) ++ f (dimAt b k) : Word)) →
    exec (.grdbox p d a) s = .next (((((((u.ws (p.dn d) (w 0 (·.lo))).ws (p.dn d + 1) (w 2 (·.lo))).ws (p.dn d + 2) (w 0 (·.cnt))).ws
      (p.dn d + 3) (w 2 (·.cnt))).ws (p.dn d + 4) (w 0 (·.step))).ws (p.dn d + 5) (w 2 (·.step))).done (.grdbox p d a))) ∧
  (∀ p d a s u g q t, u = s.charged 2 0 → g = s.rg (p.an a) → s.issues (.gtest p d a) .push 2 0 = true → Sound (.gtest p d a) s →
    u.spillBusy = false → s.gBad g true = none → u.ragWait g = false → u.ragPoison g = none → q = p.immW.toNat % 4 →
    (q = 0 → u.push (condEntry (s.boxes g).isEmpty) = some t → exec (.gtest p d a) s = .next (t.done (.gtest p d a))) ∧
    (q = 1 → u.push (condEntry ((s.boxes g).any fun b => NBox.has b (vecList p p.en (s.desc g.desc).n s))) = some t →
      exec (.gtest p d a) s = .next (t.done (.gtest p d a))) ∧
    (q = 2 → s.gBad (s.rg p.en) true = none → u.ragWait (s.rg p.en) = false → u.ragPoison (s.rg p.en) = none →
      u.push (condEntry (g.desc == (s.rg p.en).desc && subSet (s.desc g.desc).n (s.boxes g) (s.boxes (s.rg p.en)))) = some t →
      exec (.gtest p d a) s = .next (t.done (.gtest p d a))) ∧
    (q = 3 → u.push (condEntry g.inexact) = some t → exec (.gtest p d a) s = .next (t.done (.gtest p d a)))) ∧
  (∀ p d a s u g h t, u = s.charged 2 0 → g = s.rg (p.dn d) → h = s.rg (p.an a) → s.issues (.geq p d a) .push 2 0 = true →
    Sound (.geq p d a) s → u.spillBusy = false → s.gBad g false = none → s.gBad h false = none →
    u.push (condEntry (g.desc == h.desc && sameSet (s.desc g.desc).n (s.boxes g) (s.boxes h))) = some t →
    exec (.geq p d a) s = .next (t.done (.geq p d a)))

/-! ### Atomics, caches, translation (10 R245 to R254, R263) -/

/-- One indivisible operation of `n` bytes at s[a], aligned, translated with the atomic right, its release done and no pending access of
the context on its bytes: the home's value is read, so that the L1s of the tile keep no older line of it (11 R266), memory gets `new`,
when there is one, and the registers what `put` delivers of the old value. Every byte outside the operand stays. -/
def Sys2Proof.Claims.AmoDone (i : Instr) (p : Pfx) (a : BitVec 4) (n : Nat) (new : Nat → State → Option Nat) (put : Nat → State → State)
    (s : State) : Prop :=
  ∀ m u v w pa cached sc old, m = units (chargedBytes s.tid (s.rs (p.an a)).toNat n) → u = s.charged 2 m → s.issues i .plain 2 m = true →
    (s.rs (p.an a)).toNat % n = 0 → u.ctx.accessHeld = false →
    u.access u.cid u.ctx.user .atomic (s.rs (p.an a)).toNat n = .mem pa cached sc → (pRel p = true → u.released (pScope p) = true) →
    v = released p u → v.pendTouches pa n = false → w = (v.meetLines v.tid pa n).dropLines v.tid [pa / 64] → old = rdN w.mem pa n →
    (∀ x, new old s = some x → ∃ t, exec i s = .next t ∧ t = (withAcquire p (put old (w.putN w.tid pa n x))).done i ∧
      (s.flaws = [] → ∀ a, a < pa ∨ pa + n ≤ a → rd8 t.mem a = rd8 s.mem a)) ∧
    (new old s = none → ∃ t, exec i s = .next t ∧ t = (withAcquire p (put old w)).done i ∧
      (s.flaws = [] → old = rdN s.mem pa n ∧ ∀ a, rd8 t.mem a = rd8 s.mem a))

/-- A function of the old value and s[e] that delivers the old value to s[d]. -/
def Sys2Proof.Claims.Amo (mk : Pfx → BitVec 4 → BitVec 4 → Instr) (f : Pfx → Nat → Nat → Nat) : Prop :=
  ∀ p d a s, s.sid ≤ 10 → AmoDone (mk p d a) p a (amoBytes p)
    (fun old s => some (f p old ((s.rs p.en).toNat % 2 ^ (8 * amoBytes p)))) (fun old s => s.ws (p.dn d) (BitVec.ofNat 64 old)) s

/-- AADD to ASWAP, AFADD, ACAS and AFADDCP are one indivisible operation on an aligned operand: memory gets the function of the old value and
s[e], s[d] the old value, and every byte outside the operand stays (R253, R254). -/
def Obligations.AtomicResults : Prop :=
  Amo .aadd (fun p x y => (x + y) % 2 ^ (8 * amoBytes p)) ∧ Amo .aand (fun _ x y => x &&& y) ∧ Amo .aor (fun _ x y => x ||| y) ∧
  Amo .axor (fun _ x y => x ^^^ y) ∧ Amo .amin (fun p x y => if signedLt (amoBytes p) y x then y else x) ∧
  Amo .amax (fun p x y => if signedLt (amoBytes p) x y then y else x) ∧ Amo .aminu (fun _ x y => min x y) ∧
  Amo .amaxu (fun _ x y => max x y) ∧ Amo .aswap (fun _ _ y => y) ∧ Amo .afadd (fun p x y => (fadd (amoFmt p) .rne x y).1) ∧
  (∀ p d a s, s.sid ≤ 10 → p.en ≠ 15 → AmoDone (.acas p d a) p a (amoBytes p)
    (fun old s => if old = (s.rs p.en).toNat % 2 ^ (8 * amoBytes p) then some ((s.rs (p.en + 1)).toNat % 2 ^ (8 * amoBytes p)) else none)
    (fun old s => s.ws (p.dn d) (BitVec.ofNat 64 old)) s) ∧
  (∀ p d a s, s.sid ≤ 10 → p.dn d ≠ 15 → AmoDone (.afaddcp p d a) p a 16
    (fun old s => some (pairAdd old (if amoBytes p = 8 then (s.rs p.en).toNat % 2 ^ (8 * amoBytes p)
      else (convert .f32 .f64 .rne false ((s.rs p.en).toNat % 2 ^ (8 * amoBytes p))).1)))
    (fun old s => (s.ws (p.dn d) (BitVec.ofNat 64 old)).ws (p.dn d + 1) (BitVec.ofNat 64 (old / 2 ^ 64))) s)

/-- PREF of a line changes no value, nor does PREF of a region whose table, register and rights are sound; INVL1 empties the cell's L1 or drops
one line, and does nothing for an address without a translation; a TLB miss that the tables answer fills the TLB and the access is tried
again (R245, R263); an absent page parks the access at the MTU (R248, 14 R345). WDSET writes a window descriptor that passes its checks, and
traps illegal before it is charged (07 R186, R187; that it does so before the charge is log entry 35, the model's choice). -/
def Obligations.CacheResults : Prop :=
  (∀ p a s m, m = units (chargedBytes s.tid (s.rs (p.an a)).toNat 1) → s.issues (.prefLine p a) .plain 1 m = true →
    exec (.prefLine p a) s = .next ((s.charged 1 m).done (.prefLine p a))) ∧
  (∀ p a s g m u, g = s.rg (p.an a) → s.gBad g true = none → m = units (regionBytes s (s.desc g.desc) (s.boxes g)) → u = s.charged 1 m →
    s.issues (.prefRegion p a) .plain 1 m = true → Sound (.prefRegion p a) s → u.ragWait g = false → u.ragPoison g = none →
    checkRights u g.desc (s.desc g.desc) (s.boxes g) [0] = none →
    exec (.prefRegion p a) s = .next (u.done (.prefRegion p a))) ∧
  (∀ p a s, s.issues (.invl1All p a) .plain 1 0 = true →
    exec (.invl1All p a) s = .next (((s.charged 1 0).setMyCell { (s.charged 1 0).myCell with l1 := [] }).done (.invl1All p a))) ∧
  (∀ p a s u pa sc, u = s.charged 1 0 → s.issues (.invl1Line p a) .plain 1 0 = true → (s.rs (p.an a)).toNat < 2 ^ 57 →
    u.physOf u.cid (s.rs (p.an a)).toNat = some (.ok pa sc) →
    exec (.invl1Line p a) s = .next ((u.setMyCell { u.myCell with l1 := u.myCell.l1.filter (·.line != pa / 64) }).done (.invl1Line p a))) ∧
  (∀ p a s u, u = s.charged 1 0 → s.issues (.invl1Line p a) .plain 1 0 = true →
    2 ^ 57 ≤ (s.rs (p.an a)).toNat ∨ (∀ pa sc, u.physOf u.cid (s.rs (p.an a)).toNat ≠ some (.ok pa sc)) →
    exec (.invl1Line p a) s = .next (u.done (.invl1Line p a))) ∧
  (∀ s va kind pte, s.flaws = [] → s.ctx.wait = .walk va kind → s.walk s.asid va.toNat = .leaf pte →
    exec .tlbMissWalk s = .next ((s.fillTlb s.cid (mkTlb s.asid va.toNat pte)).setCtx s.ctx.again)) ∧
  (∀ (s : State) va kind, s.sid ≤ 10 → s.ctx.wait = .walk va kind → s.walk s.asid va.toNat = .absent →
    ∃ t id, exec .tlbMissWalk s = .next t ∧ t.ctx.wait = .mtu id va kind) ∧
  (∀ p d a (s u : State), u = s.charged 2 0 → s.issues (.wdset p d a) .plain 2 0 = true →
    (∀ D, (s.ctx.paid = none → wdsetIllegal d (wdsetArg a s) = false) → wdsetCheck u.tid (wdsetArg a u) = .ok D →
      exec (.wdset p d a) s = .next ((u.setMyTile { u.myTile with win := vset u.myTile.win d.toNat D }).done (.wdset p d a))) ∧
    (s.ctx.paid = none → wdsetIllegal d (wdsetArg a s) = true →
      exec (.wdset p d a) s = .next (s.takeTrap ⟨1, s.ctx.pc, (Instr.wdset p d a).tinfo, none⟩ (Instr.wdset p d a).ilen)))

/-! ### Staged objects (10 R255 to R262) -/

/-- The stage request of LDS, STS or TRN. -/
def Sys2Proof.Claims.stageReqOf (op : StageOp) (i : Instr) (p : Pfx) (d a : BitVec 4) (D : Desc) (ls : List (Nat × GLoc)) (pa : Option Nat)
    (u : State) : StageReq :=
  ⟨op, D, u.asid, p.stage.getD 0#4, ls, pa, u.rs (p.dn d), p.dn d,
    ls.foldl (fun m l => max m (l.2.scope u.tid)) (max (pScope p) (baseScope u D)),
    (match p.order with | some o => o.order | none => 0#2), i.ilen, u.ctx.pc, none,
    pa.map fun _ => D.addr (stageMember p a u), u.ctx.user⟩

/-- The state on which a step runs: a step that may have a release side has done it (10 R257). -/
def Sys2Proof.Claims.stageFrom (r : StageReq) (u : State) : State := if u.stageRel r then u.release r.scope else u

/-- LDS or STS of one member: `u` is the state after the charge. The region is usable and exact, the tensor staged with elements of whole
bytes, the rights granted, the granule reachable, and its step does not park: the value goes to s[d], the acquire of the step follows. -/
def Sys2Proof.Claims.StageOne (mk : Pfx → BitVec 4 → BitVec 4 → Instr) (op : StageOp) (need : Need) (rights : List Nat) : Prop :=
  ∀ p d a s m u g D x ls pa r w v o, m = stageCost p a true true s → u = s.charged 2 m → s.issues (mk p d a) .plain 2 m = true →
    Sound (mk p d a) s → g = u.gOp (p.an a) → D = u.dOp (p.an a) → x = stageMember p a u →
    (u.held = none → u.gBad g true = none ∧ u.ragWait g = false ∧ u.ragPoison g = none ∧ g.inexact = false ∧ D.staged = true ∧
      memberNo p u < volume (u.boxes g) ∧ D.tyOf ≠ .q4n ∧ checkRights u g.desc D [pointBox x] rights = none) →
    u.ctx.accessHeld = false → granLocs u D [D.granule x] = .ok ls →
    u.wordsBusy ls = false → elemKey u D need x = .ok pa → (∀ k, pa = some k → u.pendTouches k D.tyOf.bytes = false) →
    r = stageReqOf op (mk p d a) p d a D ls pa u → (u.stageRel r = true → u.released r.scope = true) →
    stageRun u.tid r .issue none r.order ls (stageFrom r u) = .done w v o →
    exec (mk p d a) s = .next ((if o.getLsbD 0
      then (match v with | some v => w.ws (p.dn d) v | none => w).acquire r.scope
      else (match v with | some v => w.ws (p.dn d) v | none => w)).done (mk p d a))

/-- LDS and STS take the stage step of the granule of one member, with its data; TRN those of every granule of its region; STQ reads the state
of a granule; AUTLD installs an automaton (R261, R262). One that has paid and waits keeps its region, the descriptor and the lengths as
they were when it issued, whatever is written to them meanwhile (04 R79; 06 R139, R144, R146). -/
def Obligations.StageResults : Prop :=
  StageOne .lds .lds .read [0, 2] ∧ StageOne .sts .sts .write [1, 2] ∧
  (∀ p d a s m u g D ls r w v o, m = stageCost p a false false s → u = s.charged 2 m → s.issues (.trn p d a) .plain 2 m = true →
    Sound (.trn p d a) s → g = u.gOp (p.an a) → D = u.dOp (p.an a) →
    (u.held = none → u.gBad g true = none ∧ u.ragWait g = false ∧ u.ragPoison g = none ∧ g.inexact = false ∧ D.staged = true ∧
      checkRights u g.desc D (u.boxes g) [2] = none) → u.ctx.accessHeld = false →
    granLocs u D (D.granules (u.boxesOp (p.an a))) = .ok ls → u.wordsBusy ls = false → r = stageReqOf .trn (.trn p d a) p d a D ls none u →
    (u.stageRel r = true → u.released r.scope = true) →
    stageRun u.tid r .issue none r.order ls (stageFrom r u) = .done w v o →
    v = none ∧ exec (.trn p d a) s = .next ((if o.getLsbD 0 then w.acquire r.scope else w).done (.trn p d a))) ∧
  (∀ mk ∈ [Instr.lds, Instr.sts, Instr.trn], ∀ p d a s t, s.ctx.paid = none → exec (mk p d a) s = .next t → t.ctx.paid.isSome = true →
    t.ctx.wait ≠ .stage → t.ctx.cap = some ⟨s.rg (p.an a), s.desc (s.rg (p.an a)).desc,
      s.lens (s.rg (p.an a)) (s.desc (s.rg (p.an a)).desc).n, []⟩) ∧
  (∀ (s : State) n k, s.ctx.paid.isSome = true → s.ctx.cap = some k →
    s.gOp n = k.reg ∧ s.dOp n = k.desc ∧ s.boxesOp n = regionBoxes k.reg k.desc k.lens ∧ s.asIssued = { s with descs := k.descs }) ∧
  (∀ (s : State) n, s.ctx.paid = none →
    s.gOp n = s.rg n ∧ s.dOp n = s.desc (s.rg n).desc ∧ s.boxesOp n = s.boxes (s.rg n) ∧ s.asIssued = s) ∧
  (∀ p d a s m u v g D x i l, m = stageCost p a true false s → u = s.charged 2 m → s.issues (.stq p d a) .plain 2 m = true →
    Sound (.stq p d a) s → g = u.gOp (p.an a) → D = u.dOp (p.an a) → x = stageMember p a u →
    (u.held = none → u.gBad g true = none ∧ u.ragWait g = false ∧ u.ragPoison g = none ∧ g.inexact = false ∧ D.staged = true ∧
      memberNo p u < volume (u.boxes g) ∧ checkRights u g.desc D [pointBox x] [2] = none) → u.ctx.accessHeld = false → (pRel p = true → u.released (pScope p) = true) → v = released p u →
    granLocs v D [D.granule x] = .ok [(i, l)] → v.wordsBusy [(i, l)] = false →
    exec (.stq p d a) s = .next ((withAcquire p ((v.meetGran v.tid l).ws (p.dn d) (BitVec.ofNat 64 (v.granState l)))).done (.stq p d a))) ∧
  (∀ p d a s m u w img, m = bulkTraffic s (s.rs (p.an a)) 128 → u = s.charged 2 m → s.issues (.autld p d a) .plain 2 m = true → d ≠ 0#4 →
    (s.rs (p.an a)).toNat % 16 = 0 → u.ctx.accessHeld = false → readPieces u (s.rs (p.an a)) 8 = .ok img → u.autBusy u.asid d = false →
    (img.any fun b => (entAct (b.toNat % 128) == .ok || entAct (b.toNat % 128) == .noData) && decide (stateCount img ≤ entNext (b.toNat % 128)))
      = false → u.released 4 = true → w = (u.touchAll (pieces (s.rs (p.an a)) 16 8) 16).release 4 →
    exec (.autld p d a) s = .next (({ w with auts := mset w.auts (w.asid.toNat * 16 + d.toNat) img } : State).done (.autld p d a)))

/-- The stage step of one granule (R256, R257): the automaton's entry for its state and the transition decides. OK does the data part and
NO-DATA does not; both write the next state; PARK joins the granule's queue and FAULT ends it, and neither changes the state. The step
reads the state at its home, so the tile's L1s keep no older copy of its line (11 R266). A granule whose state holds an uncorrectable
error traps 0x15 (R244; its taddr for a tile controller is log entry 34, the model's choice). -/
def Obligations.StageStep : Prop :=
  (∀ (s m : State) (t : Nat) (r : StageReq) (g : Nat) (l : GLoc) (e : Nat), e = s.stageEntry r l → s.granDue l = false → m = s.meetGran t l →
    (entAct e = .ok → stageRun t r .issue none 0#2 [(g, l)] s = .done ((stageData m t r).2.setGran t l (e % 8)) (stageData m t r).1
      (BitVec.ofNat 2 (e / 32))) ∧
    (entAct e = .noData → stageRun t r .issue none 0#2 [(g, l)] s = .done (m.setGran t l (e % 8)) none (BitVec.ofNat 2 (e / 32))) ∧
    (entAct e = .fault → stageRun t r .issue none 0#2 [(g, l)] s = .fault m g (m.granState l)) ∧
    (entAct e = .park → m.parkRoom l.home = true →
      stageRun t r .issue none 0#2 [(g, l)] s = .park m { r with grans := [(g, l)], order := 0#2 } l true) ∧
    (entAct e = .park → m.parkRoom l.home = false → stageRun t r .issue none 0#2 [(g, l)] s = .full)) ∧
  (∀ (s : State) (t : Nat) (r : StageReq) (g : Nat) (l : GLoc) gs, s.granDue l = true →
    stageRun t r .issue none 0#2 ((g, l) :: gs) s = .wait) ∧
  (∀ (s : State) t pa k, s.flaws = [] → s.meetGran t (.word pa k) = s.dropLines t [pa / 64]) ∧
  (∀ (s : State) D i is l, granLoc D s.ctx.user (fun va => s.access s.cid s.ctx.user .stage va.toNat 8) i = .ok l → s.granLost l = true →
    granLocs s D (i :: is) = .error (.trap ⟨0x15, D.granVa i, 0#64, none⟩)) ∧
  (∀ (s : State) t pa k v, s.mem.wf = true → k < 16 → v < 16 → (s.setGran t (.word pa k) v).granState (.word pa k) = v) ∧
  (∀ (s : State) t u n v, v < 16 → (s.setGran t (.ctl u n) v).granState (.ctl u n) = v) ∧
  (autFE 0 0 = 0x41 ∧ autFE 1 0 = 0x08 ∧ autFE 0 1 = 0x08 ∧ autFE 1 1 = 0x20 ∧ autFE 0 2 = 0x08 ∧ autFE 1 2 = 0x21)

/-! ### Messages, counters and the waiting-task table (12 R287 to R297) -/

/-- SEND puts a message in the cell's buffer once its release is done and no acquire of the context that covers it is pending, and stalls
while the buffer is full, not issued and so not charged (R289, R290; that it is not issued is log entry 25, that the cell numbers its
messages for each address space log entry 35: both the model's choice); CTRADD adds to a counter of the tile, CTRRD reads one, CWAIT waits
until one reaches the value, at the counter or at its turn, acquires at its scope and takes its refunds in that step (R293). -/
def Obligations.MessageResults : Prop :=
  (∀ p d a (s u v x : State) (w q : Word) n m sc, w = s.rs (p.dn d) → n = (w.extractLsb' 9 3).toNat + 1 →
    m = (if w.extractLsb' 54 10 = s.fab.devid ∧ (w.extractLsb' 42 12).toNat = s.tid then 0 else units (8 * n)) →
    u = s.charged 2 m → s.issues (.send p d a) .plain 2 m = true → p.an a + n ≤ 16 → w.extractLsb' 54 10 ∈ u.fab.domain →
    (w.extractLsb' 42 12).toNat < 2560 → (w.extractLsb' 22 20).toNat * 8 + 8 * n ≤ 2 ^ 20 →
    sc = u.spanTo u.tid (w.extractLsb' 54 10) (w.extractLsb' 42 12).toNat →
    (u.myCell.sendRoom = true → u.released sc = true → (∀ y ∈ u.ctx.pend, y.holdsBack sc = false) → v = u.release sc →
      q = mget u.myCell.sent u.asid.toNat 0#64 + 1#64 → x = v.setMyCell { v.myCell with sent := mset u.myCell.sent u.asid.toNat q } →
      exec (.send p d a) s = .next ((x.post x.cid (.msg (w.extractLsb' 54 10) (w.extractLsb' 42 12)
        (BitVec.ofNat 20 ((w.extractLsb' 22 20).toNat * 8)) (w.extractLsb' 12 10) ((List.range n).map fun i => s.rs (p.an a + i))
        (x.tagFor (w.extractLsb' 54 10) x.asid) (q.setWidth 32) sc s.ctx.ident)).done (.send p d a))) ∧
    (u.myCell.sendRoom = false ∨ u.released sc = false ∨ (∃ y ∈ u.ctx.pend, y.holdsBack sc = true) → s.ctx.paid = none →
      exec (.send p d a) s = .next s)) ∧
  (∀ p d a s u, u = s.charged 2 0 → s.issues (.ctradd p d a) .plain 2 0 = true →
    exec (.ctradd p d a) s = .next ((u.bump u.tid ((s.rs (p.dn d)).extractLsb' 0 10).toNat ((s.rs (p.an a)).extractLsb' 0 32) 0 0#32
      0#32).done (.ctradd p d a))) ∧
  (∀ p d a s u, u = s.charged 2 0 → s.issues (.ctrrd p d a) .plain 2 0 = true →
    exec (.ctrrd p d a) s = .next ((u.ws (p.dn d) ((u.myTile.ctr ((s.rs (p.an a)).extractLsb' 0 10).toNat).value.setWidth 64)).done
      (.ctrrd p d a))) ∧
  (∀ p d a (s u v w : State) n k, u = s.charged 2 0 → s.issues (.cwait p d a) .plain 2 0 = true →
    n = ((s.rs (p.dn d)).extractLsb' 0 10).toNat → k = u.myTile.ctr n →
    (¬ k.value < (s.rs (p.an a)).extractLsb' 0 32 → v = u.acquire k.scope.toNat → w = v.setCtx (v.ctx.addAllow k.iref k.mref) →
      exec (.cwait p d a) s = .next ((w.setMyTile (w.myTile.setCtr n { k with scope := 0#3, iref := 0#32, mref := 0#32 })).done
        (.cwait p d a))) ∧
    (k.value < (s.rs (p.an a)).extractLsb' 0 32 →
      exec (.cwait p d a) s = .next (u.setCtx (u.ctx.waitAs 2 0 (.counter (BitVec.ofNat 10 n) ((s.rs (p.an a)).extractLsb' 0 32)
        (Instr.cwait p d a).ilen))))) ∧
  (∀ (s u : State) t k c n i v len q y, n ≤ 10 → y = s.ctxAt c n → y.wait = .counter i v len → y.live = true →
    (y.user = true → (s.tile t).run = .running) → i.toNat = k → q = (s.tile t).ctr k → v ≤ q.value → u = s.meetWait t k c n →
    (u.ctxAt c n).wait = .none ∧ (u.ctxAt c n).pc = y.pc + BitVec.ofNat 64 (2 * len) ∧ (u.ctxAt c n).fbuf = none ∧
    (u.ctxAt c n).iallow = addSat y.iallow q.iref ∧ (u.ctxAt c n).mallow = addSat y.mallow q.mref ∧
    (u.tile t).ctr k = { q with scope := 0#3, iref := 0#32, mref := 0#32 } ∧ u.mem = s.mem)

/-- What leaves a send buffer (R290, R291, R297, R305, R300): a message or a join increment that no earlier one to its tile precedes lands
in the scratchpad of the tile and adds 1 to its counter, when the tile holds its address space and nothing of that space is logged before
it; else it is logged for that space, or, while the log is full, held at the tile's ingress, past which nothing is delivered; to another
module it leaves on the fabric. A SPAWN's record copy joins the ready queue. A freed place goes to a fired-pending entry. That there is a
log and a count of received messages for each address space is log entry 35, how much a log holds log entry 34: both the model's choice. -/
def Obligations.DeliveryResults : Prop :=
  (∀ (s x : State) mo t off ctr ws tag seq sc f o, o = Out.msg mo t off ctr ws tag seq sc f → s.myCell.sendq[s.sel.k]? = some o →
    firstTo s.myCell.sendq s.fab.devid s.sel.k o = true → x = s.setMyCell { s.myCell with sendq := s.myCell.sendq.eraseIdx s.sel.k } →
    (mo = s.fab.devid → (s.tile t.toNat).ingress = none → s.clocked t.toNat = true → spaceTag (s.asidOf t.toNat) = tag →
      s.loggedFor t.toNat tag.toNat = [] →
      exec .messageDelivery s = .next ((((x.setTile t.toNat ((x.tile t.toNat).received s.cid seq)).write t.toNat
        (wbytes (scratchKey t.toNat off.toNat) (ws.flatMap fun w => leBytes 8 w.toNat))).bump t.toNat ctr.toNat 1#32 sc 0#32 0#32))) ∧
    (mo = s.fab.devid → (s.tile t.toNat).ingress = none → s.clocked t.toNat = true →
      spaceTag (s.asidOf t.toNat) ≠ tag ∨ s.loggedFor t.toNat tag.toNat ≠ [] →
      (s.logRoom t.toNat = true →
        exec .messageDelivery s = .next { x with mlogs := mset x.mlogs tag.toNat (mget x.mlogs tag.toNat [] ++ [(s.cid, o)]) }) ∧
      (s.logRoom t.toNat = false →
        exec .messageDelivery s = .next (x.setTile t.toNat { x.tile t.toNat with ingress := some (tag.toNat, s.cid, o) }))) ∧
    (mo = s.fab.devid → (s.tile t.toNat).ingress ≠ none → exec .messageDelivery s = .next (s.flushIngress t.toNat)) ∧
    (mo ≠ s.fab.devid → mo ∉ s.fab.lost →
      exec .messageDelivery s = .next { x with fab := { x.fab with out := x.fab.out ++ [(mo, o)] } })) ∧
  (∀ (s x : State) j f kind iref mref tag sc snd o, o = Out.join j f kind iref mref tag sc snd → s.myCell.sendq[s.sel.k]? = some o →
    firstTo s.myCell.sendq s.fab.devid s.sel.k o = true → x = s.setMyCell { s.myCell with sendq := s.myCell.sendq.eraseIdx s.sel.k } →
    joinModule j = s.fab.devid → (s.tile (joinTile j).toNat).ingress = none → s.clocked (joinTile j).toNat = true →
    spaceTag (s.asidOf (joinTile j).toNat) = tag → s.loggedFor (joinTile j).toNat tag.toNat = [] →
    exec .joinIncrement s = .next ((x.write (joinTile j).toNat (wbytes (scratchKey (joinTile j).toNat (8 * (joinSoff j).toNat))
      ((if joinSoff j = 0#17 then [] else [(f &&& ~~~0xFF#64) ||| kind.setWidth 64]).flatMap fun w => leBytes 8 w.toNat))).bump
      (joinTile j).toNat (joinCtr j).toNat 1#32 sc iref mref)) ∧
  (∀ (s x y : State) t r k place tag sc, s.myCell.sendq[s.sel.k]? = some (.spawn t r k place tag sc) → s.clocked t.toNat = true →
    spaceTag (s.tile t.toNat).asid = tag → (s.tile t.toNat).ingress = none → s.loggedFor t.toNat tag.toNat = [] →
    x = s.setMyCell { s.myCell with sendq := s.myCell.sendq.eraseIdx s.sel.k } →
    (place = true ∧ y = x.setTile t.toNat { x.tile t.toNat with resv := (x.tile t.toNat).resv - 1 } ∨
      place = false ∧ (s.tile t.toNat).accepts = true ∧ y = x) →
    exec .spawnEnqueue s = .next (y.setTile t.toNat { y.tile t.toNat with rq := (y.tile t.toNat).rq ++ [spawnEntry r k sc] })) ∧
  (∀ (s : State) e w r, s.myTile.queued < 256 → s.myTile.wtt.find? (fun x => x.2.st == 2#2) = some (e, w) → w.held = some r →
    exec .firedPendingEnqueue s = .next (s.setMyTile { s.myTile with
      wtt := mset s.myTile.wtt e (if w.rearm && !w.frame then { w with st := 1#2, held := none } else { w with st := 0#2, held := none })
      rq := s.myTile.rq ++ [r] }))

/-- Adding to a counter (R288, R293, R296): the value wraps at 32 bits, the scope is the wider, refunds join; a CWAIT whose value it has
reached completes there in the same step, with the acquire at the scope and the refunds (that the waits come before the entries is log
entry 35, the model's choice); an armed entry whose threshold it reaches fires: the threshold is taken off, the record's words join the
ready queue, its grant words are cleared in memory and the entry is free; the record's address is taken with the rights of the kernel in
the tile's address space (log entry 8, the model's choice). In each of these three cases the whole state that follows is given. WTARM arms
a free or armed entry and checks it at once; WTDIS disarms an armed entry, keeps a fired one from arming again, and leaves a free one
(R295). A threshold of 0, a frame entry and an entry in use trap destination invalid, uncharged (R292). -/
def Obligations.WaitTable : Prop :=
  ((∀ (s : State) t c v sc i m k, k = (s.tile t).ctr c → s.waiters t = [] → (∀ e, ((s.tile t).entry e).due c (k.value + v) = false) →
    ∃ r, s.bump t c v sc i m = r ∧
      r = s.setTile t ((s.tile t).setCtr c ⟨k.value + v, BitVec.ofNat 3 (max k.scope.toNat sc), addSat k.iref i, addSat k.mref m⟩) ∧
      (r.tile t).ctr c = ⟨k.value + v, BitVec.ofNat 3 (max k.scope.toNat sc), addSat k.iref i, addSat k.mref m⟩ ∧
      (∀ n, n ≠ c → (r.tile t).ctr n = (s.tile t).ctr n) ∧ (r.tile t).wtt = (s.tile t).wtt ∧ (r.tile t).rq = (s.tile t).rq ∧
      (∀ u, u ≠ t → r.tile u = s.tile u) ∧ r.cells = s.cells ∧ r.mem = s.mem) ∧
  (∀ (s : State) t c v sc i m k x n y val len, k = (s.tile t).ctr c → s.waiters t = [(x, n)] → n ≤ 10 → c < 1024 → y = s.ctxAt x n →
    y.wait = .counter (BitVec.ofNat 10 c) val len → y.live = true → (y.user = true → (s.tile t).run = .running) → val ≤ k.value + v →
    (∀ e, ((s.tile t).entry e).due c (k.value + v) = false) →
    ∃ r, s.bump t c v sc i m = r ∧
      r = ((s.setCtxAt x n (y.endCwait (addSat k.iref i) (addSat k.mref m) len)).acquireAt x n (BitVec.ofNat 3 (max k.scope.toNat sc)).toNat).setTile t
        ((s.tile t).setCtr c ⟨k.value + v, 0#3, 0#32, 0#32⟩) ∧
      r.ctxAt x n = { y with iallow := addSat y.iallow (addSat k.iref i), mallow := addSat y.mallow (addSat k.mref m), wait := .none
                             paid := none, cap := none, pc := y.pc + BitVec.ofNat 64 (2 * len), fbuf := none } ∧
      (r.tile t).ctr c = ⟨k.value + v, 0#3, 0#32, 0#32⟩ ∧ (r.tile t).wtt = (s.tile t).wtt ∧ (r.tile t).rq = (s.tile t).rq ∧
      (∀ y j, (y, j) ≠ (x, n) → r.ctxAt y j = s.ctxAt y j) ∧ r.mem = s.mem) ∧
  (∀ (s s3 : State) t c v sc i m k n e w pa, k = (s.tile t).ctr c → s.waiters t = [] → n = k.value + v → w = (s.tile t).entry e → w.st = 1#2 → w.frame = false →
    w.rearm = false → w.ctr.toNat = c → w.thresh ≠ 0#32 → w.thresh ≤ n → (∀ j, j ≠ e → ((s.tile t).entry j).due c n = false) →
    (s.tile t).accepts = true →
    s3 = s.setTile t ((s.tile t).setCtr c ⟨n - w.thresh, 0#3, addSat k.iref i, addSat k.mref m⟩) → s3.recordKey t w.record = some pa →
    ∃ r, s.bump t c v sc i m = r ∧
      r = ((s3.noteRecord t w.record).putN t (pa + 0x30) 8 0).setTile t { s3.tile t with
        rq := (s.tile t).rq ++ [⟨some (rdRecord s.mem pa), 0#64, false, false, joinPrio (vget (rdRecord s.mem pa) 7 0#64), 0, none,
          (BitVec.ofNat 3 (max k.scope.toNat sc)).toNat, none, 0⟩]
        wtt := mset (s.tile t).wtt e { w with st := 0#2, held := none } } ∧
      r.mem = (s3.putN t (pa + 0x30) 8 0).mem ∧
      (r.tile t).ctr c = ⟨n - w.thresh, 0#3, addSat k.iref i, addSat k.mref m⟩ ∧
      (r.tile t).rq = (s.tile t).rq ++ [⟨some (rdRecord s.mem pa), 0#64, false, false, joinPrio (vget (rdRecord s.mem pa) 7 0#64), 0, none,
        (BitVec.ofNat 3 (max k.scope.toNat sc)).toNat, none, 0⟩] ∧
      ((r.tile t).entry e).st = 0#2 ∧ (∀ u, u ≠ t → r.tile u = s.tile u))) ∧
  ((∀ p d a (s u : State) (w : Word) e, u = s.charged 2 0 → s.issues (.wtarm p d a) .plain 2 0 = true → w = s.rs (p.dn d) →
    e = (w.extractLsb' 0 9).toNat →
    (w.extractLsb' 32 32 ≠ 0#32 → (s.rs (p.an a)).toNat % 64 = 0 → (u.myTile.entry e).st = 0#2 ∨ (u.myTile.entry e).st = 1#2 →
      u.released 1 = true →
      exec (.wtarm p d a) s = .next (((u.setMyTile (u.myTile.setEntry e
        ⟨s.rs (p.an a), w.extractLsb' 32 32, 1#2, w.getLsbD 31, false, w.extractLsb' 16 10, none⟩)).checkFire u.tid
          (w.extractLsb' 16 10).toNat).done (.wtarm p d a))) ∧
    (s.ctx.paid = none → w.extractLsb' 32 32 = 0#32 → exec (.wtarm p d a) s =
      .next ((s.setCtx { s.ctx with wait := .none }).takeTrap ⟨0x14, s.ctx.pc, 4#64, none⟩ (Instr.wtarm p d a).ilen)) ∧
    (s.ctx.paid = none → w.extractLsb' 32 32 ≠ 0#32 → (s.rs (p.an a)).toNat % 64 = 0 →
      (u.myTile.entry e).st = 2#2 ∨ (u.myTile.entry e).st = 3#2 → exec (.wtarm p d a) s =
      .next ((s.setCtx { s.ctx with wait := .none }).takeTrap ⟨0x14, s.ctx.pc, 5#64, none⟩ (Instr.wtarm p d a).ilen))) ∧
  (∀ p d a (s u : State) e w, u = s.charged 2 0 → s.issues (.wtdis p d a) .plain 2 0 = true →
    e = ((s.rs (p.dn d)).extractLsb' 0 9).toNat → w = u.myTile.entry e →
    (w.st = 0#2 → exec (.wtdis p d a) s = .next (u.done (.wtdis p d a))) ∧
    (w.st = 1#2 → exec (.wtdis p d a) s = .next ((u.setMyTile (u.myTile.setEntry e { w with st := 0#2 })).done (.wtdis p d a))) ∧
    (w.st = 2#2 → exec (.wtdis p d a) s = .next ((u.setMyTile (u.myTile.setEntry e { w with rearm := false })).done (.wtdis p d a))) ∧
    (s.ctx.paid = none → w.st = 3#2 → exec (.wtdis p d a) s =
      .next ((s.setCtx { s.ctx with wait := .none }).takeTrap ⟨0x14, s.ctx.pc, 5#64, none⟩ (Instr.wtdis p d a).ilen))))

/-! ### Tasks (12 R298 to R308, 04 R95, 05 R118 to R125) -/

/-- SPAWN sends a copy of the 64-byte record to the tile and pushes true, or pushes false when the tile's ready queue or the context's
units do not take it (R305); START puts a helper in a free slot of the cell (R306); HJOIN waits for it and takes its refunds (R307);
SUSP leaves the slot with a record that a counter wakes (R308); EXIT ends the task (04 R95); while the context's queues are not done, or
EXIT has no place for its join increment, it waits, and its stream bindings are released behind what stands in the queue (08 R207). That a START without a free frame pushes false,
as R306 says, and does not wait, as R299 does, is log entry 35, the model's choice. -/
def Obligations.TaskResults : Prop :=
  (∀ p d a (s u x y w' z : State) m bs r w t v ci cm sc, m = bulkTraffic s (s.rs (p.an a)) 64 → u = s.charged 2 m →
    s.issues (.spawn p d a) .push 2 m = true → w = s.rs (p.dn d) → (s.rs (p.an a)).toNat % 64 = 0 → t = (w.extractLsb' 0 12).toNat → t < 2560 →
    u.ctx.accessHeld = false → readPieces u (s.rs (p.an a)) 4 = .ok bs → r = execSpawn.accWords bs →
    v = (if w.getLsbD 12 then u.spawnTile t else t) →
    ci = ((vget r 5 0#64).extractLsb' 0 32).toNat + ((vget r 6 0#64).extractLsb' 0 32).toNat →
    cm = ((vget r 5 0#64).extractLsb' 32 32).toNat + ((vget r 6 0#64).extractLsb' 32 32).toNat →
    sc = (if w.getLsbD 12 then 2 else scopeOf u.tid v) →
    ((u.tile v).accepts = true ∨ u.asidOf v ≠ u.asid → u.ctx.canCarve ci cm = true → u.released sc = true →
      x = (u.touchAll (pieces (s.rs (p.an a)) 16 4) 16).release sc →
      y = (if u.asidOf v == u.asid then (x.setCtx (x.ctx.carve ci cm)).setTile v
        { (x.setCtx (x.ctx.carve ci cm)).tile v with resv := ((x.setCtx (x.ctx.carve ci cm)).tile v).resv + 1 }
        else x.setCtx (x.ctx.carve ci cm)) →
      w' = y.post y.cid (.spawn (BitVec.ofNat 12 v) r (!u.ctx.user) (u.asidOf v == u.asid) (spaceTag y.asid) sc) →
      w'.spillBusy = false → w'.push ⟨true, BitVec.allOnes 32⟩ = some z →
      exec (.spawn p d a) s = .next (z.done (.spawn p d a))) ∧
    ((u.tile v).accepts = false ∧ u.asidOf v = u.asid ∨ u.ctx.canCarve ci cm = false → u.spillBusy = false →
      u.push ⟨false, 0#32⟩ = some z →
      exec (.spawn p d a) s = .next (z.done (.spawn p d a)))) ∧
  (∀ p d a (s u x y z w t : State) n f key iu mu, u = s.charged 2 0 → s.issues (.start p d a) .push 2 0 = true →
    (s.rs (p.an a)).getLsbD 0 = false → u.helperSlot u.cid = some n → u.newFrame u.tid = some (f, key) → u.myCell.hjoin.length < 16 →
    iu = (s.rs p.en).extractLsb' 0 32 → mu = (s.rs p.en).extractLsb' 32 32 → u.ctx.canCarve iu.toNat mu.toNat = true →
    u.released 0 = true → x = u.setCtx (u.ctx.carve iu.toNat mu.toNat) →
    y = x.initFrame x.tid f key (s.rs (p.an a)) iu mu (helperJoin x.myPrio u.ctx.bpol (x.cid % 16)) (x.cid % 16) →
    z = y.setLive y.cid n { (y.ctxAt y.cid n).fresh true with
      pc := s.rs (p.an a), ident := f, ibud := ⟨false, iu⟩, mbud := ⟨false, mu⟩, bpol := u.ctx.bpol
      regs := vset ((y.ctxAt y.cid n).fresh true).regs 0 (s.rs (p.dn d)) } →
    w = z.setMyCell { z.myCell with hjoin := z.myCell.hjoin ++ [⟨f, u.ctx.ident, false, 0#32, 0#32⟩] } →
    (w.ws (p.dn d) f).spillBusy = false →
    (w.ws (p.dn d) f).push ⟨true, BitVec.allOnes 32⟩ = some t → exec (.start p d a) s = .next (t.done (.start p d a))) ∧
  (∀ p d a (s u t : State), u = s.charged 2 0 → s.issues (.start p d a) .push 2 0 = true → (s.rs (p.an a)).getLsbD 0 = false →
    u.helperSlot u.cid = none ∨ u.newFrame u.tid = none ∨ 16 ≤ u.myCell.hjoin.length ∨
      u.ctx.canCarve ((s.rs p.en).extractLsb' 0 32).toNat ((s.rs p.en).extractLsb' 32 32).toNat = false → u.spillBusy = false → u.push ⟨false, 0#32⟩ = some t →
    exec (.start p d a) s = .next (t.done (.start p d a))) ∧
  (∀ p d a (s u x y : State) h, u = s.charged 2 0 → s.issues (.hjoin p d a) .plain 2 0 = true →
    h = u.myCell.hjoin.find? (fun e => e.helper == s.rs (p.an a) && e.starter == u.ctx.ident) →
    (h = none → exec (.hjoin p d a) s = .next (u.done (.hjoin p d a))) ∧
    (∀ e, h = some e → e.done = false → exec (.hjoin p d a) s = .next (u.setCtx (u.ctx.waitAs 2 0 .poll))) ∧
    (∀ e, h = some e → e.done = true → x = u.acquire 0 → y = x.setCtx (x.ctx.addAllow e.iref e.mref) →
      exec (.hjoin p d a) s = .next ((y.setMyCell { y.myCell with hjoin := y.myCell.hjoin.erase e }).done (.hjoin p d a)))) ∧
  (∀ p d a (s u x y : State) (w : Word) e key, u = s.charged 2 0 → s.issues (.susp p d a) .plain 2 0 = true → w = s.rs (p.dn d) →
    e = (w.extractLsb' 0 9).toNat → w.extractLsb' 32 32 ≠ 0#32 → (u.myTile.entry e).st = 0#2 → u.canLeave = true →
    u.frameKey u.tid u.ctx.ident = some key →
    x = (u.saveRecord u.cid u.sid key (u.ctx.pc + BitVec.ofNat 64 (2 * (Instr.susp p d a).ilen)) u.ctx.cmask 0#3).setF u.tid key 8 1 3 →
    y = x.setMyTile (x.myTile.setEntry e ⟨u.ctx.ident, w.extractLsb' 32 32, 3#2, false, true, w.extractLsb' 16 10, none⟩) →
    exec (.susp p d a) s = .next ((y.freeSlot y.cid y.sid).checkFire y.tid (w.extractLsb' 16 10).toNat)) ∧
  (∀ p d a (s u : State) (w : Word), u = s.charged 2 0 → s.issues (.susp p d a) .plain 2 0 = true → w = s.rs (p.dn d) →
    w.extractLsb' 32 32 ≠ 0#32 → (u.myTile.entry (w.extractLsb' 0 9).toNat).st = 0#2 → u.canLeave = false →
    exec (.susp p d a) s = .next (u.closeStreams.setCtx (u.ctx.waitAs 2 0 .hold))) ∧
  (∀ p d a (s u : State), u = s.charged 1 0 → s.issues (.exit p d a) .plain 1 0 = true →
    (u.canExit = true → joinNull u.joinRef = true ∨ u.myCell.sendRoom = true →
      ∃ t, exec (.exit p d a) s = .next t ∧ t = u.endTask u.cid u.sid (some 0#8) ∧ (t.ctxAt s.cid s.sid).live = false) ∧
    (u.canExit = false ∨ joinNull u.joinRef = false ∧ u.myCell.sendRoom = false →
      exec (.exit p d a) s = .next (u.closeStreams.setCtx (u.ctx.waitAs 1 0 .hold))))

/-- The dispatcher (R301 to R303): entries passed over 256 times first, then by priority, in the order of the queue; the first that has a
place is bound, those of lower priority count one more pass. A fresh task has its record's pc, arguments and budgets; a frame goes on
where its record says, with the refunds of the counter that fired it. Service tiles dispatch in every power state (15 R372). -/
def Obligations.DispatchResults : Prop :=
  (∀ (s x : State) l1 i l2 e c n, s.myTile.run = .running → s.host.pstate = 0#2 ∨ 2560 ≤ s.tid → dispatchOrder s.myTile.rq = l1 ++ i :: l2 →
    s.myTile.rq[i]? = some e → (∀ j ∈ l1, ∀ f, s.myTile.rq[j]? = some f → s.placeFor s.tid f = none) → s.placeFor s.tid e = some (c, n) →
    x = s.setMyTile { s.myTile with
      rq := (s.myTile.rq.eraseIdx i).map fun f => if f.prio < e.prio then { f with bypass := f.bypass + 1 } else f } →
    (∀ r, e.copy = some r → exec .dispatch s = .next ((x.bindFresh c n e r).replay s.tid)) ∧
    (∀ key, e.copy = none → x.frameKey s.tid e.frame = some key → exec .dispatch s = .next ((x.bindFrame c n e key).replay s.tid))) ∧
  (∀ q, (dispatchOrder q).Pairwise fun i j => ∀ e f : RqEntry, q[i]? = some e → q[j]? = some f →
    (256 ≤ e.bypass ∧ (256 ≤ f.bypass → i < j)) ∨
      (e.bypass < 256 ∧ f.bypass < 256 ∧ (f.prio < e.prio ∨ f.prio = e.prio ∧ i < j))) ∧
  (∀ q i (e : RqEntry), q[i]? = some e → e.prio ≤ 3 → i ∈ dispatchOrder q) ∧
  (∀ (s : State) c n e r f key, s.newFrame (c / 16) = some (f, key) → n ≤ 10 → ∃ t, s.bindFresh c n e r = t ∧
    (t.ctxAt c n).live = true ∧ (t.ctxAt c n).mode = 0#2 ∧ (t.ctxAt c n).ident = f ∧ (t.ctxAt c n).pc = vget r 0 0#64 &&& ~~~1#64 ∧
    (∀ k, k < 4 → vget (t.ctxAt c n).regs k 0#64 = vget r (k + 1) 0#64) ∧ (∀ k, 4 ≤ k → vget (t.ctxAt c n).regs k 0#64 = 0#64) ∧
    (t.ctxAt c n).pst = [] ∧
    (e.paid = true → (t.ctxAt c n).ibud.count = (vget r 5 0#64).extractLsb' 0 32 ∧ (t.ctxAt c n).mbud.count = (vget r 5 0#64).extractLsb' 32 32 ∧
      (t.ctxAt c n).iallow = (vget r 6 0#64).extractLsb' 0 32 ∧ (t.ctxAt c n).mallow = (vget r 6 0#64).extractLsb' 32 32)) ∧
  (∀ (s : State) c n e key ri rm, n ≤ 10 → MemInv s → s.flaws = [] →
    (ri, rm) = (match e.ctr with | some k => (((s.tile (c / 16)).ctr k.toNat).iref, ((s.tile (c / 16)).ctr k.toNat).mref) | none => (0#32, 0#32)) →
    (s.f64 key 0x40).extractLsb' 61 3 ≠ 1#3 → (s.f64 key 0x40).extractLsb' 61 3 ≠ 2#3 →
    (s.f64 key 0x40).extractLsb' 61 3 ≠ 6#3 → ∃ t, s.bindFrame c n e key = t ∧
    (t.ctxAt c n).live = true ∧ (t.ctxAt c n).mode = 0#2 ∧ (t.ctxAt c n).ident = e.frame ∧
    (t.ctxAt c n).pc = s.f64 key 0x40 &&& 0x01FFFFFFFFFFFFFE#64 ∧ (t.ctxAt c n).ibud.count = s.f32 key 0x18 ∧
    (t.ctxAt c n).mbud.count = s.f32 key 0x1C ∧ (t.ctxAt c n).iallow = addSat (s.f32 key 0x30) ri ∧
    (t.ctxAt c n).mallow = addSat (s.f32 key 0x34) rm ∧ (∀ k, e.ctr = some k → ((t.tile (c / 16)).ctr k.toNat).iref = 0#32) ∧
    (∀ k, k < 16 → vget (t.ctxAt c n).regs k 0#64 = if (s.f64 key 0x48).getLsbD k then s.f64 key (0x50 + 8 * k) else 0#64))

/-- Yields (05 R118, R119, R125): after a PMREQ a user context begins to leave at its next instruction, whatever it is, uncharged, or traps when
it has no place to continue at, with the budget that the PMREQ saved; one that cannot pay the instruction units of Table 05-2 of an
instruction, or 1 under a false guard, or the traffic of a load or store, begins to leave, uncharged, or traps under budget policy 2 or 3;
BYIELD begins to leave, and does nothing in kernel mode; once its queues are done, its stream bindings released behind them (08 R207), the
context leaves as a record: into the ready queue, refilled or as it was; parked for its parent; held; or killed. -/
def Obligations.YieldResults : Prop :=
  (∀ (i : Instr) s q G, i.isWord = true → (∀ w, i ≠ .illegalInstruction w) → kernelOnly i = false → Faces s i (guardHow i) G →
    (G = true → ownFree s i) → s.ctx.preq = some q → ((∀ p d a, i ≠ .vgath p d a ∧ i ≠ .vscat p d a) ∨ s.ctx.wait ≠ .stream) →
    (q.disp = 2#2 ∨ s.ctx.cont ≠ 0#64 ∧ s.ctx.cont.getLsbD 0 = false → exec i s = .next (s.setCtx { s.ctx with wait := .leaving 3#3, cap := none })) ∧
    (q.disp ≠ 2#2 → s.ctx.cont = 0#64 ∨ s.ctx.cont.getLsbD 0 = true →
      exec i s = .next ((s.setCtx { s.ctx with ibud := q.saved, preq := none }).takeTrap ⟨8, s.ctx.pc, 0x103#64, none⟩ i.ilen))) ∧
  (∀ (i : Instr) s, i.isWord = true → (∀ w, i ≠ .illegalInstruction w) → kernelOnly i = false →
    (regionWriter i = false → unitReady s i → ownFree s i → CannotPay s i (guardHow i) true (unitsOf i)) ∧
    CannotPay s i (guardHow i) false 1) ∧
  (∀ (i : Instr) va n, ((∃ p d a k, i = .ld p d a k ∧ va = (fun s : State => s.rs (p.an a) + BitVec.ofInt 64 (8 * p.immF3 k)) ∧ n = 8 ∨
      i = .st p d a k ∧ va = (fun s : State => s.rs (p.an a) + BitVec.ofInt 64 (8 * p.immF3 k)) ∧ n = 8) ∨
      (∃ mk p d a, (mk, n) ∈ [(Instr.lb, 1), (Instr.lbu, 1), (Instr.lh, 2), (Instr.lhu, 2), (Instr.lw, 4), (Instr.lwu, 4), (Instr.sb, 1),
        (Instr.sh, 2), (Instr.sw, 4)] ∧ i = mk p d a ∧ va = (fun s : State => s.rs (p.an a) + p.immW))) →
    ∀ s, Faces s i .plain true → s.ctx.preq = none → s.ctx.ibud.pays 1 = true → s.ctx.mbud.unm = false →
      s.ctx.mbud.count.toNat < traffic s (va s) n → Yields s i 2#3) ∧
  (∀ p d a (s u : State), u = s.charged 2 0 → s.issues (.byield p d a) .plain 2 0 = true →
    (s.ctx.user = false → exec (.byield p d a) s = .next (u.done (.byield p d a))) ∧
    (s.ctx.user = true → s.ctx.cont ≠ 0#64 → s.ctx.cont.getLsbD 0 = false →
      exec (.byield p d a) s = .next (u.setCtx { u.ctx with wait := .leaving 4#3, paid := none, cap := none }))) ∧
  (∀ (s : State) reason, s.ctx.wait = .leaving reason → s.canLeave = false → exec .budgetYield s = .next s.closeStreams) ∧
  (∀ (s x : State) reason key, s.ctx.wait = .leaving reason → s.canLeave = true → s.frameKey s.tid s.ctx.ident = some key →
    s.myTile.placeFree (placeOf s.cid s.sid) = true → x = s.saveRecord s.cid s.sid key s.ctx.cont s.ctx.cmask reason →
    (reason ≠ 1#3 → reason ≠ 2#3 → reason ≠ 3#3 →
      exec .budgetYield s = .next ((x.freeSlot s.cid s.sid).requeue s.tid s.ctx.ident key 1 0 (placeOf s.cid s.sid))) ∧
    (∀ q, reason = 3#3 → s.ctx.preq = some q →
      (q.disp = 0#2 → exec .budgetYield s = .next ((x.freeSlot s.cid s.sid).requeue s.tid s.ctx.ident key 1 0 (placeOf s.cid s.sid))) ∧
      (q.disp = 1#2 ∨ q.disp = 3#2 → exec .budgetYield s = .next ((x.setF s.tid key 8 1 4).freeSlot s.cid s.sid)) ∧
      (q.disp = 2#2 → exec .budgetYield s = .next (s.endTask s.cid s.sid none))) ∧
    (∀ r, reason = 1#3 ∨ reason = 2#3 → s.ctx.bpol = 0#2 → x.refillFrame s.tid key reason = (true, r) →
      exec .budgetYield s = .next ((r.freeSlot s.cid s.sid).requeue s.tid s.ctx.ident key 1 0 (placeOf s.cid s.sid))) ∧
    (∀ e, reason = 1#3 ∨ reason = 2#3 → s.ctx.bpol ≠ 0#2 → freeEntry s.myTile 512 = some e → s.myCell.sendRoom = true →
      exec .budgetYield s = .next (x.parkNotified s.cid s.sid e s.ctx.ident key reason))) ∧
  (∀ (s : State) c n key cpc mask reason, n ≤ 10 → MemInv s → s.flaws = [] → ∃ t, s.saveRecord c n key cpc mask reason = t ∧
    t.f64 key 0x40 = (cpc &&& 0x01FFFFFFFFFFFFFE#64) ||| (reason.setWidth 64 <<< 61) ∧ t.f64 key 0x48 = mask.setWidth 64 ∧
    t.f32 key 0x18 = (match (s.ctxAt c n).preq with | some q => q.saved.count | none => (s.ctxAt c n).ibud.count) ∧ t.f32 key 0x1C = (s.ctxAt c n).mbud.count ∧
    t.f32 key 0x30 = addSat (s.ctxAt c n).iallow (s.f32 key 0x30) ∧ t.f32 key 0x34 = addSat (s.ctxAt c n).mallow (s.f32 key 0x34) ∧
    (∀ k, k < 16 → t.f64 key (0x50 + 8 * k) = if mask.getLsbD k then vget (s.ctxAt c n).regs k 0#64 else 0#64) ∧
    (∀ a, a < key ∨ key + 256 ≤ a → rd8 t.mem a = rd8 s.mem a))

/-! ### Deques and budgets (12 R309, R310, 05 R121 to R124) -/

/-- The header at `va` is aligned, can be reached and shares no byte with a pending access; its words are these, and hold a deque; `v` is the
state after the release and the read of the header at its home, so that the L1s of the tile keep no older line of it (11 R266). -/
def Sys2Proof.Claims.DqReady (p : Pfx) (va : Word) (u v : State) (h : Nat) (ring : Word) (cap top bot : Nat) : Prop :=
  va.toNat % 64 = 0 ∧ u.ctx.accessHeld = false ∧ (∃ c sc, u.access u.cid u.ctx.user .atomic va.toNat 64 = .mem h c sc) ∧
  u.pendTouches h 64 = false ∧ (pRel p = true → u.released (pScope p) = true) ∧ v = (released p u).homeRead h 64 ∧ ring = rd64 v.mem h ∧
  cap = rdN v.mem (h + 8) 4 ∧ top = rdN v.mem (h + 0x10) 8 ∧ bot = rdN v.mem (h + 0x18) 8 ∧ cap ≠ 0 ∧ ring.toNat % 8 = 0 ∧ (bot + 2 ^ 64 - top) % 2 ^ 64 ≤ cap
/-- The entry of index `i` can be reached at memory key `k`. -/
def Sys2Proof.Claims.DqEntry (u : State) (ring : Word) (cap i k : Nat) : Prop :=
  (∃ c sc, u.access u.cid u.ctx.user .atomic (ring + BitVec.ofNat 64 (8 * (i % cap))).toNat 8 = .mem k c sc) ∧ u.pendTouches k 8 = false

/-- DQPUSH stores at BOT and traps destination invalid, reason 6, on a full deque; DQPOP takes the entry below BOT, DQSTEAL the one at TOP;
both push false on an empty deque. -/
def Obligations.DequeResults : Prop :=
  (∀ p d a (s u v x : State) m h ring cap top bot, m = units (chargedBytes s.tid (s.rs (p.dn d)).toNat 16) → u = s.charged 2 m →
    s.issues (.dqpush p d a) .plain 2 m = true → DqReady p (s.rs (p.dn d)) u v h ring cap top bot →
    (∀ k, (bot + 2 ^ 64 - top) % 2 ^ 64 < cap → DqEntry v ring cap bot k → x = v.homeRead k 8 →
      exec (.dqpush p d a) s = .next ((withAcquire p ((x.put64 x.tid k (s.rs (p.an a))).putN x.tid (h + 0x18) 8 ((bot + 1) % 2 ^ 64))).done
        (.dqpush p d a))) ∧
    (s.ctx.paid = none → (bot + 2 ^ 64 - top) % 2 ^ 64 = cap → exec (.dqpush p d a) s =
      .next ((s.setCtx { s.ctx with wait := .none }).takeTrap ⟨0x14, s.ctx.pc, 6#64, none⟩ (Instr.dqpush p d a).ilen))) ∧
  (∀ p d a (s u v w x t : State) m h ring cap top bot, m = units (chargedBytes s.tid (s.rs (p.an a)).toNat 16) → u = s.charged 2 m →
    s.issues (.dqpop p d a) .push 2 m = true → DqReady p (s.rs (p.an a)) u v h ring cap top bot →
    (top = bot → w = withAcquire p v → w.spillBusy = false → w.push ⟨false, 0#32⟩ = some t → exec (.dqpop p d a) s = .next (t.done (.dqpop p d a))) ∧
    (∀ i k, top ≠ bot → i = (bot + 2 ^ 64 - 1) % 2 ^ 64 → DqEntry v ring cap i k →
      x = v.homeRead k 8 → w = withAcquire p ((x.putN x.tid (h + 0x18) 8 i).ws (p.dn d) (rd64 x.mem k)) → w.spillBusy = false →
      w.push ⟨true, BitVec.allOnes 32⟩ = some t →
      exec (.dqpop p d a) s = .next (t.done (.dqpop p d a)))) ∧
  (∀ p d a (s u v w x t : State) m h ring cap top bot, m = units (chargedBytes s.tid (s.rs (p.an a)).toNat 16) → u = s.charged 2 m →
    s.issues (.dqsteal p d a) .push 2 m = true → DqReady p (s.rs (p.an a)) u v h ring cap top bot →
    (top = bot → w = withAcquire p v → w.spillBusy = false → w.push ⟨false, 0#32⟩ = some t → exec (.dqsteal p d a) s = .next (t.done (.dqsteal p d a))) ∧
    (∀ k, top ≠ bot → DqEntry v ring cap top k →
      x = v.homeRead k 8 → w = withAcquire p ((x.putN x.tid (h + 0x10) 8 ((top + 1) % 2 ^ 64)).ws (p.dn d) (rd64 x.mem k)) → w.spillBusy = false →
      w.push ⟨true, BitVec.allOnes 32⟩ = some t →
      exec (.dqsteal p d a) s = .next (t.done (.dqsteal p d a))))

/-- BSETC sets cont and cmask; BGRANT moves units from the context to a frame's grant words and wakes its record, BTOP makes them in kernel
mode; a context spends its allowance first, then its quantum, and exactly the units asked for; charging an instruction takes exactly
its units off the quantum, nothing in kernel mode. -/
def Obligations.BudgetResults : Prop :=
  (∀ p a (s u : State), u = s.charged 2 0 → s.issues (.bsetcRel p a) .plain 2 0 = true →
    exec (.bsetcRel p a) s = .next ((u.setCtx { u.ctx with
      cont := s.ctx.pc + BitVec.ofInt 64 (2 * (p.imm0 / 65536)), cmask := p.immW.extractLsb' 0 16 }).done (.bsetcRel p a))) ∧
  (∀ p a (s u : State), u = s.charged 2 0 → s.issues (.bsetcReg p a) .plain 2 0 = true →
    exec (.bsetcReg p a) s = .next ((u.setCtx { u.ctx with cont := s.rs (p.an a), cmask := p.immW.extractLsb' 0 16 }).done (.bsetcReg p a))) ∧
  (∀ p d a (s u x w t : State) m iu mu, m = units (chargedBytes s.tid (s.rs (p.dn d)).toNat 8) → u = s.charged 2 m →
    s.issues (.bgrant p d a) .push 2 m = true → (s.rs (p.dn d)).toNat % 64 = 0 → iu = (s.rs (p.an a)).extractLsb' 0 32 →
    mu = (s.rs (p.an a)).extractLsb' 32 32 →
    (u.ctx.canCarve iu.toNat mu.toNat = false → u.spillBusy = false → u.push ⟨false, 0#32⟩ = some t → exec (.bgrant p d a) s = .next (t.done (.bgrant p d a))) ∧
    (∀ pa, u.ctx.canCarve iu.toNat mu.toNat = true → u.ctx.accessHeld = false → dqKey u (s.rs (p.dn d)) 64 = .ok pa →
      x = u.setCtx (u.ctx.carve iu.toNat mu.toNat) →
      w = (grantAt x pa iu mu false).wake (s.rs (p.dn d)) (!x.ctx.user) → w.spillBusy = false → w.push ⟨true, BitVec.allOnes 32⟩ = some t →
      exec (.bgrant p d a) s = .next (t.done (.bgrant p d a)))) ∧
  (∀ p d a (s u : State) va pa, u = s.charged 2 0 → s.issues (.btop p d a) .plain 2 0 = true → s.ctx.user = false →
    (s.rs (p.dn d)).toNat % 64 = 0 → va = s.rs (p.dn d) &&& ~~~0x80000000#64 → u.ctx.accessHeld = false → dqKey u va 64 = .ok pa →
    exec (.btop p d a) s = .next (((grantAt u pa ((s.rs (p.an a)).extractLsb' 0 32) ((s.rs (p.an a)).extractLsb' 32 32)
      ((s.rs (p.dn d)).getLsbD 31)).wake va true).done (.btop p d a))) ∧
  (∀ (b : Budget) (al : BitVec 32) n, b.unm = false → n ≤ al.toNat + b.count.toNat →
    (spend b al n).1.count.toNat + (spend b al n).2.toNat + n = b.count.toNat + al.toNat ∧
    (n ≤ al.toNat → (spend b al n).1 = b)) ∧
  (∀ (c x : Ctx) n m, c.charge n m = .inl x → c.paid = none →
    (c.user = true → (c.ibud.unm = false → x.ibud.count.toNat + n = c.ibud.count.toNat) ∧ (c.mbud.unm = false → x.mbud.count.toNat + m = c.mbud.count.toNat) ∧
      (c.ibud.unm = true → x.ibud = c.ibud) ∧ (c.mbud.unm = true → x.mbud = c.mbud)) ∧ (c.user = false → x = c))

/-! ### Barriers (13 R313 to R318) -/

/-- ARRIVE sets the cell's arrival and opens the group when every member has arrived; an opening flips the root's phase and clears the
arrivals; BWAIT waits for the opening, acquires and reads phase and WD; BSTAT reads without waiting; at an ARRIVE or a BWAIT a cell that is
no member traps barrier invalid (0x16) with the channel. A kernel write of a node's word keeps PHASE and clears WD. When a context that
EXIT or a kill ends leaves its cell with no live context, or stood in slot 0, the cell is withdrawn from its channels: it is a member no
more, WD is set at the group's root, and the group opens at once when every member that is left has arrived (R317). -/
def Obligations.BarrierResults : Prop :=
  (∀ p d a (s u v x : State) n level node, u = s.charged 1 0 → s.issues (.arrive p d a) .plain 1 0 = true → n = (s.rs (p.an a)).toNat % 32 →
    s.myCell.arrived n = false → s.rootOf s.cid n = some (level, node) → s.released (groupScope level) = true →
    v = u.release (groupScope level) → x = v.setMyCell { v.myCell with aphase := setBit v.myCell.aphase n (v.phase level node n) } →
    exec (.arrive p d a) s = .next (((x.setArrived x.cid n true).openIfDone level node n).done (.arrive p d a))) ∧
  (∀ p d a (s : State) n level node, s.issues (.arrive p d a) .plain 1 0 = true → n = (s.rs (p.an a)).toNat % 32 →
    s.rootOf s.cid n = some (level, node) → s.myCell.arrived n = true ∨ s.released (groupScope level) = false →
    exec (.arrive p d a) s = .next s) ∧
  (∀ p d a (s : State) n, s.issues (.arrive p d a) .plain 1 0 = true → n = (s.rs (p.an a)).toNat % 32 → s.rootOf s.cid n = none →
    s.ctx.paid = none → exec (.arrive p d a) s =
      .next ((s.setCtx { s.ctx with wait := .none }).takeTrap ⟨0x16, s.ctx.pc, BitVec.ofNat 64 n, none⟩ (Instr.arrive p d a).ilen)) ∧
  (∀ (s : State) level node n ms, n < 32 → ms = s.membersBelow n level node →
    ((∀ c ∈ ms, (s.cell c).arrived n = true) → ∃ t, s.openIfDone level node n = t ∧ t.phase level node n = !s.phase level node n ∧
      (∀ c ∈ ms, (t.cell c).arrived n = false) ∧ (∀ c, c ∉ ms → t.cell c = s.cell c) ∧ t.mem = s.mem ∧ t.tiles = s.tiles) ∧
    ((∃ c ∈ ms, (s.cell c).arrived n = false) → s.openIfDone level node n = s)) ∧
  (∀ p d a (s u : State) n, u = s.charged 1 0 → s.issues (.bwait p d a) .plain 1 0 = true → n = (s.rs (p.an a)).toNat % 32 →
    (u.rootOf u.cid n = none → s.ctx.paid = none → exec (.bwait p d a) s =
      .next ((s.setCtx { s.ctx with wait := .none }).takeTrap ⟨0x16, s.ctx.pc, BitVec.ofNat 64 n, none⟩ (Instr.bwait p d a).ilen)) ∧
    (∀ level node, u.rootOf u.cid n = some (level, node) →
      (u.myCell.arrived n = true → exec (.bwait p d a) s = .next (u.setCtx (u.ctx.waitAs 1 0 .poll))) ∧
      (u.myCell.arrived n = false → exec (.bwait p d a) s = .next (((u.acquire (groupScope level)).ws (p.dn d)
        (BitVec.ofNat 64 ((cwPhase (u.chordWord level node n)).toNat + 2 * (cwWd (u.chordWord level node n)).toNat))).done (.bwait p d a))))) ∧
  (∀ p d a (s u : State) n, u = s.charged 1 0 → s.issues (.bstat p d a) .plain 1 0 = true → n = (s.rs (p.an a)).toNat % 32 →
    (u.rootOf u.cid n = none → exec (.bstat p d a) s = .next ((u.ws (p.dn d) 0#64).done (.bstat p d a))) ∧
    (∀ level node k, u.rootOf u.cid n = some (level, node) →
      k = ((u.membersBelow n level node).filter fun c => !(u.cell c).arrived n).length →
      exec (.bstat p d a) s = .next ((u.ws (p.dn d) (BitVec.ofNat 64 (1 + (u.myCell.arrived n).toNat * 2 +
        (cwPhase (u.chordWord level node n)).toNat * 4 + (cwWd (u.chordWord level node n)).toNat * 8 + level * 256
          + min k 65535 * 2 ^ 32))).done (.bstat p d a)))) ∧
  (∀ (s : State) (l : BitVec 3) (node : BitVec 12) (n : BitVec 5) w, l.toNat ≤ 4 → node.toNat < nodeCount l.toNat →
    ∃ t, exec (.chordConfigWrite l node n w) s = .next t ∧
      t.chordWord l.toNat node.toNat n.toNat = (s.chordWord l.toNat node.toNat n.toNat &&& 0x80000#32) ||| (w &&& 0x2FFFF#32) ∧
      t.mem = s.mem ∧ t.tiles = s.tiles ∧ t.quarts = s.quarts) ∧
  ((∀ (s : State) c n level node, n < 32 → s.rootOf c n = some (level, node) → ∃ t ms, s.withdrawFrom c n = t ∧ ms = t.membersBelow n level node ∧
    t.isMember c n = false ∧ c ∉ ms ∧ cwWd (t.chordWord level node n) = true ∧ (t.cell c).arrived n = false ∧
    ((∀ x ∈ ms, (s.cell x).arrived n = true) → (t.phase level node n = !s.phase level node n) ∧ ∀ x ∈ ms, (t.cell x).arrived n = false) ∧
    ((∃ x ∈ ms, (s.cell x).arrived n = false) → t.phase level node n = s.phase level node n ∧ ∀ x, x ≠ c → t.cell x = s.cell x) ∧
    (∀ l k m, m < 32 → m ≠ n → t.chordWord l k m = s.chordWord l k m) ∧ t.mem = s.mem ∧ t.tiles = s.tiles) ∧
  (∀ (s : State) c n, n < 32 → (s.withdraw c).isMember c n = false) ∧
  (∀ (s : State) c n, ((n = 0 ∨ ∀ k, k ≤ 10 → (s.ctxAt c k).live = false) → s.withdrawAfter c n = s.withdraw c) ∧
    (n ≠ 0 → (∃ k, k ≤ 10 ∧ (s.ctxAt c k).live = true) → s.withdrawAfter c n = s)) ∧
  (∀ (s : State) c n kind, ∃ u : State, s.endTask c n kind = (u.freeSlot c n).withdrawAfter c n))

/-! ### Parked steps (10 R259, R260) -/

/-- A parked step whose entry no longer says PARK, the first of its granule in the order of parking, is retried on its granules; a context's
goes on behind its instruction with the value and the acquire; a record's value goes to its frame, which becomes ready; a FAULT makes a
record one of reason 6 at its instruction. A long-parked context leaves as a record of reason 5, which joins no ready queue at its
conversion but once its access is over: the model's choice against R260's letter (log entry 25). -/
def Obligations.ParkResults : Prop :=
  (∀ (s x : State) q, s.parked[s.sel.k]? = some q → entAct (s.stageEntry q.req q.loc) ≠ .park →
    q.inq = true → (∀ p ∈ s.parked.take s.sel.k, p.loc = q.loc → p.inq = true → entAct (s.stageEntry p.req p.loc) = .park) → s.whoReady q.who = true →
    s.stepPoison q.req = none → x = { s with parked := s.parked.eraseIdx s.sel.k } →
    (∀ w v o, stageRun q.tile q.req .queued none q.req.order q.req.grans x = .done w v o →
      exec .parkedStepRetry s = .next (w.stageDone q v o)) ∧
    (∀ w g st, stageRun q.tile q.req .queued none q.req.order q.req.grans x = .fault w g st →
      exec .parkedStepRetry s = .next (w.stageFault q g st)) ∧
    (∀ w r l inq, stageRun q.tile q.req .queued none q.req.order q.req.grans x = .park w r l inq →
      exec .parkedStepRetry s = .next { w with parked := w.parked ++ [⟨q.who, l, r, inq⟩] })) ∧
  (∀ (s t : State) c n l r iq v, n.toNat ≤ 10 → t = s.stageDone ⟨.ctx c n, l, r, iq⟩ v 0#2 →
    (t.ctxAt c.toNat n.toNat).pc = (s.ctxAt c.toNat n.toNat).pc + BitVec.ofNat 64 (2 * r.ilen) ∧
    (t.ctxAt c.toNat n.toNat).wait = .none ∧
    (∀ x, v = some x → r.dest < 16 → vget (t.ctxAt c.toNat n.toNat).regs r.dest 0#64 = x) ∧
    (∀ k, k ≠ r.dest → vget (t.ctxAt c.toNat n.toNat).regs k 0#64 = vget (s.ctxAt c.toNat n.toNat).regs k 0#64) ∧ t.mem = s.mem) ∧
  (∀ (s t w : State) (tile : BitVec 12) f pc place l r iq v o key, s.frameKey tile.toNat f = some key →
    t = s.stageDone ⟨.record tile f pc place, l, r, iq⟩ v o →
    w = (match v with | some x => s.setF64 tile.toNat key (0x50 + 8 * r.dest) x | none => s).setF tile.toNat key 8 1 1 →
    t.mem = w.mem ∧ (∀ c n, t.ctxAt c n = s.ctxAt c n) ∧ ∃ e, (t.tile tile.toNat).rq = (s.tile tile.toNat).rq ++ [e] ∧ e.frame = f ∧
      e.own = some place ∧ e.ilen = r.ilen ∧ e.scope = max 1 (if o.getLsbD 0 then r.scope else 0)) ∧
  (∀ (s t w : State) (tile : BitVec 12) f pc place l r iq g st key, s.frameKey tile.toNat f = some key →
    t = s.stageFault ⟨.record tile f pc place, l, r, iq⟩ g st →
    w = (((s.setF64 tile.toNat key 0x40 (r.pc &&& 0x01FFFFFFFFFFFFFE#64 ||| 6#64 <<< 61)).setF64 tile.toNat key 0x20 (stageErr r g st).addr).setF64
      tile.toNat key 0x28 (stageErr r g st).info).setF tile.toNat key 8 1 1 →
    t.mem = w.mem ∧ (∀ c n, t.ctxAt c n = s.ctxAt c n) ∧ ∃ e, (t.tile tile.toNat).rq = (s.tile tile.toNat).rq ++ [e] ∧ e.frame = f ∧
      e.own = some place ∧ e.ilen = r.ilen) ∧
  (∀ (s x : State) q key who, s.ctx.wait = .stage → s.ctx.cmask ≠ 0#16 → s.ctx.bpol = 0#2 ∨ s.ctx.bpol = 1#2 → s.ctx.pdepth = 0 →
    s.ctx.user = true → s.ctx.preq = none → s.canLeave = true →
    s.parked.find? (fun p => p.inq && p.who == .ctx s.sel.cell s.sel.slot) = some q → s.frameKey s.tid s.ctx.ident = some key →
    x = s.saveRecord s.cid s.sid key (q.req.pc + BitVec.ofNat 64 (2 * q.req.ilen))
      (if q.req.op = .lds then s.ctx.cmask ||| BitVec.ofNat 16 (2 ^ q.req.dest) else s.ctx.cmask) 5#3 →
    who = Who.record (BitVec.ofNat 12 s.tid) s.ctx.ident (q.req.pc + BitVec.ofNat 64 (2 * q.req.ilen)) (placeOf s.cid s.sid) →
    exec .longParkConversion s = .next (({ x with parked := x.parked.map fun p => if p.who = .ctx s.sel.cell s.sel.slot
      then { p with who := who } else p } : State).freeSlot s.cid s.sid))

/-! ### Engines and collectives (13 R319 to R332, R336) -/

/-- An engine command whose tag is free and whose checks pass is charged 4 units and its traffic, does its release and stands in its tag,
BUSY, with all that the engine needs; its capture changes no byte of memory and no register. A collective is then held to what is
outstanding of its name: the second command of a member ends the instance (R322). -/
def Sys2Proof.Claims.EngineIssues (mk : Pfx → BitVec 4 → BitVec 4 → Instr) (k : EKind) : Prop :=
  ∀ p d a (s u v w : State) m sc, m = engineTraffic k p d a s → u = s.charged 4 m → s.issues (mk p d a) .plain 4 m = true →
    Sound (mk p d a) s → (s.myCell.tag ((s.rs p.en).extractLsb' 0 3).toNat).busy = false → engineJudge k p d a s = none →
    engineJudge k p d a u = none → u.ctx.accessHeld = false → u.ragWait (u.rg (p.an a)) = false → u.ragWait (u.rg (p.dn d)) = false → sc = commandScope k p d a u → u.released sc = true →
    v = ((u.meetTable (u.rg (p.an a))).meetTable (u.rg (p.dn d))).meetProt →
    w = engineCapture k p d a sc (v.release sc) →
    ∃ t, exec (mk p d a) s = .next t ∧
      t = (if k.collective then w.judgeSecond u.cid ((s.rs p.en).extractLsb' 0 3).toNat else w).done (mk p d a) ∧
      (s.flaws = [] → v = u ∧ (∀ x, rd8 w.mem x = rd8 s.mem x) ∧ SameRegs s t [])

/-- The engine commands (R321), their checks by name, and EWAIT, ETEST and CHUNKRD (R326): a command that passes is issued into its tag and
changes no byte of memory; one that fails traps, uncharged, with its reason. -/
def Obligations.EngineResults : Prop :=
  EngineIssues .copy .copy ∧ EngineIssues .gpool .gpool ∧ EngineIssues .xred .xred ∧ EngineIssues .xbcast .xbcast ∧
  EngineIssues .xgath .xgath ∧
  (∀ mk k, (mk, k) ∈ [(Instr.copy, EKind.copy), (Instr.gpool, EKind.gpool), (Instr.xred, EKind.xred), (Instr.xbcast, EKind.xbcast),
      (Instr.xgath, EKind.xgath)] → ∀ p d a (s u : State) e, u = s.charged 0 0 → s.issues (mk p d a) .plain 0 0 = true → s.ctx.paid = none →
    Sound (mk p d a) s → (s.myCell.tag ((s.rs p.en).extractLsb' 0 3).toNat).busy = false → s.ragWait (s.rg (p.an a)) = false →
    s.ragWait (s.rg (p.dn d)) = false → engineJudge k p d a s = some e → engineJudge k p d a u = some e →
    exec (mk p d a) s = .next ((s.setCtx { s.ctx with wait := .none }).takeTrap e (mk p d a).ilen)) ∧
  (∀ k p d a (s : State), s.rs p.en &&& ~~~cwUsed k (s.rs p.en) ≠ 0#64 → engineJudge k p d a s = some ⟨0x13, s.ctx.pc, 3#64, none⟩) ∧
  (∀ p d a (s : State), s.rs p.en &&& ~~~cwUsed .xred (s.rs p.en) = 0#64 → (s.rs p.en).extractLsb' 12 2 = 3#2 →
    engineJudge .xred p d a s = some ⟨0x13, s.ctx.pc, 7#64, none⟩) ∧
  (∀ p d a (s u : State) t, u = s.charged 2 0 → s.issues (.ewait p d a) .plain 2 0 = true → t = u.myCell.tag ((s.rs (p.an a)).toNat % 8) →
    (t.busy = true → exec (.ewait p d a) s = .next (u.setCtx (u.ctx.waitAs 2 0 .poll))) ∧
    (t.busy = false → exec (.ewait p d a) s = .next (((u.acquire 0).ws (p.dn d) (t.err.setWidth 64)).done (.ewait p d a)))) ∧
  (∀ p d a (s u w : State) t, u = s.charged 2 0 → s.issues (.etest p d a) .push 2 0 = true → t = u.myCell.tag ((s.rs (p.an a)).toNat % 8) →
    u.spillBusy = false → (t.busy = true → u.push ⟨false, 0#32⟩ = some w → exec (.etest p d a) s = .next (w.done (.etest p d a))) ∧
    (t.busy = false → u.push ⟨true, BitVec.allOnes 32⟩ = some w →
      exec (.etest p d a) s = .next (((w.acquire 0).ws (p.dn d) (t.err.setWidth 64)).done (.etest p d a)))) ∧
  (∀ p d a (s u : State) t, u = s.charged 2 0 → s.issues (.chunkrd p d a) .plain 2 0 = true → t = u.myCell.tag ((s.rs (p.an a)).toNat % 8) →
    exec (.chunkrd p d a) s = .next (((u.acquire t.scope).ws (p.dn d) (BitVec.ofNat 64
      (if t.kind = some .copy ∨ t.kind = some .xbcast ∨ t.kind = some .xgath then t.chunks else 0))).done (.chunkrd p d a)))

/-- The mean of R332: the sum's f32 code `a` divided by the number `n` of indices, rounded once. -/
def Sys2Proof.Claims.PoolMean (a n r : Nat) : Prop :=
  ((fmtF32.decode a).isNaN = true → r = fmtF32.canonNaN) ∧ (∀ s, fmtF32.decode a = .inf s → r = fmtF32.withSign s fmtF32.infCode) ∧
  (∀ s m e k, fmtF32.decode a = .fin s m e → 27 + n.log2 ≤ k →
    r = (roundVal fmtF32 .rne (.fin s (2 * (m * 2 ^ k / n) + (if m * 2 ^ k % n = 0 then 0 else 1)) (e - k - 1))).1)
/-- The pooled element of a bag whose values and weights are `xs`, by MODE: sum, mean, max, weighted sum (R332). -/
def Sys2Proof.Claims.PoolIs (mode : BitVec 2) (xs : List (Nat × Nat)) (r : Nat) : Prop :=
  (xs = [] → r = 0) ∧ ∀ x rest sum, xs = x :: rest → sum = rest.foldl (fun a y => (fadd fmtF32 .rne a y.1).1) x.1 →
    (mode = 0#2 → r = sum) ∧ (mode = 1#2 → PoolMean sum xs.length r) ∧
    (mode = 2#2 → r = rest.foldl (fun a y => (fminmax fmtF32 true a y.1).1) x.1) ∧
    (mode = 3#2 → r = xs.foldl (fun a y => (ffma fmtF32 .rne a y.2 y.1).1) 0)
/-- The values and weights that element `k` of a bag's row reads: of each index in list order the table's element of that row, as f32, FILL out
of bounds, and the weight at the index member's coordinate. -/
def Sys2Proof.Claims.PoolReads (c : Cmd) (u : State) (t k : Nat) (bag : List (List Nat)) (xs : List (Nat × Nat)) : Prop :=
  xs.length = bag.length ∧ ∀ (i : Nat) x, bag[i]? = some x → ∃ (a b : Nat) (j : Int) (v w : Nat), xs[i]? = some (v, w) ∧ c.rdElem u t c.srcD x = .ok a ∧
    (j = match c.srcD.tyOf.int with | some (true, wd) => signed wd a | _ => a) ∧
    (if 0 ≤ j ∧ j < c.tabD.sizes.getD 0 0 then c.rdElem u t c.tabD [j.toNat, k] = .ok b
      else b = c.tabD.fill.toNat % 2 ^ (8 * (readTy c.tabD.tyOf).bytes)) ∧
    v = (convert (readTy c.tabD.tyOf) .f32 .rne false b).1 ∧
    (cwMode c.ctl = 3#2 → ∃ y, c.rdElem u t c.wD x = .ok y ∧ w = (convert (readTy c.wD.tyOf) .f32 .rne false y).1)

/-- What a command with `total` elements puts into element `i` of its destination (`get`): a COPY the source's element of that place, converted
(R325); one whose values are known, those (a COPY within one scratchpad, R325; a collective, R327); a GPOOL element `i` mod D of the row of
bag `i` / D, +0 for an empty bag (R332). -/
def Sys2Proof.Claims.Delivers (c : Cmd) (kind : EKind) (s : State) (total : Nat) (get : State → Nat → Nat → Prop) : Prop :=
  volume c.dstBoxes = total ∧ c.dstD.tyOf ≠ .q4n ∧ (kind = .copy → volume c.srcBoxes = total) ∧
  (kind = .copy ∧ c.vals = none ∧ (c.pos ≠ 0 ∨ c.oneScratch s s.tid = false) ∧
      (∀ u i v, get u i v ↔ ∃ x, c.rdElem u s.tid c.srcD (listMember c.srcBoxes i) = .ok x ∧ v = c.conv (readTy c.srcD.tyOf) x) ∨
    kind ≠ .gpool ∧ (∃ vs : List Nat, c.vals = some (vs.map some) ∧ vs.length = total ∧ ∀ u i v, get u i v ↔ vs[i]? = some v) ∨
    kind = .gpool ∧ c.vals = none ∧ total = c.bags.length * c.width ∧ c.tabD.n = 2 ∧ c.srcD.tyOf ∈ [Ty.i32, .n32, .i64, .n64] ∧
      (cwMode c.ctl = 3#2 → c.wD.n = c.srcD.n) ∧
      (∀ u i v, get u i v ↔ ∃ bag xs r, c.bags[i / c.width]? = some bag ∧ PoolReads c u s.tid (i % c.width) bag xs ∧
        PoolIs (cwMode c.ctl) xs r ∧ v = c.conv .f32 r))
/-- The elements from `p` on, `n` of them, one after another: each is delivered from the state after those before it and written there. -/
def Sys2Proof.Claims.Moves (c : Cmd) (t : Nat) (get : State → Nat → Nat → Prop) (p n : Nat) (T : Nat → State) : Prop :=
  ∀ i, i < n → ∃ v, get (T i) (p + i) v ∧ c.wrElem (T i) t (listMember c.dstBoxes (p + i)) v = .ok (T (i + 1))

/-- The steps of an engine: elements of a command, at most to the end of the chunk of 4,096 bytes or the bag in hand, are delivered and written
in enumeration order (`Delivers`; how many at a step is the schedule's), the chunk count of a COPY, an XBCAST or an XGATH is that of the chunks
wholly performed, and after the last element the command is ready to complete (R322, R324, R325, R332); the bags of an index region; a COPY
of one element writes its converted code, counts the chunk and is ready to complete (R322, R325); unequal
volumes end in ERR 0x3; a command with no transition left completes, BUSY is cleared and ERR and the count stay (R320, R323), a collective's
once all its members here are over; a member's engine sends its request to the other modules of the group, and a request from another
module joins its instance, fails it or cancels it (R327, R328); members that agree get the result, an ARR in the order of rank 0's engine
(R329 to R331), on a wrong count ERR 0x3, into q4n ERR 0x4; members that disagree end with 0x5; a command of a killed task stops with ERR
0x6 at its stop unit, and waits inside one for the answer to its page fault (R336; an image of its cell that is saved is told), a stopping tile whose units have stopped is stopped (14 R355). The model's choices: an XRED between two types
is 0x5, an error goes in place of a source, a lost member gives 0x1 (15 R367), a failed instance between modules is kept (log entry 24); requests to
other modules leave in `fab.colls` (log entry 33). -/
def Obligations.EngineSteps : Prop :=
  (∀ (s : State) t c kind total get per left n T, s.sel.k < 8 → t = s.tagAt s.cid s.sel.k → t.cmd = some c → t.kind = some kind →
    s.engineGoes s.cid t.kind c = true → s.engineFree s.cid s.sel.k t.kind c = true → s.flaws = [] → c.grans = none → t.err = 0#4 →
    Delivers c kind s total get → c.pos < total → per = (if kind = .gpool then c.width else 4096 / c.dstD.tyOf.bytes) →
    left = min total ((c.pos / per + 1) * per) - c.pos → n = (if s.sid = 0 then left else min s.sid left) → T 0 = s →
    Moves c s.tid get c.pos n T →
    ∃ r m, exec .engineChunkPerformed s = .next r ∧ r.mem = (T n).mem ∧ (r.tagAt s.cid s.sel.k).busy = t.busy ∧
      (r.tagAt s.cid s.sel.k).err = 0#4 ∧ (r.tagAt s.cid s.sel.k).cmd = some m ∧ m.pos = c.pos + n ∧
      (r.tagAt s.cid s.sel.k).chunks = (if kind = .gpool ∨ kind = .xred then 0
        else if c.pos + n = total then (total + per - 1) / per else (c.pos + n) / per) ∧
      m.grans = (if c.pos + n = total then some (if c.ctl.getLsbD 3 then c.dstD.granules c.dstBoxes else []) else none)) ∧
  (∀ (c : Cmd) b, b = (c.src.nboxes c.srcD.n).headD [] → 0 < c.srcD.n →
    (c.src.ragged = false → ∃ os : List (List Nat), os = ((members c.srcBoxes).map fun x => x.take (c.srcD.n - 1)).eraseDups ∧ c.bags.length = os.length ∧
      ∀ (i : Nat) o (bag : List (List Nat)), os[i]? = some o → c.bags[i]? = some bag → bag.Perm ((members c.srcBoxes).filter fun x => x.take (c.srcD.n - 1) == o) ∧
        bag.Pairwise fun x y => x.getLastD 0 ≤ y.getLastD 0) ∧
    (c.src.ragged = true → c.bags.length = c.srcLen.length ∧ ∀ (j : Nat) len last, c.srcLen[j]? = some len → last = (b.drop (c.srcD.n - 1)).headD oneRng →
      0 < last.step → c.bags[j]? = some ((List.range len).filterMap fun i =>
        if last.lo + i * last.step < c.srcD.sizes.getLastD 0 then some (boxMember (b.take (c.srcD.n - 1)) j ++ [last.lo + i * last.step]) else none))) ∧
  (∀ (s w : State) t c v, s.sel.k < 8 → t = s.tagAt s.cid s.sel.k → t.cmd = some c → t.kind = some .copy → s.engineGoes s.cid t.kind c = true →
    s.copyInside s.cid s.sel.k = false → s.flaws = [] → c.grans = none → c.vals = none → c.pos = 0 → t.err = 0#4 →
    (volume c.srcBoxes = 1 → volume c.dstBoxes = 1 → c.dstD.tyOf ≠ .q4n → c.oneScratch s s.tid = false →
      c.rdElem s s.tid c.srcD (listMember c.srcBoxes 0) = .ok v →
      c.wrElem s s.tid (listMember c.dstBoxes 0) (c.conv (readTy c.srcD.tyOf) v) = .ok w →
      ∃ r, exec .engineChunkPerformed s = .next r ∧ r.mem = w.mem ∧ (r.tagAt s.cid s.sel.k).busy = t.busy ∧
        (r.tagAt s.cid s.sel.k).err = 0#4 ∧ (r.tagAt s.cid s.sel.k).chunks = 1 ∧
        ((r.tagAt s.cid s.sel.k).cmd.bind Cmd.grans) = some (if c.ctl.getLsbD 3 then c.dstD.granules c.dstBoxes else [])) ∧
    (volume c.srcBoxes ≠ volume c.dstBoxes → ∃ r, exec .engineChunkPerformed s = .next r ∧ r.mem = s.mem ∧
      (r.tagAt s.cid s.sel.k).err = 3#4 ∧ ((r.tagAt s.cid s.sel.k).cmd.bind Cmd.grans) = some [])) ∧
  (∀ (s : State) t c, s.sel.k < 8 → t = s.tagAt s.cid s.sel.k → t.cmd = some c → s.engineGoes s.cid t.kind c = true →
    c.closed = true ∨ t.kind = some .copy ∨ t.kind = some .gpool →
    (c.grans = some [] → ∃ r, exec .engineCompletion s = .next r ∧ (r.tagAt s.cid s.sel.k).busy = false ∧ (r.tagAt s.cid s.sel.k).cmd = none ∧
      (r.tagAt s.cid s.sel.k).err = t.err ∧ (r.tagAt s.cid s.sel.k).chunks = t.chunks ∧ r.mem = s.mem) ∧
    (∀ g l w v o, s.flaws = [] → s.granLost l = false → c.grans = some [g] → granLoc c.dstD c.user (fun va => c.access s s.tid .stage va 8) g = .ok l →
      stageRun s.tid ⟨.trn, c.dstD, c.asid, c.ctl.extractLsb' 4 4, [(g, l)], none, 0#64, 0, t.scope, 0#2, 0, 0#64, none, none, c.user⟩
        .issue none 0#2 [(g, l)] s = .done w v o →
      exec .engineCompletion s = .next (complete s.cid s.sel.k c t.err [] w))) ∧
  (∀ (s : State) t c k gs, s.sel.k < 8 → t = s.tagAt s.cid s.sel.k → t.cmd = some c → s.engineGoes s.cid t.kind c = true →
    t.kind = some k → k.collective = true → c.closed = false → c.grans = some gs →
    (s.allOver c.name = false → exec .engineCompletion s = .next s) ∧
    (s.allOver c.name = true → exec .engineCompletion s =
      .next (complete s.cid s.sel.k { c with closed := true } t.err gs (s.closeInst c.name)))) ∧
  (∀ (s x : State) (cell : BitVec 16) (tag : BitVec 3) c kind code g rank n vs r q odd, (s.tagAt cell.toNat tag.toNat).cmd = some c →
    (s.tagAt cell.toNat tag.toNat).kind = some kind → (s.tagAt cell.toNat tag.toNat).err = 0#4 →
    (kind, code) ∈ [(EKind.xred, if c.arr then 1#2 else 0#2), (EKind.xbcast, 2#2), (EKind.xgath, 3#2)] → c.posted = false → c.grans = none →
    s.engineGoes cell.toNat (some kind) c = true → s.group c.asid (cwGroup c.ctl) = some g → s.rankIn g (cell.toNat / 16) = some rank →
    n = (if kind ≠ .xbcast ∨ rank = (c.ctl.extractLsb' 28 12).toNat then volume c.srcBoxes else 0) →
    readAll c (cell.toNat / 16) cell.toNat false c.srcBoxes id n 0 [] ⟨s, 0#4, 0, false, none, []⟩ = (vs, r) → r.absent = none →
    odd = (s.inst c.name).parts.any (fun o => o.n != g.members.length || placeIn o.sender g.ids != some o.rank) →
    x = r.s.setTag cell.toNat tag.toNat { s.tagAt cell.toNat tag.toNat with cmd := some { c with posted := true } } →
    q = Machine.Part.mk (if g.modules then s.fab.devid.toNat else cell.toNat / 16) g.members.length rank (some (cell, tag)) code
      (c.ctl.extractLsb' 12 2) c.srcD.ty (c.ctl.getLsbD 8) (c.ctl.extractLsb' 28 12).toNat
      (if (s.inst c.name).fate ≠ 0#4 ∧ (s.inst c.name).begins (if g.modules then s.fab.devid.toNat else cell.toNat / 16) = false
        then (s.inst c.name).fate
        else if kind = .xred ∧ c.srcD.ty ≠ c.dstD.ty ∨ (s.inst c.name).fate = 0#4 ∧ odd = true then 5#4 else if r.err ≠ 0#4 then r.err
        else if g.modules = true ∧ (g.members.any fun m => s.fab.lost.contains (m.setWidth 10)) = true then 1#4 else 0#4)
      (vs.filterMap id) →
    exec (.collectiveRequest (.here cell tag)) s = .next ((x.sendColl g (.there (x.collTag c.asid) (cwGroup c.ctl) (cwSeq c.ctl) q.n
      x.fab.devid q.rank q.kind q.op q.ty q.sat q.root q.err q.vals)).addPart c.name q)) ∧
  (∀ (s : State) (g : Group) (r : CollReq), g.modules = true →
    (s.sendColl g r).fab.colls = s.fab.colls ++
      (g.members.filter fun m => m.toNat ≠ s.fab.devid.toNat).map fun m => (BitVec.ofNat 10 m.toNat, r)) ∧
  (∀ (s : State) (tag : BitVec 16) g seq n sender rank kind op ty sat root err vals a nm, a = s.spaceOf true tag →
    nm = (BitVec.ofNat 12 a, g, seq) → s.insts.find? (·.name == nm) = none →
    (a < 4096 → err ≠ 6#4 → err ≠ 5#4 →
      exec (.collectiveRequest (.there tag g seq n sender rank kind op ty sat root err vals)) s =
      .next { s with insts := s.insts ++
        [⟨BitVec.ofNat 12 a, g, seq, false, none, 0#4, [⟨sender.toNat, n, rank, none, kind, op, ty, sat, root, err, vals⟩]⟩] }) ∧
    (a < 4096 → err = 5#4 → s.named nm = [] → s.shelved nm = [] → (∀ h, s.group (BitVec.ofNat 12 a) g = some h → h.modules = true) →
      exec (.collectiveRequest (.there tag g seq n sender rank kind op ty sat root err vals)) s =
      .next { s with insts := s.insts ++
        [⟨BitVec.ofNat 12 a, g, seq, false, none, 5#4, [⟨sender.toNat, n, rank, none, kind, op, ty, sat, root, err, vals⟩]⟩] }) ∧
    (a < 4096 → err = 6#4 → s.named nm = [] → s.shelved nm = [] →
      exec (.collectiveRequest (.there tag g seq n sender rank kind op ty sat root err vals)) s = .next s) ∧
    (4096 ≤ a → exec (.collectiveRequest (.there tag g seq n sender rank kind op ty sat root err vals)) s = .next s)) ∧
  (∀ (s : State) x g ty vs arr, s.group x.asid x.group = some g → x.started = false → x.fate = 0#4 →
    x.parts.any (·.here.isSome) = true →
    (∀ q ∈ x.parts, q.n = g.members.length ∧ placeIn q.sender g.ids = some q.rank ∧ q.err = 0#4) →
    (∀ r, r < g.members.length → (partRank x.parts r).isSome = true) → disagree x.parts g.members.length = false →
    collect x.parts arr g.members.length = some (ty, vs) →
    ((∀ q ∈ x.parts, q.kind ≠ 1#2) → arr = x.parts → s.tryInst x = (s.putInst { x with started := true }).giveResult x ty vs) ∧
    ((∃ q ∈ x.parts, q.kind = 1#2) → s.arrOrder g x = some arr →
      (s.rankIn g 0 ≠ some 0 → s.tryInst x = (s.putInst { x with started := true }).giveResult x ty vs) ∧
      (s.rankIn g 0 = some 0 → s.tryInst x = ((s.sendColl g (.order (s.collTag x.asid) x.group x.seq (arr.map (·.rank)))).putInst
        { x with started := true }).giveResult x ty vs))) ∧
  (∀ (s : State) x g, s.group x.asid x.group = some g → x.started = false → x.fate = 0#4 → x.parts.any (·.here.isSome) = true →
    ((∃ q ∈ x.parts, q.n ≠ g.members.length ∨ placeIn q.sender g.ids ≠ some q.rank) → s.tryInst x =
      (s.sendColl g (.there (s.collTag x.asid) x.group x.seq 0 s.fab.devid ((s.rankIn g 0).getD 0) 0#2 0#2 0#4 false 0
        5#4 [])).failInst x 5#4) ∧
    (∀ m ∈ g.ids, g.modules = true → s.fab.lost.contains (BitVec.ofNat 10 m) = true → (∀ q ∈ x.parts, q.sender ≠ m) →
      (∀ q ∈ x.parts, q.n = g.members.length ∧ placeIn q.sender g.ids = some q.rank) → s.tryInst x = s.failInst x 1#4) ∧
    ((∀ q ∈ x.parts, q.n = g.members.length ∧ placeIn q.sender g.ids = some q.rank) →
      (∀ r, r < g.members.length → (partRank x.parts r).isSome = true) →
      (disagree x.parts g.members.length = true → s.tryInst x = s.failInst x 5#4) ∧
      (∀ q, disagree x.parts g.members.length = false → (byRank x.parts g.members.length).find? (·.err != 0#4) = some q →
        s.tryInst x = s.failInst x q.err))) ∧
  (∀ (s t : State) x ty vs c k m, s.named x.name = [(c, k, m)] → s.shelved x.name = [] → t = s.giveResult x ty vs →
    (volume m.dstBoxes = vs.length → m.dstD.tyOf ≠ .q4n → (t.tagAt c k).cmd = some { m with vals := some (vs.map fun v => some (m.conv ty v)) } ∧
      t.mem = s.mem) ∧
    (volume m.dstBoxes ≠ vs.length → (t.tagAt c k).err = 3#4 ∧ ((t.tagAt c k).cmd.bind Cmd.grans) = some [] ∧ t.mem = s.mem) ∧
    (volume m.dstBoxes = vs.length → m.dstD.tyOf = .q4n → (t.tagAt c k).err = 4#4 ∧ ((t.tagAt c k).cmd.bind Cmd.grans) = some [] ∧
      t.mem = s.mem)) ∧
  (∀ (f : Nat → Nat → Nat) x xs n, (∀ a b c, f (f a b) c = f a (f b c)) → xs.length < n → treeFold f n (x :: xs) = xs.foldl f x) ∧
  (∀ (s : State) t c, s.sel.k < 8 → t = s.tagAt s.cid s.sel.k → t.cmd = some c → c.stop = true → c.coll = none →
    (c.atStop t.kind = false → exec .stopUnitReached s = .next s) ∧ (c.atStop t.kind = true →
    ∃ r, exec .stopUnitReached s = .next r ∧ (r.tagAt s.cid s.sel.k).err = 6#4 ∧ (r.tagAt s.cid s.sel.k).busy = false ∧
      (r.tagAt s.cid s.sel.k).cmd = none ∧ r.mem = s.mem ∧ r.tiles = s.tiles)) ∧
  (∀ (s : State) t c, s.sel.k < 8 → t = s.tagAt s.cid s.sel.k → t.cmd = some c → c.stop = true → c.coll.isSome = true →
    (c.closed = false → exec .stopUnitReached s = .next ((s.sendFail c.name false 6#4).cancelInst c.name).pruneInsts) ∧
    (c.closed = true → c.atStop t.kind = false → exec .stopUnitReached s = .next s) ∧
    (c.closed = true → c.atStop t.kind = true → ∃ r, exec .stopUnitReached s = .next r ∧ (r.tagAt s.cid s.sel.k).err = 6#4 ∧
      (r.tagAt s.cid s.sel.k).busy = false ∧ (r.tagAt s.cid s.sel.k).cmd = none ∧ r.mem = s.mem)) ∧
  (∀ (s u r : State) n c k m v, k < 8 → s.named n = [(c, k, v)] → s.shelved n = [] → r = s.cancelInst n →
    u = (if s.engineInside c k = true ∧ (s.tile (c / 16)).run ≠ .stopped then s.engineUnit c k false 0 else s) → (u.tagAt c k).cmd = some m →
    (m.atStop (u.tagAt c k).kind = true → (r.tagAt c k).err = 6#4 ∧ (r.tagAt c k).busy = false ∧ (r.tagAt c k).cmd = none ∧ r.mem = u.mem) ∧
    (m.atStop (u.tagAt c k).kind = false →
      (r.tagAt c k).cmd = some { m with stop := true, closed := true } ∧ (r.tagAt c k).busy = (u.tagAt c k).busy ∧ r.mem = u.mem)) ∧
  (∀ (s : State) c k m, (s.tagAt c k).cmd = some m → (mget? s.vault m.num).isSome = true →
    mget? (s.killTag c k).vault m.num = some (.cmd { m.over 6#4 with late := 6#4, closed := true })) ∧
  (∀ (s : State), (s.tagAt s.cid s.sel.k).cmd = none → s.myTile.run = .stopping → s.unitsStopped s.tid = true →
    ∃ t, exec .stopUnitReached s = .next t ∧ t.tile s.tid = { s.myTile with run := .stopped, stopCyc := s.cycle } ∧
      (∀ k, k ≠ s.tid → t.tile k = s.tile k) ∧ t.mem = s.mem ∧ (∀ c n, t.ctxAt c n = s.ctxAt c n) ∧
      ∀ c k, ((t.tagAt c k).cmd.map fun m => { m with lacks := false }) = (s.tagAt c k).cmd.map fun m => { m with lacks := false })

/-! ### Heaps and routing counters (13 R333 to R335) -/

/-- A heap of `cap` places and `n` entries stands at `va`, at memory key `key`: readable or writable as `need` says, sound, apart from every
pending access of the context. -/
def Sys2Proof.Claims.HeapReady (need : Need) (va : Word) (u : State) (key cap n : Nat) : Prop :=
  va.toNat % 16 = 0 ∧ u.ctx.accessHeld = false ∧ u.flaws = [] ∧ u.poison = [] ∧ heapKey u.tid va = some key ∧ cap = rdN u.mem key 4 ∧ n = rdN u.mem (key + 4) 4 ∧
  cap ≠ 0 ∧ cap ≤ 4096 ∧ n ≤ cap ∧ u.pendTouches key (16 + 8 * cap) = false ∧
  (∃ k c sc, u.access u.cid u.ctx.user need va.toNat 16 = .mem k c sc) ∧
  (∃ k c sc, u.access u.cid u.ctx.user need va.toNat (16 + 8 * cap) = .mem k c sc)

/-- HPOFFER drops a NaN, joins a heap with room, or takes the place of the lowest entry that it ranks above (R334); HPREAD stores the entries
in rank order, none above one that stands before it; RCINC adds with saturation, RCSNAP moves and clears 256 bytes (R335). -/
def Obligations.RoutingResults : Prop :=
  (∀ p d a (s u v : State) m o key cap n, m = (if chargedBytes s.tid (s.rs (p.an a)).toNat 1 ≠ 0 then 1 else 0) → u = s.charged 2 m →
    s.issues (.hpoffer p d a) .plain 2 m = true → o = s.rs p.en → HeapReady .atomic (s.rs (p.an a)) u key cap n →
    (pRel p = true → u.released (pScope p) = true) → v = released p u →
    ((fmtF32.decode (o.toNat % 2 ^ 32)).isNaN = true →
      exec (.hpoffer p d a) s = .next ((withAcquire p (v.ws (p.dn d) 1#64)).done (.hpoffer p d a))) ∧
    ((fmtF32.decode (o.toNat % 2 ^ 32)).isNaN = false → n < cap →
      exec (.hpoffer p d a) s = .next ((withAcquire p (((v.put64 v.tid (key + 16 + 8 * n) o).putN v.tid (key + 4) 4 (n + 1)).ws (p.dn d)
        0#64)).done (.hpoffer p d a))) ∧
    (∀ i w, (fmtF32.decode (o.toNat % 2 ^ 32)).isNaN = false → n = cap → lowest 0 (heapEntries u key n) = some (i, w) →
      (ranksAbove o w = true → exec (.hpoffer p d a) s = .next ((withAcquire p ((v.put64 v.tid (key + 16 + 8 * i) o).ws (p.dn d)
        ((w >>> 32) <<< 32 ||| 2#64))).done (.hpoffer p d a))) ∧
      (ranksAbove o w = false → exec (.hpoffer p d a) s = .next ((withAcquire p (v.ws (p.dn d) 1#64)).done (.hpoffer p d a))))) ∧
  (∀ p d a (s u v : State) m key cap n bs f, m = hpreadCost p a s → u = s.charged 2 m → s.issues (.hpread p d a) .plain 2 m = true →
    HeapReady .read (s.rs (p.an a)) u key cap n → (s.rs p.en).toNat % 8 = 0 →
    wordPieces u (s.rs p.en) (sortRank (heapEntries u key n)) = .ok (bs, f) → u.pendMeets bs = false →
    (pRel p = true → u.released (pScope p) = true) → v = released p u →
    exec (.hpread p d a) s = .next ((withAcquire p ((((v.touchPuts (pieces (s.rs p.en) 8 n) 8).write v.tid bs).raise f).ws (p.dn d) (BitVec.ofNat 64 n))).done (.hpread p d a))) ∧
  (∀ l, (sortRank l).Perm l ∧
    ((∀ w ∈ l, (fmtF32.decode (w.toNat % 2 ^ 32)).isNaN = false) → (sortRank l).Pairwise fun a b => ranksAbove b a = false)) ∧
  (∀ l i w, lowest 0 l = some (i, w) → l[i]? = some w ∧
    ((∀ x ∈ l, (fmtF32.decode (x.toNat % 2 ^ 32)).isNaN = false) → ∀ x ∈ l, ranksAbove w x = false)) ∧
  (∀ a b : Word, ∀ u v, (∀ n1 m1 e1 n2 m2 e2, fmtF32.decode (a.toNat % 2 ^ 32) = .fin n1 m1 e1 →
    fmtF32.decode (b.toNat % 2 ^ 32) = .fin n2 m2 e2 → u = scaled (min e1 e2) n1 m1 e1 → v = scaled (min e1 e2) n2 m2 e2 →
    (ranksAbove a b = true ↔ v < u ∨ u = v ∧ (a >>> 32).toNat < (b >>> 32).toNat))) ∧
  (∀ p d a (s u v : State) m pa c sc old, m = units (chargedBytes s.tid (s.rs (p.an a)).toNat 4) → u = s.charged 2 m →
    s.issues (.rcinc p d a) .plain 2 m = true → (s.rs (p.an a)).toNat % 4 = 0 → u.ctx.accessHeld = false → u.flaws = [] → u.poison = [] →
    u.access u.cid u.ctx.user .atomic (s.rs (p.an a)).toNat 4 = .mem pa c sc → ¬ (pa < scratchBase ∧ pa / 2 ^ 56 = 1) →
    u.pendTouches pa 4 = false → (pRel p = true → u.released (pScope p) = true) → v = released p u → old = rdN u.mem pa 4 →
    exec (.rcinc p d a) s = .next ((withAcquire p ((v.putN v.tid pa 4 (min (old + (s.rs p.en).toNat % 2 ^ 32) (2 ^ 32 - 1))).ws (p.dn d)
      (BitVec.ofNat 64 old))).done (.rcinc p d a))) ∧
  (∀ p d a (s u v : State) m pa c sc bs f,
    m = units (chargedBytes s.tid (s.rs (p.an a)).toNat 256 + chargedBytes s.tid (s.rs (p.dn d)).toNat 256) → u = s.charged 2 m →
    s.issues (.rcsnap p d a) .plain 2 m = true → (s.rs (p.an a)).toNat % 256 = 0 → (s.rs (p.dn d)).toNat % 8 = 0 →
    u.ctx.accessHeld = false → u.flaws = [] → u.poison = [] → u.access u.cid u.ctx.user .atomic (s.rs (p.an a)).toNat 256 = .mem pa c sc →
    ¬ (pa < scratchBase ∧ pa / 2 ^ 56 = 1) → u.pendTouches pa 256 = false →
    wordPieces u (s.rs (p.dn d)) ((List.range 32).map fun i => rd64 u.mem (pa + 8 * i)) = .ok (bs, f) → u.pendMeets bs = false →
    (pRel p = true → u.released (pScope p) = true) → v = released p u →
    exec (.rcsnap p d a) s = .next ((withAcquire p ((((v.touchPuts (pieces (s.rs (p.dn d)) 8 32) 8).putN v.tid pa 256 0).write v.tid bs).raise f)).done (.rcsnap p d a)))

/-! ### Images, stops, answers (14 R345 to R359) -/

/-- A form of CTXSV or CTXLD may act: the image's address is aligned, the tile or slot exists and is stopped, or the slot is free. -/
def Sys2Proof.Claims.ImageReady (x va : Word) (slot : Bool) (u : State) : Prop :=
  va.toNat % 64 = 0 ∧ saUnit x < numTiles ∧ (slot = true → saSub x ≤ 10) ∧
  (u.stopped (saUnit x) = true ∨ slot = true ∧ (u.ctxAt (saGlobal x) (saSub x)).live = false)

/-- CTXSV stores images and frees the slot; CTXLD loads them, binds the frame and begins with an acquire; CTXLD.reg and REGRD write and read
one doubleword of state (R351 to R353); one that comes from an array with an uncorrectable error traps 0x15. A context image gives back the
registers, the stack and every special register (R350). The model's choices: the layouts inside the images, and what they name by number,
which CTXSV keeps (`keepHeld`, `keepWtt`; log entry 15); that a save waits for the slot's own accesses and ends its queued vector
instructions (`quiet`, `drainQueue`; log entry 17); which writes of CTXLD.reg trap (log entry 31); and taddr of the 0x15 trap of REGRD (log
entry 34). -/
def Obligations.ImageResults : Prop :=
  (∀ p a (s u w v : State) x bs f, u = s.charged 1 0 → s.issues (.ctxsvCtx p a) .plain 1 0 = true → s.ctx.user = false → x = s.rs (p.an a) →
    ImageReady x (s.rs p.en) true u → u.quiet (saGlobal x) (saSub x) = true → w = u.drainQueue (saGlobal x) (saSub x) →
    MemReady p w v →
    storeLines v (s.rs p.en) 8 (w.ctxAt (saGlobal x) (saSub x)).image = .ok (bs, f) → v.pendMeets bs = false →
    exec (.ctxsvCtx p a) s = .next (((withAcquire p (((v.touchPuts (pieces (s.rs p.en) 64 8) 64).write v.tid bs).raise f)).freeSlot (saGlobal x) (saSub x)).done (.ctxsvCtx p a))) ∧
  (∀ p a (s u v : State) x bs f, u = s.charged 1 0 → s.issues (.ctxsvCell p a) .plain 1 0 = true → s.ctx.user = false → x = s.rs (p.an a) →
    ImageReady x (s.rs p.en) false u → (List.range 4096).any (u.cellBad (saGlobal x)) = false → MemReady p u v →
    storeLines v (s.rs p.en) 512 ((List.range 4096).map (u.cellDw (saGlobal x))) = .ok (bs, f) →
    v.pendMeets bs = false →
    exec (.ctxsvCell p a) s = .next ((((withAcquire p (((v.touchPuts (pieces (s.rs p.en) 64 512) 64).write v.tid bs).raise f)).meetArrays (·.inCell (saGlobal x))).keepHeld (saGlobal x)).done
      (.ctxsvCell p a))) ∧
  (∀ p a (s u v : State) x bs f, u = s.charged 1 0 → s.issues (.ctxsvTile p a) .plain 1 0 = true → s.ctx.user = false → x = s.rs (p.an a) →
    ImageReady x (s.rs p.en) false u → (u.tile (saUnit x)).pbad = false → (u.tile (saUnit x)).granBad = 0#1024 → MemReady p u v →
    storeLines v (s.rs p.en) 2048 ((List.range 16384).map (u.tileDw (saUnit x))) = .ok (bs, f) →
    v.pendMeets bs = false →
    exec (.ctxsvTile p a) s = .next ((((withAcquire p (((v.touchPuts (pieces (s.rs p.en) 64 2048) 64).write v.tid bs).raise f)).meetArrays (· == .prot (saUnit x))).keepWtt (saUnit x)).done
      (.ctxsvTile p a))) ∧
  (∀ p a (s u v w y : State) x bs f, u = s.charged 1 0 → s.issues (.ctxldCtx p a) .plain 1 0 = true → s.ctx.user = false → x = s.rs (p.an a) →
    ImageReady x (s.rs p.en) true u → (u.ctxAt (saGlobal x) (saSub x)).live = false → MemReady p u v →
    readLines v (s.rs p.en) 8 = .ok bs → w = withAcquire p (v.touchAll (pieces (s.rs p.en) 64 8) 64) →
    w.bindIdent (saGlobal x) (dwordsOf bs 64) = some (f, y) →
    exec (.ctxldCtx p a) s = .next (((y.setLive (saGlobal x) (saSub x)
      { ((y.ctxAt (saGlobal x) (saSub x)).fresh true).load w.ctx.mode 0 (dwordsOf bs 64) with ident := f }).beginAt (saGlobal x) (saSub x) 4).done
        (.ctxldCtx p a))) ∧
  (∀ p a (s u v : State) x bs, u = s.charged 1 0 → s.issues (.ctxldCell p a) .plain 1 0 = true → s.ctx.user = false → x = s.rs (p.an a) →
    ImageReady x (s.rs p.en) false u → MemReady p u v → readLines v (s.rs p.en) 512 = .ok bs →
    exec (.ctxldCell p a) s = .next ((State.loadCell (saGlobal x) 0 (dwordsOf bs 4096)
      (withAcquire p (v.touchAll (pieces (s.rs p.en) 64 512) 64))).done (.ctxldCell p a))) ∧
  (∀ p a (s u v : State) x bs, u = s.charged 1 0 → s.issues (.ctxldTile p a) .plain 1 0 = true → s.ctx.user = false → x = s.rs (p.an a) →
    ImageReady x (s.rs p.en) false u → MemReady p u v → readLines v (s.rs p.en) 2048 = .ok bs →
    exec (.ctxldTile p a) s = .next (((withAcquire p (v.touchAll (pieces (s.rs p.en) 64 2048) 64)).installTile (saUnit x) (dwordsOf bs 16384)).done
      (.ctxldTile p a))) ∧
  (∀ p a (s u t : State) x, u = s.charged 1 0 → s.issues (.ctxldReg p a) .plain 1 0 = true → s.ctx.user = false → x = s.rs (p.an a) →
    saOff x % 8 = 0 → ¬ (saClass x = 7 ∧ saOff x = 0x18) → u.spaceWaits x (s.rs p.en) = false →
    (u.stateWrite u.ctx.mode x (s.rs p.en) = some t → exec (.ctxldReg p a) s = .next (t.done (.ctxldReg p a))) ∧
    (s.ctx.paid = none → u.stateWrite u.ctx.mode x (s.rs p.en) = none → exec (.ctxldReg p a) s =
      .next ((s.setCtx { s.ctx with wait := .none }).takeTrap ⟨3, s.ctx.pc, 0x100#64, none⟩ (Instr.ctxldReg p a).ilen))) ∧
  (∀ p d a (s u : State), u = s.charged 1 0 → s.issues (.regrd p d a) .plain 1 0 = true → s.ctx.user = false →
    (saOff (s.rs (p.an a)) % 8 = 0 → u.stateBad (s.rs (p.an a)) = false →
      exec (.regrd p d a) s = .next (((u.meetArrays fun b => saArray (s.rs (p.an a)) == some b).ws (p.dn d)
        (u.stateRead s.ctx.mode (s.rs (p.an a)))).done (.regrd p d a))) ∧
    (s.ctx.paid = none → saOff (s.rs (p.an a)) % 8 = 0 → u.stateBad (s.rs (p.an a)) = true → exec (.regrd p d a) s =
      .next ((s.setCtx { s.ctx with wait := .none }).takeTrap ⟨0x15, s.ctx.pc, 0#64, none⟩ (Instr.regrd p d a).ilen)) ∧
    (s.ctx.paid = none → saOff (s.rs (p.an a)) % 8 ≠ 0 → exec (.regrd p d a) s =
      .next ((s.setCtx { s.ctx with wait := .none }).takeTrap ⟨4, s.rs (p.an a), 0#64, none⟩ (Instr.regrd p d a).ilen))) ∧
  (∀ x y z : Ctx, z = (y.fresh true).load 2#2 0 x.image → x.pst.length = 16 ∨ (x.pst.length < 16 ∧ x.spilled = 0) → x.pdepth ≤ 64 →
    x.mode ≠ 3#2 → x.tstat &&& 0x77#64 = x.tstat → x.pc.getLsbD 0 = false →
    z.pc = x.pc ∧ z.ident = x.ident ∧ z.ibud = x.ibud ∧ z.mbud = x.mbud ∧ z.cont = x.cont ∧ z.cmask = x.cmask ∧ z.iallow = x.iallow ∧
    z.mallow = x.mallow ∧ z.mode = x.mode ∧ z.bpol = x.bpol ∧ z.fcsr = x.fcsr ∧ z.gmode = x.gmode ∧ z.vcnt = x.vcnt ∧ z.regs = x.regs ∧
    z.pst = x.pst ∧ z.spilled = x.spilled ∧ z.pss = x.pss ∧ z.psmask = x.psmask ∧ z.tpc = x.tpc ∧ z.tcause = x.tcause ∧
    z.taddr = x.taddr ∧ z.tinfo = x.tinfo ∧ z.tvec = x.tvec ∧ z.tstat = x.tstat ∧ z.ks = x.ks)

/-- PMREQ.ctx requests a preemption, zeroes the budget and waits until the context has left; PMREQ.stop waits until the tile is stopped, and
acquires; PMREQ.go restarts it; PMREQ.frame makes a held frame ready (R354 to R356). GANGSTOP stops the space's tiles, then writes the halt
records and acquires, and restarts them (R357, R358). TLBINV drops the translations that meet the range (R359), and the filter of a cell
whose micro-TLB is empty (10 R250). That a stop completes with an acquire at device scope is how the model makes R278 true, and that the
halt records are written once every tile has stopped is its choice (log entry 30). -/
def Obligations.StopResults : Prop :=
  (∀ p a (s u : State) w c n, u = s.charged 1 0 → s.issues (.pmreqCtx p a) .plain 1 0 = true → s.ctx.user = false → w = s.rs (p.an a) →
    c = (w.extractLsb' 0 16).toNat → n = (w.extractLsb' 16 4).toNat → c < numCells → n ≤ 10 →
    (u.ctx.wait = .asked → (u.ctxAt c n).going = false → exec (.pmreqCtx p a) s = .next (u.done (.pmreqCtx p a))) ∧
    (u.ctx.wait = .asked → (u.ctxAt c n).going = true → exec (.pmreqCtx p a) s = .next (u.setCtx (u.ctx.waitAs 1 0 .asked))) ∧
    (u.ctx.wait ≠ .asked → (u.ctxAt c n).live = false → exec (.pmreqCtx p a) s = .next (u.done (.pmreqCtx p a))) ∧
    (∀ x, u.ctx.wait ≠ .asked → (u.ctxAt c n).live = true → (u.ctxAt c n).going = false → x = u.preempt c n (w.extractLsb' 20 2) →
      exec (.pmreqCtx p a) s = .next (x.setCtx (x.ctx.waitAs 1 0 .asked)))) ∧
  (∀ (s : State) c n disp, n ≤ 10 → (s.ctxAt c n).double = false → ∃ t, s.preempt c n disp = t ∧
    (t.ctxAt c n).preq = some ⟨(s.ctxAt c n).ibud, disp⟩ ∧ (t.ctxAt c n).ibud = ⟨false, 0#32⟩ ∧ (t.ctxAt c n).regs = (s.ctxAt c n).regs ∧
    (t.ctxAt c n).pc = (s.ctxAt c n).pc ∧ t.mem = s.mem ∧ t.tiles = s.tiles) ∧
  (∀ p a (s u x : State) t, u = s.charged 1 0 → s.issues (.pmreqStop p a) .plain 1 0 = true → s.ctx.user = false →
    t = ((s.rs (p.an a)).extractLsb' 0 12).toNat → t < numTiles →
    ((u.tile t).run = .stopped → exec (.pmreqStop p a) s = .next ((u.acquire 4).done (.pmreqStop p a))) ∧
    ((u.tile t).run = .running → u.ctx.wait ≠ .asked → x = u.setTile t { u.tile t with run := .stopping } →
      exec (.pmreqStop p a) s = .next (x.setCtx (x.ctx.waitAs 1 0 .asked))) ∧
    ((u.tile t).run = .stopping → exec (.pmreqStop p a) s = .next (u.setCtx (u.ctx.waitAs 1 0 .asked)))) ∧
  (∀ p a (s u : State) t, u = s.charged 1 0 → s.issues (.pmreqGo p a) .plain 1 0 = true → s.ctx.user = false →
    t = ((s.rs (p.an a)).extractLsb' 0 12).toNat → t < numTiles →
    exec (.pmreqGo p a) s = .next ((u.goTile t).done (.pmreqGo p a)) ∧
    (u.loggedFor t (u.asidOf t).toNat = [] → (u.tile t).ingress = none → ((u.goTile t).tile t).run = .running ∧ (u.goTile t).mem = u.mem)) ∧
  (∀ p a (s u x : State) f t key, u = s.charged 1 0 → s.issues (.pmreqFrame p a) .plain 1 0 = true → s.ctx.user = false → f = s.rs (p.an a) →
    t = ((s.rs p.en).extractLsb' 0 12).toNat → t < numTiles → (u.tile t).accepts = true → u.frameKey t f = some key →
    x = (u.meetFrame t f 64).setF t key 8 1 1 →
    exec (.pmreqFrame p a) s = .next ((x.enqueueRq t { x.frameRq t f 1 none with kernel := true }).done (.pmreqFrame p a))) ∧
  (∀ p a (s u x : State) ts bs f, u = s.charged 1 0 → s.issues (.gangstopStop p a) .plain 1 0 = true → s.ctx.user = false →
    (s.rs p.en).toNat % 256 = 0 → ts = u.partition ((s.rs (p.an a)).extractLsb' 0 12) →
    u.ctx.accessHeld = false → haltLines u (s.rs p.en) (ts.flatMap fun t => (List.range 16).map (16 * t + ·)) = .ok (bs, f) →
    u.pendMeets bs = false →
    ((∃ t ∈ ts, (u.tile t).run ≠ .stopped) → x = ts.foldl (fun s t => s.stopTile t) u →
      exec (.gangstopStop p a) s = .next (x.setCtx (x.ctx.waitAs 1 0 .asked))) ∧
    ((∀ t ∈ ts, (u.tile t).run = .stopped) →
      exec (.gangstopStop p a) s = .next ((((u.write u.tid bs).raise f).acquire 4).done (.gangstopStop p a)))) ∧
  (∀ p a (s u : State), u = s.charged 1 0 → s.issues (.gangstopRestart p a) .plain 1 0 = true → s.ctx.user = false →
    exec (.gangstopRestart p a) s = .next (((u.partition ((s.rs (p.an a)).extractLsb' 0 12)).foldl (fun s t => s.goTile t) u).done
      (.gangstopRestart p a))) ∧
  (∀ p d a (s u : State) lo len, u = s.charged 1 0 → s.issues (.tlbinv p d a) .plain 1 0 = true → s.ctx.user = false →
    lo = (s.rs (p.an a)).toNat → len = (s.rs p.en).toNat →
    (len = 0 → exec (.tlbinv p d a) s = .next (u.done (.tlbinv p d a))) ∧
    (len ≠ 0 → exec (.tlbinv p d a) s = .next ((u.invalidate ((s.rs (p.dn d)).extractLsb' 0 12) lo (min (lo + len) (2 ^ 57))).done
      (.tlbinv p d a)))) ∧
  (∀ (s : State) asid lo hi c, (∀ k n, (s.ctxAt k n).pend = []) → (∀ k j, (s.cell k).stream j = none) → s.parked = [] →
    (∀ e ∈ ((s.invalidate asid lo hi).cell c).utlb, e.meets asid lo hi = false ∧ e ∈ (s.cell c).utlb) ∧
    (((s.invalidate asid lo hi).cell c).utlb = [] → ((s.invalidate asid lo hi).cell c).filt = 0#1024))

/-- ANSWER (R345): a retry lets the access be tried again; a refusal traps access refused (0x05) with its address, and puts a stream that
waited for the page in error, for its next pop or push to trap 0x06 with the element's address (08 R206); a long service writes the
context's image, frees its slot and keeps the access, which completes on the image once its page has been answered: the image receives
the outcome and the slot keeps what it holds (that it runs there, and the slot keeps what it holds, is the model's reading of R347, log
entry 30); SWITCH_IN_RESTORE then takes the context back, behind its access (R347), never in firmware mode unless it left in it (R339). -/
def Obligations.AnswerResults : Prop :=
  (∀ (s x : State) (n : BitVec 4) id c k va kind, x = s.consume n.toNat id → x.mtuCtx n.toNat id = some (c, k, va, kind) →
    exec (.answerRetry n id) s = .next (x.setCtxAt c k { x.ctxAt c k with wait := if (x.ctxAt c k).paid.isSome then .answered else .none })) ∧
  (∀ (s x : State) (n : BitVec 4) id, x = s.consume n.toNat id → x.mtuCtx n.toNat id = none →
    x.mtuStream n.toNat id = none → x.mtuCmd n.toNat id = none →
    exec (.answerRetry n id) s = .next (x.mapAway fun w =>
      if spanOf (w.cell / 16) = n.toNat ∧ w.id = id ∧ w.ready = false ∧ w.due = false
      then (if w.kind = .fetch ∨ w.paid = none then { w with due := true, refused := false } else { w with ready := true }) else w)) ∧
  (∀ (s x : State) (n : BitVec 4) id c k va kind, x = s.consume n.toNat id → x.mtuCtx n.toNat id = some (c, k, va, kind) → c < 65536 → k ≤ 10 →
    (x.ctxAt c k).tstat.getLsbD 2 = false → (x.ctxAt c k).tvec ≠ 0#64 → (x.ctxAt c k).tvec.getLsbD 0 = false →
    ∃ t, exec (.answerRefuse n id) s = .next t ∧ (t.ctxAt c k).tcause = 5#64 ∧ (t.ctxAt c k).taddr = va ∧
      (t.ctxAt c k).tpc = (x.ctxAt c k).pc ∧ (t.ctxAt c k).pc = (x.ctxAt c k).tvec ∧ t.mem = x.mem ∧
      ∀ i, (x.ctxAt c k).cur = some i → (t.ctxAt c k).tstat = tstatOf (x.ctxAt c k).mode (if kind = .fetch then 0 else i.ilen)) ∧
  (∀ (s x : State) (n : BitVec 4) id c k va kind keys key, x = s.consume n.toNat id → x.mtuCtx n.toNat id = some (c, k, va, kind) → k ≤ 10 →
    s.answerWaits n.toNat id 2#2 = false → (x.ctxAt c k).preq = none → x.saveLines (c / 16) (x.ctxAt c k).ident .write = some keys →
    x.frameKey (c / 16) (x.ctxAt c k).ident = some key →
    ∃ t, exec (.answerLongService n id) s = .next t ∧ (t.ctxAt c k).live = false ∧
      t.mem = ((x.putImage (c / 16) keys (x.ctxAt c k)).setF (c / 16) key 8 1 4).mem ∧
      t.away = x.away ++ [⟨c, k, (x.ctxAt c k).ident, id, va, kind, (x.ctxAt c k).cur, (x.ctxAt c k).paid, (x.ctxAt c k).cap, false, false, false, (x.ctxAt c k).mode,
        (x.ctxAt c k).hnd⟩]) ∧
  (∀ (s x : State) (n : BitVec 4) id c k (st : Stream) va i, x = s.consume n.toNat id → x.mtuCtx n.toNat id = none →
    x.mtuStream n.toNat id = some (c, k) → c < 65536 → k < 4 → (x.cell c).stream k = some st → st.fault = some (i, va) →
    (∀ y, (x.mtuCmd n.toNat id).isSome = false → y = (x.cell c).setStream k (some { st with
        fault := none, err := some (if st.wr then st.done else st.done + st.ready.length, 6, va) }) →
      exec (.answerRefuse n id) s = .next ((x.setCell c y).mapAway (answerAway n.toNat id true)))) ∧
  (∀ (s t u : State) w keys, s.flaws = [] → s.away.find? (fun w => w.ready && !w.due && w.cell == s.cid && w.slot == s.sid) = some w → s.sid ≤ 10 →
    s.saveLines s.tid w.frame .write = some keys →
    issueNow (s.setCtx { w.ctx s.ctx (s.getImage keys) with wait := .answered, pend := [] }) = .next t → t.ctx.wait = .none → t.sel = s.sel →
    u = performFirst t.ctx.pend.length t → u.sel = s.sel →
    ∃ r, s.awayTurn = r ∧ r.mem = (u.putImage s.tid keys u.ctx).mem ∧ r.ctx = s.ctx ∧ r.sel = s.sel ∧
      r.away = u.away.map fun x => if x = w then { w with due := true } else x) ∧
  (∀ (s x : State) w keys key, s.flaws = [] → s.away.find? (fun w => w.due && w.cell == s.cid && w.slot == s.sid) = some w → s.ctx.live = false →
    w.refused = false → s.saveLines s.tid w.frame .read = some keys → s.frameKey s.tid w.frame = some key →
    x = ((s.setLive s.cid s.sid { ((s.ctxAt s.cid s.sid).fresh true).load w.mode 0 (s.getImage keys) with
      cur := w.cur, paid := none, cap := none, wait := .none, hnd := w.hnd }).setF s.tid key 8 1 0).beginAt s.cid s.sid 1 →
    exec .switchInRestore s = .next { x with away := x.away.erase w }) ∧
  (∀ (w : Away) base ws, w.mode ≠ 2#2 → (w.ctx base ws).mode ≠ 2#2)

/-! ### The host, the command processor, module events (15 R362 to R372) -/

/-- Host writes of BAR0 (R363, R364, R371, R372): WPTR, QSIZE, the other registers, MDATA, ANONCE, PSTATE; HBM and the staging window of BAR2.
In recovery mode BAR0 takes nothing; outside the staging window BAR2 reads 0 and ignores writes (R370). The model's choices (log entry 18):
bits 5:0 and 63:40 of QBASE read 0, enabling a queue clears STOP and its error, MDATA acts with kernel rights, when every partition is
stopped (`allStopped`), and that HBM is read and written in every power state, PSTATE 2 too. -/
def Obligations.HostResults : Prop :=
  (∀ (s : State) q v, s.host.recovery = false → ∃ t, exec (.wptrWrite q v) s = .next t ∧
    t.queue q.toNat = { s.queue q.toNat with wptr := v } ∧ (∀ k, k ≠ q.toNat → t.queue k = s.queue k) ∧ t.mem = s.mem ∧ t.cells = s.cells ∧
    t.tiles = s.tiles) ∧
  (∀ (s : State) q (v : BitVec 5), s.host.recovery = false →
    (v = 0#5 → ∃ t, exec (.qsizeWrite q v) s = .next t ∧ t.queue q.toNat = { s.queue q.toNat with qsize := 0#5 } ∧ t.mem = s.mem) ∧
    ((s.queue q.toNat).qsize = 0#5 → 1 ≤ v.toNat → v.toNat ≤ 16 → ∃ t, exec (.qsizeWrite q v) s = .next t ∧
      t.queue q.toNat = { s.queue q.toNat with qsize := v, stop := false, err := 0#8 } ∧ t.mem = s.mem)) ∧
  (∀ (s : State) (off : BitVec 16) (v : Word) (q : Nat), s.host.recovery = false → q < 8 →
    (off.toNat = 0x100 + 0x40 * q → (s.queue q).qsize = 0#5 → ∃ t, exec (.hostRegisterWrite off v) s = .next t ∧
      t.queue q = { s.queue q with qbase := v &&& 0xFFFFFFFFC0#64 } ∧ t.mem = s.mem) ∧
    (off.toNat = 0x128 + 0x40 * q → (s.queue q).qsize = 0#5 → ∃ t, exec (.hostRegisterWrite off v) s = .next t ∧
      t.queue q = { s.queue q with qasid := v.extractLsb' 0 12 } ∧ t.mem = s.mem) ∧
    (off.toNat = 0x118 + 0x40 * q → exec (.hostRegisterWrite off v) s = .next s) ∧
    (off.toNat = 0x8000 → exec (.hostRegisterWrite off v) s = .next { s with host := { s.host with maddr := v } })) ∧
  (∀ (s t : State) v, s.host.recovery = false → saOff s.host.maddr % 8 = 0 → saClass s.host.maddr ≠ 7 →
    s.spaceWaits s.host.maddr v = false → s.stateWrite 1#2 s.host.maddr v = some t → exec (.mdataWrite v) s = .next t) ∧
  (∀ (s : State) nonce, s.host.recovery = false →
    exec (.anonceWrite nonce) s = .next { s with host := { s.host with anonce := nonce, signing := some nonce } }) ∧
  (∀ s : State, s.host.recovery = false → ∃ t, exec .pstateFull s = .next t ∧ t.host.pstate = 0#2 ∧ (t.queue 0).pref = false ∧ t.mem = s.mem ∧
    t.cells = s.cells) ∧
  (∀ (s : State) i v, (i, v) ∈ [(Instr.pstatePartitionOff, 1#2), (Instr.pstateIdle, 2#2)] → s.host.recovery = false →
    ∃ t, exec i s = .next t ∧ t.mem = s.mem ∧ t.cells = s.cells ∧
      (s.allStopped = true → t.host.pstate = v ∧ (t.queue 0).pref = false) ∧
      (s.allStopped = false → t.host.pstate = s.host.pstate ∧ (t.queue 0).pref = true)) ∧
  (∀ (s : State) (i : Instr), s.host.recovery = true →
    (i = .pstateFull ∨ i = .pstatePartitionOff ∨ i = .pstateIdle ∨ (∃ q v, i = .wptrWrite q v) ∨ (∃ q v, i = .qsizeWrite q v) ∨
      (∃ off v, i = .hostRegisterWrite off v) ∨ (∃ v, i = .mdataWrite v) ∨ (∃ n, i = .anonceWrite n) ∨
      (∃ pa n, i = .hostMemoryAccess (.read pa n)) ∨ (∃ pa bytes, i = .hostMemoryAccess (.write pa bytes))) → exec i s = .next s) ∧
  (∀ (s : State) off, s.host.recovery = true → s.barRead off = 0#64) ∧
  (∀ (s : State) pa n, s.flaws = [] → exec (.hostMemoryAccess (.read pa n)) s = .next s) ∧
  (∀ (s : State) (pa : BitVec 40) bytes, s.host.recovery = false → s.flaws = [] → pa.toNat + bytes.length ≤ 2 ^ 40 → MemInv s →
    ∃ t, exec (.hostMemoryAccess (.write pa bytes)) s = .next t ∧ rdBytes t.mem pa.toNat bytes.length = bytes ∧
      (∀ a, a < pa.toNat ∨ pa.toNat + bytes.length ≤ a → rd8 t.mem a = rd8 s.mem a) ∧ t.tiles = s.tiles ∧ t.host = s.host) ∧
  (∀ (s : State) (off : BitVec 24) bytes, s.host.recovery = true → off.toNat + bytes.length ≤ 2 ^ 23 → off.toNat ≤ s.host.staging.length →
    ∃ t, exec (.hostMemoryAccess (.stage off bytes)) s = .next t ∧ t.mem = s.mem ∧
      (t.host.staging.drop off.toNat).take bytes.length = bytes ∧ t.host.staging.take off.toNat = s.host.staging.take off.toNat) ∧
  (∀ (s : State) (off : BitVec 24) bytes, s.host.recovery = false ∨ 2 ^ 23 ≤ off.toNat →
    exec (.hostMemoryAccess (.stage off bytes)) s = .next s) ∧
  (∀ (s : State) off n, exec (.hostMemoryAccess (.staged off n)) s = .next s) ∧
  (∀ (s : State) off, s.host.recovery = true →
    (off < 2 ^ 23 → s.bar2Read off = s.host.staging.getD off 0#8) ∧ (2 ^ 23 ≤ off → s.bar2Read off = 0#8))

/-- The command processor (R364 to R366, 11 R277): an entry that breaks a rule stops the queue with its code; NOOP goes on; LAUNCH enqueues
the record at TILE when its handles are free and the queue accepts it; a launch ends when its counter has reached COUNT; SIGNAL raises an
event once the launches have ended; WAIT goes on once the event has its value. The model's choices: any CMD step stops the queue at a bad
entry, a launch joins the ready queue as paid, in kernel mode with an acquire at system scope, and its end performs the space's accesses
(log entry 18); the counts of a space's messages begin anew at a launch that finds it quiet (log entry 35). -/
def Obligations.CommandResults : Prop :=
  (∀ i ∈ [Instr.cmdNoop, Instr.cmdLaunch, Instr.cmdSignal, Instr.cmdWait], ∀ s : State,
    (s.hasEntry s.sel.k = false → exec i s = .next s) ∧
    (s.hasEntry s.sel.k = true → s.flaws = [] → s.entryErr s.sel.k ≠ 0 → exec i s = .next (s.setQueue s.sel.k
      { s.queue s.sel.k with stop := true, err := BitVec.ofNat 8 (s.entryErr s.sel.k) }))) ∧
  (∀ s : State, s.hasEntry s.sel.k = true → s.flaws = [] → s.entryErr s.sel.k = 0 → s.entryN s.sel.k 0 1 = 0 →
    exec .cmdNoop s = .next (s.setQueue s.sel.k { s.queue s.sel.k with rptr := (s.queue s.sel.k).rptr + 1#32 })) ∧
  (∀ (s y x : State) q t pa c sc l, q = s.sel.k → s.hasEntry q = true → s.flaws = [] → s.entryErr q = 0 → s.entryN q 0 1 = 1 → t = s.entryN q 2 2 →
    (∀ r ∈ (s.queue q).runs, r.blocks (s.entryHandles q) = false) →
    s.walkAccess t (s.queue q).qasid false .read (s.entryN q 8 8) 64 = .mem pa c sc → (s.tile t).accepts = true → s.clocked t = true →
    l = ⟨BitVec.ofNat 12 t, BitVec.ofNat 10 (s.entryN q 4 2), BitVec.ofNat 32 (s.entryN q 0x14 4), s.entryHandles q⟩ →
    y = s.launchSpace (s.queue q).qasid →
    x = y.setTile t { y.tile t with rq := (y.tile t).rq ++ [spawnEntry (rdRecord s.mem pa) true 6] } →
    exec .cmdLaunch s = .next ((x.setQueue q { x.queue q with runs := (x.queue q).runs ++ [l] }).nextEntry q)) ∧
  (∀ (s y : State) a, y = s.launchSpace a → (s.quietSpace a = false → y = s) ∧
    (s.quietSpace a = true → y.mem = s.mem ∧ (∀ c n, y.ctxAt c n = s.ctxAt c n) ∧
      (∀ c, mget (y.cell c).sent a.toNat 0#64 = 0#64 ∧ ∀ k, k ≠ a.toNat → mget (y.cell c).sent k 0#64 = mget (s.cell c).sent k 0#64) ∧
      (∀ t, mget (y.tile t).recv a.toNat 0#64 = 0#64 ∧ mget (y.tile t).rlast a.toNat [] = [] ∧ (y.tile t).rq = (s.tile t).rq))) ∧
  (∀ (s x : State) l, (s.queue s.sel.k).runs.find? s.launchDone = some l → x = s.flushSpace (s.asidOf l.tile.toNat) →
    exec .launchEnd s = .next (x.setQueue s.sel.k { x.queue s.sel.k with runs := (x.queue s.sel.k).runs.erase l })) ∧
  (∀ (s : State) q e, q = s.sel.k → s.hasEntry q = true → s.flaws = [] → s.entryErr q = 0 → s.entryN q 0 1 = 2 → (s.queue q).runs = [] →
    e = s.entryN q 0x10 4 → ∃ t, exec .cmdSignal s = .next t ∧ t.mem = s.mem ∧
      mget t.host.events e 0#32 = BitVec.ofNat 32 (max (mget s.host.events e 0#32).toNat (s.entryN q 0x14 4)) ∧
      (∀ k, k ≠ e → mget t.host.events k 0#32 = mget s.host.events k 0#32) ∧ (t.queue q).rptr = (s.queue q).rptr + 1#32) ∧
  (∀ (s : State) q, q = s.sel.k → s.hasEntry q = true → s.flaws = [] → s.entryErr q = 0 → s.entryN q 0 1 = 3 →
    (s.entryN q 0x14 4 ≤ (mget s.host.events (s.entryN q 0x10 4) 0#32).toNat →
      exec .cmdWait s = .next (s.setQueue q { s.queue q with rptr := (s.queue q).rptr + 1#32 })) ∧
    ((mget s.host.events (s.entryN q 0x10 4) 0#32).toNat < s.entryN q 0x14 4 → exec .cmdWait s = .next s))

/-- Module events (01 R16, 15 R367 to R371, 10 R242, R257): reset starts a verified firmware in firmware mode, or recovery mode with no
context; RECOVERY_GO takes a staged image that verifies into flash, then resets; without power every step but a reset faults; the report is
signed; links resend; modules come back; the pool's invalidation changes what later accesses read; requests of other modules act on HBM. The
model's choices: memory after a reset lists nothing (log entry 1); the firmware's entry is a free even address (log entry 3); what a power
loss stops and which image a cut flash write leaves, and that a RECOVERY_GO whose image fails resets too (log entry 18); the answers to
other modules are in `fab.answers` (log entry 33); received messages are counted for each address space (log entry 35). The branch of an
image that verifies has no witness: the signature scheme is Config's, without a body. -/
def Obligations.ModuleEvents : Prop :=
  (∀ s : State, (imageVerifies s.host.flash s.host.fuses = true → ∃ t, exec .moduleReset s = .next t ∧ t.mem = [] ∧ t.cycle = 0#64 ∧
      t.power = true ∧ t.host.recovery = false ∧ t.host.flash = s.host.flash ∧ s.host.fuses ≤ t.host.fuses ∧
      (t.ctxAt 40960 0).live = true ∧ (t.ctxAt 40960 0).mode = 2#2 ∧ (t.ctxAt 40960 0).pc = Config.firmwareEntry &&& ~~~1#64) ∧
    (imageVerifies s.host.flash s.host.fuses = false → ∃ t, exec .moduleReset s = .next t ∧ t.mem = [] ∧ t.power = true ∧
      t.host.recovery = true ∧ t.host.flash = s.host.flash ∧ t.host.fuses = s.host.fuses ∧ ∀ c n, (t.ctxAt c n).live = false)) ∧
  (∀ s : State, (s.host.recovery = false → exec .recoveryGo s = .next s) ∧
    (s.host.recovery = true → imageVerifies s.host.staging s.host.fuses = true → ∃ t, exec .recoveryGo s = .next t ∧
      t.host.flash = s.host.staging.take (256 + imgLength s.host.staging) ∧
      exec .moduleReset { s with host := { s.host with flash := s.host.staging.take (256 + imgLength s.host.staging) } } = .next t) ∧
    (s.host.recovery = true → imageVerifies s.host.staging s.host.fuses = false → ∃ t, exec .recoveryGo s = .next t ∧
      t.host.flash = s.host.flash ∧ exec .moduleReset s = .next t)) ∧
  (∀ (s : State) b, ∃ t, exec (.powerLoss b) s = .next t ∧ t.power = false ∧ (s.host.recovery = false → t = { s with power := false })) ∧
  (∀ s : State, s.power = false → (∀ k, s.nextTurn.1 ≠ .event .moduleReset k) → step s = .fault .noPower) ∧
  (∀ (s : State) k ts, s.agenda = .event .moduleReset k :: ts → ∃ t, step s = .next t ∧ t.power = true ∧ t.cycle = 0#64) ∧
  (∀ (s : State) n, s.host.signing = some n → ∃ t, exec .attestationReportReady s = .next t ∧ t.host.signing = none ∧
    t.host.report.take 176 = s.reportHead n ∧ t.host.report.length = 290 ∧ t.mem = s.mem ∧ t.cells = s.cells) ∧
  (∀ (s : State) link lost, link.toNat < 48 → link ∉ s.fab.downs → ∃ t, exec (.linkCrcResend link false lost) s = .next t ∧
    t.fab.resends = s.fab.resends + 1 ∧ t.fab.downs = s.fab.downs ∧ t.mem = s.mem ∧ t.cells = s.cells) ∧
  (∀ (s : State) m, ∃ t, exec (.moduleBecomesReachable m) s = .next t ∧ m ∉ t.fab.lost ∧ (∀ k, k ≠ m → (k ∈ t.fab.lost ↔ k ∈ s.fab.lost)) ∧
    t.mem = s.mem ∧ t.cells = s.cells) ∧
  (∀ (s : State) (line : BitVec 50) (bytes : BitVec 512), MemInv s → ∃ t, exec (.poolBackInvalidate line bytes) s = .next t ∧
    rdBytes t.mem (2 ^ 56 + 64 * line.toNat) 64 = leBytes 64 bytes.toNat ∧
    (∀ a, a < 2 ^ 56 + 64 * line.toNat ∨ 2 ^ 56 + 64 * line.toNat + 64 ≤ a → rd8 t.mem a = rd8 s.mem a) ∧ t.tiles = s.tiles) ∧
  (∀ (s : State) (pa : BitVec 46) n, pa.toNat + n ≤ 2 ^ 40 → s.poison = [] → s.flaws = [] →
    exec (.remoteRequestArrival (.load pa n)) s = .next { s with fab := { s.fab with
      answers := s.fab.answers ++ [.data (rdBytes s.mem pa.toNat n)] } }) ∧
  (∀ (s : State) (pa : BitVec 46) bytes, pa.toNat + bytes.length ≤ 2 ^ 40 → MemInv s → s.flaws = [] →
    ∃ t, exec (.remoteRequestArrival (.store pa bytes)) s = .next t ∧ rdBytes t.mem pa.toNat bytes.length = bytes ∧
      (∀ a, a < pa.toNat ∨ pa.toNat + bytes.length ≤ a → rd8 t.mem a = rd8 s.mem a) ∧ t.fab.answers = s.fab.answers ++ [.data []]) ∧
  (∀ (s : State) (pa : BitVec 46) x y, pa.toNat % 8 = 0 → pa.toNat + 8 ≤ 2 ^ 40 → s.poison = [] → s.flaws = [] →
    ∃ t, exec (.remoteRequestArrival (.atomic 0#4 true pa x y)) s = .next t ∧
      t.mem = (s.putN numTiles pa.toNat 8 ((rdN s.mem pa.toNat 8 + x.toNat) % 2 ^ 64)).mem ∧
      t.fab.answers = s.fab.answers ++ [.data (leBytes 8 (rdN s.mem pa.toNat 8))]) ∧
  (∀ (s : State) (t : BitVec 12) (off : BitVec 20) (ctr : BitVec 10) ws (tag cell : BitVec 16) seq, t.toNat < 2560 → s.clocked t.toNat = true →
    (s.tile t.toNat).ingress = none → (s.asidOf t.toNat).toNat = s.spaceOf true tag → s.loggedFor t.toNat (s.spaceOf true tag) = [] →
    exec (.remoteRequestArrival (.message t off ctr ws tag cell seq)) s = .next (((s.setTile t.toNat ((s.tile t.toNat).received cell.toNat
      seq)).write t.toNat (wbytes (scratchKey t.toNat off.toNat) (ws.flatMap fun w => leBytes 8 w.toNat))).bump t.toNat ctr.toNat 1#32 5
        0#32 0#32))
end

