-- ==== Sys2Proof/Laws/State.lean ====
section
/-! SUPPORT. Sys2Proof/Laws/State.lean: for each update of State, every field that it leaves as it was, true by definition. -/

namespace Sys2Proof.Machine

variable (s : State)

@[simp] theorem State.setCell_mem (c : Nat) (x : Cell) : (s.setCell c x).mem = s.mem := rfl
@[simp] theorem State.setCell_cycle (c : Nat) (x : Cell) : (s.setCell c x).cycle = s.cycle := rfl
@[simp] theorem State.setCell_power (c : Nat) (x : Cell) : (s.setCell c x).power = s.power := rfl
@[simp] theorem State.setCell_quarts (c : Nat) (x : Cell) : (s.setCell c x).quarts = s.quarts := rfl
@[simp] theorem State.setCell_tiles (c : Nat) (x : Cell) : (s.setCell c x).tiles = s.tiles := rfl
@[simp] theorem State.setCell_mtus (c : Nat) (x : Cell) : (s.setCell c x).mtus = s.mtus := rfl
@[simp] theorem State.setCell_descs (c : Nat) (x : Cell) : (s.setCell c x).descs = s.descs := rfl
@[simp] theorem State.setCell_auts (c : Nat) (x : Cell) : (s.setCell c x).auts = s.auts := rfl
@[simp] theorem State.setCell_groups (c : Nat) (x : Cell) : (s.setCell c x).groups = s.groups := rfl
@[simp] theorem State.setCell_insts (c : Nat) (x : Cell) : (s.setCell c x).insts = s.insts := rfl
@[simp] theorem State.setCell_chord (c : Nat) (x : Cell) : (s.setCell c x).chord = s.chord := rfl
@[simp] theorem State.setCell_parked (c : Nat) (x : Cell) : (s.setCell c x).parked = s.parked := rfl
@[simp] theorem State.setCell_away (c : Nat) (x : Cell) : (s.setCell c x).away = s.away := rfl
@[simp] theorem State.setCell_vault (c : Nat) (x : Cell) : (s.setCell c x).vault = s.vault := rfl
@[simp] theorem State.setCell_mlogs (c : Nat) (x : Cell) : (s.setCell c x).mlogs = s.mlogs := rfl
@[simp] theorem State.setCell_ftags (c : Nat) (x : Cell) : (s.setCell c x).ftags = s.ftags := rfl
@[simp] theorem State.setCell_asBase (c : Nat) (x : Cell) : (s.setCell c x).asBase = s.asBase := rfl
@[simp] theorem State.setCell_poison (c : Nat) (x : Cell) : (s.setCell c x).poison = s.poison := rfl
@[simp] theorem State.setCell_flaws (c : Nat) (x : Cell) : (s.setCell c x).flaws = s.flaws := rfl
@[simp] theorem State.setCell_touched (c : Nat) (x : Cell) : (s.setCell c x).touched = s.touched := rfl
@[simp] theorem State.setCell_spilt (c : Nat) (x : Cell) : (s.setCell c x).spilt = s.spilt := rfl
@[simp] theorem State.setCell_host (c : Nat) (x : Cell) : (s.setCell c x).host = s.host := rfl
@[simp] theorem State.setCell_fab (c : Nat) (x : Cell) : (s.setCell c x).fab = s.fab := rfl
@[simp] theorem State.setCell_sel (c : Nat) (x : Cell) : (s.setCell c x).sel = s.sel := rfl
@[simp] theorem State.setCell_agenda (c : Nat) (x : Cell) : (s.setCell c x).agenda = s.agenda := rfl
@[simp] theorem State.setCell_tick (c : Nat) (x : Cell) : (s.setCell c x).tick = s.tick := rfl

@[simp] theorem State.setTile_mem (t : Nat) (x : Tile) : (s.setTile t x).mem = s.mem := rfl
@[simp] theorem State.setTile_cycle (t : Nat) (x : Tile) : (s.setTile t x).cycle = s.cycle := rfl
@[simp] theorem State.setTile_power (t : Nat) (x : Tile) : (s.setTile t x).power = s.power := rfl
@[simp] theorem State.setTile_cells (t : Nat) (x : Tile) : (s.setTile t x).cells = s.cells := rfl
@[simp] theorem State.setTile_quarts (t : Nat) (x : Tile) : (s.setTile t x).quarts = s.quarts := rfl
@[simp] theorem State.setTile_mtus (t : Nat) (x : Tile) : (s.setTile t x).mtus = s.mtus := rfl
@[simp] theorem State.setTile_descs (t : Nat) (x : Tile) : (s.setTile t x).descs = s.descs := rfl
@[simp] theorem State.setTile_auts (t : Nat) (x : Tile) : (s.setTile t x).auts = s.auts := rfl
@[simp] theorem State.setTile_groups (t : Nat) (x : Tile) : (s.setTile t x).groups = s.groups := rfl
@[simp] theorem State.setTile_insts (t : Nat) (x : Tile) : (s.setTile t x).insts = s.insts := rfl
@[simp] theorem State.setTile_chord (t : Nat) (x : Tile) : (s.setTile t x).chord = s.chord := rfl
@[simp] theorem State.setTile_parked (t : Nat) (x : Tile) : (s.setTile t x).parked = s.parked := rfl
@[simp] theorem State.setTile_away (t : Nat) (x : Tile) : (s.setTile t x).away = s.away := rfl
@[simp] theorem State.setTile_vault (t : Nat) (x : Tile) : (s.setTile t x).vault = s.vault := rfl
@[simp] theorem State.setTile_mlogs (t : Nat) (x : Tile) : (s.setTile t x).mlogs = s.mlogs := rfl
@[simp] theorem State.setTile_ftags (t : Nat) (x : Tile) : (s.setTile t x).ftags = s.ftags := rfl
@[simp] theorem State.setTile_asBase (t : Nat) (x : Tile) : (s.setTile t x).asBase = s.asBase := rfl
@[simp] theorem State.setTile_poison (t : Nat) (x : Tile) : (s.setTile t x).poison = s.poison := rfl
@[simp] theorem State.setTile_flaws (t : Nat) (x : Tile) : (s.setTile t x).flaws = s.flaws := rfl
@[simp] theorem State.setTile_touched (t : Nat) (x : Tile) : (s.setTile t x).touched = s.touched := rfl
@[simp] theorem State.setTile_spilt (t : Nat) (x : Tile) : (s.setTile t x).spilt = s.spilt := rfl
@[simp] theorem State.setTile_host (t : Nat) (x : Tile) : (s.setTile t x).host = s.host := rfl
@[simp] theorem State.setTile_fab (t : Nat) (x : Tile) : (s.setTile t x).fab = s.fab := rfl
@[simp] theorem State.setTile_sel (t : Nat) (x : Tile) : (s.setTile t x).sel = s.sel := rfl
@[simp] theorem State.setTile_agenda (t : Nat) (x : Tile) : (s.setTile t x).agenda = s.agenda := rfl
@[simp] theorem State.setTile_tick (t : Nat) (x : Tile) : (s.setTile t x).tick = s.tick := rfl

@[simp] theorem State.setQuart_mem (q : Nat) (x : Quartet) : (s.setQuart q x).mem = s.mem := rfl
@[simp] theorem State.setQuart_cycle (q : Nat) (x : Quartet) : (s.setQuart q x).cycle = s.cycle := rfl
@[simp] theorem State.setQuart_power (q : Nat) (x : Quartet) : (s.setQuart q x).power = s.power := rfl
@[simp] theorem State.setQuart_cells (q : Nat) (x : Quartet) : (s.setQuart q x).cells = s.cells := rfl
@[simp] theorem State.setQuart_tiles (q : Nat) (x : Quartet) : (s.setQuart q x).tiles = s.tiles := rfl
@[simp] theorem State.setQuart_mtus (q : Nat) (x : Quartet) : (s.setQuart q x).mtus = s.mtus := rfl
@[simp] theorem State.setQuart_descs (q : Nat) (x : Quartet) : (s.setQuart q x).descs = s.descs := rfl
@[simp] theorem State.setQuart_auts (q : Nat) (x : Quartet) : (s.setQuart q x).auts = s.auts := rfl
@[simp] theorem State.setQuart_groups (q : Nat) (x : Quartet) : (s.setQuart q x).groups = s.groups := rfl
@[simp] theorem State.setQuart_insts (q : Nat) (x : Quartet) : (s.setQuart q x).insts = s.insts := rfl
@[simp] theorem State.setQuart_chord (q : Nat) (x : Quartet) : (s.setQuart q x).chord = s.chord := rfl
@[simp] theorem State.setQuart_parked (q : Nat) (x : Quartet) : (s.setQuart q x).parked = s.parked := rfl
@[simp] theorem State.setQuart_away (q : Nat) (x : Quartet) : (s.setQuart q x).away = s.away := rfl
@[simp] theorem State.setQuart_vault (q : Nat) (x : Quartet) : (s.setQuart q x).vault = s.vault := rfl
@[simp] theorem State.setQuart_mlogs (q : Nat) (x : Quartet) : (s.setQuart q x).mlogs = s.mlogs := rfl
@[simp] theorem State.setQuart_ftags (q : Nat) (x : Quartet) : (s.setQuart q x).ftags = s.ftags := rfl
@[simp] theorem State.setQuart_asBase (q : Nat) (x : Quartet) : (s.setQuart q x).asBase = s.asBase := rfl
@[simp] theorem State.setQuart_poison (q : Nat) (x : Quartet) : (s.setQuart q x).poison = s.poison := rfl
@[simp] theorem State.setQuart_flaws (q : Nat) (x : Quartet) : (s.setQuart q x).flaws = s.flaws := rfl
@[simp] theorem State.setQuart_touched (q : Nat) (x : Quartet) : (s.setQuart q x).touched = s.touched := rfl
@[simp] theorem State.setQuart_spilt (q : Nat) (x : Quartet) : (s.setQuart q x).spilt = s.spilt := rfl
@[simp] theorem State.setQuart_host (q : Nat) (x : Quartet) : (s.setQuart q x).host = s.host := rfl
@[simp] theorem State.setQuart_fab (q : Nat) (x : Quartet) : (s.setQuart q x).fab = s.fab := rfl
@[simp] theorem State.setQuart_sel (q : Nat) (x : Quartet) : (s.setQuart q x).sel = s.sel := rfl
@[simp] theorem State.setQuart_agenda (q : Nat) (x : Quartet) : (s.setQuart q x).agenda = s.agenda := rfl
@[simp] theorem State.setQuart_tick (q : Nat) (x : Quartet) : (s.setQuart q x).tick = s.tick := rfl

@[simp] theorem State.setMtu_mem (n : Nat) (x : Mtu) : (s.setMtu n x).mem = s.mem := rfl
@[simp] theorem State.setMtu_cycle (n : Nat) (x : Mtu) : (s.setMtu n x).cycle = s.cycle := rfl
@[simp] theorem State.setMtu_power (n : Nat) (x : Mtu) : (s.setMtu n x).power = s.power := rfl
@[simp] theorem State.setMtu_cells (n : Nat) (x : Mtu) : (s.setMtu n x).cells = s.cells := rfl
@[simp] theorem State.setMtu_quarts (n : Nat) (x : Mtu) : (s.setMtu n x).quarts = s.quarts := rfl
@[simp] theorem State.setMtu_tiles (n : Nat) (x : Mtu) : (s.setMtu n x).tiles = s.tiles := rfl
@[simp] theorem State.setMtu_descs (n : Nat) (x : Mtu) : (s.setMtu n x).descs = s.descs := rfl
@[simp] theorem State.setMtu_auts (n : Nat) (x : Mtu) : (s.setMtu n x).auts = s.auts := rfl
@[simp] theorem State.setMtu_groups (n : Nat) (x : Mtu) : (s.setMtu n x).groups = s.groups := rfl
@[simp] theorem State.setMtu_insts (n : Nat) (x : Mtu) : (s.setMtu n x).insts = s.insts := rfl
@[simp] theorem State.setMtu_chord (n : Nat) (x : Mtu) : (s.setMtu n x).chord = s.chord := rfl
@[simp] theorem State.setMtu_parked (n : Nat) (x : Mtu) : (s.setMtu n x).parked = s.parked := rfl
@[simp] theorem State.setMtu_away (n : Nat) (x : Mtu) : (s.setMtu n x).away = s.away := rfl
@[simp] theorem State.setMtu_vault (n : Nat) (x : Mtu) : (s.setMtu n x).vault = s.vault := rfl
@[simp] theorem State.setMtu_mlogs (n : Nat) (x : Mtu) : (s.setMtu n x).mlogs = s.mlogs := rfl
@[simp] theorem State.setMtu_ftags (n : Nat) (x : Mtu) : (s.setMtu n x).ftags = s.ftags := rfl
@[simp] theorem State.setMtu_asBase (n : Nat) (x : Mtu) : (s.setMtu n x).asBase = s.asBase := rfl
@[simp] theorem State.setMtu_poison (n : Nat) (x : Mtu) : (s.setMtu n x).poison = s.poison := rfl
@[simp] theorem State.setMtu_flaws (n : Nat) (x : Mtu) : (s.setMtu n x).flaws = s.flaws := rfl
@[simp] theorem State.setMtu_touched (n : Nat) (x : Mtu) : (s.setMtu n x).touched = s.touched := rfl
@[simp] theorem State.setMtu_spilt (n : Nat) (x : Mtu) : (s.setMtu n x).spilt = s.spilt := rfl
@[simp] theorem State.setMtu_host (n : Nat) (x : Mtu) : (s.setMtu n x).host = s.host := rfl
@[simp] theorem State.setMtu_fab (n : Nat) (x : Mtu) : (s.setMtu n x).fab = s.fab := rfl
@[simp] theorem State.setMtu_sel (n : Nat) (x : Mtu) : (s.setMtu n x).sel = s.sel := rfl
@[simp] theorem State.setMtu_agenda (n : Nat) (x : Mtu) : (s.setMtu n x).agenda = s.agenda := rfl
@[simp] theorem State.setMtu_tick (n : Nat) (x : Mtu) : (s.setMtu n x).tick = s.tick := rfl

@[simp] theorem State.setCtxAt_mem (c n : Nat) (x : Ctx) : (s.setCtxAt c n x).mem = s.mem := rfl
@[simp] theorem State.setCtxAt_cycle (c n : Nat) (x : Ctx) : (s.setCtxAt c n x).cycle = s.cycle := rfl
@[simp] theorem State.setCtxAt_power (c n : Nat) (x : Ctx) : (s.setCtxAt c n x).power = s.power := rfl
@[simp] theorem State.setCtxAt_quarts (c n : Nat) (x : Ctx) : (s.setCtxAt c n x).quarts = s.quarts := rfl
@[simp] theorem State.setCtxAt_tiles (c n : Nat) (x : Ctx) : (s.setCtxAt c n x).tiles = s.tiles := rfl
@[simp] theorem State.setCtxAt_mtus (c n : Nat) (x : Ctx) : (s.setCtxAt c n x).mtus = s.mtus := rfl
@[simp] theorem State.setCtxAt_descs (c n : Nat) (x : Ctx) : (s.setCtxAt c n x).descs = s.descs := rfl
@[simp] theorem State.setCtxAt_auts (c n : Nat) (x : Ctx) : (s.setCtxAt c n x).auts = s.auts := rfl
@[simp] theorem State.setCtxAt_groups (c n : Nat) (x : Ctx) : (s.setCtxAt c n x).groups = s.groups := rfl
@[simp] theorem State.setCtxAt_insts (c n : Nat) (x : Ctx) : (s.setCtxAt c n x).insts = s.insts := rfl
@[simp] theorem State.setCtxAt_chord (c n : Nat) (x : Ctx) : (s.setCtxAt c n x).chord = s.chord := rfl
@[simp] theorem State.setCtxAt_parked (c n : Nat) (x : Ctx) : (s.setCtxAt c n x).parked = s.parked := rfl
@[simp] theorem State.setCtxAt_away (c n : Nat) (x : Ctx) : (s.setCtxAt c n x).away = s.away := rfl
@[simp] theorem State.setCtxAt_vault (c n : Nat) (x : Ctx) : (s.setCtxAt c n x).vault = s.vault := rfl
@[simp] theorem State.setCtxAt_mlogs (c n : Nat) (x : Ctx) : (s.setCtxAt c n x).mlogs = s.mlogs := rfl
@[simp] theorem State.setCtxAt_ftags (c n : Nat) (x : Ctx) : (s.setCtxAt c n x).ftags = s.ftags := rfl
@[simp] theorem State.setCtxAt_asBase (c n : Nat) (x : Ctx) : (s.setCtxAt c n x).asBase = s.asBase := rfl
@[simp] theorem State.setCtxAt_poison (c n : Nat) (x : Ctx) : (s.setCtxAt c n x).poison = s.poison := rfl
@[simp] theorem State.setCtxAt_flaws (c n : Nat) (x : Ctx) : (s.setCtxAt c n x).flaws = s.flaws := rfl
@[simp] theorem State.setCtxAt_touched (c n : Nat) (x : Ctx) : (s.setCtxAt c n x).touched = s.touched := rfl
@[simp] theorem State.setCtxAt_spilt (c n : Nat) (x : Ctx) : (s.setCtxAt c n x).spilt = s.spilt := rfl
@[simp] theorem State.setCtxAt_host (c n : Nat) (x : Ctx) : (s.setCtxAt c n x).host = s.host := rfl
@[simp] theorem State.setCtxAt_fab (c n : Nat) (x : Ctx) : (s.setCtxAt c n x).fab = s.fab := rfl
@[simp] theorem State.setCtxAt_sel (c n : Nat) (x : Ctx) : (s.setCtxAt c n x).sel = s.sel := rfl
@[simp] theorem State.setCtxAt_agenda (c n : Nat) (x : Ctx) : (s.setCtxAt c n x).agenda = s.agenda := rfl
@[simp] theorem State.setCtxAt_tick (c n : Nat) (x : Ctx) : (s.setCtxAt c n x).tick = s.tick := rfl

@[simp] theorem State.setMyCell_mem (x : Cell) : (s.setMyCell x).mem = s.mem := rfl
@[simp] theorem State.setMyCell_cycle (x : Cell) : (s.setMyCell x).cycle = s.cycle := rfl
@[simp] theorem State.setMyCell_power (x : Cell) : (s.setMyCell x).power = s.power := rfl
@[simp] theorem State.setMyCell_quarts (x : Cell) : (s.setMyCell x).quarts = s.quarts := rfl
@[simp] theorem State.setMyCell_tiles (x : Cell) : (s.setMyCell x).tiles = s.tiles := rfl
@[simp] theorem State.setMyCell_mtus (x : Cell) : (s.setMyCell x).mtus = s.mtus := rfl
@[simp] theorem State.setMyCell_descs (x : Cell) : (s.setMyCell x).descs = s.descs := rfl
@[simp] theorem State.setMyCell_auts (x : Cell) : (s.setMyCell x).auts = s.auts := rfl
@[simp] theorem State.setMyCell_groups (x : Cell) : (s.setMyCell x).groups = s.groups := rfl
@[simp] theorem State.setMyCell_insts (x : Cell) : (s.setMyCell x).insts = s.insts := rfl
@[simp] theorem State.setMyCell_chord (x : Cell) : (s.setMyCell x).chord = s.chord := rfl
@[simp] theorem State.setMyCell_parked (x : Cell) : (s.setMyCell x).parked = s.parked := rfl
@[simp] theorem State.setMyCell_away (x : Cell) : (s.setMyCell x).away = s.away := rfl
@[simp] theorem State.setMyCell_vault (x : Cell) : (s.setMyCell x).vault = s.vault := rfl
@[simp] theorem State.setMyCell_mlogs (x : Cell) : (s.setMyCell x).mlogs = s.mlogs := rfl
@[simp] theorem State.setMyCell_ftags (x : Cell) : (s.setMyCell x).ftags = s.ftags := rfl
@[simp] theorem State.setMyCell_asBase (x : Cell) : (s.setMyCell x).asBase = s.asBase := rfl
@[simp] theorem State.setMyCell_poison (x : Cell) : (s.setMyCell x).poison = s.poison := rfl
@[simp] theorem State.setMyCell_flaws (x : Cell) : (s.setMyCell x).flaws = s.flaws := rfl
@[simp] theorem State.setMyCell_touched (x : Cell) : (s.setMyCell x).touched = s.touched := rfl
@[simp] theorem State.setMyCell_spilt (x : Cell) : (s.setMyCell x).spilt = s.spilt := rfl
@[simp] theorem State.setMyCell_host (x : Cell) : (s.setMyCell x).host = s.host := rfl
@[simp] theorem State.setMyCell_fab (x : Cell) : (s.setMyCell x).fab = s.fab := rfl
@[simp] theorem State.setMyCell_sel (x : Cell) : (s.setMyCell x).sel = s.sel := rfl
@[simp] theorem State.setMyCell_agenda (x : Cell) : (s.setMyCell x).agenda = s.agenda := rfl
@[simp] theorem State.setMyCell_tick (x : Cell) : (s.setMyCell x).tick = s.tick := rfl

@[simp] theorem State.setMyTile_mem (x : Tile) : (s.setMyTile x).mem = s.mem := rfl
@[simp] theorem State.setMyTile_cycle (x : Tile) : (s.setMyTile x).cycle = s.cycle := rfl
@[simp] theorem State.setMyTile_power (x : Tile) : (s.setMyTile x).power = s.power := rfl
@[simp] theorem State.setMyTile_cells (x : Tile) : (s.setMyTile x).cells = s.cells := rfl
@[simp] theorem State.setMyTile_quarts (x : Tile) : (s.setMyTile x).quarts = s.quarts := rfl
@[simp] theorem State.setMyTile_mtus (x : Tile) : (s.setMyTile x).mtus = s.mtus := rfl
@[simp] theorem State.setMyTile_descs (x : Tile) : (s.setMyTile x).descs = s.descs := rfl
@[simp] theorem State.setMyTile_auts (x : Tile) : (s.setMyTile x).auts = s.auts := rfl
@[simp] theorem State.setMyTile_groups (x : Tile) : (s.setMyTile x).groups = s.groups := rfl
@[simp] theorem State.setMyTile_insts (x : Tile) : (s.setMyTile x).insts = s.insts := rfl
@[simp] theorem State.setMyTile_chord (x : Tile) : (s.setMyTile x).chord = s.chord := rfl
@[simp] theorem State.setMyTile_parked (x : Tile) : (s.setMyTile x).parked = s.parked := rfl
@[simp] theorem State.setMyTile_away (x : Tile) : (s.setMyTile x).away = s.away := rfl
@[simp] theorem State.setMyTile_vault (x : Tile) : (s.setMyTile x).vault = s.vault := rfl
@[simp] theorem State.setMyTile_mlogs (x : Tile) : (s.setMyTile x).mlogs = s.mlogs := rfl
@[simp] theorem State.setMyTile_ftags (x : Tile) : (s.setMyTile x).ftags = s.ftags := rfl
@[simp] theorem State.setMyTile_asBase (x : Tile) : (s.setMyTile x).asBase = s.asBase := rfl
@[simp] theorem State.setMyTile_poison (x : Tile) : (s.setMyTile x).poison = s.poison := rfl
@[simp] theorem State.setMyTile_flaws (x : Tile) : (s.setMyTile x).flaws = s.flaws := rfl
@[simp] theorem State.setMyTile_touched (x : Tile) : (s.setMyTile x).touched = s.touched := rfl
@[simp] theorem State.setMyTile_spilt (x : Tile) : (s.setMyTile x).spilt = s.spilt := rfl
@[simp] theorem State.setMyTile_host (x : Tile) : (s.setMyTile x).host = s.host := rfl
@[simp] theorem State.setMyTile_fab (x : Tile) : (s.setMyTile x).fab = s.fab := rfl
@[simp] theorem State.setMyTile_sel (x : Tile) : (s.setMyTile x).sel = s.sel := rfl
@[simp] theorem State.setMyTile_agenda (x : Tile) : (s.setMyTile x).agenda = s.agenda := rfl
@[simp] theorem State.setMyTile_tick (x : Tile) : (s.setMyTile x).tick = s.tick := rfl

@[simp] theorem State.setCtx_mem (x : Ctx) : (s.setCtx x).mem = s.mem := rfl
@[simp] theorem State.setCtx_cycle (x : Ctx) : (s.setCtx x).cycle = s.cycle := rfl
@[simp] theorem State.setCtx_power (x : Ctx) : (s.setCtx x).power = s.power := rfl
@[simp] theorem State.setCtx_quarts (x : Ctx) : (s.setCtx x).quarts = s.quarts := rfl
@[simp] theorem State.setCtx_tiles (x : Ctx) : (s.setCtx x).tiles = s.tiles := rfl
@[simp] theorem State.setCtx_mtus (x : Ctx) : (s.setCtx x).mtus = s.mtus := rfl
@[simp] theorem State.setCtx_descs (x : Ctx) : (s.setCtx x).descs = s.descs := rfl
@[simp] theorem State.setCtx_auts (x : Ctx) : (s.setCtx x).auts = s.auts := rfl
@[simp] theorem State.setCtx_groups (x : Ctx) : (s.setCtx x).groups = s.groups := rfl
@[simp] theorem State.setCtx_insts (x : Ctx) : (s.setCtx x).insts = s.insts := rfl
@[simp] theorem State.setCtx_chord (x : Ctx) : (s.setCtx x).chord = s.chord := rfl
@[simp] theorem State.setCtx_parked (x : Ctx) : (s.setCtx x).parked = s.parked := rfl
@[simp] theorem State.setCtx_away (x : Ctx) : (s.setCtx x).away = s.away := rfl
@[simp] theorem State.setCtx_vault (x : Ctx) : (s.setCtx x).vault = s.vault := rfl
@[simp] theorem State.setCtx_mlogs (x : Ctx) : (s.setCtx x).mlogs = s.mlogs := rfl
@[simp] theorem State.setCtx_ftags (x : Ctx) : (s.setCtx x).ftags = s.ftags := rfl
@[simp] theorem State.setCtx_asBase (x : Ctx) : (s.setCtx x).asBase = s.asBase := rfl
@[simp] theorem State.setCtx_poison (x : Ctx) : (s.setCtx x).poison = s.poison := rfl
@[simp] theorem State.setCtx_flaws (x : Ctx) : (s.setCtx x).flaws = s.flaws := rfl
@[simp] theorem State.setCtx_touched (x : Ctx) : (s.setCtx x).touched = s.touched := rfl
@[simp] theorem State.setCtx_spilt (x : Ctx) : (s.setCtx x).spilt = s.spilt := rfl
@[simp] theorem State.setCtx_host (x : Ctx) : (s.setCtx x).host = s.host := rfl
@[simp] theorem State.setCtx_fab (x : Ctx) : (s.setCtx x).fab = s.fab := rfl
@[simp] theorem State.setCtx_sel (x : Ctx) : (s.setCtx x).sel = s.sel := rfl
@[simp] theorem State.setCtx_agenda (x : Ctx) : (s.setCtx x).agenda = s.agenda := rfl
@[simp] theorem State.setCtx_tick (x : Ctx) : (s.setCtx x).tick = s.tick := rfl

@[simp] theorem State.ws_mem (n : Nat) (v : Word) : (s.ws n v).mem = s.mem := rfl
@[simp] theorem State.ws_cycle (n : Nat) (v : Word) : (s.ws n v).cycle = s.cycle := rfl
@[simp] theorem State.ws_power (n : Nat) (v : Word) : (s.ws n v).power = s.power := rfl
@[simp] theorem State.ws_quarts (n : Nat) (v : Word) : (s.ws n v).quarts = s.quarts := rfl
@[simp] theorem State.ws_tiles (n : Nat) (v : Word) : (s.ws n v).tiles = s.tiles := rfl
@[simp] theorem State.ws_mtus (n : Nat) (v : Word) : (s.ws n v).mtus = s.mtus := rfl
@[simp] theorem State.ws_descs (n : Nat) (v : Word) : (s.ws n v).descs = s.descs := rfl
@[simp] theorem State.ws_auts (n : Nat) (v : Word) : (s.ws n v).auts = s.auts := rfl
@[simp] theorem State.ws_groups (n : Nat) (v : Word) : (s.ws n v).groups = s.groups := rfl
@[simp] theorem State.ws_insts (n : Nat) (v : Word) : (s.ws n v).insts = s.insts := rfl
@[simp] theorem State.ws_chord (n : Nat) (v : Word) : (s.ws n v).chord = s.chord := rfl
@[simp] theorem State.ws_parked (n : Nat) (v : Word) : (s.ws n v).parked = s.parked := rfl
@[simp] theorem State.ws_away (n : Nat) (v : Word) : (s.ws n v).away = s.away := rfl
@[simp] theorem State.ws_vault (n : Nat) (v : Word) : (s.ws n v).vault = s.vault := rfl
@[simp] theorem State.ws_mlogs (n : Nat) (v : Word) : (s.ws n v).mlogs = s.mlogs := rfl
@[simp] theorem State.ws_ftags (n : Nat) (v : Word) : (s.ws n v).ftags = s.ftags := rfl
@[simp] theorem State.ws_asBase (n : Nat) (v : Word) : (s.ws n v).asBase = s.asBase := rfl
@[simp] theorem State.ws_poison (n : Nat) (v : Word) : (s.ws n v).poison = s.poison := rfl
@[simp] theorem State.ws_flaws (n : Nat) (v : Word) : (s.ws n v).flaws = s.flaws := rfl
@[simp] theorem State.ws_touched (n : Nat) (v : Word) : (s.ws n v).touched = s.touched := rfl
@[simp] theorem State.ws_spilt (n : Nat) (v : Word) : (s.ws n v).spilt = s.spilt := rfl
@[simp] theorem State.ws_host (n : Nat) (v : Word) : (s.ws n v).host = s.host := rfl
@[simp] theorem State.ws_fab (n : Nat) (v : Word) : (s.ws n v).fab = s.fab := rfl
@[simp] theorem State.ws_sel (n : Nat) (v : Word) : (s.ws n v).sel = s.sel := rfl
@[simp] theorem State.ws_agenda (n : Nat) (v : Word) : (s.ws n v).agenda = s.agenda := rfl
@[simp] theorem State.ws_tick (n : Nat) (v : Word) : (s.ws n v).tick = s.tick := rfl

@[simp] theorem State.wv_mem (n : Nat) (x : Vector (BitVec 32) 32) : (s.wv n x).mem = s.mem := rfl
@[simp] theorem State.wv_cycle (n : Nat) (x : Vector (BitVec 32) 32) : (s.wv n x).cycle = s.cycle := rfl
@[simp] theorem State.wv_power (n : Nat) (x : Vector (BitVec 32) 32) : (s.wv n x).power = s.power := rfl
@[simp] theorem State.wv_quarts (n : Nat) (x : Vector (BitVec 32) 32) : (s.wv n x).quarts = s.quarts := rfl
@[simp] theorem State.wv_tiles (n : Nat) (x : Vector (BitVec 32) 32) : (s.wv n x).tiles = s.tiles := rfl
@[simp] theorem State.wv_mtus (n : Nat) (x : Vector (BitVec 32) 32) : (s.wv n x).mtus = s.mtus := rfl
@[simp] theorem State.wv_descs (n : Nat) (x : Vector (BitVec 32) 32) : (s.wv n x).descs = s.descs := rfl
@[simp] theorem State.wv_auts (n : Nat) (x : Vector (BitVec 32) 32) : (s.wv n x).auts = s.auts := rfl
@[simp] theorem State.wv_groups (n : Nat) (x : Vector (BitVec 32) 32) : (s.wv n x).groups = s.groups := rfl
@[simp] theorem State.wv_insts (n : Nat) (x : Vector (BitVec 32) 32) : (s.wv n x).insts = s.insts := rfl
@[simp] theorem State.wv_chord (n : Nat) (x : Vector (BitVec 32) 32) : (s.wv n x).chord = s.chord := rfl
@[simp] theorem State.wv_parked (n : Nat) (x : Vector (BitVec 32) 32) : (s.wv n x).parked = s.parked := rfl
@[simp] theorem State.wv_away (n : Nat) (x : Vector (BitVec 32) 32) : (s.wv n x).away = s.away := rfl
@[simp] theorem State.wv_vault (n : Nat) (x : Vector (BitVec 32) 32) : (s.wv n x).vault = s.vault := rfl
@[simp] theorem State.wv_mlogs (n : Nat) (x : Vector (BitVec 32) 32) : (s.wv n x).mlogs = s.mlogs := rfl
@[simp] theorem State.wv_ftags (n : Nat) (x : Vector (BitVec 32) 32) : (s.wv n x).ftags = s.ftags := rfl
@[simp] theorem State.wv_asBase (n : Nat) (x : Vector (BitVec 32) 32) : (s.wv n x).asBase = s.asBase := rfl
@[simp] theorem State.wv_poison (n : Nat) (x : Vector (BitVec 32) 32) : (s.wv n x).poison = s.poison := rfl
@[simp] theorem State.wv_flaws (n : Nat) (x : Vector (BitVec 32) 32) : (s.wv n x).flaws = s.flaws := rfl
@[simp] theorem State.wv_touched (n : Nat) (x : Vector (BitVec 32) 32) : (s.wv n x).touched = s.touched := rfl
@[simp] theorem State.wv_spilt (n : Nat) (x : Vector (BitVec 32) 32) : (s.wv n x).spilt = s.spilt := rfl
@[simp] theorem State.wv_host (n : Nat) (x : Vector (BitVec 32) 32) : (s.wv n x).host = s.host := rfl
@[simp] theorem State.wv_fab (n : Nat) (x : Vector (BitVec 32) 32) : (s.wv n x).fab = s.fab := rfl
@[simp] theorem State.wv_sel (n : Nat) (x : Vector (BitVec 32) 32) : (s.wv n x).sel = s.sel := rfl
@[simp] theorem State.wv_agenda (n : Nat) (x : Vector (BitVec 32) 32) : (s.wv n x).agenda = s.agenda := rfl
@[simp] theorem State.wv_tick (n : Nat) (x : Vector (BitVec 32) 32) : (s.wv n x).tick = s.tick := rfl

@[simp] theorem State.wg_mem (n : Nat) (x : GReg) : (s.wg n x).mem = s.mem := rfl
@[simp] theorem State.wg_cycle (n : Nat) (x : GReg) : (s.wg n x).cycle = s.cycle := rfl
@[simp] theorem State.wg_power (n : Nat) (x : GReg) : (s.wg n x).power = s.power := rfl
@[simp] theorem State.wg_quarts (n : Nat) (x : GReg) : (s.wg n x).quarts = s.quarts := rfl
@[simp] theorem State.wg_tiles (n : Nat) (x : GReg) : (s.wg n x).tiles = s.tiles := rfl
@[simp] theorem State.wg_mtus (n : Nat) (x : GReg) : (s.wg n x).mtus = s.mtus := rfl
@[simp] theorem State.wg_descs (n : Nat) (x : GReg) : (s.wg n x).descs = s.descs := rfl
@[simp] theorem State.wg_auts (n : Nat) (x : GReg) : (s.wg n x).auts = s.auts := rfl
@[simp] theorem State.wg_groups (n : Nat) (x : GReg) : (s.wg n x).groups = s.groups := rfl
@[simp] theorem State.wg_insts (n : Nat) (x : GReg) : (s.wg n x).insts = s.insts := rfl
@[simp] theorem State.wg_chord (n : Nat) (x : GReg) : (s.wg n x).chord = s.chord := rfl
@[simp] theorem State.wg_parked (n : Nat) (x : GReg) : (s.wg n x).parked = s.parked := rfl
@[simp] theorem State.wg_away (n : Nat) (x : GReg) : (s.wg n x).away = s.away := rfl
@[simp] theorem State.wg_vault (n : Nat) (x : GReg) : (s.wg n x).vault = s.vault := rfl
@[simp] theorem State.wg_mlogs (n : Nat) (x : GReg) : (s.wg n x).mlogs = s.mlogs := rfl
@[simp] theorem State.wg_ftags (n : Nat) (x : GReg) : (s.wg n x).ftags = s.ftags := rfl
@[simp] theorem State.wg_asBase (n : Nat) (x : GReg) : (s.wg n x).asBase = s.asBase := rfl
@[simp] theorem State.wg_poison (n : Nat) (x : GReg) : (s.wg n x).poison = s.poison := rfl
@[simp] theorem State.wg_flaws (n : Nat) (x : GReg) : (s.wg n x).flaws = s.flaws := rfl
@[simp] theorem State.wg_touched (n : Nat) (x : GReg) : (s.wg n x).touched = s.touched := rfl
@[simp] theorem State.wg_spilt (n : Nat) (x : GReg) : (s.wg n x).spilt = s.spilt := rfl
@[simp] theorem State.wg_host (n : Nat) (x : GReg) : (s.wg n x).host = s.host := rfl
@[simp] theorem State.wg_fab (n : Nat) (x : GReg) : (s.wg n x).fab = s.fab := rfl
@[simp] theorem State.wg_sel (n : Nat) (x : GReg) : (s.wg n x).sel = s.sel := rfl
@[simp] theorem State.wg_agenda (n : Nat) (x : GReg) : (s.wg n x).agenda = s.agenda := rfl
@[simp] theorem State.wg_tick (n : Nat) (x : GReg) : (s.wg n x).tick = s.tick := rfl

@[simp] theorem State.addPc_mem (n : Nat) : (s.addPc n).mem = s.mem := rfl
@[simp] theorem State.addPc_cycle (n : Nat) : (s.addPc n).cycle = s.cycle := rfl
@[simp] theorem State.addPc_power (n : Nat) : (s.addPc n).power = s.power := rfl
@[simp] theorem State.addPc_quarts (n : Nat) : (s.addPc n).quarts = s.quarts := rfl
@[simp] theorem State.addPc_tiles (n : Nat) : (s.addPc n).tiles = s.tiles := rfl
@[simp] theorem State.addPc_mtus (n : Nat) : (s.addPc n).mtus = s.mtus := rfl
@[simp] theorem State.addPc_descs (n : Nat) : (s.addPc n).descs = s.descs := rfl
@[simp] theorem State.addPc_auts (n : Nat) : (s.addPc n).auts = s.auts := rfl
@[simp] theorem State.addPc_groups (n : Nat) : (s.addPc n).groups = s.groups := rfl
@[simp] theorem State.addPc_insts (n : Nat) : (s.addPc n).insts = s.insts := rfl
@[simp] theorem State.addPc_chord (n : Nat) : (s.addPc n).chord = s.chord := rfl
@[simp] theorem State.addPc_parked (n : Nat) : (s.addPc n).parked = s.parked := rfl
@[simp] theorem State.addPc_away (n : Nat) : (s.addPc n).away = s.away := rfl
@[simp] theorem State.addPc_vault (n : Nat) : (s.addPc n).vault = s.vault := rfl
@[simp] theorem State.addPc_mlogs (n : Nat) : (s.addPc n).mlogs = s.mlogs := rfl
@[simp] theorem State.addPc_ftags (n : Nat) : (s.addPc n).ftags = s.ftags := rfl
@[simp] theorem State.addPc_asBase (n : Nat) : (s.addPc n).asBase = s.asBase := rfl
@[simp] theorem State.addPc_poison (n : Nat) : (s.addPc n).poison = s.poison := rfl
@[simp] theorem State.addPc_flaws (n : Nat) : (s.addPc n).flaws = s.flaws := rfl
@[simp] theorem State.addPc_touched (n : Nat) : (s.addPc n).touched = s.touched := rfl
@[simp] theorem State.addPc_spilt (n : Nat) : (s.addPc n).spilt = s.spilt := rfl
@[simp] theorem State.addPc_host (n : Nat) : (s.addPc n).host = s.host := rfl
@[simp] theorem State.addPc_fab (n : Nat) : (s.addPc n).fab = s.fab := rfl
@[simp] theorem State.addPc_sel (n : Nat) : (s.addPc n).sel = s.sel := rfl
@[simp] theorem State.addPc_agenda (n : Nat) : (s.addPc n).agenda = s.agenda := rfl
@[simp] theorem State.addPc_tick (n : Nat) : (s.addPc n).tick = s.tick := rfl

@[simp] theorem State.setPc_mem (a : Word) : (s.setPc a).mem = s.mem := rfl
@[simp] theorem State.setPc_cycle (a : Word) : (s.setPc a).cycle = s.cycle := rfl
@[simp] theorem State.setPc_power (a : Word) : (s.setPc a).power = s.power := rfl
@[simp] theorem State.setPc_quarts (a : Word) : (s.setPc a).quarts = s.quarts := rfl
@[simp] theorem State.setPc_tiles (a : Word) : (s.setPc a).tiles = s.tiles := rfl
@[simp] theorem State.setPc_mtus (a : Word) : (s.setPc a).mtus = s.mtus := rfl
@[simp] theorem State.setPc_descs (a : Word) : (s.setPc a).descs = s.descs := rfl
@[simp] theorem State.setPc_auts (a : Word) : (s.setPc a).auts = s.auts := rfl
@[simp] theorem State.setPc_groups (a : Word) : (s.setPc a).groups = s.groups := rfl
@[simp] theorem State.setPc_insts (a : Word) : (s.setPc a).insts = s.insts := rfl
@[simp] theorem State.setPc_chord (a : Word) : (s.setPc a).chord = s.chord := rfl
@[simp] theorem State.setPc_parked (a : Word) : (s.setPc a).parked = s.parked := rfl
@[simp] theorem State.setPc_away (a : Word) : (s.setPc a).away = s.away := rfl
@[simp] theorem State.setPc_vault (a : Word) : (s.setPc a).vault = s.vault := rfl
@[simp] theorem State.setPc_mlogs (a : Word) : (s.setPc a).mlogs = s.mlogs := rfl
@[simp] theorem State.setPc_ftags (a : Word) : (s.setPc a).ftags = s.ftags := rfl
@[simp] theorem State.setPc_asBase (a : Word) : (s.setPc a).asBase = s.asBase := rfl
@[simp] theorem State.setPc_poison (a : Word) : (s.setPc a).poison = s.poison := rfl
@[simp] theorem State.setPc_flaws (a : Word) : (s.setPc a).flaws = s.flaws := rfl
@[simp] theorem State.setPc_touched (a : Word) : (s.setPc a).touched = s.touched := rfl
@[simp] theorem State.setPc_spilt (a : Word) : (s.setPc a).spilt = s.spilt := rfl
@[simp] theorem State.setPc_host (a : Word) : (s.setPc a).host = s.host := rfl
@[simp] theorem State.setPc_fab (a : Word) : (s.setPc a).fab = s.fab := rfl
@[simp] theorem State.setPc_sel (a : Word) : (s.setPc a).sel = s.sel := rfl
@[simp] theorem State.setPc_agenda (a : Word) : (s.setPc a).agenda = s.agenda := rfl
@[simp] theorem State.setPc_tick (a : Word) : (s.setPc a).tick = s.tick := rfl

@[simp] theorem State.settle_mem : (s.settle).mem = s.mem := rfl
@[simp] theorem State.settle_cycle : (s.settle).cycle = s.cycle := rfl
@[simp] theorem State.settle_power : (s.settle).power = s.power := rfl
@[simp] theorem State.settle_quarts : (s.settle).quarts = s.quarts := rfl
@[simp] theorem State.settle_tiles : (s.settle).tiles = s.tiles := rfl
@[simp] theorem State.settle_mtus : (s.settle).mtus = s.mtus := rfl
@[simp] theorem State.settle_descs : (s.settle).descs = s.descs := rfl
@[simp] theorem State.settle_auts : (s.settle).auts = s.auts := rfl
@[simp] theorem State.settle_groups : (s.settle).groups = s.groups := rfl
@[simp] theorem State.settle_insts : (s.settle).insts = s.insts := rfl
@[simp] theorem State.settle_chord : (s.settle).chord = s.chord := rfl
@[simp] theorem State.settle_parked : (s.settle).parked = s.parked := rfl
@[simp] theorem State.settle_away : (s.settle).away = s.away := rfl
@[simp] theorem State.settle_vault : (s.settle).vault = s.vault := rfl
@[simp] theorem State.settle_mlogs : (s.settle).mlogs = s.mlogs := rfl
@[simp] theorem State.settle_ftags : (s.settle).ftags = s.ftags := rfl
@[simp] theorem State.settle_asBase : (s.settle).asBase = s.asBase := rfl
@[simp] theorem State.settle_poison : (s.settle).poison = s.poison := rfl
@[simp] theorem State.settle_flaws : (s.settle).flaws = s.flaws := rfl
@[simp] theorem State.settle_touched : (s.settle).touched = s.touched := rfl
@[simp] theorem State.settle_spilt : (s.settle).spilt = s.spilt := rfl
@[simp] theorem State.settle_host : (s.settle).host = s.host := rfl
@[simp] theorem State.settle_fab : (s.settle).fab = s.fab := rfl
@[simp] theorem State.settle_sel : (s.settle).sel = s.sel := rfl
@[simp] theorem State.settle_agenda : (s.settle).agenda = s.agenda := rfl
@[simp] theorem State.settle_tick : (s.settle).tick = s.tick := rfl

@[simp] theorem State.raise_mem (f : FFlags) : (s.raise f).mem = s.mem := rfl
@[simp] theorem State.raise_cycle (f : FFlags) : (s.raise f).cycle = s.cycle := rfl
@[simp] theorem State.raise_power (f : FFlags) : (s.raise f).power = s.power := rfl
@[simp] theorem State.raise_quarts (f : FFlags) : (s.raise f).quarts = s.quarts := rfl
@[simp] theorem State.raise_tiles (f : FFlags) : (s.raise f).tiles = s.tiles := rfl
@[simp] theorem State.raise_mtus (f : FFlags) : (s.raise f).mtus = s.mtus := rfl
@[simp] theorem State.raise_descs (f : FFlags) : (s.raise f).descs = s.descs := rfl
@[simp] theorem State.raise_auts (f : FFlags) : (s.raise f).auts = s.auts := rfl
@[simp] theorem State.raise_groups (f : FFlags) : (s.raise f).groups = s.groups := rfl
@[simp] theorem State.raise_insts (f : FFlags) : (s.raise f).insts = s.insts := rfl
@[simp] theorem State.raise_chord (f : FFlags) : (s.raise f).chord = s.chord := rfl
@[simp] theorem State.raise_parked (f : FFlags) : (s.raise f).parked = s.parked := rfl
@[simp] theorem State.raise_away (f : FFlags) : (s.raise f).away = s.away := rfl
@[simp] theorem State.raise_vault (f : FFlags) : (s.raise f).vault = s.vault := rfl
@[simp] theorem State.raise_mlogs (f : FFlags) : (s.raise f).mlogs = s.mlogs := rfl
@[simp] theorem State.raise_ftags (f : FFlags) : (s.raise f).ftags = s.ftags := rfl
@[simp] theorem State.raise_asBase (f : FFlags) : (s.raise f).asBase = s.asBase := rfl
@[simp] theorem State.raise_poison (f : FFlags) : (s.raise f).poison = s.poison := rfl
@[simp] theorem State.raise_flaws (f : FFlags) : (s.raise f).flaws = s.flaws := rfl
@[simp] theorem State.raise_touched (f : FFlags) : (s.raise f).touched = s.touched := rfl
@[simp] theorem State.raise_spilt (f : FFlags) : (s.raise f).spilt = s.spilt := rfl
@[simp] theorem State.raise_host (f : FFlags) : (s.raise f).host = s.host := rfl
@[simp] theorem State.raise_fab (f : FFlags) : (s.raise f).fab = s.fab := rfl
@[simp] theorem State.raise_sel (f : FFlags) : (s.raise f).sel = s.sel := rfl
@[simp] theorem State.raise_agenda (f : FFlags) : (s.raise f).agenda = s.agenda := rfl
@[simp] theorem State.raise_tick (f : FFlags) : (s.raise f).tick = s.tick := rfl

@[simp] theorem State.clock_mem : (s.clock).mem = s.mem := rfl
@[simp] theorem State.clock_power : (s.clock).power = s.power := rfl
@[simp] theorem State.clock_cells : (s.clock).cells = s.cells := rfl
@[simp] theorem State.clock_quarts : (s.clock).quarts = s.quarts := rfl
@[simp] theorem State.clock_tiles : (s.clock).tiles = s.tiles := rfl
@[simp] theorem State.clock_mtus : (s.clock).mtus = s.mtus := rfl
@[simp] theorem State.clock_descs : (s.clock).descs = s.descs := rfl
@[simp] theorem State.clock_auts : (s.clock).auts = s.auts := rfl
@[simp] theorem State.clock_groups : (s.clock).groups = s.groups := rfl
@[simp] theorem State.clock_insts : (s.clock).insts = s.insts := rfl
@[simp] theorem State.clock_chord : (s.clock).chord = s.chord := rfl
@[simp] theorem State.clock_parked : (s.clock).parked = s.parked := rfl
@[simp] theorem State.clock_away : (s.clock).away = s.away := rfl
@[simp] theorem State.clock_vault : (s.clock).vault = s.vault := rfl
@[simp] theorem State.clock_mlogs : (s.clock).mlogs = s.mlogs := rfl
@[simp] theorem State.clock_ftags : (s.clock).ftags = s.ftags := rfl
@[simp] theorem State.clock_asBase : (s.clock).asBase = s.asBase := rfl
@[simp] theorem State.clock_poison : (s.clock).poison = s.poison := rfl
@[simp] theorem State.clock_flaws : (s.clock).flaws = s.flaws := rfl
@[simp] theorem State.clock_touched : (s.clock).touched = s.touched := rfl
@[simp] theorem State.clock_spilt : (s.clock).spilt = s.spilt := rfl
@[simp] theorem State.clock_host : (s.clock).host = s.host := rfl
@[simp] theorem State.clock_fab : (s.clock).fab = s.fab := rfl
@[simp] theorem State.clock_sel : (s.clock).sel = s.sel := rfl
@[simp] theorem State.clock_agenda : (s.clock).agenda = s.agenda := rfl

@[simp] theorem State.dropLines_mem (t : Nat) (ls : List Nat) : (s.dropLines t ls).mem = s.mem := rfl
@[simp] theorem State.dropLines_cycle (t : Nat) (ls : List Nat) : (s.dropLines t ls).cycle = s.cycle := rfl
@[simp] theorem State.dropLines_power (t : Nat) (ls : List Nat) : (s.dropLines t ls).power = s.power := rfl
@[simp] theorem State.dropLines_quarts (t : Nat) (ls : List Nat) : (s.dropLines t ls).quarts = s.quarts := rfl
@[simp] theorem State.dropLines_tiles (t : Nat) (ls : List Nat) : (s.dropLines t ls).tiles = s.tiles := rfl
@[simp] theorem State.dropLines_mtus (t : Nat) (ls : List Nat) : (s.dropLines t ls).mtus = s.mtus := rfl
@[simp] theorem State.dropLines_descs (t : Nat) (ls : List Nat) : (s.dropLines t ls).descs = s.descs := rfl
@[simp] theorem State.dropLines_auts (t : Nat) (ls : List Nat) : (s.dropLines t ls).auts = s.auts := rfl
@[simp] theorem State.dropLines_groups (t : Nat) (ls : List Nat) : (s.dropLines t ls).groups = s.groups := rfl
@[simp] theorem State.dropLines_insts (t : Nat) (ls : List Nat) : (s.dropLines t ls).insts = s.insts := rfl
@[simp] theorem State.dropLines_chord (t : Nat) (ls : List Nat) : (s.dropLines t ls).chord = s.chord := rfl
@[simp] theorem State.dropLines_parked (t : Nat) (ls : List Nat) : (s.dropLines t ls).parked = s.parked := rfl
@[simp] theorem State.dropLines_away (t : Nat) (ls : List Nat) : (s.dropLines t ls).away = s.away := rfl
@[simp] theorem State.dropLines_vault (t : Nat) (ls : List Nat) : (s.dropLines t ls).vault = s.vault := rfl
@[simp] theorem State.dropLines_mlogs (t : Nat) (ls : List Nat) : (s.dropLines t ls).mlogs = s.mlogs := rfl
@[simp] theorem State.dropLines_ftags (t : Nat) (ls : List Nat) : (s.dropLines t ls).ftags = s.ftags := rfl
@[simp] theorem State.dropLines_asBase (t : Nat) (ls : List Nat) : (s.dropLines t ls).asBase = s.asBase := rfl
@[simp] theorem State.dropLines_poison (t : Nat) (ls : List Nat) : (s.dropLines t ls).poison = s.poison := rfl
@[simp] theorem State.dropLines_flaws (t : Nat) (ls : List Nat) : (s.dropLines t ls).flaws = s.flaws := rfl
@[simp] theorem State.dropLines_touched (t : Nat) (ls : List Nat) : (s.dropLines t ls).touched = s.touched := rfl
@[simp] theorem State.dropLines_spilt (t : Nat) (ls : List Nat) : (s.dropLines t ls).spilt = s.spilt := rfl
@[simp] theorem State.dropLines_host (t : Nat) (ls : List Nat) : (s.dropLines t ls).host = s.host := rfl
@[simp] theorem State.dropLines_fab (t : Nat) (ls : List Nat) : (s.dropLines t ls).fab = s.fab := rfl
@[simp] theorem State.dropLines_sel (t : Nat) (ls : List Nat) : (s.dropLines t ls).sel = s.sel := rfl
@[simp] theorem State.dropLines_agenda (t : Nat) (ls : List Nat) : (s.dropLines t ls).agenda = s.agenda := rfl
@[simp] theorem State.dropLines_tick (t : Nat) (ls : List Nat) : (s.dropLines t ls).tick = s.tick := rfl

@[simp] theorem State.perform_cycle (t : Nat) (bs : List WByte) : (s.perform t bs).cycle = s.cycle := rfl
@[simp] theorem State.perform_power (t : Nat) (bs : List WByte) : (s.perform t bs).power = s.power := rfl
@[simp] theorem State.perform_quarts (t : Nat) (bs : List WByte) : (s.perform t bs).quarts = s.quarts := rfl
@[simp] theorem State.perform_tiles (t : Nat) (bs : List WByte) : (s.perform t bs).tiles = s.tiles := rfl
@[simp] theorem State.perform_mtus (t : Nat) (bs : List WByte) : (s.perform t bs).mtus = s.mtus := rfl
@[simp] theorem State.perform_descs (t : Nat) (bs : List WByte) : (s.perform t bs).descs = s.descs := rfl
@[simp] theorem State.perform_auts (t : Nat) (bs : List WByte) : (s.perform t bs).auts = s.auts := rfl
@[simp] theorem State.perform_groups (t : Nat) (bs : List WByte) : (s.perform t bs).groups = s.groups := rfl
@[simp] theorem State.perform_insts (t : Nat) (bs : List WByte) : (s.perform t bs).insts = s.insts := rfl
@[simp] theorem State.perform_chord (t : Nat) (bs : List WByte) : (s.perform t bs).chord = s.chord := rfl
@[simp] theorem State.perform_parked (t : Nat) (bs : List WByte) : (s.perform t bs).parked = s.parked := rfl
@[simp] theorem State.perform_away (t : Nat) (bs : List WByte) : (s.perform t bs).away = s.away := rfl
@[simp] theorem State.perform_vault (t : Nat) (bs : List WByte) : (s.perform t bs).vault = s.vault := rfl
@[simp] theorem State.perform_mlogs (t : Nat) (bs : List WByte) : (s.perform t bs).mlogs = s.mlogs := rfl
@[simp] theorem State.perform_ftags (t : Nat) (bs : List WByte) : (s.perform t bs).ftags = s.ftags := rfl
@[simp] theorem State.perform_asBase (t : Nat) (bs : List WByte) : (s.perform t bs).asBase = s.asBase := rfl
@[simp] theorem State.perform_poison (t : Nat) (bs : List WByte) : (s.perform t bs).poison = s.poison := rfl
@[simp] theorem State.perform_flaws (t : Nat) (bs : List WByte) : (s.perform t bs).flaws = s.flaws := rfl
@[simp] theorem State.perform_touched (t : Nat) (bs : List WByte) : (s.perform t bs).touched = s.touched := rfl
@[simp] theorem State.perform_spilt (t : Nat) (bs : List WByte) : (s.perform t bs).spilt = s.spilt := rfl
@[simp] theorem State.perform_host (t : Nat) (bs : List WByte) : (s.perform t bs).host = s.host := rfl
@[simp] theorem State.perform_fab (t : Nat) (bs : List WByte) : (s.perform t bs).fab = s.fab := rfl
@[simp] theorem State.perform_sel (t : Nat) (bs : List WByte) : (s.perform t bs).sel = s.sel := rfl
@[simp] theorem State.perform_agenda (t : Nat) (bs : List WByte) : (s.perform t bs).agenda = s.agenda := rfl
@[simp] theorem State.perform_tick (t : Nat) (bs : List WByte) : (s.perform t bs).tick = s.tick := rfl

@[simp] theorem State.putN_cycle (t pa n x : Nat) : (s.putN t pa n x).cycle = s.cycle := rfl
@[simp] theorem State.putN_power (t pa n x : Nat) : (s.putN t pa n x).power = s.power := rfl
@[simp] theorem State.putN_quarts (t pa n x : Nat) : (s.putN t pa n x).quarts = s.quarts := rfl
@[simp] theorem State.putN_tiles (t pa n x : Nat) : (s.putN t pa n x).tiles = s.tiles := rfl
@[simp] theorem State.putN_mtus (t pa n x : Nat) : (s.putN t pa n x).mtus = s.mtus := rfl
@[simp] theorem State.putN_descs (t pa n x : Nat) : (s.putN t pa n x).descs = s.descs := rfl
@[simp] theorem State.putN_auts (t pa n x : Nat) : (s.putN t pa n x).auts = s.auts := rfl
@[simp] theorem State.putN_groups (t pa n x : Nat) : (s.putN t pa n x).groups = s.groups := rfl
@[simp] theorem State.putN_insts (t pa n x : Nat) : (s.putN t pa n x).insts = s.insts := rfl
@[simp] theorem State.putN_chord (t pa n x : Nat) : (s.putN t pa n x).chord = s.chord := rfl
@[simp] theorem State.putN_parked (t pa n x : Nat) : (s.putN t pa n x).parked = s.parked := rfl
@[simp] theorem State.putN_away (t pa n x : Nat) : (s.putN t pa n x).away = s.away := rfl
@[simp] theorem State.putN_vault (t pa n x : Nat) : (s.putN t pa n x).vault = s.vault := rfl
@[simp] theorem State.putN_mlogs (t pa n x : Nat) : (s.putN t pa n x).mlogs = s.mlogs := rfl
@[simp] theorem State.putN_ftags (t pa n x : Nat) : (s.putN t pa n x).ftags = s.ftags := rfl
@[simp] theorem State.putN_asBase (t pa n x : Nat) : (s.putN t pa n x).asBase = s.asBase := rfl
@[simp] theorem State.putN_poison (t pa n x : Nat) : (s.putN t pa n x).poison = s.poison := rfl
@[simp] theorem State.putN_flaws (t pa n x : Nat) : (s.putN t pa n x).flaws = s.flaws := rfl
@[simp] theorem State.putN_touched (t pa n x : Nat) : (s.putN t pa n x).touched = s.touched := rfl
@[simp] theorem State.putN_spilt (t pa n x : Nat) : (s.putN t pa n x).spilt = s.spilt := rfl
@[simp] theorem State.putN_host (t pa n x : Nat) : (s.putN t pa n x).host = s.host := rfl
@[simp] theorem State.putN_fab (t pa n x : Nat) : (s.putN t pa n x).fab = s.fab := rfl
@[simp] theorem State.putN_sel (t pa n x : Nat) : (s.putN t pa n x).sel = s.sel := rfl
@[simp] theorem State.putN_agenda (t pa n x : Nat) : (s.putN t pa n x).agenda = s.agenda := rfl
@[simp] theorem State.putN_tick (t pa n x : Nat) : (s.putN t pa n x).tick = s.tick := rfl

@[simp] theorem State.put64_cycle (t pa : Nat) (x : Word) : (s.put64 t pa x).cycle = s.cycle := rfl
@[simp] theorem State.put64_power (t pa : Nat) (x : Word) : (s.put64 t pa x).power = s.power := rfl
@[simp] theorem State.put64_quarts (t pa : Nat) (x : Word) : (s.put64 t pa x).quarts = s.quarts := rfl
@[simp] theorem State.put64_tiles (t pa : Nat) (x : Word) : (s.put64 t pa x).tiles = s.tiles := rfl
@[simp] theorem State.put64_mtus (t pa : Nat) (x : Word) : (s.put64 t pa x).mtus = s.mtus := rfl
@[simp] theorem State.put64_descs (t pa : Nat) (x : Word) : (s.put64 t pa x).descs = s.descs := rfl
@[simp] theorem State.put64_auts (t pa : Nat) (x : Word) : (s.put64 t pa x).auts = s.auts := rfl
@[simp] theorem State.put64_groups (t pa : Nat) (x : Word) : (s.put64 t pa x).groups = s.groups := rfl
@[simp] theorem State.put64_insts (t pa : Nat) (x : Word) : (s.put64 t pa x).insts = s.insts := rfl
@[simp] theorem State.put64_chord (t pa : Nat) (x : Word) : (s.put64 t pa x).chord = s.chord := rfl
@[simp] theorem State.put64_parked (t pa : Nat) (x : Word) : (s.put64 t pa x).parked = s.parked := rfl
@[simp] theorem State.put64_away (t pa : Nat) (x : Word) : (s.put64 t pa x).away = s.away := rfl
@[simp] theorem State.put64_vault (t pa : Nat) (x : Word) : (s.put64 t pa x).vault = s.vault := rfl
@[simp] theorem State.put64_mlogs (t pa : Nat) (x : Word) : (s.put64 t pa x).mlogs = s.mlogs := rfl
@[simp] theorem State.put64_ftags (t pa : Nat) (x : Word) : (s.put64 t pa x).ftags = s.ftags := rfl
@[simp] theorem State.put64_asBase (t pa : Nat) (x : Word) : (s.put64 t pa x).asBase = s.asBase := rfl
@[simp] theorem State.put64_poison (t pa : Nat) (x : Word) : (s.put64 t pa x).poison = s.poison := rfl
@[simp] theorem State.put64_flaws (t pa : Nat) (x : Word) : (s.put64 t pa x).flaws = s.flaws := rfl
@[simp] theorem State.put64_touched (t pa : Nat) (x : Word) : (s.put64 t pa x).touched = s.touched := rfl
@[simp] theorem State.put64_spilt (t pa : Nat) (x : Word) : (s.put64 t pa x).spilt = s.spilt := rfl
@[simp] theorem State.put64_host (t pa : Nat) (x : Word) : (s.put64 t pa x).host = s.host := rfl
@[simp] theorem State.put64_fab (t pa : Nat) (x : Word) : (s.put64 t pa x).fab = s.fab := rfl
@[simp] theorem State.put64_sel (t pa : Nat) (x : Word) : (s.put64 t pa x).sel = s.sel := rfl
@[simp] theorem State.put64_agenda (t pa : Nat) (x : Word) : (s.put64 t pa x).agenda = s.agenda := rfl
@[simp] theorem State.put64_tick (t pa : Nat) (x : Word) : (s.put64 t pa x).tick = s.tick := rfl

/-! ### What the acting context, cell and tile read after an update elsewhere -/

@[simp] theorem State.setCell_cid (c : Nat) (x : Cell) : (s.setCell c x).cid = s.cid := rfl
@[simp] theorem State.setCell_sid (c : Nat) (x : Cell) : (s.setCell c x).sid = s.sid := rfl
@[simp] theorem State.setCtx_cid (x : Ctx) : (s.setCtx x).cid = s.cid := rfl
@[simp] theorem State.setCtx_sid (x : Ctx) : (s.setCtx x).sid = s.sid := rfl
@[simp] theorem State.setCtx_tid (x : Ctx) : (s.setCtx x).tid = s.tid := rfl
@[simp] theorem State.setCtx_asid (x : Ctx) : (s.setCtx x).asid = s.asid := rfl
@[simp] theorem State.setCtx_myTile (x : Ctx) : (s.setCtx x).myTile = s.myTile := rfl
@[simp] theorem State.ws_cid (n : Nat) (v : Word) : (s.ws n v).cid = s.cid := rfl
@[simp] theorem State.ws_sid (n : Nat) (v : Word) : (s.ws n v).sid = s.sid := rfl
@[simp] theorem State.ws_tid (n : Nat) (v : Word) : (s.ws n v).tid = s.tid := rfl
@[simp] theorem State.ws_myTile (n : Nat) (v : Word) : (s.ws n v).myTile = s.myTile := rfl
@[simp] theorem State.setMyCell_cid (x : Cell) : (s.setMyCell x).cid = s.cid := rfl
@[simp] theorem State.setMyCell_sid (x : Cell) : (s.setMyCell x).sid = s.sid := rfl
@[simp] theorem State.setMyCell_myTile (x : Cell) : (s.setMyCell x).myTile = s.myTile := rfl
@[simp] theorem State.setMyTile_cid (x : Tile) : (s.setMyTile x).cid = s.cid := rfl
@[simp] theorem State.setMyTile_ctx (x : Tile) : (s.setMyTile x).ctx = s.ctx := rfl
@[simp] theorem State.setMyTile_myCell (x : Tile) : (s.setMyTile x).myCell = s.myCell := rfl
@[simp] theorem State.clock_ctx : s.clock.ctx = s.ctx := rfl
@[simp] theorem State.clock_myCell : s.clock.myCell = s.myCell := rfl
@[simp] theorem State.clock_myTile : s.clock.myTile = s.myTile := rfl

end Sys2Proof.Machine
end

