-- ==== Sys2Proof/Laws/Store.lean ====
section
/-! SUPPORT. Sys2Proof/Laws/Store.lean: the laws of the containers: maps, register files, byte memory and its canonical form. -/

namespace Sys2Proof.Machine

variable {α : Type}

/-! ### Maps -/

@[simp] theorem mget?_mset_self (m : SMap α) (k : Nat) (v : α) : mget? (mset m k v) k = some v := by
  induction m with
  | nil => simp [mset, mget?]
  | cons e m ih =>
    obtain ⟨j, w⟩ := e
    simp only [mset]
    split
    · simp [mget?]
    · split
      · simp [mget?]
      · simp [mget?, *]

theorem mget?_mset_ne (m : SMap α) {k j : Nat} (v : α) (h : j ≠ k) : mget? (mset m k v) j = mget? m j := by
  induction m with
  | nil => simp [mset, mget?, Ne.symm h]
  | cons e m ih =>
    obtain ⟨i, w⟩ := e
    simp only [mset]
    split
    · subst_vars; simp [mget?, Ne.symm h]
    · split
      · simp [mget?, Ne.symm h]
      · simp [mget?, ih]

@[simp] theorem mget_mset_self (m : SMap α) (k : Nat) (v d : α) : mget (mset m k v) k d = v := by simp [mget]

theorem mget_mset_ne (m : SMap α) {k j : Nat} (v d : α) (h : j ≠ k) : mget (mset m k v) j d = mget m j d := by
  simp [mget, mget?_mset_ne m v h]

theorem mset_mset (m : SMap α) (k : Nat) (v w : α) : mset (mset m k v) k w = mset m k w := by
  induction m with
  | nil => simp [mset]
  | cons e m ih =>
    obtain ⟨j, u⟩ := e
    simp only [mset]
    split
    · simp [mset]
    · split
      · simp [mset]
      · simp [mset, *]

/-! ### Register files -/

@[simp] theorem vget_vset_self {n : Nat} (v : Vector α n) (i : Nat) (x d : α) (h : i < n) : vget (vset v i x) i d = x := by
  simp [vget, vset, h]

theorem vget_vset_ne {n : Nat} (v : Vector α n) {i j : Nat} (x d : α) (h : j ≠ i) : vget (vset v i x) j d = vget v j d := by
  simp [vget, vset, Ne.symm h]

theorem vset_vset {n : Nat} (v : Vector α n) (i : Nat) (x y : α) : vset (vset v i x) i y = vset v i y := by
  ext j hj
  simp only [vset, Vector.getElem_setIfInBounds]
  split <;> rfl

/-! ### Byte memory -/

theorem wfFrom_le {lo lo' : Nat} {m : Memory} (h : wfFrom lo m = true) (hl : lo' ≤ lo) : wfFrom lo' m = true := by
  cases m with
  | nil => rfl
  | cons e m =>
    simp only [wfFrom, Bool.and_eq_true, decide_eq_true_eq] at h ⊢
    exact ⟨⟨by omega, h.1.2⟩, h.2⟩

theorem wfFrom_wr8 {lo : Nat} {m : Memory} (k : Nat) (v : Byte) (h : wfFrom lo m = true) (hk : lo ≤ k) :
    wfFrom lo (wr8 m k v) = true := by
  induction m generalizing lo with
  | nil => simp only [wr8]; split <;> simp_all [wfFrom]
  | cons e m ih =>
    obtain ⟨j, b⟩ := e
    simp only [wfFrom, Bool.and_eq_true, decide_eq_true_eq] at h
    simp only [wr8]
    split
    · split
      · exact wfFrom_le h.2 (by omega)
      · subst_vars; simp_all [wfFrom]
    · split
      · split
        · simp_all [wfFrom]
        · simp_all [wfFrom]
      · have := ih (lo := j + 1) h.2 (by omega)
        simp_all [wfFrom]

/-- A byte write keeps the canonical form. -/
theorem wf_wr8 {m : Memory} (k : Nat) (v : Byte) (h : m.wf = true) : (wr8 m k v).wf = true :=
  wfFrom_wr8 k v h (Nat.zero_le k)

theorem wf_wrBytes {m : Memory} (a : Nat) (bs : List Byte) (h : m.wf = true) : (wrBytes m a bs).wf = true := by
  induction bs generalizing m a with
  | nil => exact h
  | cons b bs ih => exact ih (a + 1) (wf_wr8 a b h)

theorem wf_wrN {m : Memory} (a n x : Nat) (h : m.wf = true) : (wrN m a n x).wf = true := wf_wrBytes a _ h

theorem wf_applyBytes {m : Memory} (bs : List WByte) (h : m.wf = true) : (applyBytes m bs).wf = true := by
  induction bs generalizing m with
  | nil => exact h
  | cons b bs ih => exact ih (wf_wr8 _ _ h)

theorem rd8_below {lo k : Nat} {m : Memory} (h : wfFrom lo m = true) (hk : k < lo) : rd8 m k = unlisted := by
  induction m generalizing lo with
  | nil => rfl
  | cons e m ih =>
    obtain ⟨j, b⟩ := e
    simp only [wfFrom, Bool.and_eq_true, decide_eq_true_eq] at h
    simp only [rd8]
    split
    · omega
    · exact ih h.2 (by omega)

/-- A read after a write to the same byte gives what was written. -/
theorem rd8_wr8_self {m : Memory} (k : Nat) (v : Byte) (h : m.wf = true) : rd8 (wr8 m k v) k = v := by
  suffices ∀ lo, wfFrom lo m = true → rd8 (wr8 m k v) k = v from this 0 h
  clear h
  intro lo h
  induction m generalizing lo with
  | nil => simp only [wr8]; split <;> simp_all [rd8]
  | cons e m ih =>
    obtain ⟨j, b⟩ := e
    simp only [wfFrom, Bool.and_eq_true, decide_eq_true_eq] at h
    simp only [wr8]
    split
    · split
      · subst_vars; exact rd8_below h.2 (by omega)
      · simp [rd8]
    · split
      · split
        · subst_vars
          simp only [rd8, if_neg (show ¬ j = k by omega)]
          exact rd8_below h.2 (by omega)
        · simp [rd8]
      · simp only [rd8, if_neg (show ¬ j = k by assumption)]
        exact ih _ h.2

/-- A write leaves every other byte alone. -/
theorem rd8_wr8_ne {m : Memory} {k a : Nat} (v : Byte) (ha : a ≠ k) : rd8 (wr8 m k v) a = rd8 m a := by
  induction m with
  | nil => simp only [wr8]; split <;> simp [rd8, Ne.symm ha]
  | cons e m ih =>
    obtain ⟨j, b⟩ := e
    simp only [wr8]
    split
    · subst_vars
      split <;> simp [rd8, Ne.symm ha]
    · split
      · split <;> simp [rd8, Ne.symm ha]
      · simp [rd8, ih]

theorem rd8_wrBytes_out {m : Memory} {k a : Nat} (bs : List Byte) (h : a < k ∨ k + bs.length ≤ a) :
    rd8 (wrBytes m k bs) a = rd8 m a := by
  induction bs generalizing m k with
  | nil => rfl
  | cons b bs ih =>
    simp only [List.length_cons] at h
    rw [wrBytes, ih (by omega), rd8_wr8_ne _ (by omega)]

@[simp] theorem length_leBytes (n x : Nat) : (leBytes n x).length = n := by
  induction n generalizing x with
  | zero => rfl
  | succ n ih => simp [leBytes, ih]

theorem rd8_applyBytes_out {m : Memory} {a : Nat} (bs : List WByte) (h : ∀ b ∈ bs, b.pa ≠ a) :
    rd8 (applyBytes m bs) a = rd8 m a := by
  induction bs generalizing m with
  | nil => rfl
  | cons b bs ih =>
    rw [applyBytes, ih (fun c hc => h c (List.mem_cons_of_mem _ hc)), rd8_wr8_ne]
    exact Ne.symm (h b List.mem_cons_self)

theorem mem_wbytes {pa : Nat} {bs : List Byte} {b : WByte} (h : b ∈ wbytes pa bs) : pa ≤ b.pa ∧ b.pa < pa + bs.length := by
  induction bs generalizing pa with
  | nil => cases h
  | cons c bs ih =>
    simp only [wbytes, List.mem_cons, List.length_cons] at h ⊢
    rcases h with rfl | h
    · exact ⟨Nat.le_refl _, by simp⟩
    · have := ih h; omega

/-! ### Performing a write -/

theorem State.perform_mem_wf (s : State) (t : Nat) (bs : List WByte) (h : s.mem.wf = true) : (s.perform t bs).mem.wf = true :=
  wf_applyBytes bs h
theorem State.putN_mem_wf (s : State) (t pa n x : Nat) (h : s.mem.wf = true) : (s.putN t pa n x).mem.wf = true :=
  s.perform_mem_wf t _ h
theorem State.put64_mem_wf (s : State) (t pa : Nat) (x : Word) (h : s.mem.wf = true) : (s.put64 t pa x).mem.wf = true :=
  s.perform_mem_wf t _ h

/-- A write of `n` bytes at a memory key leaves every byte outside them. -/
theorem State.putN_out (s : State) (t pa n x a : Nat) (h : a < pa ∨ pa + n ≤ a) : rd8 (s.putN t pa n x).mem a = rd8 s.mem a :=
  rd8_applyBytes_out _ fun b hb => by have := mem_wbytes hb; simp only [length_leBytes] at this; omega

/-- The memory of the machine after reset is in its canonical form. -/
theorem State.reset_mem_wf : State.reset.mem.wf = true := rfl

end Sys2Proof.Machine
end

