-- ==== Sys2Proof/Laws/Issue.lean ====
section
/-! SUPPORT. Sys2Proof/Laws/Issue.lean: what Issue() answers (02 R43), once for every instruction, and what the acting
context reads after it is written. -/

namespace Sys2Proof.Machine

/-! ### The acting context after it is written -/

theorem Cell.slot_setSlot_self (x : Cell) (n : Nat) (c : Ctx) (h : n ≤ 10) : (x.setSlot n c).slot n = c :=
  vget_vset_self _ _ _ _ (by omega)

theorem Cell.slot_setSlot_ne (x : Cell) {n k : Nat} (c : Ctx) (h : k ≠ n) : (x.setSlot n c).slot k = x.slot k :=
  vget_vset_ne _ _ _ h

theorem State.ctx_setCtx (s : State) (x : Ctx) (h : s.sid ≤ 10) : (s.setCtx x).ctx = x := by
  show Cell.slot (mget (mset s.cells s.cid _) s.cid _) s.sid = x
  rw [mget_mset_self]
  exact Cell.slot_setSlot_self _ _ _ h

theorem State.myCell_setMyCell (s : State) (x : Cell) : (s.setMyCell x).myCell = x := mget_mset_self _ _ _ _

theorem State.setCtx_setCtx (s : State) (x y : Ctx) : (s.setCtx x).setCtx y = s.setCtx y := by
  have hc : (s.setCtx x).cell s.cid = (s.cell s.cid).setSlot s.sid x := mget_mset_self _ _ _ _
  show State.setCell (s.setCtx x) s.cid (((s.setCtx x).cell s.cid).setSlot s.sid y) = _
  rw [hc]
  simp only [State.setCtx, State.setCtxAt, State.setCell, Cell.setSlot, mset_mset, vset_vset]

theorem State.ctxAt_setCtx_ne (s : State) (x : Ctx) {c n : Nat} (h : ¬ (c = s.cid ∧ n = s.sid)) :
    (s.setCtx x).ctxAt c n = s.ctxAt c n := by
  by_cases hc : c = s.cid
  · subst hc
    have hn : n ≠ s.sid := fun e => h ⟨rfl, e⟩
    show Cell.slot (mget (mset s.cells s.cid _) s.cid _) n = _
    rw [mget_mset_self]
    exact Cell.slot_setSlot_ne _ _ hn
  · show Cell.slot (mget (mset s.cells s.cid _) c _) n = _
    rw [mget_mset_ne _ _ _ hc]; rfl

theorem State.cell_setCtx_ne (s : State) (x : Ctx) {c : Nat} (h : c ≠ s.cid) : (s.setCtx x).cell c = s.cell c :=
  mget_mset_ne _ _ _ h

theorem State.myCell_setCtx (s : State) (x : Ctx) : (s.setCtx x).myCell = s.myCell.setSlot s.sid x :=
  mget_mset_self _ _ _ _

/-! ### Issue -/

theorem State.issues_iff {s : State} {i : Instr} {gm : GuardMode} {n m : Nat} : s.issues i gm n m = true ↔
    s.canRun = true ∧ interlocked i s.ctx = false ∧ i.wf = true ∧
      (∃ g, issueGuard gm (guardPfx i) s.ctx = some g ∧ g.s = true) ∧ ∃ c, s.ctx.charge n m = .inl c := by
  unfold State.issues
  cases issueGuard gm (guardPfx i) s.ctx <;> cases s.ctx.charge n m <;>
    simp [Sum.isLeft, and_assoc]

theorem State.canRun_sid {s : State} (h : s.canRun = true) : s.sid ≤ 10 := by
  simp only [State.canRun, Bool.and_eq_true, decide_eq_true_eq] at h
  omega

theorem State.issues_sid {s : State} {i : Instr} {gm : GuardMode} {n m : Nat} (h : s.issues i gm n m = true) : s.sid ≤ 10 :=
  State.canRun_sid (State.issues_iff.1 h).1

/-- An instruction that reads no region register runs on the charged state itself. -/
theorem runBody_eq {i : Instr} {sh : Shape} {s : State} (h : readRegions i = []) : runBody i sh s = sh.body s := by
  simp [runBody, regionFault, meetRegions, h]

/-- An instruction whose region registers hold no uncorrectable error runs, after the correction of those that hold another. -/
theorem runBody_sound {i : Instr} {sh : Shape} {s : State} (h : regionFault i s = none) : runBody i sh s = sh.body (meetRegions i s) := by
  simp [runBody, h]

/-! ### What a waiting instruction keeps -/

/-- An instruction that does not wait keeps nothing. -/
theorem keepCap_done {i : Instr} {r : Res} {s t : State} (h : r.waits = false) : keepCap i r s t = t := by
  simp [keepCap, h]
/-- Nor does one that reads no region register and loads no region. -/
theorem keepCap_none {i : Instr} {r : Res} {s t : State} (h : s.capture i = none) : keepCap i r s t = t := by
  unfold keepCap; rw [h]; split <;> simp_all
/-- Keeping a capture touches the acting context alone. -/
theorem keepCap_cases (i : Instr) (r : Res) (s t : State) :
    keepCap i r s t = t ∨ ∃ k, s.capture i = some k ∧ keepCap i r s t = t.setCtx { t.ctx with cap := some k } := by
  unfold keepCap
  split
  · rename_i k _ hk; exact .inr ⟨k, hk, rfl⟩
  · exact .inl rfl
@[simp] theorem keepCap_mem (i : Instr) (r : Res) (s t : State) : (keepCap i r s t).mem = t.mem := by
  rcases keepCap_cases i r s t with e | ⟨k, _, e⟩ <;> rw [e]; rfl

/-- Issue() of an instruction whose turn has come: its meaning runs on the charged state. -/
theorem issue_run {i : Instr} {sh : Shape} {s : State} {n m : Nat} (h : s.issues i sh.gm n m = true)
    (hk : sh.kernel = false ∨ s.ctx.user = false) (ho : sh.own s = none) (hr : sh.ready s = true) (hc : sh.cost s = (n, m))
    (he : sh.early s = none := by rfl) (hq : sh.queues = false := by rfl) :
    issue i sh s = .next (keepCap i (runBody i sh (s.charged n m)) s
      (finish i.ilen s (s.charged n m) n m (runBody i sh (s.charged n m)))) := by
  obtain ⟨h1, h2, h3, ⟨g, hg, hs⟩, c, hch⟩ := State.issues_iff.1 h
  have hk' : (sh.kernel && s.ctx.user) = false := by rcases hk with e | e <;> simp [e]
  simp [issue, h1, h2, h3, hk', hg, hs, hr, hc, hch, ho, he, hq, State.charged]

theorem issue_eq {i : Instr} {sh : Shape} {s : State} {n m : Nat} (h : s.issues i sh.gm n m = true)
    (hk : sh.kernel = false ∨ s.ctx.user = false) (ho : sh.own s = none) (hr : sh.ready s = true) (hc : sh.cost s = (n, m))
    (hg : readRegions i = []) (he : sh.early s = none := by rfl) (hq : sh.queues = false := by rfl) :
    issue i sh s = .next (keepCap i (sh.body (s.charged n m)) s (finish i.ilen s (s.charged n m) n m (sh.body (s.charged n m)))) := by
  rw [issue_run h hk ho hr hc he hq, runBody_eq hg]

theorem issue_ok {i : Instr} {sh : Shape} {s t : State} {n m : Nat} (h : s.issues i sh.gm n m = true)
    (hk : sh.kernel = false ∨ s.ctx.user = false) (ho : sh.own s = none) (hr : sh.ready s = true) (hc : sh.cost s = (n, m))
    (hg : readRegions i = []) (hb : sh.body (s.charged n m) = .ok t)
    (he : sh.early s = none := by rfl) (hq : sh.queues = false := by rfl) : issue i sh s = .next (t.done i) := by
  rw [issue_eq h hk ho hr hc hg he hq, hb]; rfl

theorem issue_goto {i : Instr} {sh : Shape} {s t : State} {n m : Nat} {a : Word} (h : s.issues i sh.gm n m = true)
    (hk : sh.kernel = false ∨ s.ctx.user = false) (ho : sh.own s = none) (hr : sh.ready s = true) (hc : sh.cost s = (n, m))
    (hg : readRegions i = []) (hb : sh.body (s.charged n m) = .goto t a)
    (he : sh.early s = none := by rfl) (hq : sh.queues = false := by rfl) : issue i sh s = .next (t.jumped a) := by
  rw [issue_eq h hk ho hr hc hg he hq, hb]; rfl

/-! ### The charge changes the budgets and nothing else -/

theorem Ctx.charge_regs {c c' : Ctx} {i m : Nat} (h : c.charge i m = .inl c') :
    { c' with ibud := c.ibud, mbud := c.mbud } = c := by
  unfold Ctx.charge at h
  split at h
  · cases h; rfl
  · split at h
    · cases h
    · split at h
      · cases h; rfl
      · split at h <;> cases h

theorem State.charged_eq (s : State) (n m : Nat) :
    s.charged n m = s ∨ ∃ c', s.ctx.charge n m = .inl c' ∧ s.charged n m = s.setCtx c' := by
  unfold State.charged
  cases s.ctx.charge n m with
  | inl c => exact .inr ⟨c, rfl, rfl⟩
  | inr r => exact .inl rfl

theorem State.charged_ctx (s : State) (n m : Nat) (h : s.sid ≤ 10) :
    { (s.charged n m).ctx with ibud := s.ctx.ibud, mbud := s.ctx.mbud } = s.ctx := by
  rcases s.charged_eq n m with e | ⟨c, hc, e⟩ <;> rw [e]
  rw [State.ctx_setCtx _ _ h]
  exact Ctx.charge_regs hc

theorem State.rs_charged (s : State) (n m r : Nat) (h : s.sid ≤ 10) : (s.charged n m).rs r = s.rs r := by
  have e := congrArg Ctx.regs (s.charged_ctx n m h)
  exact congrArg (fun v => vget v r 0#64) e

@[simp] theorem State.charged_sid (s : State) (n m : Nat) : (s.charged n m).sid = s.sid := by
  rcases s.charged_eq n m with e | ⟨c, _, e⟩ <;> (rw [e]; try rfl)
@[simp] theorem State.charged_cid (s : State) (n m : Nat) : (s.charged n m).cid = s.cid := by
  rcases s.charged_eq n m with e | ⟨c, _, e⟩ <;> (rw [e]; try rfl)
@[simp] theorem State.charged_mem (s : State) (n m : Nat) : (s.charged n m).mem = s.mem := by
  rcases s.charged_eq n m with e | ⟨c, _, e⟩ <;> (rw [e]; try rfl)
@[simp] theorem State.charged_tiles (s : State) (n m : Nat) : (s.charged n m).tiles = s.tiles := by
  rcases s.charged_eq n m with e | ⟨c, _, e⟩ <;> (rw [e]; try rfl)
@[simp] theorem State.charged_cycle (s : State) (n m : Nat) : (s.charged n m).cycle = s.cycle := by
  rcases s.charged_eq n m with e | ⟨c, _, e⟩ <;> (rw [e]; try rfl)

/-- The charge changes nothing of the cell but the acting slot. -/
theorem State.gbad_charged (s : State) (n m : Nat) : (s.charged n m).myCell.gbad = s.myCell.gbad := by
  rcases s.charged_eq n m with e | ⟨c, _, e⟩ <;> rw [e]
  show ((s.setCtx c).myCell).gbad = _
  rw [State.myCell_setCtx]; rfl

/-- An instruction whose region registers hold no error runs, after the correction of those that hold a correctable one. -/
theorem issue_region {i : Instr} {sh : Shape} {s : State} {n m : Nat} (h : s.issues i sh.gm n m = true)
    (hk : sh.kernel = false ∨ s.ctx.user = false) (ho : sh.own s = none) (hr : sh.ready s = true) (hc : sh.cost s = (n, m))
    (hg : regionFault i s = none) (he : sh.early s = none := by rfl) (hq : sh.queues = false := by rfl) :
    issue i sh s = .next (keepCap i (sh.body (s.begun i n m)) s (finish i.ilen s (s.charged n m) n m (sh.body (s.begun i n m)))) := by
  have e : regionFault i (s.charged n m) = none := by
    unfold regionFault at hg ⊢
    rw [State.gbad_charged]
    split at hg <;> simp_all
  rw [issue_run h hk ho hr hc he hq, runBody_sound e]; rfl

/-- Issue() answers a next state whatever the instruction and the state. -/
theorem issue_next (i : Instr) (sh : Shape) (s : State) : ∃ t, issue i sh s = .next t := by
  unfold issue
  dsimp only
  repeat' (first | exact ⟨_, rfl⟩ | split)

end Sys2Proof.Machine
end

