-- ==== Sys2Proof/Laws/Ops.lean ====
section
/-! SUPPORT. Sys2Proof/Laws/Ops.lean: what the shared operations do, once each: performing a write, a push, an acquire, a trap. -/

namespace Sys2Proof.Machine

/-! ### Reading back what was written -/

theorem leNat_leBytes : ∀ n x, leNat (leBytes n x) = x % 256 ^ n
  | 0, x => (Nat.mod_one x).symm
  | n + 1, x => by
    have e : (BitVec.ofNat 8 x).toNat = x % 256 := rfl
    rw [leBytes, leNat, leNat_leBytes n, e, Nat.pow_succ', Nat.mod_mul]

theorem applyBytes_wbytes (m : Memory) : ∀ (bs : List Byte) (a : Nat), applyBytes m (wbytes a bs) = wrBytes m a bs := by
  intro bs
  induction bs generalizing m with
  | nil => intro a; rfl
  | cons b bs ih =>
    intro a
    have e : (rd8 m a &&& ~~~0xFF#8) ||| (b &&& 0xFF#8) = b := by
      have h : 0xFF#8 = BitVec.allOnes 8 := rfl
      rw [h, BitVec.not_allOnes, BitVec.and_zero, BitVec.zero_or, BitVec.and_allOnes]
    simp only [wbytes, applyBytes, e, ih]; rfl

theorem rdBytes_congr {m m' : Memory} : ∀ (n a : Nat), (∀ k, a ≤ k → k < a + n → rd8 m k = rd8 m' k) → rdBytes m a n = rdBytes m' a n
  | 0, _, _ => rfl
  | n + 1, a, h => by
    rw [rdBytes, rdBytes, h a (Nat.le_refl _) (by omega), rdBytes_congr n (a + 1) fun k h1 h2 => h k (by omega) (by omega)]

theorem rdBytes_wrBytes {m : Memory} (h : m.wf = true) : ∀ (bs : List Byte) (a : Nat), rdBytes (wrBytes m a bs) a bs.length = bs := by
  intro bs
  induction bs generalizing m with
  | nil => intro a; rfl
  | cons b bs ih =>
    intro a
    have h1 : rd8 (wrBytes (wr8 m a b) (a + 1) bs) a = b := by
      rw [rd8_wrBytes_out bs (.inl (by omega)), rd8_wr8_self a b h]
    show rd8 (wrBytes (wr8 m a b) (a + 1) bs) a :: rdBytes (wrBytes (wr8 m a b) (a + 1) bs) (a + 1) bs.length = _
    rw [h1, ih (wf_wr8 a b h)]

/-- A range apart from the bytes written reads as before. -/
theorem rdBytes_wrBytes_out (m : Memory) (bs : List Byte) {a k n : Nat} (h : k + n ≤ a ∨ a + bs.length ≤ k) :
    rdBytes (wrBytes m a bs) k n = rdBytes m k n :=
  rdBytes_congr n k fun j h1 h2 => rd8_wrBytes_out bs (by omega)

/-- A write of `n` bytes reads back. -/
theorem State.putN_self (s : State) (t pa n x : Nat) (h : s.mem.wf = true) : rdN (s.putN t pa n x).mem pa n = x % 256 ^ n := by
  have e : rdBytes (wrBytes s.mem pa (leBytes n x)) pa n = leBytes n x := by
    have := rdBytes_wrBytes h (leBytes n x) pa
    rwa [length_leBytes] at this
  show leNat (rdBytes (applyBytes s.mem (wbytes pa (leBytes n x))) pa n) = _
  rw [applyBytes_wbytes, e, leNat_leBytes]

theorem State.put64_self (s : State) (t pa : Nat) (x : Word) (h : s.mem.wf = true) : rd64 (s.put64 t pa x).mem pa = x := by
  show BitVec.ofNat 64 (rdN (s.putN t pa 8 x.toNat).mem pa 8) = x
  rw [s.putN_self t pa 8 _ h]
  apply BitVec.eq_of_toNat_eq
  have : x.toNat < 2 ^ 64 := x.isLt
  simp only [BitVec.toNat_ofNat]
  omega

/-! ### Performing a write changes memory and L1 lines only -/

theorem mget?_map {α : Type} (f : Nat → α → α) : ∀ (m : SMap α) (k : Nat),
    mget? (m.map fun x => (x.1, f x.1 x.2)) k = (mget? m k).map (f k)
  | [], _ => rfl
  | (j, x) :: m, k => by
    by_cases h : j = k
    · subst h; simp [mget?]
    · simp only [List.map_cons, mget?, h, if_false]; exact mget?_map f m k

/-- A cell after a write: its L1 may lose lines. -/
theorem State.cell_perform (s : State) (t : Nat) (bs : List WByte) (c : Nat) :
    ∃ l, (s.perform t bs).cell c = { s.cell c with l1 := l } := by
  let f : Nat → Cell → Cell := fun k x =>
    if k / 16 = t ∧ x.l1 ≠ [] then { x with l1 := x.l1.filter fun l => !(bs.map fun b => b.pa / 64).contains l.line } else x
  have e : (s.perform t bs).cells = s.cells.map fun x => (x.1, f x.1 x.2) := by
    simp only [State.perform, State.dropLines, f]
    apply List.map_congr_left
    rintro ⟨k, x⟩ _
    dsimp only
    split <;> rfl
  show ∃ l, mget (s.perform t bs).cells c Cell.reset = _
  rw [mget, e, mget?_map]
  show ∃ l, ((mget? s.cells c).map (f c)).getD Cell.reset = { (mget? s.cells c).getD Cell.reset with l1 := l }
  cases mget? s.cells c with
  | none => exact ⟨[], rfl⟩
  | some x =>
    show ∃ l, f c x = { x with l1 := l }
    simp only [f]
    split
    · exact ⟨_, rfl⟩
    · exact ⟨x.l1, rfl⟩

@[simp] theorem State.ctxAt_perform (s : State) (t : Nat) (bs : List WByte) (c n : Nat) : (s.perform t bs).ctxAt c n = s.ctxAt c n := by
  obtain ⟨l, h⟩ := s.cell_perform t bs c
  show ((s.perform t bs).cell c).slot n = (s.cell c).slot n
  rw [h]; rfl
@[simp] theorem State.ctx_perform (s : State) (t : Nat) (bs : List WByte) : (s.perform t bs).ctx = s.ctx := s.ctxAt_perform t bs _ _
@[simp] theorem State.rs_perform (s : State) (t : Nat) (bs : List WByte) (r : Nat) : (s.perform t bs).rs r = s.rs r := by
  show vget (s.perform t bs).ctx.regs r 0#64 = vget s.ctx.regs r 0#64
  rw [s.ctx_perform]
@[simp] theorem State.tiles_perform (s : State) (t : Nat) (bs : List WByte) : (s.perform t bs).tiles = s.tiles := rfl
@[simp] theorem State.descs_perform (s : State) (t : Nat) (bs : List WByte) : (s.perform t bs).descs = s.descs := rfl
@[simp] theorem State.sel_perform (s : State) (t : Nat) (bs : List WByte) : (s.perform t bs).sel = s.sel := rfl
@[simp] theorem State.cycle_perform (s : State) (t : Nat) (bs : List WByte) : (s.perform t bs).cycle = s.cycle := rfl

/-- With no correctable error pending, a store of a context is just performed. -/
theorem State.write_eq (s : State) (t : Nat) (bs : List WByte) (h : s.flaws = []) : s.write t bs = s.perform t bs := by
  unfold State.write; rw [if_pos h]

/-! ### A push, an acquire, a trap -/

/-- What a push can do: with room in hardware only the stack changes; else, with no correctable error pending, eight bytes of the
spill area are written too. -/
theorem State.push_cases {s t : State} {e : PEntry} (h : s.push e = some t) :
    s.ctx.pdepth < 64 ∧
    ((s.ctx.pst.length < 16 ∧ t = s.setCtx { s.ctx with pst := e :: s.ctx.pst }) ∨
     (16 ≤ s.ctx.pst.length ∧ (s.flaws = [] → ∀ a, a < spillKey s.tid s.ctx.pspill (s.ctx.spilled + 1) ∨ spillKey s.tid s.ctx.pspill (s.ctx.spilled + 1) + 8 ≤ a →
      rd8 t.mem a = rd8 s.mem a))) := by
  unfold State.push at h
  dsimp only at h
  split at h
  · cases h
  · split at h
    · cases h; exact ⟨by omega, .inl ⟨by omega, rfl⟩⟩
    · cases h
      exact ⟨by omega, .inr ⟨by omega, fun hf a ha => by
        rw [State.write_eq _ _ _ hf]; exact State.putN_out s s.tid _ 8 _ a ha⟩⟩

/-- An acquire changes no memory, no tile and no register of another slot. -/
@[simp] theorem State.acquireAt_mem (s : State) (c n scope : Nat) : (s.acquireAt c n scope).mem = s.mem := by
  unfold State.acquireAt; dsimp only; split <;> rfl
@[simp] theorem State.acquireAt_tiles (s : State) (c n scope : Nat) : (s.acquireAt c n scope).tiles = s.tiles := by
  unfold State.acquireAt; dsimp only; split <;> rfl
@[simp] theorem State.acquireAt_sel (s : State) (c n scope : Nat) : (s.acquireAt c n scope).sel = s.sel := by
  unfold State.acquireAt; dsimp only; split <;> rfl

/-- A trap that is entered (14 R337): no violation to log, TACT clear, an even vector that is not 0. -/
theorem State.takeTrap_enter (s : State) (e : Err) (ilen : Nat) (hl : e.log = none) (ha : s.ctx.tstat.getLsbD 2 = false)
    (h0 : s.ctx.tvec ≠ 0#64) (h1 : s.ctx.tvec.getLsbD 0 = false) :
    s.takeTrap e ilen = s.setCtx (s.ctx.enter s.ctx.pc e ilen) := by
  unfold State.takeTrap
  rw [hl]
  dsimp only
  rw [if_neg]
  simp only [tact, ha, h1, Bool.or_false, Bool.false_or, beq_iff_eq]
  exact h0

end Sys2Proof.Machine
end

