-- ==== Sys2Proof/Laws/Form.lean ====
section
/-! SUPPORT. Sys2Proof/Laws/Form.lean: the canonical form of memory through firings, fault records, traps, yields and Issue(). -/

namespace Sys2Proof.Machine

@[simp] theorem State.putFired_mem (s : State) (t e : Nat) (r : RqEntry) : (s.putFired t e r).mem = s.mem := by
  unfold State.putFired; dsimp only; split <;> rfl

theorem State.takeRecord_mem_wf {s u : State} {t : Nat} {a : Word} {sc : Nat} {r : RqEntry} (he : s.takeRecord t a sc = some (r, u))
    (h : s.mem.wf = true) : u.mem.wf = true := by
  unfold State.takeRecord at he
  obtain ⟨pa, -, e⟩ := Option.map_eq_some_iff.1 he
  cases e
  exact State.putN_mem_wf _ t _ _ _ h

@[simp] theorem State.note_mem (s : State) (t pa n : Nat) : (s.note t pa n).mem = s.mem := by unfold State.note; split <;> rfl
/-- What leaves memory as it is leaves it over a list. -/
theorem foldl_mem {α : Type} (f : State → α → State) (hf : ∀ s x, (f s x).mem = s.mem) : ∀ (l : List α) (s : State), (l.foldl f s).mem = s.mem
  | [], _ => rfl
  | x :: l, s => by rw [List.foldl_cons, foldl_mem f hf l, hf]
@[simp] theorem State.noteRecord_mem (s : State) (t : Nat) (a : Word) : (s.noteRecord t a).mem = s.mem := by
  unfold State.noteRecord
  split
  · rfl
  · dsimp only
    split
    all_goals simp only [State.note_mem, foldl_mem _ (fun s k => s.note_mem t k 8)]

theorem State.fire_mem_wf (s : State) (t e : Nat) (h : s.mem.wf = true) : (s.fire t e).mem.wf = true := by
  unfold State.fire
  dsimp only
  generalize hu : State.noteRecord _ t _ = u
  replace h : u.mem.wf = true := by rw [← hu, State.noteRecord_mem]; exact h
  split
  · rw [State.putFired_mem]
    split
    · exact State.putN_mem_wf _ t _ _ _ h
    · exact h
  · split
    · rename_i hr; rw [State.putFired_mem]; exact State.takeRecord_mem_wf hr h
    · exact h

theorem firePass_mem_wf (t c : Nat) : ∀ (l : List Nat) (s : State), s.mem.wf = true → (firePass t c l s).2.mem.wf = true
  | [], s, h => h
  | e :: es, s, h => by
    unfold firePass
    dsimp only
    split
    · exact firePass_mem_wf t c es _ (State.fire_mem_wf _ t e h)
    · exact firePass_mem_wf t c es s h

theorem checkFireFuel_mem_wf (t c : Nat) : ∀ (n : Nat) (s : State), s.mem.wf = true → (checkFireFuel t c n s).mem.wf = true
  | 0, s, h => h
  | n + 1, s, h => by
    unfold checkFireFuel
    have := firePass_mem_wf t c ((s.tile t).wtt.map (·.1)) s h
    split
    · rename_i e; rw [e] at this; exact this
    · rename_i e; rw [e] at this; exact checkFireFuel_mem_wf t c n _ this

@[simp] theorem State.meetWait_mem (s : State) (t k c n : Nat) : (s.meetWait t k c n).mem = s.mem := by
  unfold State.meetWait
  dsimp only
  repeat' split
  · show (State.acquireAt _ c n _).mem = _
    rw [State.acquireAt_mem]; rfl
  · rfl
  · rfl

@[simp] theorem State.meetWaits_mem (s : State) (t k : Nat) : (s.meetWaits t k).mem = s.mem := by
  unfold State.meetWaits
  generalize s.waiters t = l
  induction l generalizing s with
  | nil => rfl
  | cons p l ih => rw [List.foldl_cons, ih, State.meetWait_mem]

theorem State.bump_mem_wf (s : State) (t c : Nat) (by_ : BitVec 32) (scope : Nat) (iref mref : BitVec 32) (h : s.mem.wf = true) :
    (s.bump t c by_ scope iref mref).mem.wf = true :=
  checkFireFuel_mem_wf t c _ _ (by rw [State.meetWaits_mem]; exact h)

theorem State.ringPut_mem_wf (s : State) (n : Nat) (r : Word × Word × BitVec 32 × Word) (h : s.mem.wf = true) : (s.ringPut n r).mem.wf = true := by
  unfold State.ringPut
  refine State.bump_mem_wf _ _ _ _ _ _ _ ?_
  split
  · exact State.put64_mem_wf _ _ _ _ (State.putN_mem_wf _ _ _ _ _ (State.put64_mem_wf _ _ _ _ (State.put64_mem_wf _ _ _ _ (by rw [State.note_mem]; exact h))))
  · exact h

theorem State.sendFault_mem_wf (s : State) (n : Nat) (va who : Word) (h : s.mem.wf = true) : (s.sendFault n va who).2.mem.wf = true := by
  unfold State.sendFault
  dsimp only
  split
  · exact State.ringPut_mem_wf _ n _ h
  · exact h

theorem State.parkFault_mem_wf (s : State) (t : Nat) (va who : Word) (h : s.mem.wf = true) : (s.parkFault t va who).2.mem.wf = true := by
  unfold State.parkFault
  dsimp only
  split
  · exact h
  · exact s.sendFault_mem_wf _ _ _ h

theorem State.reportError_mem_wf (s : State) (t array addr : Nat) (l : Bool) (h : s.mem.wf = true) :
    (s.reportError t array addr l).mem.wf = true := by
  have hl : (s.logError t array addr l).mem.wf = true := h
  unfold State.reportError
  dsimp only
  split
  · exact State.sendFault_mem_wf _ _ _ _ hl
  · exact hl

theorem State.meetFlaw_mem_wf (s : State) (t : Nat) (a : Array) (h : s.mem.wf = true) : (s.meetFlaw t a).mem.wf = true := by
  unfold State.meetFlaw
  split
  · exact h
  · exact State.reportError_mem_wf _ _ _ _ _ h

/-- What keeps the canonical form keeps it over a list. -/
theorem foldl_mem_wf {α : Type} (f : State → α → State) (hf : ∀ s x, s.mem.wf = true → (f s x).mem.wf = true) :
    ∀ (l : List α) (s : State), s.mem.wf = true → (l.foldl f s).mem.wf = true
  | [], _, h => h
  | x :: l, s, h => foldl_mem_wf f hf l (f s x) (hf s x h)

theorem meetRegions_mem_wf (i : Instr) (s : State) (h : s.mem.wf = true) : (meetRegions i s).mem.wf = true := by
  unfold meetRegions
  split
  · exact h
  · exact foldl_mem_wf _ (fun s n hs => State.meetFlaw_mem_wf s _ _ hs) _ s h

theorem State.meetLines_mem_wf (s : State) (t pa n : Nat) (h : s.mem.wf = true) : (s.meetLines t pa n).mem.wf = true := by
  unfold State.meetLines
  split
  · exact h
  · exact foldl_mem_wf _ (fun s l hs => State.meetFlaw_mem_wf s _ _ hs) _ s h

theorem State.meetTouched_mem_wf (s : State) (h : s.mem.wf = true) : s.meetTouched.mem.wf = true := by
  unfold State.meetTouched
  exact foldl_mem_wf _ (fun s x hs => State.meetLines_mem_wf s _ _ _ hs) _ _ h

theorem State.takeTrap_mem_wf (s : State) (e : Err) (n : Nat) (h : s.mem.wf = true) : (s.takeTrap e n).mem.wf = true := by
  unfold State.takeTrap
  dsimp only
  have hd (u : State) (hu : u.mem.wf = true) : (u.doubleTrap e).mem.wf = true := State.sendFault_mem_wf _ _ _ _ hu
  repeat' split
  all_goals first
    | exact h
    | exact hd _ h

theorem State.beginYield_mem_wf (s : State) (reason : BitVec 3) (n : Nat) (h : s.mem.wf = true) : (s.beginYield reason n).mem.wf = true := by
  unfold State.beginYield
  dsimp only
  repeat' split
  all_goals first
    | exact h
    | exact State.takeTrap_mem_wf _ _ _ h

@[simp] theorem State.leaveQueue_mem (s : State) : s.leaveQueue.mem = s.mem := by
  unfold State.leaveQueue; dsimp only; split <;> rfl
@[simp] theorem State.unqueue_mem (s : State) : s.unqueue.mem = s.mem := by
  unfold State.unqueue
  split
  · exact s.leaveQueue_mem
  · rfl
@[simp] theorem State.queueWait_mem (s : State) (k : VClaim) : (s.queueWait k).mem = s.mem := by
  unfold State.queueWait; dsimp only; split <;> rfl
@[simp] theorem State.closeStreams_mem (s : State) : s.closeStreams.mem = s.mem := by
  unfold State.closeStreams
  generalize List.range 4 = l
  induction l generalizing s with
  | nil => rfl
  | cons k l ih =>
    rw [List.foldl_cons, ih]
    dsimp only
    split
    · split <;> rfl
    · rfl

theorem State.write_mem_wf (s : State) (t : Nat) (bs : List WByte) (h : s.mem.wf = true) : (s.write t bs).mem.wf = true := by
  unfold State.write
  refine State.perform_mem_wf _ t bs ?_
  split
  · exact h
  · exact foldl_mem_wf _ (fun s l hs => State.meetFlaw_mem_wf s _ _ hs) _ s h

theorem State.push_mem_wf {s t : State} {e : PEntry} (h : s.push e = some t) (hm : s.mem.wf = true) : t.mem.wf = true := by
  unfold State.push at h
  dsimp only at h
  split at h
  · cases h
  · split at h
    · cases h; exact hm
    · cases h; exact State.write_mem_wf s s.tid _ hm

/-- What a meaning must answer for its step to keep the canonical form. -/
def Res.keepsForm : Res → Prop
  | .ok s | .goto s _ | .left s | .trapKeep s _ | .parked s => s.mem.wf = true
  | .trapOnly f _ | .streamWait _ f | .stallFor f => ∀ s : State, s.mem.wf = true → (f s).mem.wf = true
  | _ => True

theorem finish_mem_wf (n : Nat) (s0 s1 : State) (i m : Nat) (r : Res) (h0 : s0.mem.wf = true) (h1 : s1.mem.wf = true) (hr : r.keepsForm) :
    (finish n s0 s1 i m r).mem.wf = true := by
  have hu : s0.unqueue.mem.wf = true := by rw [State.unqueue_mem]; exact h0
  have hq (k : VClaim) : (s1.queueWait k).mem.wf = true := by rw [State.queueWait_mem]; exact h1
  have hc : s1.closeStreams.mem.wf = true := by rw [State.closeStreams_mem]; exact h1
  cases r with
  | ok _ | goto _ _ | left _ | parked _ => exact hr
  | trap _ => exact State.takeTrap_mem_wf _ _ _ hu
  | trapOnly _ _ => exact State.takeTrap_mem_wf _ _ _ (hr _ hu)
  | trapKeep _ _ => exact State.takeTrap_mem_wf _ _ _ hr
  | poll | pollAs _ | hold | miss _ _ => exact h1
  | closing => unfold finish; rw [State.setCtx_mem]; exact hc
  | streamWait k _ => unfold finish; rw [State.setCtx_mem]; exact hr _ (hq k)
  | missIn k _ _ => unfold finish; rw [State.setCtx_mem]; exact hq k
  | missFirst _ _ => exact h0
  | stall => simp only [finish]; split <;> exact h0
  | stallFor _ => exact hr _ h0

theorem pushRes_keepsForm (s : State) (e : PEntry) (h : s.mem.wf = true) : (pushRes s e).keepsForm := by
  unfold pushRes
  split
  · trivial
  · split
    · rename_i u hu; exact State.push_mem_wf hu h
    · trivial

theorem runBody_keepsForm {i : Instr} {sh : Shape} (hb : ∀ u : State, u.mem.wf = true → (sh.body u).keepsForm) (s : State)
    (h : s.mem.wf = true) : (runBody i sh s).keepsForm := by
  unfold runBody
  split
  · trivial
  · exact hb _ (meetRegions_mem_wf i s h)

/-- Issue() keeps the canonical form when the meaning does. -/
theorem issue_mem_wf {i : Instr} {sh : Shape} {s t : State} (h : s.mem.wf = true)
    (hb : ∀ u : State, u.mem.wf = true → (sh.body u).keepsForm) (he : issue i sh s = .next t) : t.mem.wf = true := by
  have hl : s.leaveQueue.mem.wf = true := by rw [State.leaveQueue_mem]; exact h
  have hw (k : VClaim) : (s.queueWait k).mem.wf = true := by rw [State.queueWait_mem]; exact h
  unfold issue at he
  dsimp only at he
  repeat' (split at he)
  all_goals (injection he with he; subst he; try rw [keepCap_mem])
  all_goals first
    | exact h
    | exact State.takeTrap_mem_wf _ _ _ h
    | exact hw _
    | exact State.beginYield_mem_wf _ _ _ h
    | exact State.beginYield_mem_wf _ _ _ hl
    | exact finish_mem_wf _ _ _ _ _ _ h h (runBody_keepsForm hb _ h)
    | exact finish_mem_wf _ _ _ _ _ _ h h (pushRes_keepsForm _ _ h)
    | exact finish_mem_wf _ _ _ _ _ _ h h h
    | exact finish_mem_wf _ _ _ _ _ _ hl h (runBody_keepsForm hb _ h)
    | exact finish_mem_wf _ _ _ _ _ _ hl h (pushRes_keepsForm _ _ h)

end Sys2Proof.Machine
end

