-- ==== Sys2Proof/Tests/Slice0.lean ====
section
/-! SUPPORT. Sys2Proof/Tests/Slice0.lean: tests of one step or one word each, and for every statement with hypotheses a state that meets them.
Words and values are those that the spec writes out, or are computed by hand from its tables. -/

set_option Elab.async false

namespace Sys2Proof.Tests

open Sys2Proof.Machine Sys2Proof.Claims

/-! ### Words of the spec (R58 and the examples of each section) -/

/-- Page and function extension; with PFX.R; with a PFX.I. -/
def pg (g : BitVec 4) (f : BitVec 6) : Pfx := { Pfx.none with p := some (g, f) }
def Reg (p : Pfx) (e : BitVec 5) (d4 a4 : Bool) : Pfx := { p with r := some ⟨e, d4, a4⟩ }
def Imm (p : Pfx) (i : BitVec 10) : Pfx := { p with imms := [i] }
/-- The words decode to the instruction, all of them. -/
def reads (ws : List Half) (i : Instr) : Bool := decodeWords ws == some (i, ws.length)

theorem test_decode_scalar : (reads [0x0001#16] (.nop Pfx.none 0#4 0#4) && reads [0x02C6#16] (.brk Pfx.none 0x2C#8) &&
    reads [0x0727#16] (.mfs Pfx.none 7#4 2#4) && reads [0xF020#16, 0x0317#16] (.mfs (Imm Pfx.none 0x20#10) 3#4 1#4) &&
    reads [0xF040#16, 0x0488#16] (.mts (Imm Pfx.none 0x40#10) 4#4 8#4) && reads [0x0509#16] (.rdcyc Pfx.none 5#4 0#4) &&
    reads [0x6300#16] (.cmpi Pfx.none 3#4 0#3 0#4) && reads [0x5122#16] (.cmp Pfx.none 1#4 2#4 2#3) &&
    reads [0xC001#16] (.pelse Pfx.none 0#4 0#4) && reads [0xD060#16] (.jr Pfx.none 0#4 6#4) && reads [0xD002#16] (.ret Pfx.none 0#4 0#4) &&
    reads [0x7342#16] (.ld Pfx.none 3#4 4#4 2#4) && reads [0xF006#16, 0x9123#16] (.lhu (Imm Pfx.none 6#10) 1#4 2#4)) = true := by
  decide +kernel

theorem test_decode_float : (reads [0xFA00#16, 0x1120#16] (.fadd (pg 8 0) 1#4 2#4) && reads [0xFA20#16, 0x4120#16] (.fclass (pg 8 0x20) 1#4 2#4) &&
    reads [0xFA00#16, 0x2121#16] (.fcmp (pg 8 0) 1#4 2#4 1#2) && reads [0xFA20#16, 0xF4C0#16, 0x1455#16] (.fma (Reg (pg 8 0x20) 6 false false) 4#4 5#4) &&
    reads [0xFA20#16, 0xFE20#16, 0x1123#16] (.fdiv { pg 8 0x20 with arith := some ⟨false, 2#3⟩ } 1#4 2#4) &&
    reads [0xFA00#16, 0xF460#16, 0x4721#16] (.fqnt (Reg (pg 8 0) 3 false false) 7#4 2#4)) = true := by decide +kernel

theorem test_decode_vector : (reads [0xF840#16, 0x5050#16] (.vbcast (pg 1 0) 0#4 5#4) && reads [0xF840#16, 0x5711#16] (.vext (pg 1 0) 7#4 1#4) &&
    reads [0xF840#16, 0xF410#16, 0x6C60#16] (.vbind (Reg (pg 1 0) 0 true false) 12#4 6#4) &&
    reads [0xF840#16, 0xF410#16, 0x6C01#16] (.vunbind (Reg (pg 1 0) 0 true false) 12#4 0#4) &&
    reads [0xF840#16, 0xF408#16, 0x68C2#16] (.vstat (Reg (pg 1 0) 0 false true) 8#4 12#4) &&
    reads [0xF850#16, 0xF630#16, 0x1433#16] (.vfma (Reg (pg 1 0x10) 17 true false) 4#4 3#4) &&
    reads [0xF858#16, 0xF420#16, 0x1202#16] (.vmul (Reg (pg 1 0x18) 1 false false) 2#4 0#4) &&
    reads [0xF850#16, 0x5104#16] (.vredadd (pg 1 0x10) 1#4 0#4) && reads [0xF840#16, 0x4040#16] (.vld (pg 1 0) 0#4 4#4) &&
    reads [0xF858#16, 0xF001#16, 0x7422#16] (.vcvt (Imm (pg 1 0x18) 1) 4#4 2#4 2#3)) = true := by decide +kernel

theorem test_decode_matrix : (reads [0xF890#16, 0xF020#16, 0x1151#16] (.mmaHold (Imm (pg 2 0x10) 32) 1#4 5#4) &&
    reads [0xF890#16, 0x1150#16] (.mmaRing (pg 2 0x10) 1#4 5#4) && reads [0xF890#16, 0xF001#16, 0x2200#16] (.mmv (Imm (pg 2 0x10) 1) 2#4 0#4) &&
    reads [0xF8B0#16, 0xFE80#16, 0x1040#16] (.mmaRing { pg 2 0x30 with arith := some ⟨true, 0#3⟩ } 0#4 4#4) &&
    reads [0xF890#16, 0x30B0#16] (.mldb (pg 2 0x10) 0#4 11#4) && reads [0xF880#16, 0x5300#16] (.mzero (pg 2 0) 3#4 0#4) &&
    reads [0xF880#16, 0xF408#16, 0xF003#16, 0x8140#16] (.mrow (Imm (Reg (pg 2 0) 0 false true) 3) 1#4 4#4) &&
    reads [0xF8A0#16, 0x6080#16] (.mst (pg 2 0x20) 0#4 8#4) && reads [0xF888#16, 0x7290#16] (.mld (pg 2 8) 2#4 9#4) &&
    reads [0xF880#16, 0xA131#16] (.mbankSpill (pg 2 0) 1#4 3#4)) = true := by decide +kernel

theorem test_decode_region : (reads [0xF8C0#16, 0x2030#16] (.gset (pg 3 0) 0#4 3#4) && reads [0xF8C0#16, 0x1122#16] (.gsub (pg 3 0) 1#4 2#4) &&
    reads [0xF8C0#16, 0xF440#16, 0x1312#16] (.gsub (Reg (pg 3 0) 2 false false) 3#4 1#4) && reads [0xF8C1#16, 0x3214#16] (.gcanon (pg 3 1) 2#4 1#4) &&
    reads [0xF8C0#16, 0x4151#16] (.gst (pg 3 0) 1#4 5#4) && reads [0xF8C0#16, 0x5211#16] (.gvol (pg 3 0) 2#4 1#4) &&
    reads [0xF8C0#16, 0xF440#16, 0xF002#16, 0x5013#16] (.gtest (Imm (Reg (pg 3 0) 2 false false) 2) 0#4 1#4)) = true := by decide +kernel

theorem test_decode_memory : (reads [0xF910#16, 0xF460#16, 0x1120#16] (.aadd (Reg (pg 4 0x10) 3 false false) 1#4 2#4) &&
    reads [0xF910#16, 0xF460#16, 0x128B#16] (.afaddcp (Reg (pg 4 0x10) 3 false false) 2#4 8#4) &&
    reads [0xF900#16, 0x2264#16] (.autld (pg 4 0) 2#4 6#4) && reads [0xF900#16, 0x2433#16] (.stq (pg 4 0) 4#4 3#4) &&
    reads [0xF900#16, 0x3030#16] (.prefLine (pg 4 0) 3#4) && reads [0xF900#16, 0x3110#16] (.prefRegion (pg 4 0) 1#4) &&
    reads [0xF900#16, 0x3131#16] (.invl1Line (pg 4 0) 3#4)) = true := by decide +kernel

theorem test_decode_tasks : (reads [0xF940#16, 0x1400#16] (.send (pg 5 0) 4#4 0#4) && reads [0xF940#16, 0x2340#16] (.wtarm (pg 5 0) 3#4 4#4) &&
    reads [0xF940#16, 0x2301#16] (.wtdis (pg 5 0) 3#4 0#4) && reads [0xF940#16, 0x4002#16] (.byield (pg 5 0) 0#4 0#4)) = true := by decide +kernel

theorem test_decode_engines : (reads [0xF980#16, 0xF4C0#16, 0x1210#16] (.copy (Reg (pg 6 0) 6 false false) 2#4 1#4) &&
    reads [0xF980#16, 0xF500#16, 0x3430#16] (.gpool (Reg (pg 6 0) 8 false false) 4#4 3#4) &&
    reads [0xF980#16, 0xF4C0#16, 0x4210#16] (.xred (Reg (pg 6 0) 6 false false) 2#4 1#4) &&
    reads [0xF9A0#16, 0xF4C0#16, 0x4210#16] (.xred (Reg (pg 6 0x20) 6 false false) 2#4 1#4) &&
    reads [0xF980#16, 0xF4C0#16, 0x4211#16] (.xbcast (Reg (pg 6 0) 6 false false) 2#4 1#4) &&
    reads [0xF980#16, 0xF4C0#16, 0x4212#16] (.xgath (Reg (pg 6 0) 6 false false) 2#4 1#4)) = true := by decide +kernel

theorem test_decode_system : (reads [0xF9C0#16, 0x1010#16] (.sysc (pg 7 0) 1#8) && reads [0xF9C0#16, 0x1001#16] (.tret (pg 7 0) 0#4 0#4) &&
    reads [0xF9C0#16, 0xF4A0#16, 0x1045#16] (.gangstopStop (Reg (pg 7 0) 5 false false) 4#4) &&
    reads [0xF9C0#16, 0xF4A0#16, 0x1346#16] (.tlbinv (Reg (pg 7 0) 5 false false) 3#4 4#4) &&
    reads [0xF9C0#16, 0x1747#16] (.regrd (pg 7 0) 7#4 4#4)) = true := by decide +kernel

/-- Words that are no instruction: an unlisted base word, an unlisted condition, a sixth prefix (R48, R58). -/
theorem test_decode_illegal : (decodeWords [0x0000#16] == some (.illegalInstruction (.word Pfx.none 0#16), 1) &&
    decodeWords [0x5128#16] == some (.illegalInstruction (.word Pfx.none 0x5128#16), 1) &&
    decodeWords [0xF001#16, 0xF001#16, 0xF001#16, 0xF001#16, 0xF001#16] == some (.illegalInstruction (.chain 5 0xF001#16), 0)) = true := by
  decide +kernel

/-- The encoder gives the spec's words. -/
theorem test_encode : (encode (.ld Pfx.none 3#4 4#4 2#4) == [0x7342#16] && (encode (.fma (Reg (pg 8 0x20) 6 false false) 4#4 5#4)).length ==
    3 && encode (.sysc (pg 7 0) 1#8) == [0xF9C0#16, 0x1010#16]) = true := by decide +kernel

/-! ### Ill-formed terms: five prefix words, the wrong page, a code that no row lists, a register out of its file (R48, R55, R58, R70) -/

theorem test_wf_chain : (Instr.add { Pfx.none with imms := [1, 2, 3, 4, 5] } 1#4 2#4).wf = false := by decide
theorem test_wf_page : (Instr.add (pg 8 0) 1#4 2#4).wf = false ∧ (Instr.fadd Pfx.none 1#4 2#4).wf = false := by decide
theorem test_wf_code : (Instr.hint (pg 14 0) 0xF000#16).wf = false ∧ (Instr.hint (pg 9 0) 0x1234#16).wf = false := by decide
theorem test_wf_operands : (Instr.add (Reg Pfx.none 0 true false) 1#4 2#4).wf = false ∧ (Instr.mzero (pg 2 0) 4#4 0#4).wf = false := by decide

/-! ### Small states -/

/-- A context of cell 0, slot 0: kernel mode; user mode with 1,000 units of each kind. -/
def kctx : Ctx := { Ctx.reset with live := true, mode := 1#2, pc := 0x1000#64, tvec := 0x2000#64, ident := 0x10000#64 }
def uctx : Ctx := { kctx with mode := 0#2, ibud := ⟨false, 1000#32⟩, mbud := ⟨false, 1000#32⟩, cont := 0x3000#64 }
def k0 : State := ({ State.reset with sel := ⟨0#16, 0#4, 0⟩ } : State).setCtx kctx
def u0 : State := k0.setCtx uctx
/-- Registers set. -/
def withRegs (s : State) (l : List (Nat × Word)) : State := l.foldl (fun s x => s.ws x.1 x.2) s
/-- With these entries on the predicate stack, top first. -/
def withStack (s : State) (l : List PEntry) : State := s.setCtx { s.ctx with pst := l }
def yes : PEntry := ⟨true, BitVec.allOnes 32⟩
def no : PEntry := ⟨false, 0#32⟩
/-- An address of the scratchpad of tile 0. -/
def sp (off : Nat) : Word := BitVec.ofNat 64 (scratchKey 0 off)
def isOk {α β : Type} : Except α β → Bool
  | .ok _ => true
  | .error _ => false
def isMem : Acc → Bool
  | .mem _ _ _ => true
  | _ => false
/-- The next state. -/
def nxt (i : Instr) (s : State) : State := match exec i s with | .next t => t | _ => State.reset
/-! ### Scalar instructions: the hypotheses of the statements, and results by hand from Tables 04-5 to 04-7 -/

/-- A two-operand result in s1. -/
def alu (i : Instr) (x y : Word) : Word := (nxt i (withRegs u0 [(1, x), (2, y)])).rs 1

theorem test_witness_integer : ([Instr.add, Instr.sub, Instr.and, Instr.or, Instr.xor, Instr.sll, Instr.srl, Instr.sra, Instr.min, Instr.max,
      Instr.minu, Instr.maxu, Instr.mov, Instr.clz, Instr.ctz, Instr.popc, Instr.sextb, Instr.sexth, Instr.sextw, Instr.zextb, Instr.zexth,
      Instr.zextw, Instr.bswap, Instr.addw, Instr.subw].all (fun mk => u0.issues (mk Pfx.none 1 2) .plain 1 0) &&
    [Instr.mul, Instr.mulh, Instr.mulhu].all (fun mk => u0.issues (mk Pfx.none 1 2) .plain 2 0) &&
    [Instr.div, Instr.divu, Instr.rem, Instr.remu].all (fun mk => u0.issues (mk Pfx.none 1 2) .plain 8 0) &&
    [Instr.addi, Instr.li].all (fun mk => u0.issues (mk Pfx.none 1 2) .plain 1 0)) = true := by decide +kernel

theorem test_values_integer : ([(Instr.add Pfx.none 1 2, -1, 1, 0), (.sub Pfx.none 1 2, 0, 1, -1), (.sll Pfx.none 1 2, 1, 65, 2),
      (.srl Pfx.none 1 2, -1, 63, 1), (.sra Pfx.none 1 2, 0x8000000000000000, 63, -1), (.mulh Pfx.none 1 2, -1, -1, 0),
      (.mulhu Pfx.none 1 2, -1, -1, 0xFFFFFFFFFFFFFFFE), (.min Pfx.none 1 2, -1, 1, -1), (.minu Pfx.none 1 2, -1, 1, 1),
      (.div Pfx.none 1 2, -7, 2, -3), (.rem Pfx.none 1 2, -7, 2, -1), (.div Pfx.none 1 2, 5, 0, -1), (.remu Pfx.none 1 2, 5, 0, 5),
      (.div Pfx.none 1 2, 0x8000000000000000, -1, 0x8000000000000000), (.clz Pfx.none 1 2, 7, 1, 63), (.ctz Pfx.none 1 2, 7, 0, 64),
      (.popc Pfx.none 1 2, 7, 0xF0F0, 8), (.sextb Pfx.none 1 2, 7, 0x80, -128), (.bswap Pfx.none 1 2, 7, 0x0102030405060708, 0x0807060504030201),
      (.addw Pfx.none 1 2, 0x7FFFFFFF, 1, 0xFFFFFFFF80000000), (.addi Pfx.none 1 0xFF#8, 0, 7, -1), (.li (Imm Pfx.none 3) 1 0xE8, 7, 7, 1000)].all
    fun (i, x, y, r) => alu i x y == r) = true := by decide +kernel

theorem test_witness_false_guard : (let s := withStack u0 [no]
    [Instr.spawn, Instr.start, Instr.dqpop, Instr.dqsteal, Instr.etest, Instr.gtest, Instr.geq, Instr.bgrant].all (fun mk =>
      let i := mk (pg (BitVec.ofNat 4 (mk Pfx.none 1 2).page) 0) 1 2
      s.canRun && !interlocked i s.ctx && i.wf && ((issueGuard .push (guardPfx i) s.ctx).map (·.s)) == some false &&
        !s.spillBusy && (s.ctx.charge 1 0).isLeft && (nxt i s).ctx.pst == [no, no]) &&
    [Instr.cmp Pfx.none 1 2 2, .cmpi Pfx.none 1 2 3, .fcmp (pg 8 0) 1 2 1, .vcmp (pg 1 0x10) 1 2 1].all (fun i =>
      !interlocked i s.ctx && i.wf && ((issueGuard .push (guardPfx i) s.ctx).map (·.s)) == some false && (nxt i s).ctx.pst == [no, no]) &&
    [Instr.vsel (pg 1 0x10) 1 2, .b Pfx.none 4, .ld Pfx.none 1 2 0, .li Pfx.none 1 3, .wdset (pg 7 0) 1 2, .wdset (pg 7 0) 0 2, .sysc (pg 7 0) 3].all (fun i =>
      let s := withStack u0 [no, no]
      !interlocked i s.ctx && i.wf && i.isWord && !structural i && !kernelOnly i &&
        ((issueGuard (guardMode i) (guardPfx i) s.ctx).map (·.s)) == some false && (nxt i s).ctx.ibud.count == 999#32) &&
    (let s := withStack k0 [no]
     let i := Instr.regrd (pg 7 0) 1 2
     !interlocked i s.ctx && i.wf && kernelOnly i && !s.ctx.user && ((issueGuard (guardMode i) (guardPfx i) s.ctx).map (·.s)) == some false &&
       (s.ctx.charge 1 0).isLeft && (nxt i s).ctx.pc == 0x1004) &&
    [Instr.nop, Instr.fence, Instr.exit, Instr.add, Instr.div, Instr.sw, Instr.callr, Instr.vadd, Instr.vst, Instr.mmaRing, Instr.mst, Instr.gint,
      Instr.gst, Instr.aadd, Instr.sts, Instr.send, Instr.susp, Instr.byield, Instr.copy, Instr.hpoffer, Instr.fdiv].all (fun mk =>
      let i := mk (pg (BitVec.ofNat 4 (mk Pfx.none 1 2).page) 0) 1 2
      s.canRun && !interlocked i s.ctx && i.wf && ((issueGuard .plain (guardPfx i) s.ctx).map (·.s)) == some false &&
        (s.ctx.charge 1 0).isLeft && (nxt i s).ctx.ibud.count == 999#32)) = true := by decide +kernel

/-- Depths 15, 16 and 64 of a push. -/
theorem test_witness_push : (let s (n m : Nat) := k0.setCtx { kctx with pst := List.replicate n yes, spilled := m }
    ((s 15 0).push no).isSome && (((s 16 0).push no).map (·.ctx.spilled)) == some 1 && (((s 16 47).push no).map (·.ctx.spilled)) == some 48 &&
    ((s 16 48).push no).isNone && (s 16 0).flaws == []) = true := by decide +kernel

theorem test_witness_predicates : (let s := withStack u0 [no, yes]
    [Instr.pend, Instr.pelse, Instr.pand, Instr.por, Instr.pdup, Instr.pset, Instr.pget, Instr.pcnt].all (fun mk =>
      s.issues (mk Pfx.none 1 2) .never 1 0 && decide (2 ≤ s.ctx.pdepth)) && !s.spillBusy &&
    (let s := k0.setCtx { kctx with pst := List.replicate 16 yes, spilled := 48 }
     [Instr.pset, Instr.pdup].all fun mk => s.issues (mk Pfx.none 1 2) .never 1 0 && !s.spillBusy && s.ctx.paid == none && s.ctx.pdepth == 64 &&
       (nxt (mk Pfx.none 1 2) s).ctx.tcause == 9) &&
    (nxt (.pelse Pfx.none 1 2) s).ctx.pst == [yes, yes] && (nxt (.pand Pfx.none 1 2) s).ctx.pst == [no] &&
    (nxt (.por Pfx.none 1 2) s).ctx.pst == [yes] && (nxt (.pget Pfx.none 1 2) s).rs 1 == 0 && (nxt (.pcnt Pfx.none 1 2) s).rs 1 == 2 &&
    (u0.issues (.pand Pfx.none 1 2) .never 1 0 && (nxt (.pand Pfx.none 1 2) (withStack u0 [yes])).ctx.tcause == 0x0D)) = true := by decide +kernel

theorem test_witness_compare : (u0.issues (.cmp Pfx.none 1 2 2) .push 1 0 && u0.issues (.cmpi Pfx.none 1 2 3) .push 1 0 &&
    (let s := withRegs u0 [(1, -1), (2, 1)]
     (nxt (.cmp Pfx.none 1 2 2) s).ctx.pst == [yes] && (nxt (.cmp Pfx.none 1 2 4) s).ctx.pst == [no]) &&
    (nxt (.cmp { Pfx.none with guard := some ⟨false, 1⟩ } 1 2 2) (withStack u0 [yes])).ctx.tcause == 0x0D &&
    (nxt (.cmpi Pfx.none 1 2 3) (withStack u0 [no])).ctx.pst == [no, no] &&
    (let s := k0.setCtx { kctx with pst := List.replicate 16 yes, spilled := 48 }
     s.ctx.pdepth == 64 && (issueGuard .push Pfx.none s.ctx).isSome && (nxt (.cmp Pfx.none 1 2 2) s).ctx.tcause == 9)) = true := by decide +kernel

theorem test_witness_branches : (let s := withRegs (withStack u0 [yes, yes]) [(6, 0x4000), (14, 0x5000)]
    s.issues (.b Pfx.none 4) .plain 1 0 && s.issues (.j Pfx.none 4) .plain 1 0 && s.issues (.call Pfx.none 4) .plain 1 0 &&
    s.issues (.bt Pfx.none 4) .never 1 0 && s.issues (.bf Pfx.none 4) .never 1 0 &&
    [Instr.bt, Instr.bf].all (fun mk => u0.issues (mk Pfx.none 4) .never 1 0 && u0.ctx.paid == none && !u0.spillBusy && u0.ctx.pst == [] &&
      (nxt (mk Pfx.none 4) u0).ctx.tcause == 0x0D && (nxt (mk Pfx.none 4) u0).ctx.ibud.count == 1000) && ((s.charged 1 0).pop).isSome &&
    [Instr.jr, Instr.callr, Instr.ret].all (fun mk => s.issues (mk Pfx.none 0 6) .plain 1 0) &&
    (nxt (.b Pfx.none 0xFE) s).ctx.pc == 0xFFC && (nxt (.call Pfx.none 4) s).rs 14 == 0x1002 && (nxt (.bt Pfx.none 4) s).ctx.pc == 0x1008 &&
    (nxt (.bf Pfx.none 4) s).ctx.pc == 0x1002 && (nxt (.jr Pfx.none 0 6) s).ctx.pc == 0x4000 && (nxt (.ret Pfx.none 0 0) s).ctx.pc == 0x5000 &&
    [Instr.jr, Instr.callr].all (fun mk => (nxt (mk Pfx.none 0 6) (withRegs s [(6, 0x4001)])).ctx.taddr == 0x4001) && s.ctx.paid == none &&
    (nxt (.ret Pfx.none 0 6) (withRegs s [(14, 0x4003)])).ctx.taddr == 0x4003) = true := by decide +kernel

theorem test_witness_traps : (let s := k0.setCtx { uctx with tvec := 0x2000 }
    (s.takeTrap ⟨8, 0x1000, 5, none⟩ 2).ctx.tstat == 0x24 && (s.takeTrap ⟨8, 0x1000, 5, none⟩ 2).ctx.mode == 1 &&
    (s.takeTrap ⟨8, 0x1000, 5, none⟩ 2).ctx.pc == 0x2000 && (s.takeTrap ⟨8, 0x1000, 5, none⟩ 2).ctx.tcause == 8 &&
    ((s.setCtx { uctx with tvec := 0 }).takeTrap ⟨8, 0x1000, 5, none⟩ 2).ctx.double && decide (s.cid < numCells ∧ s.sid ≤ 10)) = true := by
  decide +kernel

/-- The ring of the MTU of span 0 at offset 0x8000 of service tile 2,560, empty and full. -/
def ring (n : Nat) : State := { k0 with mtus := [(0, { (k0.mtu 0) with fqb := BitVec.ofNat 64 (scratchKey 2560 0x8000), tail := 3, sent := List.replicate n 9 })] }
theorem test_witness_double : (let t (n : Nat) := (ring n).doubleTrap ⟨8, 0x1234, 5, none⟩
    (ring 0).mem.wf && decide (scratchBase ≤ ((ring 0).mtu 0).fqb.toNat) && (((ring 0).mtu 0).fqb.toNat - scratchBase) / scratchSize == 2560 &&
    rd64 (t 0).mem (scratchKey 2560 0x8060) == 0x1234 && ((t 0).mtu 0).sent.length == 1 && ((t 64).mtu 0).held.length == 1 && (t 64).mem == [] &&
    (t 64).ctx.double) = true := by decide +kernel

theorem test_witness_tret : (let s := k0.setCtx { kctx with tpc := 0x6000, tstat := 0x24 }
    s.issues (.tret (pg 7 0) 0 0) .plain 1 0 && !s.ctx.user && (nxt (.tret (pg 7 0) 0 0) s).ctx.mode == 0 &&
    (nxt (.tret (pg 7 0) 0 0) s).ctx.pc == 0x6000 && (nxt (.tret (pg 7 0) 0 0) s).ctx.tstat == 0x20 &&
    (nxt (.tret (pg 7 0) 0 0) (s.setCtx { kctx with tpc := 0x6001 })).ctx.tcause == 4 && (nxt (.tret (pg 7 0) 0 0) u0).ctx.tcause == 3 &&
    u0.canRun && !interlocked (.tret (pg 7 0) 0 0) u0.ctx && (Instr.tret (pg 7 0) 0 0).wf && u0.ctx.user) = true := by
  decide +kernel

theorem test_witness_system : ([Instr.nop, Instr.rdcyc, Instr.yield].all (fun mk => u0.issues (mk Pfx.none 1 2) .plain 1 0) &&
    u0.issues (.hint (pg 14 0) 0x1234) .never 1 0 && (nxt (.yield Pfx.none 0 0) u0).ctx.pass && (nxt .yieldPassEnd (nxt (.yield Pfx.none 0 0) u0)).ctx.pass == false &&
    ([0, 1, 2, 3].all fun o => u0.issues (.fence { Pfx.none with order := some ⟨4, o⟩ } 0 0) .plain 1 0 && u0.released 4) &&
    ([.load 0x100 8 false false 3 4 none none, .store [] 4 .plain] : List Pend).all (fun x =>
      let s := u0.addPend x
      let i (o : BitVec 2) := Instr.fence { Pfx.none with order := some ⟨4, o⟩ } 0 0
      s.issues (i 2) .plain 1 0 && !s.released 4 && (nxt (i 2) s).ctx.wait == .hold && s.issues (i 0) .plain 1 0 &&
        (nxt (i 0) s).ctx.wait == .none) &&
    u0.issues (.sysc (pg 7 0) 1) .plain 2 0 && (nxt (.sysc (pg 7 0) 1) u0).ctx.tcause == 0x11) = true := by decide +kernel

theorem test_witness_trap_brk : (u0.issues (.trap Pfx.none 0 3) .plain 1 0 && u0.issues (.brk Pfx.none 0x2C) .plain 1 0 &&
    (nxt (.brk Pfx.none 0x2C) u0).ctx.tinfo == 0x2C && (nxt (.trap Pfx.none 0 3) (withRegs u0 [(3, 77)])).ctx.tinfo == 77 &&
    (nxt (.brk Pfx.none 0x2C) (withStack u0 [no])).ctx.pc == 0x1002) = true := by decide +kernel

/-- MFS and MTS: the first and the last number of each group of Table 04-3 and of the unlisted ones (R81). -/
theorem test_witness_specials : (let i (n : Nat) := Instr.mfs (Imm Pfx.none (BitVec.ofNat 10 n)) 5 (BitVec.ofNat 4 n)
    let o (n : Nat) := Instr.mts (Imm Pfx.none (BitVec.ofNat 10 n)) 5 (BitVec.ofNat 4 n)
    [0, 4, 5, 7, 8, 9, 0xA, 0xF, 0x10, 0x16, 0x17, 0x1F, 0x20, 0x23, 0x24, 0x2F, 0x30, 0x31, 0x32, 0x3F, 0x40, 0x45, 0x46, 0x47, 0x48, 0x4B, 0x4C,
      0x4F, 0x50, 0x57, 0x58, 0x5F, 0x60, 0x61, 0x6F, 0x70, 0x71, 0x3FF].all (fun n => k0.issues (i n) .plain 1 0 && k0.issues (o n) .plain 1 0) &&
    k0.flagsIn && !k0.tilePushes k0.tid && k0.myTile.run == .running && k0.loggedFor 0 5 == [] && k0.myTile.ingress == none && (nxt (i 0x21) k0).rs 5 == 32 && (nxt (o 0x21) (withRegs k0 [(5, 7)])).ctx.vcnt == 7 && (nxt (i 9) k0).rs 5 == 1 &&
    (nxt (i 0x3FF) (withRegs k0 [(5, 7)])).rs 5 == 0 && (nxt (o 0x48) (withRegs k0 [(5, 7)])).ctx.ks == #v[7, 0, 0, 0] &&
    u0.issues (o 0x20) .plain 1 0 && u0.issues (i 0x30) .plain 1 0 && (nxt (o 8) u0).ctx.tcause == 3 && (nxt (o 8) u0).ctx.tinfo == 8 &&
    u0.issues (i 0x40) .plain 0 0 && (u0.ctx.charge 0 0).isLeft && (nxt (i 0x40) u0).ctx.tcause == 3) = true := by decide +kernel

/-! ### Loads and stores -/

theorem test_witness_loads : (let s := withRegs u0 [(4, sp 0x100)]
    ([(Instr.ld Pfx.none 3 4 2, sp 0x110, 8), (.lb (Imm Pfx.none 3) 3 4, sp 0x103, 1), (.lbu (Imm Pfx.none 3) 3 4, sp 0x103, 1),
      (.lh (Imm Pfx.none 2) 3 4, sp 0x102, 2), (.lhu (Imm Pfx.none 2) 3 4, sp 0x102, 2), (.lw (Imm Pfx.none 4) 3 4, sp 0x104, 4),
      (.lwu (Imm Pfx.none 4) 3 4, sp 0x104, 4), (.st Pfx.none 3 4 2, sp 0x110, 8), (.sb (Imm Pfx.none 3) 3 4, sp 0x103, 1),
      (.sh (Imm Pfx.none 2) 3 4, sp 0x102, 2), (.sw (Imm Pfx.none 4) 3 4, sp 0x104, 4)] : List (Instr × Word × Nat)).all fun (i, va, n) =>
      traffic s va n == 0 && s.issues i .plain 1 0 && !s.ctx.vmemPending && isMem (s.access s.cid true .read va.toNat n) &&
      isMem (s.access s.cid true .write va.toNat n) && (nxt i s).ctx.pend.length == 1 && (nxt i s).ctx.pc == s.ctx.pc + BitVec.ofNat 64 (2 * i.ilen))
      = true := by decide +kernel

/-- A load and a store through window 1: 256 f32 elements at the start of the scratchpad, delivered as f32 (07 R182). -/
def windowed : State := withRegs (u0.setMyTile { u0.myTile with win := vset u0.myTile.win 1 0x10000000011 }) [(3, 0x3F800000), (4, BitVec.ofNat 64 (windowBase + 0x1000000))]
theorem test_witness_window : (let s := windowed
    let i := Instr.lw Pfx.none 3 4
    let j := Instr.sw Pfx.none 3 4
    s.issues i .plain 1 0 && s.issues j .plain 1 0 && traffic s (s.rs 4) 4 == 0 && (s.rs 4).toNat % 4 == 0 && !s.ctx.acqPending &&
    (match s.access 0 true .read (s.rs 4).toNat 4, s.access 0 true .write (s.rs 4).toNat 4 with | .win 1 0, .win 1 0 => true | _, _ => false) &&
    (match winRead s 0 true s.pendTouches 1 0 4 (s.rs 4) with | .ok bs => bs.length == 4 | _ => false) &&
    (match winWrite s 0 s.ctx s.pendTouches 1 0 (s.rs 4) (leBytes 4 0x3F800000) with | .ok (bs, _) => bs.length == 4 | _ => false) &&
    (nxt i s).ctx.pend.length == 1 && rdN (nxt .storePerformed (nxt j s)).mem (scratchKey 0 0) 4 == 0x3F800000) = true := by decide +kernel

/-- A correctable error of a line that a load meets: corrected, and logged at the tile (R244, 14 R360). -/
theorem test_witness_flaw : (let s : State := { u0 with flaws := [(.line (scratchKey 0 0x100 / 64), false)] }
    let x := nxt (.ld Pfx.none 3 4 0) (withRegs s [(4, sp 0x100)])
    let t := nxt .loadComplete x
    x.inOrder 0 && t.flaws == [] && t.myTile.elogT == 1 && t.myTile.elogL == 0) = true := by decide +kernel

/-- A store through an acquire part (log entry 11), with and without a pending access; both address rules of a window. -/
theorem test_witness_store_acquire : (let s := withRegs u0 [(3, 0x1122334455667788), (4, sp 0x100)]
    let i := Instr.st { Pfx.none with order := some ⟨1, 1⟩ } 3 4 0
    s.issues i .plain 1 0 && !s.pendMeets (wbytes (scratchKey 0 0x100) (leBytes 8 5)) && s.flaws == [] && rd64 (nxt i s).mem (scratchKey 0 0x100) == 0x1122334455667788 &&
    isOk (s.storePiece (sp 0x100) (leBytes 8 5)) && (nxt i (s.addPend (.store [] 0 .plain))).ctx.wait == .hold) = true := by decide +kernel

/-- LD then LOAD_COMPLETE: bytes 0x80 extended; ST then STORE_PERFORMED: the low byte lies at the lowest address (R4). -/
theorem test_access_performed : (let s := withRegs ({ u0 with mem := wrBytes u0.mem (scratchKey 0 0x100) [0x80, 0xFF] } : State) [(4, sp 0x100), (5, 0x0102)]
    let x := nxt (.lh Pfx.none 3 4) s
    let y := nxt (.sh Pfx.none 5 4) s
    x.inOrder 0 && y.inOrder 0 && x.flaws == [] && (nxt .loadComplete x).rs 3 == 0xFFFFFFFFFFFFFF80 && (nxt .loadComplete x).ctx.pend == [] &&
    rdBytes (nxt .storePerformed y).mem (scratchKey 0 0x100) 3 == [2, 1, 0] && (nxt .storePerformed y).mem.wf) = true := by decide +kernel

theorem test_misaligned : (let s := withRegs u0 [(4, sp 0x101)]
    [Instr.ld Pfx.none 3 4 0, .st Pfx.none 3 4 0, .lh Pfx.none 3 4, .lhu Pfx.none 3 4, .sh Pfx.none 3 4, .lw Pfx.none 3 4, .lwu Pfx.none 3 4,
      .sw Pfx.none 3 4].all fun i => s.issues i .plain 1 0 && (nxt i s).ctx.tcause == 4 && (nxt i s).ctx.taddr == sp 0x101) = true := by decide +kernel

theorem test_witness_encoding_traps : ([Instr.tret (pg 7 0) 0 0, .tlbinv (pg 7 0) 0 0, .regrd (pg 7 0) 0 0, .btop (pg 5 0) 0 0, .mbankSel (pg 2 0) 0 0,
      .ctxsvCtx (pg 7 0) 0, .ctxldReg (pg 7 0) 0, .pmreqGo (pg 7 0) 0, .gangstopRestart (pg 7 0) 0].all (fun i =>
      u0.canRun && !interlocked i u0.ctx && i.wf && u0.ctx.user && (nxt i u0).ctx.tcause == 3) &&
    (nxt (.illegalInstruction (.word (pg 1 0x10) 0x0005)) u0).ctx.tinfo == 0x1010005 &&
    (nxt (.illegalInstruction (.chain 5 0xF001)) u0).ctx.tcause == 2 && (nxt (.illegalInstruction (.chain 5 0xF001)) u0).ctx.tinfo == 0x5F001) = true := by
  decide +kernel

/-! ### Floating point: results by hand from IEEE 754 codes -/

def flt (i : Instr) (x y : Word) : Word × BitVec 8 := let t := nxt i (withRegs u0 [(1, x), (2, y)]); (t.rs 1, t.ctx.fcsr >>> 3)

theorem test_witness_float : ([Instr.fadd, Instr.fsub, Instr.fmul, Instr.fma, Instr.fmin, Instr.fmax, Instr.fabs, Instr.fneg, Instr.fclass,
      Instr.fqnt].all (fun mk => u0.issues (mk (pg 8 0) 1 2) .plain 1 0) && [Instr.fdiv, Instr.fsqrt].all (fun mk => u0.issues (mk (pg 8 0x20) 1 2) .plain 8 0) &&
    u0.issues (.fcvt (pg 8 0) 1 2 4) .plain 1 0 && u0.issues (.fcmp (pg 8 0) 1 2 1) .push 1 0) = true := by decide +kernel

/-- R190's special cases: 1 + inf, 1 - inf, inf * inf, sqrt inf, inf * 0 + NaN, inf + -inf under FMA, 1 - 1 under FMA, a signalling addend. -/
theorem test_witness_float_specials : (fadd fmtF32 .rne 0x3F800000 0x7F800000 == (0x7F800000, 0#5) &&
    fsub fmtF32 .rne 0x3F800000 0x7F800000 == (0xFF800000, 0#5) && fmul fmtF32 .rne 0x7F800000 0xFF800000 == (0xFF800000, 0#5) &&
    fsqrt fmtF32 .rne 0x7F800000 == (0x7F800000, 0#5) && fsqrt fmtF32 .rne 0xFF800000 == (0x7FC00000, fNV) &&
    fsqrt fmtF32 .rne 0x7F800001 == (0x7FC00000, fNV) && ffma fmtF32 .rne 0x7FC00000 0x7F800000 0 == (0x7FC00000, fNV) &&
    ffma fmtF32 .rne 0xFF800000 0x7F800000 0x3F800000 == (0x7FC00000, fNV) && ffma fmtF32 .rne 0x7F800000 0x3F800000 0x3F800000 == (0x7F800000, 0#5) &&
    ffma fmtF32 .rdn 0xBF800000 0x3F800000 0x3F800000 == (0x80000000, 0#5) && ffma fmtF32 .rne 0x7F800001 0x3F800000 0x3F800000 == (0x7FC00000, fNV) &&
    ffma fmtF32 .rne 0x3F800000 0x7F800000 0xBF800000 == (0xFF800000, 0#5) &&
    fcompare fmtF32 .lt 0x3F800000 0x7F800000 == (true, 0#5) && fcompare fmtF32 .le 0x7F800000 0x7F800000 == (true, 0#5) &&
    fcompare fmtF32 .lt 0x7F800000 0xFF800000 == (false, 0#5)) = true := by decide +kernel

theorem test_values_float : (([(Instr.fadd (pg 8 0) 1 2, 0x3F800000, 0x40000000, 0x40400000, 0), (.fsub (pg 8 0) 1 2, 0x3F800000, 0x3F800000, 0, 0),
      (.fmul (pg 8 0) 1 2, 0x40000000, 0x40400000, 0x40C00000, 0), (.fdiv (pg 8 0) 1 2, 0x3F800000, 0, 0x7F800000, 8),
      (.fdiv (pg 8 0) 1 2, 0x3F800000, 0x40400000, 0x3EAAAAAB, 1), (.fsqrt (pg 8 0) 1 2, 0, 0x40800000, 0x40000000, 0),
      (.fmin (pg 8 0) 1 2, 0x80000000, 0, 0x80000000, 0), (.fneg (pg 8 0) 1 2, 0, 0x3F800000, 0xBF800000, 0),
      (.fadd (pg 8 0) 1 2, 0x7F7FFFFF, 0x7F7FFFFF, 0x7F800000, 5)] : List (Instr × Word × Word × Word × BitVec 8)).all
    fun (i, x, y, r, f) => flt i x y == (r, f)) = true := by decide +kernel

/-- FMIN and FMAX, FCLASS (a code of each bit), conversions and Q4N codes: Tables 07-2 and 07-5, R171, R176, R190, R193. -/
theorem test_values_float_cases : (fminmax fmtF32 false 0x7FC00000 0x3F800000 == (0x3F800000, 0#5) && fminmax fmtF32 true 0x3F800000 0x7F800001 == (0x3F800000, fNV) &&
    fminmax fmtF32 true 0x7FC00001 0xFFC00000 == (0x7FC00000, 0#5) && fminmax fmtF32 true 0x80000000 0 == (0, 0#5) && fminmax fmtF32 false 0xFF800000 0x3F800000 == (0xFF800000, 0#5) &&
    fminmax fmtF32 true 0x3F800000 0x40000000 == (0x40000000, 0#5) && fminmax fmtF32 true 0x40000000 0x3F800000 == (0x40000000, 0#5) && fminmax fmtF32 true 1 1 == (1, 0#5) &&
    [0xFF800000, 0xBF800000, 0x80000001, 0x80000000, 0, 1, 0x3F800000, 0x7F800000, 0x7F800001, 0x7FC00000].map (fclassOf fmtF32) == [1, 2, 4, 8, 16, 32, 64, 128, 256, 512] &&
    convert .f32 .i8 .rne false 0x43964000 == (127, fNV) && convert .f32 .i8 .rne false 0x40200000 == (2, fNX) && convert .f32 .i8 .rna false 0x40200000 == (3, fNX) &&
    convert .i64 .i8 .rne false 300 == (44, 0#5) && convert .i64 .i8 .rne true 300 == (127, fNV) && convert .i64 .i8 .rne false 100 == (100, 0#5) &&
    convert .f32 .e4m3n .rne false 0x7F800000 == (0x7F, fOF ||| fNX) && convert .f32 .i32 .rne false 0x7FC00000 == (0, fNV) && convert .f32 .i32 .rne false 0xFF800000 == (2 ^ 31, fNV) &&
    convert .f32 .e5m2n .rne false 0x7F800001 == (0x80, fNV) && convert .f32 .f64 .rne false 0x7F800000 == (0x7FF0000000000000, 0#5) && convert .f32 .f64 .rne false 0x3F800000 == (0x3FF0000000000000, 0#5) &&
    (let q (x b : Nat) := q4Encode (fmtF32.decode x) b
     [0x3DCCCCCD, 0x3DF58000, 0xBC23D70A, 0x80000000, 0x3F800000].map (q · 0x3E800000) == [(12, fNX), (12, fNX), (7, fNX), (8, fNX), (15, fNX)] &&
     q 0x7FC00000 0x3E800000 == (8, fNV) && q 0 0 == (8, fNV) && q 0x3F800000 0 == (8, fNV ||| fNX) && q 0x7F800000 0x7F800000 == (8, fNV) &&
     q 0x3F800000 0x7F800000 == (8, fNX) && q 0xFF800000 0x3E800000 == (0, fNX))) = true := by decide +kernel

theorem test_witness_round : (roundVal fmtF32 .rup (fmtF32.decode 0x3F800000) == (0x3F800000, 0#5) && [fmtF64, fmtF32, fmtF16, fmtBf16, fmtE4m3n, fmtE5m2n].all (fun f =>
    match f.decode 1 with | .fin false 1 _ => true | _ => false)) = true := by decide +kernel

theorem test_fcmp : (let s := withRegs u0 [(1, 0x7FC00000), (2, 0x3F800000)]
    (nxt (.fcmp (pg 8 0) 1 2 1) s).ctx.pst == [no] && (nxt (.fcmp (pg 8 0) 1 2 3) s).ctx.pst == [yes] &&
    (nxt (.fcmp (pg 8 0) 1 2 1) s).ctx.fcsr >>> 3 == 16) = true := by decide +kernel

/-! ### Vectors and streams -/

def pv (f : BitVec 6) : Pfx := pg 1 f
/-- What the statements of the vector instructions ask of a state. -/
def vecFree (i : Instr) (gm : GuardMode) (n : Nat) (srcs : List Nat) (dst : Option Nat) (s : State) : Bool :=
  let u := s.charged n 0
  s.issues i gm n 0 && !misuse srcs dst u && s.vroom && !(if u.onStream (srcs ++ dst.toList) then u.vbusy else u.vheld srcs dst.toList) && isOk (popAll u srcs) &&
    (match dst with | some d => isOk (putLanes d ⟨zeroLanes, BitVec.allOnes 32, 0#5⟩ u) | none => true)
/-- v1 := lanes of `x`, v2 := lanes of `y`. -/
def lanes2 (s : State) (x y : BitVec 32) : State := (s.wv 1 (mkLanes fun _ => x)).wv 2 (mkLanes fun _ => y)

theorem test_witness_vector_arith : ([Instr.vadd, Instr.vsub, Instr.vmul, Instr.vmin, Instr.vmax, Instr.vabs, Instr.vneg, Instr.vand, Instr.vor,
      Instr.vxor, Instr.vnot, Instr.vshl, Instr.vshr, Instr.vsra, Instr.vfma, Instr.vperm].all (fun mk =>
      vecFree (mk (pv 0x20) 1 2) .plain 1 [1, 2] (some 1) u0) &&
    vecFree (.vsel (pv 0x10) 1 2) .select 1 [1, 2] (some 1) (withStack u0 [yes]) && ((withStack u0 [yes]).ctx.entryAt 0 false).isSome) = true := by
  decide +kernel

/-- Lane 3 of v1 after one instruction on v1 and v2: f32, i32 saturated, n8x4 by hand (R209, R210). -/
theorem test_values_vector : (([(Instr.vadd (pv 0x10) 1 2, 0x3F800000, 0x40000000, 0x40400000), (.vand (pv 0x10) 1 2, 0xFF00, 0x0FF0, 0x0F00),
      (.vnot (pv 0x10) 1 2, 0, 0xFFFF0000, 0x0000FFFF), (.vmul (pv 0x10) 1 2, 0x40000000, 0x40400000, 0x40C00000),
      (.vneg (pv 0x10) 1 2, 0, 0x3F800000, 0xBF800000)] : List (Instr × BitVec 32 × BitVec 32 × BitVec 32)).all fun (i, x, y, r) =>
    lane ((nxt i (lanes2 u0 x y)).rv 1) 3 == r) = true := by decide +kernel

/-- Lanes at and beyond vcnt, and lanes outside the guard's mask, stay (R44, R195). -/
theorem test_vector_lanes : (let s := (withStack (lanes2 u0 1 2) [⟨true, 0x00000006#32⟩])
    let s := s.setCtx { s.ctx with vcnt := 2#32 }
    let t := nxt (.vxor (pv 0x10) 1 2) s
    activeMask (pv 0x10) s == 2 && lane (t.rv 1) 0 == 1 && lane (t.rv 1) 1 == 3 && lane (t.rv 1) 2 == 1) = true := by decide +kernel

/-- The tree of R214: 2^24 at element 0 and 1.0 at elements 1 and 2 (the second pair's 1.0 is added to 2^24, 2^24 + 1 rounds back); a lone
signalling NaN; no active element; a saturating and a wrapping add. -/
theorem test_reduction_tree : (let v := mkLanes fun i => if i = 0 then 0x4B800000#32 else if i = 1 ∨ i = 2 ∨ i = 3 then 0x3F800000 else 0
    let T := vtyOf 2
    (reduceFlt T 15 v (fadd fmtF32 .rne) 0).1 == 0x4B800001 && (reduceFlt T 7 v (fadd fmtF32 .rne) 0).1 == 0x4B800000 &&
    reduceFlt T 1 (mkLanes fun _ => 0x7F800001) (fadd fmtF32 .rne) 0 == (0x7FC00000, fNV) &&
    reduceFlt T 0 v (fminmax fmtF32 false) 0x7F800000 == (0x7F800000, 0#5) && reduceInt (vtyOf 6) 1 (mkLanes fun _ => 0x80FF0102) (· + ·) 0 == 0xFFFFFF82 &&
    redAdd (vtyOf 0) true (2 ^ 31 - 1) 5 == 2 ^ 31 - 1 && redAdd (vtyOf 0) false (2 ^ 31 - 1) 1 == -2 ^ 31 && redAdd (vtyOf 1) false (2 ^ 32 - 1) 1 == 0) = true := by
  decide +kernel

theorem test_witness_lane_ops : (vecFree (.vcmp (pv 0x10) 1 2 1) .push 1 [1, 2] none u0 && !u0.spillBusy && (u0.push yes).isSome &&
    vecFree (.vbcast (pv 0) 1 2) .plain 1 [] (some 1) u0 && vecFree (.vins (pv 0) 1 2) .plain 1 [1] (some 1) u0 &&
    vecFree (.vext (pv 0) 1 2) .plain 1 [2] none u0 && vecFree (.viota (pv 0x10) 1 2) .plain 1 [] (some 1) u0 &&
    [Instr.vredadd, Instr.vredmin, Instr.vredmax].all (fun mk => vecFree (mk (pv 0x10) 1 2) .plain 1 [2] (some 1) u0) &&
    [0, 1].all (fun k => vecFree (.vcvt (Imm (pv 0x10) k) 1 2 3) .plain 1 [2] (some 1) u0) &&
    (nxt (.vcmp (pv 0x10) 1 2 1) (lanes2 u0 0x3F800000 0x40000000)).ctx.pst == [⟨true, BitVec.allOnes 32⟩] &&
    (nxt (.vredadd (pv 0x10) 1 2) (lanes2 u0 7 0x3F800000)).rv 1 == mkLanes (fun i => if i = 0 then 0x42000000 else 7) &&
    (nxt (.vext (Imm (pv 0) 5) 7 1) (lanes2 u0 9 0)).rs 7 == 9 &&
    (let i := Instr.vcvt (Imm (pv 0x10) 2) 1 2 3
     !interlocked i u0.ctx && i.wf && ((issueGuard .plain (guardPfx i) u0.ctx).map (·.s)) == some true && (nxt i u0).ctx.tcause == 1 && (nxt i (withStack u0 [no])).ctx.pc == 0x1006) &&
    (let s := lanes2 u0 0x7FC00000 0x40000000
     (nxt (.vcmp (pv 0x10) 1 2 2) s).myCell.vq.map (·.flags) == [fNV] && (nxt (.vcmp (pv 0x10) 1 2 0) s).myCell.vq.map (·.flags) == [0#5])) = true := by decide +kernel

theorem test_witness_vmem : (let s := withRegs u0 [(4, sp 0x100), (5, 8)]
    let p := Reg (pv 0) 5 false false
    [Instr.vld (pv 0) 1 4, .vst (pv 0) 1 4, .vlds p 1 4, .vsts p 1 4, .vgath p 1 4, .vscat p 1 4].all (fun i =>
      vecFree i .plain 2 [] (some 1) s && !s.ctx.accessHeld && s.vroom && !s.vbusy && peekable [5] s) && isOk (popAll (s.charged 2 0) [1, 5]) &&
    isOk (checkLanes s (fun i => s.rs 4 + BitVec.ofNat 64 (8 * i)) (lanesOf (activeMask p s))) &&
    isOk (readLanes s (fun i => s.rs 4 + BitVec.ofNat 64 (8 * i)) (lanesOf (activeMask p s))) &&
    isOk (storeLanes s (fun i => s.rs 4 + BitVec.ofNat 64 (8 * i)) zeroLanes (lanesOf (activeMask p s))) &&
    vmemTraffic p (fun s i => s.rs 4 + BitVec.ofNat 64 (8 * i)) s == 0 &&
    (nxt (.vst (pv 0) 1 4) s).ctx.pend.length == 32 &&
    (let i := Instr.vst { pv 0 with order := some ⟨1, 1⟩ } 1 4
     rdN (nxt i (lanes2 s 7 0)).mem (scratchKey 0 0x17C) 4 == 7 && vecFree i .plain 2 [1] none s)) = true := by decide +kernel

/-- A stream of n f32 elements at offset 0x800, read or written, its descriptor at offset 0x400. -/
def desc (n ctl : Nat) : List Byte := leBytes 8 (scratchKey 0 0x800) ++ leBytes 4 n ++ leBytes 4 1 ++ leBytes 4 1 ++ leBytes 1 1 ++ leBytes 1 ctl ++ leBytes 2 0
  ++ leBytes 8 4 ++ leBytes 8 0 ++ leBytes 8 0
def strmOf (n ctl : Nat) : State := withRegs ({ u0 with mem := wrBytes u0.mem (scratchKey 0 0x400) (desc n ctl) } : State) [(6, sp 0x400)]
def strm (ctl : Nat) : State := strmOf 32 ctl
def bound (ctl : Nat) : State := nxt (.vbind (Reg (pv 0) 0 true false) 12 6) (strm ctl)

theorem test_witness_streams : (let s := strm 0
    let p := Reg (pv 0) 0 true false
    bindTraffic p 6 s == 0 && vecFree (.vbind p 12 6) .plain 2 [] none s && s.ctx.pend == [] && s.accessesDone && s.binding 28 == none &&
    (match readDesc48 s (sp 0x400) 6 with | .ok bs => isOk (streamOf s bs) | .error _ => false) &&
    ((bound 0).binding 28).isSome && vecFree (.vunbind p 12 0) .plain 2 [] none (bound 0) && vecFree (.vunbind p 13 0) .plain 2 [] none (bound 0) &&
    vecFree (.vstat (Reg (pv 0) 0 false true) 8 12) .plain 2 [] none (bound 0) &&
    (nxt (.vstat (Reg (pv 0) 0 false true) 8 12) (bound 0)).rs 8 == 0x100000001 &&
    ((nxt (.vunbind p 12 0) (bound 0)).binding 28) == none &&
    (match (bound 0).binding 28 with
      | some st => !st.wr && st.err == none && st.fault == none && decide (st.done < st.unitsLen) && st.pushed == [] &&
        (match streamReads (bound 0) 0 st (st.unitElems 0).1 (st.unitElems 0).2 with | .ok _ => true | _ => false)
      | none => false) && (bound 0).myTile.run != .stopped &&
    ((nxt .streamUnitFetch (bound 0)).binding 28).map (·.ready.length) == some 1) = true := by decide +kernel

theorem test_change_space : (let s := (bound 0).setMyTile { (bound 0).myTile with oob := 9 }
    s.changeSpace 0 (s.asidOf 0) == s && ((s.changeSpace 0 5).tile 0).oob == 0 && (s.changeSpace 0 5).asidOf 0 == 5 &&
    (s.binding 28).isSome && (s.changeSpace 0 5).binding 28 == none) = true := by decide +kernel

/-- A write stream takes its unit from VADD and performs it: lane 0 at the base (R205). -/
theorem test_stream_write : (let x := nxt (.vxor (Reg (pv 0x10) 2 true false) 12 1) (lanes2 (bound 1) 5 3)
    let y := nxt .streamUnitWrite x
    (match x.binding 28 with
      | some st => (match st.pushed with
        | q :: _ => st.fault == none && x.myTile.run != .stopped && rdN (applyBytes x.mem q.ws) (scratchKey 0 0x800) 4 == 6
        | [] => false)
      | none => false) &&
    (x.binding 28).map (·.pushed.length) == some 1 && (y.binding 28).map (·.pushed.length) == some 0 &&
    rdN y.mem (scratchKey 0 0x800) 4 == 6 && rdN y.mem (scratchKey 0 0x87C) 4 == 6) = true := by decide +kernel

theorem test_witness_vector_queue : (let x := nxt (.vadd (pv 0x10) 1 2) (lanes2 u0 0x7F7FFFFF 0x7F7FFFFF)
    let y := nxt .arbiterGrant x
    x.myCell.vq.length == 1 && !x.entryHeld 0 ⟨0, 0x10000, false, 15, 5, .ready, VClaim.none⟩ && y.myCell.vq == [] && y.myCell.vrun.length == 1 &&
    y.ctx.fcsr == 0 && (nxt .vectorComplete y).ctx.fcsr == 0x28 && (nxt .vectorComplete y).myCell.vrun == [] &&
    ((nxt .arbiterWindow (k0.setQuart 0 ⟨0x4321, 0⟩)).quart 0).force == 0x4321) = true := by decide +kernel

/-- An entry of slot 1 in the queue that still writes the registers `ws`. -/
def openEnt (ws : List Nat) : VEnt := ⟨1, 0x10000, true, 15, 0, .waits, ⟨[], ws, none, none⟩⟩
def behind (ws : List Nat) (s : State) : State := s.setMyCell { s.myCell with vq := [openEnt ws] }

/-- Behind an entry that will write v1, VADD of v1 joins and is formed later, VEXT of v1 leaves its register interlocked, a vector on a
stream and a store wait, VBIND of the same register waits with its descriptor (R196, R200, R205). -/
theorem test_witness_vector_late : (let s := behind [1] (lanes2 u0 0x3F800000 0x40000000)
    let t := nxt (.vadd (pv 0x10) 1 2) s
    let w := nxt (.vext (pv 0) 7 1) s
    let F := (vform (.vadd (pv 0x10) 1 2)).map fun F => (F.srcs, F.dst, F.toS)
    F == some ([1, 2], 1, false) && s.issues (.vadd (pv 0x10) 1 2) .plain 1 0 && s.vroom && !misuse [1, 2] (some 1) s && !s.onStream [1, 2, 1] && s.vheld [1, 2] [1] &&
    t.myCell.vq.length == 2 && t.ctx.wait == .none && t.ctx.pc == 0x1004 && t.rv 1 == s.rv 1 && w.ctx.loadDests.contains 7 && interlocked (.add Pfx.none 7 2) w.ctx &&
    ((vform (.vext (pv 0) 7 1)).map (·.toS)) == some true &&
    (let f := (t.setMyCell { t.myCell with vq := t.myCell.vq.drop 1 }).formAt 0 0
     lane (f.rv 1) 3 == 0x40400000 && f.myCell.vq.map (·.kind) == [.ready]) &&
    (let b := behind [1] (lanes2 (bound 1) 5 3)
     let x := nxt (.vxor (Reg (pv 0x10) 2 true false) 12 1) b
     b.onStream [1, 2, 28] && b.vbusy && b.issues (.vxor (Reg (pv 0x10) 2 true false) 12 1) .plain 1 0 && x.ctx.wait == .stream && x.myCell.vq.length == 2) &&
    (let b := behind [28] (strm 0)
     let i := Instr.vbind (Reg (pv 0) 0 true false) 12 6
     b.issues i .plain 2 0 && b.dirAt 28 == none && b.accessesDone && b.vroom && !b.myCell.vq.any b.ownEnt && b.vheld [] [28] && b.flaws == [] &&
     (nxt i b).ctx.wait == .stream && (nxt i b).myCell.vq.length == 2 && (nxt i b).binding 28 == none) &&
    (let b := behind [1] (withRegs u0 [(4, sp 0x100)])
     b.vbusy && (nxt (.vst (pv 0) 3 4) b).ctx.wait == .stream && (nxt (.vst (pv 0) 3 4) b).ctx.pend == []) &&
    s.vheld [] [1] && !s.vheld [2] [3] && (nxt (.vxor (pv 0x10) 3 2) s).ctx.wait == .none && lane ((nxt (.vxor (pv 0x10) 3 2) s).rv 3) 0 == 0x40000000) = true := by decide +kernel

/-- VUNBIND of a bound and of a free register; VSTAT of both; with its queue not done a context that leaves waits and its bindings are
released behind what stands in the queue (R204, R207). -/
theorem test_witness_unbind : (let b := bound 1
    let x := nxt (.vxor (Reg (pv 0x10) 2 true false) 12 1) (lanes2 b 5 3)
    b.dirAt 28 == some true && (b.dirAt 29) == none && !b.vheld [] [28] && (b.binding 28).map (·.pushed) == some [] &&
    (nxt (.vstat (Reg (pv 0) 0 false true) 8 13) b).rs 8 == 0 && !b.vheld [28] [28] &&
    (let l := x.setCtx { x.ctx with wait := .leaving 4 }
     !l.canLeave && (nxt .budgetYield l).ctx.wait == .leaving 4 && (nxt .budgetYield l).myCell.vq.any (·.kind == .release)) &&
    x.canExit == false && x.issues (.exit Pfx.none 0 0) .plain 1 0 && (nxt (.exit Pfx.none 0 0) x).ctx.wait == .hold &&
    (nxt (.exit Pfx.none 0 0) x).myCell.vq.any (·.kind == .release)) = true := by decide +kernel

/-! ### The matrix unit -/

def pm (f : BitVec 6) : Pfx := pg 2 f
def mat : State := withRegs u0 [(4, sp 0x1000)]
def matFree (i : Instr) (n : Nat) (s : State) : Bool :=
  s.issues i .plain n 0 && accReady s && latchReady s && !s.ctx.accessHeld &&
  (match (s.charged n 0).claimBank with | .ok (b, w) => (w.myCell.bank b).bad == 0 | .error _ => false)

theorem test_witness_matrix : (matFree (.mmaHold (pm 0x10) 1 4) 64 mat &&
    isOk (matRead mat (mat.rs 4) (validRows mat (pShape (pm 0x10)).m * (pShape (pm 0x10)).k * (pShape (pm 0x10)).ty.bytes)) &&
    (let r := mat.setMyCell { mat.myCell with latch := { mat.myCell.latch with infull := true } }
     matFree (.mmaRing (pm 0x10) 1 4) 64 r && ringReady r && ((nxt (.mmaRing (pm 0x10) 1 4) r).myCell.mrun).isSome) &&
    (let t := nxt (.mmaHold (pm 0x10) 1 4) mat
     let u := nxt .matrixStepRetire t
     t.myCell.mrun.isSome && u.myCell.mrun == none && !t.mem.isEmpty == !mat.mem.isEmpty && t.myCell.bank0.owner == 0x10000 &&
     (t.claimBank.isOk))) = true := by decide +kernel

/-- Table 07-6: accumulator 2,147,483,500, products 600 and -400; element (0, 0) of the step at the end of 09 "A single-rounding step"; a NaN
in A; an infinity times one; row 1 of a step of one row is unchanged. -/
theorem test_step_element : (let i8 := mshape 6
    let bf := mshape 2
    let A := 24 + 2 ^ 8 * 236
    let B := 25 + 2 ^ (8 * 16) * 20
    let P := 0x4580 + 2 ^ 16 * 0x3F80 + 2 ^ 32 * 0xC580 + 2 ^ 48 * 0x3F80
    let Q := 0x4580 + 2 ^ 256 * 0x3F80 + 2 ^ 512 * 0x4580 + 2 ^ 768 * 0x3F80
    (stepElem i8 .rne true A B 2147483500#8192 0 0).1 == 2147483247 && (stepElem i8 .rne false A B 2147483500#8192 0 0).1 == 2 ^ 32 - 2147483596 &&
    stepElem bf .rne false P Q 0#8192 0 0 == (0x40000000, 0#5) && stepElem bf .rne false 0x7FC0 0x3F80 0#8192 0 0 == (0x7FC00000, fNV) &&
    stepElem bf .rne false 0x7F80 0x3F80 0#8192 0 0 == (0x7F800000, 0#5) && stepElem bf .rne false 0x7F80 0 0#8192 0 0 == (0x7FC00000, fNV) &&
    stepElem bf .rne false 0x7F80 0x3F80 0xFF800000#8192 0 0 == (0x7FC00000, fNV) && stepElem bf .rdn false 0 0 0#8192 0 0 == (0x80000000, 0#5)) = true := by
  decide +kernel
theorem test_step_rows : (let acc := 0x3F800000#8192 ||| (5#8192 <<< 512)
    let r := stepAcc (mshape 2) .rne false 1 0x3F80 0x3F80 acc
    r.1.toNat % 2 ^ 32 == 0x40000000 && r.1.toNat / 2 ^ 512 == 5 && r.2 == 0#5) = true := by decide +kernel

/-- MMV: eight weight units of a stream bound to v31. -/
theorem test_witness_mmv : (let b := nxt (.vbind (Reg (pv 0) 0 true false) 15 6) (strmOf 256 0)
    let b : State := { b with sel := ⟨0, 0, 3⟩ }
    let f := (List.range 8).foldl (fun s _ => nxt .streamUnitFetch s) b
    (weightStream f).isSome && mmvReady f && f.issues (.mmv (pm 0x10) 2 0) .plain 64 0 &&
    (match weightStream f with | some st => isOk (st.popMany 8) | none => false) && (nxt (.mmv (pm 0x10) 2 0) f).myCell.mrun.isSome) = true := by
  decide +kernel

theorem test_witness_matrix_moves : (matFree (.mldb (pm 0x10) 0 4) 2 mat && matFree (.mpass (pm 0) 0 0) 2 mat && matFree (.mzero (pm 0) 3 0) 2 mat &&
    matFree (.mrow (Imm (pm 0) 3) 1 4) 2 mat && !misuse [] (some 4) mat && !mat.vheld [] [4] && mat.flaws == [] && matFree (.mst (pm 8) 0 4) 16 mat &&
    matFree (.mld (pm 8) 2 4) 16 mat && matFree (.mld (Imm (pm 8) 3) 2 4) 16 mat && mat.issues (.mwait (pm 0) 0 0) .plain 2 0 && unitFree mat && mstDone mat &&
    (match matCheck mat (mat.rs 4) 1024 with | .ok pl => !mstWindow mat 4 pl | .error _ => false) &&
    moveSize (pm 8) mat == (4, 256) && isOk (mstStores mat (mstPieces (pm 8) 0 mat).1 (mat.rs 4) (mstPieces (pm 8) 0 mat).2.1) && isOk (matRead mat (mat.rs 4) 1024) && viewOf (Imm (pm 8) 3) == none && (viewOf (pm 8)).isSome &&
    (let t := nxt (.mst (pm 8) 0 4) mat; t.ctx.pc == 0x1004 && !t.ctx.pend.isEmpty) && (nxt (.mpass (pm 0) 0 0) mat).myCell.latch.flight.length == 1 &&
    (let k := withRegs k0 [(3, sp 0x2000)]
     k.issues (.mbankSel (pm 0) 1 3) .plain 2 0 && k.issues (.mbankSpill (pm 0) 1 3) .plain 2 0 && k.issues (.mbankFill (pm 0) 1 3) .plain 2 0 &&
     isOk (bankStores k (sp 0x2000) 64 (k.myCell.bank true).bytes) && isOk (bankRead k (sp 0x2000) 64) && !k.ctx.accessHeld &&
     (nxt (.mbankSel (pm 0) 1 3) k).myCell.bank1.owner == sp 0x2000)) = true := by decide +kernel

theorem test_witness_bank : (let t := nxt (.mzero (pm 0) 3 0) mat
    let h := nxt .handoffLand (nxt (.mpass (pm 0) 0 0) mat)
    t.myCell.ownBank t.ctx.ident == some false && mat.myCell.ownBank mat.ctx.ident == none && mat.bankElsewhere mat.ctx.ident == none &&
    !mat.isSpilt mat.asid mat.ctx.ident && mat.myCell.bank0.owner == 0 && ringNext 0 != 0 && (h.cell (ringNext 0)).latch.infull && h.myCell.latch.flight == []) = true := by
  decide +kernel

/-- A step of MMA on the ring retires: B goes to the next cell, one hop further, none at the sixteenth, pending while IN is full there. -/
theorem test_witness_ring_retire : (let r := mat.setMyCell { mat.myCell with latch := { mat.myCell.latch with infull := true, inn := 5, ihops := 3 } }
    let t := nxt (.mmaRing (pm 0x10) 1 4) r
    let hops (n : BitVec 4) := t.setMyCell { t.myCell with latch := { t.myCell.latch with chops := n } }
    let full := t.setCell (ringNext 0) { t.cell (ringNext 0) with latch := { (t.cell (ringNext 0)).latch with infull := true } }
    (match t.myCell.mrun with | some m => m.handoff && decide (m.d < 4) && decide (m.slot.toNat ≤ 10) | none => false) && t.myCell.latch.chops == 3 &&
    (nxt .matrixStepRetire t).myCell.latch.flight == [(5, 4)] && (nxt .matrixStepRetire (hops 15)).myCell.latch == (hops 15).myCell.latch &&
    (nxt .matrixStepRetire full).myCell.latch.pending && (nxt .matrixStepRetire full).myCell.latch.flight == [] && t.myTile.run != .stopped) = true := by decide +kernel

/-- MMV asks a read binding of v31. -/
theorem test_witness_mmv_dir : ((nxt (.vbind (Reg (pv 0) 0 true false) 15 6) (strmOf 256 0)).dirAt 31 == some false) = true := by decide +kernel

/-! ### Regions: descriptor 5 is a 4 by 8 f32 tensor in the scratchpad of tile 0 -/

def tensor : Desc :=
  ⟨sp 0x3000, 2#8, 1#4, true, false, 0#4, #v[1, 3, 0, 0], #v[4, 8, 0, 0], #v[32, 4, 0, 0], 0#64, 0#64, 0#64⟩
/-- g1: rows 0 and 1; g2: columns 2 to 4. -/
def box (r c : Dim) : GReg := { GReg.unset with desc := 5#12, rank := 2#3, boxes := [[r, c]] }
def g1 : GReg := box ⟨0, 2, 1⟩ ⟨0, 8, 1⟩
def g2 : GReg := box ⟨0, 4, 1⟩ ⟨2, 3, 1⟩
/-- A grant of all three rights on the whole tensor, in the tile's first entry. -/
def allRights : SMap Word := [(0, 0x01020005#64), (2, 0x400000000#64), (3, 1#64), (4, 0x100000008#64), (50, 0x87#64)]
def reg : State := ((({ u0 with descs := [(5, tensor), (6, { tensor with ragged := true })], tiles := [(0, { Tile.reset with prot := allRights })] } : State).wg 1 g1).wg 2 g2)
def pr (f : BitVec 6) : Pfx := pg 3 f
/-- What RegionDone asks: the result is a register, and its charge is paid. -/
def sound (i : Instr) (s : State) : Bool := regionFault i s == none && s.flaws == []
def regionPays (i : Instr) (base per : Nat) (r : Produced) (s : State) : Bool :=
  sound i s && match r with | .ok g => s.issues i .plain (base + per * g.boxes.length) 0 | .over _ => false
def vol (g : GReg) (s : State) : Nat := volume (s.boxes g)

/-- Rows 0, 1 hold 16 members, columns 2 to 4 12, both 6 (R154). -/
theorem test_region_algebra : ([(Instr.gint, 6), (Instr.guni, 22), (Instr.gsub, 10)].all fun (mk, n) =>
      let t := nxt (mk (pr 0) 1 2) reg
      vol (t.rg 1) t == n && t.rg 2 == g2) = true := by decide +kernel

theorem test_witness_regions : (let s := withRegs reg [(3, 5), (4, 0x00000001), (5, 0x00020002), (6, 0x00010001), (7, 0x200000001)]
    [(Instr.gint, opOr), (Instr.guni, opOr), (Instr.gsub, opOr)].all (fun (mk, op) =>
      regionPays (mk (pr 0) 1 2) 4 2 (produce s 5 op (s.boxes g1) (s.boxes g2) false false false) s) &&
    (s.desc 5).installed && s.issues (.gset (pr 0) 0 3) .plain 2 0 && s.issues (.gempty (pr 0) 0 3) .plain 2 0 &&
    regionPays (.gbox (Reg (pr 0) 5 false false) 1 4) 2 0 (produce s 5 opOr [mkBox [1, 0] [2, 2] [1, 1]] [] false false false) s &&
    vecList (Reg (pr 0) 5 false false) 5 2 s == [2, 2] && vecList (Reg (pr 0) 5 false false) 6 2 s == [1, 1] &&
    ((nxt (.gbox (Reg (pr 0) 5 false false) 1 4) s).rg 1).boxes == [[⟨1, 2, 1⟩, ⟨0, 2, 1⟩]] &&
    ((nxt (.glat (Reg (pr 0) 5 false false) 1 4) s).rg 1).boxes.length == 8 &&
    [Instr.gdil, Instr.gshift, Instr.gproj].all (fun mk => regionPays (mk (Reg (pr 0) 5 false false) 3 1) 4 2 (.ok g1) s) &&
    ((nxt (.gshift (Reg (pr 0) 6 false false) 3 1) s).rg 3).boxes == [[⟨1, 2, 1⟩, ⟨1, 7, 1⟩]] &&
    ((nxt (.gdil (Reg (pr 0) 6 false false) 3 2) s).rg 3).boxes == [[⟨0, 4, 1⟩, ⟨1, 5, 1⟩]] &&
    ((nxt (.gsplit (Reg (pr 0) 7 false false) 3 1) s).rg 3).boxes != [[⟨0, 2, 1⟩, ⟨0, 8, 1⟩]] &&
    s.issues (.gsplit (Reg (pr 0) 7 false false) 3 1) .plain 6 0 && vol ((nxt (.gsplit (Reg (pr 0) 7 false false) 3 1) s).rg 3) s == 8 &&
    regionPays (.gcanon (pr 1) 2 1) 8 4 (produce s 5 opOr (s.boxes g1) [] true false false) s) = true := by decide +kernel

/-- A ragged region over descriptor 6: four rows whose lengths stand at offset 0x600. -/
def ragged : State := withRegs ({ reg with mem := wrBytes reg.mem (scratchKey 0 0x600) (leBytes 4 1 ++ leBytes 4 2 ++ leBytes 4 3 ++ leBytes 4 0) } : State)
  [(4, sp 0x600), (5, 0), (6, 0x00080004), (7, 0x00010001), (8, 0x200000001)]
def rg3 : State := nxt (.grag (Reg (pr 0) 5 false false) 3 4) (ragged.wg 3 { g1 with desc := 6 })

theorem test_witness_ragged : (let s := ragged.wg 3 { g1 with desc := 6 }
    let i := Instr.grag (Reg (pr 0) 5 false false) 3 4
    s.issues i .plain 2 0 && (s.desc 6).ragged && (mkRagged s 6 [⟨0, 4, 1⟩] ⟨0, 8, 1⟩ (s.rs 4) false false false).isSome &&
    (rg3.rg 3).ragged && vol (rg3.rg 3) rg3 == 6 && !rg3.ragWait (rg3.rg 3) && rg3.ragPoison (rg3.rg 3) == none &&
    rg3.issues (.gsplit (Reg (pr 0) 8 false false) 2 3) .plain 6 0 && ((rg3.rg 3).outer 2).length == 1 &&
    vol ((nxt (.gsplit (Reg (pr 0) 8 false false) 2 3) rg3).rg 2) rg3 == 3) = true := by decide +kernel

theorem test_witness_region_traps : (let s := reg.wg 3 { g2 with desc := 6 }
    let why (i : Instr) (x : State) : Word × Word := ((nxt i x).ctx.tcause, (nxt i x).ctx.tinfo)
    why (.gint (pr 0) 1 4) s == (0x0B, 3) && why (.gint (pr 0) 1 3) s == (0x0B, 1) && why (.gdil (pr 0) 1 4) s == (0x0B, 3) &&
    why (.gint (pr 0) 3 1) rg3 == (0x0B, 2) && why (.gcanon (pr 0) 1 3) rg3 == (0x0B, 2) &&
    s.issues (.gbox (Reg (pr 0) 5 false false) 1 4) .plain 2 0 && why (.gbox (Reg (pr 0) 5 false false) 1 4) s == (0x0B, 4) &&
    s.issues (.gsplit (Reg (pr 0) 5 false false) 1 2) .plain 4 0 && why (.gsplit (Reg (pr 0) 5 false false) 1 2) s == (0x0B, 5) &&
    (let b := reg.setMyCell { reg.myCell with gbad := 4 }
     [Instr.gcnt, Instr.gvol, Instr.grdbox].all fun mk => b.issues (mk (pr 0) 1 2) .plain 2 0 && b.ctx.paid == none && b.myCell.gbad.getLsbD 2 &&
       (nxt (mk (pr 0) 1 2) b).ctx.tcause == 0x15) &&
    (let c : State := { reg with flaws := [(.region 2, false)] }
     let t := nxt (.gcnt (pr 0) 1 2) c
     c.issues (.gcnt (pr 0) 1 2) .plain 2 0 && regionFault (.gcnt (pr 0) 1 2) c == none && t.rs 1 == 1 && t.flaws == [] && t.myTile.elogT == 1)) = true := by
  decide +kernel

/-- Eight single members and another one: GUNI traps region overflow with the count 9 (R136). -/
theorem test_region_overflow : (let dots : GReg := { g1 with boxes := (List.range 8).map fun k => [⟨BitVec.ofNat 32 (k % 4), 1, 1⟩, ⟨BitVec.ofNat 32 (2 * (k / 4) + k % 2), 1, 1⟩] }
    let s := (reg.wg 1 dots).wg 2 (box ⟨3, 1, 1⟩ ⟨7, 1, 1⟩)
    let t := nxt (.guni (pr 0) 1 2) s
    t.ctx.tcause == 0x0A && t.ctx.tinfo == 9 && (t.rg 1).ovf && { t.rg 1 with ovf := false } == dots && s.issues (.guni (pr 0) 1 2) .plain 0 0 &&
    (match produce s 5 (fun x y => x || y) (s.boxes (s.rg 1)) (s.boxes (s.rg 2)) false false false with | .over n => n == 9 | .ok _ => false)) = true := by
  decide +kernel

theorem test_witness_region_sets : ((canonOf (fun x y => x && y) false 2 [[⟨0, 2, 1⟩, ⟨0, 8, 1⟩]] [[⟨0, 4, 1⟩, ⟨2, 3, 1⟩]]).any (NBox.has · [1, 4]) &&
    clipBox [4, 8] [⟨3, 2, 1⟩, ⟨6, 3, 2⟩] == some [⟨3, 1, 1⟩, ⟨6, 1, 2⟩]) = true := by decide +kernel

/-- Transforms of one box of a 4 by 8 tensor (R158): corner 0 dilated by 1, the far edge shifted out, row 3 kept by mask 1. -/
theorem test_transform_members : ((crossRngs (dilateBox [1, 1] [4, 8] [⟨0, 1, 1⟩, ⟨0, 2, 5⟩])).any (NBox.has · [1, 6]) &&
    !(crossRngs (dilateBox [1, 1] [4, 8] [⟨0, 1, 1⟩, ⟨0, 2, 5⟩])).any (NBox.has · [1, 2]) &&
    shiftBox [0, 1] [4, 8] [⟨0, 1, 1⟩, ⟨7, 1, 1⟩] == none && shiftBox [-1, 0] [4, 8] [⟨0, 2, 1⟩, ⟨7, 1, 1⟩] == some [⟨0, 1, 1⟩, ⟨7, 1, 1⟩] &&
    projBox 1 0 [⟨3, 1, 1⟩, ⟨2, 4, 1⟩] == [⟨3, 1, 1⟩, ⟨0, 1, 1⟩]) = true := by decide +kernel
/-- Table 06-9: the 35 members in three parts of 12, 12 and 11; part 0 ends at (2, 0), part 1 begins at (2, 1). Sets of different boxes (R163). -/
theorem test_split_members : (let bs : List NBox := [[⟨0, 1, 1⟩, ⟨0, 6, 1⟩], [⟨1, 1, 1⟩, ⟨0, 1, 1⟩], [⟨1, 1, 1⟩, ⟨2, 4, 1⟩], [⟨2, 4, 1⟩, ⟨0, 6, 1⟩]]
    let part (i : Nat) := listPart bs (partStart 35 3 i) (partStart 35 3 (i + 1))
    volume bs == 35 && (List.range 3).map (fun i => volume (part i)) == [12, 12, 11] && listMember bs 11 == [2, 0] && listMember bs 12 == [2, 1] &&
    (part 0).any (NBox.has · [2, 0]) && !(part 1).any (NBox.has · [2, 0]) && (part 1).any (NBox.has · [2, 1]) && lexLt [2, 0] [2, 1] &&
    sameSet 2 bs (part 0 ++ part 1 ++ part 2) && subSet 2 (part 1) bs && !subSet 2 bs (part 1)) = true := by decide +kernel

theorem test_witness_queries : (let s := withRegs reg [(5, sp 0x500)]
    s.issues (.gst (pr 0) 1 5) .plain 2 0 && [Instr.gst, Instr.gld, Instr.gcnt, Instr.gvol, Instr.grdbox, Instr.geq, Instr.gtest].all (fun mk => sound (mk (pr 0) 1 2) s) &&
    !s.ctx.accessHeld && !s.spillBusy && s.ragPoison g2 == none && !s.ragWait g2 &&
    (let i := Instr.gst { pr 0 with order := some ⟨1, 1⟩ } 1 5
     let q := s.addPend (.store [] 0 .plain)
     s.issues i .plain 2 0 && q.issues i .plain 2 0 && s.ctx.pend == [] && rdN (nxt i s).mem (scratchKey 0 0x500) 1 == 5 && (nxt i q).ctx.wait == .hold) && bulkTraffic s (sp 0x500) 400 == 0 && isOk (storePieces s (sp 0x500) 25 (s.rg 1).image) &&
    isOk (readPieces s (sp 0x500) 25) && s.issues (.gld (pr 0) 3 5) .plain 2 0 &&
    (let m := ({ s with mem := wrBytes s.mem (scratchKey 0 0x500) g2.image } : State)
     (nxt (.gld (pr 0) 3 5) m).rg 3 == g2 && (match loadImage m g2.image with | .ok (.ok g) => g == g2 | _ => false)) &&
    [Instr.gcnt, Instr.gvol, Instr.grdbox].all (fun mk => s.issues (mk (pr 0) 1 2) .plain 2 0) && s.gBad g2 true == none &&
    (nxt (.gvol (pr 0) 1 2) s).rs 1 == 12 && (nxt (.gcnt (pr 0) 1 2) s).rs 1 == 1 && (nxt (.grdbox (pr 0) 8 2) s).rs 8 == 0x200000000 &&
    (nxt (.grdbox (pr 0) 8 2) s).rs 10 == 0x300000004 && s.issues (.geq (pr 0) 1 2) .push 2 0 && (s.push yes).isSome &&
    ([0, 1, 2, 3].all fun q => s.issues (.gtest (Imm (Reg (pr 0) 2 false false) q) 0 1) .push 2 0) &&
    (nxt (.geq (pr 0) 1 1) s).ctx.pst == [yes] && (nxt (.geq (pr 0) 1 2) s).ctx.pst == [no] &&
    (nxt (.gtest (Imm (Reg (pr 0) 2 false false) 2) 0 1) s).ctx.pst == [no]) = true := by decide +kernel

/-! ### Atomics, caches, translation -/

def pa (f : BitVec 6) (e : BitVec 5) : Pfx := Reg (pg 4 f) e false false
/-- Doublewords `x` and `y` at offset 0x700, s2 their address, s3 and s4 operands. -/
def amo (x y : Nat) (v w : Word) : State :=
  withRegs ({ u0 with mem := wrBytes u0.mem (scratchKey 0 0x700) (leBytes 8 x ++ leBytes 8 y) } : State) [(2, sp 0x700), (3, v), (4, w)]

theorem test_witness_atomics : (let s := amo 5 0 3 0
    [Instr.aadd, Instr.aand, Instr.aor, Instr.axor, Instr.amin, Instr.amax, Instr.aminu, Instr.amaxu, Instr.aswap, Instr.afadd, Instr.acas,
      Instr.afaddcp].all fun mk => s.issues (mk (pa 0x10 3) 1 2) .plain 2 0 && units (chargedBytes 0 (s.rs 2).toNat 8) == 0 &&
      isMem (s.access 0 true .atomic (s.rs 2).toNat 16) && !s.ctx.accessHeld && s.flaws == [] && !s.pendTouches (scratchKey 0 0x700) 16) = true := by decide +kernel

/-- Old value in s1, memory gets the function: wrap, signed minimum, compare and swap, a binary64 sum (R253, R254). -/
theorem test_values_atomics : (([(Instr.aadd (pa 0x10 3) 1 2, 2 ^ 64 - 1, 2, 0, 1), (.amin (pa 0x10 3) 1 2, 2 ^ 64 - 1, 1, 0, 2 ^ 64 - 1),
      (.aminu (pa 0x10 3) 1 2, 2 ^ 64 - 1, 1, 0, 1), (.aswap (pa 0x10 3) 1 2, 7, 9, 0, 9), (.acas (pa 0x10 3) 1 2, 7, 7, 9, 9),
      (.acas (pa 0x10 3) 1 2, 7, 8, 9, 7), (.afadd (pa 0x10 3) 1 2, 0x3FF0000000000000, 0x3FF0000000000000, 0, 0x4000000000000000),
      (.afaddcp (pa 0x10 3) 1 2, 0x3FF0000000000000, 0x3FF0000000000000, 0, 0x4000000000000000)] : List (Instr × Nat × Word × Word × Nat)).all
    fun (i, x, v, w, r) => let t := nxt i (amo x 0 v w); t.rs 1 == BitVec.ofNat 64 x && rdN t.mem (scratchKey 0 0x700) 8 == r) = true := by decide +kernel

/-- A page table in local HBM: root at 0x10000 and four more levels, page 0x5000 mapped to 0x9000. -/
def paged : State :=
  let put (m : Memory) (a v : Nat) := wrBytes m a (leBytes 8 v)
  let s : State := { u0 with asBase := 0x8000#64, tiles := [(0, { Tile.reset with asid := 3#12 })] }
  let rows := [(0x8018, 0x10001), (0x10000, 0x11381), (0x11000, 0x12381), (0x12000, 0x13381), (0x13000, 0x14381), (0x14028, 0x900F)]
  { s with mem := rows.foldl (fun m x => put m x.1 x.2) s.mem }

theorem test_witness_caches : (let s := withRegs u0 [(3, sp 0x900)]
    let q := s.setMyCell { s.myCell with l1 := [⟨7, []⟩] }
    s.issues (.prefLine (pg 4 0) 3) .plain 1 0 && reg.issues (.prefRegion (pg 4 0) 1) .plain 1 0 && sound (.prefRegion (pg 4 0) 1) reg && !reg.ragWait g1 && reg.ragPoison g1 == none && reg.gBad g1 true == none &&
    checkRights reg 5 tensor (reg.boxes g1) [0] == none && units (regionBytes reg tensor (reg.boxes g1)) == 0 &&
    q.issues (.invl1All (pg 4 0) 0) .plain 1 0 && (nxt (.invl1All (pg 4 0) 0) q).myCell.l1 == [] &&
    s.issues (.wdset (pg 7 0) 1 4) .plain 2 0 &&
    (let w := withRegs u0 [(4, 0x0000010000000011), (5, 0)]
     isOk (wdsetCheck 0 (wdsetArg 4 w)) && !wdsetIllegal 1 (wdsetArg 4 w) && w.ctx.paid == none && w.issues (.wdset (pg 7 0) 1 4) .plain 2 0 &&
     vget (nxt (.wdset (pg 7 0) 1 4) w).myTile.win 1 0 == 0x10000000011)) = true := by decide +kernel

theorem test_witness_walk : (let s := paged
    let w := s.setCtx { s.ctx with wait := .walk 0x5008 .load }
    let v := s.setCtx { s.ctx with wait := .walk 0x6000 .load }
    (match s.walk s.asid 0x5008 with | .leaf pte => pte == 0x900F | _ => false) && (match s.walk s.asid 0x6000 with | .absent => true | _ => false) &&
    (nxt .tlbMissWalk w).ctx.wait == .none && isMem ((nxt .tlbMissWalk w).access 0 true .read 0x5008 8) &&
    (match (nxt .tlbMissWalk v).ctx.wait with | .mtu _ va _ => va == 0x6000 | _ => false) &&
    (let p := withRegs s [(3, 0x5008)]
     p.issues (.invl1Line (pg 4 0) 3) .plain 1 0 && (match p.physOf 0 0x5008 with | some (.ok a _) => a == 0x9008 | _ => false) &&
     [0x6000, 0x0200000000000000].all (fun va => let n := withRegs s [(3, va)]
       n.issues (.invl1Line (pg 4 0) 3) .plain 1 0 && (2 ^ 57 ≤ va.toNat || (match n.physOf 0 va.toNat with | some (.ok _ _) => false | _ => true)) &&
       (nxt (.invl1Line (pg 4 0) 3) n).ctx.pc == 0x1004) && s.flaws == [])) = true := by
  decide +kernel

/-! ### Staged objects: two granules of two rows, automaton 0 (Table 10-6) -/

def sg (k : BitVec 4) : Pfx := { pg 4 0 with stage := some k }

/-- STS fills granule 0, LDS takes the value, a second LDS parks; STQ reads the state (R256, R257, R261). -/
theorem test_stage_chain : (let s := withRegs reg [(1, 0x3F800000), (3, 0)]
    let a := nxt (.sts (sg 0) 1 1) s
    let b := nxt (.lds (sg 1) 3 1) a
    (nxt (.stq (sg 0) 5 1) a).rs 5 == 1 && b.rs 3 == 0x3F800000 && (nxt (.stq (sg 0) 5 1) b).rs 5 == 0 && (nxt (.lds (sg 1) 3 1) b).ctx.wait == .stage &&
    (nxt (.lds (sg 1) 3 1) b).parked.length == 1) = true := by decide +kernel

theorem test_witness_stages : (let s := withRegs reg [(1, 0x3F800000), (3, 0)]
    let a := nxt (.sts (sg 0) 1 1) s
    s.issues (.sts (sg 0) 1 1) .plain 2 (stageCost (sg 0) 1 true true s) && s.gBad g1 true == none && sound (.sts (sg 0) 1 1) s && !s.ctx.accessHeld &&
    !s.ragWait g1 && s.ragPoison g1 == none && !g1.inexact && decide (memberNo (sg 0) s < volume (s.boxes g1)) && tensor.staged && tensor.tyOf != .q4n &&
    memberNo (sg 0) s == 0 && checkRights s 5 tensor [pointBox (stageMember (sg 0) 1 s)] [1, 2] == none &&
    isOk (granLocs s tensor [tensor.granule (stageMember (sg 0) 1 s)]) && isOk (elemKey s tensor .write (stageMember (sg 0) 1 s)) && s.released 6 &&
    a.issues (.lds (sg 1) 3 1) .plain 2 (stageCost (sg 1) 1 true true a) && a.issues (.stq (sg 1) 3 1) .plain 2 (stageCost (sg 1) 1 true false a) &&
    a.issues (.trn (sg 1) 3 1) .plain 2 (stageCost (sg 1) 1 false false a) && checkRights a 5 tensor (a.boxes g1) [2] == none &&
    isOk (granLocs a tensor (tensor.granules (a.boxes g1))) && (nxt (.trn (sg 1) 3 1) a).ctx.wait == .none && (nxt (.trn (sg 1) 3 1) a).ctx.pc == a.ctx.pc + 6 &&
    (let u := withRegs u0 [(6, sp 0xA00)]
     u.issues (.autld (pg 4 0) 2 6) .plain 2 0 && isOk (readPieces u (sp 0xA00) 8) && !u.autBusy 0 2 && (nxt (.autld (pg 4 0) 2 6) u).auts.length == 1)) = true := by
  decide +kernel

theorem test_witness_stage_step : (let r (k : BitVec 4) : StageReq := ⟨.trn, tensor, 0, k, [], none, 0, 0, 0, 0, 3, 0, none, none, false⟩
    let l : GLoc := .ctl 0 0
    let f := reg.setGran 0 l 1
    entAct (reg.stageEntry (r 0) l) == .ok && entAct (reg.stageEntry (r 3) l) == .noData && entAct (f.stageEntry (r 0) l) == .park &&
    entAct (f.stageEntry (r 5) l) == .fault && !reg.granDue l && reg.parkRoom l.home &&
    (let full : State := { f with parked := List.replicate 64 ⟨.ctx 0 1, .ctl 0 1, r 0, true⟩ }
     !full.granDue l && !full.parkRoom l.home && (match stageRun 0 (r 0) .issue none 0 [(0, l)] full with | .full => true | _ => false)) &&
    (let due : State := { reg with parked := [⟨.ctx 0 1, l, r 0, true⟩] }
     due.granDue l && (match stageRun 0 (r 0) .issue none 0 [(0, l)] due with | .wait => true | _ => false)) && f.granState l == 1 &&
    (match stageRun 0 (r 0) .issue none 0 [(0, l)] reg with | .done s _ o => s.granState l == 1 && o == 2 | _ => false)) = true := by decide +kernel

/-- A granule whose state is lost traps 0x15; the step of a stage word leaves its line in no L1 (R244, 11 R266). -/
theorem test_witness_granule : (let s := withRegs reg [(1, 0x3F800000), (3, 0)]
    let b := s.setTile 0 { s.tile 0 with granBad := 1 }
    (match granLoc tensor b.ctx.user (fun va => b.access b.cid b.ctx.user .stage va.toNat 8) 0 with | .ok l => b.granLost l && !s.granLost l | _ => false) &&
    b.issues (.stq (sg 0) 5 1) .plain 2 (stageCost (sg 0) 1 true false b) && (nxt (.stq (sg 0) 5 1) b).ctx.tcause == 0x15 && (nxt (.lds (sg 1) 3 1) b).ctx.tcause == 0x15 &&
    (match granLocs s tensor [tensor.granule (stageMember (sg 0) 1 s)] with
      | .ok [(i, l)] => !s.wordsBusy [(i, l)] && !s.granDue l && s.meetGran s.tid l == s | _ => false) &&
    !s.wordsBusy [(0, .word 0x4000 1)] && s.flaws == [] &&
    (let c := s.setMyCell { s.myCell with l1 := [⟨256, []⟩] }
     (c.meetGran 0 (.word 0x4000 1)).myCell.l1 == [])) = true := by decide +kernel

/-- WDSET into descriptor 0 traps illegal, uncharged (log entry 35). -/
theorem test_wdset_illegal : (let s := withRegs u0 [(4, 0x0000010000000011)]
    s.issues (.wdset (pg 7 0) 0 4) .plain 2 0 && s.ctx.paid == none && wdsetIllegal 0 (wdsetArg 4 s) && (nxt (.wdset (pg 7 0) 0 4) s).ctx.tcause == 1 &&
    (nxt (.wdset (pg 7 0) 0 4) s).ctx.ibud.count == 1000) = true := by decide +kernel

/-! ### Messages, counters, tasks: a frame pool of four frames and a save area in the scratchpad of tile 0 -/

def tile0 : Tile := { Tile.reset with poolBase := sp 0x10000, poolSize := 4#64, used := [(0#12, sp 0x10000)], saveBase := sp 0x20000 }
def task : State := ({ k0 with tiles := [(0, tile0)] } : State).setCtx { uctx with ident := sp 0x10000 }
/-- The message word of SEND: tile 1, offset 0x40, counter 5, one word (Table 12-2). -/
def toTile1 : Word := BitVec.ofNat 64 (1 * 2 ^ 42 + 8 * 2 ^ 22 + 5 * 2 ^ 12)
def pt (e : BitVec 5) : Pfx := Reg (pg 5 0) e false false

/-- SEND, then the delivery: the word lies in tile 1 and counter 5 there is 1 (R290). -/
theorem test_send : (let s := withRegs task [(4, toTile1), (0, 77)]
    let x := nxt (.send (pg 5 0) 4 0) s
    let y := nxt .messageDelivery x
    s.issues (.send (pg 5 0) 4 0) .plain 2 1 && s.myCell.sendRoom && s.released (s.spanTo 0 0 1) && (toTile1.extractLsb' 54 10) ∈ s.fab.domain &&
    x.myCell.sendq.length == 1 && firstTo x.myCell.sendq 0 0 ((x.myCell.sendq.head?).getD (.join 0 0 0 0 0 0 0 0)) && x.clocked 1 &&
    rdN y.mem (scratchKey 1 0x40) 8 == 77 && ((y.tile 1).ctr 5).value == 1 && y.myCell.sendq == []) = true := by decide +kernel

/-- A pending acquire load at the message's scope holds SEND back (11 R269). -/
theorem test_witness_send_held : (let s := withRegs (task.addPend (.load 0x100 8 false false 3 6 (some 6) none)) [(4, toTile1)]
    s.myCell.sendRoom && s.ctx.pend.any (·.holdsBack (s.spanTo 0 0 1)) && s.ctx.paid == none && (nxt (.send (pg 5 0) 4 0) s) == s) = true := by decide +kernel

theorem test_witness_send_full : (let s := withRegs (task.setMyCell { task.myCell with sendq := List.replicate 8 (.join 0 0 0 0 0 0 0 0) }) [(4, toTile1)]
    !s.myCell.sendRoom && s.ctx.paid == none && (nxt (.send (pg 5 0) 4 0) s) == s) = true := by decide +kernel

theorem test_witness_counters : (let s := withRegs task [(1, 5), (2, 3)]
    let x := nxt (.ctradd (pg 5 0) 1 2) s
    [Instr.ctradd, Instr.ctrrd, Instr.cwait].all (fun mk => s.issues (mk (pg 5 0) 1 2) .plain 2 0) && (x.myTile.ctr 5).value == 3 &&
    (nxt (.ctrrd (pg 5 0) 7 1) x).rs 7 == 3 && (nxt (.cwait (pg 5 0) 1 2) x).ctx.wait == .none && (nxt (.cwait (pg 5 0) 1 2) s).ctx.wait == .counter 5 3 2) = true := by
  decide +kernel

theorem test_witness_no_fire : ∀ e, ((task.tile 0).entry e).due 5 3#32 = false := fun _ => rfl

/-- An armed entry of counter 5, threshold 3, its record at offset 0x40. -/
def armed : WttEntry := ⟨sp 0x40, 3#32, 1#2, false, false, 5#10, none⟩
def arm : State := task.setMyTile { task.myTile with wtt := [(7, armed)] }
theorem test_witness_fire : (arm.tile 0).entry 7 = armed ∧ (∀ j, j ≠ 7 → ((arm.tile 0).entry j).due 5 4#32 = false) ∧ (arm.tile 0).accepts = true ∧
    (arm.recordKey 0 (sp 0x40)).isSome = true := by
  have h : (arm.tile 0).wtt = [(7, armed)] := by decide +kernel
  refine ⟨by decide +kernel, fun j hj => ?_, by decide +kernel, by decide +kernel⟩
  have e : (arm.tile 0).entry j = WttEntry.free := by
    show mget (arm.tile 0).wtt j _ = _
    rw [h]; simp [mget, mget?, hj.symm]
  rw [e]; rfl
/-- A CWAIT of context (0, 1) on counter 5 for 3: an addition of 4 completes it at the counter (R293). -/
def waiting : State := (withRegs task []).setCtxAt 0 1 { uctx with wait := .counter 5 3 2, paid := some (2, 0) }
theorem test_witness_waiter : (waiting.waiters 0 == [(0, 1)] && (waiting.ctxAt 0 1).live && arm.waiters 0 == [] && task.waiters 0 == [] &&
    (let r := waiting.bump 0 5 4#32 1 6#32 7#32
     (r.ctxAt 0 1).wait == .none && (r.ctxAt 0 1).iallow == 6 && (r.ctxAt 0 1).mallow == 7 && (r.ctxAt 0 1).pc == 0x1004 &&
     (r.ctxAt 0 1).paid == none && ((r.tile 0).ctr 5) == ⟨4, 0, 0, 0⟩)) = true := by decide +kernel
/-- The same at the counter alone, once it holds 3 at scope 1 with refunds 6 and 7. -/
theorem test_witness_meet_wait : (let s := waiting.setMyTile (waiting.myTile.setCtr 5 ⟨3, 1, 6, 7⟩)
    let u := s.meetWait 0 5 0 1
    (s.ctxAt 0 1).user && s.myTile.run == .running && (u.ctxAt 0 1).wait == .none && (u.ctxAt 0 1).iallow == 6 && (u.ctxAt 0 1).mallow == 7 && (u.myTile.ctr 5) == ⟨3, 0, 0, 0⟩) = true := by
  decide +kernel
theorem test_fire : (let r := arm.bump 0 5 4#32 1 0#32 0#32
    ((r.tile 0).ctr 5).value == 1 && (r.tile 0).rq.length == 1 && ((r.tile 0).entry 7).st == 0) = true := by decide +kernel

theorem test_witness_delivery : (let j : Out := .join (BitVec.ofNat 64 (1 * 2 ^ 42 + 9 * 2 ^ 12)) 0x500 1 2 3 0 2 0
    let e : RqEntry := ⟨none, sp 0x10000, true, false, 1, 0, none, 0, none, 0⟩
    let s := task.setMyCell { task.myCell with sendq := [j] }
    let p := task.setMyCell { task.myCell with sendq := [.spawn 1 (Vector.replicate 8 0) false true 0 2] }
    let f := task.setMyTile { task.myTile with wtt := [(3, { armed with st := 2, held := some e })] }
    firstTo s.myCell.sendq 0 0 j && spaceTag (s.asidOf 1) == 0 && s.clocked 1 && ((nxt .joinIncrement s).tile 1).ctr 9 == ⟨1, 2, 2, 3⟩ &&
    ((nxt .spawnEnqueue p).tile 1).rq.length == 1 && decide (f.myTile.queued < 256) && (nxt .firedPendingEnqueue f).myTile.rq == [e] &&
    (let m := task.setMyCell { task.myCell with sendq := [.msg 0 1 0x40 5 [7] 9 1 2 0] }
     let r := m.setTile 1 { m.tile 1 with logSize := 256 }
     let h := nxt .messageDelivery m
     spaceTag (m.asidOf 1) != 9 && (m.tile 1).ingress == none && m.loggedFor 1 9 == [] && !m.logRoom 1 && ((h.tile 1).ingress).isSome &&
     r.logRoom 1 && (nxt .messageDelivery r).mlogs.length == 1 &&
     nxt .messageDelivery (h.setMyCell { h.myCell with sendq := [.msg 0 1 0x40 5 [8] 0 1 2 0] }) == (h.setMyCell { h.myCell with sendq := [.msg 0 1 0x40 5 [8] 0 1 2 0] }).flushIngress 1) &&
    (let u := task.setMyCell { task.myCell with sendq := [.spawn 1 (Vector.replicate 8 0) false false 0 2] }
     (u.tile 1).accepts && ((nxt .spawnEnqueue u).tile 1).rq.length == 1) &&
    (let m := task.setMyCell { task.myCell with sendq := [.msg 4 1 0x40 5 [7] 0 1 5 0] }
     (nxt .messageDelivery m).fab.out.length == 1)) = true := by decide +kernel

theorem test_witness_wait_table : (let s := withRegs task [(3, BitVec.ofNat 64 (3 * 2 ^ 32 + 5 * 2 ^ 16 + 7)), (4, sp 0x40)]
    let z := withRegs task [(3, 7), (4, sp 0x40)]
    let st (n : BitVec 2) := withRegs (task.setMyTile { task.myTile with wtt := [(7, { armed with st := n })] }) [(3, BitVec.ofNat 64 (3 * 2 ^ 32 + 7)), (4, sp 0x40)]
    s.issues (.wtarm (pg 5 0) 3 4) .plain 2 0 && s.released 1 && (s.myTile.entry 7).st == 0 && ((nxt (.wtarm (pg 5 0) 3 4) s).myTile.entry 7).st == 1 &&
    (nxt (.wtarm (pg 5 0) 3 4) z).ctx.tinfo == 4 && (nxt (.wtarm (pg 5 0) 3 4) (st 2)).ctx.tinfo == 5 && (nxt (.wtarm (pg 5 0) 3 4) (st 3)).ctx.tinfo == 5 &&
    [0, 1, 2, 3].all (fun n => (st n).issues (.wtdis (pg 5 0) 3 0) .plain 2 0) && ((nxt (.wtdis (pg 5 0) 3 0) (st 1)).myTile.entry 7).st == 0 &&
    ((nxt (.wtdis (pg 5 0) 3 0) (st 2)).myTile.entry 7).st == 2 && (nxt (.wtdis (pg 5 0) 3 0) (st 3)).ctx.tinfo == 5) = true := by decide +kernel

theorem test_witness_spawn : (let s := withRegs task [(3, 1), (4, sp 0x40)]
    let i := Instr.spawn (pg 5 0) 3 4
    let f := s.setTile 1 { s.tile 1 with resv := 256 }
    bulkTraffic s (sp 0x40) 64 == 0 && s.issues i .push 2 0 && isOk (readPieces s (sp 0x40) 4) && !s.ctx.accessHeld && !s.spillBusy && (s.tile 1).accepts && s.ctx.canCarve 0 0 &&
    s.released 2 && (nxt i s).ctx.pst == [yes] && (nxt i s).myCell.sendq.length == 1 && ((nxt i s).tile 1).resv == 1 && !(f.tile 1).accepts &&
    (nxt i f).ctx.pst == [no]) = true := by decide +kernel

/-- START: a helper in slot 1 with its argument, address and units; HJOIN waits, then takes the refunds (R306, R307). -/
theorem test_witness_start : (let s := withRegs task [(3, 9), (4, 0x4000), (5, 0x0000000200000003)]
    let i := Instr.start (pt 5) 3 4
    let t := nxt i s
    let w := withRegs task [(4, sp 0x10100)]
    let h (d : Bool) := w.setMyCell { w.myCell with hjoin := [⟨sp 0x10100, sp 0x10000, d, 4#32, 5#32⟩] }
    s.issues i .push 2 0 && s.helperSlot 0 == some 1 && s.newFrame 0 == some (sp 0x10100, scratchKey 0 0x10100) && s.ctx.canCarve 3 2 && decide (s.myCell.hjoin.length < 16) && !s.spillBusy && s.released 0 &&
    t.ctx.pst == [yes] && t.rs 3 == sp 0x10100 && (t.ctxAt 0 1).pc == 0x4000 && vget (t.ctxAt 0 1).regs 0 0 == 9 && (t.ctxAt 0 1).ibud.count == 3 &&
    (t.ctxAt 0 1).mbud.count == 2 && t.ctx.ibud.count == 995 && (k0.helperSlot 0).isSome && k0.newFrame 0 == none && (nxt i (withRegs u0 [(4, 0x4000)])).ctx.pst == [no] &&
    [true, false].all (fun d => (h d).issues (.hjoin (pg 5 0) 0 4) .plain 2 0) && (nxt (.hjoin (pg 5 0) 0 4) w).ctx.pc == 0x1004 &&
    (nxt (.hjoin (pg 5 0) 0 4) (h false)).ctx.wait == .poll && (nxt (.hjoin (pg 5 0) 0 4) (h true)).ctx.iallow == 4) = true := by decide +kernel

theorem test_witness_susp_exit : (let s := withRegs task [(3, BitVec.ofNat 64 (3 * 2 ^ 32 + 5 * 2 ^ 16 + 7))]
    let t := nxt (.susp (pg 5 0) 3 0) s
    s.issues (.susp (pg 5 0) 3 0) .plain 2 0 && (s.myTile.entry 7).st == 0 && s.canLeave && (s.frameKey 0 s.ctx.ident).isSome &&
    !t.ctx.live && (t.myTile.entry 7).st == 3 && rdN t.mem (scratchKey 0 0x10040) 8 == 0x1004 && s.issues (.exit Pfx.none 0 0) .plain 1 0 && s.canExit && s.myCell.sendRoom &&
    !(nxt (.exit Pfx.none 0 0) s).ctx.live) = true := by decide +kernel

/-- A fresh record at priority 2 is chosen before a frame at priority 1, and bound to a helper slot (R301 to R303). -/
theorem test_witness_dispatch : (let r : Vector Word 8 := #v[0x5001, 1, 2, 3, 4, 0x0000000700000006, 0, 0x800]
    let c : RqEntry := ⟨some r, 0, true, false, 2, 0, none, 0, none, 0⟩
    let f : RqEntry := ⟨none, sp 0x10000, true, false, 1, 0, none, 0, none, 0⟩
    let s := task.setMyTile { task.myTile with rq := [f, c] }
    let t := nxt .dispatch s
    let g := nxt .dispatch (task.setMyTile { task.myTile with rq := [f] })
    dispatchOrder s.myTile.rq == [1, 0] && s.myTile.run == .running && s.host.pstate == 0 && s.placeFor 0 c == some (1, 1) && s.newFrame 0 != none &&
    (t.ctxAt 1 1).live && (t.ctxAt 1 1).pc == 0x5000 && vget (t.ctxAt 1 1).regs 3 0 == 4 && (t.ctxAt 1 1).ibud.count == 6 && t.myTile.rq.map (·.bypass) == [1] &&
    (s.placeFor 0 f).isSome && (task.f64 (scratchKey 0 0x10000) 0x40).extractLsb' 61 3 == 0 && g.myTile.rq == [] && task.mem.wf && task.flaws == [] &&
    (let v := nxt .dispatch (task.setMyTile { (task.myTile.setCtr 5 ⟨0, 0, 8, 9⟩) with rq := [{ f with ctr := some 5 }] })
     (v.ctxAt 0 1).iallow == 8 && (v.ctxAt 0 1).mallow == 9 && (v.myTile.ctr 5).iref == 0) && (g.ctxAt 0 1).ident == sp 0x10000) = true := by
  decide +kernel

theorem test_witness_yields : (let s := task.setCtx { task.ctx with ibud := ⟨false, 0⟩ }
    let p (n : BitVec 2) := s.setCtx { s.ctx with bpol := n }
    let l (r : BitVec 3) (c : Ctx) := task.setCtx { c with wait := .leaving r }
    let r := task.setCtx { task.ctx with preq := some ⟨⟨false, 5⟩, 0⟩ }
    s.canRun && [(Instr.add, Pfx.none), (.mul, Pfx.none), (.div, Pfx.none), (.nop, Pfx.none), (.mov, Pfx.none), (.fadd, pg 8 0), (.fdiv, pg 8 0x20),
        (.vadd, pg 1 0x10), (.ctradd, pg 5 0), (.susp, pg 5 0)].all (fun (mk, p) => !interlocked (mk p 1 2) s.ctx && (mk p 1 2).wf &&
      ((issueGuard .plain (guardPfx (mk p 1 2)) s.ctx).map (·.s)) == some true && s.ctx.user && s.ctx.paid == none && s.ctx.cont == 0x3000 &&
      (nxt (mk p 1 2) s).ctx.wait == .leaving 1 && (nxt (mk p 1 2) r).ctx.wait == .leaving 3) && task.myTile.placeFree (placeOf 0 0) && freeEntry task.myTile 512 == some 511 && (nxt (.add Pfx.none 1 2) (p 1)).ctx.wait == .leaving 1 && (nxt (.add Pfx.none 1 2) (p 2)).ctx.tcause == 8 &&
    (nxt (.add Pfx.none 1 2) (p 3)).ctx.tcause == 8 && task.issues (.byield (pg 5 0) 0 0) .plain 2 0 && (nxt (.byield (pg 5 0) 0 0) task).ctx.wait == .leaving 4 &&
    k0.issues (.byield (pg 5 0) 0 0) .plain 2 0 && (nxt (.byield (pg 5 0) 0 0) k0).ctx.pc == 0x1004 && task.canLeave &&
    (nxt .budgetYield (l 4 task.ctx)).myTile.rq.length == 1 && !(nxt .budgetYield (l 4 task.ctx)).ctx.live &&
    [0, 1, 2, 3].all (fun d => !(nxt .budgetYield (l 3 { task.ctx with preq := some ⟨⟨false, 5⟩, d⟩ })).ctx.live) &&
    (let t := nxt .budgetYield (l 1 { task.ctx with bpol := 1 }); (t.myTile.entry 511).st == 3 && !t.ctx.live) &&
    (let k := scratchKey 0 0x10000
     let m := ({ l 1 s.ctx with mem := wrBytes task.mem (k + 0x10) (leBytes 4 9 ++ leBytes 4 9) } : State)
     let m := ({ m with mem := wrBytes m.mem (k + 0x30) (leBytes 4 9) } : State)
     (nxt .budgetYield m).myTile.rq.length == 1)) = true := by decide +kernel

/-- What one instruction of each kind of charge asks (05 Table 05-2, R118): one unit too few yields, as many do not; a PMREQ always does; a
load of another tile's scratchpad that its traffic budget cannot pay. -/
theorem test_witness_cannot_pay : (let with_ (n : Nat) := task.setCtx { task.ctx with ibud := ⟨false, BitVec.ofNat 32 n⟩ }
    let faces (i : Instr) (s : State) := s.canRun && !interlocked i s.ctx && i.wf && s.ctx.user && s.ctx.paid == none &&
      ((issueGuard (guardHow i) (guardPfx i) s.ctx).map (·.s)) == some true
    [Instr.add Pfx.none 1 2, .fdiv (pg 8 0x20) 1 2, .mul Pfx.none 1 2, .mmaHold (pg 2 0x10) 1 4, .mst (pg 2 8) 0 4, .ctradd (pg 5 0) 1 2, .bt Pfx.none 4,
      .hint (pg 14 0) 0x1234, .sysc (pg 7 0) 1].all (fun i => i.isWord && !kernelOnly i && !regionWriter i &&
        faces i (with_ (unitsOf i - 1)) && (nxt i (with_ (unitsOf i - 1))).ctx.wait == .leaving 1 && (nxt i (with_ (unitsOf i))).ctx.wait != .leaving 1) &&
    (let r := task.setCtx { task.ctx with preq := some ⟨⟨false, 5⟩, 0⟩ }
     [Instr.hint (pg 14 0) 0x1234, .mfs (Imm Pfx.none 0x20) 3 1, .sysc (pg 7 0) 1].all (fun i => faces i r && (nxt i r).ctx.wait == .leaving 3) &&
     (nxt (.nop Pfx.none 0 0) (r.setCtx { r.ctx with cont := 0 })).ctx.tinfo == 0x103) &&
    (let m := withRegs (task.setCtx { task.ctx with mbud := ⟨false, 0⟩ }) [(4, BitVec.ofNat 64 (scratchKey 1 0))]
     faces (.ld Pfx.none 3 4 0) m && m.ctx.preq == none && m.ctx.ibud.pays 1 && decide (0 < traffic m (m.rs 4) 8) && (nxt (.ld Pfx.none 3 4 0) m).ctx.wait == .leaving 2)) = true := by
  decide +kernel

/-- A deque at offset 0x4000: ring at 0x4100, capacity 2. -/
def dqHead (top bot : Nat) : List Byte := leBytes 8 (scratchKey 0 0x4100) ++ leBytes 4 2 ++ leBytes 4 0 ++ leBytes 8 top ++ leBytes 8 bot
def dq (top bot : Nat) : State := withRegs ({ task with mem := wrBytes task.mem (scratchKey 0 0x4000) (dqHead top bot) } : State) [(3, sp 0x4000), (4, 55)]
theorem test_witness_deques : (let s := dq 0 0
    let x := nxt (.dqpush (pg 5 0) 3 4) s
    let full := dq 5 7
    s.issues (.dqpush (pg 5 0) 3 4) .plain 2 0 && units (chargedBytes 0 (s.rs 3).toNat 16) == 0 && s.issues (.dqpop (pg 5 0) 5 3) .push 2 0 &&
    isMem (s.access 0 true .atomic (s.rs 3).toNat 64) && !s.ctx.accessHeld && !s.spillBusy && !s.pendTouches (scratchKey 0 0x4000) 64 && rdN x.mem (scratchKey 0 0x4018) 8 == 1 && (nxt (.dqpop (pg 5 0) 5 3) x).rs 5 == 55 &&
    (nxt (.dqsteal (pg 5 0) 5 3) x).rs 5 == 55 && rdN (nxt (.dqsteal (pg 5 0) 5 3) x).mem (scratchKey 0 0x4010) 8 == 1 &&
    (nxt (.dqpop (pg 5 0) 5 3) s).ctx.pst == [no] && (nxt (.dqsteal (pg 5 0) 5 3) s).ctx.pst == [no] && (nxt (.dqpush (pg 5 0) 3 4) full).ctx.tinfo == 6) = true := by
  decide +kernel

theorem test_witness_budgets : (let s := withRegs task [(3, sp 0x10000), (4, 0x0000000100000002)]
    let i := Instr.bgrant (pg 5 0) 3 4
    let k := s.setCtx { s.ctx with mode := 1 }
    s.issues (.bsetcRel (Imm (pg 5 0) 5) 0) .plain 2 0 && s.issues (.bsetcReg (Imm (pg 5 0) 5) 4) .plain 2 0 && s.issues i .push 2 0 &&
    units (chargedBytes 0 (s.rs 3).toNat 8) == 0 && s.ctx.canCarve 2 1 && !s.ctx.canCarve 2000 1 && isOk (dqKey s (sp 0x10000) 64) &&
    (nxt i s).ctx.pst == [yes] && rdN (nxt i s).mem (scratchKey 0 0x10030) 8 == 0x100000002 &&
    (nxt i (withRegs s [(4, 5000)])).ctx.pst == [no] && k.issues (.btop (pg 5 0) 3 4) .plain 2 0 && !k.ctx.user &&
    rdN (nxt (.btop (pg 5 0) 3 4) k).mem (scratchKey 0 0x10030) 8 == 0x100000002 && spend ⟨false, 5⟩ 3 4 == (⟨false, 4⟩, 0) &&
    (match task.ctx.charge 7 2 with | .inl c => c.ibud.count == 993 && c.mbud.count == 998 | .inr _ => false)) = true := by decide +kernel

/-- Channel 3 of tile 0: cells 0 and 1, the node of the tile is the root. -/
def chord : State := task.setChord 0 0 3 0x20003#32
theorem test_witness_barriers : (let s := withRegs chord [(2, 3)]
    s.rootOf 0 3 == some (0, 0) && s.membersBelow 3 0 0 == [0, 1] && !s.myCell.arrived 3 && s.released 1 &&
    (let i := Instr.arrive (pg 5 0) 0 2
     let a := nxt i s
     let b := nxt i (({ a with sel := ⟨1, 0, 0⟩ } : State).setCtx s.ctx)
     s.issues i .plain 1 0 && a.issues i .plain 1 0 && nxt i (a.setCtx s.ctx) == a.setCtx s.ctx && a.myCell.arrived 3 && a.phase 0 0 3 == false && b.phase 0 0 3 && !(b.cell 0).arrived 3 &&
     a.issues (.bwait (pg 5 0) 7 2) .plain 1 0 && (nxt (.bwait (pg 5 0) 7 2) a).ctx.wait == .poll && s.issues (.bstat (pg 5 0) 7 2) .plain 1 0 &&
     (nxt (.bstat (pg 5 0) 7 2) a).rs 7 == 0x100000003 && (nxt (.bwait (pg 5 0) 7 2) s).rs 7 == 0 &&
     (nxt (.bwait (pg 5 0) 7 2) (withRegs task [(2, 3)])).ctx.tcause == 0x16 && (nxt (.bstat (pg 5 0) 7 2) (withRegs task [(2, 3)])).rs 7 == 0 &&
     (nxt (.chordConfigWrite 0 0 3 0xA0001) (s.setChord 0 0 3 0xC0003)).chordWord 0 0 3 == 0xA0001)) = true := by decide +kernel

/-- SUSP waits for its queues; EXIT waits for a place for its join increment, and without a join reference for none. -/
theorem test_witness_leaving : (let w : Word := BitVec.ofNat 64 (3 * 2 ^ 32 + 5 * 2 ^ 16 + 7)
    let s := withRegs (task.addPend (.load 0x100 8 false false 5 6 none none)) [(3, w)]
    let full := task.setMyCell { task.myCell with sendq := List.replicate 8 (.join 0 0 0 0 0 0 0 0) }
    let j := ({ full with mem := wrBytes full.mem (scratchKey 0 0x10038) (leBytes 8 (1 * 2 ^ 42 + 9 * 2 ^ 12)) } : State)
    s.issues (.susp (pg 5 0) 3 0) .plain 2 0 && !s.canLeave && w.extractLsb' 32 32 != 0 && (s.myTile.entry 7).st == 0 && (nxt (.susp (pg 5 0) 3 0) s).ctx.wait == .hold &&
    s.issues (.exit Pfx.none 0 0) .plain 1 0 && !s.canExit && (nxt (.exit Pfx.none 0 0) s).ctx.wait == .hold &&
    full.canExit && joinNull full.joinRef && !full.myCell.sendRoom && !(nxt (.exit Pfx.none 0 0) full).ctx.live &&
    j.canExit && !joinNull j.joinRef && (nxt (.exit Pfx.none 0 0) j).ctx.wait == .hold) = true := by decide +kernel

/-- ARRIVE of a cell that is no member; the last context of cell 1 ends, cell 0 has arrived: cell 1 is withdrawn and the group opens (R317). -/
theorem test_witness_withdrawal : (let z := withRegs task [(2, 3)]
    let i := Instr.arrive (pg 5 0) 0 2
    let s := (chord.setArrived 0 3 true).setCtxAt 1 1 uctx
    let t := s.endTask 1 1 (some 8)
    z.rootOf 0 3 == none && z.issues i .plain 1 0 && z.ctx.paid == none && (nxt i z).ctx.tcause == 0x16 && (nxt i z).ctx.tinfo == 3 &&
    s.rootOf 1 3 == some (0, 0) && !t.isMember 1 3 && t.phase 0 0 3 && cwWd (t.chordWord 0 0 3) && !(t.cell 0).arrived 3 &&
    !(chord.withdrawFrom 1 3).phase 0 0 3 && (chord.setCtxAt 1 1 uctx).withdrawAfter 1 2 == chord.setCtxAt 1 1 uctx &&
    (chord.withdrawAfter 0 0).membersBelow 3 0 0 == [1]) = true := by decide +kernel

/-- A step whose turn is a waiting instruction's runs that instruction, not what its words now say. -/
theorem test_witness_waiting_step : (let i := Instr.bwait (pg 5 0) 7 2
    let s := withRegs chord [(2, 3)]
    let a := (nxt (.arrive (pg 5 0) 0 2) s).noted s (.arrive (pg 5 0) 0 2)
    let w := { (nxt i a).noted a i with agenda := [.issue 0 0] }
    let v : State := { State.clock { w with agenda := [] } with sel := ⟨0, 0, 0⟩ }
    w.power && w.ctx.wait.issued && w.ctx.cur == some i && a.ctx.cur == none && w.myCell.last == 0 && v.canRun && v.ctx.wait.issued && v.ctx.cur == some i && !v.passedOver &&
    (match exec i v, step w with | .next t, .next u => u.cells == (t.noted v i).cells && u.tiles == t.tiles && t.ctx.wait == .poll | _, _ => false)) = true := by decide +kernel

/-- A parked LDS is retried once the granule is full; a long-parked one leaves as a record (R259, R260). -/
theorem test_witness_parks : (let s := withRegs (reg.setCtx { reg.ctx with ident := sp 0x10000, cmask := 0xFFFF }) [(3, 0)]
    let p := nxt (.lds (sg 1) 3 1) s
    let f := (p.setGran 0 (.ctl 0 0) 1)
    let t := nxt .parkedStepRetry f
    p.parked.length == 1 && (match p.parked with | [q] => q.inq && entAct (f.stageEntry q.req q.loc) != .park && f.whoReady q.who | _ => false) &&
    t.parked == [] && t.ctx.wait == .none && t.ctx.pc == s.ctx.pc + 6 && p.ctx.wait == .stage && p.canLeave && (p.frameKey 0 p.ctx.ident).isSome &&
    !(nxt .longParkConversion p).ctx.live && (nxt .longParkConversion p).parked.length == 1) = true := by decide +kernel

/-- The same record's step completes: its value 0x3F800000 into s3's place of the frame, the frame into the ready queue; a FAULT makes it a
record of reason 6 at the parked instruction. -/
theorem test_witness_record_step : (let s := withRegs (reg.setCtx { reg.ctx with ident := sp 0x10000, cmask := 0xFFFF }) [(3, 0)]
    let p := nxt .longParkConversion (nxt (.lds (sg 1) 3 1) s)
    let k := scratchKey 0 0x10000
    let f : State := { p with mem := wrBytes p.mem (scratchKey 0 0x3000) (leBytes 4 0x3F800000) }
    let t := nxt .parkedStepRetry (f.setGran 0 (.ctl 0 0) 1)
    (match p.parked with | [q] => (match q.who with | .record 0 fr _ place => fr == sp 0x10000 && place == placeOf 0 0 && (p.frameKey 0 fr).isSome | _ => false) && p.stepPoison q.req == none && f.stepPoison q.req == none
      && ((p.stageFault q 0 2).myTile.rq.length == 1) && (rd64 (p.stageFault q 0 2).mem (k + 0x40)).extractLsb' 61 3 == 6 | _ => false) &&
    t.parked == [] && t.myTile.rq.map (·.frame) == [sp 0x10000] && rd64 t.mem (k + 0x50 + 24) == 0x3F800000) = true := by decide +kernel

/-! ### Engines, collectives, heaps: group 2 of address space 0 is tile 0 alone -/

def ew : Pfx := Reg (pg 6 0) 5 false false
/-- The control words of COPY, GPOOL (table: descriptor 7, mode 0), and the collectives of group 2. -/
def engineState (cw : Nat) : State := withRegs (({ (reg.wg 3 (box ⟨0, 1, 1⟩ ⟨1, 1, 1⟩)).wg 4 (box ⟨3, 1, 1⟩ ⟨2, 1, 1⟩) with groups := [(2, ⟨false, [0]⟩)] } : State)) [(5, BitVec.ofNat 64 cw), (6, 1)]
def judged (k : EKind) (mk : Pfx → BitVec 4 → BitVec 4 → Instr) (cw : Nat) : Bool :=
  let s := engineState cw
  let u := s.charged 4 0
  engineJudge k ew 4 3 s == none && engineJudge k ew 4 3 u == none && engineTraffic k ew 4 3 s == 0 && s.issues (mk ew 4 3) .plain 4 0 &&
  sound (mk ew 4 3) s && !u.ctx.accessHeld && !(s.myCell.tag (s.rs 5 &&& 7#64).toNat).busy && !u.ragWait (u.rg 3) && !u.ragWait (u.rg 4) && u.released (commandScope k ew 4 3 u) &&
  ((nxt (mk ew 4 3) s).myCell.tag 1).busy

theorem test_witness_engines : (judged .copy .copy 1 && judged .xred .xred 0x20001 && judged .xbcast .xbcast 0x20001 &&
    judged .xgath .xgath 0x20001 && judged .gpool .gpool 0x50001) = true := by decide +kernel

theorem test_witness_engine_reasons : (let s := engineState 0x1001
    engineJudge .copy ew 4 3 s == some ⟨0x13, 0x1000, 3, none⟩ && s.issues (.copy ew 4 3) .plain 0 0 && s.ctx.paid == none && sound (.copy ew 4 3) s &&
    (nxt (.copy ew 4 3) s).ctx.tinfo == 3 && !s.ragWait (s.rg 4) && !s.ragWait (s.rg 3) && engineJudge .xred ew 4 3 (engineState 0x23001) == some ⟨0x13, 0x1000, 7, none⟩ &&
    engineJudge .xgath ew 4 3 (engineState 0x30001) == some ⟨0x13, 0x1000, 6, none⟩) = true := by decide +kernel

def copied : State := nxt (.copy ew 4 3) ({ engineState 1 with mem := wrBytes reg.mem (scratchKey 0 0x3004) (leBytes 4 0x3F800000) } : State)
theorem test_witness_waits : (let d := copied.setTag 0 1 ⟨false, 2, 1, 0, some .copy, 0, none⟩
    copied.issues (.ewait (pg 6 0) 7 6) .plain 2 0 && (nxt (.ewait (pg 6 0) 7 6) copied).ctx.wait == .poll && (nxt (.ewait (pg 6 0) 7 6) d).rs 7 == 2 &&
    copied.issues (.etest (pg 6 0) 7 6) .push 2 0 && (nxt (.etest (pg 6 0) 7 6) copied).ctx.pst == [no] && (nxt (.etest (pg 6 0) 7 6) d).ctx.pst == [yes] &&
    (nxt (.etest (pg 6 0) 7 6) d).rs 7 == 2 && copied.issues (.chunkrd (pg 6 0) 7 6) .plain 2 0 && (nxt (.chunkrd (pg 6 0) 7 6) d).rs 7 == 1) = true := by
  decide +kernel

/-- The element at row 0, column 1 of tile 0's tensor; the same of a tensor in tile 1; volumes 1 and 2. -/
def withCmd (s : State) (f : Cmd → Cmd) : State :=
  let t := s.tagAt 0 1
  ({ s.setTag 0 1 { t with cmd := t.cmd.map f } with sel := ⟨0, 0, 1⟩ } : State)
def far : State := withCmd copied fun c => { c with dstD := { tensor with base := BitVec.ofNat 64 (scratchKey 1 0x3000) } }
theorem test_witness_engine_step : (match (far.tagAt 0 1).cmd with
    | some c => far.engineGoes 0 (some .copy) c && !far.copyInside 0 1 && far.flaws == [] && volume c.srcBoxes == 1 && volume c.dstBoxes == 1 && !c.oneScratch far 0 &&
      (match c.rdElem far 0 c.srcD (listMember c.srcBoxes 0) with
       | .ok v => v == 0x3F800000 && (match c.wrElem far 0 (listMember c.dstBoxes 0) v with | .ok w => rdN w.mem (scratchKey 1 0x3068) 4 == 0x3F800000 | _ => false)
       | _ => false)
    | none => false) = true := by decide +kernel
theorem test_copy : (let a := nxt .engineChunkPerformed far
    let b := nxt .engineCompletion a
    let n := nxt .engineChunkPerformed (withCmd copied fun c => { c with dst := g1 })
    (a.tagAt 0 1).chunks == 1 && (a.tagAt 0 1).busy && ((a.tagAt 0 1).cmd.bind Cmd.grans) == some [] && !(b.tagAt 0 1).busy && (b.tagAt 0 1).cmd == none &&
    (n.tagAt 0 1).err == 3 && (match ((withCmd copied fun c => { c with stop := true }).tagAt 0 1).cmd with | some c => copied.atStop 0 (some .copy) c | none => false) &&
    (nxt .stopUnitReached (withCmd copied fun c => { c with stop := true })).tagAt 0 1 == { copied.tagAt 0 1 with busy := false, err := 6, cmd := none } &&
    (let t := nxt .stopUnitReached ({ k0.setMyTile { k0.myTile with run := .stopping } with sel := ⟨0, 0, 1⟩ } : State); t.myTile.run == .stopped)) = true := by
  decide +kernel

/-- A COPY of two elements in one chunk, and then one after the other. -/
def twoCopies (n : BitVec 4) : State :=
  let s := withCmd far fun c => { c with src := box ⟨0, 1, 1⟩ ⟨1, 2, 1⟩, dst := box ⟨3, 1, 1⟩ ⟨2, 2, 1⟩ }
  { s with mem := wrBytes s.mem (scratchKey 0 0x3008) (leBytes 4 7), sel := ⟨0, n, 1⟩ }
theorem test_engine_chunk : (let s := twoCopies 0
    let r := nxt .engineChunkPerformed s
    let h := nxt .engineChunkPerformed (twoCopies 1)
    let e := nxt .engineChunkPerformed ({ h with sel := ⟨0, 1, 1⟩ } : State)
    (match (s.tagAt 0 1).cmd with
      | some c => s.engineFree 0 1 (some .copy) c && s.engineGoes 0 (some .copy) c && c.vals == none && !c.oneScratch s 0 && c.grans == none && volume c.srcBoxes == 2 && volume c.dstBoxes == 2 &&
        (match c.rdElem s 0 c.srcD (listMember c.srcBoxes 1) with | .ok v => v == 7 | _ => false)
      | none => false) && (s.tagAt 0 1).err == 0 &&
    rdN r.mem (scratchKey 1 0x3068) 4 == 0x3F800000 && rdN r.mem (scratchKey 1 0x306C) 4 == 7 && (r.tagAt 0 1).chunks == 1 &&
    ((r.tagAt 0 1).cmd.bind Cmd.grans) == some [] && rdN h.mem (scratchKey 1 0x306C) 4 == 0 && (h.tagAt 0 1).chunks == 0 &&
    ((h.tagAt 0 1).cmd.map Cmd.pos) == some 1 && ((h.tagAt 0 1).cmd.bind Cmd.grans) == none && e.mem == r.mem && (e.tagAt 0 1).chunks == 1) = true := by decide +kernel

/-- Table 13-8: GPOOL of one bag whose index list is `js`, D = 1, rows 0, 3 and 5 of the table hold 1.0, 2^24 and -2^24. The weights are the
row before the indices: 2.0 each. -/
def pool (mode : Nat) (js : List Nat) : State :=
  let idx : Desc := ⟨sp 0x3220, 2#8, 11#4, false, false, 0#4, #v[0, 0, 0, 0], #v[1, 8, 0, 0], #v[32, 4, 0, 0], 0#64, 0#64, 0#64⟩
  let tab : Desc := { idx with base := sp 0x3400, ty := 1#4, size := #v[8, 1, 0, 0], stride := #v[4, 4, 0, 0] }
  let row : Desc := { idx with base := sp 0x3200, ty := 1#4 }
  let s := withCmd copied fun c => { c with
    srcD := idx, src := box ⟨0, 1, 1⟩ ⟨0, BitVec.ofNat 32 js.length, 1⟩, ctl := BitVec.ofNat 64 (mode * 512), wD := row, tabD := tab }
  let put (m : Memory) (a : Nat) (xs : List Nat) : Memory := wrBytes m (scratchKey 0 a) (xs.flatMap (leBytes 4))
  { (s.setTag 0 1 { s.tagAt 0 1 with kind := some .gpool }) with
    mem := put (put (put s.mem 0x3200 [0x40000000, 0x40000000, 0x40000000]) 0x3220 js) 0x3400 [0x3F800000, 0, 0, 0x4B800000, 0, 0xCB800000], sel := ⟨0, 0, 1⟩ }
def pooled (mode : Nat) (js : List Nat) : Nat := rdN (nxt .engineChunkPerformed (pool mode js)).mem (scratchKey 0 0x3068) 4
theorem test_gpool : (pooled 0 [3, 0, 5] == 0 && pooled 0 [5, 3, 0] == 0x3F800000 && pooled 1 [5, 3, 0] == 0x3EAAAAAB && pooled 2 [3, 0, 5] == 0x4B800000 &&
    pooled 0 [0, 9] == 0x3F800000 && pooled 3 [0] == 0x40000000) = true := by decide +kernel
theorem test_witness_gpool : (let s := pool 3 [0, 9]
    match (s.tagAt 0 1).cmd with
    | some c => s.engineFree 0 1 (some .gpool) c && s.engineGoes 0 (some .gpool) c && s.flaws == [] && c.grans == none && c.vals == none && c.tabD.n == 2 && c.width == 1 &&
      c.wD.n == c.srcD.n && c.bags == [[[0, 0], [0, 1]]] && volume c.dstBoxes == 1 && c.srcD.tyOf == .i32 && c.dstD.tyOf == .f32 &&
      (match c.rdElem s 0 c.srcD [0, 1], c.rdElem s 0 c.tabD [0, 0], c.rdElem s 0 c.wD [0, 1] with | .ok a, .ok b, .ok w => a == 9 && b == 0x3F800000 && w == 0x40000000 | _, _, _ => false) &&
      (({ c with src := { c.src with ragged := true, boxes := [[⟨0, 1, 1⟩, ⟨1, 0, 2⟩]] }, srcLen := [3] } : Cmd).bags == [[[0, 1], [0, 3], [0, 5]]])
    | none => false) = true := by decide +kernel

/-- A completion step: the transition 1 of granule 0 of a staged tensor. -/
theorem test_witness_completion : (let s := (withCmd copied fun c => { c with ctl := 0x19, dstD := { tensor with staged := true }, grans := some [0] }).setGran 0 (.ctl 0 0) 1
    match (s.tagAt 0 1).cmd with
    | some c => (match granLoc c.dstD c.user (fun va => c.access s 0 .stage va 8) 0 with
      | .ok l => s.flaws == [] && !s.granLost l && (match stageRun 0 ⟨.trn, c.dstD, c.asid, 1, [(0, l)], none, 0#64, 0, (s.tagAt 0 1).scope, 0#2, 0, 0#64, none, none, c.user⟩ .issue none 0#2 [(0, l)] s with
        | .done _ _ _ => true | _ => false)
      | _ => false)
    | none => false) = true := by decide +kernel

/-- XRED of one member: it joins, is checked, gets its own code, is written and completes; requests from elsewhere wait, cancel, or
name no space of this module. -/
def red : State := nxt (.xred ew 4 3) ({ engineState 0x20001 with mem := copied.mem, ftags := [(5, 9#16)] } : State)
theorem test_witness_collective : (let s := red
    match (s.tagAt 0 1).cmd, s.group 0 2 with
    | some c, some g =>
      let a := nxt (.collectiveRequest (.here 0 1)) s
      let ask (tag : BitVec 16) (e : BitVec 4) := nxt (.collectiveRequest (.there tag 9 7 2 3 1 0 0 1 false 0 e [1])) s
      (s.tagAt 0 1).kind == some .xred && (s.tagAt 0 1).err == 0 && !c.posted && c.grans == none && s.engineGoes 0 (some .xred) c && s.rankIn g 0 == some 0 &&
      (readAll c 0 0 false c.srcBoxes id 1 0 [] ⟨s, 0#4, 0, false, none, []⟩).2.absent == none && (((a.tagAt 0 1).cmd.bind Cmd.vals).isSome) &&
      rdN (nxt .engineChunkPerformed ({ a with sel := ⟨0, 0, 1⟩ } : State)).mem (scratchKey 0 0x3068) 4 == 0x3F800000 &&
      (let d := nxt .engineChunkPerformed ({ a with sel := ⟨0, 0, 1⟩ } : State)
       d.allOver c.name && !(nxt .engineCompletion d |>.tagAt 0 1).busy && !a.allOver c.name && s.shelved (5, 9, 7) == [] && s.insts == [] && a.named c.name != [] &&
       (let z := ({ a with sel := ⟨0, 0, 1⟩ } : State).setTag 0 1 { a.tagAt 0 1 with cmd := (a.tagAt 0 1).cmd.map fun m => { m with vals := none } }
        (match z.named c.name with
         | [(0, 1, m)] => volume m.dstBoxes == 1 && m.dstD.tyOf != .q4n && ((z.giveResult (z.inst c.name) .f32 [7]).tagAt 0 1).err == 0 &&
           ((z.giveResult (z.inst c.name) .f32 [7, 8]).tagAt 0 1).err == 3 | _ => false))) &&
      s.spaceOf true 9 == 5 && (ask 9 0).insts.map (·.asid) == [5#12] && ask 9 6 == s && s.named (5, 9, 7) == [] && s.spaceOf true 8 == 65544 && ask 8 0 == s
    | _, _ => false) = true := by decide +kernel
/-- One part of rank 0 and one of this module's engine; group 3 is modules 7 and 0, so that rank 0 is elsewhere (R329). -/
def inst (g : BitVec 8) (k : BitVec 2) (o : Option (List Nat)) (ps : List (Nat × Nat)) : Inst :=
  ⟨0, g, 0, false, o, 0, ps.map fun (m, r) => ⟨m, ps.length, r, if m = 0 then some (0, 1) else none, k, 0, 1, false, 0, 0, [0x3F800000]⟩⟩
theorem test_witness_instances : (let s : State := { red with groups := [(2, ⟨false, [0]⟩), (3, ⟨true, [7, 0]⟩)] }
    let ok (x : Inst) (n : Nat) (arr : List Part) (v : Nat) := !x.started && x.fate == 0 && x.parts.any (·.here.isSome) && !disagree x.parts n &&
      (match s.group x.asid x.group with | some g => x.parts.all (fun q => placeIn q.sender g.ids == some q.rank && q.n == n && q.err == 0) | none => false) &&
      (List.range n).all (fun r => (partRank x.parts r).isSome) && collect x.parts arr n == some (Ty.f32, [v])
    ok (inst 2 0 none [(0, 0)]) 1 (inst 2 0 none [(0, 0)]).parts 0x3F800000 && ok (inst 2 1 none [(0, 0)]) 1 (inst 2 0 none [(0, 0)]).parts 0x3F800000 &&
    (match s.group 0 2, s.group 0 3 with
     | some g, some h => s.arrOrder g (inst 2 1 none [(0, 0)]) == some (inst 2 1 none [(0, 0)]).parts && s.rankIn g 0 == some 0 && s.rankIn h 0 == some 1 &&
       (s.sendColl h (.order 0 3 0 [])).fab.colls == [(7, .order 0 3 0 [])] && s.arrOrder h (inst 3 1 none [(0, 1), (7, 0)]) == none &&
       s.arrOrder h (inst 3 1 (some [0, 1]) [(0, 1), (7, 0)]) == some (inst 3 1 none [(7, 0), (0, 1)]).parts
     | _, _ => false) &&
    (match s.group 0 2 with
     | some g =>
       let bad := { inst 2 0 none [(0, 0)] with parts := (inst 2 0 none [(0, 0)]).parts.map fun q => { q with n := 2 } }
       let err := { inst 2 0 none [(0, 0)] with parts := (inst 2 0 none [(0, 0)]).parts.map fun q => { q with err := 2 } }
       bad.parts.any (fun q => q.n != g.members.length) && ((s.tryInst bad).tagAt 0 1).err == 5 && ((s.tryInst bad).tagAt 0 1).busy &&
       !disagree err.parts 1 && ((byRank err.parts 1).find? (·.err != 0#4)).isSome && ((s.tryInst err).tagAt 0 1).err == 2
     | none => false) &&
    (match s.group 0 3 with
     | some h =>
       let odd := { inst 3 0 none [(0, 1), (7, 0)] with parts := (inst 3 0 none [(0, 1), (7, 0)]).parts.map fun q => if q.sender = 7 then { q with op := 2 } else q }
       odd.parts.all (fun q => placeIn q.sender h.ids == some q.rank && q.n == 2) && disagree odd.parts 2 && (s.tryInst odd).insts.map (·.fate) == [5] &&
       (let r : State := { s with ftags := [(0, 9)] }
        let t := nxt (.collectiveRequest (.there 9 3 7 2 3 1 0 0 1 false 0 5 [])) r
        r.spaceOf true 9 == 0 && r.named (0, 3, 7) == [] && r.shelved (0, 3, 7) == [] && t.insts.map (·.fate) == [5])
     | none => false) &&
    ok (inst 3 1 (some [0, 1]) [(0, 1), (7, 0)]) 2 (inst 3 1 none [(7, 0), (0, 1)]).parts 0x40000000) = true := by decide +kernel

/-- An instance that failed with 0x5 on this module fails a further part of the same round, and a new round begins; with a lost member that
has sent no part the instance fails with 0x1 (15 R367). -/
theorem test_witness_failed_instances : (let s : State := { red with groups := [(2, ⟨false, [0]⟩), (3, ⟨true, [7, 0]⟩)] }
    let x := { inst 2 0 none [(0, 0)] with fate := 5 }
    let cut : State := { s with fab := { s.fab with lost := [7] } }
    x.begins 0 && !({ x with parts := [] } : Inst).begins 0 &&
    (match s.group 0 3 with
     | some h => h.modules && (7 : Nat) ∈ h.ids && cut.fab.lost.contains (7 : BitVec 10) &&
       (let y := inst 3 0 none [(0, 1)]
        let y : Inst := { y with parts := y.parts.map fun q => { q with n := 2 } }
        y.parts.all (fun q => q.n == h.members.length && placeIn q.sender h.ids == some q.rank && q.sender != 7) &&
          !y.started && (cut.tryInst y).insts.map (·.fate) == [1] && (s.tryInst y).insts == [])
     | none => false)) = true := by decide +kernel

/-- A command inside a unit goes on; a killed one's saved image says 0x6 (R336). -/
theorem test_witness_kill : (let c := withCmd copied fun c => { c with stop := true, dst := { g1 with boxes := [[⟨0, 4, 1⟩, ⟨0, 8, 1⟩]] }, src := { g1 with boxes := [[⟨0, 4, 1⟩, ⟨0, 8, 1⟩]] }, pos := 1 }
    let d := withCmd copied fun c => { c with stop := true }
    let v : State := match (copied.tagAt 0 1).cmd with | some m => { copied with vault := [(m.num, .cmd m)] } | none => copied
    (match (c.tagAt 0 1).cmd, (d.tagAt 0 1).cmd, (v.tagAt 0 1).cmd with
     | some m, some n, some o => m.coll == none && m.stop && !m.atStop (c.tagAt 0 1).kind && nxt .stopUnitReached c == c && n.coll == none && n.atStop (d.tagAt 0 1).kind &&
       (mget? v.vault o.num).isSome && mget? (v.killTag 0 1).vault o.num == some (.cmd { o.over 6#4 with late := 6#4, closed := true })
     | _, _, _ => false)) = true := by decide +kernel

/-- A heap of capacity 2 at offset 0x2000: scores 1 and 2 in f32, ids 7 and 8. -/
def hpBytes (n : Nat) : List Byte := leBytes 4 2 ++ leBytes 4 n ++ leBytes 8 0 ++ leBytes 8 0x000000073F800000 ++ leBytes 8 0x0000000840000000
def hp (n : Nat) : State := withRegs ({ u0 with mem := wrBytes u0.mem (scratchKey 0 0x2000) (hpBytes n) } : State)
  [(3, sp 0x2000), (4, sp 0x5000), (5, 0x0000000940400000), (6, 0x7FC00000), (7, 3), (8, 0x000000013F000000)]
theorem test_witness_heaps : (let offer (e : BitVec 5) (s : State) := nxt (.hpoffer (Reg (pg 6 0) e false false) 2 3) s
    let s := hp 2
    let read := Instr.hpread (Reg (pg 6 0) 4 false false) 2 3
    s.issues (.hpoffer ew 2 3) .plain 2 0 && chargedBytes s.tid (s.rs 3).toNat 1 == 0 && heapKey 0 (s.rs 3) == some (scratchKey 0 0x2000) && !s.ctx.accessHeld && s.flaws == [] && s.poison == [] &&
    isMem (s.access 0 true .atomic (s.rs 3).toNat 16) && isMem (s.access 0 true .atomic (s.rs 3).toNat 32) && !s.pendTouches (scratchKey 0 0x2000) 32 &&
    (offer 6 s).rs 2 == 1 && (offer 8 s).rs 2 == 1 && (offer 5 s).rs 2 == 0x0000000700000002 && rdN (offer 5 s).mem (scratchKey 0 0x2010) 8 == 0x0000000940400000 &&
    (offer 5 (hp 1)).rs 2 == 0 && rdN (offer 5 (hp 1)).mem (scratchKey 0 0x2004) 4 == 2 && s.issues read .plain 2 0 &&
    isOk (wordPieces s (s.rs 4) (sortRank (heapEntries s (scratchKey 0 0x2000) 2))) && (nxt read s).rs 2 == 2 &&
    rdN (nxt read s).mem (scratchKey 0 0x5000) 8 == 0x0000000840000000 && rdN (nxt read s).mem (scratchKey 0 0x5008) 8 == 0x000000073F800000) = true := by
  decide +kernel

theorem test_rank_order : (let l : List Word := [0x000000073F800000, 0x0000000840000000, 0x0000000540000000, 0x00000001BF800000]
    l.all (fun w => !(fmtF32.decode (w.toNat % 2 ^ 32)).isNaN) && sortRank l == [0x0000000540000000, 0x0000000840000000, 0x000000073F800000, 0x00000001BF800000] &&
    lowest 0 l == some (3, 0x00000001BF800000)) = true := by decide +kernel

theorem test_witness_routing : (let s := ({ hp 2 with mem := wrBytes u0.mem (scratchKey 0 0x2000) (leBytes 4 0xFFFFFFFE) } : State)
    let inc := Instr.rcinc (Reg (pg 6 0) 7 false false) 2 3
    let snap := Instr.rcsnap (pg 6 0) 4 3
    s.issues inc .plain 2 0 && isMem (s.access 0 true .atomic (s.rs 3).toNat 4) && (nxt inc s).rs 2 == 0xFFFFFFFE && rdN (nxt inc s).mem (scratchKey 0 0x2000) 4 == 0xFFFFFFFF &&
    s.issues snap .plain 2 0 && isMem (s.access 0 true .atomic (s.rs 3).toNat 256) && isOk (wordPieces s (s.rs 4) (List.replicate 32 0)) &&
    rdN (nxt snap s).mem (scratchKey 0 0x2000) 4 == 0 && rdN (nxt snap s).mem (scratchKey 0 0x5000) 8 == 0xFFFFFFFE) = true := by decide +kernel

/-! ### Images, stops, answers: tile 2 is stopped, its slot (32, 1) live -/

/-- The state address of a tile, cell and slot (Table 14-8), in class `k`. -/
def sa (k t c n off : Nat) : Word := BitVec.ofNat 64 (k * 2 ^ 56 + t * 2 ^ 44 + c * 2 ^ 40 + n * 2 ^ 36 + off)
def rich : Ctx := { kctx with pst := [no, yes], vcnt := 5, fcsr := 0x12, regs := vset kctx.regs 3 0x77, ident := sp 0x10000, mode := 0, ks := vset kctx.ks 1 9 }
def sys : State :=
  withRegs ((({ k0 with tiles := [(0, tile0), (2, { Tile.reset with run := .stopped })] } : State).setCtxAt 32 1 rich))
    [(3, sa 1 2 0 1 0), (4, sp 0x4000), (5, 0x77)]
def four : Pfx := Reg (pg 7 0) 4 false false

/-- The image that R350 lays out: pc at 0x00, gpr 3 at 0x68; the slot is freed, and a load gives the context back. -/
theorem test_images : (let t := nxt (.ctxsvCtx four 3) sys
    let u := nxt (.ctxldCtx four 3) (withRegs t [(3, sa 1 2 0 1 0)])
    sys.issues (.ctxsvCtx four 3) .plain 1 0 && sys.quiet 32 1 && isOk (storeLines sys (sys.rs 4) 8 rich.image) && !(t.ctxAt 32 1).live &&
    rdN t.mem (scratchKey 0 0x4000) 8 == 0x1000 && rdN t.mem (scratchKey 0 0x4008) 8 == scratchKey 0 0x10000 && rdN t.mem (scratchKey 0 0x4068) 8 == 0x77 && t.ctx.pc == 0x1006 &&
    u.ctx.tinfo == 0x22 && ({ (rich.fresh true).load 2 0 rich.image with live := true }).regs == rich.regs) = true := by decide +kernel

/-- The same on tile 0, whose pool has the frame of the image. -/
def sys0 : State := withRegs (sys.setCtxAt 0 1 rich) [(3, sa 1 0 0 1 0), (4, sp 0x4000), (5, 0x77)]
theorem test_witness_load : (let s := { sys0 with mem := (nxt (.ctxsvCtx four 3) sys).mem, cells := k0.cells }
    let s := withRegs s [(3, sa 1 0 0 1 0), (4, sp 0x4000)]
    let t := nxt (.ctxldCtx four 3) s
    s.issues (.ctxldCtx four 3) .plain 1 0 && isOk (readLines s (s.rs 4) 8) && (match readLines s (s.rs 4) 8 with
      | .ok bs => (s.bindIdent 0 (dwordsOf bs 64)).isSome | _ => false) && (t.ctxAt 0 1).live && (t.ctxAt 0 1).ident == sp 0x10000 &&
    (t.ctxAt 0 1).pst == [no, yes] && (t.ctxAt 0 1).vcnt == 5 && vget (t.ctxAt 0 1).regs 3 0 == 0x77) = true := by decide +kernel

def images (x : Word) : State :=
  { k0 with tiles := [(2, { Tile.reset with run := .stopped })], cells := [(0, { Cell.reset with slots := vset Cell.reset.slots 0 { kctx with
    regs := #v[0, 0, 0, x, sp 0x4000, 0, 0, 0, 0, 0, 0, 0, 0, 0, 0, 0] } })] }
theorem test_witness_image_hyps : (let s := images (sa 3 2 0 0 0)
    [Instr.ctxsvCell, Instr.ctxsvTile, Instr.ctxldCell, Instr.ctxldTile].all (fun mk => s.issues (mk four 3) .plain 1 0) && !s.ctx.user &&
    s.rs 4 == sp 0x4000 && s.rs 3 == sa 3 2 0 0 0 && s.stopped 2 && s.ctx.pend == [] &&
    !s.ctx.accessHeld && !(s.tile 2).pbad && (s.tile 2).granBad == 0 && s.flaws == [] && !(List.range 4096).any (s.cellBad 32)) = true := by decide +kernel
/-- Lines that are aligned and may be stored to are stored. -/
def linesOk (s : State) : Word → Nat → Bool
  | _, 0 => true
  | va, n + 1 => va.toNat % 64 == 0 && isMem (s.access s.cid s.ctx.user .write va.toNat 64) && linesOk s (va + 64#64) n
theorem storeLines_ok (s : State) : ∀ n (va : Word) ws, ws.length = 8 * n → linesOk s va n = true → isOk (storeLines s va n ws) = true
  | 0, _, _, _, _ => rfl
  | n + 1, va, ws, hl, h => by
    simp only [linesOk, Bool.and_eq_true, beq_iff_eq] at h
    have len : ((ws.take 8).flatMap fun w => leBytes 8 w.toNat).length = 64 := by
      simp [List.length_flatMap, hl]
    have ih := storeLines_ok s n (va + 64#64) (ws.drop 8) (by simp; omega) h.2
    unfold storeLines State.storePiece
    simp only [len, h.1.1]
    cases ha : s.access s.cid s.ctx.user .write va.toNat 64 <;> simp [ha, isMem] at h ⊢
    cases hs : storeLines s (va + 64#64) n (ws.drop 8) <;> simp [hs, isOk] at ih ⊢
theorem test_witness_cell_save : isOk (storeLines (images (sa 3 2 0 0 0)) (sp 0x4000) 512 ((List.range 4096).map ((images (sa 3 2 0 0 0)).cellDw 32))) = true :=
  storeLines_ok _ _ _ _ (by simp) (by decide +kernel)
theorem test_witness_tile_save : isOk (storeLines (images (sa 4 2 0 0 0)) (sp 0x4000) 2048 ((List.range 16384).map ((images (sa 4 2 0 0 0)).tileDw 2))) = true :=
  storeLines_ok _ _ _ _ (by simp) (by decide +kernel)
theorem test_witness_cell_load : isOk (readLines (images (sa 3 2 0 0 0)) (sp 0x4000) 512) = true := by decide +kernel
theorem test_witness_tile_load : isOk (readLines (images (sa 4 2 0 0 0)) (sp 0x4000) 2048) = true := by decide +kernel

theorem test_witness_state_access : (let at_ (x : Word) := withRegs sys [(3, x)]
    let five := Reg (pg 7 0) 5 false false
    let run (x : Word) := nxt (.ctxldReg five 3) (at_ x)
    (at_ 0).issues (.ctxldReg five 3) .plain 1 0 && [sa 1 2 0 1 0x50, sa 1 0 0 1 0x50].all (fun x => !(at_ x).spaceWaits x 0x77) && (at_ 0).issues (.regrd (pg 7 0) 6 3) .plain 1 0 && ((at_ 0).stateWrite 1 (sa 1 2 0 1 0x50) 0x77).isSome &&
    (at_ 0).stateWrite 1 (sa 1 0 0 1 0x50) 0x77 == none && vget ((run (sa 1 2 0 1 0x50)).ctxAt 32 1).regs 0 0 == (0x77 : Word) &&
    (run (sa 1 0 0 1 0x50)).ctx.tinfo == 0x100 && (nxt (.regrd (pg 7 0) 6 3) (at_ (sa 1 2 0 1 0))).rs 6 == 0x1000 &&
    (nxt (.regrd (pg 7 0) 6 3) (at_ (sa 1 2 0 1 4))).ctx.tcause == 4 && !(at_ (sa 1 2 0 1 0)).stateBad (sa 1 2 0 1 0) &&
    (let b := (at_ (sa 3 2 0 0 0x1200)).setCell 32 { (at_ 0).cell 32 with gbad := 2 }
     b.ctx.paid == none && b.stateBad (b.rs 3) && (nxt (.regrd (pg 7 0) 6 3) b).ctx.tcause == 0x15)) = true := by decide +kernel

theorem test_witness_context_image : (rich.pst.length == 2 && rich.spilled == 0 && decide (rich.pdepth ≤ 64) && rich.mode != 3 &&
    rich.tstat &&& 0x77 == rich.tstat) = true := by decide +kernel

/-- PMREQ.ctx on (32, 1), asked and not; PMREQ.stop and .go on tiles 0 and 2; PMREQ.frame of a held frame. -/
theorem test_witness_preempt : (let c (w : Word) := withRegs sys [(3, w)]
    let ask (w : Word) := ((c w).setCtx { (c w).ctx with wait := .asked })
    let i := Instr.pmreqCtx (pg 7 0) 3
    let w : Word := 0x210020
    let t := nxt i (c w)
    (c w).issues i .plain 1 0 && (ask w).issues i .plain 1 0 && (t.ctxAt 32 1).preq == some ⟨rich.ibud, 2⟩ && t.ctx.wait == .asked &&
    (nxt i t).ctx.wait == .asked && (nxt i (ask w)).ctx.pc == 0x1004 && (nxt i (c 0x220020)).ctx.pc == 0x1004 && !rich.double) = true := by decide +kernel
theorem test_witness_tile_stops : (let s (t : Word) := withRegs sys [(3, t)]
    let stop := Instr.pmreqStop (pg 7 0) 3
    let go := Instr.pmreqGo (pg 7 0) 3
    (s 0).issues stop .plain 1 0 && (s 0).issues go .plain 1 0 && (nxt stop (s 2)).ctx.pc == 0x1004 && (nxt stop (s 0)).myTile.run == .stopping &&
    (nxt stop (s 0)).ctx.wait == .asked && ((nxt go (s 2)).tile 2).run == .running &&
    (nxt stop ((s 0).setMyTile { tile0 with run := .stopping })).ctx.wait == .asked &&
    (let f := withRegs sys [(3, sp 0x10000), (4, 0)]
     f.issues (.pmreqFrame four 3) .plain 1 0 && (f.tile 0).accepts && (f.frameKey 0 (sp 0x10000)).isSome &&
     (nxt (.pmreqFrame four 3) f).myTile.rq.length == 1)) = true := by decide +kernel

/-- Space 7 has tile 3 alone: its halt records are 16 blocks of 256 bytes from cell id 48 on. -/
def gang : State := withRegs { sys with tiles := [(0, tile0), (3, { Tile.reset with asid := 7 })] } [(3, 7), (4, sp 0x4000), (6, 0x40), (7, 0x1000)]
theorem test_witness_gangs : (gang.partition 7 == [3] && gang.issues (.gangstopStop four 3) .plain 1 0 && gang.issues (.gangstopRestart (pg 7 0) 3) .plain 1 0 &&
    isOk (haltLines gang (gang.rs 4) ((List.range 16).map (48 + ·))) && gang.ctx.wait == .none && gang.ctx.pend == []) = true := by decide +kernel
theorem test_gangstop : (let a := gang.setCtx { gang.ctx with wait := .asked }
    let t := nxt (.gangstopRestart (pg 7 0) 3) (gang.setTile 3 { gang.tile 3 with run := .stopped })
    a.issues (.gangstopStop four 3) .plain 1 0 && (nxt (.gangstopStop four 3) a).ctx.wait == .asked &&
    (nxt (.gangstopStop four 3) (a.setTile 3 { a.tile 3 with run := .stopped })).ctx.pc == 0x1006 && (gang.tile 3).run != .stopped && !gang.ctx.accessHeld && (t.tile 3).run == .running) = true := by decide +kernel
theorem test_witness_tlbinv : (let i := Instr.tlbinv (Reg (pg 7 0) 7 false false) 3 6
    let e (v : Nat) : TlbEntry := ⟨7, 0, v, 0⟩
    gang.issues i .plain 1 0 && (nxt i (withRegs gang [(7, 0)])).ctx.pc == 0x1006 &&
    (let s := withRegs ({ gang with cells := [] } : State) []
     let s := (s.setCell 48 { Cell.reset with utlb := [e 0x1000, e 0x10000000] })
     (s.cells.all (fun x => s.asidOf (x.1 / 16) != 6)) && ((s.invalidate 6 0 0x10000).cell 48).utlb.length == 2 &&
     ((s.invalidate 7 0 0x10000).cell 48).utlb == [e 0x10000000])) = true := by decide +kernel

/-- A context that waits at MTU 0 under id 5 for `ld s3, [s4]` at 0x1000, whose code its cell has translated, and whose line holds 0x99. -/
def absent : State :=
  let s : State := { task with mtus := [(0, { (task.mtu 0) with sent := [5] })], sel := ⟨1, 0, 0⟩, mem := wrBytes (wrBytes task.mem 0x1000 [0x40, 0x73]) (scratchKey 0 0x300) [0x99] }
  let s := (s.mapCode 0x1000).setCtx { uctx with ident := sp 0x10100, wait := .mtu 5 0x8000 .load, paid := some (1, 1), regs := vset uctx.regs 4 (sp 0x300) }
  { s with sel := k0.sel }
/-- The same away, and once its page is answered, its access on the image, its restore. -/
def gone : State := nxt (.answerLongService 0 5) absent
def back : State := { nxt (.answerRetry 0 5) gone with sel := ⟨1, 0, 0⟩ }
theorem test_witness_answers : ((absent.consume 0 5).mtuCtx 0 5 == some (1, 0, 0x8000, .load) && !absent.answerWaits 0 5 2 && ((absent.consume 0 5).ctxAt 1 0).preq == none &&
    ((absent.consume 0 5).saveLines 0 (sp 0x10100) .write).isSome && ((absent.consume 0 5).frameKey 0 (sp 0x10100)).isSome &&
    ((nxt (.answerRetry 0 5) absent).ctxAt 1 0).wait == .answered && ((nxt (.answerRetry 0 5) (absent.setCtxAt 1 0 { absent.ctxAt 1 0 with paid := none })).ctxAt 1 0).wait == .none &&
    ((nxt (.answerRefuse 0 5) absent).ctxAt 1 0).tcause == 5 && !(gone.ctxAt 1 0).live && (gone.consume 0 5).mtuCtx 0 5 == none &&
    (gone.consume 0 5).mtuStream 0 5 == none && (gone.consume 0 5).mtuCmd 0 5 == none && gone.away.map (·.ready) == [false] && back.away.map (·.ready) == [true]) = true := by
  decide +kernel
theorem test_witness_away : (let s := back
    let r := s.awayTurn
    let z := nxt .switchInRestore r
    (match s.away.find? (fun w => w.ready && !w.due && w.cell == s.cid && w.slot == s.sid), s.saveLines 0 (sp 0x10100) .write with
     | some w, some keys => (match issueNow (s.setCtx { w.ctx s.ctx (s.getImage keys) with wait := .answered }) with
       | .next t => t.ctx.wait == .none && t.sel == s.sel && (performFirst t.ctx.pend.length t).sel == s.sel
       | _ => false)
     | _, _ => false) &&
    r.away.map (·.due) == [true] && !r.ctx.live && (r.saveLines 0 (sp 0x10100) .read).isSome && (r.frameKey 0 (sp 0x10100)).isSome &&
    s.away.all (fun w => w.mode != 2) && s.flaws == [] && r.flaws == [] && z.away == [] && z.ctx.live && z.rs 3 == 0x99 && z.ctx.pc == 0x1002 && z.ctx.paid == none) = true := by decide +kernel

/-! ### The host, commands, module events: queue 2 at byte 0x1000 of HBM, 16 entries, the entry at RPTR given -/

/-- A command entry (Table 15-2): KIND, NH, TILE, CTR, PTR, EVENT at 0x10, COUNT or VALUE at 0x14, the first handle at 0x20. -/
def entry (kind nh tile ctr ptr ev n h : Nat) : List Byte :=
  leBytes 1 kind ++ leBytes 1 nh ++ leBytes 2 tile ++ leBytes 2 ctr ++ leBytes 2 0 ++ leBytes 8 ptr ++ leBytes 4 ev ++ leBytes 4 n ++ leBytes 8 0 ++ leBytes 4 h
def queued (e : List Byte) : State :=
  let s : State := { State.reset with mem := wrBytes [] 0x1000 e, sel := ⟨0, 0, 2⟩ }
  s.setQueue 2 { Queue.reset with qbase := 0x1000, qsize := 4, wptr := 1 }
def rptr (s : State) : Nat := (s.queue 2).rptr.toNat

theorem test_witness_commands : (let c (k : Nat) := queued (entry k 0 0 0 0 5 9 0)
    [0, 1, 2, 3].all (fun k => (c k).hasEntry 2 && (c k).entryErr 2 == 0 && (c k).entryN 2 0 1 == k) && !State.reset.hasEntry 2 && (c 0).flaws == [] &&
    (queued (entry 4 0 0 0 0 0 0 0)).entryErr 2 == 1 && (nxt .cmdNoop (queued (entry 4 0 0 0 0 0 0 0))).queue 2 == { (c 0).queue 2 with stop := true, err := 1 } &&
    (queued (entry 1 9 0 0 0 0 0 0)).entryErr 2 == 2 && (queued (entry 0 9 0 0 0 0 0 0)).entryErr 2 == 0 && (queued (entry 1 0 2560 0 0 0 0 0)).entryErr 2 == 3 && (queued (entry 1 0 0 0 8 0 0 0)).entryErr 2 == 4 &&
    (queued (entry 3 0 0 0 0 4096 0 0)).entryErr 2 == 6 && rptr (nxt .cmdNoop (c 0)) == 1 && ((c 2).queue 2).runs == [] &&
    (let t := nxt .cmdSignal (c 2); rptr t == 1 && mget t.host.events 5 0 == 9) && rptr (nxt .cmdWait (c 3)) == 0 &&
    rptr (nxt .cmdWait ((c 3).setHost { (c 3).host with events := [(5, 9)] })) == 1) = true := by decide +kernel

/-- A launch of tile 0, counter 3, count 1, the record in tile 0's scratchpad, one handle; then its end. -/
theorem test_witness_launch : (let s := queued (entry 1 1 0 3 (scratchKey 0 0x800) 0 1 0x80000005)
    let t := nxt .cmdLaunch s
    let d := t.setTile 0 { t.tile 0 with ctrs := [(3, { (t.tile 0).ctr 3 with value := 1 })] }
    s.quietSpace 0 && !t.quietSpace 0 && s.hasEntry 2 && s.entryErr 2 == 0 && (s.queue 2).runs == [] && isMem (s.walkAccess 0 0 false .read (scratchKey 0 0x800) 64) && (s.tile 0).accepts && s.clocked 0 &&
    (t.tile 0).rq.map (·.kernel) == [true] && (t.queue 2).runs == [⟨0, 3, 1, [0x80000005]⟩] && rptr t == 1 && !t.launchDone ⟨0, 3, 1, [0x80000005]⟩ &&
    ((d.queue 2).runs.find? d.launchDone).isSome && ((nxt .launchEnd d).queue 2).runs == []) = true := by decide +kernel

theorem test_witness_host : (let on := State.reset.setQueue 2 { Queue.reset with qsize := 4 }
    let r : State := { State.reset with host := { State.reset.host with recovery := true } }
    let busy := State.reset.setCtxAt 0 0 uctx
    !State.reset.host.recovery && (State.reset.queue 2).qsize == 0 && ((nxt (.wptrWrite 2 7) on).queue 2).wptr == 7 && ((nxt (.qsizeWrite 2 0) on).queue 2).qsize == 0 &&
    ((nxt (.qsizeWrite 2 5) State.reset).queue 2).qsize == 5 && ((nxt (.hostRegisterWrite 0x180 0x1FFF) State.reset).queue 2).qbase == 0x1FC0 &&
    ((nxt (.hostRegisterWrite 0x1A8 0x7) State.reset).queue 2).qasid == 7 && (nxt (.hostRegisterWrite 0x8000 5) State.reset).host.maddr == 5 &&
    (nxt (.anonceWrite 3) State.reset).host.signing == some 3 && (nxt .pstateFull State.reset).host.pstate == 0 && (nxt .pstateIdle busy).host.pstate == 0 &&
    ((nxt .pstateIdle busy).queue 0).pref && !busy.allStopped && State.reset.allStopped && (nxt .pstateIdle State.reset).host.pstate == 2 &&
    rdN (nxt (.hostMemoryAccess (.write 0x40 [1, 2])) State.reset).mem 0x40 2 == 0x201 && r.host.recovery &&
    (nxt (.hostMemoryAccess (.stage 0 [1, 2])) r).host.staging.take 2 == [1, 2] && (nxt (.wptrWrite 2 7) r).queue 2 == r.queue 2 &&
    (nxt (.hostMemoryAccess (.stage 0 [1, 2])) r).bar2Read 1 == 2 && r.bar2Read (2 ^ 23) == 0 && nxt (.hostMemoryAccess (.stage 0 [1, 2])) State.reset == State.reset) = true := by decide +kernel
theorem test_witness_mdata : (let s := sys.setHost { sys.host with maddr := sa 1 2 0 1 0x50 }
    saOff s.host.maddr % 8 == 0 && saClass s.host.maddr != 7 && (s.stateWrite 1 s.host.maddr 0x77).isSome && !s.host.recovery &&
    vget ((nxt (.mdataWrite 0x77) s).ctxAt 32 1).regs 0 0 == 0x77) = true := by decide +kernel

/-- An empty flash verifies nothing: reset enters recovery mode. Whether an image verifies is the signature scheme's to say. -/
theorem test_witness_boot : (!imageVerifies State.reset.host.flash State.reset.host.fuses && (nxt .moduleReset State.reset).host.recovery &&
    (let r := nxt .moduleReset State.reset
     r.host.recovery && !imageVerifies r.host.staging r.host.fuses && (nxt .recoveryGo r).host.recovery && (nxt .recoveryGo State.reset).host.flash == [] &&
     !(nxt (.powerLoss false) State.reset).power) &&
    (let s : State := { State.reset with power := false, agenda := [.issue 0 0] }
     match step s with | .fault .noPower => true | _ => false)) = true := by decide +kernel
theorem test_witness_events : (let s := State.reset.setHost { State.reset.host with signing := some 5 }
    let l := nxt (.linkCrcResend 3 false []) State.reset
    let d : State := { State.reset with fab := { State.reset.fab with lost := [7, 9] } }
    s.host.signing == some 5 && l.fab.resends == 1 && State.reset.fab.downs == [] && (nxt (.moduleBecomesReachable 7) d).fab.lost == [9] && State.reset.poison == [] &&
    rdN (nxt (.poolBackInvalidate 1 3) State.reset).mem (2 ^ 56 + 64) 8 == 3 &&
    (nxt (.remoteRequestArrival (.load 0x40 2)) State.reset).fab.answers == [.data [0, 0]] &&
    rdN (nxt (.remoteRequestArrival (.store 0x40 [5])) State.reset).mem 0x40 1 == 5 &&
    rdN (nxt (.remoteRequestArrival (.atomic 0 true 0x40 5 0)) (nxt (.remoteRequestArrival (.store 0x40 [5])) State.reset)).mem 0x40 8 == 10 &&
    (let z : State := { State.reset with ftags := [(0, 9)] }
     let t := nxt (.remoteRequestArrival (.message 1 0x40 5 [77] 9 1 5)) z
     rdN t.mem (scratchKey 1 0x40) 8 == 77 && ((t.tile 1).ctr 5).value == 1 && z.clocked 1 && (z.tile 1).ingress == none && (z.asidOf 1).toNat == z.spaceOf true 9 && z.loggedFor 1 (z.spaceOf true 9) == [])) = true := by decide +kernel

/-- A stream that waits for a page which the MTU refuses stands in error (R206). -/
theorem test_witness_stream_refused : (let b := bound 0
    let s : State := match b.binding 28 with
      | some st => { b.setMyCell (b.myCell.setStream 0 (some { st with fault := some (5, 0x8000) })) with mtus := [(0, { (b.mtu 0) with sent := [5] })] }
      | none => b
    let t := nxt (.answerRefuse 0 5) s
    (s.consume 0 5).mtuCtx 0 5 == none && (s.consume 0 5).mtuStream 0 5 == some (0, 0) && !((s.consume 0 5).mtuCmd 0 5).isSome &&
    (t.binding 28).map (·.fault) == some none && (t.binding 28).map (·.err) == some (some (0, 6, 0x8000))) = true := by decide +kernel

/-- MDATA waits for pushed units before it changes a tile's space; BAR0 reads 0 in recovery mode; only a reset acts without power. -/
theorem test_witness_bar : (let x := nxt (.vxor (Reg (pv 0x10) 2 true false) 12 1) (lanes2 (bound 1) 5 3)
    let s := x.setHost { x.host with maddr := sa 4 0 0 0 0 }
    let r : State := { State.reset with host := { State.reset.host with recovery := true } }
    s.spaceWaits s.host.maddr 5 && !s.spaceWaits s.host.maddr 0 && (let m := sys.setHost { sys.host with maddr := sa 1 2 0 1 0x50 }; !m.spaceWaits m.host.maddr 0x77) &&
    r.barRead 0x8000 == 0 && nxt (.hostRegisterWrite 0x180 5) r == r && nxt (.mdataWrite 7) r == r && nxt (.hostMemoryAccess (.write 0x40 [1])) r == r &&
    nxt (.hostMemoryAccess (.read 0x40 8)) State.reset == State.reset && State.reset.flaws == [] &&
    (let d (a : List Turn) : State := { State.reset with power := false, agenda := a }
     (match step (d [.issue 0 0]) with | .fault .noPower => true | _ => false) &&
     (match (d [.issue 0 0]).nextTurn.1 with | .event .moduleReset _ => false | _ => true) &&
     (match step (d [.event .moduleReset ⟨0, 0, 0⟩]) with | .next t => t.power && t.cycle == 0 | _ => false))) = true := by decide +kernel

/-! ### Arrays in error (10 R244, 14 R360), and what an instruction keeps while it waits -/

/-- A pop reads the spilled entry nearest the top back; on a line with an uncorrectable error PEND, PAND, POR, BT and BF trap 0x15 with its
address. -/
def deep : State := { k0.setCtx { kctx with pst := List.replicate 16 yes, spilled := 2 } with
  mem := wrBytes [] (scratchKey 0 0) (leBytes 8 0x100000007 ++ leBytes 8 5) }
theorem test_witness_pop : (let s : State := { deep with poison := [scratchKey 0 0 / 64] }
    deep.flaws == [] && deep.poison == [] && spillKey 0 0 2 == scratchKey 0 8 &&
    (match deep.pop with | some (e, t) => e == yes && t.ctx.pst.getLast? == some ⟨false, 5⟩ && t.ctx.spilled == 1 && t.ctx.pss && t.ctx.psmask == 7 | none => false) &&
    [Instr.pend, Instr.pand, Instr.por].all (fun mk => s.issues (mk Pfx.none 1 2) .never 1 0 && !s.spillBusy && s.ctx.paid == none &&
      (nxt (mk Pfx.none 1 2) s).ctx.tcause == 0x15 && (nxt (mk Pfx.none 1 2) s).ctx.taddr == sp 8) &&
    [Instr.bt, Instr.bf].all (fun mk => s.issues (mk Pfx.none 4) .never 1 0 && (nxt (mk Pfx.none 4) s).ctx.tcause == 0x15)) = true := by decide +kernel

/-- A fault record that is written to a line with a correctable error meets it at the end of the step. -/
theorem test_touched : (let s : State := { (ring 0) with flaws := [(.line (scratchKey 2560 0x8060 / 64), false)] }
    let t := s.doubleTrap ⟨8, 0x1234, 5, none⟩
    t.flaws.length == 1 && t.touched == [(2560, scratchKey 2560 0x8060, 32)] && t.meetTouched.flaws == [] && (t.meetTouched.tile 2560).elogT == 1 &&
    t.meetTouched.touched == []) = true := by decide +kernel

/-- An STS that has paid and waits for a vector store keeps its region: another context's write of g1 changes nothing for it. -/
theorem test_stage_capture : (let s := withRegs reg [(1, 0x3F800000), (3, 0)]
    let v := s.addPend (.store [] 1 .vmem)
    let t := nxt (.sts (sg 0) 1 1) v
    let u := (t.wg 1 g2).setCtx { t.ctx with pend := [] }
    v.ctx.paid == none && t.ctx.paid.isSome && t.ctx.wait == .hold && t.ctx.cap == some ⟨g1, tensor, [], []⟩ && u.gOp 1 == g1 && u.rg 1 == g2 &&
    rdN (nxt (.sts (sg 0) 1 1) u).mem (scratchKey 0 0x3000) 4 == 0x3F800000 && (nxt (.sts (sg 0) 1 1) u).ctx.cap == none && s.gOp 1 == g1) = true := by
  decide +kernel

/-- A gather that waits in the queue pays after a PMREQ from the saved ibud; one that does not wait there yields. -/
theorem test_witness_charge_queued : (let q : PReq := ⟨⟨false, 9⟩, 0⟩
    let c := { uctx with preq := some q, wait := .stream }
    c.user && c.paid == none && q.saved.pays 2 && c.mbud.pays 0 && (c.chargeQueued 2 0).isLeft && !({ c with wait := .none }.chargeQueued 2 0).isLeft &&
    !(c.chargeQueued 10 0).isLeft && (uctx.chargeQueued 2 0) == uctx.charge 2 0) = true := by decide +kernel

/-- A write stream as d of VSEL traps illegal stream use (0x01), uncharged (R205). -/
theorem test_vsel_stream : (let s := withStack (bound 1) [yes]
    (nxt (.vsel (Reg (pv 0x10) 2 true false) 12 1) s).ctx.tcause == 1 && (nxt (.vsel (Reg (pv 0x10) 2 true false) 12 1) s).ctx.ibud.count == s.ctx.ibud.count) = true := by decide +kernel

/-- A store through a window whose clamp bound lies on a line with an uncorrectable error traps 0x15 and stores nothing (log entry 37). -/
theorem test_window_poison : (let s := windowed.setMyTile { windowed.myTile with win := vset windowed.myTile.win 1 (BitVec.ofNat 128 (scratchKey 0 0x700 * 2 ^ 64 + 0x10000000811)) }
    let b : State := { s with poison := [scratchKey 0 0x700 / 64] }
    (nxt (.sw Pfx.none 3 4) s).ctx.pend.length == 1 && (nxt (.sw Pfx.none 3 4) b).ctx.tcause == 0x15 && (nxt (.sw Pfx.none 3 4) b).ctx.pend == []) = true := by decide +kernel

/-- A command that an absent page holds inside a chunk is not ended by the cancellation of its instance: it is told to stop at its stop
unit; one that stands there ends with 0x6 (R327, R331, R336). -/
theorem test_witness_cancel : (let a := nxt (.collectiveRequest (.here 0 1)) red
    let inside := withCmd a fun c => { c with dst := { g1 with boxes := [[⟨0, 4, 1⟩, ⟨0, 8, 1⟩]] }, pos := 1, fault := some 5, grans := none }
    let n := match (a.tagAt 0 1).cmd with | some c => c.name | none => (0, 0, 0)
    let r := inside.cancelInst n
    (inside.named n).map (fun x => (x.1, x.2.1)) == [(0, 1)] && inside.shelved n == [] && !inside.engineInside 0 1 &&
    (match (inside.tagAt 0 1).cmd with
     | some m => !m.atStop (inside.tagAt 0 1).kind && (r.tagAt 0 1).cmd == some { m with stop := true, closed := true } && (r.tagAt 0 1).busy && m.coll.isSome && !m.closed
     | none => false) &&
    ((a.cancelInst n).tagAt 0 1).err == 6 && !((a.cancelInst n).tagAt 0 1).busy && ((a.cancelInst n).tagAt 0 1).cmd == none &&
    (let z := withCmd inside fun c => { c with stop := true }
     let y := withCmd a fun c => { c with stop := true, closed := true }
     (match ((nxt .stopUnitReached z).tagAt 0 1).cmd with | some m => m.closed | none => false) &&
       nxt .stopUnitReached (nxt .stopUnitReached z) == nxt .stopUnitReached z && ((nxt .stopUnitReached y).tagAt 0 1).err == 6)) = true := by decide +kernel

/-- An image that names a command takes it back from the tag that still holds it (R327, log entry 24). -/
theorem test_recall : (match (copied.tagAt 0 1).cmd with
    | some m =>
      let s : State := { copied with vault := [(m.num, .cmd m)] }
      let t := (s.setTag 0 1 { s.tagAt 0 1 with err := 3 }).recall 16 1 m.num
      !(t.tagAt 0 1).busy && (t.tagAt 0 1).cmd == none && mget? t.vault m.num == some (.cmd { m with late := 3 }) && (s.recall 0 1 m.num).tagAt 0 1 == s.tagAt 0 1
    | none => false) = true := by decide +kernel

/-- GVOL of a ragged region waits for a pending acquire load, unissued (11 R269). -/
theorem test_query_waits : (let s := rg3.addPend (.load 0x40 8 false false 9 1 (some 4) none)
    s.ragWait (s.rg 3) && nxt (.gvol (pr 0) 10 3) s == s && (nxt (.gvol (pr 0) 10 3) rg3).rs 10 == 6) = true := by decide +kernel

/-! ### The step: the instruction at the pc runs as the first after reset; memory keeps its form -/

def first : State := State.reset.withFetchWord 16 0x02C6
theorem test_witness_step : (let u : State := { first with agenda := [] }
    first.power && first.agenda == [.issue 40960 0] && ({ u.clock with sel := ⟨40960, 0, 0⟩ } : State).canRun &&
    (match ({ u.clock with sel := ⟨40960, 0, 0⟩ } : State).fetch with | .instr i _ => i == .brk Pfx.none 0x2C | _ => false) && first.mem.wf) = true := by decide +kernel
/-- A context that has yielded is passed over while slot 1 of its cell can issue (04 R93). -/
theorem test_witness_passed : (let s : State := { k0 with mem := wrBytes [] 0x1000 [0x01, 0x00] }
    let s := (s.mapCode 0x1000).setCtx { kctx with pass := true }
    let b := s.setCtxAt 0 1 kctx
    let w := s.setCtxAt 0 1 { kctx with wait := .hold, double := true }
    !s.passedOver && b.passedOver && !w.passedOver && b.canRun && (match b.fetch with | .instr (.nop _ _ _) _ => true | _ => false)) = true := by decide +kernel
theorem test_witness_keeps_form : (match step first with | .next t => t.mem.wf && (t.ctxAt 40960 0).double | _ => false) = true := by decide +kernel


end Sys2Proof.Tests
end

section
/-! The module at reset, boot and recovery, power (01 R16, 15 R369, R370), and what reaches it over its ports (15 R367, R371,
10 R242, R257): one lemma for each operation of `Machine/Host.lean` that the module's events go through. -/

namespace Sys2Proof.Machine

/-! ### The contexts of a reset module -/

/-- A slot of a cell that nothing has written differs from the reset context in its register window alone (log entry 2). -/
theorem Cell.reset_slot (n : Nat) : ∃ w, Cell.reset.slot n = { Ctx.reset with win := w } := by
  by_cases h : n < 11
  · interval_cases n <;> exact ⟨_, rfl⟩
  · exact ⟨0#4, by simp [Cell.slot, vget, h]; rfl⟩

theorem Cell.boot_slot_zero : Cell.boot.slot 0 = { Ctx.reset with live := true, mode := 2#2 } := rfl

theorem Cell.boot_slot_ne {n : Nat} (h : n ≠ 0) : Cell.boot.slot n = Cell.reset.slot n := by
  simp only [Cell.slot, Cell.boot, vget, Vector.getElem?_set_ne _ h.symm]

theorem State.reset_cell_boot : State.reset.cell 40960 = Cell.boot := rfl

theorem State.reset_cell_ne {c : Nat} (h : c ≠ 40960) : State.reset.cell c = Cell.reset := by
  simp [State.cell, State.reset, mget, mget?, h.symm]

theorem State.reset_ctxAt_boot : State.reset.ctxAt 40960 0 = { Ctx.reset with live := true, mode := 2#2 } := rfl

theorem State.reset_ctxAt_ne {c n : Nat} (h : ¬ (c = 40960 ∧ n = 0)) : ∃ w, State.reset.ctxAt c n = { Ctx.reset with win := w } := by
  have e : State.reset.ctxAt c n = Cell.reset.slot n := by
    by_cases hc : c = 40960
    · subst hc
      exact Cell.boot_slot_ne fun hn => h ⟨rfl, hn⟩
    · rw [State.ctxAt, State.reset_cell_ne hc]
  rw [e]
  exact Cell.reset_slot n

/-! ### Module reset, recovery and power -/

theorem exec_moduleReset (s : State) : exec .moduleReset s = .next s.bootReset := rfl

@[simp] theorem State.bootReset_mem (s : State) : s.bootReset.mem = [] := by unfold State.bootReset; dsimp only; split <;> rfl
@[simp] theorem State.bootReset_cycle (s : State) : s.bootReset.cycle = 0#64 := by unfold State.bootReset; dsimp only; split <;> rfl
@[simp] theorem State.bootReset_power (s : State) : s.bootReset.power = true := by unfold State.bootReset; dsimp only; split <;> rfl
@[simp] theorem State.bootReset_touched (s : State) : s.bootReset.touched = [] := by
  unfold State.bootReset; dsimp only; split <;> rfl
@[simp] theorem State.bootReset_flash (s : State) : s.bootReset.host.flash = s.host.flash := by
  unfold State.bootReset; dsimp only; split <;> rfl

/-- BOOT_ROM_VERIFY of an image that verifies raises the fuses to its rollback number, 64 at most. -/
theorem State.bootReset_host_verified {s : State} (h : imageVerifies s.host.flash s.host.fuses = true) :
    s.bootReset.host = { HostIf.reset with
      flash := s.host.flash, fuses := max s.host.fuses (min (imgRollback s.host.flash) 64)
      rollback := BitVec.ofNat 32 (imgRollback s.host.flash), digest := imgDigest s.host.flash } := by
  unfold State.bootReset; rw [if_pos h]; rfl

/-- The firmware starts in the boot context. -/
theorem State.bootReset_ctxAt_verified {s : State} (h : imageVerifies s.host.flash s.host.fuses = true) :
    s.bootReset.ctxAt 40960 0 = { State.reset.ctxAt 40960 0 with pc := Config.firmwareEntry &&& ~~~1#64 } := by
  unfold State.bootReset
  rw [if_pos h]
  show Cell.slot (mget (mset _ 40960 _) 40960 _) 0 = _
  rw [mget_mset_self]
  exact Cell.slot_setSlot_self _ _ _ (by decide)

/-- After a reset from an image that fails, the module is in recovery mode with its flash and fuses kept. -/
theorem State.bootReset_host_failed {s : State} (h : imageVerifies s.host.flash s.host.fuses = false) :
    s.bootReset.host = { HostIf.reset with flash := s.host.flash, fuses := s.host.fuses, recovery := true } := by
  unfold State.bootReset; rw [if_neg (by simp [h])]; rfl

/-- In recovery mode no context runs. -/
theorem State.bootReset_idle_failed {s : State} (h : imageVerifies s.host.flash s.host.fuses = false) (c n : Nat) :
    (s.bootReset.ctxAt c n).live = false := by
  have e : s.bootReset.cells = [] := by unfold State.bootReset; rw [if_neg (by simp [h])]
  obtain ⟨w, hw⟩ := Cell.reset_slot n
  rw [State.ctxAt, State.cell, e, mget, mget?, Option.getD_none, hw]
  rfl

theorem exec_recoveryGo_off {s : State} (h : s.host.recovery = false) : exec .recoveryGo s = .next s := by
  show execRecoveryGo s = _
  simp [execRecoveryGo, h]

/-- RECOVERY_GO resets with the staged image in flash when it verifies, else with the old flash (log entry 18). -/
theorem exec_recoveryGo_on {s : State} (h : s.host.recovery = true) :
    exec .recoveryGo s = .next (if imageVerifies s.host.staging s.host.fuses
      then s.setHost { s.host with flash := s.host.staging.take (256 + imgLength s.host.staging) } else s).bootReset := by
  show execRecoveryGo s = _
  simp [execRecoveryGo, h]

/-- Outside recovery mode no flash write can be cut short. -/
theorem exec_powerLoss_running {s : State} (b : Bool) (h : s.host.recovery = false) :
    exec (.powerLoss b) s = .next { s with power := false } := by
  show execPowerLoss b s = _
  simp [execPowerLoss, h]

theorem exec_powerLoss (s : State) (b : Bool) : ∃ t, exec (.powerLoss b) s = .next t ∧ t.power = false := ⟨_, rfl, rfl⟩

theorem State.hasPower_moduleReset (s : State) (k : Sel) : s.hasPower (.event .moduleReset k) = true := by simp [State.hasPower]

theorem State.hasPower_off {s : State} {t : Turn} (h : s.power = false) (ht : ∀ k, t ≠ .event .moduleReset k) :
    s.hasPower t = false := by
  cases t with
  | event i k =>
    have hi : i ≠ .moduleReset := fun e => ht k (e ▸ rfl)
    simp [State.hasPower, h, hi]
  | issue | service | away | stroke => simp [State.hasPower, h]

theorem State.nextTurn_cons {s : State} {t : Turn} {ts : List Turn} (h : s.agenda = t :: ts) :
    s.nextTurn = (t, { s with agenda := ts }) := by
  unfold State.nextTurn; rw [h]

theorem turn_moduleReset (s : State) (k : Sel) : turn (.event .moduleReset k) s = .next ({ s with sel := k } : State).bootReset := rfl

/-- A turn that has accessed nothing by the way meets no error. -/
theorem State.meetTouched_nil {s : State} (h : s.touched = []) : s.meetTouched = s := by
  have e : { s with touched := [] } = s := by rw [← h]
  rw [State.meetTouched, e, h, List.foldl_nil]

/-- A module takes a MODULE_RESET that is its next turn with power or without. -/
theorem step_moduleReset {s : State} {k : Sel} {ts : List Turn} (h : s.agenda = .event .moduleReset k :: ts) :
    ∃ u : State, step s = .next u.bootReset := by
  unfold step
  rw [State.nextTurn_cons h]
  simp only [State.hasPower_moduleReset, if_true, turn_moduleReset, State.meetTouched_nil (State.bootReset_touched _)]
  exact ⟨_, rfl⟩

theorem step_noPower {s : State} (h : s.power = false) (ht : ∀ k, s.nextTurn.1 ≠ .event .moduleReset k) :
    step s = .fault .noPower := by
  simp [step, State.hasPower_off h ht]

/-! ### Attestation, links, the pool -/

@[simp] theorem State.length_reportHead (s : State) (n : BitVec 256) : (s.reportHead n).length = 176 := by simp [State.reportHead]

theorem exec_attestationReportReady {s : State} {n : BitVec 256} (h : s.host.signing = some n) :
    exec .attestationReportReady s = .next (s.setHost { s.host with
      signing := none, report := s.reportHead n ++ leBytes 114 (Config.ed448Sign (s.reportHead n)).toNat }) := by
  show execAttestationReportReady s = _
  simp [execAttestationReportReady, h]

/-- A packet that fails its check once is logged at its die's service tile and resent. -/
theorem exec_linkCrcResend_once {s : State} {link : BitVec 6} (lost : List (BitVec 10)) (h : link.toNat < 48) (hd : link ∉ s.fab.downs) :
    exec (.linkCrcResend link false lost) s = .next { s.logError (computeTiles + link.toNat / 12) 0 link.toNat false with
      fab := { s.fab with resends := s.fab.resends + 1 } } := by
  show execLinkCrcResend link false lost s = _
  unfold execLinkCrcResend
  rw [if_neg (by simp [hd]; omega)]
  rfl

/-- A write is read back. -/
theorem State.perform_self {s : State} (t a : Nat) (bs : List Byte) (h : s.mem.wf = true) :
    rdBytes (s.perform t (wbytes a bs)).mem a bs.length = bs := by
  show rdBytes (applyBytes s.mem (wbytes a bs)) a bs.length = bs
  rw [applyBytes_wbytes, rdBytes_wrBytes h]

/-- A write leaves every byte outside it. -/
theorem State.perform_out (s : State) (t : Nat) {a k : Nat} (bs : List Byte) (h : k < a ∨ a + bs.length ≤ k) :
    rd8 (s.perform t (wbytes a bs)).mem k = rd8 s.mem k :=
  rd8_applyBytes_out _ fun b hb => by have := mem_wbytes hb; omega

/-! ### Requests of other modules -/

theorem State.reply_answers (s : State) (a : Answer) : (s.reply a).fab.answers = s.fab.answers ++ [a] := rfl

theorem State.meetHome_of_sound {s : State} (pa n : Nat) (h : s.flaws = []) : s.meetHome pa n = s := by
  simp [State.meetHome, State.meetLines, h]

theorem State.hbmOk_write (s : State) {pa n : Nat} (h : pa + n ≤ 2 ^ 40) : s.hbmOk false pa n = true := by
  simp only [State.hbmOk, h, decide_true, Bool.false_and, Bool.not_false, Bool.and_self]

theorem State.hbmOk_of_no_poison {s : State} {pa n : Nat} (h : pa + n ≤ 2 ^ 40) (hp : s.poison = []) (read : Bool) :
    s.hbmOk read pa n = true := by
  simp only [State.hbmOk, h, hp, decide_true, List.contains_nil, Bool.or_self, Bool.and_false, Bool.not_false, Bool.and_self]

theorem exec_remote_load {s : State} {pa : BitVec 46} {n : Nat} (h : pa.toNat + n ≤ 2 ^ 40) (hp : s.poison = []) (hf : s.flaws = []) :
    exec (.remoteRequestArrival (.load pa n)) s = .next (s.reply (.data (rdBytes s.mem pa.toNat n))) := by
  show execRemoteRequestArrival (.load pa n) s = _
  simp only [execRemoteRequestArrival, State.hbmOk_of_no_poison h hp, if_true, State.meetHome_of_sound _ _ hf]

theorem exec_remote_store {s : State} {pa : BitVec 46} {bytes : List Byte} (h : pa.toNat + bytes.length ≤ 2 ^ 40) (hf : s.flaws = []) :
    exec (.remoteRequestArrival (.store pa bytes)) s = .next ((s.perform numTiles (wbytes pa.toNat bytes)).reply (.data [])) := by
  show execRemoteRequestArrival (.store pa bytes) s = _
  simp only [execRemoteRequestArrival, s.hbmOk_write h, if_true, State.meetHome_of_sound _ _ hf]

/-- Function 0 of 10 R253 on 64 bits adds, and answers the old value. -/
theorem exec_remote_add64 {s : State} {pa : BitVec 46} (x y : Word) (ha : pa.toNat % 8 = 0) (h : pa.toNat + 8 ≤ 2 ^ 40)
    (hp : s.poison = []) (hf : s.flaws = []) :
    exec (.remoteRequestArrival (.atomic 0#4 true pa x y)) s =
      .next ((s.putN numTiles pa.toNat 8 ((rdN s.mem pa.toNat 8 + x.toNat) % 2 ^ 64)).reply
        (.data (leBytes 8 (rdN s.mem pa.toNat 8)))) := by
  show execRemoteRequestArrival (.atomic 0#4 true pa x y) s = _
  simp [execRemoteRequestArrival, State.hbmOk_of_no_poison h hp, State.meetHome_of_sound _ _ hf, ha, amoNew]

/-- A message of another module for the space that its tile holds, with nothing logged before it, is applied at once. -/
theorem exec_remote_message {s : State} {t : BitVec 12} (off : BitVec 20) (ctr : BitVec 10) (ws : List Word) {tag : BitVec 16}
    (cell : BitVec 16) (seq : BitVec 32) (ht : t.toNat < 2560) (hc : s.clocked t.toNat = true) (hi : (s.tile t.toNat).ingress = none)
    (ha : (s.asidOf t.toNat).toNat = s.spaceOf true tag) (hl : s.loggedFor t.toNat (s.spaceOf true tag) = []) :
    exec (.remoteRequestArrival (.message t off ctr ws tag cell seq)) s =
      .next (s.applyOut cell.toNat (.msg s.fab.devid t off ctr ws tag seq 5 0#64)) := by
  have happ : s.applies (s.spaceOf true tag) (.msg s.fab.devid t off ctr ws tag seq 5 0#64) = true := by
    simp [State.applies, Out.tile, ha, hl]
  show Host.Outcome.next (s.arrive _ _ _) = _
  simp [State.arrive, State.deliver, happ, Out.tile, computeTiles, hc, hi, ht]

end Sys2Proof.Machine
end

section
/-! The state after module reset (01 R16) and the events of the module (15 R367 to R371). -/

namespace Sys2Proof.Proofs

open Sys2Proof Sys2Proof.Machine

/-- Every register that Table 04-3 gives a reset value holds it, in the boot context and in a free slot. -/
theorem reset_ctxAt_registers (c n : Nat) :
    (State.reset.ctxAt c n).vcnt = 32#32 ∧ (State.reset.ctxAt c n).fcsr = 0#8 ∧ (State.reset.ctxAt c n).gmode = 0#2 ∧
    (State.reset.ctxAt c n).pst = [] ∧ (State.reset.ctxAt c n).tvec = 0#64 ∧ (State.reset.ctxAt c n).pspill = 0#64 := by
  by_cases h : c = 40960 ∧ n = 0
  · obtain ⟨rfl, rfl⟩ := h
    rw [State.reset_ctxAt_boot]
    exact ⟨rfl, rfl, rfl, rfl, rfl, rfl⟩
  · obtain ⟨w, hw⟩ := State.reset_ctxAt_ne h
    rw [hw]
    exact ⟨rfl, rfl, rfl, rfl, rfl, rfl⟩

theorem reset_ctxAt_free {c n : Nat} (h : ¬ (c = 40960 ∧ n = 0)) : (State.reset.ctxAt c n).live = false := by
  obtain ⟨w, hw⟩ := State.reset_ctxAt_ne h
  rw [hw]
  rfl

theorem tileReset_window (w : Nat) : vget Tile.reset.win w 0#128 = 0#128 := by
  by_cases h : w < 8 <;> simp [vget, Tile.reset, h]

/-- Settles O1: the boot cell alone is listed, and every slot but the boot context's is the reset context in its own window. -/
theorem resetState : Obligations.ResetState := by
  unfold Obligations.ResetState
  exact ⟨rfl, rfl, rfl, rfl, rfl, fun _ _ => reset_ctxAt_free, reset_ctxAt_registers, fun _ => rfl, fun _ => rfl,
    fun _ => tileReset_window⟩

/-- Reset of a module whose flash verifies starts the firmware in firmware mode. -/
theorem moduleReset_verified {s : State} (h : imageVerifies s.host.flash s.host.fuses = true) :
    ∃ t, exec .moduleReset s = .next t ∧ t.mem = [] ∧ t.cycle = 0#64 ∧ t.power = true ∧ t.host.recovery = false ∧
      t.host.flash = s.host.flash ∧ s.host.fuses ≤ t.host.fuses ∧ (t.ctxAt 40960 0).live = true ∧ (t.ctxAt 40960 0).mode = 2#2 ∧
      (t.ctxAt 40960 0).pc = Config.firmwareEntry &&& ~~~1#64 := by
  refine ⟨_, exec_moduleReset s, s.bootReset_mem, s.bootReset_cycle, s.bootReset_power, ?_, s.bootReset_flash, ?_, ?_, ?_, ?_⟩
  · rw [State.bootReset_host_verified h]; rfl
  · rw [State.bootReset_host_verified h]; exact Nat.le_max_left _ _
  all_goals rw [State.bootReset_ctxAt_verified h, State.reset_ctxAt_boot]

/-- Reset of a module whose flash does not verify enters recovery mode with no context. -/
theorem moduleReset_failed {s : State} (h : imageVerifies s.host.flash s.host.fuses = false) :
    ∃ t, exec .moduleReset s = .next t ∧ t.mem = [] ∧ t.power = true ∧ t.host.recovery = true ∧ t.host.flash = s.host.flash ∧
      t.host.fuses = s.host.fuses ∧ ∀ c n, (t.ctxAt c n).live = false := by
  refine ⟨_, exec_moduleReset s, s.bootReset_mem, s.bootReset_power, ?_, s.bootReset_flash, ?_, State.bootReset_idle_failed h⟩
  all_goals rw [State.bootReset_host_failed h]

theorem recoveryGo_verified {s : State} (hr : s.host.recovery = true) (hv : imageVerifies s.host.staging s.host.fuses = true) :
    ∃ t, exec .recoveryGo s = .next t ∧ t.host.flash = s.host.staging.take (256 + imgLength s.host.staging) ∧
      exec .moduleReset { s with host := { s.host with flash := s.host.staging.take (256 + imgLength s.host.staging) } } = .next t := by
  refine ⟨_, exec_recoveryGo_on hr, ?_, ?_⟩
  all_goals rw [if_pos hv]
  · exact State.bootReset_flash _
  · exact exec_moduleReset _

theorem recoveryGo_failed {s : State} (hr : s.host.recovery = true) (hv : imageVerifies s.host.staging s.host.fuses = false) :
    ∃ t, exec .recoveryGo s = .next t ∧ t.host.flash = s.host.flash ∧ exec .moduleReset s = .next t := by
  refine ⟨_, exec_recoveryGo_on hr, ?_, ?_⟩
  all_goals rw [if_neg (by simp [hv])]
  · exact State.bootReset_flash _
  · exact exec_moduleReset _

theorem powerLoss_stops (s : State) (b : Bool) :
    ∃ t, exec (.powerLoss b) s = .next t ∧ t.power = false ∧ (s.host.recovery = false → t = { s with power := false }) := by
  obtain ⟨t, ht, hp⟩ := exec_powerLoss s b
  refine ⟨t, ht, hp, fun hr => ?_⟩
  rw [exec_powerLoss_running b hr] at ht
  exact (Host.Outcome.next.inj ht).symm

theorem moduleReset_step {s : State} {k : Sel} {ts : List Turn} (h : s.agenda = .event .moduleReset k :: ts) :
    ∃ t, step s = .next t ∧ t.power = true ∧ t.cycle = 0#64 := by
  obtain ⟨u, hu⟩ := step_moduleReset h
  exact ⟨_, hu, u.bootReset_power, u.bootReset_cycle⟩

theorem attestationReport_signed {s : State} {n : BitVec 256} (h : s.host.signing = some n) :
    ∃ t, exec .attestationReportReady s = .next t ∧ t.host.signing = none ∧ t.host.report.take 176 = s.reportHead n ∧
      t.host.report.length = 290 ∧ t.mem = s.mem ∧ t.cells = s.cells := by
  refine ⟨_, exec_attestationReportReady h, rfl, List.take_left' (s.length_reportHead n), ?_, rfl, rfl⟩
  simp [State.setHost]

theorem moduleBecomesReachable_lost (s : State) (m : BitVec 10) :
    ∃ t, exec (.moduleBecomesReachable m) s = .next t ∧ m ∉ t.fab.lost ∧ (∀ k, k ≠ m → (k ∈ t.fab.lost ↔ k ∈ s.fab.lost)) ∧
      t.mem = s.mem ∧ t.cells = s.cells := by
  refine ⟨_, rfl, ?_, fun k hk => ?_, rfl, rfl⟩
  · simp
  · simp [hk]

theorem poolBackInvalidate_line {s : State} (line : BitVec 50) (bytes : BitVec 512) (h : MemInv s) :
    ∃ t, exec (.poolBackInvalidate line bytes) s = .next t ∧
      rdBytes t.mem (2 ^ 56 + 64 * line.toNat) 64 = leBytes 64 bytes.toNat ∧
      (∀ a, a < 2 ^ 56 + 64 * line.toNat ∨ 2 ^ 56 + 64 * line.toNat + 64 ≤ a → rd8 t.mem a = rd8 s.mem a) ∧ t.tiles = s.tiles := by
  refine ⟨s.perform numTiles (wbytes (2 ^ 56 + 64 * line.toNat) (leBytes 64 bytes.toNat)), rfl, ?_, fun a ha => ?_,
    s.perform_tiles _ _⟩
  · have := State.perform_self numTiles (2 ^ 56 + 64 * line.toNat) (leBytes 64 bytes.toNat) h
    rwa [length_leBytes] at this
  · exact s.perform_out numTiles _ (by rwa [length_leBytes])

theorem remoteStore_performed {s : State} {pa : BitVec 46} {bytes : List Byte} (hb : pa.toNat + bytes.length ≤ 2 ^ 40) (h : MemInv s)
    (hf : s.flaws = []) : ∃ t, exec (.remoteRequestArrival (.store pa bytes)) s = .next t ∧
      rdBytes t.mem pa.toNat bytes.length = bytes ∧
      (∀ a, a < pa.toNat ∨ pa.toNat + bytes.length ≤ a → rd8 t.mem a = rd8 s.mem a) ∧
      t.fab.answers = s.fab.answers ++ [.data []] :=
  ⟨_, exec_remote_store hb hf, State.perform_self numTiles _ bytes h, fun _ ha => s.perform_out numTiles bytes ha, by
    rw [State.reply_answers, State.perform_fab]⟩

/-- Settles O60: each event by the lemma of its operation, MODULE_RESET and RECOVERY_GO split on whether the image verifies. -/
theorem moduleEvents : Obligations.ModuleEvents := by
  unfold Obligations.ModuleEvents
  refine ⟨fun s => ⟨moduleReset_verified, moduleReset_failed⟩,
    fun s => ⟨exec_recoveryGo_off, recoveryGo_verified, recoveryGo_failed⟩,
    powerLoss_stops, fun s => step_noPower, fun s k ts => moduleReset_step, fun s n => attestationReport_signed,
    ?links, moduleBecomesReachable_lost, fun s line bytes => poolBackInvalidate_line line bytes, ?load,
    fun s pa bytes => remoteStore_performed, ?atomic, ?message⟩
  case links =>
    intro s link lost hlink hdown
    exact ⟨_, exec_linkCrcResend_once lost hlink hdown, rfl, rfl, rfl, rfl⟩
  case load =>
    intro s pa n hpa hpoison hflaws
    exact exec_remote_load hpa hpoison hflaws
  case atomic =>
    intro s pa x y halign hpa hpoison hflaws
    exact ⟨_, exec_remote_add64 x y halign hpa hpoison hflaws, rfl, rfl⟩
  case message =>
    intro s t off ctr ws tag cell seq htile hclock hingress hspace hlog
    exact exec_remote_message off ctr ws cell seq htile hclock hingress hspace hlog

end Sys2Proof.Proofs
end

section
/-! Issue() under a false guard (02 R43, 04 R89, R90): every instruction word is a use of `issue`, with the guard and the privilege that R43
gives its row; what `issue` answers when the guard is false follows from these two alone. -/

namespace Sys2Proof.Machine

open Sys2Proof.Claims

/-! ### What the charge and the settling of a context leave for a push -/

theorem Ctx.charge_pst {c c' : Ctx} {i m : Nat} (h : c.charge i m = .inl c') : c'.pst = c.pst :=
  (congrArg Ctx.pst (Ctx.charge_regs h) :)
theorem Ctx.charge_spilled {c c' : Ctx} {i m : Nat} (h : c.charge i m = .inl c') : c'.spilled = c.spilled :=
  (congrArg Ctx.spilled (Ctx.charge_regs h) :)
theorem Ctx.charge_pspill {c c' : Ctx} {i m : Nat} (h : c.charge i m = .inl c') : c'.pspill = c.pspill :=
  (congrArg Ctx.pspill (Ctx.charge_regs h) :)
theorem Ctx.charge_pend {c c' : Ctx} {i m : Nat} (h : c.charge i m = .inl c') : c'.pend = c.pend :=
  (congrArg Ctx.pend (Ctx.charge_regs h) :)
theorem Ctx.charge_pdepth {c c' : Ctx} {i m : Nat} (h : c.charge i m = .inl c') : c'.pdepth = c.pdepth := by
  rw [Ctx.pdepth, Ctx.charge_pst h, Ctx.charge_spilled h, Ctx.pdepth]

/-- A charge that can be paid is paid as well by an instruction that may wait in the vector queue. -/
theorem Ctx.chargeQueued_of_charge {c c' : Ctx} {i m : Nat} (h : c.charge i m = .inl c') : c.chargeQueued i m = .inl c' := by
  rw [Ctx.chargeQueued, h]

theorem State.pendTouches_charge {s : State} {c : Ctx} {i m : Nat} (hs : s.sid ≤ 10) (h : s.ctx.charge i m = .inl c) (pa n : Nat) :
    (s.setCtx c).pendTouches pa n = s.pendTouches pa n := by
  have hcell : (s.setCtx c).myCell.pushTouches s.sel.slot pa n = s.myCell.pushTouches s.sel.slot pa n := by
    rw [State.myCell_setCtx]; rfl
  rw [State.pendTouches, State.pendTouches, State.ctx_setCtx _ _ hs, State.setCtx_sel, hcell, Ctx.pendTouches, Ctx.charge_pend h,
    Ctx.pendTouches]

theorem State.spillBusy_charge {s : State} {c : Ctx} {i m : Nat} (hs : s.sid ≤ 10) (h : s.ctx.charge i m = .inl c) :
    (s.setCtx c).spillBusy = s.spillBusy := by
  simp only [State.spillBusy, State.ctx_setCtx _ _ hs, Ctx.charge_pdepth h, Ctx.charge_spilled h, Ctx.charge_pspill h,
    State.setCtx_tid, State.pendTouches_charge hs h]

/-! ### A push that has a place -/

/-- Below depth 64 there is a push (04 R92). -/
theorem State.push_of_lt {s : State} (e : PEntry) (h : s.ctx.pdepth < 64) : ∃ t, s.push e = some t := by
  unfold State.push
  dsimp only
  rw [if_neg (by omega)]
  split <;> exact ⟨_, rfl⟩

theorem pushRes_ok {s t : State} {e : PEntry} (hb : s.spillBusy = false) (h : s.push e = some t) : pushRes s e = .ok t := by
  simp [pushRes, hb, h]

/-! ### Issue() under a false guard -/

/-- Under a false guard Issue() charges 1 and asks neither for the instruction's own traps nor for its unit nor for its meaning: a pushing
instruction pushes S = 0 with mask 0 (R90), any other does nothing (R43). -/
theorem issue_guardFalse {i : Instr} {sh : Shape} {s t : State} {g : PEntry} {c : Ctx} (hrun : s.canRun = true)
    (hfree : interlocked i s.ctx = false) (hwf : i.wf = true) (hkernel : sh.kernel = true → s.ctx.user = false)
    (hguard : issueGuard sh.gm (guardPfx i) s.ctx = some g) (hfalse : g.s = false) (hcharge : s.ctx.charge 1 0 = .inl c)
    (hres : (if sh.gm = .push then pushRes (s.setCtx c) ⟨false, 0#32⟩ else .ok (s.setCtx c)) = .ok t) :
    issue i sh s = .next (t.done i) := by
  have hpriv : (sh.kernel && s.ctx.user) = false := by
    cases hk : sh.kernel with
    | false => rfl
    | true => exact hkernel hk
  have hpay : (if sh.queues then s.ctx.chargeQueued 1 0 else s.ctx.charge 1 0) = .inl c := by
    rw [Ctx.chargeQueued_of_charge hcharge, hcharge, ite_self]
  have hkeep (u : State) : keepCap i (.ok t) s u = u := keepCap_done rfl
  simp only [issue, hrun, hfree, hwf, hpriv, hguard, hfalse, hpay, hres, hkeep, finish, State.done, Bool.not_true, Bool.or_false,
    Bool.false_and, Bool.false_eq_true, if_false]

/-! ### Every instruction word is a use of Issue() -/

/-- How Issue() meets the guard of each instruction word: as a pushing instruction (R90) or as `guardHow` says (R43). -/
def issueMode : Instr → GuardMode
  | .cmp _ _ _ _ | .cmpi _ _ _ _ | .fcmp _ _ _ _ | .vcmp _ _ _ _ | .spawn _ _ _ | .start _ _ _ | .dqpop _ _ _ | .dqsteal _ _ _
  | .etest _ _ _ | .gtest _ _ _ | .geq _ _ _ | .bgrant _ _ _ => .push
  | i => guardHow i

/-- The meaning of an instruction word is `issue` of a shape with the guard and the privilege of its row: a check of the dispatch, row by
row. -/
theorem exec_eq_issue {i : Instr} (hword : i.isWord = true) (s : State) :
    ∃ sh : Shape, exec i s = issue i sh s ∧ sh.gm = issueMode i ∧ sh.kernel = kernelOnly i := by
  cases i <;> cases hword
  all_goals exact ⟨_, rfl, rfl, rfl⟩

/-- What is not structural and no hint meets its guard as R43 has it, VSEL by the entries below its selector. -/
theorem issueMode_of_not_structural {i : Instr} (hs : structural i = false) (hhint : ∀ p w, i ≠ .hint p w) : issueMode i = guardMode i := by
  unfold issueMode
  split
  all_goals try cases hs
  unfold guardHow
  split
  all_goals try cases hs
  · exact absurd rfl (hhint _ _)
  · rfl

theorem guardMode_ne_push (i : Instr) : guardMode i ≠ .push := by
  unfold guardMode
  split <;> decide

/-! ### An instruction word under a false guard -/

section

variable {i : Instr} {s : State} {g : PEntry} {c : Ctx} (hrun : s.canRun = true) (hfree : interlocked i s.ctx = false)
  (hwf : i.wf = true) (hfalse : g.s = false) (hcharge : s.ctx.charge 1 0 = .inl c)

include hrun hfree hwf hfalse hcharge

/-- A pushing instruction under a false guard pushes S = 0 with mask 0 on the charged state (R90). -/
theorem exec_guardFalse_push (hword : i.isWord = true) (hmode : issueMode i = .push) (hkernel : kernelOnly i = false)
    (hguard : issueGuard .push (guardPfx i) s.ctx = some g) (hdepth : s.ctx.pdepth < 64) (hbusy : s.spillBusy = false) :
    ∃ t, (s.setCtx c).push ⟨false, 0#32⟩ = some t ∧ exec i s = .next (t.done i) := by
  obtain ⟨sh, hexec, hgm, hk⟩ := exec_eq_issue hword s
  rw [hmode] at hgm
  have hsid : s.sid ≤ 10 := State.canRun_sid hrun
  obtain ⟨t, ht⟩ := State.push_of_lt (s := s.setCtx c) ⟨false, 0#32⟩ (by
    rw [State.ctx_setCtx _ _ hsid, Ctx.charge_pdepth hcharge]; exact hdepth)
  have hpush : pushRes (s.setCtx c) ⟨false, 0#32⟩ = .ok t := pushRes_ok ((State.spillBusy_charge hsid hcharge).trans hbusy) ht
  refine ⟨t, ht, ?_⟩
  rw [hexec]
  exact issue_guardFalse hrun hfree hwf (by simp [hk, hkernel]) (hgm ▸ hguard) hfalse hcharge (by rw [if_pos hgm, hpush])

/-- Any other instruction word under a false guard is charged and does nothing (R43, R89). -/
theorem exec_guardFalse_skip (hword : i.isWord = true) (hmode : issueMode i ≠ .push) (hkernel : kernelOnly i = true → s.ctx.user = false)
    (hguard : issueGuard (issueMode i) (guardPfx i) s.ctx = some g) : exec i s = .next ((s.setCtx c).done i) := by
  obtain ⟨sh, hexec, hgm, hk⟩ := exec_eq_issue hword s
  rw [hexec]
  exact issue_guardFalse hrun hfree hwf (hk ▸ hkernel) (hgm ▸ hguard) hfalse hcharge (if_neg (hgm ▸ hmode))

end

end Sys2Proof.Machine
end

section
/-! Instructions under a false guard (02 R43, 04 R89, R90). -/

namespace Sys2Proof.Proofs

open Sys2Proof Sys2Proof.Machine Sys2Proof.Claims

/-- The pushing instructions of R90 but PSET: each is a word of user mode that Issue() treats as pushing. -/
theorem pushing_word {i : Instr} (h : (∃ p d a c, i = .cmp p d a c) ∨ (∃ p a c k, i = .cmpi p a c k) ∨ (∃ p d a c, i = .fcmp p d a c) ∨
    (∃ p d a c, i = .vcmp p d a c) ∨
    (∃ mk ∈ [Instr.spawn, Instr.start, Instr.dqpop, Instr.dqsteal, Instr.etest, Instr.gtest, Instr.geq, Instr.bgrant],
      ∃ p d a, i = mk p d a)) : i.isWord = true ∧ issueMode i = .push ∧ kernelOnly i = false := by
  rcases h with ⟨p, d, a, c, rfl⟩ | ⟨p, a, c, k, rfl⟩ | ⟨p, d, a, c, rfl⟩ | ⟨p, d, a, c, rfl⟩ | ⟨mk, hmk, p, d, a, rfl⟩
  case inr.inr.inr.inr =>
    simp only [List.mem_cons, List.not_mem_nil, or_false] at hmk
    rcases hmk with rfl | rfl | rfl | rfl | rfl | rfl | rfl | rfl <;> exact ⟨rfl, rfl, rfl⟩
  all_goals exact ⟨rfl, rfl, rfl⟩

/-- Settles O8: every instruction word is a use of Issue(), which under a false guard looks only at whether the instruction pushes. -/
theorem guardFalse : Obligations.GuardFalse := by
  unfold Obligations.GuardFalse
  refine ⟨fun i hpushing => ?pushing, fun i s g c hword hstruct hhint _ => ?others⟩
  case pushing =>
    intro s g c hrun hfree hwf hdepth hbusy hguard hfalse hcharge
    obtain ⟨hword, hmode, hkernel⟩ := pushing_word hpushing
    exact exec_guardFalse_push hrun hfree hwf hfalse hcharge hword hmode hkernel hguard hdepth hbusy
  case others =>
    intro hrun hfree hwf hkernel hguard hfalse hcharge
    have hmode : issueMode i = guardMode i := issueMode_of_not_structural hstruct hhint
    exact exec_guardFalse_skip hrun hfree hwf hfalse hcharge hword (hmode ▸ guardMode_ne_push i) hkernel (hmode ▸ hguard)

end Sys2Proof.Proofs
end

section
/-! A context's turn (02 R43, 03 R48, R72): what leaves the cycle counter, what the cell and the context note, and the instruction that a step
runs. -/

namespace Sys2Proof.Machine

/-! ### The cycle counter while errors are met: a fetch writes logs and fault records, but passes no time (10 R244, 14 R360) -/

/-- What leaves the cycle counter leaves it over a list. -/
theorem foldl_cycle {α : Type} {f : State → α → State} (hf : ∀ s x, (f s x).cycle = s.cycle) (l : List α) (s : State) :
    (l.foldl f s).cycle = s.cycle := by
  induction l generalizing s with
  | nil => rfl
  | cons x l ih => rw [List.foldl_cons, ih, hf]

@[simp] theorem State.note_cycle (s : State) (t pa n : Nat) : (s.note t pa n).cycle = s.cycle := by
  unfold State.note
  split <;> rfl

@[simp] theorem State.noteRecord_cycle (s : State) (t : Nat) (a : Word) : (s.noteRecord t a).cycle = s.cycle := by
  unfold State.noteRecord
  dsimp only
  split
  · rfl
  · split <;> simp only [State.note_cycle, foldl_cycle (fun s k => State.note_cycle s t k 8)]

@[simp] theorem State.putFired_cycle (s : State) (t e : Nat) (r : RqEntry) : (s.putFired t e r).cycle = s.cycle := by
  unfold State.putFired
  dsimp only
  split <;> rfl

theorem State.takeRecord_cycle {s u : State} {t : Nat} {a : Word} {sc : Nat} {r : RqEntry} (h : s.takeRecord t a sc = some (r, u)) :
    u.cycle = s.cycle := by
  unfold State.takeRecord at h
  obtain ⟨pa, -, e⟩ := Option.map_eq_some_iff.1 h
  cases e
  rfl

@[simp] theorem State.logViolation_cycle (s : State) (t : Nat) (a : Word) (c d k r : Nat) : (s.logViolation t a c d k r).cycle = s.cycle := rfl

@[simp] theorem State.fire_cycle (s : State) (t e : Nat) : (s.fire t e).cycle = s.cycle := by
  unfold State.fire
  dsimp only
  split
  · split <;> simp
  · split
    · next h => simp [State.takeRecord_cycle h]
    · simp

@[simp] theorem firePass_cycle (t c : Nat) (es : List Nat) (s : State) : (firePass t c es s).2.cycle = s.cycle := by
  induction es generalizing s with
  | nil => rfl
  | cons e es ih =>
    unfold firePass
    dsimp only
    split <;> simp [ih]

@[simp] theorem checkFireFuel_cycle (t c n : Nat) (s : State) : (checkFireFuel t c n s).cycle = s.cycle := by
  induction n generalizing s with
  | zero => rfl
  | succ n ih =>
    have hpass : (firePass t c ((s.tile t).wtt.map (·.1)) s).2.cycle = s.cycle := firePass_cycle t c _ s
    unfold checkFireFuel
    split
    · next h => rw [h] at hpass; exact hpass
    · next h => rw [h] at hpass; rw [ih, hpass]

@[simp] theorem State.acquireAt_cycle (s : State) (c n scope : Nat) : (s.acquireAt c n scope).cycle = s.cycle := by
  unfold State.acquireAt
  dsimp only
  split <;> rfl

@[simp] theorem State.meetWait_cycle (s : State) (t k c n : Nat) : (s.meetWait t k c n).cycle = s.cycle := by
  unfold State.meetWait
  dsimp only
  split
  · split <;> simp
  · rfl

@[simp] theorem State.meetWaits_cycle (s : State) (t k : Nat) : (s.meetWaits t k).cycle = s.cycle :=
  foldl_cycle (fun s (p : Nat × Nat) => s.meetWait_cycle t k p.1 p.2) _ s

@[simp] theorem State.bump_cycle (s : State) (t c : Nat) (by_ : BitVec 32) (scope : Nat) (iref mref : BitVec 32) :
    (s.bump t c by_ scope iref mref).cycle = s.cycle := by
  simp [State.bump, State.checkFire]

@[simp] theorem State.ringPut_cycle (s : State) (n : Nat) (r : Word × Word × BitVec 32 × Word) : (s.ringPut n r).cycle = s.cycle := by
  unfold State.ringPut
  dsimp only
  split <;> simp

@[simp] theorem State.sendFault_cycle (s : State) (n : Nat) (va who : Word) : (s.sendFault n va who).2.cycle = s.cycle := by
  unfold State.sendFault
  dsimp only
  split <;> simp

@[simp] theorem State.logError_cycle (s : State) (t array addr : Nat) (l : Bool) : (s.logError t array addr l).cycle = s.cycle := rfl

@[simp] theorem State.meetFlaw_cycle (s : State) (t : Nat) (a : Array) : (s.meetFlaw t a).cycle = s.cycle := by
  unfold State.meetFlaw
  split
  · rfl
  · unfold State.reportError
    dsimp only
    split <;> simp

@[simp] theorem State.meetLines_cycle (s : State) (t pa n : Nat) : (s.meetLines t pa n).cycle = s.cycle := by
  unfold State.meetLines
  split
  · rfl
  · exact foldl_cycle (fun s l => s.meetFlaw_cycle t (.line l)) _ s

/-! ### A fetch passes no time -/

theorem State.fetchWord_cycle {s u : State} {a : Word} {w : Half} (h : s.fetchWord a = .ok w u) : u.cycle = s.cycle := by
  unfold State.fetchWord at h
  dsimp only at h
  split at h
  · cases h; rfl
  · split at h <;> cases h
    simp

theorem fetchFrom_cycle {n : Nat} {a : Word} {ws : List Half} {s u : State} {i : Instr} (h : fetchFrom n a ws s = .instr i u) :
    u.cycle = s.cycle := by
  induction n generalizing a ws s with
  | zero => cases h
  | succ n ih =>
    unfold fetchFrom at h
    split at h
    · next hw =>
      split at h
      · cases h; exact State.fetchWord_cycle hw
      · exact (ih h).trans (State.fetchWord_cycle hw)
    · cases h
    · cases h

theorem State.fetch_cycle {s u : State} {i : Instr} (h : s.fetch = .instr i u) : u.cycle = s.cycle := fetchFrom_cycle h

/-! ### The instruction of a turn -/

/-- A context that waits for no step of its own, or keeps no instruction, fetches. -/
theorem State.current_of_fetch {s : State} (h : s.ctx.wait.issued = false ∨ s.ctx.cur = none) : s.current = s.fetch := by
  unfold State.current
  split
  · next hi hc => simp [hi, hc] at h
  · rfl

theorem State.current_of_issued {s : State} {i : Instr} (hw : s.ctx.wait.issued = true) (hc : s.ctx.cur = some i) : s.current = .instr i s := by
  simp only [State.current, hw, hc]

theorem issueTurn_passedOver {s : State} (h : s.passedOver = true) : issueTurn s = .next s := by
  simp only [issueTurn, h, if_true]

theorem issueTurn_runs {s u t : State} {i : Instr} (hp : s.passedOver = false) (hrun : s.canRun = true) (hc : s.current = .instr i u)
    (he : exec i u = .next t) : issueTurn s = .next (t.noted u i) := by
  simp only [issueTurn, hp, hrun, hc, he, Bool.false_eq_true, if_false]

/-- A step of a module with power whose next turn is a context's. -/
theorem step_issue {s t : State} {c : BitVec 16} {n : BitVec 4} {ts : List Turn} (hpow : s.power = true) (hag : s.agenda = .issue c n :: ts)
    (h : issueTurn { State.clock { s with agenda := ts } with sel := ⟨c, n, 0⟩ } = .next t) : step s = .next t.meetTouched := by
  have hpower : s.hasPower (.issue c n) = true := by simp [State.hasPower, hpow]
  have hturn : turn (.issue c n) (State.clock { s with agenda := ts }) = .next t := h
  unfold step
  rw [State.nextTurn_cons hag]
  simp only [hpower, if_true, hturn]

/-! ### What a turn notes -/

theorem Cell.slot_setSlot_eq (x : Cell) (n k : Nat) (c : Ctx) :
    (x.setSlot n c).slot k = x.slot k ∨ k = n ∧ (x.setSlot n c).slot k = c := by
  by_cases hk : k = n
  · by_cases hn : n ≤ 10
    · exact .inr ⟨hk, by rw [hk, x.slot_setSlot_self n c hn]⟩
    · have hout : ¬ n < 11 := by omega
      exact .inl (by simp [Cell.slot, Cell.setSlot, vget, vset, hk, hout])
  · exact .inl (x.slot_setSlot_ne c hk)

/-- The cell that a turn leaves, as `State.noted` writes it. -/
def Cell.noted (x : Cell) (s : State) (i : Instr) : Cell :=
  let y := x.slot s.sid
  let x := if y.wait.keeps then x.setSlot s.sid { y with cur := some i } else x
  if y != s.ctx || (loops i && !interlocked i s.ctx) then { x with last := s.sel.slot } else x

theorem State.noted_eq (t s : State) (i : Instr) : t.noted s i = t.setCell s.cid ((t.cell s.cid).noted s i) := rfl

theorem Cell.noted_last_slots (x : Cell) (s : State) (i : Instr) : { x.noted s i with last := x.last, slots := x.slots } = x := by
  unfold Cell.noted
  dsimp only
  split <;> split <;> rfl

theorem Cell.noted_slot_cur (x : Cell) (s : State) (i : Instr) (n : Nat) : { (x.noted s i).slot n with cur := (x.slot n).cur } = x.slot n := by
  have hslot : (x.noted s i).slot n =
      (if (x.slot s.sid).wait.keeps then x.setSlot s.sid { x.slot s.sid with cur := some i } else x).slot n := by
    unfold Cell.noted
    dsimp only
    split <;> rfl
  rw [hslot]
  split
  · rcases x.slot_setSlot_eq s.sid n { x.slot s.sid with cur := some i } with h | ⟨hn, h⟩
    · rw [h]
    · rw [h, hn]
  · rfl

theorem State.noted_cells (t s : State) (i : Instr) : { t.noted s i with cells := t.cells } = t := rfl

theorem State.cell_noted (t s : State) (i : Instr) (c : Nat) : (t.noted s i).cell c = t.cell c ∨
    (t.noted s i).cell c = (t.cell c).noted s i := by
  rw [State.noted_eq]
  by_cases hc : c = s.cid
  · exact .inr (by rw [hc]; exact mget_mset_self _ _ _ _)
  · exact .inl (mget_mset_ne _ _ _ hc)

theorem State.noted_cell (t s : State) (i : Instr) (c : Nat) :
    { (t.noted s i).cell c with last := (t.cell c).last, slots := (t.cell c).slots } = t.cell c := by
  rcases t.cell_noted s i c with h | h
  · rw [h]
  · rw [h, Cell.noted_last_slots]

theorem State.noted_ctxAt (t s : State) (i : Instr) (c n : Nat) :
    { (t.noted s i).ctxAt c n with cur := (t.ctxAt c n).cur } = t.ctxAt c n := by
  unfold State.ctxAt
  rcases t.cell_noted s i c with h | h
  · rw [h]
  · rw [h, Cell.noted_slot_cur]

/-- With no correctable error pending, the end of a step meets none. -/
theorem State.meetTouched_of_sound {s : State} (h : s.flaws = []) : s.meetTouched = { s with touched := [] } := by
  have hmeet (l : List (Nat × Nat × Nat)) (u : State) (hu : u.flaws = []) : l.foldl (fun s x => s.meetLines x.1 x.2.1 x.2.2) u = u := by
    induction l with
    | nil => rfl
    | cons x l ih => rw [List.foldl_cons, State.meetLines, if_pos hu, ih]
  exact hmeet _ _ h

theorem State.clock_cycle (s : State) : s.clock.cycle = s.cycle + 1#64 + BitVec.ofNat 64 (Config.extraCycles s.tick) := by
  rw [State.clock, BitVec.ofNat_add, BitVec.add_assoc]

end Sys2Proof.Machine
end

section
/-! A context's turn (02 R43, 03 R48, R72). -/

namespace Sys2Proof.Proofs

open Sys2Proof Sys2Proof.Machine

/-- The instruction that a turn runs is the one decoded at the pc or the one that waits; finding it passes no time. -/
theorem current_instr {v u : State} {i : Instr}
    (h : (v.ctx.wait.issued = false ∨ v.ctx.cur = none) ∧ v.fetch = .instr i u ∨ v.ctx.wait.issued = true ∧ v.ctx.cur = some i ∧ u = v) :
    v.current = .instr i u ∧ u.cycle = v.cycle := by
  rcases h with ⟨hfetches, hfetch⟩ | ⟨hissued, hcur, rfl⟩
  · exact ⟨(State.current_of_fetch hfetches).trans hfetch, State.fetch_cycle hfetch⟩
  · exact ⟨State.current_of_issued hissued hcur, rfl⟩

/-- Settles O6: a context's turn runs its current instruction, and what it notes of it lies in `last`, `cur` and the errors it meets. -/
theorem stepRunsDecoded : Obligations.StepRunsDecoded := by
  unfold Obligations.StepRunsDecoded
  refine ⟨?runs, ?notes, fun s => State.meetTouched_of_sound, fun s => State.meetTouched_nil⟩
  case runs =>
    rintro s u v c n i ts hpow hag hv hrun hinstr
    obtain ⟨hcur, hcycle⟩ := current_instr hinstr
    refine ⟨fun hturn t he => step_issue hpow hag ?_, fun hpass => step_issue hpow hag ?_, ?_, hcycle, ?_⟩
    · rw [← hv]; exact issueTurn_runs hturn hrun hcur he
    · rw [← hv]; exact issueTurn_passedOver hpass
    · rw [hv]; exact State.clock_cycle { s with agenda := ts }
    · rw [hv]; rfl
  case notes =>
    rintro t u _ i rfl
    exact ⟨t.noted_cells u i, fun c => ⟨t.noted_cell u i c, t.noted_ctxAt u i c⟩⟩

end Sys2Proof.Proofs
end

section
/-! The encoder read back (03 R45 to R50, R54, R58): the nibbles of a base word, the PFX words of a chain one by one, and the chain
that they gather to. -/

namespace Sys2Proof

open Word4

/-! ### The nibbles of a base word (R54) -/

@[simp] theorem n3_mk (m d a f : BitVec 4) : n3 (mk m d a f) = m := by
  simp [n3, mk, BitVec.extractLsb'_append_eq_of_le, -Nat.reduceAdd]
@[simp] theorem n2_mk (m d a f : BitVec 4) : n2 (mk m d a f) = d := by
  simp [n2, mk, BitVec.extractLsb'_append_eq_of_le, BitVec.extractLsb'_append_eq_of_add_le, -Nat.reduceAdd]
@[simp] theorem n1_mk (m d a f : BitVec 4) : n1 (mk m d a f) = a := by
  simp [n1, mk, BitVec.extractLsb'_append_eq_of_le, BitVec.extractLsb'_append_eq_of_add_le, -Nat.reduceAdd]
@[simp] theorem n0_mk (m d a f : BitVec 4) : n0 (mk m d a f) = f := by
  simp [n0, mk, BitVec.extractLsb'_append_eq_of_add_le, -Nat.reduceAdd]

/-- An immediate of two nibbles, and an offset of three, put together again. -/
theorem append_nibbles2 (n : BitVec 8) : n.extractLsb' 4 4 ++ n.extractLsb' 0 4 = n := BitVec.extractLsb'_append_extractLsb'
theorem append_nibbles3 (n : BitVec 12) : n.extractLsb' 8 4 ++ n.extractLsb' 4 4 ++ n.extractLsb' 0 4 = n := by
  rw [BitVec.extractLsb'_append_extractLsb'_eq_extractLsb' (by rfl)]
  exact BitVec.extractLsb'_append_extractLsb'

/-- A code of three bits, and one of two, in a nibble whose high bits are 0. -/
theorem code3_high (c : BitVec 3) : (0#1 ++ c).getLsbD 3 = false := by rw [BitVec.getLsbD_append]; rfl
theorem code3_low (c : BitVec 3) : (0#1 ++ c).extractLsb' 0 3 = c := BitVec.extractLsb'_append_eq_right
theorem code2_high (c : BitVec 2) : (0#2 ++ c).extractLsb' 2 2 = 0#2 := BitVec.extractLsb'_append_eq_left
theorem code2_low (c : BitVec 2) : (0#2 ++ c).extractLsb' 0 2 = c := BitVec.extractLsb'_append_eq_right

/-! ### Base words (R54, R58) -/

/-- On the page of the instruction its base word decodes to it: every row of the tables has a main nibble and a function of its own. -/
theorem decodeBase_base {i : Instr} {p : Pfx} (hp : i.pfx = some p) (hpage : i.pageOk = true) (hcode : i.codeOk = true) :
    decodeBase p i.base = some i := by
  cases i <;> cases hp
  case hint w =>
    simp only [Instr.codeOk, Bool.and_eq_true, Bool.or_eq_true, beq_iff_eq] at hcode
    obtain ⟨⟨hg | hg, -⟩, -⟩ := hcode <;> simp only [decodeBase, hg, Instr.base]
  all_goals
    have hg := eq_of_beq hpage
    simp only [Instr.page] at hg
    simp only [decodeBase, hg, Instr.base, decodePage0, decodePage1, decodePage2, decodePage3, decodePage4, decodePage5, decodePage6,
      decodePage7, decodePage8, n3_mk, n2_mk, n1_mk, n0_mk, append_nibbles2, append_nibbles3, code3_high, code3_low, code2_high, code2_low,
      BitVec.toNat_ofNat, Nat.reduceMod, Nat.reducePow, bne_self_eq_false, Bool.false_eq_true, if_false]

/-- The base word of a legal instruction is no PFX word (R45): the main nibble of a row is at most 13, and a hint's is not 15. -/
theorem isPrefixWord_base {i : Instr} {p : Pfx} (hp : i.pfx = some p) (hcode : i.codeOk = true) : isPrefixWord i.base = false := by
  cases i <;> cases hp
  case hint w =>
    simp only [Instr.codeOk, Bool.and_eq_true, bne_iff_ne] at hcode
    obtain ⟨⟨-, hw⟩, -⟩ := hcode
    exact beq_false_of_ne hw
  all_goals simp only [isPrefixWord, Instr.base, n3_mk]; rfl

/-! ### PFX words (R46, R47) -/

def pageWord (x : BitVec 4 × BitVec 6) : Half := 0b111110#6 ++ x.1 ++ x.2
def regWord (r : PfxR) : Half := 0b111101#6 ++ r.e ++ bit 1 r.d4 ++ bit 1 r.a4 ++ 0#3
def orderWord (o : PfxOrder) : Half := 0b11111100#8 ++ o.scope ++ o.order ++ 0#3
def stageWord (t : BitVec 4) : Half := 0b11111101#8 ++ t ++ 0#4
def arithWord (a : PfxArith) : Half := 0b11111110#8 ++ bit 1 a.sat ++ a.rnd ++ 0#4
def guardWord (g : PfxGuard) : Half := 0b11111111#8 ++ bit 1 g.neg ++ g.depth ++ 0#4
def payWord (w : BitVec 10) : Half := 0b111100#6 ++ w

/-- The words of the gathered prefixes: one for each that is present, then one for each PFX.I payload. -/
theorem Pfx.words_eq (p : Pfx) : p.words =
    p.p.toList.map pageWord ++ p.r.toList.map regWord ++ p.order.toList.map orderWord ++ p.stage.toList.map stageWord ++
      p.arith.toList.map arithWord ++ p.guard.toList.map guardWord ++ p.imms.map payWord := by
  unfold Pfx.words
  congr 6
  · cases p.p <;> rfl
  · cases p.r <;> rfl
  · cases p.order <;> rfl
  · cases p.stage <;> rfl
  · cases p.arith <;> rfl
  · cases p.guard <;> rfl

/-- There are as many words as prefixes. -/
theorem Pfx.length_words (p : Pfx) : p.words.length = p.count := by
  have hopt {α : Type} (o : Option α) : o.toList.length = o.isSome.toNat := by cases o <;> rfl
  simp only [Pfx.words_eq, List.length_append, List.length_map, hopt, Pfx.count]
  omega

theorem isPrefixWord_of_mem_words {p : Pfx} {w : Half} (h : w ∈ p.words) : isPrefixWord w = true := by
  simp only [Pfx.words_eq, List.mem_append, List.mem_map] at h
  rcases h with (((((⟨x, -, rfl⟩ | ⟨x, -, rfl⟩) | ⟨x, -, rfl⟩) | ⟨x, -, rfl⟩) | ⟨x, -, rfl⟩) | ⟨x, -, rfl⟩) | ⟨x, -, rfl⟩ <;>
    simp [isPrefixWord, n3, pageWord, regWord, orderWord, stageWord, arithWord, guardWord, payWord, BitVec.extractLsb'_append_eq_of_le,
      -Nat.reduceAdd]

/-! ### A PFX word joins a chain that has none of its kind (R46, R47, R49) -/

theorem bit_getLsbD (b : Bool) : (bit 1 b).getLsbD 0 = b := by cases b <;> rfl

section

variable {g : Gather}

theorem Gather.add_pageWord (h : g.p.p = none) (x : BitVec 4 × BitVec 6) :
    g.add (pageWord x) = { g with p := { g.p with p := some x }, k := g.k + 1 } := by
  simp [Gather.add, pageWord, h, BitVec.extractLsb'_append_eq_of_le, BitVec.extractLsb'_append_eq_of_add_le,
    BitVec.extractLsb'_extractLsb'_of_le, -Nat.reduceAdd]

theorem Gather.add_regWord (h : g.p.r = none) (x : PfxR) :
    g.add (regWord x) = { g with p := { g.p with r := some x }, k := g.k + 1 } := by
  simp [Gather.add, regWord, h, BitVec.extractLsb'_append_eq_of_le, BitVec.extractLsb'_append_eq_of_add_le,
    BitVec.extractLsb'_extractLsb'_of_le, BitVec.getLsbD_append, bit_getLsbD, -Nat.reduceAdd, -BitVec.getLsbD_eq_getElem]

theorem Gather.add_orderWord (h : g.p.order = none) (x : PfxOrder) :
    g.add (orderWord x) = { g with p := { g.p with order := some x }, k := g.k + 1 } := by
  simp [Gather.add, orderWord, h, BitVec.extractLsb'_append_eq_of_le, BitVec.extractLsb'_append_eq_of_add_le,
    BitVec.extractLsb'_extractLsb'_of_le, -Nat.reduceAdd]

theorem Gather.add_stageWord (h : g.p.stage = none) (x : BitVec 4) :
    g.add (stageWord x) = { g with p := { g.p with stage := some x }, k := g.k + 1 } := by
  simp [Gather.add, stageWord, h, BitVec.extractLsb'_append_eq_of_le, BitVec.extractLsb'_append_eq_of_add_le,
    BitVec.extractLsb'_extractLsb'_of_le, -Nat.reduceAdd]

theorem Gather.add_arithWord (h : g.p.arith = none) (x : PfxArith) :
    g.add (arithWord x) = { g with p := { g.p with arith := some x }, k := g.k + 1 } := by
  simp [Gather.add, arithWord, h, BitVec.extractLsb'_append_eq_of_le, BitVec.extractLsb'_append_eq_of_add_le,
    BitVec.extractLsb'_extractLsb'_of_le, BitVec.getLsbD_append, bit_getLsbD, -Nat.reduceAdd, -BitVec.getLsbD_eq_getElem]

theorem Gather.add_guardWord (h : g.p.guard = none) (x : PfxGuard) :
    g.add (guardWord x) = { g with p := { g.p with guard := some x }, k := g.k + 1 } := by
  simp [Gather.add, guardWord, h, BitVec.extractLsb'_append_eq_of_le, BitVec.extractLsb'_append_eq_of_add_le,
    BitVec.extractLsb'_extractLsb'_of_le, BitVec.getLsbD_append, bit_getLsbD, -Nat.reduceAdd, -BitVec.getLsbD_eq_getElem]

theorem Gather.add_payWord (g : Gather) (x : BitVec 10) :
    g.add (payWord x) = { g with p := { g.p with imms := g.p.imms ++ [x] }, k := g.k + 1 } := by
  simp [Gather.add, payWord, BitVec.extractLsb'_append_eq_of_le, BitVec.extractLsb'_append_eq_of_add_le, -Nat.reduceAdd]

end

/-! ### The words of the prefixes gather to them (R49) -/

/-- What is present or absent joins a chain as its word does: `put` sets its field, which in the chain is empty. -/
theorem Gather.foldl_option {α : Type} {f : α → Half} {put : Option α → Pfx → Pfx} {g : Gather} (hnone : put none g.p = g.p)
    (hsome : ∀ x, g.add (f x) = { g with p := put (some x) g.p, k := g.k + 1 }) (o : Option α) :
    (o.toList.map f).foldl Gather.add g = { g with p := put o g.p, k := g.k + o.isSome.toNat } := by
  cases o with
  | none => simp [hnone]
  | some x => simp [hsome]

theorem Gather.foldl_payWord (l : List (BitVec 10)) (g : Gather) :
    (l.map payWord).foldl Gather.add g = { g with p := { g.p with imms := g.p.imms ++ l }, k := g.k + l.length } := by
  induction l generalizing g with
  | nil => simp
  | cons x l ih =>
    rw [List.map_cons, List.foldl_cons, Gather.add_payWord, ih]
    simp [Nat.add_assoc, Nat.add_comm]

theorem foldl_words (p : Pfx) : p.words.foldl Gather.add Gather.start = ⟨p, p.count, none⟩ := by
  rw [Pfx.words_eq]
  simp only [List.foldl_append, Gather.start, Pfx.none]
  rw [Gather.foldl_option (put := fun o q => { q with p := o }) rfl (Gather.add_pageWord rfl),
    Gather.foldl_option (put := fun o q => { q with r := o }) rfl (Gather.add_regWord rfl),
    Gather.foldl_option (put := fun o q => { q with order := o }) rfl (Gather.add_orderWord rfl),
    Gather.foldl_option (put := fun o q => { q with stage := o }) rfl (Gather.add_stageWord rfl),
    Gather.foldl_option (put := fun o q => { q with arith := o }) rfl (Gather.add_arithWord rfl),
    Gather.foldl_option (put := fun o q => { q with guard := o }) rfl (Gather.add_guardWord rfl),
    Gather.foldl_payWord]
  have hk : 0 + p.p.isSome.toNat + p.r.isSome.toNat + p.order.isSome.toNat + p.stage.isSome.toNat + p.arith.isSome.toNat +
      p.guard.isSome.toNat + p.imms.length = p.count := by unfold Pfx.count; omega
  simp only [hk, List.nil_append]

@[simp] theorem Gather.fail_k (g : Gather) (w : Half) : (g.fail w).k = g.k := by
  unfold Gather.fail
  split <;> rfl

theorem Gather.add_k (g : Gather) (w : Half) : (g.add w).k = g.k + 1 := by
  unfold Gather.add
  dsimp only
  repeat' split
  all_goals simp

/-- Gathering takes in at most four PFX words, whatever follows them. -/
theorem gather_append {ws : List Half} (hws : ∀ w ∈ ws, isPrefixWord w = true) (rest : List Half) (g : Gather) (hk : g.k + ws.length ≤ 4) :
    gather g (ws ++ rest) = gather (ws.foldl Gather.add g) rest := by
  induction ws generalizing g with
  | nil => rfl
  | cons w ws ih =>
    rw [List.length_cons] at hk
    have hlt : g.k ≠ 4 := by omega
    have hw : isPrefixWord w = true := hws w List.mem_cons_self
    rw [List.cons_append, gather, if_pos hw, if_neg hlt]
    exact ih (fun x hx => hws x (List.mem_cons_of_mem w hx)) (g.add w) (by rw [Gather.add_k]; omega)

theorem gather_words {p : Pfx} (hcount : p.count ≤ 4) {w : Half} (hw : isPrefixWord w = false) (rest : List Half) :
    gather Gather.start (p.words ++ w :: rest) = .ok p p.count w := by
  have hk : Gather.start.k + p.words.length ≤ 4 := by rw [p.length_words]; exact (Nat.zero_add _).trans_le hcount
  rw [gather_append (fun _ => isPrefixWord_of_mem_words) (w :: rest) Gather.start hk, foldl_words, gather, if_neg (by simp [hw])]

/-- A legal instruction is judged as such (R58). -/
theorem judge_base {i : Instr} {p : Pfx} (hp : i.pfx = some p) (hwf : i.wf = true) : judge p i.base = i := by
  have hok := hwf
  simp only [Instr.wf, Bool.and_eq_true] at hok
  obtain ⟨⟨⟨-, hpage⟩, hcode⟩, -⟩ := hok
  rw [judge, decodeBase_base hp hpage hcode]
  exact if_pos hwf

/-- The decoder undoes the encoder on legal instructions (R46, R48, R50, R55, R58). -/
theorem decodeWords_encode {i : Instr} (hwf : i.wf = true) (hword : i.isWord = true) (rest : List Half) :
    decodeWords (encode i ++ rest) = some (i, (encode i).length) := by
  obtain ⟨p, hp⟩ := Option.isSome_iff_exists.1 hword
  have hok := hwf
  simp only [Instr.wf, Instr.chainOk, hp, Bool.and_eq_true, decide_eq_true_eq] at hok
  obtain ⟨⟨⟨hcount, -⟩, hcode⟩, -⟩ := hok
  have hencode : encode i = p.words ++ [i.base] := by rw [encode, hp]
  rw [hencode, decodeWords, List.append_assoc, List.singleton_append, gather_words hcount (isPrefixWord_base hp hcode) rest]
  simp [judge_base hp hwf, p.length_words]

end Sys2Proof
end

section
/-! Words and instructions (03 R46 to R58). -/

namespace Sys2Proof.Proofs

open Sys2Proof Sys2Proof.Machine

/-- Settles O5: the PFX words gather to their prefixes, and the base word is none of them and names its row. -/
theorem encodeDecode : Obligations.EncodeDecode := by
  unfold Obligations.EncodeDecode
  exact fun i rest hwf hword => decodeWords_encode hwf hword rest

/-- Words that are the encoding of a legal instruction decode to it. -/
theorem decodeWords_of_encode_eq {i : Instr} {ws : List Half} (h : encode i = ws) (hwf : i.wf = true) (hword : i.isWord = true) :
    decodeWords ws = some (i, ws.length) := by
  have hdec := decodeWords_encode hwf hword []
  rwa [List.append_nil, h] at hdec

/-- Settles O4: each list of words is the encoding of its instruction, whose decoding is O5. -/
protected theorem decodeWords : Obligations.DecodeWords := by
  unfold Obligations.DecodeWords
  exact ⟨decodeWords_of_encode_eq rfl rfl rfl, decodeWords_of_encode_eq rfl rfl rfl, decodeWords_of_encode_eq rfl rfl rfl,
    decodeWords_of_encode_eq rfl rfl rfl, decodeWords_of_encode_eq rfl rfl rfl, decodeWords_of_encode_eq rfl rfl rfl,
    decodeWords_of_encode_eq rfl rfl rfl, decodeWords_of_encode_eq rfl rfl rfl, decodeWords_of_encode_eq rfl rfl rfl⟩

end Sys2Proof.Proofs
end

section
/-! Branches and jumps (04 R105, R106), and instructions that trap once they have issued (02 R42, 05 R117). -/

namespace Sys2Proof.Machine

open Sys2Proof.Claims

/-! ### What the charge leaves as it was -/

theorem State.pc_charged (s : State) (n m : Nat) (h : s.sid ≤ 10) : (s.charged n m).ctx.pc = s.ctx.pc :=
  (congrArg Ctx.pc (s.charged_ctx n m h) :)
theorem State.pst_charged (s : State) (n m : Nat) (h : s.sid ≤ 10) : (s.charged n m).ctx.pst = s.ctx.pst :=
  (congrArg Ctx.pst (s.charged_ctx n m h) :)
theorem State.spilled_charged (s : State) (n m : Nat) (h : s.sid ≤ 10) : (s.charged n m).ctx.spilled = s.ctx.spilled :=
  (congrArg Ctx.spilled (s.charged_ctx n m h) :)
theorem State.pspill_charged (s : State) (n m : Nat) (h : s.sid ≤ 10) : (s.charged n m).ctx.pspill = s.ctx.pspill :=
  (congrArg Ctx.pspill (s.charged_ctx n m h) :)
@[simp] theorem State.charged_tid (s : State) (n m : Nat) : (s.charged n m).tid = s.tid := by
  rcases s.charged_eq n m with e | ⟨c, _, e⟩ <;> (rw [e]; try rfl)
@[simp] theorem State.charged_poison (s : State) (n m : Nat) : (s.charged n m).poison = s.poison := by
  rcases s.charged_eq n m with e | ⟨c, _, e⟩ <;> (rw [e]; try rfl)
theorem State.spillBusy_charged (s : State) (n m : Nat) (h : s.sid ≤ 10) : (s.charged n m).spillBusy = s.spillBusy := by
  rcases s.charged_eq n m with e | ⟨c, hc, e⟩ <;> rw [e]
  exact State.spillBusy_charge h hc

theorem target_charged {k : Nat} (p : Pfx) (o : BitVec k) {s : State} (n m : Nat) (h : s.sid ≤ 10) :
    target p o (s.charged n m) = s.ctx.pc + BitVec.ofInt 64 (2 * p.imm o) := by
  rw [target, s.pc_charged n m h, immWord]

theorem nextPc_charged (k : Nat) {s : State} (n m : Nat) (h : s.sid ≤ 10) :
    nextPc (s.charged n m) k = s.ctx.pc + BitVec.ofNat 64 (2 * k) := by
  rw [nextPc, s.pc_charged n m h]

/-! ### An instruction that traps once it has issued -/

/-- What has not paid before it issued has its charge returned (R117). -/
theorem finish_trap {s t : State} (hpaid : s.ctx.paid = none) (k n m : Nat) (e : Err) :
    finish k s t n m (.trap e) = (s.setCtx { s.ctx with wait := .none }).takeTrap e k := by
  simp only [finish, State.unqueue, hpaid, Ctx.unpay, Option.isSome_none, Bool.false_eq_true, if_false]

theorem issue_trap {i : Instr} {sh : Shape} {s : State} {n m : Nat} {e : Err} (h : s.issues i sh.gm n m = true)
    (hk : sh.kernel = false ∨ s.ctx.user = false) (ho : sh.own s = none) (hr : sh.ready s = true) (hc : sh.cost s = (n, m))
    (hg : readRegions i = []) (hpaid : s.ctx.paid = none) (hb : sh.body (s.charged n m) = .trap e)
    (he : sh.early s = none := by rfl) (hq : sh.queues = false := by rfl) :
    issue i sh s = .next ((s.setCtx { s.ctx with wait := .none }).takeTrap e i.ilen) := by
  rw [issue_eq h hk ho hr hc hg he hq, hb, keepCap_done rfl, finish_trap hpaid]

/-! ### Register targets (03 R57) -/

section

variable {i : Instr} {s : State} {t : Word} {f : State → Word} {g : State → State} (h : s.issues i .plain 1 0 = true)
  (hg : readRegions i = []) (hf : f (s.charged 1 0) = t)

include h hg hf

theorem issue_jumpTo_even (ht : t.getLsbD 0 = false) :
    issue i { body := fun s => jumpTo (f s) (g s) } s = .next ((g (s.charged 1 0)).jumped t) := by
  refine issue_goto h (.inl rfl) rfl rfl rfl hg ?_
  show jumpTo (f (s.charged 1 0)) (g (s.charged 1 0)) = _
  rw [hf, jumpTo, ht, if_neg Bool.false_ne_true]

theorem issue_jumpTo_odd (hpaid : s.ctx.paid = none) (ht : t.getLsbD 0 = true) :
    issue i { body := fun s => jumpTo (f s) (g s) } s =
      .next ((s.setCtx { s.ctx with wait := .none }).takeTrap (mkErr 4 t 0#64) i.ilen) := by
  refine issue_trap h (.inl rfl) rfl rfl rfl hg hpaid ?_
  show jumpTo (f (s.charged 1 0)) (g (s.charged 1 0)) = _
  rw [hf, jumpTo, if_pos ht]

end

/-! ### Where there is no pop (04 R92, 10 R244) -/

theorem State.pop_of_empty {s : State} (h : s.ctx.pst = []) : s.pop = none ∧ s.popErr = mkErr 0x0D s.ctx.pc 0#64 := by
  simp [State.pop, State.popErr, h]

/-- The spilled entry nearest the top is the first that is looked at. -/
theorem State.spillLost_top {s : State} (hspilled : 0 < s.ctx.spilled)
    (hpoison : spillKey s.tid s.ctx.pspill s.ctx.spilled / 64 ∈ s.poison) : s.spillLost = some s.ctx.spilled := by
  obtain ⟨n, hn⟩ : ∃ n, s.ctx.spilled = n + 1 := ⟨s.ctx.spilled - 1, by omega⟩
  rw [hn] at hpoison
  simp [State.spillLost, hn, List.range_succ, hpoison]

theorem State.pop_of_lost {s : State} {b : PEntry} {bs : List PEntry} (hpst : s.ctx.pst = b :: bs) (hspilled : 0 < s.ctx.spilled)
    (hpoison : spillKey s.tid s.ctx.pspill s.ctx.spilled / 64 ∈ s.poison) :
    s.pop = none ∧ s.popErr = mkErr 0x15 (BitVec.ofNat 64 (spillKey s.tid s.ctx.pspill s.ctx.spilled)) 0#64 := by
  have hlost := State.spillLost_top hspilled hpoison
  simp [State.pop, State.popErr, hpst, hlost, Nat.ne_of_gt hspilled]

/-! ### BT and BF (R105) -/

/-- S of the AND of the entries of a list and of the spilled ones. -/
theorem Ctx.andFrom_s (c : Ctx) (l : List PEntry) : (c.andFrom l).s = true ↔ allS c l := by
  have hfold (l : List PEntry) (r : PEntry) :
      (l.foldl (fun r e => ⟨r.s && e.s, r.mask &&& e.mask⟩) r).s = (r.s && l.all (·.s)) := by
    induction l generalizing r with
    | nil => simp
    | cons e l ih => simp [ih, Bool.and_assoc]
  simp [Ctx.andFrom, hfold, allS]

section

variable {i : Instr} {want : Bool} {p : Pfx} {o : BitVec 8} {s : State} (h : s.issues i .never 1 0 = true) (hg : readRegions i = [])
  (hbusy : s.spillBusy = false)

include h hg hbusy

theorem branchIf_pop {e : PEntry} {t : State} (hpop : (s.charged 1 0).pop = some (e, t)) :
    (allS t.ctx t.ctx.pst ∧ e.s = want → branchIf i want p o s = .next (t.jumped (s.ctx.pc + BitVec.ofInt 64 (2 * p.imm o)))) ∧
    (¬ (allS t.ctx t.ctx.pst ∧ e.s = want) → branchIf i want p o s = .next (t.done i)) := by
  have hsid := State.issues_sid h
  have hfree : (s.charged 1 0).spillBusy = false := (s.spillBusy_charged 1 0 hsid).trans hbusy
  have htaken : ((t.ctx.andFrom t.ctx.pst).s && e.s == want) = true ↔ allS t.ctx t.ctx.pst ∧ e.s = want := by
    rw [Bool.and_eq_true, Ctx.andFrom_s, beq_iff_eq]
  refine ⟨fun hc => issue_goto h (.inl rfl) rfl rfl rfl hg ?_, fun hc => issue_ok h (.inl rfl) rfl rfl rfl hg ?_⟩
  · simp only [hfree, hpop, htaken.2 hc, target_charged p o 1 0 hsid, if_true, Bool.false_eq_true, if_false]
  · simp only [hfree, hpop, mt htaken.1 hc, Bool.false_eq_true, if_false]

theorem branchIf_noPop {e : Err} (hpaid : s.ctx.paid = none) (hpop : (s.charged 1 0).pop = none ∧ (s.charged 1 0).popErr = e) :
    branchIf i want p o s = .next ((s.setCtx { s.ctx with wait := .none }).takeTrap e i.ilen) := by
  have hfree : (s.charged 1 0).spillBusy = false := (s.spillBusy_charged 1 0 (State.issues_sid h)).trans hbusy
  refine issue_trap h (.inl rfl) rfl rfl rfl hg hpaid ?_
  simp only [hfree, hpop, Bool.false_eq_true, if_false]

theorem branchIf_empty (hpaid : s.ctx.paid = none) (hpst : s.ctx.pst = []) :
    branchIf i want p o s = .next ((s.setCtx { s.ctx with wait := .none }).takeTrap (mkErr 0x0D s.ctx.pc 0#64) i.ilen) := by
  have hsid := State.issues_sid h
  have hpop := State.pop_of_empty ((s.pst_charged 1 0 hsid).trans hpst)
  rw [s.pc_charged 1 0 hsid] at hpop
  exact branchIf_noPop h hg hbusy hpaid hpop

theorem branchIf_lost (hpaid : s.ctx.paid = none) {b : PEntry} {bs : List PEntry} (hpst : s.ctx.pst = b :: bs)
    (hspilled : 0 < s.ctx.spilled) (hpoison : spillKey s.tid s.ctx.pspill s.ctx.spilled / 64 ∈ s.poison) :
    branchIf i want p o s = .next ((s.setCtx { s.ctx with wait := .none }).takeTrap
      (mkErr 0x15 (BitVec.ofNat 64 (spillKey s.tid s.ctx.pspill s.ctx.spilled)) 0#64) i.ilen) := by
  have hsid := State.issues_sid h
  have hsp := s.spilled_charged 1 0 hsid
  have hkey : spillKey (s.charged 1 0).tid (s.charged 1 0).ctx.pspill (s.charged 1 0).ctx.spilled =
      spillKey s.tid s.ctx.pspill s.ctx.spilled := by
    rw [s.charged_tid, s.pspill_charged 1 0 hsid, hsp]
  have hpop := State.pop_of_lost (s := s.charged 1 0) ((s.pst_charged 1 0 hsid).trans hpst) (hsp ▸ hspilled)
    (by rw [hkey, s.charged_poison]; exact hpoison)
  rw [hkey] at hpop
  exact branchIf_noPop h hg hbusy hpaid hpop

end

end Sys2Proof.Machine
end

section
/-! Branches and jumps (04 R105, R106). -/

namespace Sys2Proof.Proofs

open Sys2Proof Sys2Proof.Machine Sys2Proof.Claims

/-- Settles O12: B, J and CALL go to their target; BT and BF by the outcome of their pop; JR, CALLR and RET by bit 0 of their target. -/
theorem branchResults : Obligations.BranchResults := by
  unfold Obligations.BranchResults
  refine ⟨?b, ?j, ?call, ?bt, ?bf, ?lost, ?empty, ?jr, ?callr, ?ret, ?odd⟩
  case b | j =>
    intro p o s h
    exact issue_goto h (.inl rfl) rfl rfl rfl rfl (congrArg (Res.goto _) (target_charged p o 1 0 (State.issues_sid h)))
  case call =>
    intro p o s h
    have hsid := State.issues_sid h
    refine issue_goto h (.inl rfl) rfl rfl rfl rfl ?_
    rw [← target_charged p o 1 0 hsid, ← nextPc_charged _ 1 0 hsid]
  case bt | bf =>
    intro p o s e t h hbusy hpop
    exact branchIf_pop h rfl hbusy hpop
  case lost =>
    rintro mk hmk p o s b bs x h hpaid hbusy hpst hspilled rfl hpoison
    simp only [List.mem_cons, List.not_mem_nil, or_false] at hmk
    rcases hmk with rfl | rfl <;> exact branchIf_lost h rfl hbusy hpaid hpst hspilled hpoison
  case empty =>
    intro mk hmk p o s h hpaid hbusy hpst
    simp only [List.mem_cons, List.not_mem_nil, or_false] at hmk
    rcases hmk with rfl | rfl <;> exact branchIf_empty h rfl hbusy hpaid hpst
  case jr =>
    intro p d a s h ht
    exact issue_jumpTo_even h rfl (s.rs_charged 1 0 (p.an a) (State.issues_sid h)) ht
  case callr =>
    intro p d a s h ht
    have hsid := State.issues_sid h
    rw [← nextPc_charged _ 1 0 hsid]
    exact issue_jumpTo_even h rfl (s.rs_charged 1 0 (p.an a) hsid) ht
  case ret =>
    intro p d a s h ht
    exact issue_jumpTo_even h rfl (s.rs_charged 1 0 14 (State.issues_sid h)) ht
  case odd =>
    intro mk hmk p d a s t h hpaid ht hodd
    have hrs (r : Nat) := s.rs_charged 1 0 r (State.issues_sid h)
    simp only [List.mem_cons, List.not_mem_nil, or_false] at hmk
    rcases hmk with rfl | rfl | rfl
    case inl | inr.inl =>
      rw [if_neg (by simp)] at ht
      exact issue_jumpTo_odd h rfl ((hrs _).trans ht.symm) hpaid hodd
    case inr.inr =>
      rw [if_pos rfl] at ht
      exact issue_jumpTo_odd h rfl ((hrs 14).trans ht.symm) hpaid hodd

end Sys2Proof.Proofs
end

section
/-! Traps before any charge (02 R43, 03 R48, R58, R60, 14 R340): privileged instructions, special registers that a user may not reach,
misaligned loads and stores. -/

namespace Sys2Proof.Machine

open Sys2Proof.Claims

/-! ### Privileged instructions (R43, R60) -/

theorem issue_privileged {i : Instr} {sh : Shape} {s : State} (hrun : s.canRun = true) (hfree : interlocked i s.ctx = false)
    (hwf : i.wf = true) (hkernel : sh.kernel = true) (huser : s.ctx.user = true) :
    issue i sh s = .next (s.takeTrap (mkErr 3 s.ctx.pc i.tinfo) i.ilen) := by
  simp only [issue, hrun, hfree, hwf, hkernel, huser, Bool.not_true, Bool.or_false, Bool.and_self, Bool.false_eq_true, if_false, if_true]

/-- An instruction of kernel mode alone traps in user mode, whatever its meaning. -/
theorem exec_privileged {i : Instr} {s : State} (hword : i.isWord = true) (hkernel : kernelOnly i = true) (hrun : s.canRun = true)
    (hfree : interlocked i s.ctx = false) (hwf : i.wf = true) (huser : s.ctx.user = true) :
    exec i s = .next (s.takeTrap (mkErr 3 s.ctx.pc i.tinfo) i.ilen) := by
  obtain ⟨sh, hexec, -, hk⟩ := exec_eq_issue hword s
  rw [hexec]
  exact issue_privileged hrun hfree hwf (hk.trans hkernel) huser

/-! ### Words that are no instruction (R48, R58) -/

/-- The cause of an unlisted word, and of an illegal chain. -/
def illegalCause : Illegal → Nat
  | .word _ _ => 1
  | .chain _ _ => 2

theorem exec_illegal {w : Illegal} {s : State} (hrun : s.canRun = true) (hfree : interlocked (.illegalInstruction w) s.ctx = false) :
    exec (.illegalInstruction w) s = .next (s.takeTrap (mkErr (illegalCause w) s.ctx.pc (Instr.illegalInstruction w).tinfo)
      (Instr.illegalInstruction w).ilen) := by
  show execIllegalInstruction w s = _
  simp only [execIllegalInstruction, hrun, hfree, Bool.not_true, Bool.or_false, Bool.false_eq_true, if_false]
  cases w <;> rfl

/-! ### A trap of the instruction's own (R340) -/

/-- It comes before the charge and before the guard's underflow; a false guard alone would put it off. -/
theorem issue_own {i : Instr} {sh : Shape} {s : State} {e : Err} (hrun : s.canRun = true) (hfree : interlocked i s.ctx = false)
    (hwf : i.wf = true) (hk : sh.kernel = false ∨ s.ctx.user = false) (hpaid : s.ctx.paid = none)
    (hguard : ∀ g, issueGuard sh.gm (guardPfx i) s.ctx = some g → g.s = true) (hown : sh.own s = some e) :
    issue i sh s = .next (s.takeTrap e i.ilen) := by
  have hpriv : (sh.kernel && s.ctx.user) = false := by rcases hk with h | h <;> simp [h]
  cases hg : issueGuard sh.gm (guardPfx i) s.ctx with
  | none => simp [issue, hrun, hfree, hwf, hpriv, hg, hown]
  | some g => simp [issue, hrun, hfree, hwf, hpriv, hg, hguard g hg, hpaid, hown]

theorem issue_sprShape_refused {i : Instr} {s : State} {n : Nat} {write : Bool} {k : State → State} (hrun : s.canRun = true)
    (hfree : interlocked i s.ctx = false) (hwf : i.wf = true) (huser : s.ctx.user = true) (hpaid : s.ctx.paid = none)
    (hguard : ∀ g, issueGuard .plain (guardPfx i) s.ctx = some g → g.s = true) (hn : sprPermitted n true write = false) :
    issue i (sprShape n write k) s = .next (s.takeTrap (mkErr 3 s.ctx.pc (BitVec.ofNat 64 n)) i.ilen) :=
  issue_own hrun hfree hwf (.inl rfl) hpaid hguard (by simp only [sprShape, huser, hn, Bool.false_eq_true, if_false])

/-- The kernel registers of Table 04-3, and those that a user may read and not write. -/
theorem sprPermitted_read {n : Nat} (h : n ∈ [0x040, 0x041, 0x042, 0x043, 0x044, 0x045, 0x048, 0x049, 0x04A, 0x04B]) :
    sprPermitted n true false = false := by
  revert n; decide
theorem sprPermitted_write {n : Nat} (h : n ∈ [0x008, 0x010, 0x011, 0x014, 0x015, 0x016, 0x023, 0x031, 0x040, 0x041, 0x042, 0x043, 0x044,
    0x045, 0x048, 0x049, 0x04A, 0x04B]) : sprPermitted n true true = false := by
  revert n; decide

/-! ### Misaligned loads and stores (04 R102) -/

/-- A misaligned access is charged no traffic. -/
theorem traffic_misaligned {s : State} {va : Word} {n : Nat} (h : va.toNat % n ≠ 0) : traffic s va n = 0 := if_neg h

theorem loadBody_misaligned {p : Pfx} {d : BitVec 4} {va : Word} {n : Nat} {signed : Bool} {s : State} (h : va.toNat % n ≠ 0) :
    loadBody p d va n signed s = .trap (mkErr 4 va 0#64) := if_pos h
theorem storeBody_misaligned {p : Pfx} {va : Word} {n : Nat} {v : Word} {s : State} (h : va.toNat % n ≠ 0) :
    storeBody p va n v s = .trap (mkErr 4 va 0#64) := if_pos h

section

variable {i : Instr} {s : State} {addr : State → Word} {n : Nat} (h : s.issues i .plain 1 0 = true) (hg : readRegions i = [])
  (hpaid : s.ctx.paid = none) (haddr : addr (s.charged 1 0) = addr s) (hmis : (addr s).toNat % n ≠ 0)

include h hg hpaid haddr hmis

/-- A page-0 access whose meaning traps where its address is misaligned traps so, uncharged. -/
theorem issue_misaligned {body : State → Res} (hbody : ∀ s, (addr s).toNat % n ≠ 0 → body s = .trap (mkErr 4 (addr s) 0#64)) :
    issue i (memory 1 (fun s => traffic s (addr s) n) body) s =
      .next ((s.setCtx { s.ctx with wait := .none }).takeTrap (mkErr 4 (addr s) 0#64) i.ilen) := by
  refine issue_trap h (.inl rfl) rfl rfl ?_ hg hpaid ?_
  · exact congrArg (Prod.mk 1) (traffic_misaligned hmis)
  · rw [← haddr] at hmis ⊢
    exact hbody _ hmis

end

theorem addrF3_charged (p : Pfx) (a i : BitVec 4) {s : State} (h : s.sid ≤ 10) : addrF3 p a i (s.charged 1 0) = addrF3 p a i s := by
  rw [addrF3, addrF3, opA, opA, s.rs_charged 1 0 _ h]
theorem addrX_charged (p : Pfx) (a : BitVec 4) {s : State} (h : s.sid ≤ 10) : addrX p a (s.charged 1 0) = addrX p a s := by
  rw [addrX, addrX, opA, opA, s.rs_charged 1 0 _ h]

theorem ldx_misaligned {i : Instr} {p : Pfx} {d a : BitVec 4} {n : Nat} {signed : Bool} {s : State} (h : s.issues i .plain 1 0 = true)
    (hg : readRegions i = []) (hpaid : s.ctx.paid = none) (hmis : (addrX p a s).toNat % n ≠ 0) :
    ldx i p d a n signed s = .next ((s.setCtx { s.ctx with wait := .none }).takeTrap (mkErr 4 (addrX p a s) 0#64) i.ilen) :=
  issue_misaligned h hg hpaid (addrX_charged p a (State.issues_sid h)) hmis fun _ => loadBody_misaligned
theorem stx_misaligned {i : Instr} {p : Pfx} {d a : BitVec 4} {n : Nat} {s : State} (h : s.issues i .plain 1 0 = true)
    (hg : readRegions i = []) (hpaid : s.ctx.paid = none) (hmis : (addrX p a s).toNat % n ≠ 0) :
    stx i p d a n s = .next ((s.setCtx { s.ctx with wait := .none }).takeTrap (mkErr 4 (addrX p a s) 0#64) i.ilen) :=
  issue_misaligned h hg hpaid (addrX_charged p a (State.issues_sid h)) hmis fun _ => storeBody_misaligned

end Sys2Proof.Machine
end

section
/-! Words and forms that trap before any charge (03 R48, R58, R60, 04 R81, R97, R102, 14 R340). -/

namespace Sys2Proof.Proofs

open Sys2Proof Sys2Proof.Machine Sys2Proof.Claims

/-- BTOP, MBANK and the page-7 functions of kernel mode are words that Issue() runs in kernel mode alone. -/
theorem kernel_word {i : Instr}
    (h : (∃ mk ∈ [Instr.tret, Instr.tlbinv, Instr.regrd, Instr.btop, Instr.mbankSel, Instr.mbankSpill, Instr.mbankFill], ∃ p d a, i = mk p d a) ∨
      (∃ mk ∈ [Instr.ctxsvCtx, Instr.ctxsvCell, Instr.ctxsvTile, Instr.ctxldCtx, Instr.ctxldCell, Instr.ctxldTile, Instr.ctxldReg,
        Instr.pmreqCtx, Instr.pmreqStop, Instr.pmreqGo, Instr.pmreqFrame, Instr.gangstopStop, Instr.gangstopRestart],
        ∃ p a, i = mk p a)) : i.isWord = true ∧ kernelOnly i = true := by
  simp only [List.mem_cons, List.not_mem_nil, or_false] at h
  rcases h with ⟨mk, hmk, p, d, a, rfl⟩ | ⟨mk, hmk, p, a, rfl⟩
  · rcases hmk with rfl | rfl | rfl | rfl | rfl | rfl | rfl <;> exact ⟨rfl, rfl⟩
  · rcases hmk with rfl | rfl | rfl | rfl | rfl | rfl | rfl | rfl | rfl | rfl | rfl | rfl | rfl <;> exact ⟨rfl, rfl⟩

/-- Settles O23: each form stops in Issue() before the charge, at the privilege or at a trap of its own, or traps with the charge returned. -/
theorem encodingTraps : Obligations.EncodingTraps := by
  unfold Obligations.EncodingTraps
  refine ⟨⟨?privileged, ⟨?word, ?chain⟩, ?mfs, ?mts⟩, ?ld, ?st, ?ldx⟩
  case privileged =>
    intro i hi s hrun hfree hwf huser
    obtain ⟨hword, hkernel⟩ := kernel_word hi
    exact exec_privileged hword hkernel hrun hfree hwf huser
  case word | chain =>
    intro _ _ s hrun hfree
    exact exec_illegal hrun hfree
  case mfs =>
    rintro p d a s n hrun hfree hwf huser hpaid hguard rfl hn
    exact issue_sprShape_refused hrun hfree hwf huser hpaid hguard (sprPermitted_read hn)
  case mts =>
    rintro p d a s n hrun hfree hwf huser hpaid hguard rfl hn
    exact issue_sprShape_refused hrun hfree hwf huser hpaid hguard (sprPermitted_write hn)
  case ld =>
    intro p d a i s h hpaid hmis
    exact issue_misaligned h rfl hpaid (addrF3_charged p a i (State.issues_sid h)) hmis fun _ => loadBody_misaligned
  case st =>
    intro p d a i s h hpaid hmis
    exact issue_misaligned h rfl hpaid (addrF3_charged p a i (State.issues_sid h)) hmis fun _ => storeBody_misaligned
  case ldx =>
    intro mk n hmk p d a s h hpaid hmis
    simp only [List.mem_cons, List.not_mem_nil, or_false, Prod.mk.injEq] at hmk
    rcases hmk with ⟨rfl, rfl⟩ | ⟨rfl, rfl⟩ | ⟨rfl, rfl⟩ | ⟨rfl, rfl⟩ | ⟨rfl, rfl⟩ | ⟨rfl, rfl⟩
    · exact ldx_misaligned h rfl hpaid hmis
    · exact ldx_misaligned h rfl hpaid hmis
    · exact stx_misaligned h rfl hpaid hmis
    · exact ldx_misaligned h rfl hpaid hmis
    · exact ldx_misaligned h rfl hpaid hmis
    · exact stx_misaligned h rfl hpaid hmis

end Sys2Proof.Proofs
end

section
/-! What the acting context reads after the updates of an instruction that completes, and the frame of a state that differs in that
context alone. -/

namespace Sys2Proof.Machine

/-! ### The acting context of an instruction that completes -/

theorem State.rs_setCtx (s : State) (c : Ctx) (r : Nat) (h : s.sid ≤ 10) : (s.setCtx c).rs r = vget c.regs r 0#64 := by
  rw [State.rs, s.ctx_setCtx c h]
theorem State.ctx_ws (s : State) (n : Nat) (v : Word) (h : s.sid ≤ 10) : (s.ws n v).ctx = { s.ctx with regs := vset s.ctx.regs n v } :=
  s.ctx_setCtx _ h
theorem State.ctx_settle (s : State) (h : s.sid ≤ 10) : s.settle.ctx = s.ctx.settle := s.ctx_setCtx _ h
theorem State.ctx_raise (s : State) (f : FFlags) (h : s.sid ≤ 10) : (s.raise f).ctx = s.ctx.raise f := s.ctx_setCtx _ h
theorem State.ctx_addPend (s : State) (p : Pend) (h : s.sid ≤ 10) : (s.addPend p).ctx = { s.ctx with pend := s.ctx.pend ++ [p] } :=
  s.ctx_setCtx _ h

theorem State.rs_ws_self (s : State) {n : Nat} (v : Word) (h : s.sid ≤ 10) (hn : n < 16) : (s.ws n v).rs n = v := by
  rw [State.ws, State.rs_setCtx _ _ _ h, vget_vset_self _ _ _ _ hn]
theorem State.rs_ws_ne (s : State) {n r : Nat} (v : Word) (h : s.sid ≤ 10) (hr : r ≠ n) : (s.ws n v).rs r = s.rs r := by
  rw [State.ws, State.rs_setCtx _ _ _ h, vget_vset_ne _ _ _ hr, State.rs]
theorem State.rs_raise (s : State) (f : FFlags) (r : Nat) (h : s.sid ≤ 10) : (s.raise f).rs r = s.rs r := s.rs_setCtx _ r h
theorem State.rs_addPend (s : State) (p : Pend) (r : Nat) (h : s.sid ≤ 10) : (s.addPend p).rs r = s.rs r := s.rs_setCtx _ r h

/-- The context of an instruction that is over, its pc at `a`. -/
def Ctx.over (c : Ctx) (a : Word) : Ctx := { c.settle with pc := a }

theorem State.jumped_eq (s : State) (a : Word) (h : s.sid ≤ 10) : s.jumped a = s.setCtx (s.ctx.over a) := by
  rw [State.jumped, State.setPc, s.ctx_settle h, State.settle, State.setCtx_setCtx, Ctx.over]
theorem State.settle_addPc (s : State) (n : Nat) (h : s.sid ≤ 10) : s.settle.addPc n = s.setCtx (s.ctx.over (nextPc s n)) := by
  rw [State.addPc, s.ctx_settle h, State.settle, State.setCtx_setCtx]; rfl
theorem State.done_eq (s : State) (i : Instr) (h : s.sid ≤ 10) : s.done i = s.setCtx (s.ctx.over (nextPc s i.ilen)) := s.settle_addPc _ h

theorem State.rs_done (s : State) (i : Instr) (r : Nat) (h : s.sid ≤ 10) : (s.done i).rs r = s.rs r := by
  rw [s.done_eq i h, s.rs_setCtx _ r h]; rfl
@[simp] theorem State.done_mem (s : State) (i : Instr) : (s.done i).mem = s.mem := rfl

/-- What is written over the charged context is written over the acting one. -/
theorem State.setCtx_charged (s : State) (n m : Nat) (c : Ctx) : (s.charged n m).setCtx c = s.setCtx c := by
  rcases s.charged_eq n m with e | ⟨c', -, e⟩ <;> rw [e]
  exact s.setCtx_setCtx c' c

/-- A register that a well-formed instruction names is one of the sixteen (03 R55). -/
theorem Instr.wf_sreg {i : Instr} {n : Nat} (h : i.wf = true) (hn : Operand.s n ∈ i.operands) : n < 16 := by
  simp only [Instr.wf, Bool.and_eq_true, List.all_eq_true] at h
  simpa [Operand.ok] using h.2 _ hn

/-! ### The frame of a state that differs in the acting context alone -/

theorem sameModule_setCtx (s : State) (c : Ctx) : SameModule s (s.setCtx c) := by
  refine ⟨fun _ => rfl, fun _ hc => s.cell_setCtx_ne c hc, ?_⟩
  simp
theorem sameUnits_setCtx (s : State) (c : Ctx) : SameUnits s (s.setCtx c) := by
  rw [SameUnits, State.myCell_setCtx]; rfl
theorem sameSlots_setCtx (s : State) (c : Ctx) : SameSlots s (s.setCtx c) :=
  fun _ hn => s.ctxAt_setCtx_ne c fun h => hn h.2

theorem frameRegs_setCtx {s : State} {c : Ctx} {ds : List Nat} (h : s.sid ≤ 10)
    (hspec : { c with
      regs := s.ctx.regs, pc := s.ctx.pc, ibud := s.ctx.ibud, mbud := s.ctx.mbud, wait := s.ctx.wait, paid := s.ctx.paid, cap := s.ctx.cap }
      = s.ctx) (hregs : ∀ r, r ∉ ds → vget c.regs r 0#64 = s.rs r) : FrameRegs s (s.setCtx c) ds := by
  refine ⟨sameModule_setCtx s c, sameUnits_setCtx s c, sameSlots_setCtx s c, ?_, fun r hr => ?_⟩
  · rw [SameSpecials, s.ctx_setCtx c h]; exact hspec
  · rw [s.rs_setCtx c r h, hregs r hr]

/-- The charged context, with other registers and the instruction over, differs in what `SameSpecials` leaves out alone. -/
theorem Ctx.over_specials {c c' : Ctx} (h : { c' with ibud := c.ibud, mbud := c.mbud } = c) (rs : Vector Word 16) (a : Word) :
    { Ctx.over { c' with regs := rs } a with
      regs := c.regs, pc := c.pc, ibud := c.ibud, mbud := c.mbud, wait := c.wait, paid := c.paid, cap := c.cap } = c := by
  cases c; cases c'; simp_all [Ctx.over, Ctx.settle]

end Sys2Proof.Machine
end

section
/-! The scalar integer instructions (04 R87, R99, R100): the values of Tables 04-5 and 04-6, and the issue of an instruction that writes
one register. -/

namespace Sys2Proof.Machine

open Sys2Proof.Claims

/-! ### Arithmetic and shifts (Tables 04-5 and 04-6) -/

theorem resSll_eq (x y : Word) : resSll x y = x <<< (y.extractLsb' 0 6).toNat := by simp [resSll]
theorem resSrl_eq (x y : Word) : resSrl x y = x >>> (y.extractLsb' 0 6).toNat := by simp [resSrl]
theorem resSra_eq (x y : Word) : resSra x y = x.sshiftRight (y.extractLsb' 0 6).toNat := by simp [resSra]

theorem resMul_eq (x y : Word) : resMul x y = BitVec.ofInt 64 (x.toInt * y.toInt) := by
  rw [resMul, BitVec.ofInt_mul, BitVec.ofInt_toInt, BitVec.ofInt_toInt]

theorem resDivu_eq (x y : Word) : resDivu x y = if y = 0#64 then BitVec.allOnes 64 else BitVec.ofNat 64 (x.toNat / y.toNat) := by
  rw [resDivu, ← BitVec.toNat_udiv, BitVec.ofNat_toNat, BitVec.setWidth_eq]
theorem resRemu_eq (x y : Word) : resRemu x y = if y = 0#64 then x else BitVec.ofNat 64 (x.toNat % y.toNat) := by
  rw [resRemu, ← BitVec.toNat_umod, BitVec.ofNat_toNat, BitVec.setWidth_eq]
theorem resRem_eq (x y : Word) : resRem x y = if y = 0#64 then x else BitVec.ofInt 64 (x.toInt - x.toInt.tdiv y.toInt * y.toInt) := by
  rw [resRem, Int.tmod_def, Int.mul_comm]

/-- Where two values are equal, either is their minimum and their maximum: `<` and `≤` choose alike. -/
theorem ite_lt_eq_ite_le {α : Type} [LinearOrder α] {f : Word → α} (hf : Function.Injective f) (x y u v : Word)
    (huv : x = y → u = v) : (if f x < f y then u else v) = if f x ≤ f y then u else v := by
  rcases lt_trichotomy (f x) (f y) with h | h | h
  · rw [if_pos h, if_pos h.le]
  · rw [huv (hf h), ite_self, ite_self]
  · rw [if_neg h.not_gt, if_neg h.not_ge]

theorem resMin_eq (x y : Word) : resMin x y = if x.toInt ≤ y.toInt then x else y := by
  rw [← ite_lt_eq_ite_le (fun _ _ => BitVec.eq_of_toInt_eq) x y x y id]
  simp only [resMin, BitVec.slt_iff_toInt_lt]
theorem resMax_eq (x y : Word) : resMax x y = if x.toInt ≤ y.toInt then y else x := by
  rw [← ite_lt_eq_ite_le (fun _ _ => BitVec.eq_of_toInt_eq) x y y x Eq.symm]
  simp only [resMax, BitVec.slt_iff_toInt_lt]
theorem resMinu_eq (x y : Word) : resMinu x y = if x.toNat ≤ y.toNat then x else y := by
  rw [← ite_lt_eq_ite_le (fun _ _ => BitVec.eq_of_toNat_eq) x y x y id]
  simp only [resMinu, BitVec.ult_iff_lt, BitVec.lt_def]
theorem resMaxu_eq (x y : Word) : resMaxu x y = if x.toNat ≤ y.toNat then y else x := by
  rw [← ite_lt_eq_ite_le (fun _ _ => BitVec.eq_of_toNat_eq) x y y x Eq.symm]
  simp only [resMaxu, BitVec.ult_iff_lt, BitVec.lt_def]

/-! ### The low part of a word, extended -/

theorem signExtend_low (x : Word) {n : Nat} (h : n ≤ 64) : (x.setWidth n).signExtend 64 = BitVec.signExtend 64 (x.extractLsb' 0 n) := by
  rw [BitVec.setWidth_eq_extractLsb' h]
theorem setWidth_low (x : Word) (n : Nat) : (x.setWidth n).setWidth 64 = BitVec.ofNat 64 (x.toNat % 2 ^ n) := by
  rw [← BitVec.toNat_setWidth, BitVec.ofNat_toNat]

/-! ### Bits and bytes counted -/

theorem onesCount_toNat (x : Word) : (onesCount x).toNat = ((List.range 64).filter fun k => x.getLsbD k).length := by
  have hfold (l : List Nat) (n : Nat) :
      l.foldl (fun n k => if x.getLsbD k then n + 1 else n) n = n + (l.filter fun k => x.getLsbD k).length := by
    induction l generalizing n with
    | nil => rfl
    | cons k l ih => by_cases hk : x.getLsbD k = true <;> simp [ih, hk]; omega
  have hle : ((List.range 64).filter fun k => x.getLsbD k).length ≤ 64 := List.length_filter_le _ _
  rw [onesCount, hfold, Nat.zero_add, BitVec.toNat_ofNat, Nat.mod_eq_of_lt (by omega)]

/-- The scan of the bits below `n`, from bit 0 up, keeps 63 less the highest one that is set. -/
theorem leadingZeros_fold (x : Word) (n : Nat) (hn : n ≤ 64) :
    let r := (List.range n).foldl (fun r k => if x.getLsbD k then 63 - k else r) 64
    r = 64 ∧ (∀ k < n, x.getLsbD k = false) ∨
      r ≤ 63 ∧ 63 - r < n ∧ x.getLsbD (63 - r) = true ∧ ∀ k < n, 63 - r < k → x.getLsbD k = false := by
  induction n with
  | zero => exact .inl ⟨rfl, by simp⟩
  | succ n ih =>
    rw [List.range_succ, List.foldl_append]
    simp only [List.foldl_cons, List.foldl_nil]
    specialize ih (by omega)
    generalize (List.range n).foldl _ 64 = r at ih ⊢
    cases hx : x.getLsbD n with
    | true =>
      have hr : 63 - (63 - n) = n := by omega
      exact .inr (by rw [if_pos rfl, hr]; exact ⟨by omega, by omega, hx, by omega⟩)
    | false =>
      have hstep {P : Nat → Prop} (h : ∀ k < n, P k → x.getLsbD k = false) : ∀ k < n + 1, P k → x.getLsbD k = false := by
        intro k hk hp
        rcases Nat.lt_succ_iff_lt_or_eq.1 hk with hk | rfl
        · exact h k hk hp
        · exact hx
      rcases ih with ⟨rfl, h⟩ | ⟨hle, hlt, hset, habove⟩
      · exact .inl ⟨rfl, fun k hk => hstep (P := fun _ => True) (fun k hk _ => h k hk) k hk trivial⟩
      · exact .inr ⟨hle, Nat.lt_succ_of_lt hlt, hset, hstep habove⟩

theorem leadingZeros_isClz (x : Word) : IsClz x (leadingZeros x) := by
  have h := leadingZeros_fold x 64 (Nat.le_refl _)
  dsimp only at h
  unfold leadingZeros
  generalize (List.range 64).foldl _ 64 = r at h ⊢
  have hr : (BitVec.ofNat 64 r).toNat = r := by
    rw [BitVec.toNat_ofNat]; omega
  have hbeyond {P : Nat → Prop} (h : ∀ k < 64, P k → x.getLsbD k = false) (k : Nat) (hp : P k) : x.getLsbD k = false := by
    rcases Nat.lt_or_ge k 64 with hk | hk
    · exact h k hk hp
    · exact BitVec.getLsbD_of_ge x k hk
  rw [IsClz, hr]
  rcases h with ⟨rfl, h⟩ | ⟨hle, -, hset, habove⟩
  · exact ⟨Nat.le_refl _, hbeyond fun k hk _ => h k hk, by omega⟩
  · exact ⟨by omega, fun k hk => hbeyond habove k (by omega), fun _ => hset⟩

/-- The scan of a rising list of bits from its end on keeps the lowest one that is set. -/
theorem trailingZeros_fold (x : Word) (l : List Nat) (hl : l.Pairwise (· < ·)) (hlt : ∀ k ∈ l, k < 64) :
    let r := l.foldr (fun k r => if x.getLsbD k then k else r) 64
    r = 64 ∧ (∀ k ∈ l, x.getLsbD k = false) ∨ r < 64 ∧ x.getLsbD r = true ∧ ∀ k ∈ l, k < r → x.getLsbD k = false := by
  induction l with
  | nil => exact .inl ⟨rfl, by simp⟩
  | cons j l ih =>
    obtain ⟨hj, hl⟩ := List.pairwise_cons.1 hl
    specialize ih hl fun k hk => hlt k (List.mem_cons_of_mem _ hk)
    simp only [List.foldr_cons]
    generalize l.foldr _ 64 = r at ih ⊢
    cases hx : x.getLsbD j with
    | true =>
      refine .inr ⟨hlt j List.mem_cons_self, hx, List.forall_mem_cons.2 ⟨fun h => absurd h (Nat.lt_irrefl _), fun k hk h => ?_⟩⟩
      exact absurd (hj k hk) (Nat.lt_asymm h)
    | false =>
      rcases ih with ⟨rfl, h⟩ | ⟨hr, hset, hbelow⟩
      · exact .inl ⟨rfl, List.forall_mem_cons.2 ⟨hx, h⟩⟩
      · exact .inr ⟨hr, hset, List.forall_mem_cons.2 ⟨fun _ => hx, hbelow⟩⟩

theorem trailingZeros_isCtz (x : Word) : IsCtz x (trailingZeros x) := by
  have h := trailingZeros_fold x (List.range 64) List.pairwise_lt_range fun k => List.mem_range.1
  dsimp only at h
  unfold trailingZeros
  generalize (List.range 64).foldr _ 64 = r at h ⊢
  have hr : (BitVec.ofNat 64 r).toNat = r := by
    rw [BitVec.toNat_ofNat]; omega
  rw [IsCtz, hr]
  rcases h with ⟨rfl, h⟩ | ⟨hlt, hset, hbelow⟩
  · exact ⟨Nat.le_refl _, fun k hk => h k (List.mem_range.2 hk), by omega⟩
  · exact ⟨hlt.le, fun k hk => hbelow k (List.mem_range.2 (by omega)) hk, fun _ => hset⟩

/-- Byte `k` of eight bytes side by side. -/
theorem extract_append8 (a b c d e f g h : BitVec 8) {k : Nat} (hk : k < 8) :
    (a ++ b ++ c ++ d ++ e ++ f ++ g ++ h).extractLsb' (8 * k) 8 = [h, g, f, e, d, c, b, a].getD k 0#8 := by
  interval_cases k <;> simp (disch := decide) only [BitVec.extractLsb'_append_eq_of_le, BitVec.extractLsb'_append_eq_of_add_le,
    BitVec.extractLsb'_eq_self, Nat.reduceMul, Nat.reduceSub] <;> rfl

theorem resBswap_byte (x : Word) {k : Nat} (hk : k < 8) : (resBswap x).extractLsb' (8 * k) 8 = x.extractLsb' (56 - 8 * k) 8 := by
  refine (extract_append8 _ _ _ _ _ _ _ _ hk).trans ?_
  interval_cases k <;> rfl

/-! ### ALU and ALU2 (R99) -/

theorem srcX_charged (p : Pfx) (d a : BitVec 4) {s : State} (n m : Nat) (h : s.sid ≤ 10) : opX p d a (s.charged n m) = srcX p d a s := by
  simp only [opX, opA, opD, srcX, s.rs_charged n m _ h]
theorem srcY_charged (p : Pfx) (a : BitVec 4) {s : State} (n m : Nat) (h : s.sid ≤ 10) : opY p a (s.charged n m) = srcY p a s := by
  simp only [opY, opA, opE, srcY, s.rs_charged n m _ h]
theorem opA_charged (p : Pfx) (a : BitVec 4) {s : State} (n m : Nat) (h : s.sid ≤ 10) : opA p a (s.charged n m) = s.rs (p.an a) :=
  s.rs_charged n m _ h
theorem opD_charged (p : Pfx) (d : BitVec 4) {s : State} (n m : Nat) (h : s.sid ≤ 10) : opD p d (s.charged n m) = s.rs (p.dn d) :=
  s.rs_charged n m _ h

/-- The operands of F0 arithmetic name no region register. -/
@[simp] theorem greg_rrr (p : Pfx) (d a : BitVec 4) : (p.rrr d a).filterMap Operand.greg = [] := by
  unfold Pfx.rrr; split <;> rfl

theorem alu_intro {mk : Pfx → BitVec 4 → BitVec 4 → Instr} {n : Nat} {f g : Word → Word → Word} (hfg : ∀ x y, f x y = g x y)
    (hexec : ∀ p d a s, exec (mk p d a) s = alu (mk p d a) n p d a f s := by intros; rfl)
    (hregs : ∀ p d a, readRegions (mk p d a) = (p.rrr d a).filterMap Operand.greg := by intros; rfl) : Alu mk n g := by
  intro p d a s h
  have hsid := State.issues_sid h
  rw [hexec]
  refine issue_ok h (.inl rfl) rfl rfl rfl ((hregs p d a).trans (greg_rrr p d a)) ?_
  simp only [srcX_charged p d a n 0 hsid, srcY_charged p a n 0 hsid, hfg]

/-- An instruction of charge 1 that writes one register with a value of the charged state. -/
theorem issue_writes {i : Instr} {gm : GuardMode} {s : State} {r : Nat} {f : State → Word} {v : Word} (h : s.issues i gm 1 0 = true)
    (hregs : readRegions i = []) (hv : f (s.charged 1 0) = v) :
    issue i { gm := gm, body := fun s => .ok (s.ws r (f s)) } s = .next (((s.charged 1 0).ws r v).done i) :=
  issue_ok h (.inl rfl) rfl rfl rfl hregs (congrArg (fun v => Res.ok (State.ws _ r v)) hv)

theorem alu1P_intro {mk : Pfx → BitVec 4 → BitVec 4 → Instr} {f : Word → Word} {P : Word → Word → Prop} (hf : ∀ x, P x (f x))
    (hexec : ∀ p d a s, exec (mk p d a) s = alu1 (mk p d a) p d a f s := by intros; rfl)
    (hregs : ∀ p d a, readRegions (mk p d a) = [] := by intros; rfl) : Alu1P mk P := by
  intro p d a s h
  refine ⟨f (s.rs (p.an a)), hf _, ?_⟩
  rw [hexec]
  exact issue_writes h (hregs p d a) (congrArg f (opA_charged p a 1 0 (State.issues_sid h)))

theorem alu1_intro {mk : Pfx → BitVec 4 → BitVec 4 → Instr} {f g : Word → Word} (hfg : ∀ x, f x = g x)
    (hexec : ∀ p d a s, exec (mk p d a) s = alu1 (mk p d a) p d a f s := by intros; rfl)
    (hregs : ∀ p d a, readRegions (mk p d a) = [] := by intros; rfl) : Alu1 mk g := by
  intro p d a s h
  obtain ⟨v, rfl, hv⟩ := alu1P_intro (P := fun x v => v = g x) hfg hexec hregs p d a s h
  exact hv

end Sys2Proof.Machine
end

section
/-! Results of the scalar integer instructions (04 R87, R99, R100), and the cycle counter (R98). -/

namespace Sys2Proof.Proofs

open Sys2Proof Sys2Proof.Machine Sys2Proof.Claims

/-- Settles O7: each row of Tables 04-5 and 04-6 is a use of `alu` or `alu1`, and its function is the one of the table. -/
theorem integerResults : Obligations.IntegerResults := by
  unfold Obligations.IntegerResults
  refine ⟨⟨⟨?add, ?sub, ?and, ?or, ?xor, ?sll, ?srl, ?sra, ?mul, ?mulh, ?mulhu, ?min, ?max, ?minu, ?maxu, ?addw, ?subw⟩,
      ?div, ?divu, ?rem, ?remu, ?overflow⟩,
    ?mov, ?clz, ?ctz, ?popc, ?sextb, ?sexth, ?sextw, ?zextb, ?zexth, ?zextw, ?bswap, ?addi, ?li⟩
  case add | sub | and | or | xor | mulh | mulhu | div => exact alu_intro fun _ _ => rfl
  case sll => exact alu_intro resSll_eq
  case srl => exact alu_intro resSrl_eq
  case sra => exact alu_intro resSra_eq
  case mul => exact alu_intro resMul_eq
  case min => exact alu_intro resMin_eq
  case max => exact alu_intro resMax_eq
  case minu => exact alu_intro resMinu_eq
  case maxu => exact alu_intro resMaxu_eq
  case addw | subw => exact alu_intro fun _ _ => signExtend_low _ (by decide)
  case divu => exact alu_intro resDivu_eq
  case rem => exact alu_intro resRem_eq
  case remu => exact alu_intro resRemu_eq
  case overflow => decide
  case mov => exact alu1_intro fun _ => rfl
  case clz => exact alu1P_intro leadingZeros_isClz
  case ctz => exact alu1P_intro trailingZeros_isCtz
  case popc => exact alu1P_intro onesCount_toNat
  case sextb | sexth | sextw => exact alu1_intro fun x => signExtend_low x (by decide)
  case zextb | zexth | zextw => exact alu1_intro fun x => setWidth_low x _
  case bswap => exact alu1P_intro fun x _ => resBswap_byte x
  case addi =>
    intro p d i s h
    exact issue_writes h rfl (congrArg (· + immWord (p.imm i)) (s.rs_charged 1 0 d.toNat (State.issues_sid h)))
  case li =>
    intro p d i s h
    exact issue_writes h rfl rfl

/-- RDCYC writes the cycle counter, which the charge leaves as it is. -/
theorem rdcyc_writes (p : Pfx) (d a : BitVec 4) (s : State) (h : s.issues (.rdcyc p d a) .plain 1 0 = true) :
    exec (.rdcyc p d a) s = .next (((s.charged 1 0).ws (p.dn d) s.cycle).done (.rdcyc p d a)) :=
  issue_writes h rfl (s.charged_cycle 1 0)

end Sys2Proof.Proofs
end

section
/-! Special registers (04 R81 to R86, R97) and the address space of a tile (08 R207, 09 R223, 12 R291). -/

namespace Sys2Proof.Machine

open Sys2Proof.Claims

/-! ### Access codes (Table 04-3) -/

theorem sprAccess_eq_kernel {n : Nat} (h : sprAccess n = .kernel) : 0x040 ≤ n ∧ n ≤ 0x045 ∨ 0x048 ≤ n ∧ n ≤ 0x04B := by
  unfold sprAccess at h
  split_ifs at h with _ _ _ _ hk
  exact hk

/-- A read is permitted to a user of every register but the kernel's. -/
theorem sprPermitted_read_of {n : Nat} {user : Bool} (h : user = true → sprAccess n ≠ .kernel) : sprPermitted n user false = true := by
  cases user with
  | false => rfl
  | true => unfold sprPermitted; split <;> simp_all

/-- A write is permitted to a user of a register that only the kernel writes neither alone nor besides. -/
theorem sprPermitted_write_of {n : Nat} {user : Bool}
    (h : user = true → sprAccess n = .rw ∨ sprAccess n = .r ∨ sprAccess n = .none) : sprPermitted n user true = true := by
  cases user with
  | false => rfl
  | true =>
    unfold sprPermitted
    rcases h rfl with h | h | h <;> rw [h] <;> rfl

/-- The numbers that no write reaches: code r and unlisted. -/
theorem sprAccess_of_ignored {n : Nat} (h : n < 8 ∨ 9 ≤ n ∧ n < 0x010 ∨ n = 0x012 ∨ n = 0x013 ∨ 0x017 ≤ n ∧ n < 0x020 ∨ 0x024 ≤ n ∧ n < 0x031 ∨
    0x032 ≤ n ∧ n < 0x040 ∨ 0x046 ≤ n ∧ n < 0x048 ∨ 0x04C ≤ n) : sprAccess n = .rw ∨ sprAccess n = .r ∨ sprAccess n = .none := by
  unfold sprAccess
  split_ifs <;> first | omega | simp

/-! ### Reads and writes -/

/-- A read answers the value of each register of Table 04-3. -/
theorem State.sprRead_listed (u : State) : ∀ x ∈ sprValues u, u.sprRead x.1 = x.2 := by
  rw [sprValues, List.forall_mem_append]
  refine ⟨?_, fun x hx => ?_⟩
  · simp only [List.forall_mem_cons, List.not_mem_nil, false_implies, implies_true, and_true]
    and_intros <;> rfl
  · obtain ⟨w, hw, rfl⟩ := List.mem_map.1 hx
    rw [List.mem_range] at hw
    interval_cases w <;> rfl

theorem State.sprRead_unlisted (u : State) {n : Nat} (h : 5 ≤ n ∧ n < 8 ∨ 0x00A ≤ n ∧ n < 0x010 ∨ 0x017 ≤ n ∧ n < 0x020 ∨ 0x024 ≤ n ∧ n < 0x030 ∨
    0x032 ≤ n ∧ n < 0x040 ∨ 0x046 ≤ n ∧ n < 0x048 ∨ 0x04C ≤ n ∧ n < 0x050 ∨ 0x058 ≤ n ∧ n < 0x060 ∨ 0x061 ≤ n ∧ n < 0x070 ∨ 0x071 ≤ n) :
    u.sprRead n = 0#64 := by
  have hks : ¬ (0x048 ≤ n ∧ n ≤ 0x04B) := by omega
  have hwin : ¬ (0x050 ≤ n ∧ n ≤ 0x057) := by omega
  unfold State.sprRead
  dsimp only
  split
  case h_29 => rw [if_neg hks, if_neg hwin]
  all_goals omega

/-- A write stores what the register keeps of it. -/
theorem State.sprWrite_listed (u : State) (v : Word) : ∀ x ∈ sprStores u v, u.sprWrite x.1 v = x.2 := by
  rw [sprStores, List.forall_mem_append]
  refine ⟨?_, fun x hx => ?_⟩
  · simp only [List.forall_mem_cons, List.not_mem_nil, false_implies, implies_true, and_true]
    and_intros <;> rfl
  · obtain ⟨k, hk, rfl⟩ := List.mem_map.1 hx
    rw [List.mem_range] at hk
    interval_cases k <;> rfl

theorem State.sprWrite_ignored (u : State) (v : Word) {n : Nat} (h : n < 8 ∨ 9 ≤ n ∧ n < 0x010 ∨ n = 0x012 ∨ n = 0x013 ∨ 0x017 ≤ n ∧ n < 0x020 ∨
    0x024 ≤ n ∧ n < 0x031 ∨ 0x032 ≤ n ∧ n < 0x040 ∨ 0x046 ≤ n ∧ n < 0x048 ∨ 0x04C ≤ n) : u.sprWrite n v = u := by
  have hks : ¬ (0x048 ≤ n ∧ n ≤ 0x04B) := by omega
  unfold State.sprWrite
  dsimp only
  split
  case h_18 => exact if_neg hks
  all_goals omega

/-! ### MFS and MTS (R97) -/

/-- An access that is permitted, finds the flags in (07 R170) and changes no address space under pushed units completes. -/
theorem issue_sprShape {i : Instr} {n : Nat} {write : Bool} {k : State → State} {s t : State} (h : s.issues i .plain 1 0 = true)
    (hregs : readRegions i = []) (hperm : sprPermitted n s.ctx.user write = true) (hflags : n = 0x020 → (s.charged 1 0).flagsIn = true)
    (hspace : n = 0x008 → (s.charged 1 0).tilePushes (s.charged 1 0).tid = false ∨ t.asid = (s.charged 1 0).asid)
    (hk : k (s.charged 1 0) = t) : issue i (sprShape n write k) s = .next (t.done i) := by
  have hown : (sprShape n write k).own s = none := by simp only [sprShape, hperm, if_true]
  refine issue_ok h (.inl rfl) hown rfl rfl hregs ?_
  show (if n = 0x020 ∧ !(s.charged 1 0).flagsIn then Res.hold
    else if n = 0x008 && (s.charged 1 0).tilePushes (s.charged 1 0).tid && (k (s.charged 1 0)).asid != (s.charged 1 0).asid then .hold
    else .ok (k (s.charged 1 0))) = _
  rw [hk, if_neg fun ⟨hn, hb⟩ => by simp [hflags hn] at hb, if_neg fun hb => ?_]
  simp only [Bool.and_eq_true, decide_eq_true_eq, bne_iff_ne, ne_eq] at hb
  obtain ⟨⟨hn, hpushes⟩, hother⟩ := hb
  rcases hspace hn with hp | ha
  · exact absurd (hp.symm.trans hpushes) Bool.false_ne_true
  · exact hother ha

theorem mfs_reads {p : Pfx} {d a : BitVec 4} {s : State} {v : Word} (h : s.issues (.mfs p d a) .plain 1 0 = true)
    (hperm : sprPermitted (sprNum p a) s.ctx.user false = true) (hflags : sprNum p a = 0x020 → (s.charged 1 0).flagsIn = true)
    (hv : (s.charged 1 0).sprRead (sprNum p a) = v) :
    exec (.mfs p d a) s = .next (((s.charged 1 0).ws (p.dn d) v).done (.mfs p d a)) :=
  issue_sprShape h rfl hperm hflags (fun _ => .inr rfl) (congrArg _ hv)

theorem mts_writes {p : Pfx} {d a : BitVec 4} {s t : State} (h : s.issues (.mts p d a) .plain 1 0 = true)
    (hperm : sprPermitted (sprNum p a) s.ctx.user true = true) (hflags : sprNum p a = 0x020 → (s.charged 1 0).flagsIn = true)
    (hspace : sprNum p a = 0x008 → (s.charged 1 0).tilePushes (s.charged 1 0).tid = false ∨ t.asid = (s.charged 1 0).asid)
    (ht : (s.charged 1 0).sprWrite (sprNum p a) (s.rs (p.dn d)) = t) : exec (.mts p d a) s = .next (t.done (.mts p d a)) := by
  refine issue_sprShape h rfl hperm hflags hspace ?_
  rw [opD_charged p d 1 0 (State.issues_sid h), ht]

/-! ### A change of address space -/

/-- Cells changed one by one over a list of places. -/
theorem foldl_setCell_cell (f : Cell → Cell) (b : Nat) (l : List Nat) (hl : l.Nodup) (s : State) (c : Nat) :
    (l.foldl (fun s k => s.setCell (b + k) (f (s.cell (b + k)))) s).cell c =
      if b ≤ c ∧ c - b ∈ l then f (s.cell c) else s.cell c := by
  induction l generalizing s with
  | nil => simp
  | cons k l ih =>
    obtain ⟨hk, hl⟩ := List.nodup_cons.1 hl
    rw [List.foldl_cons, ih hl]
    by_cases hc : c = b + k
    · subst hc
      have hcell : (s.setCell (b + k) (f (s.cell (b + k)))).cell (b + k) = f (s.cell (b + k)) := mget_mset_self _ _ _ _
      simp [hk, hcell]
    · have hcell : (s.setCell (b + k) (f (s.cell (b + k)))).cell c = s.cell c := mget_mset_ne _ _ _ hc
      have hne (hle : b ≤ c) : c - b ≠ k := by omega
      rw [hcell]
      refine if_congr (and_congr_right fun hle => ?_) rfl rfl
      simp [hne hle]

/-- Each cell of the tile is changed, and no other. -/
theorem State.cell_eachCell (s : State) (t : Nat) (f : Cell → Cell) (c : Nat) :
    (s.eachCell t f).cell c = if c / 16 = t then f (s.cell c) else s.cell c := by
  rw [State.eachCell, foldl_setCell_cell f (16 * t) _ List.nodup_range]
  refine if_congr ?_ rfl rfl
  rw [List.mem_range]
  omega

/-- Changing cells leaves everything else of the module. -/
theorem State.eachCell_cells (s : State) (t : Nat) (f : Cell → Cell) : ∃ m, s.eachCell t f = { s with cells := m } := by
  unfold State.eachCell
  generalize List.range 16 = l
  induction l generalizing s with
  | nil => exact ⟨s.cells, rfl⟩
  | cons k l ih =>
    obtain ⟨m, hm⟩ := ih (s.setCell (16 * t + k) (f (s.cell (16 * t + k))))
    exact ⟨m, by rw [List.foldl_cons, hm]; rfl⟩

theorem State.changeSpace_same {s : State} {t : Nat} {a : BitVec 12} (h : s.asidOf t = a) : s.changeSpace t a = s := if_pos h

theorem State.changeSpace_other {s : State} {t : Nat} {a : BitVec 12} (h : s.asidOf t ≠ a) :
    ∃ m, s.changeSpace t a = { s with cells := m, tiles := mset s.tiles t { s.tile t with asid := a, oob := 0#64 } } ∧
      ∀ c, mget m c Cell.reset = if c / 16 = t then (s.cell c).changeSpace else s.cell c := by
  obtain ⟨m, hm⟩ := s.eachCell_cells t Cell.changeSpace
  refine ⟨m, ?_, fun c => ?_⟩
  · rw [State.changeSpace, if_neg h]
    dsimp only
    rw [hm]; rfl
  · have hc := s.cell_eachCell t Cell.changeSpace c
    rw [hm] at hc
    exact hc

/-- Where the tile is stopped, or nothing is logged or held for it, entering a space is the change of space alone. -/
theorem State.enterSpace_quiet {s : State} {t : Nat} {a : BitVec 12}
    (h : (s.tile t).run ≠ .running ∨ s.loggedFor t a.toNat = [] ∧ (s.tile t).ingress = none) : s.enterSpace t a = s.changeSpace t a := by
  have hu : (s.changeSpace t a).asidOf t = a ∧ ((s.changeSpace t a).tile t).run = (s.tile t).run ∧
      ((s.changeSpace t a).tile t).ingress = (s.tile t).ingress ∧ (s.changeSpace t a).loggedFor t a.toNat = s.loggedFor t a.toNat := by
    by_cases ha : s.asidOf t = a
    · rw [State.changeSpace_same ha]; exact ⟨ha, rfl, rfl, rfl⟩
    · obtain ⟨m, hm, -⟩ := State.changeSpace_other ha
      rw [hm]
      simp only [State.asidOf, State.tile, mget_mset_self]
      exact ⟨trivial, trivial, trivial, rfl⟩
  obtain ⟨hasid, hrun, hing, hlog⟩ := hu
  unfold State.enterSpace
  dsimp only
  rw [hrun]
  rcases h with h | ⟨hl, hi⟩
  · exact if_neg h
  · have hreplay : (s.changeSpace t a).replay t = s.changeSpace t a := by
      unfold State.replay
      dsimp only
      rw [hasid, hlog, hl]
    have hflush : (s.changeSpace t a).flushIngress t = s.changeSpace t a := by
      unfold State.flushIngress
      rw [hing, hi]
    rw [hreplay, hflush, ite_self]

end Sys2Proof.Machine
end

section
/-! Special registers (04 R81 to R86, R97). -/

namespace Sys2Proof.Proofs

open Sys2Proof Sys2Proof.Machine Sys2Proof.Claims

/-- Settles O18: MFS and MTS by the row of Table 04-3 that they name; a change of space by the cells and the tile that it touches. -/
theorem specialRegisters : Obligations.SpecialRegisters := by
  unfold Obligations.SpecialRegisters
  refine ⟨⟨?read, ?readUnlisted⟩, ⟨?write, ?ignored⟩, ?change, fun _ _ _ => State.enterSpace_quiet⟩
  case read =>
    rintro p d a s _ _ v rfl h rfl hv huser hflags
    refine mfs_reads h (sprPermitted_read_of fun hu hk => ?_) hflags (State.sprRead_listed _ _ hv)
    have hn := huser hu
    have hk := sprAccess_eq_kernel hk
    rw [sprNum] at hk
    omega
  case readUnlisted =>
    rintro p d a s _ _ rfl h rfl hn
    refine mfs_reads h (sprPermitted_read_of fun _ hk => ?_) (fun h20 => ?_) (State.sprRead_unlisted _ hn)
    · have hk := sprAccess_eq_kernel hk
      rw [sprNum] at hk
      omega
    · rw [sprNum] at h20
      omega
  case write =>
    rintro p d a s _ _ t rfl h rfl ht huser hflags hspace
    refine mts_writes h (sprPermitted_write_of fun hu => .inl ?_) hflags hspace (State.sprWrite_listed _ _ _ ht)
    rw [sprNum]
    rcases huser hu with hn | hn | hn <;> rw [hn] <;> rfl
  case ignored =>
    rintro p d a s _ _ rfl h rfl hn
    refine mts_writes h (sprPermitted_write_of fun _ => sprAccess_of_ignored hn) (fun h20 => ?_) (fun h8 => ?_) (State.sprWrite_ignored _ _ hn)
    · rw [sprNum] at h20
      omega
    · rw [sprNum] at h8
      omega
  case change =>
    rintro s _ n a rfl
    refine ⟨State.changeSpace_same, fun ha => ?_⟩
    obtain ⟨m, hm, hcell⟩ := State.changeSpace_other ha
    rw [hm]
    simp only [State.asidOf, State.tile, State.cell, mget_mset_self, hcell]
    exact ⟨trivial, trivial, fun _ => trivial, fun c hc => if_pos hc, fun c hc => if_neg hc, fun k hk => mget_mset_ne _ _ _ hk⟩

/-- Settles O19: RDCYC writes the cycle counter, which the charge leaves, and MFS of number 0 reads the same. -/
theorem readCycle : Obligations.ReadCycle := by
  unfold Obligations.ReadCycle
  refine ⟨?value, by decide, ?mfs⟩
  case value =>
    intro p d a s h
    have hsid := State.issues_sid h
    have hwf : (Instr.rdcyc p d a).wf = true := (State.issues_iff.1 h).2.2.1
    have hd : p.dn d < 16 := Instr.wf_sreg hwf List.mem_cons_self
    refine ⟨_, rdcyc_writes p d a s h, ?_⟩
    rw [State.rs_done _ _ _ (by simpa using hsid), State.rs_ws_self _ _ (by simpa using hsid) hd]
  case mfs =>
    intro d s hr hm
    rw [rdcyc_writes _ _ _ s hr]
    exact mfs_reads hm (sprPermitted_read_of fun _ => by decide) (fun h => absurd h (by decide)) (s.charged_cycle 1 0)

end Sys2Proof.Proofs
end

section
/-! The predicate stack (04 R88 to R92): what a push and a pop answer. -/

namespace Sys2Proof.Machine

/-! ### Spilling a pushed stack and reading it back (R91) -/

theorem State.push_full (s : State) (e : PEntry) (h : 64 ≤ s.ctx.pdepth) : s.push e = none := if_pos h

theorem State.push_room {s : State} (e : PEntry) (hd : s.ctx.pdepth < 64) (h : s.ctx.pst.length < 16) :
    s.push e = some (s.setCtx { s.ctx with pst := e :: s.ctx.pst }) := by
  unfold State.push
  dsimp only
  rw [if_neg (Nat.not_le.2 hd), if_pos h]

/-- The spill area's key for the next entry of the acting context. -/
def State.spillNext (s : State) : Nat := spillKey s.tid s.ctx.pspill (s.ctx.spilled + 1)

/-- With 16 entries in hardware the bottom-most of them is written to the area. -/
theorem State.push_spill {s : State} (e : PEntry) {b : PEntry} (hd : s.ctx.pdepth < 64) (h : s.ctx.pst.length = 16)
    (hb : s.ctx.pst.getLast? = some b) (hf : s.flaws = []) :
    s.push e = some ((s.put64 s.tid s.spillNext (spillWord b)).setCtx
      { s.ctx with
        pst := e :: s.ctx.pst.dropLast, spilled := s.ctx.spilled + 1, pss := s.ctx.pss && b.s, psmask := s.ctx.psmask &&& b.mask }) := by
  have hlast : s.ctx.pst.getLastD ⟨true, BitVec.allOnes 32⟩ = b := by rw [List.getLastD_eq_getLast?, hb]; rfl
  unfold State.push
  dsimp only
  rw [if_neg (Nat.not_le.2 hd), if_neg (by omega), hlast, State.write_eq _ _ _ hf]
  rfl

theorem State.spillLost_of_sound {s : State} (h : s.poison = []) : s.spillLost = none := by
  simp [State.spillLost, h]

theorem State.pop_unspilled {s : State} {b : PEntry} {bs : List PEntry} (h0 : s.ctx.spilled = 0) (h : s.ctx.pst = b :: bs) :
    s.pop = some (b, s.setCtx { s.ctx with pst := bs }) := by
  unfold State.pop
  dsimp only
  rw [h]
  dsimp only
  rw [if_pos h0]

/-- What the pop of a spilled stack reads has its correctable errors met. -/
def State.spillMet (s : State) : State :=
  (List.range s.ctx.spilled).foldl (fun u j => u.meetLines u.tid (spillKey u.tid s.ctx.pspill (j + 1)) 8) s

theorem State.spillMet_of_sound {s : State} (h : s.flaws = []) : s.spillMet = s := by
  unfold State.spillMet
  induction List.range s.ctx.spilled with
  | nil => rfl
  | cons j l ih => rw [List.foldl_cons, State.meetLines, if_pos h, ih]

/-- The entry nearest the top comes back below the others. -/
theorem State.pop_spilled {s : State} {b : PEntry} {bs : List PEntry} (h0 : s.ctx.spilled ≠ 0) (hl : s.spillLost = none)
    (h : s.ctx.pst = b :: bs) :
    s.pop = some (b, s.spillMet.setCtx { s.ctx with
      pst := bs ++ [unspill (rd64 s.spillMet.mem (spillKey s.spillMet.tid s.ctx.pspill s.ctx.spilled))], spilled := s.ctx.spilled - 1
      pss := (s.spillMet.spillAnd (s.ctx.spilled - 1)).1, psmask := (s.spillMet.spillAnd (s.ctx.spilled - 1)).2 }) := by
  unfold State.pop
  dsimp only
  rw [h]
  dsimp only
  rw [if_neg h0, hl]
  rfl

end Sys2Proof.Machine
end

section
/-! The predicate stack (04 R88, R91). -/

namespace Sys2Proof.Proofs

open Sys2Proof Sys2Proof.Machine Sys2Proof.Claims

/-- Settles O9: a push by the depth and the entries in hardware, a pop by what is spilled. -/
theorem predicateStack : Obligations.PredicateStack := by
  unfold Obligations.PredicateStack
  intro s e hsid _
  refine ⟨s.push_full e, fun h0 b bs => State.pop_unspilled h0, ?pop, fun hd => State.push_room e hd, ?spill⟩
  case pop =>
    rintro hf hp h0 b bs w h rfl
    refine ⟨_, State.pop_spilled (Nat.ne_of_gt h0) (State.spillLost_of_sound hp) h, ?_⟩
    rw [State.spillMet_of_sound hf, s.ctx_setCtx _ hsid]
    exact ⟨rfl, rfl, rfl⟩
  case spill =>
    intro hd h16 hf
    obtain ⟨b, hb⟩ : ∃ b, s.ctx.pst.getLast? = some b := by
      rw [← Option.isSome_iff_exists, List.getLast?_isSome]
      rintro h
      simp [h] at h16
    refine ⟨_, b, State.push_spill e hd h16 hb hf, hb, ?_⟩
    rw [(s.put64 s.tid s.spillNext (spillWord b)).ctx_setCtx _ hsid]
    exact ⟨rfl, rfl, rfl, rfl, fun a ha => s.putN_out s.tid _ 8 _ a ha, fun hm => s.put64_self s.tid _ _ hm⟩

end Sys2Proof.Proofs
end

section
/-! What a store, an acquire, a message counter and a fault record leave of every cell and every context (10 R243, 11 R269, 12 R288, R293,
R296, 14 R346, R360). -/

namespace Sys2Proof.Machine

/-! ### L1 lines that a store or an acquire drops -/

/-- What `dropL1` and `dropLines` make of the cell of number `k`: in the tile, an L1 that holds lines is filtered. -/
def Cell.filterL1 (t : Nat) (f : List L1Line → List L1Line) (k : Nat) (x : Cell) : Cell :=
  if k / 16 = t ∧ x.l1 ≠ [] then { x with l1 := f x.l1 } else x

theorem Cell.filterL1_eq {f : List L1Line → List L1Line} (hf : f [] = []) (t k : Nat) (x : Cell) :
    x.filterL1 t f k = if k / 16 = t then { x with l1 := f x.l1 } else x := by
  unfold Cell.filterL1
  by_cases hk : k / 16 = t
  · by_cases hx : x.l1 = []
    · rw [if_neg fun h => h.2 hx, if_pos hk]
      cases x
      cases hx
      rw [hf]
    · rw [if_pos ⟨hk, hx⟩, if_pos hk]
  · rw [if_neg fun h => hk h.1, if_neg hk]

/-- A cell that is not listed is as after reset, its L1 empty. -/
theorem mget_map_filterL1 {f : List L1Line → List L1Line} (hf : f [] = []) (t : Nat) (m : SMap Cell) (c : Nat) :
    mget (m.map fun x => (x.1, x.2.filterL1 t f x.1)) c Cell.reset =
      if c / 16 = t then { mget m c Cell.reset with l1 := f (mget m c Cell.reset).l1 } else mget m c Cell.reset := by
  have hget : mget? (m.map fun x => (x.1, x.2.filterL1 t f x.1)) c = (mget? m c).map fun x => x.filterL1 t f c :=
    mget?_map (fun k x => x.filterL1 t f k) m c
  rw [← Cell.filterL1_eq hf, mget, hget, mget]
  cases mget? m c with
  | none => exact (if_neg fun h => h.2 rfl).symm
  | some x => rfl

theorem State.cell_dropL1 (s : State) (t c : Nat) :
    (s.dropL1 t).cell c = if c / 16 = t then { s.cell c with l1 := [] } else s.cell c := by
  have hmap : (s.dropL1 t).cells = s.cells.map fun x => (x.1, x.2.filterL1 t (fun _ => []) x.1) := by
    refine List.map_congr_left fun x _ => ?_
    simp only [Cell.filterL1]
    split <;> rfl
  rw [State.cell, hmap, mget_map_filterL1 rfl]
  rfl

theorem State.cell_dropLines (s : State) (t : Nat) (ls : List Nat) (c : Nat) : (s.dropLines t ls).cell c =
    if c / 16 = t then { s.cell c with l1 := (s.cell c).l1.filter fun l => !ls.contains l.line } else s.cell c := by
  have hmap : (s.dropLines t ls).cells =
      s.cells.map fun x => (x.1, x.2.filterL1 t (fun l1 => l1.filter fun l => !ls.contains l.line) x.1) := by
    refine List.map_congr_left fun x _ => ?_
    simp only [Cell.filterL1]
    split <;> rfl
  rw [State.cell, hmap, mget_map_filterL1 rfl]
  rfl

theorem State.cell_setCtxAt (s : State) (c n : Nat) (y : Ctx) (k : Nat) :
    (s.setCtxAt c n y).cell k = if k = c then (s.cell c).setSlot n y else s.cell k := by
  by_cases h : k = c
  · subst h; rw [if_pos rfl]; exact mget_mset_self _ _ _ _
  · rw [if_neg h]; exact mget_mset_ne _ _ _ h

/-! ### What the machine's own steps leave of the cells -/

/-- Of every cell all but its L1 and its slots is as before, and of every context all but what the end of a CWAIT changes. -/
structure CellsKept (s t : State) : Prop where
  sel : t.sel = s.sel
  cell : ∀ c, { t.cell c with slots := (s.cell c).slots, l1 := (s.cell c).l1 } = s.cell c
  slot : ∀ c n, { t.ctxAt c n with
    pc := (s.ctxAt c n).pc, iallow := (s.ctxAt c n).iallow, mallow := (s.ctxAt c n).mallow, wait := (s.ctxAt c n).wait
    paid := (s.ctxAt c n).paid, cap := (s.ctxAt c n).cap, fbuf := (s.ctxAt c n).fbuf } = s.ctxAt c n
  paid : ∀ c n, (s.ctxAt c n).paid = none → (t.ctxAt c n).paid = none

theorem CellsKept.of_cells {s t : State} (h : t.cells = s.cells) (hs : t.sel = s.sel) : CellsKept s t := by
  have hc (c : Nat) : t.cell c = s.cell c := by rw [State.cell, h, State.cell]
  have hctx (c n : Nat) : t.ctxAt c n = s.ctxAt c n := by rw [State.ctxAt, hc, State.ctxAt]
  refine ⟨hs, fun c => ?_, fun c n => ?_, fun c n => ?_⟩
  · rw [hc]
  · rw [hctx]
  · rw [hctx]; exact id

theorem CellsKept.refl (s : State) : CellsKept s s := .of_cells rfl rfl

theorem CellsKept.trans {s t u : State} (h : CellsKept s t) (k : CellsKept t u) : CellsKept s u := by
  refine ⟨k.sel.trans h.sel, fun c => ?_, fun c n => ?_, fun c n hp => k.paid c n (h.paid c n hp)⟩
  · have h := h.cell c
    rw [← k.cell c] at h
    exact h
  · have h := h.slot c n
    rw [← k.slot c n] at h
    exact h

/-- A change of the L1s alone. -/
theorem CellsKept.of_l1 {s t : State} (hs : t.sel = s.sel) (h : ∀ c, ∃ l, t.cell c = { s.cell c with l1 := l }) : CellsKept s t := by
  have hctx (c n : Nat) : t.ctxAt c n = s.ctxAt c n := by
    obtain ⟨l, hl⟩ := h c
    rw [State.ctxAt, hl, State.ctxAt]; rfl
  refine ⟨hs, fun c => ?_, fun c n => ?_, fun c n => ?_⟩
  · obtain ⟨l, hl⟩ := h c
    rw [hl]
  · rw [hctx]
  · rw [hctx]; exact id

theorem CellsKept.foldl {α : Type} {f : State → α → State} (hf : ∀ s x, CellsKept s (f s x)) (l : List α) (s : State) :
    CellsKept s (l.foldl f s) := by
  induction l generalizing s with
  | nil => exact .refl s
  | cons x l ih => exact (hf s x).trans (ih _)

theorem State.perform_kept (s : State) (t : Nat) (bs : List WByte) : CellsKept s (s.perform t bs) := .of_l1 rfl (s.cell_perform t bs)
theorem State.putN_kept (s : State) (t pa n x : Nat) : CellsKept s (s.putN t pa n x) := s.perform_kept t _
theorem State.put64_kept (s : State) (t pa : Nat) (x : Word) : CellsKept s (s.put64 t pa x) := s.perform_kept t _
theorem State.dropL1_kept (s : State) (t : Nat) : CellsKept s (s.dropL1 t) := by
  refine .of_l1 rfl fun c => ?_
  rw [s.cell_dropL1]
  split
  · exact ⟨_, rfl⟩
  · exact ⟨(s.cell c).l1, rfl⟩

/-- A context that differs only in what the end of a CWAIT changes. -/
theorem State.setCtxAt_kept (s : State) {c n : Nat} {y : Ctx} (h : { y with
    pc := (s.ctxAt c n).pc, iallow := (s.ctxAt c n).iallow, mallow := (s.ctxAt c n).mallow, wait := (s.ctxAt c n).wait
    paid := (s.ctxAt c n).paid, cap := (s.ctxAt c n).cap, fbuf := (s.ctxAt c n).fbuf } = s.ctxAt c n)
    (hpaid : (s.ctxAt c n).paid = none → y.paid = none) : CellsKept s (s.setCtxAt c n y) := by
  refine ⟨rfl, fun k => ?_, fun k j => ?_, fun k j => ?_⟩
  · rw [s.cell_setCtxAt]
    split
    · subst_vars; rfl
    · rfl
  · rw [State.ctxAt, s.cell_setCtxAt]
    split
    · subst_vars
      rcases (s.cell k).slot_setSlot_eq n j y with e | ⟨rfl, e⟩
      · rw [e]; rfl
      · rw [e]; exact h
    · rfl
  · rw [State.ctxAt, State.ctxAt, s.cell_setCtxAt]
    split
    · subst_vars
      rcases (s.cell k).slot_setSlot_eq n j y with e | ⟨rfl, e⟩
      · rw [e]; exact id
      · rw [e]; exact hpaid
    · exact id

theorem State.acquireAt_kept (s : State) (c n scope : Nat) : CellsKept s (s.acquireAt c n scope) := by
  have h : CellsKept s (s.setCtxAt c n { s.ctxAt c n with fbuf := none }) := s.setCtxAt_kept rfl id
  unfold State.acquireAt
  dsimp only
  split
  · exact h.trans (State.dropL1_kept _ _)
  · exact h

/-! ### Counters and firings (12 R288, R293, R296) -/

theorem State.setTile_kept (s : State) (t : Nat) (x : Tile) : CellsKept s (s.setTile t x) := .of_cells rfl rfl

theorem State.logViolation_kept (s : State) (t : Nat) (a : Word) (c d k r : Nat) : CellsKept s (s.logViolation t a c d k r) :=
  s.setTile_kept t _

theorem State.note_kept (s : State) (t pa n : Nat) : CellsKept s (s.note t pa n) := by
  unfold State.note; split <;> exact .of_cells rfl rfl
theorem State.noteRecord_kept (s : State) (t : Nat) (a : Word) : CellsKept s (s.noteRecord t a) := by
  have hfold (l : List Nat) : CellsKept s (l.foldl (fun s k => s.note t k 8) s) := .foldl (fun s k => s.note_kept t k 8) l s
  unfold State.noteRecord
  split
  · exact .refl s
  · dsimp only
    split
    · exact (hfold _).trans (State.note_kept _ _ _ _)
    · exact hfold _

theorem State.putFired_kept (s : State) (t e : Nat) (r : RqEntry) : CellsKept s (s.putFired t e r) := by
  unfold State.putFired; dsimp only; split <;> exact s.setTile_kept _ _

theorem State.takeRecord_kept {s u : State} {t : Nat} {a : Word} {sc : Nat} {r : RqEntry} (h : s.takeRecord t a sc = some (r, u)) :
    CellsKept s u := by
  unfold State.takeRecord at h
  obtain ⟨pa, -, e⟩ := Option.map_eq_some_iff.1 h
  cases e
  exact s.putN_kept _ _ _ _

theorem State.fire_kept (s : State) (t e : Nat) : CellsKept s (s.fire t e) := by
  unfold State.fire
  dsimp only
  generalize hu : State.noteRecord _ t _ = u
  have h : CellsKept s u := hu ▸ (s.setTile_kept t _).trans (State.noteRecord_kept _ _ _)
  refine h.trans ?_
  split
  · split
    · exact (u.putN_kept _ _ _ _).trans (State.putFired_kept _ _ _ _)
    · exact u.putFired_kept _ _ _
  · split
    · next hr => exact (State.takeRecord_kept hr).trans (State.putFired_kept _ _ _ _)
    · exact (u.logViolation_kept _ _ _ _ _ _).trans (State.setTile_kept _ _ _)

theorem firePass_kept (t c : Nat) (l : List Nat) (s : State) : CellsKept s (firePass t c l s).2 := by
  induction l generalizing s with
  | nil => exact .refl s
  | cons e es ih =>
    unfold firePass
    dsimp only
    split
    · exact ((s.setTile_kept t _).trans (State.fire_kept _ t e)).trans (ih _)
    · exact ih s

theorem checkFireFuel_kept (t c n : Nat) (s : State) : CellsKept s (checkFireFuel t c n s) := by
  induction n generalizing s with
  | zero => exact .refl s
  | succ n ih =>
    have h := firePass_kept t c ((s.tile t).wtt.map (·.1)) s
    unfold checkFireFuel
    split
    · next e => rw [e] at h; exact h
    · next e => rw [e] at h; exact h.trans (ih _)

theorem Ctx.endCwait_kept (y : Ctx) (i m : BitVec 32) (n : Nat) : { y.endCwait i m n with
    pc := y.pc, iallow := y.iallow, mallow := y.mallow, wait := y.wait, paid := y.paid, cap := y.cap, fbuf := y.fbuf } = y := rfl

theorem State.meetWait_kept (s : State) (t k c n : Nat) : CellsKept s (s.meetWait t k c n) := by
  unfold State.meetWait
  dsimp only
  split
  · split
    · refine .trans ?_ (State.setTile_kept _ _ _)
      exact .trans (s.setCtxAt_kept (Ctx.endCwait_kept _ _ _ _) fun _ => rfl) (State.acquireAt_kept _ c n _)
    · exact .refl s
  · exact .refl s

theorem State.meetWaits_kept (s : State) (t k : Nat) : CellsKept s (s.meetWaits t k) :=
  .foldl (fun s (p : Nat × Nat) => s.meetWait_kept t k p.1 p.2) _ s
theorem State.checkFire_kept (s : State) (t c : Nat) : CellsKept s (s.checkFire t c) := checkFireFuel_kept t c _ s

theorem State.bump_kept (s : State) (t c : Nat) (by_ : BitVec 32) (scope : Nat) (iref mref : BitVec 32) :
    CellsKept s (s.bump t c by_ scope iref mref) := by
  unfold State.bump
  dsimp only
  refine .trans ?_ (State.checkFire_kept _ t c)
  exact .trans (s.setTile_kept t _) (State.meetWaits_kept _ t c)

/-! ### Fault records and errors that are met (14 R346, R360) -/

theorem State.setMtu_kept (s : State) (n : Nat) (m : Mtu) : CellsKept s (s.setMtu n m) := .of_cells rfl rfl

theorem State.ringPut_kept (s : State) (n : Nat) (r : Word × Word × BitVec 32 × Word) : CellsKept s (s.ringPut n r) := by
  unfold State.ringPut
  refine CellsKept.trans ?_ (State.bump_kept _ _ _ _ _ _ _)
  split
  · refine .trans ?_ (State.put64_kept _ _ _ _)
    refine .trans ?_ (State.putN_kept _ _ _ _ _)
    refine .trans ?_ (State.put64_kept _ _ _ _)
    refine .trans ?_ (State.put64_kept _ _ _ _)
    exact .trans (s.setMtu_kept n _) (State.note_kept _ _ _ _)
  · exact s.setMtu_kept n _

theorem State.sendFault_kept (s : State) (n : Nat) (va who : Word) : CellsKept s (s.sendFault n va who).2 := by
  unfold State.sendFault
  dsimp only
  split
  all_goals dsimp only
  · exact .trans (s.setMtu_kept n _) (State.ringPut_kept _ n _)
  · exact .trans (s.setMtu_kept n _) (State.setMtu_kept _ n _)

theorem State.reportError_kept (s : State) (t array addr : Nat) (l : Bool) : CellsKept s (s.reportError t array addr l) := by
  have hlog : CellsKept s (s.logError t array addr l) := s.setTile_kept t _
  unfold State.reportError
  dsimp only
  split
  · exact hlog.trans (State.sendFault_kept _ _ _ _)
  · exact hlog

theorem State.meetFlaw_kept (s : State) (t : Nat) (a : Array) : CellsKept s (s.meetFlaw t a) := by
  unfold State.meetFlaw
  split
  · exact .refl s
  · refine .trans (.of_cells ?_ ?_) (State.reportError_kept _ _ _ _ _) <;> rfl

theorem State.meetLines_kept (s : State) (t pa n : Nat) : CellsKept s (s.meetLines t pa n) := by
  unfold State.meetLines
  split
  · exact .refl s
  · exact .foldl (fun s l => s.meetFlaw_kept t (.line l)) _ s

theorem State.write_kept (s : State) (t : Nat) (bs : List WByte) : CellsKept s (s.write t bs) := by
  unfold State.write
  split
  · exact s.perform_kept t bs
  · exact (CellsKept.foldl (fun s b => s.meetFlaw_kept t (.line (b.pa / 64))) bs s).trans (State.perform_kept _ t bs)

/-! ### What the acting context reads after such a step -/

section

variable {s t : State} (h : CellsKept s t)

include h

theorem CellsKept.cid_eq : t.cid = s.cid := by rw [State.cid, h.sel, State.cid]
theorem CellsKept.sid_eq : t.sid = s.sid := by rw [State.sid, h.sel, State.sid]
theorem CellsKept.tid_eq : t.tid = s.tid := by rw [State.tid, h.cid_eq, State.tid]

theorem CellsKept.rs_eq (r : Nat) : t.rs r = s.rs r := by
  have e : t.ctx.regs = s.ctx.regs := by
    rw [State.ctx, h.cid_eq, h.sid_eq]
    exact (congrArg Ctx.regs (h.slot s.cid s.sid) :)
  rw [State.rs, e, State.rs]

theorem CellsKept.strm_eq : t.myCell.strm = s.myCell.strm := by
  rw [State.myCell, h.cid_eq]
  exact (congrArg Cell.strm (h.cell s.cid) :)

end

/-! ### A trap keeps the scalar registers (14 R337, R342) -/

/-- A state at the same place whose acting context has the same registers. -/
theorem sameRegs_setCtx {s t : State} {c : Ctx} (h : s.sid ≤ 10) (hsel : t.sel = s.sel) (hc : c.regs = s.ctx.regs) :
    SameRegs s (t.setCtx c) [] := by
  intro r _
  rw [t.rs_setCtx c r (by rw [State.sid, hsel]; exact h), hc, State.rs]

theorem SameRegs.trans {s t u : State} {ds : List Nat} (h : SameRegs s t ds) (k : SameRegs t u ds) : SameRegs s u ds :=
  fun r hr => (k r hr).trans (h r hr)

theorem State.doubleTrap_regs (s : State) (e : Err) (h : s.sid ≤ 10) : SameRegs s (s.doubleTrap e) [] := by
  unfold State.doubleTrap
  dsimp only
  intro r hr
  refine ((State.sendFault_kept _ _ _ _).rs_eq r).trans (sameRegs_setCtx h rfl ?_ r hr)
  rfl

theorem State.takeTrap_regs (s : State) (e : Err) (n : Nat) (h : s.sid ≤ 10) (hl : e.log = none) : SameRegs s (s.takeTrap e n) [] := by
  unfold State.takeTrap
  rw [hl]
  dsimp only
  split
  · exact s.doubleTrap_regs e h
  · exact sameRegs_setCtx h rfl rfl

end Sys2Proof.Machine
end

section
/-! The PRED functions and the compares (04 R92, R101, R107): pops and pushes of an instruction that has issued, and the scalar registers
that they leave. -/

namespace Sys2Proof.Machine

open Sys2Proof.Claims

/-! ### A pop leaves the spill area as free as it was (R91) -/

theorem State.spillMet_kept (s : State) : CellsKept s s.spillMet :=
  .foldl (fun u j => u.meetLines_kept u.tid (spillKey u.tid s.ctx.pspill (j + 1)) 8) _ s

/-- What a pop answers: the top entry, and a state that differs in the stack of the acting context and in errors met. -/
theorem State.pop_cases {s t : State} {e : PEntry} (h : s.pop = some (e, t)) : ∃ bs, s.ctx.pst = e :: bs ∧
    (s.ctx.spilled = 0 ∧ t = s.setCtx { s.ctx with pst := bs } ∨
      s.ctx.spilled ≠ 0 ∧ ∃ b r m, t = s.spillMet.setCtx
        { s.ctx with pst := bs ++ [b], spilled := s.ctx.spilled - 1, pss := r, psmask := m }) := by
  cases hp : s.ctx.pst with
  | nil => rw [(State.pop_of_empty hp).1] at h; cases h
  | cons b bs =>
    by_cases h0 : s.ctx.spilled = 0
    · rw [State.pop_unspilled h0 hp] at h
      cases h
      exact ⟨bs, rfl, .inl ⟨h0, rfl⟩⟩
    · cases hl : s.spillLost with
      | none =>
        rw [State.pop_spilled h0 hl hp] at h
        cases h
        exact ⟨bs, rfl, .inr ⟨h0, _, _, _, rfl⟩⟩
      | some j => simp [State.pop, hp, h0, hl] at h

/-- A pop leaves the scalar registers and the step's place. -/
theorem State.pop_regs {s t : State} {e : PEntry} (h : s.pop = some (e, t)) (hsid : s.sid ≤ 10) : t.sel = s.sel ∧ SameRegs s t [] := by
  obtain ⟨bs, -, ⟨-, rfl⟩ | ⟨-, b, r, m, rfl⟩⟩ := State.pop_cases h
  · exact ⟨rfl, sameRegs_setCtx hsid rfl rfl⟩
  · have hk := s.spillMet_kept
    exact ⟨hk.sel, sameRegs_setCtx hsid hk.sel rfl⟩

/-- The spill area is free for less of the same stack in a state with the same accesses. -/
theorem State.spillBusy_of_le {s t : State} (hs : s.spillBusy = false) (hsel : t.sel = s.sel) (hstrm : t.myCell.strm = s.myCell.strm)
    (hpend : t.ctx.pend = s.ctx.pend) (hpspill : t.ctx.pspill = s.ctx.pspill) (hsp : t.ctx.spilled ≤ s.ctx.spilled)
    (hd : t.ctx.pdepth ≤ s.ctx.pdepth) : t.spillBusy = false := by
  have htid : t.tid = s.tid := by rw [State.tid, State.cid, hsel, State.tid, State.cid]
  have htouch (pa n : Nat) : t.pendTouches pa n = s.pendTouches pa n := by
    rw [State.pendTouches, State.pendTouches, Ctx.pendTouches, Ctx.pendTouches, Cell.pushTouches, Cell.pushTouches, hpend, hstrm, hsel]
  by_cases h16 : 16 ≤ s.ctx.pdepth
  · simp only [State.spillBusy, h16, decide_true, Bool.true_and, List.any_eq_false, List.mem_range] at hs
    rw [State.spillBusy, Bool.and_eq_false_iff]
    refine .inr (List.any_eq_false.2 fun j hj => ?_)
    rw [List.mem_range] at hj
    rw [htid, hpspill, htouch]
    exact hs j (by omega)
  · have hlt : ¬ 16 ≤ t.ctx.pdepth := by omega
    simp [State.spillBusy, hlt]

theorem State.pop_spillBusy {s t : State} {e : PEntry} (h : s.pop = some (e, t)) (hsid : s.sid ≤ 10) (hs : s.spillBusy = false) :
    t.spillBusy = false := by
  obtain ⟨bs, hpst, ⟨-, rfl⟩ | ⟨-, b, r, m, rfl⟩⟩ := State.pop_cases h
  · refine State.spillBusy_of_le hs rfl ?_ ?_ ?_ ?_ ?_
    · rw [State.myCell_setCtx]; rfl
    all_goals rw [s.ctx_setCtx _ hsid]
    simp [Ctx.pdepth, hpst]
  · have hk := s.spillMet_kept
    have hc (c : Ctx) := s.spillMet.ctx_setCtx c (hk.sid_eq.trans_le hsid)
    refine State.spillBusy_of_le hs hk.sel ?_ ?_ ?_ ?_ ?_
    · rw [State.myCell_setCtx]; exact hk.strm_eq
    all_goals rw [hc]
    · exact Nat.sub_le _ _
    · simp only [Ctx.pdepth, hpst, List.length_append, List.length_cons, List.length_nil]
      omega

/-! ### What the pops and pushes of an instruction leave of the scalar registers -/

/-- The meaning leaves the scalar registers and the step's place, or traps, or waits. -/
def Res.keepsRegs (s : State) : Res → Prop
  | .ok t | .goto t _ => t.sel = s.sel ∧ SameRegs s t []
  | .trap e => e.log = none
  | .hold => True
  | _ => False

theorem Res.keepsRegs_setCtx {s : State} {c : Ctx} (hsid : s.sid ≤ 10) (hc : c.regs = s.ctx.regs) : (Res.ok (s.setCtx c)).keepsRegs s :=
  ⟨rfl, sameRegs_setCtx hsid rfl hc⟩

theorem State.push_regs {s t : State} {e : PEntry} (h : s.push e = some t) (hsid : s.sid ≤ 10) : t.sel = s.sel ∧ SameRegs s t [] := by
  unfold State.push at h
  dsimp only at h
  split_ifs at h
  · cases h
    exact ⟨rfl, sameRegs_setCtx hsid rfl rfl⟩
  · cases h
    have hk (bs : List WByte) := s.write_kept s.tid bs
    exact ⟨(hk _).sel, sameRegs_setCtx hsid (hk _).sel rfl⟩

theorem pushRes_keepsRegs (s : State) (e : PEntry) (hsid : s.sid ≤ 10) : (pushRes s e).keepsRegs s := by
  unfold pushRes
  split
  · trivial
  · split
    · next h => exact State.push_regs h hsid
    · rfl

theorem State.popErr_log (s : State) : s.popErr.log = none := by
  unfold State.popErr; split <;> rfl

/-- What follows from a state with the same registers and place leaves them too. -/
theorem Res.keepsRegs_trans {s t : State} {r : Res} (hsel : t.sel = s.sel) (hregs : SameRegs s t []) (h : r.keepsRegs t) : r.keepsRegs s := by
  cases r with
  | ok u | goto u _ => exact ⟨h.1.trans hsel, hregs.trans h.2⟩
  | trap e => exact h
  | hold => trivial
  | left | trapKeep | trapOnly | poll | pollAs | closing | streamWait | parked | miss | missIn | missFirst | stall | stallFor =>
    exact h.elim

theorem combine_keepsRegs (f : PEntry → PEntry → PEntry) (s : State) (hsid : s.sid ≤ 10) : (combine f s).keepsRegs s := by
  unfold combine
  split
  · trivial
  · split
    · exact s.popErr_log
    · next x t hx =>
      obtain ⟨hsel, hregs⟩ := State.pop_regs hx hsid
      have htid : t.sid ≤ 10 := by rw [State.sid, hsel]; exact hsid
      refine Res.keepsRegs_trans hsel hregs ?_
      split
      · exact t.popErr_log
      · next y u hy =>
        obtain ⟨husel, huregs⟩ := State.pop_regs hy htid
        exact Res.keepsRegs_trans husel huregs (pushRes_keepsRegs u _ (by rw [State.sid, husel]; exact htid))

theorem State.unqueue_sel (s : State) : s.unqueue.sel = s.sel := by
  unfold State.unqueue State.leaveQueue
  dsimp only
  split
  · split <;> rfl
  · rfl

theorem Ctx.unpay_regs (c : Ctx) : c.unpay.regs = c.regs := by
  unfold Ctx.unpay
  split
  · split <;> rfl
  · rfl

theorem finish_keepsRegs {s u : State} {r : Res} (hsid : s.sid ≤ 10) (hsel : u.sel = s.sel) (hu : SameRegs s u []) (hr : r.keepsRegs u)
    (k n m : Nat) : SameRegs s (finish k s u n m r) [] := by
  have husid : u.sid ≤ 10 := by rw [State.sid, hsel]; exact hsid
  cases r with
  | ok t =>
    refine hu.trans fun r hr' => ?_
    have ht : t.sid ≤ 10 := by rw [State.sid, hr.1]; exact husid
    show (t.settle.addPc k).rs r = u.rs r
    rw [t.settle_addPc k ht, t.rs_setCtx _ r ht]
    exact hr.2 r hr'
  | goto t a =>
    refine hu.trans fun r hr' => ?_
    have ht : t.sid ≤ 10 := by rw [State.sid, hr.1]; exact husid
    show (t.jumped a).rs r = u.rs r
    rw [t.jumped_eq a ht, t.rs_setCtx _ r ht]
    exact hr.2 r hr'
  | trap e =>
    have hq : s.unqueue.sid ≤ 10 := by rw [State.sid, s.unqueue_sel]; exact hsid
    exact (sameRegs_setCtx hsid s.unqueue_sel s.ctx.unpay_regs).trans (State.takeTrap_regs _ e k hq hr)
  | hold => exact hu.trans (sameRegs_setCtx husid rfl rfl)
  | left | trapKeep | trapOnly | poll | pollAs | closing | streamWait | parked | miss | missIn | missFirst | stall | stallFor =>
    exact hr.elim

theorem State.charged_regs (s : State) (n m : Nat) (hsid : s.sid ≤ 10) : (s.charged n m).sel = s.sel ∧ SameRegs s (s.charged n m) [] := by
  refine ⟨?_, fun r _ => s.rs_charged n m r hsid⟩
  rcases s.charged_eq n m with e | ⟨c, -, e⟩ <;> rw [e]; rfl

theorem State.pdepth_charged (s : State) (n m : Nat) (hsid : s.sid ≤ 10) : (s.charged n m).ctx.pdepth = s.ctx.pdepth := by
  rw [Ctx.pdepth, s.pst_charged n m hsid, s.spilled_charged n m hsid, Ctx.pdepth]

/-- At depth 64 the charged state has no place for a push (04 R92). -/
theorem pushRes_full_charged {s : State} (hsid : s.sid ≤ 10) (hbusy : s.spillBusy = false) (hd : s.ctx.pdepth = 64) (e : PEntry) :
    pushRes (s.charged 1 0) e = .trap (mkErr 9 s.ctx.pc 0#64) := by
  have hfull : (s.charged 1 0).push e = none := State.push_full _ e (by rw [s.pdepth_charged 1 0 hsid, hd])
  rw [pushRes, (s.spillBusy_charged 1 0 hsid).trans hbusy, hfull, s.pc_charged 1 0 hsid]
  rfl

/-! ### An instruction that has issued, by what its meaning answers -/

section

variable {i : Instr} {sh : Shape} {s : State} {n m : Nat} (h : s.issues i sh.gm n m = true) (hk : sh.kernel = false ∨ s.ctx.user = false)
  (ho : sh.own s = none) (hr : sh.ready s = true) (hc : sh.cost s = (n, m)) (hg : readRegions i = [])

include h hk ho hr hc hg

theorem issue_keepsRegs {t : State} (hcap : s.capture i = none) (hb : (sh.body (s.charged n m)).keepsRegs (s.charged n m))
    (he : issue i sh s = .next t) (hearly : sh.early s = none := by rfl) (hq : sh.queues = false := by rfl) : SameRegs s t [] := by
  have hsid := State.issues_sid h
  obtain ⟨hsel, hregs⟩ := s.charged_regs n m hsid
  rw [issue_eq h hk ho hr hc hg hearly hq, keepCap_none hcap] at he
  cases he
  exact finish_keepsRegs hsid hsel hregs hb _ _ _

/-- A push that has a place completes the instruction. -/
theorem issue_pushes {b : Bool} {P : Prop} (hP : b = true ↔ P) (hbusy : s.spillBusy = false) (hd : s.ctx.pdepth < 64)
    (hb : sh.body (s.charged n m) = pushRes (s.charged n m) (condEntry b)) (hearly : sh.early s = none := by rfl)
    (hq : sh.queues = false := by rfl) :
    ∃ t, (s.charged n m).push (condEntry (@decide P (Classical.propDecidable P))) = some t ∧ issue i sh s = .next (t.done i) := by
  have hsid := State.issues_sid h
  have hdec : @decide P (Classical.propDecidable P) = b := by
    rw [Bool.eq_iff_iff, hP, @decide_eq_true_iff P (Classical.propDecidable P)]
  obtain ⟨t, ht⟩ := State.push_of_lt (condEntry b) ((s.pdepth_charged n m hsid).trans_lt hd)
  refine ⟨t, hdec ▸ ht, issue_ok h hk ho hr hc hg ?_ hearly hq⟩
  rw [hb, pushRes_ok ((s.spillBusy_charged n m hsid).trans hbusy) ht]

end

/-! ### PRED functions (R107) -/

/-- What `predOp` asks of the charged state. -/
theorem pred_entries (f : State → Res) {s : State} {n : Nat} (hsid : s.sid ≤ 10) (hd : n ≤ s.ctx.pdepth) :
    (if (s.charged 1 0).ctx.pdepth < n then Res.trap (mkErr 0x0D (s.charged 1 0).ctx.pc 0#64) else f (s.charged 1 0)) =
      f (s.charged 1 0) :=
  if_neg (by rw [s.pdepth_charged 1 0 hsid, Nat.not_lt]; exact hd)
theorem pred_short (f : State → Res) {s : State} {n : Nat} (hsid : s.sid ≤ 10) (hd : s.ctx.pdepth < n) :
    (if (s.charged 1 0).ctx.pdepth < n then Res.trap (mkErr 0x0D (s.charged 1 0).ctx.pc 0#64) else f (s.charged 1 0)) =
      .trap (mkErr 0x0D s.ctx.pc 0#64) := by
  rw [if_pos (by rw [s.pdepth_charged 1 0 hsid]; exact hd), s.pc_charged 1 0 hsid]

section

variable {i : Instr} {n : Nat} {f : State → Res} {s : State} (h : s.issues i .never 1 0 = true) (hg : readRegions i = [])

include h hg

/-- With the entries that it needs, the meaning of a PRED function runs on the charged state. -/
theorem predOp_ok {t : State} (hd : n ≤ s.ctx.pdepth) (hf : f (s.charged 1 0) = .ok t) : predOp i n f s = .next (t.done i) :=
  issue_ok h (.inl rfl) rfl rfl rfl hg ((pred_entries f (State.issues_sid h) hd).trans hf)

theorem predOp_trap {e : Err} (hd : n ≤ s.ctx.pdepth) (hpaid : s.ctx.paid = none) (hf : f (s.charged 1 0) = .trap e) :
    predOp i n f s = .next ((s.setCtx { s.ctx with wait := .none }).takeTrap e i.ilen) :=
  issue_trap h (.inl rfl) rfl rfl rfl hg hpaid ((pred_entries f (State.issues_sid h) hd).trans hf)

theorem predOp_underflow (hd : s.ctx.pdepth < n) (hpaid : s.ctx.paid = none) :
    predOp i n f s = .next ((s.setCtx { s.ctx with wait := .none }).takeTrap (mkErr 0x0D s.ctx.pc 0#64) i.ilen) :=
  issue_trap h (.inl rfl) rfl rfl rfl hg hpaid (pred_short f (State.issues_sid h) hd)

theorem predOp_regs {t : State} (hcap : s.capture i = none) (hf : (f (s.charged 1 0)).keepsRegs (s.charged 1 0))
    (he : predOp i n f s = .next t) : SameRegs s t [] := by
  have hsid := State.issues_sid h
  refine issue_keepsRegs h (.inl rfl) rfl rfl rfl hg hcap ?_ he
  rcases Nat.lt_or_ge s.ctx.pdepth n with hd | hd
  · exact (congrArg (Res.keepsRegs _) (pred_short f hsid hd)).mpr rfl
  · exact (congrArg (Res.keepsRegs _) (pred_entries f hsid hd)).mpr hf

/-- A PRED function whose push has a place. -/
theorem predOp_pushes {b : Bool} {P : Prop} (hP : b = true ↔ P) (hn : n ≤ s.ctx.pdepth) (hbusy : s.spillBusy = false)
    (hd : s.ctx.pdepth < 64) (hf : f (s.charged 1 0) = pushRes (s.charged 1 0) (condEntry b)) :
    ∃ t, (s.charged 1 0).push (condEntry (@decide P (Classical.propDecidable P))) = some t ∧ predOp i n f s = .next (t.done i) := by
  exact issue_pushes (sh := { gm := .never, body := fun s => if s.ctx.pdepth < n then .trap (mkErr 0x0D s.ctx.pc 0#64) else f s })
    h (.inl rfl) rfl rfl rfl hg hP hbusy hd ((pred_entries f (State.issues_sid h) hn).trans hf)

end

theorem topEntry_cons {s : State} {e : PEntry} {es : List PEntry} (h : s.ctx.pst = e :: es) : topEntry s = e := by
  rw [topEntry, h]; rfl

/-- Two pops and the push of their combination. -/
theorem combine_ok {s t u v : State} {x y : PEntry} (f : PEntry → PEntry → PEntry) (hsid : s.sid ≤ 10) (hbusy : s.spillBusy = false)
    (hx : s.pop = some (x, t)) (hy : t.pop = some (y, u)) (hv : u.push (f x y) = some v) : combine f s = .ok v := by
  have ht : t.sid ≤ 10 := by rw [State.sid, (State.pop_regs hx hsid).1]; exact hsid
  have hfree : u.spillBusy = false := State.pop_spillBusy hy ht (State.pop_spillBusy hx hsid hbusy)
  unfold combine
  rw [if_neg (by rw [hbusy]; exact Bool.false_ne_true), hx]
  dsimp only
  rw [hy]
  exact pushRes_ok hfree hv

/-- Where there is no pop, neither is there a combination. -/
theorem combine_lost {s : State} (f : PEntry → PEntry → PEntry) (hbusy : s.spillBusy = false) (h : s.pop = none) :
    combine f s = .trap s.popErr := by
  unfold combine
  rw [if_neg (by rw [hbusy]; exact Bool.false_ne_true), h]

/-- The pop of the charged state meets the line in error that the acting one has. -/
theorem State.pop_lost_charged {s : State} {b : PEntry} {bs : List PEntry} (hsid : s.sid ≤ 10) (hpst : s.ctx.pst = b :: bs)
    (hspilled : 0 < s.ctx.spilled) (hpoison : spillKey s.tid s.ctx.pspill s.ctx.spilled / 64 ∈ s.poison) :
    (s.charged 1 0).pop = none ∧
      (s.charged 1 0).popErr = mkErr 0x15 (BitVec.ofNat 64 (spillKey s.tid s.ctx.pspill s.ctx.spilled)) 0#64 := by
  have hsp := s.spilled_charged 1 0 hsid
  have hkey : spillKey (s.charged 1 0).tid (s.charged 1 0).ctx.pspill (s.charged 1 0).ctx.spilled =
      spillKey s.tid s.ctx.pspill s.ctx.spilled := by
    rw [s.charged_tid, s.pspill_charged 1 0 hsid, hsp]
  have hpop := State.pop_of_lost (s := s.charged 1 0) ((s.pst_charged 1 0 hsid).trans hpst) (hsp ▸ hspilled)
    (by rw [hkey, s.charged_poison]; exact hpoison)
  rwa [hkey] at hpop

/-! ### Compares (R101) -/

theorem cmpCond_iff (c : BitVec 3) (x y : Word) : cmpCond c x y = true ↔ condHolds c x y := by
  have hslt (x y : Word) : x.slt y = false ↔ y.toInt ≤ x.toInt := by
    rw [← Bool.not_eq_true, BitVec.slt_iff_toInt_lt, Int.not_lt]
  have hult (x y : Word) : x.ult y = true ↔ x.toNat < y.toNat := by rw [BitVec.ult_iff_lt, BitVec.lt_def]
  have hnult (x y : Word) : x.ult y = false ↔ y.toNat ≤ x.toNat := by rw [← Bool.not_eq_true, hult, Nat.not_lt]
  have hc : c.toNat < 8 := c.isLt
  generalize hk : c.toNat = k at hc
  have hofNat : c = BitVec.ofNat 3 k := by rw [← hk, BitVec.ofNat_toNat, BitVec.setWidth_eq]
  subst hofNat
  interval_cases k <;> simp [cmpCond, condHolds, hslt, hult, hnult, BitVec.slt_iff_toInt_lt]

/-- A guard deeper than the stack is an underflow before anything else (04 R89, R92). -/
theorem issue_guard_underflow {i : Instr} {sh : Shape} {s : State} {p : Pfx} (hrun : s.canRun = true) (hfree : interlocked i s.ctx = false)
    (hwf : i.wf = true) (hk : sh.kernel = false) (ho : sh.own s = none) (hgm : sh.gm = .push) (hp : i.pfx = some p) (hx : ignoresX i = false)
    (hguard : 1 ≤ gDepth p) (hd : s.ctx.pdepth ≤ gDepth p) :
    issue i sh s = .next (s.takeTrap (mkErr 0x0D s.ctx.pc 0#64) i.ilen) := by
  have hpfx : guardPfx i = p := by rw [guardPfx, hp, hx]; rfl
  have hnone : issueGuard sh.gm (guardPfx i) s.ctx = none := by
    rw [hgm, hpfx]
    simp only [issueGuard, hd, decide_true, Bool.and_true]
    split
    · rfl
    · rw [Ctx.guardAt, if_pos hd, if_neg (by omega)]
  simp [issue, hrun, hfree, hwf, hk, hnone, ho]

/-- The immediate of `m` prefix words and a field of four bits is a signed value of 10m + 4 bits (03 R50). -/
theorem Pfx.imm_range (p : Pfx) (i : BitVec 4) : -(2 : Int) ^ (10 * p.m + 3) ≤ p.imm i ∧ p.imm i < 2 ^ (10 * p.m + 3) := by
  have hw : 10 * p.m + 4 - 1 = 10 * p.m + 3 := by omega
  refine ⟨?_, ?_⟩
  · have := BitVec.le_toInt (BitVec.ofNat (10 * p.m + 4) (p.immHi * 2 ^ 4 + i.toNat))
    rwa [hw] at this
  · have := BitVec.toInt_lt (x := BitVec.ofNat (10 * p.m + 4) (p.immHi * 2 ^ 4 + i.toNat))
    rwa [hw] at this

/-! ### Words of page 0 that no row lists (03 R58) -/

/-- A word alone that is no PFX word and that page 0 does not list. -/
theorem decodeWords_unlisted {w : Half} (hw : isPrefixWord w = false) (h : decodePage0 Pfx.none w = none) :
    decodeWords [w] = some (.illegalInstruction (.word Pfx.none w), 1) := by
  have hg : gather Gather.start [w] = .ok Pfx.none 0 w := by simp only [gather, hw]; rfl
  have hb : decodeBase Pfx.none w = none := h
  simp only [decodeWords, hg, judge, hb]

end Sys2Proof.Machine
end

section
/-! O10: the PRED functions (R107). -/

namespace Sys2Proof.Machine

open Word4 Sys2Proof.Claims

/-! ### The meanings of the PRED functions that pop (R107) -/

theorem State.pop_pdepth {s t : State} {e : PEntry} (h : s.pop = some (e, t)) : 1 ≤ s.ctx.pdepth := by
  obtain ⟨bs, hpst, -⟩ := State.pop_cases h
  rw [Ctx.pdepth, hpst, List.length_cons]
  omega

theorem bit_eq_ite (b : Bool) : bit 64 b = if b then 1#64 else 0#64 := by cases b <;> rfl

/-- The pop of PEND, or the wait for the spill area, or the trap of a lost entry. -/
def popBody (s : State) : Res :=
  if s.spillBusy then .hold else match s.pop with | some (_, t) => .ok t | none => .trap s.popErr

theorem popBody_ok {s t : State} {e : PEntry} (hbusy : s.spillBusy = false) (h : s.pop = some (e, t)) : popBody s = .ok t := by
  rw [popBody, hbusy, h]; rfl
theorem popBody_lost {s : State} (hbusy : s.spillBusy = false) (h : s.pop = none) : popBody s = .trap s.popErr := by
  rw [popBody, hbusy, h]; rfl
theorem popBody_keepsRegs (s : State) (hsid : s.sid ≤ 10) : (popBody s).keepsRegs s := by
  unfold popBody
  split
  · trivial
  · split
    · next h => exact State.pop_regs h hsid
    · exact s.popErr_log

/-! ### The words of the illegal functions (R107, 03 R58) -/

theorem toNat_ge_of_getLsbD {x : BitVec 4} (h : x.getLsbD 3 = true) : 8 ≤ x.toNat :=
  Nat.ge_two_pow_of_testBit h

theorem decodePage0_pred_unlisted {w : Half} (hn3 : n3 w = 12#4) (hn0 : (n0 w).getLsbD 3 = true) : decodePage0 Pfx.none w = none := by
  have hge := toNat_ge_of_getLsbD hn0
  have hlt : (n0 w).toNat < 16 := (n0 w).isLt
  unfold decodePage0
  rw [hn3]
  generalize (n0 w).toNat = k at hge hlt
  interval_cases k <;> rfl

end Sys2Proof.Machine
end

section
/-! O10: the PRED functions. -/

namespace Sys2Proof.Proofs

open Sys2Proof Word4 Sys2Proof.Machine Sys2Proof.Claims

/-- Each function's meaning keeps the scalar registers. -/
theorem pred_keepsRegs {mk : Pfx → BitVec 4 → BitVec 4 → Instr}
    (hmk : mk ∈ [Instr.pend, Instr.pelse, Instr.pand, Instr.por, Instr.pdup, Instr.pset]) {p : Pfx} {d a : BitVec 4} {s t : State}
    (h : s.issues (mk p d a) .never 1 0 = true) (he : exec (mk p d a) s = .next t) : SameRegs s t [] := by
  have hsid : (s.charged 1 0).sid ≤ 10 := by rw [State.charged_sid]; exact State.issues_sid h
  simp only [List.mem_cons, List.not_mem_nil, or_false] at hmk
  rcases hmk with rfl | rfl | rfl | rfl | rfl | rfl
  · exact predOp_regs h rfl rfl (popBody_keepsRegs _ hsid) he
  · exact predOp_regs h rfl rfl (by exact Res.keepsRegs_setCtx hsid rfl) he
  · exact predOp_regs h rfl rfl (combine_keepsRegs _ _ hsid) he
  · exact predOp_regs h rfl rfl (combine_keepsRegs _ _ hsid) he
  · exact predOp_regs h rfl rfl (pushRes_keepsRegs _ _ hsid) he
  · exact predOp_regs h rfl rfl (pushRes_keepsRegs _ _ hsid) he

/-- Settles O10, by what each function's meaning does to the charged state. -/
theorem predicateFunctions : Obligations.PredicateFunctions := by
  unfold Obligations.PredicateFunctions
  refine ⟨?pend, ?pelse, ?pand, ?por, ?pdup, ?pset, ?pget, ?pcnt, ?lost, ?underflow, ?full, ?regs, ?illegal⟩
  case pend =>
    intro p d a s e t h hbusy hpop
    have hsid := State.issues_sid h
    have hd : 1 ≤ s.ctx.pdepth := s.pdepth_charged 1 0 hsid ▸ State.pop_pdepth hpop
    exact predOp_ok h rfl hd (popBody_ok ((s.spillBusy_charged 1 0 hsid).trans hbusy) hpop)
  case pelse =>
    intro p d a s e es h hpst
    have hpst' := (s.pst_charged 1 0 (State.issues_sid h)).trans hpst
    refine predOp_ok h rfl (by rw [Ctx.pdepth, hpst, List.length_cons]; omega) ?_
    rw [topEntry_cons hpst', hpst']; rfl
  case pand =>
    intro p d a s x y t u v h hbusy hx hy hd hv
    have hsid := State.issues_sid h
    exact predOp_ok h rfl hd (combine_ok _ (by rw [State.charged_sid]; exact hsid) ((s.spillBusy_charged 1 0 hsid).trans hbusy) hx hy hv)
  case por =>
    intro p d a s x y t u v h hbusy hx hy hd hv
    have hsid := State.issues_sid h
    exact predOp_ok h rfl hd (combine_ok _ (by rw [State.charged_sid]; exact hsid) ((s.spillBusy_charged 1 0 hsid).trans hbusy) hx hy hv)
  case pdup =>
    intro p d a s e es h hbusy hpst hd
    have hsid := State.issues_sid h
    obtain ⟨t, ht⟩ := State.push_of_lt e ((s.pdepth_charged 1 0 hsid).trans_lt hd)
    refine ⟨t, ht, predOp_ok h rfl (by rw [Ctx.pdepth, hpst, List.length_cons]; omega) ?_⟩
    rw [topEntry_cons ((s.pst_charged 1 0 hsid).trans hpst)]
    exact pushRes_ok ((s.spillBusy_charged 1 0 hsid).trans hbusy) ht
  case pset =>
    intro p d a s h hbusy hd
    refine predOp_pushes (b := s.rs (p.an a) != 0#64) h rfl bne_iff_ne (Nat.zero_le _) hbusy hd ?_
    rw [opA_charged p a 1 0 (State.issues_sid h)]
  case pget =>
    intro p d a s e es h hpst
    refine predOp_ok h rfl (by rw [Ctx.pdepth, hpst, List.length_cons]; omega) ?_
    rw [topEntry_cons ((s.pst_charged 1 0 (State.issues_sid h)).trans hpst), bit_eq_ite]
  case pcnt =>
    intro p d a s h
    refine predOp_ok h rfl (Nat.zero_le _) ?_
    rw [s.pdepth_charged 1 0 (State.issues_sid h)]
  case lost =>
    rintro mk hmk p d a s b bs x h hbusy hpaid hd hpst hspilled rfl hpoison
    have hsid := State.issues_sid h
    obtain ⟨hpop, herr⟩ := State.pop_lost_charged hsid hpst hspilled hpoison
    have hfree := (s.spillBusy_charged 1 0 hsid).trans hbusy
    simp only [List.mem_cons, List.not_mem_nil, or_false] at hmk
    rcases hmk with rfl | rfl | rfl
    · exact predOp_trap h rfl (by omega) hpaid ((popBody_lost hfree hpop).trans (congrArg _ herr))
    · exact predOp_trap h rfl hd hpaid ((combine_lost _ hfree hpop).trans (congrArg _ herr))
    · exact predOp_trap h rfl hd hpaid ((combine_lost _ hfree hpop).trans (congrArg _ herr))
  case underflow =>
    intro mk n hmk p d a s h hpaid hd
    simp only [List.mem_cons, Prod.mk.injEq, List.not_mem_nil, or_false] at hmk
    rcases hmk with ⟨rfl, rfl⟩ | ⟨rfl, rfl⟩ | ⟨rfl, rfl⟩ | ⟨rfl, rfl⟩ | ⟨rfl, rfl⟩ | ⟨rfl, rfl⟩
    all_goals exact predOp_underflow h rfl hd hpaid
  case full =>
    intro mk hmk p d a s h hbusy hpaid hd
    have hfull := pushRes_full_charged (State.issues_sid h) hbusy hd
    simp only [List.mem_cons, List.not_mem_nil, or_false] at hmk
    rcases hmk with rfl | rfl
    · exact predOp_trap h rfl (Nat.zero_le _) hpaid (hfull _)
    · exact predOp_trap h rfl (by omega) hpaid (hfull _)
  case regs =>
    intro mk hmk p d a s t h he
    exact pred_keepsRegs hmk h he
  case illegal =>
    intro w hn3 hn0
    have hn0' : (n0 w).getLsbD 3 = true := by simpa [n0] using hn0
    refine decodeWords_unlisted ?_ (decodePage0_pred_unlisted hn3 hn0')
    rw [isPrefixWord, n3, hn3]; rfl

end Sys2Proof.Proofs
end

section
/-! Compares (04 R101): instructions whose meaning is one push of a condition of their operands. -/

namespace Sys2Proof.Machine

open Word4 Sys2Proof.Claims

/-- The shape of an instruction that pushes a condition of its state. -/
def pushesCond (f : State → Bool) : Shape := { gm := .push, body := fun s => pushRes s (condEntry (f s)) }

@[simp] theorem greg_rr (p : Pfx) (d a : BitVec 4) : (p.rr d a).filterMap Operand.greg = [] := by
  unfold Pfx.rr; split <;> rfl

/-- Under a false guard a push with no place traps with the charge returned, as it does under a true one (R90, R92). -/
theorem issue_guardFalse_trap {i : Instr} {f : State → Bool} {s : State} {g : PEntry} {c : Ctx} {e : Err} (hrun : s.canRun = true)
    (hfree : interlocked i s.ctx = false) (hwf : i.wf = true) (hguard : issueGuard .push (guardPfx i) s.ctx = some g) (hfalse : g.s = false)
    (hcharge : s.ctx.charge 1 0 = .inl c) (hpaid : s.ctx.paid = none) (hres : pushRes (s.setCtx c) ⟨false, 0#32⟩ = .trap e) :
    issue i (pushesCond f) s = .next ((s.setCtx { s.ctx with wait := .none }).takeTrap e i.ilen) := by
  have hkeep (u : State) : keepCap i (.trap e) s u = u := keepCap_done rfl
  simp [issue, pushesCond, hrun, hfree, hwf, hguard, hfalse, hcharge, hpaid, hres, hkeep, finish_trap]

/-- With a true or a false guard, at depth 64 the push traps (R92). -/
theorem pushing_full {i : Instr} {f : State → Bool} {s : State} {g : PEntry} {c : Ctx} (hrun : s.canRun = true)
    (hfree : interlocked i s.ctx = false) (hwf : i.wf = true) (hg : readRegions i = [])
    (hguard : issueGuard .push (guardPfx i) s.ctx = some g) (hcharge : s.ctx.charge 1 0 = .inl c) (hpaid : s.ctx.paid = none)
    (hd : s.ctx.pdepth = 64) (hbusy : s.spillBusy = false) :
    issue i (pushesCond f) s = .next ((s.setCtx { s.ctx with wait := .none }).takeTrap (mkErr 9 s.ctx.pc 0#64) i.ilen) := by
  have hfull := pushRes_full_charged (State.canRun_sid hrun) hbusy hd
  cases hs : g.s with
  | true => exact issue_trap (State.issues_iff.2 ⟨hrun, hfree, hwf, ⟨g, hguard, hs⟩, c, hcharge⟩) (.inl rfl) rfl rfl rfl hg hpaid (hfull _)
  | false =>
    refine issue_guardFalse_trap hrun hfree hwf hguard hs hcharge hpaid ?_
    have hch : s.charged 1 0 = s.setCtx c := by rw [State.charged, hcharge]
    exact hch ▸ hfull _

/-- CMP and CMPI push; they read no region register, keep no capture and heed PFX.X. -/
theorem compare_pushing {i : Instr} (h : (∃ p d a c, i = .cmp p d a c) ∨ (∃ p a c k, i = .cmpi p a c k)) :
    (∃ f, ∀ s, exec i s = issue i (pushesCond f) s) ∧ readRegions i = [] ∧ (∀ s : State, s.capture i = none) ∧ ignoresX i = false := by
  rcases h with ⟨p, d, a, c, rfl⟩ | ⟨p, a, c, k, rfl⟩
  · exact ⟨⟨_, fun _ => rfl⟩, greg_rr p d a, fun _ => rfl, rfl⟩
  · exact ⟨⟨_, fun _ => rfl⟩, rfl, fun _ => rfl, rfl⟩

theorem decodePage0_cmp_unlisted {w : Half} (hn3 : n3 w = 5#4) (hn0 : (n0 w).getLsbD 3 = true) : decodePage0 Pfx.none w = none := by
  unfold decodePage0
  rw [hn3]
  exact if_pos hn0
theorem decodePage0_cmpi_unlisted {w : Half} (hn3 : n3 w = 6#4) (hn1 : (n1 w).getLsbD 3 = true) : decodePage0 Pfx.none w = none := by
  unfold decodePage0
  rw [hn3]
  exact if_pos hn1

end Sys2Proof.Machine
end

section
/-! O11: CMP and CMPI. -/

namespace Sys2Proof.Proofs

open Sys2Proof Word4 Sys2Proof.Machine Sys2Proof.Claims

/-- Settles O11: either compare is one push of its condition. -/
theorem compareResults : Obligations.CompareResults := by
  unfold Obligations.CompareResults
  refine ⟨?cmp, ?cmpi, ?traps, ?illegal, Pfx.imm_range, by decide +kernel, by decide +kernel⟩
  case cmp =>
    intro p d a c s h hbusy hd
    refine issue_pushes (sh := pushesCond fun s => cmpCond c (opX p d a s) (opY p a s)) h (.inl rfl) rfl rfl rfl (greg_rr p d a)
      (cmpCond_iff c _ _) hbusy hd ?_
    have hsid := State.issues_sid h
    simp only [pushesCond, srcX_charged p d a 1 0 hsid, srcY_charged p a 1 0 hsid]
  case cmpi =>
    intro p a c i s h hbusy hd
    refine issue_pushes (sh := pushesCond fun s => cmpCond c (opA p a s) (immWord (p.imm i))) h (.inl rfl) rfl rfl rfl rfl
      (cmpCond_iff c _ _) hbusy hd ?_
    simp only [pushesCond, opA_charged p a 1 0 (State.issues_sid h), immWord]
  case traps =>
    intro i hi s hrun hfree hwf
    obtain ⟨⟨f, hexec⟩, hg, hcap, hx⟩ := compare_pushing hi
    rw [hexec]
    refine ⟨fun p hp hguard hd => ?_, fun g c hguard hfalse hcharge hd hbusy => ?_,
      fun g c hguard hcharge hpaid hd hbusy => ?_, fun t _ h he => ?_⟩
    · exact issue_guard_underflow hrun hfree hwf rfl rfl rfl hp hx hguard hd
    · obtain ⟨hword, hmode, hkernel⟩ := pushing_word (hi.imp_right .inl)
      rw [← hexec]
      exact exec_guardFalse_push hrun hfree hwf hfalse hcharge hword hmode hkernel hguard hd hbusy
    · exact pushing_full hrun hfree hwf hg hguard hcharge hpaid hd hbusy
    · have hsid : (s.charged 1 0).sid ≤ 10 := by rw [State.charged_sid]; exact State.issues_sid h
      exact issue_keepsRegs (sh := pushesCond f) h (.inl rfl) rfl rfl rfl hg (hcap s) (pushRes_keepsRegs _ _ hsid) he
  case illegal =>
    rintro w (⟨hn3, hn0⟩ | ⟨hn3, hn1⟩)
    · refine decodeWords_unlisted ?_ (decodePage0_cmp_unlisted hn3 (by simpa [n0] using hn0))
      rw [isPrefixWord, n3, hn3]; rfl
    · refine decodeWords_unlisted ?_ (decodePage0_cmpi_unlisted hn3 (by simpa [n1] using hn1))
      rw [isPrefixWord, n3, hn3]; rfl

end Sys2Proof.Proofs
end

section
/-! System instructions (04 R93 to R96, 11 R268): what releases and deliberate traps see of the charged state. -/

namespace Sys2Proof.Machine

open Sys2Proof.Claims

/-- The charge changes nothing that a release waits for. -/
theorem State.released_charged (s : State) (n m scope : Nat) (h : s.sid ≤ 10) : (s.charged n m).released scope = s.released scope := by
  rcases s.charged_eq n m with e | ⟨c, hc, e⟩
  · rw [e]
  · rw [e, State.released, State.released, s.ctx_setCtx c h, Ctx.charge_pend hc, State.myCell_setCtx]
    rfl

/-- A pending access whose scope the release spans holds it back (11 R268). -/
theorem State.released_of_covered {s : State} {scope : Nat} (h : ∃ x ∈ s.ctx.pend, x.scopeNo ≤ scope) : s.released scope = false := by
  obtain ⟨x, hx, hle⟩ := h
  rw [State.released, Bool.and_eq_false_iff]
  exact .inl (List.all_eq_false.2 ⟨x, hx, by simp [coveredBy, hle]⟩)

theorem withRelease_ok {p : Pfx} {s : State} (k : State → Res) (hp : pRel p = true) (h : s.released (pScope p) = true) :
    withRelease p s k = k (s.release (pScope p)) := by rw [withRelease, hp, h]; rfl
theorem withRelease_hold {p : Pfx} {s : State} (k : State → Res) (hp : pRel p = true) (h : s.released (pScope p) = false) :
    withRelease p s k = .hold := by rw [withRelease, hp, h]; rfl
theorem withRelease_none {p : Pfx} {s : State} (k : State → Res) (hp : pRel p = false) : withRelease p s k = k s := by
  rw [withRelease, hp]; rfl
theorem withAcquire_acq {p : Pfx} (s : State) (hp : pAcq p = true) : withAcquire p s = s.acquire (pScope p) := by rw [withAcquire, hp]; rfl
theorem withAcquire_none {p : Pfx} (s : State) (hp : pAcq p = false) : withAcquire p s = s := by rw [withAcquire, hp]; rfl

section

variable {i : Instr} {sh : Shape} {s : State} {n m : Nat} (h : s.issues i sh.gm n m = true) (hk : sh.kernel = false ∨ s.ctx.user = false)
  (ho : sh.own s = none) (hr : sh.ready s = true) (hc : sh.cost s = (n, m)) (hg : readRegions i = [])

include h hk ho hr hc hg

/-- A trap that is the instruction's effect is taken with the charge kept (04 R96). -/
theorem issue_trapKeep {t : State} {e : Err} (hb : sh.body (s.charged n m) = .trapKeep t e) (hearly : sh.early s = none := by rfl)
    (hq : sh.queues = false := by rfl) : issue i sh s = .next (t.settle.takeTrap e i.ilen) := by
  rw [issue_eq h hk ho hr hc hg hearly hq, hb, keepCap_done rfl]; rfl

/-- An instruction that waits for its accesses has paid, and keeps its place. -/
theorem issue_hold (hcap : s.capture i = none) (hb : sh.body (s.charged n m) = .hold) (hearly : sh.early s = none := by rfl)
    (hq : sh.queues = false := by rfl) :
    issue i sh s = .next ((s.charged n m).setCtx ((s.charged n m).ctx.waitAs n m .hold)) := by
  rw [issue_eq h hk ho hr hc hg hearly hq, hb, keepCap_none hcap]; rfl

end

/-- What FENCE does to the state that the release leaves. -/
def fenceBody (p : Pfx) (s : State) : Res := withRelease p s fun s => .ok (withAcquire p s).emptyFetch

theorem fenceBody_release {p : Pfx} {s : State} (hp : pRel p = true) (h : s.released (pScope p) = true) :
    fenceBody p s = .ok (withAcquire p (s.release (pScope p))).emptyFetch := withRelease_ok _ hp h
theorem fenceBody_none {p : Pfx} {s : State} (hp : pRel p = false) : fenceBody p s = .ok (withAcquire p s).emptyFetch :=
  withRelease_none _ hp
theorem fenceBody_hold {p : Pfx} {s : State} (hp : pRel p = true) (h : s.released (pScope p) = false) : fenceBody p s = .hold :=
  withRelease_hold _ hp h

theorem fence_done {p : Pfx} {d a : BitVec 4} {s t : State} (h : s.issues (.fence p d a) .plain 1 0 = true)
    (hb : fenceBody p (s.charged 1 0) = .ok t) : exec (.fence p d a) s = .next (t.done (.fence p d a)) :=
  issue_ok (sh := { body := fenceBody p }) h (.inl rfl) rfl rfl rfl rfl hb

/-- A FENCE waits while an access that its release covers is pending. -/
theorem fence_hold {p : Pfx} {d a : BitVec 4} {s : State} (h : s.issues (.fence p d a) .plain 1 0 = true) (hp : pRel p = true)
    (hb : s.released (pScope p) = false) :
    exec (.fence p d a) s = .next ((s.charged 1 0).setCtx ((s.charged 1 0).ctx.waitAs 1 0 .hold)) :=
  issue_hold (sh := { body := fenceBody p }) h (.inl rfl) rfl rfl rfl rfl rfl
    (fenceBody_hold hp ((s.released_charged 1 0 _ (State.issues_sid h)).trans hb))

/-! ### The trap that a settled instruction takes -/

/-- A trap of an instruction that has been charged is entered with the registers of the context as they were at its issue. -/
theorem State.takeTrap_settled {s : State} {n m k : Nat} {e : Err} (hsid : s.sid ≤ 10) (hlog : e.log = none)
    (hact : s.ctx.tstat.getLsbD 2 = false) (hvec : s.ctx.tvec ≠ 0#64) (heven : s.ctx.tvec.getLsbD 0 = false) :
    ((s.charged n m).settle.takeTrap e k).ctx = (s.charged n m).ctx.settle.enter s.ctx.pc e k := by
  have hctx : (s.charged n m).settle.ctx = (s.charged n m).ctx.settle := State.ctx_settle _ (by rw [State.charged_sid]; exact hsid)
  have htstat : (s.charged n m).ctx.settle.tstat = s.ctx.tstat := (congrArg Ctx.tstat (s.charged_ctx n m hsid) :)
  have htvec : (s.charged n m).ctx.settle.tvec = s.ctx.tvec := (congrArg Ctx.tvec (s.charged_ctx n m hsid) :)
  have hpc : (s.charged n m).ctx.settle.pc = s.ctx.pc := s.pc_charged n m hsid
  rw [State.takeTrap_enter _ e k hlog (by rw [hctx, htstat]; exact hact) (by rw [hctx, htvec]; exact hvec)
    (by rw [hctx, htvec]; exact heven), State.ctx_setCtx, hctx, hpc]
  show (s.charged n m).sid ≤ 10
  rw [State.charged_sid]; exact hsid

/-- A legal instruction has at most four prefix words (03 R48). -/
theorem Instr.count_le {i : Instr} {p : Pfx} (h : i.wf = true) (hp : i.pfx = some p) : p.count ≤ 4 := by
  simp only [Instr.wf, Instr.chainOk, hp, Bool.and_eq_true, decide_eq_true_eq] at h
  exact h.1.1.1

/-- Bits 6:4 of the trap status give the number of words back. -/
theorem tstatOf_ilen (mode : BitVec 2) {k : Nat} (h : k < 8) : ((tstatOf mode k).extractLsb' 4 3).setWidth 64 = BitVec.ofNat 64 k := by
  have hmode := mode.isLt
  apply BitVec.eq_of_toNat_eq
  rw [tstatOf, Nat.mod_eq_of_lt h, BitVec.toNat_setWidth, BitVec.extractLsb'_toNat, BitVec.toNat_ofNat, BitVec.toNat_ofNat,
    Nat.shiftRight_eq_div_pow]
  omega

theorem two_mul_ofNat (k : Nat) : 2#64 * BitVec.ofNat 64 k = BitVec.ofNat 64 (2 * k) := by
  rw [BitVec.ofNat_mul]

/-- After a trap that was entered with the pc in taddr, tpc and the words that tstat counts give the following instruction. -/
theorem Ctx.enter_deliberate (c : Ctx) (pc info : Word) (cause : Nat) {k : Nat} (h : k < 8) :
    let t := c.enter pc (mkErr cause pc info) k
    t.tpc = pc ∧ t.taddr = pc ∧ t.tinfo = info ∧ t.tpc + 2#64 * (t.tstat.extractLsb' 4 3).setWidth 64 = pc + BitVec.ofNat 64 (2 * k) := by
  refine ⟨rfl, rfl, rfl, ?_⟩
  show pc + 2#64 * ((tstatOf c.mode k).extractLsb' 4 3).setWidth 64 = _
  rw [tstatOf_ilen _ h, two_mul_ofNat]

end Sys2Proof.Machine
end

section
/-! O16 and O17: NOP, HINT, RDCYC, YIELD, FENCE and SYSC; TRAP and BRK. -/

namespace Sys2Proof.Proofs

open Sys2Proof Sys2Proof.Machine Sys2Proof.Claims

/-- Settles O16, by what each meaning does to the charged state; a release by the accesses that its scope spans. -/
theorem systemResults : Obligations.SystemResults := by
  unfold Obligations.SystemResults
  refine ⟨⟨⟨?nop, ?hint, rdcyc_writes, ?yield, ?passEnd, ?release, ?relaxed, ?both, ?acquire⟩, ?wait⟩, ?sysc⟩
  case nop | yield =>
    intro p d a s h
    exact issue_ok h (.inl rfl) rfl rfl rfl rfl rfl
  case hint =>
    intro p w s h
    exact issue_ok (sh := { gm := .never, body := .ok }) h (.inl rfl) rfl rfl rfl rfl rfl
  case passEnd =>
    intro s hlive hpass
    show execYieldPassEnd s = _
    rw [execYieldPassEnd, hlive, hpass]; rfl
  case release =>
    intro p d a s h hrel hacq hfree
    rw [← s.released_charged 1 0 _ (State.issues_sid h)] at hfree
    exact fence_done h (by rw [fenceBody_release hrel hfree, withAcquire_none _ hacq])
  case relaxed =>
    intro p d a s h hrel hacq
    exact fence_done h (by rw [fenceBody_none hrel, withAcquire_none _ hacq])
  case both =>
    intro p d a s h hrel hfree hacq
    rw [← s.released_charged 1 0 _ (State.issues_sid h)] at hfree
    exact fence_done h (by rw [fenceBody_release hrel hfree, withAcquire_acq _ hacq])
  case acquire =>
    intro p d a s h hrel hacq
    exact fence_done h (by rw [fenceBody_none hrel, withAcquire_acq _ hacq])
  case wait =>
    intro p d a s h hrel hpend
    exact fence_hold h hrel (State.released_of_covered hpend)
  case sysc =>
    intro p n s h
    refine issue_trapKeep h (.inl rfl) rfl rfl rfl rfl ?_
    exact congrArg (fun a => Res.trapKeep _ (mkErr 0x11 a _)) (s.pc_charged 2 0 (State.issues_sid h))

theorem trap_takes (p : Pfx) (d a : BitVec 4) (s : State) (h : s.issues (.trap p d a) .plain 1 0 = true) :
    exec (.trap p d a) s = .next ((s.charged 1 0).settle.takeTrap ⟨0x17, s.ctx.pc, s.rs (p.an a), none⟩ (Instr.trap p d a).ilen) := by
  have hsid := State.issues_sid h
  refine issue_trapKeep h (.inl rfl) rfl rfl rfl rfl ?_
  exact congrArg (Res.trapKeep _) (congrArg₂ (mkErr 0x17) (s.pc_charged 1 0 hsid) (opA_charged p a 1 0 hsid))
theorem brk_takes (p : Pfx) (n : BitVec 8) (s : State) (h : s.issues (.brk p n) .plain 1 0 = true) :
    exec (.brk p n) s = .next ((s.charged 1 0).settle.takeTrap ⟨0x12, s.ctx.pc, n.setWidth 64, none⟩ (Instr.brk p n).ilen) := by
  refine issue_trapKeep h (.inl rfl) rfl rfl rfl rfl ?_
  exact congrArg (fun a => Res.trapKeep _ (mkErr 0x12 a _)) (s.pc_charged 1 0 (State.issues_sid h))

/-- Settles O17: the trap is entered from the settled state, in which tstat counts the words. -/
theorem deliberateTraps : Obligations.DeliberateTraps := by
  unfold Obligations.DeliberateTraps
  refine ⟨trap_takes, brk_takes, fun i hi => ⟨?entered, ?guardFalse⟩, by decide +kernel⟩
  case entered =>
    intro s t h hact hvec heven he
    have hsid := State.issues_sid h
    have hwf := (State.issues_iff.1 h).2.2.1
    rcases hi with ⟨p, d, a, rfl⟩ | ⟨p, n, rfl⟩
    · have hlen : (Instr.trap p d a).ilen < 8 := Nat.lt_of_le_of_lt (Nat.succ_le_succ (Instr.count_le hwf rfl)) (by decide)
      cases (trap_takes p d a s h).symm.trans he
      rw [State.takeTrap_settled hsid rfl hact hvec heven]
      obtain ⟨htpc, htaddr, -, hnext⟩ := Ctx.enter_deliberate (s.charged 1 0).ctx.settle s.ctx.pc (s.rs (p.an a)) 0x17 hlen
      exact ⟨htpc, htaddr, nofun, hnext⟩
    · have hlen : (Instr.brk p n).ilen < 8 := Nat.lt_of_le_of_lt (Nat.succ_le_succ (Instr.count_le hwf rfl)) (by decide)
      cases (brk_takes p n s h).symm.trans he
      rw [State.takeTrap_settled hsid rfl hact hvec heven]
      obtain ⟨htpc, htaddr, htinfo, hnext⟩ := Ctx.enter_deliberate (s.charged 1 0).ctx.settle s.ctx.pc (n.setWidth 64) 0x12 hlen
      refine ⟨htpc, htaddr, fun p' n' hn => ?_, hnext⟩
      cases hn
      exact htinfo
  case guardFalse =>
    intro s g c hrun hfree hwf hguard hfalse hcharge
    rcases hi with ⟨p, d, a, rfl⟩ | ⟨p, n, rfl⟩
    all_goals exact exec_guardFalse_skip hrun hfree hwf hfalse hcharge rfl (show GuardMode.plain ≠ .push by decide) nofun hguard

end Sys2Proof.Proofs
end

section
/-! Page-0 loads and stores at issue (04 R102 to R104): the meaning on the charged state whose release is done. -/

namespace Sys2Proof.Machine

open Sys2Proof.Claims

/-! ### The state once the release is done -/

theorem State.charged_flaws (s : State) (n m : Nat) : (s.charged n m).flaws = s.flaws := by
  rcases s.charged_eq n m with e | ⟨c, _, e⟩ <;> rw [e]; rfl

theorem released_kept (p : Pfx) (u : State) : CellsKept u (released p u) := by
  unfold released State.release
  split_ifs
  · exact u.dropL1_kept _
  · exact .refl u
  · exact .refl u
theorem released_mem (p : Pfx) (u : State) : (released p u).mem = u.mem := by
  unfold released State.release; split_ifs <;> rfl
theorem released_flaws (p : Pfx) (u : State) : (released p u).flaws = u.flaws := by
  unfold released State.release; split_ifs <;> rfl

/-- Once the release may be done, the meaning goes on from the released state. -/
theorem withRelease_done {p : Pfx} {u : State} (k : State → Res) (h : pRel p = true → u.released (pScope p) = true) :
    withRelease p u k = k (released p u) := by
  cases hp : pRel p with
  | true => rw [withRelease_ok k hp (h hp), released, if_pos hp]
  | false => rw [withRelease_none k hp, released, hp]; rfl

/-! ### The meanings of an aligned access -/

section

variable {p : Pfx} {d : BitVec 4} {va : Word} {n : Nat} {u v : State} (hv : v = released p u) (halign : va.toNat % n = 0)
  (hvmem : u.ctx.vmemPending = false) (hrel : pRel p = true → u.released (pScope p) = true)

include hv halign hvmem hrel

theorem loadBody_mem {signed cached : Bool} {pa sc : Nat} (hacc : v.access v.cid v.ctx.user .read va.toNat n = .mem pa cached sc) :
    loadBody p d va n signed u =
      .ok (v.addPend (.load pa n signed cached (p.dn d) sc (if pAcq p then some (pScope p) else none) none)) := by
  subst hv
  rw [loadBody, if_neg (not_not_intro halign), hvmem, if_neg Bool.false_ne_true, withRelease_done _ hrel, hacc]

theorem loadBody_win {signed : Bool} {w off : Nat} {bs : List Byte} (hacc : v.access v.cid v.ctx.user .read va.toNat n = .win w off)
    (hacq : v.ctx.acqPending = false) (hread : winRead v v.tid v.ctx.user v.pendTouches w off n va = .ok bs) :
    loadBody p d va n signed u = .ok ((v.touchWin w off n va).addPend
      (.load 0 0 signed false (p.dn d) 1 (if pAcq p then some (pScope p) else none) (some (extend signed n (leNat bs))))) := by
  subst hv
  rw [loadBody, if_neg (not_not_intro halign), hvmem, if_neg Bool.false_ne_true, withRelease_done _ hrel, hacc]
  dsimp only
  rw [hacq, if_neg Bool.false_ne_true, hread]

/-- A store with an acquire part whose context has no access left that it must wait for. -/
theorem storeBody_acquire {x : Word} {y : List WByte × Nat × FFlags} (hacq : pAcq p = true)
    (hpiece : v.storePiece va (leBytes n x.toNat) = .ok y) (hpend : v.ctx.pend = []) (hmeets : v.pendMeets y.1 = false) :
    storeBody p va n x u = .ok (((((v.touchPut va n).raise y.2.2).write v.tid y.1)).acquire (pScope p)) := by
  subst hv
  rw [storeBody, if_neg (not_not_intro halign), hvmem, if_neg Bool.false_ne_true, withRelease_done _ hrel, hpiece]
  dsimp only
  rw [if_pos hacq, hpend, hmeets, withAcquire_acq _ hacq]
  rfl

theorem storeBody_hold {x : Word} {y : List WByte × Nat × FFlags} (hacq : pAcq p = true)
    (hpiece : v.storePiece va (leBytes n x.toNat) = .ok y) (hwait : v.ctx.pend ≠ [] ∨ v.pendMeets y.1 = true) :
    storeBody p va n x u = .hold := by
  subst hv
  rw [storeBody, if_neg (not_not_intro halign), hvmem, if_neg Bool.false_ne_true, withRelease_done _ hrel, hpiece]
  dsimp only
  rw [if_pos hacq, if_neg]
  rcases hwait with h | h
  · simp [h]
  · simp [h]

/-- A store without an acquire part is issued. -/
theorem storeBody_issue {x : Word} {y : List WByte × Nat × FFlags} (hacq : pAcq p = false)
    (hpiece : v.storePiece va (leBytes n x.toNat) = .ok y) :
    storeBody p va n x u = .ok (((v.touchPut va n).addPend (.store y.1 y.2.1 .plain)).raise y.2.2) := by
  subst hv
  rw [storeBody, if_neg (not_not_intro halign), hvmem, if_neg Bool.false_ne_true, withRelease_done _ hrel, hpiece]
  dsimp only
  rw [hacq, if_neg Bool.false_ne_true]
  rfl

end

/-! ### What a piece stores -/

theorem storePiece_mem {v : State} {va : Word} {n x pa sc : Nat} {cached : Bool} (halign : va.toNat % n = 0)
    (hacc : v.access v.cid v.ctx.user .write va.toNat n = .mem pa cached sc) :
    v.storePiece va (leBytes n x) = .ok (wbytes pa (leBytes n x), sc, 0#5) ∧ v.touchPut va n = v := by
  rw [State.storePiece, length_leBytes, if_neg (not_not_intro halign), State.touchPut, hacc]
  exact ⟨rfl, rfl⟩

/-- Through a window: what is read for the piece waits as the window's own accesses do. -/
theorem storePiece_win {v : State} {va : Word} {n x w off : Nat} {bs : List WByte} {f : FFlags} (halign : va.toNat % n = 0)
    (hacq : v.ctx.acqPending = false) (hacc : v.access v.cid v.ctx.user .write va.toNat n = .win w off)
    (hwrite : winWrite v v.tid v.ctx v.pendTouches w off va (leBytes n x) = .ok (bs, f)) :
    v.storePiece va (leBytes n x) = .ok (bs, 1, f) := by
  rw [State.storePiece, length_leBytes, if_neg (not_not_intro halign), hacc]
  simp only [hacq, Bool.false_or]
  rw [hwrite]

/-! ### What an issued access leaves of the scalar registers -/

/-- The place of the step and the scalar registers of the acting context stay. -/
def State.RegsKept (s t : State) : Prop := t.sel = s.sel ∧ SameRegs s t []

theorem State.RegsKept.trans {s t u : State} (h : s.RegsKept t) (k : t.RegsKept u) : s.RegsKept u := ⟨k.1.trans h.1, h.2.trans k.2⟩
theorem State.RegsKept.sid {s t : State} (h : s.RegsKept t) (hs : s.sid ≤ 10) : t.sid ≤ 10 := by rw [State.sid, h.1]; exact hs
theorem CellsKept.regs {s t : State} (h : CellsKept s t) : s.RegsKept t := ⟨h.sel, fun r _ => h.rs_eq r⟩
theorem State.regsKept_done (s : State) (i : Instr) (h : s.sid ≤ 10) : s.RegsKept (s.done i) := ⟨rfl, fun r _ => s.rs_done i r h⟩
theorem State.regsKept_raise (s : State) (f : FFlags) (h : s.sid ≤ 10) : s.RegsKept (s.raise f) := ⟨rfl, fun r _ => s.rs_raise f r h⟩
theorem State.regsKept_addPend (s : State) (x : Pend) (h : s.sid ≤ 10) : s.RegsKept (s.addPend x) := ⟨rfl, fun r _ => s.rs_addPend x r h⟩

theorem State.acquire_kept (s : State) (scope : Nat) : CellsKept s (s.acquire scope) := s.acquireAt_kept _ _ _

theorem regsKept_released (p : Pfx) (s : State) (m : Nat) (h : s.sid ≤ 10) : s.RegsKept (released p (s.charged 1 m)) :=
  .trans (s.charged_regs 1 m h) (released_kept p _).regs

/-- A store that is performed with its acquire, no error pending, changes its own bytes and no scalar register. -/
theorem store_performed_frame {p : Pfx} {s v : State} {i : Instr} {m n pa x : Nat} {f : FFlags} (hsid : s.sid ≤ 10)
    (hv : v = released p (s.charged 1 m)) (hflaws : s.flaws = []) :
    let t := (((v.raise f).write v.tid (wbytes pa (leBytes n x))).acquire (pScope p)).done i
    (∀ a, a < pa ∨ pa + n ≤ a → rd8 t.mem a = rd8 s.mem a) ∧ SameRegs s t [] := by
  have hvflaws : (v.raise f).flaws = [] := by rw [hv, State.raise_flaws, released_flaws, State.charged_flaws, hflaws]
  have hvmem : (v.raise f).mem = s.mem := by rw [hv, State.raise_mem, released_mem, State.charged_mem]
  have hvregs : s.RegsKept v := hv ▸ regsKept_released p s m hsid
  rw [State.write_eq _ _ _ hvflaws]
  constructor
  · intro a ha
    rw [State.done_mem, State.acquire, State.acquireAt_mem, State.perform_out _ _ _ (by rwa [length_leBytes]), hvmem]
  · have hraise := hvregs.trans (v.regsKept_raise f (hvregs.sid hsid))
    have hacq := (hraise.trans (State.perform_kept _ v.tid (wbytes pa (leBytes n x))).regs).trans (State.acquire_kept _ (pScope p)).regs
    exact (hacq.trans (State.regsKept_done _ i (hacq.sid hsid))).2

theorem store_issued_frame {p : Pfx} {s v : State} {i : Instr} {m : Nat} {x : Pend} {f : FFlags} (hsid : s.sid ≤ 10)
    (hv : v = released p (s.charged 1 m)) :
    let t := ((v.addPend x).raise f).done i
    (∀ a, rd8 t.mem a = rd8 s.mem a) ∧ SameRegs s t [] := by
  have hvregs : s.RegsKept v := hv ▸ regsKept_released p s m hsid
  constructor
  · intro a
    show rd8 v.mem a = _
    rw [hv, released_mem, State.charged_mem]
  · have hpend := hvregs.trans (v.regsKept_addPend x (hvregs.sid hsid))
    have hraise := hpend.trans (State.regsKept_raise _ f (hpend.sid hsid))
    exact (hraise.trans (State.regsKept_done _ i (hraise.sid hsid))).2

theorem addrF3_charged_traffic (p : Pfx) (a i : BitVec 4) {s : State} (m : Nat) (h : s.sid ≤ 10) :
    addrF3 p a i (s.charged 1 m) = addrF3 p a i s := by
  rw [addrF3, addrF3, opA, opA, s.rs_charged 1 m _ h]
theorem addrX_charged_traffic (p : Pfx) (a : BitVec 4) {s : State} (m : Nat) (h : s.sid ≤ 10) : addrX p a (s.charged 1 m) = addrX p a s := by
  rw [addrX, addrX, opA, opA, s.rs_charged 1 m _ h]

end Sys2Proof.Machine
end

section
/-! O20 and O21: page-0 loads and stores. -/

namespace Sys2Proof.Proofs

open Sys2Proof Sys2Proof.Machine Sys2Proof.Claims

section

variable {i : Instr} {p : Pfx} {d : BitVec 4} {n : Nat} {addr : State → Word} {s : State}
  (haddr : ∀ m, addr (s.charged 1 m) = addr s) (hg : readRegions i = [])

include haddr hg

/-- An instruction whose meaning is `loadBody` at an address that the charge leaves as it is. -/
theorem loadIssues_of_loadBody {signed : Bool}
    (hexec : exec i s = issue i (memory 1 (fun s => traffic s (addr s) n) fun s => loadBody p d (addr s) n signed s) s) :
    LoadIssues i p d (addr s) n signed s := by
  rintro u v rfl hv h halign hvmem hrel
  rw [hexec]
  refine ⟨fun pa cached sc hacc => ?_, fun w off bs hacc hacq hread => ?_⟩
  all_goals
    refine issue_ok (sh := memory 1 (fun s => traffic s (addr s) n) fun s => loadBody p d (addr s) n signed s) h (.inl rfl) rfl rfl rfl hg ?_
    show loadBody p d (addr (s.charged 1 _)) n signed _ = _
    rw [haddr]
  · exact loadBody_mem hv halign hvmem hrel hacc
  · exact loadBody_win hv halign hvmem hrel hacc hacq hread

/-- An instruction whose meaning is `storeBody` of s[d], at an address that the charge leaves as it is. -/
theorem storeIssues_of_storeBody (hsid : s.sid ≤ 10) (hcap : s.capture i = none)
    (hexec : exec i s = issue i (memory 1 (fun s => traffic s (addr s) n) fun s => storeBody p (addr s) n (opD p d s) s) s) :
    StoreIssues i p d (addr s) n s := by
  rintro u v rfl hv h halign hvmem hrel
  rw [hexec]
  have hbody {r : Res} (hr : storeBody p (addr s) n (s.rs (p.dn d)) (s.charged 1 (traffic s (addr s) n)) = r) :
      storeBody p (addr (s.charged 1 (traffic s (addr s) n))) n (opD p d (s.charged 1 (traffic s (addr s) n)))
        (s.charged 1 (traffic s (addr s) n)) = r := by
    rw [haddr, opD_charged p d _ _ hsid, hr]
  have hok {t : State} (hr : storeBody p (addr s) n (s.rs (p.dn d)) (s.charged 1 (traffic s (addr s) n)) = .ok t) :=
    issue_ok (sh := memory 1 (fun s => traffic s (addr s) n) fun s => storeBody p (addr s) n (opD p d s) s)
      h (.inl rfl) rfl rfl rfl hg (hbody hr)
  refine ⟨fun pa cached sc hacq hpend hacc hmeets => ?_, fun x hacq hpiece hwait => ?_, fun pa cached sc hacq hacc => ?_,
    fun w off bs f hacq hpacq hacc hwrite => ?_⟩
  · obtain ⟨hpiece, htouch⟩ := storePiece_mem (x := (s.rs (p.dn d)).toNat) halign hacc
    refine ⟨_, hok (storeBody_acquire hv halign hvmem hrel hacq hpiece hpend hmeets), ?_, fun hflaws => ?_⟩
    · rw [htouch]
    · rw [htouch]
      exact store_performed_frame hsid hv hflaws
  · exact issue_hold (sh := memory 1 (fun s => traffic s (addr s) n) fun s => storeBody p (addr s) n (opD p d s) s)
      h (.inl rfl) rfl rfl rfl hg hcap (hbody (storeBody_hold hv halign hvmem hrel hacq hpiece hwait))
  · obtain ⟨hpiece, htouch⟩ := storePiece_mem (x := (s.rs (p.dn d)).toNat) halign hacc
    refine ⟨_, hok (storeBody_issue hv halign hvmem hrel hacq hpiece), ?_, ?_⟩
    · rw [htouch]
    · rw [htouch]
      exact store_issued_frame hsid hv
  · exact hok (storeBody_issue hv halign hvmem hrel hacq (storePiece_win halign hpacq hacc hwrite))

end

/-- Settles O20: each load is `loadBody` at its address. -/
theorem loadResults : Obligations.LoadResults := by
  unfold Obligations.LoadResults
  refine ⟨fun p d a i s hsid => ?ld, ?lb, ?lbu, ?lh, ?lhu, ?lw, ?lwu⟩
  case ld => exact loadIssues_of_loadBody (addr := addrF3 p a i) (fun m => addrF3_charged_traffic p a i m hsid) rfl rfl
  all_goals
    intro p d a s hsid
    exact loadIssues_of_loadBody (addr := addrX p a) (fun m => addrX_charged_traffic p a m hsid) rfl rfl

/-- Settles O21: each store is `storeBody` at its address. -/
theorem storeResults : Obligations.StoreResults := by
  unfold Obligations.StoreResults
  refine ⟨fun p d a i s hsid => ?st, ?sb, ?sh, ?sw⟩
  case st =>
    exact storeIssues_of_storeBody (addr := addrF3 p a i) (fun m => addrF3_charged_traffic p a i m hsid) rfl hsid rfl rfl
  all_goals
    intro p d a s hsid
    exact storeIssues_of_storeBody (addr := addrX p a) (fun m => addrX_charged_traffic p a m hsid) rfl hsid rfl rfl

end Sys2Proof.Proofs
end

section
/-! The performing of a pending access (LOAD_COMPLETE and STORE_PERFORMED, 10 R241 to R244, 11 R266). -/

namespace Sys2Proof.Machine

open Sys2Proof.Claims

/-! ### A state that differs in the lines of L1s -/

/-- Memory, the place of the step and every cell but its L1 are as before. -/
structure L1Only (s t : State) : Prop where
  sel : t.sel = s.sel
  mem : t.mem = s.mem
  cell : ∀ c, { t.cell c with l1 := (s.cell c).l1 } = s.cell c

section

variable {s t : State} (h : L1Only s t)

include h

theorem L1Only.ctxAt_eq (c n : Nat) : t.ctxAt c n = s.ctxAt c n :=
  congrArg (fun x => vget x n Ctx.reset) (congrArg Cell.slots (h.cell c) :)
theorem L1Only.cid_eq : t.cid = s.cid := by rw [State.cid, h.sel, State.cid]
theorem L1Only.sid_eq : t.sid = s.sid := by rw [State.sid, h.sel, State.sid]
theorem L1Only.tid_eq : t.tid = s.tid := by rw [State.tid, h.cid_eq, State.tid]
theorem L1Only.ctx_eq : t.ctx = s.ctx := by rw [State.ctx, h.ctxAt_eq, h.cid_eq, h.sid_eq, State.ctx]

end

theorem State.dropLines_l1Only (s : State) (t : Nat) (ls : List Nat) : L1Only s (s.dropLines t ls) := by
  refine ⟨rfl, rfl, fun c => ?_⟩
  rw [s.cell_dropLines]
  split <;> rfl

/-! ### Reading a line into the L1 (10 R242) -/

/-- The line of a memory key as an L1 gets it. -/
def State.lineAt (s : State) (pa : Nat) : L1Line := ⟨pa / 64, rdBytes s.mem (pa / 64 * 64) 64⟩

theorem State.fillL1_hit {s : State} {c pa : Nat} (h : (s.cell c).l1.any (·.line == pa / 64) = true) : s.fillL1 c pa = s := if_pos h
theorem State.fillL1_miss {s : State} {c pa : Nat} (h : (s.cell c).l1.any (·.line == pa / 64) = false) :
    s.fillL1 c pa = s.setCell c { s.cell c with l1 := (s.lineAt pa :: (s.cell c).l1).take 512 } := by
  rw [State.fillL1]
  dsimp only
  rw [h, if_neg Bool.false_ne_true]; rfl

theorem State.cell_setCell (s : State) (c k : Nat) (x : Cell) : (s.setCell c x).cell k = if k = c then x else s.cell k := by
  by_cases h : k = c
  · subst h; rw [if_pos rfl]; exact mget_mset_self _ _ _ _
  · rw [if_neg h]; exact mget_mset_ne _ _ _ h

/-- A read line is in the L1 afterwards, and the other cells are as before. -/
theorem State.fillL1_spec (s : State) (c pa : Nat) : L1Only s (s.fillL1 c pa) ∧ (∀ k, k ≠ c → (s.fillL1 c pa).cell k = s.cell k) ∧
    ∃ l ∈ ((s.fillL1 c pa).cell c).l1, l.line = pa / 64 := by
  cases h : (s.cell c).l1.any (·.line == pa / 64) with
  | true =>
    rw [State.fillL1_hit h]
    obtain ⟨l, hl, hline⟩ := List.any_eq_true.1 h
    exact ⟨⟨rfl, rfl, fun _ => rfl⟩, fun _ _ => rfl, l, hl, by simpa using hline⟩
  | false =>
    rw [State.fillL1_miss h]
    refine ⟨⟨rfl, rfl, fun k => ?_⟩, fun k hk => ?_, s.lineAt pa, ?_, rfl⟩
    · rw [s.cell_setCell]
      split
      · next hk => subst hk; rfl
      · rfl
    · rw [s.cell_setCell, if_neg hk]
    · rw [s.cell_setCell, if_pos rfl]
      exact List.mem_cons_self

theorem rdBytes_take (m : Memory) {k n : Nat} (h : n ≤ k) (a : Nat) : (rdBytes m a k).take n = rdBytes m a n := by
  induction n generalizing k a with
  | zero => rfl
  | succ n ih =>
    obtain ⟨k, rfl⟩ : ∃ j, k = j + 1 := ⟨k - 1, by omega⟩
    rw [rdBytes, List.take_succ_cons, ih (by omega), rdBytes]
theorem rdBytes_drop (m : Memory) (j k a : Nat) : (rdBytes m a (j + k)).drop j = rdBytes m (a + j) k := by
  induction j generalizing a with
  | zero => rw [Nat.zero_add]; rfl
  | succ j ih =>
    have hs : j + 1 + k = (j + k) + 1 := by omega
    rw [hs, rdBytes, List.drop_succ_cons, ih]
    congr 1; omega

/-- An access that its size divides lies in one line. -/
theorem aligned_in_line {pa n : Nat} (hn : n = 1 ∨ n = 2 ∨ n = 4 ∨ n = 8) (h : pa % n = 0) : pa % 64 + n ≤ 64 := by
  rcases hn with rfl | rfl | rfl | rfl <;> omega
theorem linesOf_aligned {pa n : Nat} (hn : n = 1 ∨ n = 2 ∨ n = 4 ∨ n = 8) (h : pa % n = 0) : linesOf pa n = [pa / 64] := by
  have hline := aligned_in_line hn h
  have hpos : 1 ≤ n := by omega
  have hone : (pa + n - 1) / 64 + 1 - pa / 64 = 1 := by omega
  rw [linesOf, hone]; rfl

/-- The bytes of an access, in the line that holds it. -/
theorem State.lineAt_bytes (s : State) {pa n : Nat} (h : pa % 64 + n ≤ 64) : ((s.lineAt pa).bytes.drop (pa % 64)).take n = rdBytes s.mem pa n := by
  have hsplit : 64 = pa % 64 + (64 - pa % 64) := by omega
  have hpa : pa / 64 * 64 + pa % 64 = pa := Nat.div_add_mod' pa 64
  show ((rdBytes s.mem (pa / 64 * 64) 64).drop (pa % 64)).take n = _
  rw [show rdBytes s.mem (pa / 64 * 64) 64 = rdBytes s.mem (pa / 64 * 64) (pa % 64 + (64 - pa % 64)) by rw [← hsplit],
    rdBytes_drop, hpa, rdBytes_take _ (by omega)]

/-- Allocating the line of a cached read does not change what the read sees. -/
theorem State.seen_fillL1 (s : State) {c pa n : Nat} (h : pa % 64 + n ≤ 64) : (s.fillL1 c pa).seen c true pa n = s.seen c true pa n := by
  cases hany : (s.cell c).l1.any (·.line == pa / 64) with
  | true => rw [State.fillL1_hit hany]
  | false =>
    have hnone : (s.cell c).l1.find? (·.line == pa / 64) = none := by
      rw [List.find?_eq_none]
      intro l hl
      rw [List.any_eq_false] at hany
      exact hany l hl
    have hfound : ((s.fillL1 c pa).cell c).l1.find? (·.line == pa / 64) = some (s.lineAt pa) := by
      rw [State.fillL1_miss hany, s.cell_setCell, if_pos rfl]
      exact List.find?_cons_of_pos (beq_self_eq_true _)
    simp only [State.seen, if_true, hfound, hnone]
    exact s.lineAt_bytes h

/-! ### A load completes -/

/-- The context whose access at place `k` has given `v` to register `d`. -/
def Ctx.loaded (c : Ctx) (k d : Nat) (v : Word) : Ctx := { c with pend := c.pend.eraseIdx k, regs := vset c.regs d v }

theorem exec_loadComplete {s u : State} {pa n d sc : Nat} {signed cached : Bool} (hsid : s.sid ≤ 10)
    (hpend : s.ctx.pend[s.sel.k]? = some (.load pa n signed cached d sc none none)) (hord : s.inOrder s.sel.k = true)
    (hu : s.readLine cached pa n = u) (husid : u.sid = s.sid) (hctx : u.ctx = s.ctx) :
    exec .loadComplete s = .next (u.setCtx (s.ctx.loaded s.sel.k d (extend signed n (leNat (u.seen u.cid cached pa n))))) := by
  show execLoadComplete s = _
  have hle : u.sid ≤ 10 := by rw [husid]; exact hsid
  simp only [execLoadComplete, hpend, hord, if_true, State.completeAt, Option.isNone_none, hu]
  rw [State.ws, u.ctx_setCtx _ hle, State.setCtx_setCtx, hctx]
  rfl

section

variable {s u : State} {k d : Nat} {v : Word} (hsid : s.sid ≤ 10) (hsel : u.sel = s.sel)

include hsid hsel

theorem loaded_ctx : (u.setCtx (s.ctx.loaded k d v)).ctx = s.ctx.loaded k d v :=
  u.ctx_setCtx _ (by rw [State.sid, hsel]; exact hsid)

theorem loaded_regs (hd : d < 16) : (u.setCtx (s.ctx.loaded k d v)).rs d = v ∧ SameRegs s (u.setCtx (s.ctx.loaded k d v)) [d] := by
  refine ⟨?_, fun r hr => ?_⟩
  · rw [State.rs, loaded_ctx hsid hsel]
    exact vget_vset_self _ _ _ _ hd
  · rw [State.rs, loaded_ctx hsid hsel]
    exact vget_vset_ne _ _ _ (List.ne_of_not_mem_cons hr)

end

/-! ### A correctable error that a read meets (10 R244, 14 R360) -/

theorem State.tile_setTile_self (s : State) (t : Nat) (x : Tile) : (s.setTile t x).tile t = x := mget_mset_self _ _ _ _

/-- The only correctable error is a transient one of the line: it is corrected, and counted in the tile's log. -/
theorem State.meetLines_transient {s : State} {t pa n : Nat} (hlines : linesOf pa n = [pa / 64])
    (hflaws : s.flaws = [(.line (pa / 64), false)]) :
    ∃ x, s.meetLines t pa n = { s with flaws := [] }.setTile t x ∧ x.elogT = incSat (s.tile t).elogT ∧ x.elogL = (s.tile t).elogL := by
  have hmeet : s.meetLines t pa n = { s with flaws := [] }.logError t 1 (64 * (pa / 64)) false := by
    rw [State.meetLines, if_neg (by rw [hflaws]; exact List.cons_ne_nil _ _), hlines]
    simp only [List.foldl_cons, List.foldl_nil, State.meetFlaw, hflaws]
    simp [State.reportError, Array.code]
  rw [hmeet]
  exact ⟨_, rfl, rfl, rfl⟩

/-! ### A store is performed -/

theorem exists_mem_wbytes {pa a : Nat} {bs : List Byte} (hlo : pa ≤ a) (hhi : a < pa + bs.length) : ∃ b ∈ wbytes pa bs, b.pa = a := by
  induction bs generalizing pa with
  | nil => simp at hhi; omega
  | cons c bs ih =>
    rw [List.length_cons] at hhi
    rcases Nat.eq_or_lt_of_le hlo with rfl | hlt
    · exact ⟨_, List.mem_cons_self, rfl⟩
    · obtain ⟨b, hb, hpa⟩ := ih hlt (by omega)
      exact ⟨b, List.mem_cons_of_mem _ hb, hpa⟩

theorem State.cell_performed (s : State) (t : Nat) (bs : List WByte) (c : Nat) :
    (s.perform t bs).cell c = (s.dropLines t (bs.map fun b => b.pa / 64)).cell c := rfl

/-- No L1 of the tile keeps a line that a store touches (10 R243). -/
theorem State.perform_l1 {s : State} {t pa a c : Nat} {bs : List Byte} {l : L1Line} (hc : c / 16 = t) (hlo : pa ≤ a)
    (hhi : a < pa + bs.length) (hl : l ∈ ((s.perform t (wbytes pa bs)).cell c).l1) : l.line ≠ a / 64 := by
  rw [s.cell_performed, s.cell_dropLines, if_pos hc, List.mem_filter] at hl
  obtain ⟨b, hb, hpa⟩ := exists_mem_wbytes hlo hhi
  intro hline
  simp only [Bool.not_eq_true', List.contains_eq_mem, decide_eq_false_iff_not, List.mem_map, not_exists, not_and] at hl
  exact hl.2 b hb (by rw [hpa, hline])

theorem exec_storePerformed {s : State} {bs : List WByte} {sc : Nat} {k : StKind} (hflaws : s.flaws = [])
    (hpend : s.ctx.pend[s.sel.k]? = some (.store bs sc k)) (hord : s.inOrder s.sel.k = true) :
    exec .storePerformed s = .next ((s.setCtx { s.ctx with pend := s.ctx.pend.eraseIdx s.sel.k }).perform s.tid bs) := by
  show execStorePerformed s = _
  simp only [execStorePerformed, hpend, hord, if_true, State.completeAt]
  exact congrArg _ (State.write_eq (s.setCtx _) _ _ hflaws)

/-! ### The reads of a cached and of an uncached load -/

/-- With no correctable error pending, a cached read allocates its line. -/
theorem State.readLine_cached {s : State} (pa n : Nat) (h : s.flaws = []) : s.readLine true pa n = s.fillL1 s.cid pa := by
  rw [State.readLine, State.meetLines, if_pos h]; rfl
theorem State.readLine_uncached {s : State} (pa n : Nat) (h : s.flaws = []) : s.readLine false pa n = s.dropLines s.tid [pa / 64] := by
  rw [State.readLine, State.meetLines, if_pos h]; rfl

theorem State.readLine_l1Only {s : State} (cached : Bool) (pa n : Nat) (h : s.flaws = []) : L1Only s (s.readLine cached pa n) := by
  cases cached with
  | true => rw [State.readLine_cached pa n h]; exact (s.fillL1_spec _ _).1
  | false => rw [State.readLine_uncached pa n h]; exact s.dropLines_l1Only _ _

theorem State.seen_readLine {s : State} (cached : Bool) {pa n : Nat} (h : s.flaws = []) (hline : pa % 64 + n ≤ 64) :
    (s.readLine cached pa n).seen s.cid cached pa n = s.seen s.cid cached pa n := by
  cases cached with
  | true => rw [State.readLine_cached pa n h]; exact s.seen_fillL1 hline
  | false => rw [State.readLine_uncached pa n h]; rfl

/-- After an uncached read no L1 of the tile holds the line. -/
theorem State.readLine_dropped {s : State} {pa n c : Nat} {l : L1Line} (h : s.flaws = []) (hc : c / 16 = s.tid)
    (hl : l ∈ ((s.readLine false pa n).cell c).l1) : l.line ≠ pa / 64 := by
  rw [State.readLine_uncached pa n h, s.cell_dropLines, if_pos hc, List.mem_filter] at hl
  simpa using hl.2

/-- A cached read leaves the module but the acting cell as it was. -/
theorem State.readLine_sameModule {s : State} (pa n : Nat) (h : s.flaws = []) : SameModule s (s.readLine true pa n) := by
  rw [State.readLine_cached pa n h]
  refine ⟨fun a => ?_, (s.fillL1_spec _ _).2.1, ?_⟩
  · rw [(s.fillL1_spec _ _).1.mem]
  · unfold State.fillL1
    dsimp only
    split <;> simp

theorem SameModule.setCtx {s t : State} (h : SameModule s t) (hcid : t.cid = s.cid) (c : Ctx) : SameModule s (t.setCtx c) := by
  obtain ⟨hmem, hcell, hrest⟩ := h
  refine ⟨hmem, fun k hk => ?_, hrest⟩
  rw [t.cell_setCtx_ne c (by rw [hcid]; exact hk)]
  exact hcell k hk

/-- Writing the context of the acting slot leaves every L1 as it was. -/
theorem State.l1_setCtx (s : State) (x : Ctx) (c : Nat) : ((s.setCtx x).cell c).l1 = (s.cell c).l1 := by
  rw [State.setCtx, s.cell_setCtxAt]
  split
  · next h => subst h; rfl
  · rfl

end Sys2Proof.Machine
end

section
/-! O22: LOAD_COMPLETE and STORE_PERFORMED. -/

namespace Sys2Proof.Proofs

open Sys2Proof Sys2Proof.Machine Sys2Proof.Claims

/-- A load completes where no correctable error is pending. -/
theorem load_completes {s : State} {pa n : Nat} {signed cached : Bool} {d sc : Nat} (hsid : s.sid ≤ 10) (hd : d < 16)
    (hn : n = 1 ∨ n = 2 ∨ n = 4 ∨ n = 8) (halign : pa % n = 0) (hflaws : s.flaws = [])
    (hpend : s.ctx.pend[s.sel.k]? = some (.load pa n signed cached d sc none none)) (hord : s.inOrder s.sel.k = true) :
    ∃ t, exec .loadComplete s = .next t ∧ t.rs d = extend signed n (leNat (s.seen s.cid cached pa n)) ∧
      SameRegs s t [d] ∧ (∀ a, rd8 t.mem a = rd8 s.mem a) ∧ SameSlots s t ∧ t.ctx.pend = s.ctx.pend.eraseIdx s.sel.k ∧ t.ctx.pc = s.ctx.pc ∧
      t.ctx.pst = s.ctx.pst ∧ t.ctx.fcsr = s.ctx.fcsr ∧ (cached = true → SameModule s t ∧ ∃ l ∈ t.myCell.l1, l.line = pa / 64) ∧
      (cached = false → ∀ c, c ≠ s.cid → { t.cell c with l1 := (s.cell c).l1 } = s.cell c) ∧
      (cached = false → ∀ c l, c / 16 = s.tid → l ∈ (t.cell c).l1 → l.line ≠ pa / 64) := by
  have hu := State.readLine_l1Only cached pa n hflaws
  have hv := State.seen_readLine cached hflaws (aligned_in_line hn halign)
  have hexec := exec_loadComplete hsid hpend hord rfl hu.sid_eq hu.ctx_eq
  rw [hu.cid_eq, hv] at hexec
  refine ⟨_, hexec, ?_⟩
  obtain ⟨hrd, hrs⟩ := loaded_regs (k := s.sel.k) (v := extend signed n (leNat (s.seen s.cid cached pa n))) hsid hu.sel hd
  have hctx := loaded_ctx (k := s.sel.k) (d := d) (v := extend signed n (leNat (s.seen s.cid cached pa n))) hsid hu.sel
  refine ⟨hrd, hrs, fun a => ?_, fun j hj => ?_, (congrArg Ctx.pend hctx :), (congrArg Ctx.pc hctx :), (congrArg Ctx.pst hctx :),
    (congrArg Ctx.fcsr hctx :), ?_, ?_, ?_⟩
  · rw [State.setCtx_mem, hu.mem]
  · rw [State.ctxAt_setCtx_ne _ _ (by rw [hu.sid_eq]; exact fun h => hj h.2), hu.ctxAt_eq]
  · rintro rfl
    refine ⟨(State.readLine_sameModule pa n hflaws).setCtx hu.cid_eq _, ?_⟩
    have hfill := (s.fillL1_spec s.cid pa).2.2
    rw [State.myCell, State.setCtx_cid, hu.cid_eq, State.l1_setCtx, State.readLine_cached pa n hflaws]
    exact hfill
  · rintro - c hc
    rw [State.cell_setCtx_ne _ _ (by rw [hu.cid_eq]; exact hc)]
    exact hu.cell c
  · rintro rfl c l hc hl
    rw [State.l1_setCtx] at hl
    exact State.readLine_dropped hflaws hc hl

/-- Settles O22: a load reads its line and writes its register, a store is performed at its bytes. -/
theorem accessesPerformed : Obligations.AccessesPerformed := by
  unfold Obligations.AccessesPerformed
  refine ⟨fun s pa n signed cached d sc => load_completes, ?transient, ?store⟩
  case transient =>
    intro s pa n signed d sc hsid hd hn halign hflaws hpend hord
    obtain ⟨x, hmeet, hT, hL⟩ := State.meetLines_transient (t := s.tid) (linesOf_aligned hn halign) hflaws
    have hread : s.readLine false pa n = (({ s with flaws := [] } : State).setTile s.tid x).dropLines s.tid [pa / 64] := by
      rw [State.readLine, hmeet]; rfl
    have hu := State.dropLines_l1Only (({ s with flaws := [] } : State).setTile s.tid x) s.tid [pa / 64]
    refine ⟨_, exec_loadComplete hsid hpend hord hread rfl hu.ctx_eq, ?_⟩
    obtain ⟨hrd, hrs⟩ := loaded_regs (s := s)
      (u := (({ s with flaws := [] } : State).setTile s.tid x).dropLines s.tid [pa / 64]) (k := s.sel.k)
      (v := extend signed n (leNat (rdBytes s.mem pa n))) hsid rfl hd
    have htile := State.tile_setTile_self ({ s with flaws := [] } : State) s.tid x
    exact ⟨hrd, rfl, (congrArg Tile.elogT htile).trans hT, (congrArg Tile.elogL htile).trans hL, hrs, fun _ => rfl⟩
  case store =>
    intro s pa n x sc k hsid hinv hflaws hpend hord
    have hctx := s.ctx_setCtx { s.ctx with pend := s.ctx.pend.eraseIdx s.sel.k } hsid
    have hlen := length_leBytes n x
    refine ⟨_, exec_storePerformed hflaws hpend hord, ?_, fun a ha => ?_, fun r _ => ?_, ?_, ?_, ?_, fun c l hc hl a hlo hhi => ?_⟩
    · have hself := State.perform_self (s := s.setCtx { s.ctx with pend := s.ctx.pend.eraseIdx s.sel.k }) s.tid pa (leBytes n x) hinv
      rwa [hlen] at hself
    · exact State.perform_out _ _ _ (by rwa [hlen])
    · rw [State.rs_perform, s.rs_setCtx _ _ hsid, State.rs]
    · rw [State.ctx_perform, hctx]
    · rw [State.ctx_perform, hctx]
    · rw [State.ctx_perform, hctx]
    · exact State.perform_l1 hc hlo (by rwa [hlen]) hl

end Sys2Proof.Proofs
end

section
/-! Frames (04 R99 to R106, 06 R150, 07 R190 to R192, 11 R268): what instructions and the shared operations leave as it was. -/

namespace Sys2Proof.Machine

open Sys2Proof.Claims

/-! ### Frames of the module, composed -/

theorem sameModule_setMyCell (s : State) (x : Cell) : SameModule s (s.setMyCell x) := by
  refine ⟨fun _ => rfl, fun c hc => mget_mset_ne _ _ _ hc, ?_⟩
  simp

theorem SameModule.refl (s : State) : SameModule s s := by
  refine ⟨fun _ => rfl, fun _ _ => rfl, ?_⟩
  simp

theorem sameModule_charged (s : State) (n m : Nat) : SameModule s (s.charged n m) := by
  rcases s.charged_eq n m with e | ⟨c, -, e⟩ <;> rw [e]
  · exact .refl s
  · exact sameModule_setCtx s c
theorem sameSlots_charged (s : State) (n m : Nat) : SameSlots s (s.charged n m) := by
  rcases s.charged_eq n m with e | ⟨c, -, e⟩ <;> rw [e]
  · exact fun _ _ => rfl
  · exact sameSlots_setCtx s c
theorem sameUnits_charged (s : State) (n m : Nat) : SameUnits s (s.charged n m) := by
  rcases s.charged_eq n m with e | ⟨c, -, e⟩ <;> rw [e]
  · rfl
  · exact sameUnits_setCtx s c

theorem SameModule.setMyCell {s t : State} (h : SameModule s t) (hcid : t.cid = s.cid) (x : Cell) : SameModule s (t.setMyCell x) := by
  obtain ⟨hmem, hcell, hrest⟩ := h
  refine ⟨hmem, fun k hk => ?_, hrest⟩
  have hne : k ≠ t.cid := by rw [hcid]; exact hk
  exact (mget_mset_ne _ _ _ hne).trans (hcell k hk)

/-! ### An instruction that has written a register and the flags, and is over -/

theorem State.ws_done (s : State) (n m r : Nat) (v : Word) (i : Instr) (h : s.sid ≤ 10) : ∃ a, ((s.charged n m).ws r v).done i =
    s.setCtx (Ctx.over { (s.charged n m).ctx with regs := vset (s.charged n m).ctx.regs r v } a) := by
  have hc : (s.charged n m).sid ≤ 10 := by rw [State.charged_sid]; exact h
  refine ⟨nextPc ((s.charged n m).ws r v) i.ilen, ?_⟩
  rw [State.done_eq ((s.charged n m).ws r v) i hc, State.ctx_ws _ r v hc, State.ws, State.setCtx_setCtx, State.setCtx_charged]
theorem State.ws_jumped (s : State) (n m r : Nat) (v a : Word) (h : s.sid ≤ 10) : ((s.charged n m).ws r v).jumped a =
    s.setCtx (Ctx.over { (s.charged n m).ctx with regs := vset (s.charged n m).ctx.regs r v } a) := by
  have hc : (s.charged n m).sid ≤ 10 := by rw [State.charged_sid]; exact h
  rw [State.jumped_eq ((s.charged n m).ws r v) a hc, State.ctx_ws _ r v hc, State.ws, State.setCtx_setCtx, State.setCtx_charged]
theorem State.charged_jumped (s : State) (n m : Nat) (a : Word) (h : s.sid ≤ 10) :
    (s.charged n m).jumped a = s.setCtx ((s.charged n m).ctx.over a) := by
  rw [State.jumped_eq _ a (by rw [State.charged_sid]; exact h), State.setCtx_charged]

theorem frameRegs_over {s : State} {n m : Nat} {rs : Vector Word 16} {ds : List Nat} (a : Word) (h : s.sid ≤ 10)
    (hrs : ∀ r, r ∉ ds → vget rs r 0#64 = s.rs r) : FrameRegs s (s.setCtx (Ctx.over { (s.charged n m).ctx with regs := rs } a)) ds :=
  frameRegs_setCtx h (Ctx.over_specials (s.charged_ctx n m h) rs a) hrs

/-- One register of the charged state written: the others are those of the acting one. -/
theorem State.vset_charged (s : State) (n m : Nat) {d : Nat} (v : Word) (h : s.sid ≤ 10) (r : Nat) (hr : r ∉ [d]) :
    vget (vset (s.charged n m).ctx.regs d v) r 0#64 = s.rs r := by
  rw [vget_vset_ne _ _ _ (List.ne_of_not_mem_cons hr)]
  exact s.rs_charged n m r h

theorem frameRegs_ws_done {s : State} {n m d : Nat} {v : Word} {i : Instr} (h : s.sid ≤ 10) :
    FrameRegs s (((s.charged n m).ws d v).done i) [d] := by
  obtain ⟨a, ha⟩ := s.ws_done n m d v i h
  rw [ha]
  exact frameRegs_over a h (s.vset_charged n m v h)
theorem frameRegs_ws_jumped {s : State} {n m d : Nat} {v a : Word} (h : s.sid ≤ 10) :
    FrameRegs s (((s.charged n m).ws d v).jumped a) [d] := by
  rw [s.ws_jumped n m d v a h]
  exact frameRegs_over a h (s.vset_charged n m v h)
theorem frameRegs_jumped {s : State} {n m : Nat} {a : Word} (h : s.sid ≤ 10) : FrameRegs s ((s.charged n m).jumped a) [] := by
  rw [s.charged_jumped n m a h]
  exact frameRegs_over (rs := (s.charged n m).ctx.regs) a h fun r _ => s.rs_charged n m r h

/-! ### Integer instructions -/

/-- The instruction, issued with a charge of `n`, writes the register that its d names. -/
def WritesD (mk : Pfx → BitVec 4 → BitVec 4 → Instr) (n : Nat) : Prop :=
  ∀ p d a s, s.issues (mk p d a) .plain n 0 = true → ∃ v, exec (mk p d a) s = .next (((s.charged n 0).ws (p.dn d) v).done (mk p d a))

theorem alu_writesD {mk : Pfx → BitVec 4 → BitVec 4 → Instr} {n : Nat} {f : Word → Word → Word} (h : Alu mk n f) : WritesD mk n :=
  fun p d a s hi => ⟨_, h p d a s hi⟩
theorem alu1_writesD {mk : Pfx → BitVec 4 → BitVec 4 → Instr} {f : Word → Word} (h : Alu1 mk f) : WritesD mk 1 :=
  fun p d a s hi => ⟨_, h p d a s hi⟩
theorem alu1P_writesD {mk : Pfx → BitVec 4 → BitVec 4 → Instr} {P : Word → Word → Prop} (h : Alu1P mk P) : WritesD mk 1 := by
  intro p d a s hi
  obtain ⟨v, -, hv⟩ := h p d a s hi
  exact ⟨v, hv⟩

theorem WritesD.frame {mk : Pfx → BitVec 4 → BitVec 4 → Instr} {n : Nat} (h : WritesD mk n) (p : Pfx) (d a : BitVec 4) (s t : State)
    (hi : s.issues (mk p d a) .plain n 0 = true) (he : exec (mk p d a) s = .next t) : FrameRegs s t [p.dn d] := by
  obtain ⟨v, hv⟩ := h p d a s hi
  cases hv.symm.trans he
  exact frameRegs_ws_done (State.issues_sid hi)

/-! ### Float instructions -/

theorem raise_low (x : BitVec 8) (f : FFlags) : (x ||| (f ++ 0#3)).extractLsb' 0 3 = x.extractLsb' 0 3 := by
  have hf : (f ++ 0#3).extractLsb' 0 3 = 0#3 := BitVec.extractLsb'_append_eq_right
  rw [BitVec.extractLsb'_or, hf, BitVec.or_zero]
theorem raise_sticky (x y : BitVec 8) : (x ||| y) &&& x = x := by
  ext i hi
  simpa using Or.inl

/-- The charged context with flags raised and other registers, the instruction over, differs in what `FrameFlags` leaves out alone. -/
theorem Ctx.over_raise_specials {c c' : Ctx} (h : { c' with ibud := c.ibud, mbud := c.mbud } = c) (rs : Vector Word 16) (f : FFlags) (a : Word) :
    { Ctx.over { c'.raise f with regs := rs } a with
      fcsr := c.fcsr, regs := c.regs, pc := c.pc, ibud := c.ibud, mbud := c.mbud, wait := c.wait, paid := c.paid, cap := c.cap } = c := by
  cases c; cases c'; simp_all [Ctx.over, Ctx.settle, Ctx.raise]

theorem frameFlags_over {s : State} {n m : Nat} {rs : Vector Word 16} {ds : List Nat} (f : FFlags) (a : Word) (h : s.sid ≤ 10)
    (hrs : ∀ r, r ∉ ds → vget rs r 0#64 = s.rs r) :
    FrameFlags s (s.setCtx (Ctx.over { (s.charged n m).ctx.raise f with regs := rs } a)) ds := by
  have hctx := s.ctx_setCtx (Ctx.over { (s.charged n m).ctx.raise f with regs := rs } a) h
  have hfcsr : (s.charged n m).ctx.fcsr = s.ctx.fcsr := (congrArg Ctx.fcsr (s.charged_ctx n m h) :)
  refine ⟨sameModule_setCtx s _, sameUnits_setCtx s _, sameSlots_setCtx s _, ?_, fun r hr => ?_, ?_, ?_⟩
  · rw [SameSpecials, State.setCtx_setCtx, s.ctx_setCtx _ h, hctx]
    exact Ctx.over_raise_specials (s.charged_ctx n m h) rs f a
  · rw [s.rs_setCtx _ r h]
    exact hrs r hr
  · rw [hctx]
    show ((s.charged n m).ctx.fcsr ||| _).extractLsb' 0 3 = _
    rw [hfcsr, raise_low]
  · rw [hctx]
    show ((s.charged n m).ctx.fcsr ||| _) &&& _ = _
    rw [hfcsr, raise_sticky]

/-- A float instruction that has written its register and raised its flags. -/
theorem issue_fwrite {i : Instr} {n d : Nat} {s t : State} {r : State → Nat × FFlags} (h : s.issues i .plain n 0 = true)
    (hg : readRegions i = []) (he : issue i (plain n fun s => fwrite d (r s) s) s = .next t) : FrameFlags s t [d] := by
  have hsid := State.issues_sid h
  have hc : (s.charged n 0).sid ≤ 10 := by rw [State.charged_sid]; exact hsid
  have hok := issue_ok (sh := plain n fun s => fwrite d (r s) s) h (.inl rfl) rfl rfl rfl hg rfl
  cases hok.symm.trans he
  rw [State.done_eq (((s.charged n 0).ws d _).raise _) i hc, State.ctx_raise ((s.charged n 0).ws d _) _ hc, State.ctx_ws _ _ _ hc, State.raise, State.ws, State.setCtx_setCtx, State.setCtx_setCtx,
    State.setCtx_charged]
  exact frameFlags_over _ _ hsid (s.vset_charged n 0 _ hsid)

/-! ### FCMP: flags and a push -/

/-- With room in hardware a push changes the stack alone (04 R88). -/
theorem State.push_hardware {s t : State} {e : PEntry} (hlen : s.ctx.pst.length < 16) (h : s.push e = some t) :
    t = s.setCtx { s.ctx with pst := e :: s.ctx.pst } := by
  obtain ⟨-, ⟨-, ht⟩ | ⟨hge, -⟩⟩ := State.push_cases h
  · exact ht
  · omega

/-- The context of a compare that has raised flags and pushed, but for the entry pushed. -/
theorem Ctx.over_pushed {c c' : Ctx} (h : c'.pst = c.pst) (f : FFlags) (e : PEntry) (a : Word) :
    { Ctx.over { c'.raise f with pst := e :: (c'.raise f).pst } a with pst := c.pst } = Ctx.over { c'.raise f with regs := c'.regs } a := by
  rw [← h]; rfl

theorem raise_push_frame {s v : State} {f : FFlags} {e : PEntry} {i : Instr} (hsid : s.sid ≤ 10) (hlen : s.ctx.pst.length < 16)
    (hv : ((s.charged 1 0).raise f).push e = some v) : FrameFlags s ((v.done i).setCtx { (v.done i).ctx with pst := s.ctx.pst }) [] := by
  have hu : (s.charged 1 0).sid ≤ 10 := by rw [State.charged_sid]; exact hsid
  have hpst : (s.charged 1 0).ctx.pst = s.ctx.pst := s.pst_charged 1 0 hsid
  have hraise : ((s.charged 1 0).raise f).ctx = (s.charged 1 0).ctx.raise f := (s.charged 1 0).ctx_raise f hu
  have hroom : ((s.charged 1 0).raise f).ctx.pst.length < 16 := by
    rw [hraise]; exact (congrArg List.length hpst).trans_lt hlen
  obtain rfl := State.push_hardware hroom hv
  have hctx : (((s.charged 1 0).raise f).setCtx { ((s.charged 1 0).raise f).ctx with pst := e :: ((s.charged 1 0).raise f).ctx.pst }).ctx =
      { (s.charged 1 0).ctx.raise f with pst := e :: ((s.charged 1 0).ctx.raise f).pst } := by
    rw [State.ctx_setCtx ((s.charged 1 0).raise f) _ hu, hraise]
  have hset (x y : Ctx) : (((s.charged 1 0).raise f).setCtx x).setCtx y = s.setCtx y := by
    rw [State.setCtx_setCtx, State.raise, State.setCtx_setCtx, State.setCtx_charged]
  rw [State.done_eq (((s.charged 1 0).raise f).setCtx _) i hu, hset, State.setCtx_setCtx, s.ctx_setCtx _ hsid, hctx, Ctx.over_pushed hpst]
  exact frameFlags_over f _ hsid fun r _ => s.rs_charged 1 0 r hsid

theorem State.pdepth_raise (s : State) (f : FFlags) (h : s.sid ≤ 10) : (s.raise f).ctx.pdepth = s.ctx.pdepth := by
  rw [s.ctx_raise f h]; rfl
theorem State.spillBusy_raise {s : State} (f : FFlags) (h : s.sid ≤ 10) (hs : s.spillBusy = false) : (s.raise f).spillBusy = false := by
  have hctx := s.ctx_raise f h
  refine State.spillBusy_of_le hs rfl ?_ ?_ ?_ ?_ (Nat.le_of_eq (s.pdepth_raise f h))
  · rw [State.raise, State.myCell_setCtx]; rfl
  · rw [hctx]; rfl
  · rw [hctx]; rfl
  · rw [hctx]; exact Nat.le_refl _

/-- Raising flags leaves the place for a push that the charged state has. -/
theorem pushRes_raise {s : State} (f : FFlags) (e : PEntry) (hsid : s.sid ≤ 10) (hbusy : s.spillBusy = false) (hd : s.ctx.pdepth < 64) :
    ∃ v, ((s.charged 1 0).raise f).push e = some v ∧ pushRes ((s.charged 1 0).raise f) e = .ok v := by
  have hu : (s.charged 1 0).sid ≤ 10 := by rw [State.charged_sid]; exact hsid
  have hdepth := (State.pdepth_raise _ f hu).trans_lt ((s.pdepth_charged 1 0 hsid).trans_lt hd)
  have hfree := State.spillBusy_raise f hu ((s.spillBusy_charged 1 0 hsid).trans hbusy)
  obtain ⟨v, hv⟩ := State.push_of_lt e hdepth
  exact ⟨v, hv, pushRes_ok hfree hv⟩

/-- What FCMP pushes and raises, in the state in which it runs. -/
def fcmpRes (p : Pfx) (d a : BitVec 4) (c : BitVec 2) (s : State) : Bool × FFlags :=
  fcompare (pFmt p) (fcondOf c) (codeOf (pFmt p) (opX p d a s)) (codeOf (pFmt p) (opY p a s))

/-- The shape of FCMP. -/
def fcmpShape (p : Pfx) (d a : BitVec 4) (c : BitVec 2) : Shape :=
  pushing 1 (fun _ => 0) fun s => pushRes (s.raise (fcmpRes p d a c s).2) (condEntry (fcmpRes p d a c s).1)

theorem fcmp_frame {p : Pfx} {d a : BitVec 4} {c : BitVec 2} {s t : State} (h : s.issues (.fcmp p d a c) .push 1 0 = true)
    (hbusy : s.spillBusy = false) (hlen : s.ctx.pst.length < 16) (hd : s.ctx.pdepth < 64) (he : exec (.fcmp p d a c) s = .next t) :
    FrameFlags s (t.setCtx { t.ctx with pst := s.ctx.pst }) [] := by
  have hsid := State.issues_sid h
  obtain ⟨v, hv, hbody⟩ :=
    pushRes_raise (fcmpRes p d a c (s.charged 1 0)).2 (condEntry (fcmpRes p d a c (s.charged 1 0)).1) hsid hbusy hd
  have hok := issue_ok (i := .fcmp p d a c) (sh := fcmpShape p d a c) h (.inl rfl) rfl rfl rfl (greg_rr p d a) hbody
  cases hok.symm.trans he
  exact raise_push_frame hsid hlen hv

/-! ### A region register is written (06 R150, R151) -/

theorem State.myCell_wg (s : State) (dst : Nat) (g : GReg) :
    (s.wg dst g).myCell = { s.myCell with g := vset s.myCell.g dst g, gbad := s.myCell.gbad &&& ~~~(1#16 <<< dst) } := s.myCell_setMyCell _
theorem State.ctxAt_wg (s : State) (dst : Nat) (g : GReg) (n : Nat) : (s.wg dst g).ctxAt s.cid n = s.ctxAt s.cid n := by
  have h : (s.wg dst g).cell s.cid = _ := s.myCell_wg dst g
  rw [State.ctxAt, h]; rfl

/-- After a write of a region register the instruction is over. -/
theorem State.wg_done (s : State) (dst : Nat) (g : GReg) (i : Instr) (h : s.sid ≤ 10) :
    ∃ a, (s.wg dst g).done i = (s.wg dst g).setCtx (s.ctx.over a) := by
  have hctx : (s.wg dst g).ctx = s.ctx := s.ctxAt_wg dst g s.sid
  exact ⟨_, by rw [State.done_eq (s.wg dst g) i h, hctx]⟩

theorem frame_wg_done {s : State} {dst n : Nat} (g : GReg) (i : Instr) (hsid : s.sid ≤ 10) (hdst : dst < 16) :
    let t := ((s.charged n 0).wg dst g).done i
    SameModule s t ∧ SameSlots s t ∧ SameSpecials s t ∧ SameRegs s t [] ∧ t.rg dst = g ∧ (∀ k, k ≠ dst → t.rg k = s.rg k) ∧
    { t.myCell with slots := s.myCell.slots, g := s.myCell.g, gbad := s.myCell.gbad } = s.myCell ∧
    t.myCell.gbad = s.myCell.gbad &&& ~~~(1#16 <<< dst) := by
  have hmod := sameModule_charged s n 0
  have hslots := sameSlots_charged s n 0
  have hunits := sameUnits_charged s n 0
  have hctx := s.charged_ctx n 0 hsid
  have hrs (r : Nat) := s.rs_charged n 0 r hsid
  have hcid := s.charged_cid n 0
  have hsid' := s.charged_sid n 0
  generalize s.charged n 0 = u at hmod hslots hunits hctx hrs hcid hsid'
  have husid : u.sid ≤ 10 := hsid'.trans_le hsid
  have hwcid : (u.wg dst g).cid = u.cid := rfl
  obtain ⟨a, hdone⟩ := u.wg_done dst g i husid
  rw [hdone]
  have htctx : ((u.wg dst g).setCtx (u.ctx.over a)).ctx = u.ctx.over a := State.ctx_setCtx _ _ husid
  have htcell : ((u.wg dst g).setCtx (u.ctx.over a)).myCell =
      { u.myCell with g := vset u.myCell.g dst g, gbad := u.myCell.gbad &&& ~~~(1#16 <<< dst) }.setSlot u.sid (u.ctx.over a) := by
    rw [State.myCell_setCtx, State.myCell_wg]; rfl
  have hg : u.myCell.g = s.myCell.g := (congrArg Cell.g hunits :)
  have hgbad : u.myCell.gbad = s.myCell.gbad := (congrArg Cell.gbad hunits :)
  refine ⟨?_, fun j hj => ?_, ?_, fun r _ => ?_, ?_, fun k hk => ?_, ?_, ?_⟩
  · exact (hmod.setMyCell hcid _).setCtx hcid _
  · rw [State.ctxAt_setCtx_ne (u.wg dst g) _ fun h => hj (h.2.trans hsid'), ← hslots j hj, ← hcid, State.ctxAt_wg]
  · rw [SameSpecials, htctx]
    exact Ctx.over_specials hctx u.ctx.regs a
  · rw [State.rs, htctx]
    exact hrs r
  · rw [State.rg, htcell]
    exact vget_vset_self _ _ _ _ hdst
  · rw [State.rg, htcell, State.rg, ← hg]
    exact vget_vset_ne _ _ _ hk
  · rw [htcell, ← hg, ← hgbad]
    exact hunits
  · rw [htcell, ← hgbad]
    rfl

/-! ### Acquires and releases (11 R268, R269) -/

theorem State.dropL1_l1Only (s : State) (t : Nat) : L1Only s (s.dropL1 t) := by
  refine ⟨rfl, rfl, fun c => ?_⟩
  rw [s.cell_dropL1]
  split <;> rfl
theorem State.dropL1_empty (s : State) {t c : Nat} (h : c / 16 = t) : ((s.dropL1 t).cell c).l1 = [] := by
  rw [s.cell_dropL1, if_pos h]
theorem State.dropL1_other (s : State) {t c : Nat} (h : c / 16 ≠ t) : (s.dropL1 t).cell c = s.cell c := by
  rw [s.cell_dropL1, if_neg h]

theorem State.release_spec (s : State) (sc : Nat) :
    { s.release sc with cells := s.cells } = s ∧ (∀ c, { (s.release sc).cell c with l1 := (s.cell c).l1 } = s.cell c) ∧
    (2 ≤ sc → ∀ c, c / 16 = s.tid → ((s.release sc).cell c).l1 = []) := by
  rw [State.release]
  split
  · exact ⟨rfl, (s.dropL1_l1Only _).cell, fun _ c hc => s.dropL1_empty hc⟩
  · exact ⟨rfl, fun _ => rfl, fun h => absurd h (by assumption)⟩

/-- An acquire empties the fetch buffer, and drops L1s where its scope says so. -/
theorem State.acquire_eq (s : State) (sc : Nat) : s.acquire sc =
    if 2 ≤ sc then (s.setCtx { s.ctx with fbuf := none }).dropL1 s.tid else s.setCtx { s.ctx with fbuf := none } := rfl

theorem State.acquire_spec {s : State} (sc : Nat) (hsid : s.sid ≤ 10) :
    { s.acquire sc with cells := s.cells } = s ∧
    (∀ c, { (s.acquire sc).cell c with slots := (s.cell c).slots, l1 := (s.cell c).l1 } = s.cell c) ∧
    (∀ c n, ¬ (c = s.cid ∧ n = s.sid) → (s.acquire sc).ctxAt c n = s.ctxAt c n) ∧ { (s.acquire sc).ctx with fbuf := s.ctx.fbuf } = s.ctx ∧
    (s.acquire sc).ctx.fbuf = none ∧ (∀ c, c / 16 ≠ s.tid → (s.acquire sc).cell c = s.cell c) ∧
    (2 ≤ sc → ∀ c, c / 16 = s.tid → ((s.acquire sc).cell c).l1 = []) := by
  let u := s.setCtx { s.ctx with fbuf := none }
  have huctx : u.ctx = { s.ctx with fbuf := none } := s.ctx_setCtx _ hsid
  have hother (c : Nat) (hc : c / 16 ≠ s.tid) : u.cell c = s.cell c := s.cell_setCtx_ne _ fun h => hc (h ▸ rfl)
  refine ⟨?_, (s.acquire_kept sc).cell, ?_⟩
  · rw [s.acquire_eq]; split <;> rfl
  · rw [s.acquire_eq]
    split
    · have hu := u.dropL1_l1Only s.tid
      refine ⟨fun c n h => (hu.ctxAt_eq c n).trans (s.ctxAt_setCtx_ne _ h), ?_, ?_, fun c hc => (u.dropL1_other hc).trans (hother c hc),
        fun _ c hc => u.dropL1_empty hc⟩
      · rw [hu.ctx_eq, huctx]
      · rw [hu.ctx_eq, huctx]
    · next h =>
      exact ⟨fun c n h => s.ctxAt_setCtx_ne _ h, by rw [huctx], by rw [huctx], hother, fun h' => absurd h' h⟩

end Sys2Proof.Machine
end

section
/-! O36: frames of instructions and of the shared operations. -/

namespace Sys2Proof.Proofs

open Sys2Proof Sys2Proof.Machine Sys2Proof.Claims

theorem integer_frames :
    (∀ mk ∈ [Instr.add, Instr.sub, Instr.and, Instr.or, Instr.xor, Instr.sll, Instr.srl, Instr.sra, Instr.min, Instr.max, Instr.minu,
      Instr.maxu, Instr.mov, Instr.clz, Instr.ctz, Instr.popc, Instr.sextb, Instr.sexth, Instr.sextw, Instr.zextb, Instr.zexth,
      Instr.zextw, Instr.bswap, Instr.addw, Instr.subw, Instr.rdcyc], WritesD mk 1) ∧
    (∀ mk ∈ [Instr.mul, Instr.mulh, Instr.mulhu], WritesD mk 2) ∧
    ∀ mk ∈ [Instr.div, Instr.divu, Instr.rem, Instr.remu], WritesD mk 8 := by
  obtain ⟨⟨⟨hadd, hsub, hand, hor, hxor, hsll, hsrl, hsra, hmul, hmulh, hmulhu, hmin, hmax, hminu, hmaxu, haddw, hsubw⟩,
      hdiv, hdivu, hrem, hremu, -⟩,
    hmov, hclz, hctz, hpopc, hsextb, hsexth, hsextw, hzextb, hzexth, hzextw, hbswap, -⟩ := integerResults
  have hrdcyc : WritesD .rdcyc 1 := fun p d a s h => ⟨_, rdcyc_writes p d a s h⟩
  simp only [List.forall_mem_cons, List.not_mem_nil, false_implies, implies_true, and_true]
  exact ⟨⟨alu_writesD hadd, alu_writesD hsub, alu_writesD hand, alu_writesD hor, alu_writesD hxor, alu_writesD hsll, alu_writesD
    hsrl, alu_writesD hsra, alu_writesD hmin, alu_writesD hmax, alu_writesD hminu, alu_writesD hmaxu, alu1_writesD hmov,
    alu1P_writesD hclz, alu1P_writesD hctz, alu1P_writesD hpopc, alu1_writesD hsextb, alu1_writesD hsexth, alu1_writesD hsextw,
    alu1_writesD hzextb, alu1_writesD hzexth, alu1_writesD hzextw, alu1P_writesD hbswap, alu_writesD haddw, alu_writesD hsubw,
    hrdcyc⟩,
    ⟨alu_writesD hmul, alu_writesD hmulh, alu_writesD hmulhu⟩, alu_writesD hdiv, alu_writesD hdivu, alu_writesD hrem,
    alu_writesD hremu⟩

/-- Each float instruction writes its register and raises flags. -/
theorem float_frames {mk : Pfx → BitVec 4 → BitVec 4 → Instr} {n : Nat} (hmk : (mk, n) ∈ [(Instr.fadd, 1), (Instr.fsub, 1), (Instr.fmul, 1),
      (Instr.fdiv, 8), (Instr.fsqrt, 8), (Instr.fma, 1), (Instr.fmin, 1), (Instr.fmax, 1), (Instr.fabs, 1), (Instr.fneg, 1),
      (Instr.fclass, 1), (Instr.fqnt, 1)])
    {p : Pfx} {d a : BitVec 4} {s t : State} (h : s.issues (mk p d a) .plain n 0 = true) (he : exec (mk p d a) s = .next t) :
    FrameFlags s t [p.dn d] := by
  simp only [List.mem_cons, Prod.mk.injEq, List.not_mem_nil, or_false] at hmk
  rcases hmk with ⟨rfl, rfl⟩ | ⟨rfl, rfl⟩ | ⟨rfl, rfl⟩ | ⟨rfl, rfl⟩ | ⟨rfl, rfl⟩ | ⟨rfl, rfl⟩ | ⟨rfl, rfl⟩ | ⟨rfl, rfl⟩ | ⟨rfl, rfl⟩ |
    ⟨rfl, rfl⟩ | ⟨rfl, rfl⟩ | ⟨rfl, rfl⟩
  · exact issue_fwrite h (greg_rrr p d a) he
  · exact issue_fwrite h (greg_rrr p d a) he
  · exact issue_fwrite h (greg_rrr p d a) he
  · exact issue_fwrite h (greg_rrr p d a) he
  · exact issue_fwrite h rfl he
  · exact issue_fwrite h rfl he
  · exact issue_fwrite h (greg_rrr p d a) he
  · exact issue_fwrite h (greg_rrr p d a) he
  · exact issue_fwrite h rfl he
  · exact issue_fwrite h rfl he
  · exact issue_fwrite h rfl he
  · exact issue_fwrite h rfl he

/-- Settles O36: by the results of O7 and O12, and an equation for each shared operation. -/
theorem instructionFrames : Obligations.InstructionFrames := by
  unfold Obligations.InstructionFrames
  obtain ⟨hone, htwo, height⟩ := integer_frames
  obtain ⟨-, -, -, -, -, -, -, -, -, -, -, haddi, hli⟩ := integerResults.2
  obtain ⟨hb, hj, hcall, -, -, -, -, hjr, hcallr, hret, -⟩ := branchResults
  refine ⟨⟨⟨fun mk hmk => (hone mk hmk).frame, fun mk hmk => (htwo mk hmk).frame, fun mk hmk => (height mk hmk).frame, ?imm⟩,
    ⟨?b, ?j, ?call, ?jr, ?callr, ?ret⟩, ?float, ?fcvt, fun p d a c s t => fcmp_frame⟩, ?region, ?perform, ?acquire, ?release, ?ws, ?raise,
    ?pend, ?queue⟩
  case imm =>
    intro mk hmk p d i s t h he
    simp only [List.mem_cons, List.not_mem_nil, or_false] at hmk
    rcases hmk with rfl | rfl
    · cases (haddi p d i s h).symm.trans he
      exact frameRegs_ws_done (State.issues_sid h)
    · cases (hli p d i s h).symm.trans he
      exact frameRegs_ws_done (State.issues_sid h)
  case b =>
    intro p o s t h he
    cases (hb p o s h).symm.trans he
    exact frameRegs_jumped (State.issues_sid h)
  case j =>
    intro p o s t h he
    cases (hj p o s h).symm.trans he
    exact frameRegs_jumped (State.issues_sid h)
  case call =>
    intro p o s t h he
    cases (hcall p o s h).symm.trans he
    exact frameRegs_ws_jumped (State.issues_sid h)
  case jr =>
    intro p d a s t h heven he
    cases (hjr p d a s h heven).symm.trans he
    exact frameRegs_jumped (State.issues_sid h)
  case callr =>
    intro p d a s t h heven he
    cases (hcallr p d a s h heven).symm.trans he
    exact frameRegs_ws_jumped (State.issues_sid h)
  case ret =>
    intro p d a s t h heven he
    cases (hret p d a s h heven).symm.trans he
    exact frameRegs_jumped (State.issues_sid h)
  case float =>
    intro mk n hmk p d a s t h he
    exact float_frames hmk h he
  case fcvt =>
    intro p d a g s t h he
    exact issue_fwrite h rfl he
  case region =>
    rintro s dst n g i t hsid hdst rfl
    exact frame_wg_done g i hsid hdst
  case perform =>
    intro s t bs
    refine ⟨fun a ha => rd8_applyBytes_out _ ha, fun c => ?_, rfl⟩
    obtain ⟨l, hl⟩ := s.cell_perform t bs c
    rw [hl]
  case acquire =>
    rintro s t sc hsid rfl
    exact State.acquire_spec sc hsid
  case release =>
    rintro s t sc rfl
    exact s.release_spec sc
  case ws =>
    rintro s t n v hsid rfl
    refine ⟨sameModule_setCtx s _, sameUnits_setCtx s _, sameSlots_setCtx s _, fun r hr => ?_, ?_⟩
    · exact s.rs_ws_ne v hsid (List.ne_of_not_mem_cons hr)
    · rw [s.ctx_ws n v hsid]
  case raise =>
    rintro s t f hsid rfl
    exact ⟨sameModule_setCtx s _, sameUnits_setCtx s _, sameSlots_setCtx s _, by rw [s.ctx_raise f hsid]; rfl⟩
  case pend =>
    rintro s t x hsid rfl
    exact ⟨sameModule_setCtx s _, sameUnits_setCtx s _, sameSlots_setCtx s _, by rw [s.ctx_addPend x hsid]⟩
  case queue =>
    rintro s t w f rfl
    have hcell : (s.enqueueV w f).myCell = _ := s.myCell_setMyCell _
    have hslot (n : Nat) : (s.enqueueV w f).ctxAt s.cid n = s.ctxAt s.cid n := by
      have h : (s.enqueueV w f).cell s.cid = _ := hcell
      rw [State.ctxAt, h]; rfl
    exact ⟨sameModule_setMyCell s _, fun n _ => hslot n, hslot s.sid, by rw [hcell]⟩

end Sys2Proof.Proofs
end

section
/-! Staged objects (10 R255 to R262): the checks of LDS, STS, TRN and STQ that pass, their step, and what one that waits keeps. -/

namespace Sys2Proof.Machine

open Sys2Proof.Claims

/-! ### What the charge leaves of a region operand -/

theorem State.held_charged (s : State) (n m : Nat) (h : s.sid ≤ 10) : (s.charged n m).held = s.held := by
  rw [State.held, State.held, (congrArg Ctx.paid (s.charged_ctx n m h) :), (congrArg Ctx.cap (s.charged_ctx n m h) :)]
theorem State.rg_charged (s : State) (n m k : Nat) : (s.charged n m).rg k = s.rg k := by
  rw [State.rg, State.rg, (congrArg Cell.g (sameUnits_charged s n m) :)]

theorem State.ragWait_charged (s : State) (n m : Nat) (g : GReg) (h : s.sid ≤ 10) : (s.charged n m).ragWait g = s.ragWait g := by
  rcases s.charged_eq n m with e | ⟨c, hc, e⟩ <;> rw [e]
  have hheld : (s.setCtx c).ctx.accessHeld = s.ctx.accessHeld := by
    rw [s.ctx_setCtx c h, Ctx.accessHeld, Ctx.vmemPending, Ctx.acqPending, Ctx.charge_pend hc]; rfl
  have hdesc : (s.setCtx c).desc g.desc = s.desc g.desc := rfl
  rw [State.ragWait, hheld, hdesc, State.pendTouches_charge h hc, State.ragWait]

/-- With no correctable error pending, a region-reading instruction runs on the charged state. -/
theorem State.begun_of_sound {s : State} (i : Instr) (n m : Nat) (h : s.flaws = []) : s.begun i n m = s.charged n m := by
  rw [State.begun, meetRegions, if_pos ((s.charged_flaws n m).trans h)]

/-! ### An instruction that may capture -/

theorem issue_region_ok {i : Instr} {sh : Shape} {s t : State} {n m : Nat} (h : s.issues i sh.gm n m = true)
    (hk : sh.kernel = false ∨ s.ctx.user = false) (ho : sh.own s = none) (hr : sh.ready s = true) (hc : sh.cost s = (n, m))
    (hsound : Sound i s) (hb : sh.body (s.charged n m) = .ok t) (he : sh.early s = none := by rfl) (hq : sh.queues = false := by rfl) :
    issue i sh s = .next (t.done i) := by
  rw [issue_region h hk ho hr hc hsound.1 he hq, State.begun_of_sound i n m hsound.2, hb, keepCap_done rfl]
  rfl

/-- A region operand as captured, or as it stands. -/
theorem State.operand_of_held {s : State} {k : Cap} (h : s.held = some k) (n : Nat) :
    s.gOp n = k.reg ∧ s.dOp n = k.desc ∧ s.boxesOp n = regionBoxes k.reg k.desc k.lens ∧ s.asIssued = { s with descs := k.descs } := by
  rw [State.gOp, State.dOp, State.boxesOp, State.asIssued, h]
  exact ⟨rfl, rfl, rfl, rfl⟩
theorem State.operand_of_free {s : State} (h : s.held = none) (n : Nat) :
    s.gOp n = s.rg n ∧ s.dOp n = s.desc (s.rg n).desc ∧ s.boxesOp n = s.boxes (s.rg n) ∧ s.asIssued = s := by
  rw [State.gOp, State.dOp, State.boxesOp, State.asIssued, h]
  exact ⟨rfl, rfl, rfl, rfl⟩

/-! ### The checks of R261 -/

/-- The region operand of a stage instruction on one member or all, with elements or without, passes the checks of R261 as it stands. -/
def StageUsable (u : State) (p : Pfx) (a : BitVec 4) (one elem : Bool) : Prop :=
  let g := u.gOp (p.an a)
  let D := u.dOp (p.an a)
  u.gBad g true = none ∧ u.ragWait g = false ∧ u.ragPoison g = none ∧ g.inexact = false ∧ D.staged = true ∧
    (one = true → memberNo p u < volume (u.boxes g)) ∧ (elem = true → D.tyOf ≠ .q4n)

theorem stageCheck_pass {p : Pfx} {a : BitVec 4} {one elem : Bool} {u : State} (k : State → Res) (hflaws : u.flaws = [])
    (h : u.held = none → StageUsable u p a one elem) : stageCheck p a one elem u k = k u := by
  unfold stageCheck
  dsimp only
  cases hh : u.held with
  | some c => rfl
  | none =>
    obtain ⟨hg, hD, -, -⟩ := State.operand_of_free hh (p.an a)
    obtain ⟨hbad, hrag, hpoison, hexact, hstaged, hmember, htype⟩ := h hh
    rw [hg] at hbad hrag hpoison hexact hmember
    rw [hD] at hstaged htype
    have hmeet : u.meetTable (u.rg (p.an a)) = u := by
      rw [State.meetTable, State.meetLines, if_pos hflaws, ite_self]
    have hone : (one && decide (volume (u.boxes (u.rg (p.an a))) ≤ memberNo p u)) = false := by
      cases one with
      | false => rfl
      | true => simpa using hmember rfl
    have helem : (elem && (u.desc (u.rg (p.an a)).desc).tyOf == .q4n) = false := by
      cases elem with
      | false => rfl
      | true => simpa using htype rfl
    rw [withRegion, hbad]
    dsimp only
    rw [hrag, hpoison]
    dsimp only
    rw [hmeet, hexact, hstaged, hone, helem]
    rfl

theorem stageRights_pass {u : State} {g : GReg} {D : Desc} {bs : List NBox} {rights : List Nat}
    (h : u.held = none → checkRights u g.desc D bs rights = none) : stageRights g D bs rights u = none := by
  unfold stageRights
  cases hh : u.held with
  | some c => rfl
  | none => exact h hh

theorem State.meetProt_of_sound {u : State} (h : u.flaws = []) : u.meetProt = u := by
  rw [State.meetProt, State.meetFlaw, h]; rfl

/-- The stage instruction waits for no own store to its table when it issues. -/
theorem stage_ready {p : Pfx} {a : BitVec 4} {one elem : Bool} {s : State} {n m : Nat} (body : State → Res) (hsid : s.sid ≤ 10)
    (h : (s.charged n m).held = none → StageUsable (s.charged n m) p a one elem) : (stageShape p a one elem body).ready s = true := by
  show (s.held.isSome || !s.ragWait (s.rg (p.an a))) = true
  rw [s.held_charged n m hsid] at h
  cases hh : s.held with
  | some c => rfl
  | none =>
    obtain ⟨-, hrag, -⟩ := h hh
    rw [(State.operand_of_free ((s.held_charged n m hsid).trans hh) _).1, s.rg_charged, s.ragWait_charged n m _ hsid] at hrag
    rw [hrag]; rfl

/-! ### The step -/

/-- The state that a run of steps that is done leaves: the value written, the acquire performed. -/
def stageEnd (r : StageReq) (w : State) (v : Option Word) (o : BitVec 2) : State :=
  if o.getLsbD 0 then (match v with | some v => w.ws r.dest v | none => w).acquire r.scope
  else (match v with | some v => w.ws r.dest v | none => w)

theorem stageGo_done {r : StageReq} {u w : State} {v : Option Word} {o : BitVec 2} (hrel : u.stageRel r = true → u.released r.scope = true)
    (hrun : stageRun u.tid r .issue none r.order r.grans (stageFrom r u) = .done w v o) : stageGo r u = .ok (stageEnd r w v o) := by
  unfold stageGo
  rw [if_neg, ← stageFrom, hrun]
  · cases v <;> rfl
  · intro h
    rw [Bool.and_eq_true, Bool.not_eq_true'] at h
    rw [hrel h.1] at h
    exact absurd h.2 (by decide)

/-- A step of TRN gives no value (R257). -/
theorem stageRun_trn {t : Nat} {r : StageReq} (hop : r.op = .trn) (ls : List (Nat × GLoc)) {at_ : StageAt} {o o' : BitVec 2} {s w : State}
    {v : Option Word} (h : stageRun t r at_ none o ls s = .done w v o') : v = none := by
  induction ls generalizing at_ o s with
  | nil =>
    rw [stageRun] at h
    cases h; rfl
  | cons x ls ih =>
    obtain ⟨g, l⟩ := x
    have hdata (u : State) : (stageData u t r).1 = none := by
      unfold stageData
      rw [hop]
    rw [stageRun] at h
    dsimp only at h
    split at h
    · split at h <;> cases h
    · split at h
      · cases h
      · split at h
        · cases h
        · split at h <;> cases h
      · rw [hdata] at h
        exact ih h
      · exact ih h

/-- The members and granules that a stage instruction works on. -/
def stageGrans (op : StageOp) (p : Pfx) (a : BitVec 4) (u : State) : List Nat :=
  if op != .trn then [(u.dOp (p.an a)).granule (stageMember p a u)] else (u.dOp (p.an a)).granules (u.boxesOp (p.an a))
def stageBoxes (op : StageOp) (p : Pfx) (a : BitVec 4) (u : State) : List NBox :=
  if op != .trn then [pointBox (stageMember p a u)] else u.boxesOp (p.an a)
/-- The key of the element of LDS and STS; TRN has none. -/
def stageKey (op : StageOp) (p : Pfx) (a : BitVec 4) (u : State) : Except Res (Option Nat) :=
  if op != .trn then elemKey u (u.dOp (p.an a)) (if op = .lds then .read else .write) (stageMember p a u) else .ok none

theorem stageOp_step {i : Instr} {p : Pfx} {d a : BitVec 4} {op : StageOp} {rights : List Nat} {u : State} {ls : List (Nat × GLoc)}
    {pa : Option Nat} (hflaws : u.flaws = []) (husable : u.held = none → StageUsable u p a (op != .trn) (op != .trn))
    (hrights : u.held = none → checkRights u (u.gOp (p.an a)).desc (u.dOp (p.an a)) (stageBoxes op p a u) rights = none)
    (hheld : u.ctx.accessHeld = false) (hls : granLocs u (u.dOp (p.an a)) (stageGrans op p a u) = .ok ls)
    (hkey : stageKey op p a u = .ok pa) (hwords : u.wordsBusy ls = false)
    (htouch : ∀ k, pa = some k → u.pendTouches k (u.dOp (p.an a)).tyOf.bytes = false) :
    stageOp i p d a op rights u = stageGo (stageReqOf op i p d a (u.dOp (p.an a)) ls pa u) u := by
  have hany : (pa.any fun k => u.pendTouches k (u.dOp (p.an a)).tyOf.bytes) = false := by
    cases pa with
    | none => rfl
    | some k => exact htouch k rfl
  unfold stageGrans at hls
  unfold stageKey at hkey
  unfold stageOp
  dsimp only
  rw [stageCheck_pass _ hflaws husable]
  have hr := stageRights_pass (D := u.dOp (p.an a)) (bs := stageBoxes op p a u) (rights := rights) (g := u.gOp (p.an a)) hrights
  unfold stageBoxes at hr
  rw [hr]
  dsimp only
  rw [hheld, if_neg Bool.false_ne_true, hls]
  dsimp only
  rw [hkey]
  dsimp only
  rw [hwords, hany, State.meetProt_of_sound hflaws]
  rfl

/-! ### What a stage instruction answers -/

/-- The context written is the acting one, or its slot does not exist and nothing is paid there. -/
theorem State.ctx_setCtx_or (s : State) (c : Ctx) : (s.setCtx c).ctx = c ∨ (s.setCtx c).ctx.paid = none := by
  by_cases h : s.sid ≤ 10
  · exact .inl (s.ctx_setCtx c h)
  · have hout : (s.setCtx c).ctx = Ctx.reset := by
      show vget (s.setCtx c).myCell.slots s.sid Ctx.reset = Ctx.reset
      rw [vget, Vector.getElem?_eq_none (by omega)]; rfl
    exact .inr (hout ▸ rfl)
theorem State.paid_setCtx (s : State) {c : Ctx} (h : c.paid = none) : (s.setCtx c).ctx.paid = none := by
  rcases s.ctx_setCtx_or c with e | e
  · rw [e, h]
  · exact e

theorem CellsKept.paid_ctx {s t : State} (h : CellsKept s t) (hp : s.ctx.paid = none) : t.ctx.paid = none := by
  rw [State.ctx, h.cid_eq, h.sid_eq]
  exact h.paid _ _ hp

theorem State.doubleTrap_eq (s : State) (e : Err) :
    ∃ c : Ctx, c.paid = none ∧ ∃ n va who, s.doubleTrap e = ((s.setCtx c).sendFault n va who).2 :=
  ⟨_, rfl, _, _, _, rfl⟩
theorem State.paid_doubleTrap (s : State) (e : Err) : (s.doubleTrap e).ctx.paid = none := by
  obtain ⟨c, hc, n, va, who, h⟩ := s.doubleTrap_eq e
  rw [h]
  exact ((s.setCtx c).sendFault_kept n va who).paid_ctx (s.paid_setCtx hc)
theorem Ctx.paid_leaving (c : Ctx) (r : BitVec 3) : { c.settle with wait := .leaving r }.paid = none := rfl
theorem Ctx.paid_enter (c : Ctx) (first : Word) (e : Err) (n : Nat) : (c.enter first e n).paid = none := rfl
theorem State.paid_ite {p : Prop} [Decidable p] {s t : State} (hs : s.ctx.paid = none) (ht : t.ctx.paid = none) :
    (if p then s else t).ctx.paid = none := by
  split
  · exact hs
  · exact ht
theorem State.paid_takeTrap (s : State) (e : Err) (n : Nat) : (s.takeTrap e n).ctx.paid = none :=
  State.paid_ite (State.paid_doubleTrap _ e) (State.paid_setCtx _ (Ctx.paid_enter _ _ _ _))
theorem State.paid_beginYield (s : State) (r : BitVec 3) (n : Nat) : (s.beginYield r n).ctx.paid = none :=
  State.paid_ite (State.paid_takeTrap _ _ _) (State.paid_ite (State.paid_takeTrap _ _ _) (s.paid_setCtx (Ctx.paid_leaving _ _)))
theorem State.paid_settle_addPc (s : State) (n : Nat) : (s.settle.addPc n).ctx.paid = none :=
  State.paid_setCtx _ (s.paid_setCtx rfl)

/-- The answers of a stage instruction: of those that wait, only `hold` and `miss` have paid and not yet joined a park queue. -/
def Res.stageEnds : Res → Prop
  | .ok _ | .trap _ | .trapOnly _ _ | .hold | .miss _ _ | .parked _ | .stall => True
  | .left s => s.ctx.paid = none
  | _ => False

theorem withRegion_stageEnds {g : GReg} {b : Bool} {s : State} {k : State → Res} (h : ∀ t, (k t).stageEnds) : (withRegion g b s k).stageEnds := by
  unfold withRegion
  split
  · trivial
  · split
    · trivial
    · split
      · trivial
      · exact h _

theorem stageCheck_stageEnds {p : Pfx} {a : BitVec 4} {one elem : Bool} {s : State} {k : State → Res} (h : ∀ t, (k t).stageEnds) :
    (stageCheck p a one elem s k).stageEnds := by
  unfold stageCheck
  dsimp only
  split
  · exact h s
  · refine withRegion_stageEnds fun t => ?_
    split_ifs
    · trivial
    · trivial
    · trivial
    · trivial
    · exact h t

theorem accRes_stageEnds (s : State) (va : Word) (kind : AccKind) (a : Acc) : (accRes s va kind a).stageEnds := by
  unfold accRes State.refuse
  split
  · trivial
  · split <;> trivial
  · trivial

theorem granLocs_stageEnds {s : State} {D : Desc} {l : List Nat} {r : Res} (h : granLocs s D l = .error r) : r.stageEnds := by
  induction l generalizing r with
  | nil => cases h
  | cons i l ih =>
    unfold granLocs at h
    split at h
    · cases h
      exact accRes_stageEnds _ _ _ _
    · split at h
      · cases h; trivial
      · split at h
        · next e => cases h; exact ih e
        · cases h

theorem elemKey_stageEnds {s : State} {D : Desc} {need : Need} {x : List Nat} {r : Res} (h : elemKey s D need x = .error r) : r.stageEnds := by
  unfold elemKey at h
  split at h
  · cases h
  · dsimp only at h
    split at h
    · cases h
    · cases h
      exact accRes_stageEnds _ _ _ _

theorem stageGo_stageEnds (r : StageReq) (s : State) : (stageGo r s).stageEnds := by
  unfold stageGo
  split
  · trivial
  · split
    · trivial
    · split
      · exact State.paid_setCtx _ rfl
      · trivial
    · trivial
    · trivial
    · trivial

theorem stageOp_stageEnds (i : Instr) (p : Pfx) (d a : BitVec 4) (op : StageOp) (rights : List Nat) (s : State) :
    (stageOp i p d a op rights s).stageEnds := by
  unfold stageOp
  refine stageCheck_stageEnds fun s' => ?_
  split
  · trivial
  · split
    · trivial
    · split
      · next e => exact granLocs_stageEnds e
      · split
        · next e =>
          split at e
          · exact elemKey_stageEnds e
          · cases e
        · split
          · trivial
          · exact stageGo_stageEnds _ _

/-! ### What an instruction that has paid and waits keeps (04 R79) -/

/-- What an answer of a stage instruction leaves: nothing is paid, or the step has parked, or the capture is kept. -/
theorem finish_captures {i : Instr} {s u : State} {k n m : Nat} {r : Res} {c : Cap} (hr : r.stageEnds) (hpaid : s.ctx.paid = none)
    (hcap : s.capture i = some c) (t : State) (ht : t = keepCap i r s (finish k s u n m r)) :
    t.ctx.paid = none ∨ t.ctx.wait = .stage ∨ t.ctx.cap = some c := by
  have hkeep (hw : r.waits = true) (v : State) : keepCap i r s v = v.setCtx { v.ctx with cap := some c } := by
    rw [keepCap, hw, hpaid, hcap]; rfl
  cases r with
  | ok v =>
    rw [keepCap_done rfl] at ht
    exact .inl (ht ▸ v.paid_settle_addPc k)
  | left v =>
    rw [keepCap_done rfl] at ht
    exact .inl (ht ▸ hr)
  | trap e | trapOnly f e =>
    rw [keepCap_done rfl] at ht
    exact .inl (ht ▸ State.paid_takeTrap _ _ _)
  | hold | miss va a =>
    rw [hkeep rfl] at ht
    subst ht
    rcases State.ctx_setCtx_or _ _ with e | e
    · exact .inr (.inr (e ▸ rfl))
    · exact .inl e
  | parked v =>
    rw [keepCap_done rfl] at ht
    subst ht
    rcases v.ctx_setCtx_or (v.ctx.waitAs n m .stage) with e | e
    · exact .inr (.inl ((congrArg Ctx.wait e).trans rfl))
    · exact .inl e
  | stall =>
    rw [keepCap_done rfl, finish, hpaid] at ht
    exact .inl (ht ▸ hpaid)
  | goto | trapKeep | poll | pollAs | closing | streamWait | missIn | missFirst | stallFor => exact hr.elim

theorem issue_captures {i : Instr} {sh : Shape} {s t : State} {c : Cap} (hq : sh.queues = false) (hearly : sh.early s = none)
    (hgm : sh.gm ≠ .push) (hbody : ∀ u, (sh.body u).stageEnds) (hpaid : s.ctx.paid = none) (hcap : s.capture i = some c)
    (he : issue i sh s = .next t) : t.ctx.paid = none ∨ t.ctx.wait = .stage ∨ t.ctx.cap = some c := by
  have htrap (u : State) (e : Err) (n : Nat) (h : (.next (u.takeTrap e n) : Result) = .next t) : t.ctx.paid = none := by
    cases h
    exact u.paid_takeTrap e n
  have hsame (h : (.next s : Result) = .next t) : t.ctx.paid = none := by
    cases h
    exact hpaid
  have hrun (u : State) : (runBody i sh u).stageEnds := by
    unfold runBody
    split
    · trivial
    · exact hbody _
  unfold issue at he
  dsimp only at he
  split at he
  · exact .inl (hsame he)
  · split at he
    · exact .inl (htrap _ _ _ he)
    · split at he
      · exact .inl (htrap _ _ _ he)
      · split at he
        · exact .inl (htrap _ _ _ he)
        · next g hg =>
          split at he
          · exact .inl (htrap _ _ _ he)
          · split at he
            · exact .inl (hsame he)
            · rw [hearly, ite_self, hq] at he
              dsimp only at he
              split at he
              · cases he
                exact .inl (State.paid_beginYield _ _ _)
              · cases he
                refine finish_captures ?_ hpaid hcap _ rfl
                split
                · exact hrun _
                · trivial

end Sys2Proof.Machine
end

section
/-! O40: LDS, STS, TRN, STQ and AUTLD. -/

namespace Sys2Proof.Proofs

open Sys2Proof Sys2Proof.Machine Sys2Proof.Claims

/-- The end of a step of LDS or STS, as the obligation has it. -/
theorem stage_one {mk : Pfx → BitVec 4 → BitVec 4 → Instr} {op : StageOp} {need : Need} {rights : List Nat} (hop : (op != .trn) = true)
    (hneed : (if op = .lds then Need.read else .write) = need)
    (hexec : ∀ p d a s, exec (mk p d a) s = issue (mk p d a) (stageShape p a true true (stageOp (mk p d a) p d a op rights)) s) :
    StageOne mk op need rights := by
  rintro p d a s m u g D x ls pa r w v o rfl rfl h hsound rfl rfl rfl husable hheld hls hwords hkey htouch rfl hrel hrun
  have hsid := State.issues_sid h
  have hflaws : (s.charged 2 (stageCost p a true true s)).flaws = [] := (s.charged_flaws _ _).trans hsound.2
  have hok : (s.charged 2 (stageCost p a true true s)).held = none → StageUsable (s.charged 2 (stageCost p a true true s)) p a true true := by
    intro hh
    obtain ⟨hbad, hrag, hpoison, hexact, hstaged, hmember, htype, -⟩ := husable hh
    exact ⟨hbad, hrag, hpoison, hexact, hstaged, fun _ => hmember, fun _ => htype⟩
  rw [hexec]
  refine issue_region_ok (sh := stageShape p a true true (stageOp (mk p d a) p d a op rights)) h (.inl rfl) rfl
    (stage_ready _ hsid hok) rfl hsound ?_
  refine (stageOp_step hflaws (by rwa [hop]) ?_ hheld (ls := ls) (pa := pa) ?_ ?_ hwords htouch).trans (stageGo_done hrel hrun)
  · intro hh
    rw [stageBoxes, if_pos hop]
    obtain ⟨-, -, -, -, -, -, -, hrights⟩ := husable hh
    exact hrights
  · rw [stageGrans, if_pos hop]
    exact hls
  · rw [stageKey, if_pos hop, hneed]
    exact hkey

theorem trn_done {p : Pfx} {d a : BitVec 4} {s : State} {m : Nat} {u : State} {D : Desc} {ls : List (Nat × GLoc)} {r : StageReq} {w : State}
    {v : Option Word} {o : BitVec 2} (hm : m = stageCost p a false false s) (hu : u = s.charged 2 m)
    (h : s.issues (.trn p d a) .plain 2 m = true) (hsound : Sound (.trn p d a) s) (hD : D = u.dOp (p.an a))
    (husable : u.held = none → StageUsable u p a false false)
    (hrights : u.held = none → checkRights u (u.gOp (p.an a)).desc D (u.boxesOp (p.an a)) [2] = none) (hheld : u.ctx.accessHeld = false)
    (hls : granLocs u D (D.granules (u.boxesOp (p.an a))) = .ok ls) (hwords : u.wordsBusy ls = false)
    (hr : r = stageReqOf .trn (.trn p d a) p d a D ls none u) (hrel : u.stageRel r = true → u.released r.scope = true)
    (hrun : stageRun u.tid r .issue none r.order ls (stageFrom r u) = .done w v o) :
    exec (.trn p d a) s = .next ((stageEnd r w v o).done (.trn p d a)) := by
  subst hm hu hD hr
  refine issue_region_ok (sh := stageShape p a false false (stageOp (.trn p d a) p d a .trn [2])) h (.inl rfl) rfl
    (stage_ready _ (State.issues_sid h) husable) rfl hsound ?_
  exact (stageOp_step (pa := none) ((s.charged_flaws _ _).trans hsound.2) husable hrights hheld hls rfl hwords nofun).trans (stageGo_done hrel hrun)

/-- What the read of a granule's state does to the memory path leaves the state as it is. -/
theorem State.granState_meetGran {v : State} (h : v.flaws = []) (t : Nat) (l : GLoc) : (v.meetGran t l).granState l = v.granState l := by
  cases l with
  | word pa k => rw [State.meetGran, State.meetLines, if_pos h]; rfl
  | ctl t n => rfl

theorem stq_done {p : Pfx} {d a : BitVec 4} {s : State} {m : Nat} {u v : State} {i : Nat} {l : GLoc} (hm : m = stageCost p a true false s)
    (hu : u = s.charged 2 m) (h : s.issues (.stq p d a) .plain 2 m = true) (hsound : Sound (.stq p d a) s)
    (husable : u.held = none → StageUsable u p a true false)
    (hrights : u.held = none → checkRights u (u.gOp (p.an a)).desc (u.dOp (p.an a)) [pointBox (stageMember p a u)] [2] = none)
    (hheld : u.ctx.accessHeld = false) (hrel : pRel p = true → u.released (pScope p) = true) (hv : v = released p u)
    (hls : granLocs v (u.dOp (p.an a)) [(u.dOp (p.an a)).granule (stageMember p a u)] = .ok [(i, l)])
    (hwords : v.wordsBusy [(i, l)] = false) :
    exec (.stq p d a) s = .next ((withAcquire p ((v.meetGran v.tid l).ws (p.dn d) (BitVec.ofNat 64 (v.granState l)))).done (.stq p d a)) := by
  subst hm hu
  have hflaws : (s.charged 2 (stageCost p a true false s)).flaws = [] := (s.charged_flaws _ _).trans hsound.2
  have hvflaws : v.flaws = [] := by rw [hv, released_flaws, hflaws]
  refine issue_region_ok h (.inl rfl) rfl (stage_ready _ (State.issues_sid h) husable) rfl hsound ?_
  dsimp only [stageShape, memory]
  rw [stageCheck_pass _ hflaws husable, stageRights_pass hrights]
  dsimp only
  rw [hheld, if_neg Bool.false_ne_true, withRelease_done _ hrel, ← hv, hls]
  dsimp only
  rw [hwords, if_neg Bool.false_ne_true, State.meetProt_of_sound hvflaws]
  simp only [List.foldl_cons, List.foldl_nil]
  rw [State.granState_meetGran hvflaws]

theorem autld_done {p : Pfx} {d a : BitVec 4} {s : State} {m : Nat} {u w : State} {img : List Byte}
    (hm : m = bulkTraffic s (s.rs (p.an a)) 128) (hu : u = s.charged 2 m) (h : s.issues (.autld p d a) .plain 2 m = true) (hd : d ≠ 0#4)
    (halign : (s.rs (p.an a)).toNat % 16 = 0) (hheld : u.ctx.accessHeld = false) (himg : readPieces u (s.rs (p.an a)) 8 = .ok img)
    (hbusy : u.autBusy u.asid d = false)
    (hgood : (img.any fun b => (entAct (b.toNat % 128) == .ok || entAct (b.toNat % 128) == .noData) &&
      decide (stateCount img ≤ entNext (b.toNat % 128))) = false)
    (hrel : u.released 4 = true) (hw : w = (u.touchAll (pieces (s.rs (p.an a)) 16 8) 16).release 4) :
    exec (.autld p d a) s = .next (({ w with auts := mset w.auts (w.asid.toNat * 16 + d.toNat) img } : State).done (.autld p d a)) := by
  subst hm hu hw
  refine issue_ok h (.inl rfl) rfl rfl rfl rfl ?_
  dsimp only [memory]
  rw [opA_charged p a _ _ (State.issues_sid h), if_neg hd, if_neg (not_not_intro halign), hheld, if_neg Bool.false_ne_true, himg]
  dsimp only
  rw [hbusy, if_neg Bool.false_ne_true, hgood, if_neg Bool.false_ne_true, hrel]
  rfl

/-- Settles O40: LDS, STS and TRN are `stageOp`, whose checks pass and whose stage step is that of the granules; STQ and AUTLD by their reads and writes. -/
theorem stageResults : Obligations.StageResults := by
  unfold Obligations.StageResults
  refine ⟨stage_one rfl rfl fun _ _ _ _ => rfl, stage_one rfl rfl fun _ _ _ _ => rfl, ?trn, ?captures, ?held, ?free, ?stq, ?autld⟩
  case trn =>
    rintro p d a s m u g D ls r w v o hm hu h hsound rfl rfl husable hheld hls hwords hr hrel hrun
    have hop : r.op = .trn := hr ▸ rfl
    obtain rfl := stageRun_trn hop ls hrun
    refine ⟨rfl, trn_done hm hu h hsound rfl (fun hh => ?_) (fun hh => ?_) hheld hls hwords hr hrel hrun⟩
    · obtain ⟨hbad, hrag, hpoison, hexact, hstaged, -⟩ := husable hh
      exact ⟨hbad, hrag, hpoison, hexact, hstaged, nofun, nofun⟩
    · obtain ⟨-, -, -, -, -, hrights⟩ := husable hh
      obtain ⟨hg, -, hboxes, -⟩ := State.operand_of_free hh (p.an a)
      rw [hboxes, ← hg]
      exact hrights
  case captures =>
    intro mk hmk p d a s t hpaid he hsome hwait
    have hnone : t.ctx.paid ≠ none := fun h => by rw [h] at hsome; cases hsome
    suffices t.ctx.paid = none ∨ t.ctx.wait = .stage ∨ t.ctx.cap = some ⟨s.rg (p.an a), s.desc (s.rg (p.an a)).desc,
        s.lens (s.rg (p.an a)) (s.desc (s.rg (p.an a)).desc).n, []⟩ from (this.resolve_left hnone).resolve_left hwait
    simp only [List.mem_cons, List.not_mem_nil, or_false] at hmk
    rcases hmk with rfl | rfl | rfl
    · exact issue_captures (sh := stageShape p a true true (stageOp (.lds p d a) p d a .lds [0, 2])) rfl rfl nofun
        (stageOp_stageEnds _ _ _ _ _ _) hpaid rfl he
    · exact issue_captures (sh := stageShape p a true true (stageOp (.sts p d a) p d a .sts [1, 2])) rfl rfl nofun
        (stageOp_stageEnds _ _ _ _ _ _) hpaid rfl he
    · exact issue_captures (sh := stageShape p a false false (stageOp (.trn p d a) p d a .trn [2])) rfl rfl nofun
        (stageOp_stageEnds _ _ _ _ _ _) hpaid rfl he
  case held =>
    intro s n k hpaid hcap
    exact State.operand_of_held (by rw [State.held, hpaid, if_pos rfl, hcap]) n
  case free =>
    intro s n hpaid
    exact State.operand_of_free (by rw [State.held, hpaid]; rfl) n
  case stq =>
    rintro p d a s m u v g D x i l hm hu h hsound rfl rfl rfl husable hheld hrel hv hls hwords
    refine stq_done hm hu h hsound (fun hh => ?_) (fun hh => ?_) hheld hrel hv hls hwords
    · obtain ⟨hbad, hrag, hpoison, hexact, hstaged, hmember, -⟩ := husable hh
      exact ⟨hbad, hrag, hpoison, hexact, hstaged, fun _ => hmember, nofun⟩
    · obtain ⟨-, -, -, -, -, -, hrights⟩ := husable hh
      exact hrights
  case autld =>
    intro p d a s m u w img hm hu h hd halign hheld himg hbusy hgood hrel hw
    exact autld_done hm hu h hd halign hheld himg hbusy hgood hrel hw

end Sys2Proof.Proofs
end

section
/-! Tasks (12 R298 to R308, 04 R95): what SPAWN, START, HJOIN, SUSP and EXIT do to the charged state. -/

namespace Sys2Proof.Machine

open Sys2Proof.Claims

/-! ### Instructions that leave or wait -/

section

variable {i : Instr} {sh : Shape} {s : State} {n m : Nat} (h : s.issues i sh.gm n m = true) (hk : sh.kernel = false ∨ s.ctx.user = false)
  (ho : sh.own s = none) (hr : sh.ready s = true) (hc : sh.cost s = (n, m)) (hg : readRegions i = [])

include h hk ho hr hc hg

/-- An instruction that leaves its slot leaves the state that its meaning gives. -/
theorem issue_left {t : State} (hb : sh.body (s.charged n m) = .left t) (hearly : sh.early s = none := by rfl)
    (hq : sh.queues = false := by rfl) : issue i sh s = .next t := by
  rw [issue_eq h hk ho hr hc hg hearly hq, hb, keepCap_done rfl]; rfl
theorem issue_poll (hb : sh.body (s.charged n m) = .poll) (hearly : sh.early s = none := by rfl)
    (hq : sh.queues = false := by rfl) : issue i sh s = .next ((s.charged n m).setCtx ((s.charged n m).ctx.waitAs n m .poll)) := by
  rw [issue_eq h hk ho hr hc hg hearly hq, hb, keepCap_done rfl]; rfl
/-- One that waits for its queues has its bindings released behind them (08 R207). -/
theorem issue_closing (hb : sh.body (s.charged n m) = .closing) (hearly : sh.early s = none := by rfl)
    (hq : sh.queues = false := by rfl) :
    issue i sh s = .next ((s.charged n m).closeStreams.setCtx ((s.charged n m).ctx.waitAs n m .hold)) := by
  rw [issue_eq h hk ho hr hc hg hearly hq, hb, keepCap_done rfl]; rfl

end

theorem pushTrue_ok {s t : State} (hb : s.spillBusy = false) (h : s.push ⟨true, BitVec.allOnes 32⟩ = some t) : pushTrue s = .ok t := pushRes_ok hb h
theorem pushFalse_ok {s t : State} (hb : s.spillBusy = false) (h : s.push ⟨false, 0#32⟩ = some t) : pushFalse s = .ok t := pushRes_ok hb h

/-! ### SPAWN (R305) -/

/-- The state from which a SPAWN that is taken pushes true: record read, release done, units carved, place reserved, record sent. -/
def spawnSent (va : Word) (r : Vector Word 8) (v sc ci cm : Nat) (u : State) : State :=
  let x := (u.touchAll (pieces va 16 4) 16).release sc
  let y := x.setCtx (x.ctx.carve ci cm)
  let y := if u.asidOf v == u.asid then y.setTile v { y.tile v with resv := (y.tile v).resv + 1 } else y
  y.post y.cid (.spawn (BitVec.ofNat 12 v) r (!u.ctx.user) (u.asidOf v == u.asid) (spaceTag y.asid) sc)

/-- SPAWN once its record `r` is read: whether tile `v` and the units take it. -/
def spawnRecord (va : Word) (r : Vector Word 8) (v sc ci cm : Nat) (u : State) : Res :=
  if !((u.tile v).accepts || !(u.asidOf v == u.asid)) || !u.ctx.canCarve ci cm then pushFalse u
  else if !u.released sc then .hold
  else pushTrue (spawnSent va r v sc ci cm u)

/-- The units that a record asks for. -/
def spawnUnits (r : Vector Word 8) (o : Nat) : Nat :=
  ((vget r 5 0#64).extractLsb' o 32).toNat + ((vget r 6 0#64).extractLsb' o 32).toNat
/-- The tile that takes the record, and the scope of its release. -/
def spawnTo (w : Word) (u : State) : Nat := if w.getLsbD 12 then u.spawnTile (w.extractLsb' 0 12).toNat else (w.extractLsb' 0 12).toNat
def spawnScope (w : Word) (u : State) : Nat := if w.getLsbD 12 then 2 else scopeOf u.tid (spawnTo w u)

theorem exec_spawn {p : Pfx} {d a : BitVec 4} {s z : State} {bs : List Byte}
    (h : s.issues (.spawn p d a) .push 2 (bulkTraffic s (s.rs (p.an a)) 64) = true) (halign : (s.rs (p.an a)).toNat % 64 = 0)
    (htile : ((s.rs (p.dn d)).extractLsb' 0 12).toNat < 2560)
    (hheld : (s.charged 2 (bulkTraffic s (s.rs (p.an a)) 64)).ctx.accessHeld = false)
    (hbs : readPieces (s.charged 2 (bulkTraffic s (s.rs (p.an a)) 64)) (s.rs (p.an a)) 4 = .ok bs)
    (hrec : spawnRecord (s.rs (p.an a)) (execSpawn.accWords bs) (spawnTo (s.rs (p.dn d)) (s.charged 2 (bulkTraffic s (s.rs (p.an a)) 64)))
      (spawnScope (s.rs (p.dn d)) (s.charged 2 (bulkTraffic s (s.rs (p.an a)) 64))) (spawnUnits (execSpawn.accWords bs) 0)
      (spawnUnits (execSpawn.accWords bs) 32) (s.charged 2 (bulkTraffic s (s.rs (p.an a)) 64)) = .ok z) :
    exec (.spawn p d a) s = .next (z.done (.spawn p d a)) := by
  have hsid := State.issues_sid h
  refine issue_ok h (.inl rfl) rfl rfl rfl rfl ?_
  dsimp only [pushing]
  rw [opA_charged p a _ _ hsid, opD_charged p d _ _ hsid, if_neg (not_not_intro halign), if_neg (show ¬ computeTiles ≤ _ from Nat.not_le.2 htile), hheld,
    if_neg Bool.false_ne_true, hbs]
  exact hrec

theorem spawnRecord_sent {va : Word} {r : Vector Word 8} {v sc ci cm : Nat} {u z : State}
    (htaken : (u.tile v).accepts = true ∨ u.asidOf v ≠ u.asid) (hcarve : u.ctx.canCarve ci cm = true) (hrel : u.released sc = true)
    (hbusy : (spawnSent va r v sc ci cm u).spillBusy = false) (hpush : (spawnSent va r v sc ci cm u).push ⟨true, BitVec.allOnes 32⟩ = some z) :
    spawnRecord va r v sc ci cm u = .ok z := by
  have ht : ((u.tile v).accepts || !(u.asidOf v == u.asid)) = true := by simpa using htaken
  rw [spawnRecord, ht, hcarve, hrel]
  exact pushTrue_ok hbusy hpush

theorem spawnRecord_refused {va : Word} {r : Vector Word 8} {v sc ci cm : Nat} {u z : State}
    (h : (u.tile v).accepts = false ∧ u.asidOf v = u.asid ∨ u.ctx.canCarve ci cm = false) (hbusy : u.spillBusy = false)
    (hpush : u.push ⟨false, 0#32⟩ = some z) : spawnRecord va r v sc ci cm u = .ok z := by
  rw [spawnRecord, if_pos (by simpa using h)]
  exact pushFalse_ok hbusy hpush

/-! ### START (R306) -/

/-- The state from which a START pushes true: units carved, the frame set up, the helper in slot `n`, its entry made, its frame in `dst`. -/
def helperStarted (entry arg : Word) (iu mu : BitVec 32) (n : Nat) (f : Word) (key dst : Nat) (u : State) : State :=
  let x := u.setCtx (u.ctx.carve iu.toNat mu.toNat)
  let y := x.initFrame x.tid f key entry iu mu (helperJoin x.myPrio u.ctx.bpol (x.cid % 16)) (x.cid % 16)
  let z := y.setLive y.cid n { (y.ctxAt y.cid n).fresh true with
    pc := entry, ident := f, ibud := ⟨false, iu⟩, mbud := ⟨false, mu⟩, bpol := u.ctx.bpol
    regs := vset ((y.ctxAt y.cid n).fresh true).regs 0 arg }
  let w := z.setMyCell { z.myCell with hjoin := z.myCell.hjoin ++ [⟨f, u.ctx.ident, false, 0#32, 0#32⟩] }
  w.ws dst f

/-- START with an even entry: whether a slot, a frame, an entry and the units are there. -/
def startHelper (entry arg : Word) (iu mu : BitVec 32) (dst : Nat) (u : State) : Res :=
  match u.helperSlot u.cid, u.newFrame u.tid with
  | some n, some (f, key) =>
    if 16 ≤ u.myCell.hjoin.length || !u.ctx.canCarve iu.toNat mu.toNat then pushFalse u
    else if !u.released 0 then .hold
    else pushTrue (helperStarted entry arg iu mu n f key dst u)
  | _, _ => pushFalse u

theorem opE_charged (p : Pfx) {s : State} (n m : Nat) (h : s.sid ≤ 10) : opE p (s.charged n m) = s.rs p.en := s.rs_charged n m _ h

theorem exec_start {p : Pfx} {d a : BitVec 4} {s z : State} (h : s.issues (.start p d a) .push 2 0 = true)
    (heven : (s.rs (p.an a)).getLsbD 0 = false)
    (hstart : startHelper (s.rs (p.an a)) (s.rs (p.dn d)) ((s.rs p.en).extractLsb' 0 32) ((s.rs p.en).extractLsb' 32 32) (p.dn d)
      (s.charged 2 0) = .ok z) : exec (.start p d a) s = .next (z.done (.start p d a)) := by
  have hsid := State.issues_sid h
  refine issue_ok h (.inl rfl) rfl rfl rfl rfl ?_
  dsimp only [pushing]
  rw [opA_charged p a _ _ hsid, opE_charged p _ _ hsid, opD_charged p d _ _ hsid, heven, if_neg Bool.false_ne_true]
  exact hstart

theorem startHelper_started {entry arg : Word} {iu mu : BitVec 32} {n : Nat} {f : Word} {key dst : Nat} {u z : State}
    (hslot : u.helperSlot u.cid = some n) (hframe : u.newFrame u.tid = some (f, key)) (hroom : u.myCell.hjoin.length < 16)
    (hcarve : u.ctx.canCarve iu.toNat mu.toNat = true) (hrel : u.released 0 = true)
    (hbusy : (helperStarted entry arg iu mu n f key dst u).spillBusy = false)
    (hpush : (helperStarted entry arg iu mu n f key dst u).push ⟨true, BitVec.allOnes 32⟩ = some z) :
    startHelper entry arg iu mu dst u = .ok z := by
  rw [startHelper, hslot, hframe]
  dsimp only
  rw [decide_eq_false (Nat.not_le.2 hroom), hcarve, hrel]
  exact pushTrue_ok hbusy hpush

theorem startHelper_refused {entry arg : Word} {iu mu : BitVec 32} {dst : Nat} {u z : State}
    (h : u.helperSlot u.cid = none ∨ u.newFrame u.tid = none ∨ 16 ≤ u.myCell.hjoin.length ∨ u.ctx.canCarve iu.toNat mu.toNat = false)
    (hbusy : u.spillBusy = false) (hpush : u.push ⟨false, 0#32⟩ = some z) : startHelper entry arg iu mu dst u = .ok z := by
  have hfalse := pushFalse_ok hbusy hpush
  unfold startHelper
  split
  · next n f key hslot hframe =>
    rw [hslot, hframe] at h
    rw [if_pos (by simpa using h)]
    exact hfalse
  · exact hfalse

/-! ### HJOIN (R307) -/

/-- The entry of the helper `f` that the acting context started. -/
def State.helperOf (s : State) (f : Word) : Option HJoin := s.myCell.hjoin.find? fun e => e.helper == f && e.starter == s.ctx.ident

/-- HJOIN of the helper `f`, charged. -/
def joinHelper (f : Word) (u : State) : Res :=
  match u.helperOf f with
  | none => .ok u
  | some e =>
    if !e.done then .poll
    else
      let x := u.acquire 0
      let y := x.setCtx (x.ctx.addAllow e.iref e.mref)
      .ok (y.setMyCell { y.myCell with hjoin := y.myCell.hjoin.erase e })

section

variable {p : Pfx} {d a : BitVec 4} {s : State} (h : s.issues (.hjoin p d a) .plain 2 0 = true)

include h

theorem hjoin_body {r : Res} (hjoin : joinHelper (s.rs (p.an a)) (s.charged 2 0) = r) :
    joinHelper (opA p a (s.charged 2 0)) (s.charged 2 0) = r := by
  rwa [opA_charged p a _ _ (State.issues_sid h)]
theorem exec_hjoin_none (hentry : (s.charged 2 0).helperOf (s.rs (p.an a)) = none) :
    exec (.hjoin p d a) s = .next ((s.charged 2 0).done (.hjoin p d a)) :=
  issue_ok h (.inl rfl) rfl rfl rfl rfl (hjoin_body h (by rw [joinHelper, hentry]))
theorem exec_hjoin_waits {e : HJoin} (hentry : (s.charged 2 0).helperOf (s.rs (p.an a)) = some e) (hdone : e.done = false) :
    exec (.hjoin p d a) s = .next ((s.charged 2 0).setCtx ((s.charged 2 0).ctx.waitAs 2 0 .poll)) :=
  issue_poll h (.inl rfl) rfl rfl rfl rfl (hjoin_body h (by rw [joinHelper, hentry]; dsimp only; rw [hdone]; rfl))
theorem exec_hjoin_done {e : HJoin} (hentry : (s.charged 2 0).helperOf (s.rs (p.an a)) = some e) (hdone : e.done = true) {x y : State}
    (hx : x = (s.charged 2 0).acquire 0) (hy : y = x.setCtx (x.ctx.addAllow e.iref e.mref)) :
    exec (.hjoin p d a) s = .next ((y.setMyCell { y.myCell with hjoin := y.myCell.hjoin.erase e }).done (.hjoin p d a)) := by
  subst hx hy
  exact issue_ok h (.inl rfl) rfl rfl rfl rfl (hjoin_body h (by rw [joinHelper, hentry]; dsimp only; rw [hdone]; rfl))

end

/-! ### SUSP (R308) -/

theorem State.setF32_sel (s : State) (t key off : Nat) (v : BitVec 32) : (s.setF32 t key off v).sel = s.sel := (rfl)
theorem State.setF64_sel (s : State) (t key off : Nat) (v : Word) : (s.setF64 t key off v).sel = s.sel := (rfl)
theorem State.claimGrants_sel (s : State) (t key : Nat) : (s.claimGrants t key).2.2.sel = s.sel := by
  rw [State.claimGrants, State.setF32_sel, State.setF32_sel]
theorem State.parkImage_sel (s : State) (c n : Nat) : (s.parkImage c n).sel = s.sel := (rfl)
theorem State.foldl_sel {α : Type} {f : State → α → State} (hf : ∀ s x, (f s x).sel = s.sel) (l : List α) (s : State) :
    (l.foldl f s).sel = s.sel := by
  induction l generalizing s with
  | nil => rfl
  | cons x l ih => exact (ih _).trans (hf s x)
theorem State.meetPath_sel (s : State) (t : Nat) (asid : BitVec 12) (va : Nat) : (s.meetPath t asid va).sel = s.sel := by
  unfold State.meetPath State.meetWalk
  split
  · rfl
  · exact State.foldl_sel (fun s k => (s.meetLines_kept t k 8).sel) _ s
theorem State.meetFrame_sel (s : State) (t : Nat) (f : Word) (n : Nat) : (s.meetFrame t f n).sel = s.sel := by
  unfold State.meetFrame
  split
  · rfl
  · dsimp only
    split
    · exact (State.meetLines_kept _ t _ n).sel.trans (s.meetPath_sel t _ _)
    · exact s.meetPath_sel t _ _
theorem saveRegs_sel (t key : Nat) (c : Ctx) (mask : BitVec 16) (s : State) : (saveRegs t key c mask s).sel = s.sel :=
  State.foldl_sel (fun s n => s.setF64_sel t key (fS n) _) _ s
theorem State.saveRecord_sel (s : State) (c n key : Nat) (cpc : Word) (mask : BitVec 16) (reason : BitVec 3) :
    (s.saveRecord c n key cpc mask reason).sel = s.sel := by
  unfold State.saveRecord
  dsimp only
  rw [State.parkImage_sel, saveRegs_sel, State.setF64_sel, State.setF64_sel, State.setF64_sel, State.setF32_sel, State.setF32_sel,
    State.setF64_sel, State.setF64_sel, State.setF32_sel, State.setF32_sel, State.claimGrants_sel, State.meetFrame_sel]
theorem State.saveRecord_tid (s : State) (c n key : Nat) (cpc : Word) (mask : BitVec 16) (reason : BitVec 3) :
    (s.saveRecord c n key cpc mask reason).tid = s.tid := by
  rw [State.tid, State.cid, s.saveRecord_sel, State.tid, State.cid]

section

variable {p : Pfx} {d a : BitVec 4} {s : State} (h : s.issues (.susp p d a) .plain 2 0 = true)
  (hthresh : wtThresh (s.rs (p.dn d)) ≠ 0#32) (hfree : ((s.charged 2 0).myTile.entry (wtEntry (s.rs (p.dn d)))).st = 0#2)

include h hthresh hfree

theorem exec_susp {key : Nat} {x y : State} (hleave : (s.charged 2 0).canLeave = true)
    (hkey : (s.charged 2 0).frameKey (s.charged 2 0).tid (s.charged 2 0).ctx.ident = some key)
    (hx : x = ((s.charged 2 0).saveRecord (s.charged 2 0).cid (s.charged 2 0).sid key (nextPc (s.charged 2 0) (Instr.susp p d a).ilen)
      (s.charged 2 0).ctx.cmask 0#3).setF (s.charged 2 0).tid key fSTATE 1 3)
    (hy : y = x.setMyTile (x.myTile.setEntry (wtEntry (s.rs (p.dn d)))
      ⟨(s.charged 2 0).ctx.ident, wtThresh (s.rs (p.dn d)), 3#2, false, true, wtCtr (s.rs (p.dn d)), none⟩)) :
    exec (.susp p d a) s = .next ((y.freeSlot y.cid y.sid).checkFire y.tid (wtCtr (s.rs (p.dn d))).toNat) := by
  subst hx hy
  refine issue_left h (.inl rfl) rfl rfl rfl rfl ?_
  dsimp only [plain]
  rw [opD_charged p d _ _ (State.issues_sid h), if_neg hthresh, if_neg (not_not_intro hfree), hleave, if_neg (show ¬ (!true) = true from nofun), hkey]
  dsimp only
  rw [State.saveRecord_tid]
theorem exec_susp_waits (hleave : (s.charged 2 0).canLeave = false) :
    exec (.susp p d a) s = .next ((s.charged 2 0).closeStreams.setCtx ((s.charged 2 0).ctx.waitAs 2 0 .hold)) := by
  refine issue_closing h (.inl rfl) rfl rfl rfl rfl ?_
  dsimp only [plain]
  rw [opD_charged p d _ _ (State.issues_sid h), if_neg hthresh, if_neg (not_not_intro hfree), hleave, if_pos (show (!false) = true from rfl)]

end

/-! ### The end of a context (04 R95) -/

/-- Every slot of every cell is as before. -/
def SlotsKept (s t : State) : Prop := ∀ c, (t.cell c).slots = (s.cell c).slots

theorem SlotsKept.refl (s : State) : SlotsKept s s := fun _ => rfl
theorem SlotsKept.trans {s t u : State} (h : SlotsKept s t) (k : SlotsKept t u) : SlotsKept s u := fun c => (k c).trans (h c)
theorem SlotsKept.foldl {α : Type} {f : State → α → State} (hf : ∀ s x, SlotsKept s (f s x)) (l : List α) (s : State) :
    SlotsKept s (l.foldl f s) := by
  induction l generalizing s with
  | nil => exact .refl s
  | cons x l ih => exact (hf s x).trans (ih _)
theorem SlotsKept.ctxAt_eq {s t : State} (h : SlotsKept s t) (c n : Nat) : t.ctxAt c n = s.ctxAt c n :=
  congrArg (fun v => vget v n Ctx.reset) (h c)

theorem State.setArrived_slots (s : State) (c chan : Nat) (b : Bool) : SlotsKept s (s.setArrived c chan b) := by
  unfold State.setArrived
  dsimp only
  split
  · exact .refl s
  · intro k
    rw [s.cell_setCell]
    split
    · next h => rw [h]
    · rfl
theorem State.setChord_slots (s : State) (level node chan : Nat) (w : BitVec 32) : SlotsKept s (s.setChord level node chan w) := fun _ => rfl
theorem State.openIfDone_slots (s : State) (level node chan : Nat) : SlotsKept s (s.openIfDone level node chan) := by
  unfold State.openIfDone
  dsimp only
  split
  · exact (s.setChord_slots level node chan _).trans (.foldl (fun t c => t.setArrived_slots c chan false) _ _)
  · exact .refl s
theorem State.withdrawFrom_slots (s : State) (c chan : Nat) : SlotsKept s (s.withdrawFrom c chan) := by
  unfold State.withdrawFrom
  split
  · exact .refl s
  · next level node _ =>
    exact (((s.setChord_slots 0 (c / 16) chan _).trans (State.setChord_slots _ level node chan _)).trans
      (State.setArrived_slots _ c chan false)).trans (State.openIfDone_slots _ level node chan)
/-- The withdrawal of a cell changes no context (13 R317). -/
theorem State.withdrawAfter_slots (s : State) (c n : Nat) : SlotsKept s (s.withdrawAfter c n) := by
  unfold State.withdrawAfter State.withdraw
  split
  · split
    · exact .refl s
    · exact .foldl (fun s k => s.withdrawFrom_slots c k) _ _
  · exact .refl s

theorem State.ctxAt_setCtxAt_self (s : State) (c : Nat) {n : Nat} (x : Ctx) (h : n ≤ 10) : (s.setCtxAt c n x).ctxAt c n = x := by
  rw [State.ctxAt, s.cell_setCtxAt, if_pos rfl]
  exact Cell.slot_setSlot_self _ _ _ h

/-- A slot that is freed holds no live context. -/
theorem State.freeSlot_live (s : State) (c : Nat) {n : Nat} (h : n ≤ 10) : ((s.freeSlot c n).ctxAt c n).live = false := by
  rw [State.freeSlot, State.ctxAt_setCtxAt_self _ c _ h]
  rfl
theorem State.endTask_live (s : State) (c : Nat) {n : Nat} (kind : Option (BitVec 8)) (h : n ≤ 10) :
    ((s.endTask c n kind).ctxAt c n).live = false := by
  unfold State.endTask
  dsimp only
  rw [(State.withdrawAfter_slots _ c n).ctxAt_eq]
  exact State.freeSlot_live _ c h

end Sys2Proof.Machine
end

section
/-! O45: SPAWN, START, HJOIN, SUSP and EXIT. -/

namespace Sys2Proof.Proofs

open Sys2Proof Sys2Proof.Machine Sys2Proof.Claims

/-- Settles O45: SPAWN and START by what takes the record, the units and the frame, and the others by what leaves or waits. -/
theorem taskResults : Obligations.TaskResults := by
  unfold Obligations.TaskResults
  refine ⟨?spawn, ?start, ?startRefused, ?hjoin, ?susp, ?suspWaits, ?exit⟩
  case spawn =>
    rintro p d a s u x y w' z m bs r w t v ci cm sc rfl rfl h rfl halign rfl htile hheld hbs rfl rfl rfl rfl rfl
    refine ⟨fun htaken hcarve hrel hx hy hw hbusy hpush => ?_, fun hrefused hbusy hpush => ?_⟩
    · subst hx hy hw
      exact exec_spawn h halign htile hheld hbs (spawnRecord_sent htaken hcarve hrel hbusy hpush)
    · exact exec_spawn h halign htile hheld hbs (spawnRecord_refused hrefused hbusy hpush)
  case start =>
    rintro p d a s u x y z w t n f key iu mu rfl h heven hslot hframe hroom rfl rfl hcarve hrel rfl rfl rfl rfl hbusy hpush
    exact exec_start h heven (startHelper_started hslot hframe hroom hcarve hrel hbusy hpush)
  case startRefused =>
    rintro p d a s u t rfl h heven hrefused hbusy hpush
    exact exec_start h heven (startHelper_refused hrefused hbusy hpush)
  case hjoin =>
    rintro p d a s u x y o rfl h ho
    refine ⟨fun hnone => ?_, fun e hsome hdone => ?_, fun e hsome hdone hx hy => ?_⟩
    · exact exec_hjoin_none h (ho.symm.trans hnone)
    · exact exec_hjoin_waits h (ho.symm.trans hsome) hdone
    · subst hx hy
      exact exec_hjoin_done h (ho.symm.trans hsome) hdone rfl rfl
  case susp =>
    rintro p d a s u x y w e key rfl h rfl rfl hthresh hfree hleave hkey rfl rfl
    exact exec_susp h hthresh hfree hleave hkey rfl rfl
  case suspWaits =>
    rintro p d a s u w rfl h rfl hthresh hfree hleave
    exact exec_susp_waits h hthresh hfree hleave
  case exit =>
    rintro p d a s u rfl h
    have hsid := State.issues_sid h
    refine ⟨fun hexit hroom => ⟨_, issue_left h (.inl rfl) rfl rfl rfl rfl ?_, rfl, ?_⟩, fun hwait => ?_⟩
    · dsimp only [plain]
      rw [if_neg (by simpa [hexit, or_iff_not_imp_left] using hroom)]
    · rw [State.charged_cid, State.charged_sid]
      exact State.endTask_live _ _ _ hsid
    · refine issue_closing h (.inl rfl) rfl rfl rfl rfl ?_
      dsimp only [plain]
      rw [if_pos (by simpa using hwait)]

end Sys2Proof.Proofs
end

section
/-! Budgets (05 R110 to R112, R121 to R123): what a charge and a spending take, and the meanings of BGRANT and BTOP on the charged state. -/

namespace Sys2Proof.Machine

open Sys2Proof.Claims

/-! ### Units taken off a count (R110, R121) -/

theorem toNat_sub_units {x : BitVec 32} {n : Nat} (h : n ≤ x.toNat) : (x - BitVec.ofNat 32 n).toNat = x.toNat - n := by
  have hn : (BitVec.ofNat 32 n).toNat = n := by
    rw [BitVec.toNat_ofNat, Nat.mod_eq_of_lt (h.trans_lt x.isLt)]
  rw [BitVec.toNat_sub_of_le (by rwa [BitVec.le_def, hn]), hn]

/-- A metered budget pays exactly the units. -/
theorem Budget.count_pay {b : Budget} {n : Nat} (hb : b.unm = false) (h : b.pays n = true) : (b.pay n).count.toNat + n = b.count.toNat := by
  have hn : n ≤ b.count.toNat := by simpa [Budget.pays, hb] using h
  rw [Budget.pay, hb, if_neg Bool.false_ne_true, toNat_sub_units hn]
  omega
theorem Budget.pay_unmetered {b : Budget} (n : Nat) (hb : b.unm = true) : b.pay n = b := by
  rw [Budget.pay, if_pos hb]

theorem spend_metered {b : Budget} (al : BitVec 32) (n : Nat) (hb : b.unm = false) : spend b al n =
    ({ b with count := b.count - BitVec.ofNat 32 (n - min n al.toNat) }, al - BitVec.ofNat 32 (min n al.toNat)) := by
  rw [spend, hb, if_neg Bool.false_ne_true]

/-- Allowance and quantum together lose exactly the units. -/
theorem spend_total {b : Budget} {al : BitVec 32} {n : Nat} (hb : b.unm = false) (h : n ≤ al.toNat + b.count.toNat) :
    (spend b al n).1.count.toNat + (spend b al n).2.toNat + n = b.count.toNat + al.toNat := by
  rw [spend_metered al n hb]
  dsimp only
  rw [toNat_sub_units (by omega), toNat_sub_units (by omega)]
  omega
/-- What the allowance covers leaves the quantum. -/
theorem spend_allowance {b : Budget} {al : BitVec 32} {n : Nat} (hb : b.unm = false) (h : n ≤ al.toNat) : (spend b al n).1 = b := by
  rw [spend_metered al n hb, Nat.min_eq_left h, Nat.sub_self]
  dsimp only
  rw [BitVec.sub_zero]

/-! ### The charge (R111, R112, R118) -/

theorem Ctx.charge_kernel {c : Ctx} (n m : Nat) (h : c.user = false) : c.charge n m = .inl c := by
  rw [Ctx.charge, h]; rfl

/-- The charge of a user context for an instruction that has not paid. -/
theorem Ctx.charge_user {c : Ctx} (n m : Nat) (hu : c.user = true) (hp : c.paid = none) : c.charge n m =
    if c.preq.isSome then .inr 3#3
    else if c.ibud.pays n && c.mbud.pays m then .inl { c with ibud := c.ibud.pay n, mbud := c.mbud.pay m }
    else if !c.ibud.pays n then .inr 1#3
    else .inr 2#3 := by
  rw [Ctx.charge, hu, hp]; rfl

theorem Ctx.charge_paid {c x : Ctx} {n m : Nat} (hu : c.user = true) (hp : c.paid = none) (h : c.charge n m = .inl x) :
    c.ibud.pays n = true ∧ c.mbud.pays m = true ∧ x = { c with ibud := c.ibud.pay n, mbud := c.mbud.pay m } := by
  rw [Ctx.charge_user n m hu hp] at h
  split_ifs at h with hq hpays
  rw [Bool.and_eq_true] at hpays
  exact ⟨hpays.1, hpays.2, (Sum.inl.inj h).symm⟩

/-! ### BGRANT and BTOP (R123) -/

section

variable {p : Pfx} {d a : BitVec 4} {s t : State} {m : Nat} (hm : m = units (chargedBytes s.tid (s.rs (p.dn d)).toNat 8))
  (h : s.issues (.bgrant p d a) .push 2 m = true) (halign : (s.rs (p.dn d)).toNat % 64 = 0)

include hm h halign

/-- A grant that the context cannot carve is refused. -/
theorem exec_bgrant_refused
    (hcarve : (s.charged 2 m).ctx.canCarve ((s.rs (p.an a)).extractLsb' 0 32).toNat ((s.rs (p.an a)).extractLsb' 32 32).toNat = false)
    (hbusy : (s.charged 2 m).spillBusy = false) (hpush : (s.charged 2 m).push ⟨false, 0#32⟩ = some t) :
    exec (.bgrant p d a) s = .next (t.done (.bgrant p d a)) := by
  subst hm
  have hsid := State.issues_sid h
  refine issue_ok h (.inl rfl) rfl rfl rfl rfl ?_
  dsimp only [pushing]
  rw [opD_charged p d _ _ hsid, opA_charged p a _ _ hsid, if_neg (not_not_intro halign), hcarve]
  exact pushFalse_ok hbusy hpush

theorem exec_bgrant_granted {pa : Nat} {x w : State}
    (hcarve : (s.charged 2 m).ctx.canCarve ((s.rs (p.an a)).extractLsb' 0 32).toNat ((s.rs (p.an a)).extractLsb' 32 32).toNat = true)
    (hheld : (s.charged 2 m).ctx.accessHeld = false) (hkey : dqKey (s.charged 2 m) (s.rs (p.dn d)) 64 = .ok pa)
    (hx : x = (s.charged 2 m).setCtx ((s.charged 2 m).ctx.carve ((s.rs (p.an a)).extractLsb' 0 32).toNat ((s.rs (p.an a)).extractLsb' 32 32).toNat))
    (hw : w = (grantAt x pa ((s.rs (p.an a)).extractLsb' 0 32) ((s.rs (p.an a)).extractLsb' 32 32) false).wake (s.rs (p.dn d)) (!x.ctx.user))
    (hbusy : w.spillBusy = false) (hpush : w.push ⟨true, BitVec.allOnes 32⟩ = some t) :
    exec (.bgrant p d a) s = .next (t.done (.bgrant p d a)) := by
  subst hm hx hw
  have hsid := State.issues_sid h
  refine issue_ok h (.inl rfl) rfl rfl rfl rfl ?_
  dsimp only [pushing]
  rw [opD_charged p d _ _ hsid, opA_charged p a _ _ hsid, if_neg (not_not_intro halign), hcarve, hheld, hkey]
  exact pushTrue_ok hbusy hpush

end

theorem exec_btop {p : Pfx} {d a : BitVec 4} {s : State} {pa : Nat} (h : s.issues (.btop p d a) .plain 2 0 = true)
    (hkernel : s.ctx.user = false) (halign : (s.rs (p.dn d)).toNat % 64 = 0) (hheld : (s.charged 2 0).ctx.accessHeld = false)
    (hkey : dqKey (s.charged 2 0) (s.rs (p.dn d) &&& ~~~0x80000000#64) 64 = .ok pa) :
    exec (.btop p d a) s = .next (((grantAt (s.charged 2 0) pa ((s.rs (p.an a)).extractLsb' 0 32) ((s.rs (p.an a)).extractLsb' 32 32)
      ((s.rs (p.dn d)).getLsbD 31)).wake (s.rs (p.dn d) &&& ~~~0x80000000#64) true).done (.btop p d a)) := by
  have hsid := State.issues_sid h
  refine issue_ok h (.inr hkernel) rfl rfl rfl rfl ?_
  dsimp only
  rw [opD_charged p d _ _ hsid, opA_charged p a _ _ hsid, if_neg (not_not_intro halign), hheld, if_neg Bool.false_ne_true, hkey]

end Sys2Proof.Machine
end

section
/-! O49: budgets. -/

namespace Sys2Proof.Proofs

open Sys2Proof Sys2Proof.Machine Sys2Proof.Claims

/-- Settles O49: BSETC, BGRANT and BTOP on the charged state; a spending and a charge by the units that they take off each count. -/
theorem budgetResults : Obligations.BudgetResults := by
  unfold Obligations.BudgetResults
  refine ⟨?bsetcRel, ?bsetcReg, ?bgrant, ?btop, fun b al n hb hn => ⟨spend_total hb hn, spend_allowance hb⟩, ?charge⟩
  case bsetcRel =>
    rintro p a s u rfl h
    rw [← s.pc_charged 2 0 (State.issues_sid h)]
    exact issue_ok h (.inl rfl) rfl rfl rfl rfl rfl
  case bsetcReg =>
    rintro p a s u rfl h
    rw [← opA_charged p a 2 0 (State.issues_sid h)]
    exact issue_ok h (.inl rfl) rfl rfl rfl rfl rfl
  case bgrant =>
    rintro p d a s u x w t m iu mu hm rfl h halign rfl rfl
    refine ⟨fun hcarve hbusy hpush => ?_, fun pa hcarve hheld hkey hx hw hbusy hpush => ?_⟩
    · exact exec_bgrant_refused hm h halign hcarve hbusy hpush
    · exact exec_bgrant_granted hm h halign hcarve hheld hkey hx hw hbusy hpush
  case btop =>
    rintro p d a s u va pa rfl h hkernel halign rfl hheld hkey
    exact exec_btop h hkernel halign hheld hkey
  case charge =>
    intro c x n m h hpaid
    refine ⟨fun huser => ?_, fun hkernel => ?_⟩
    · obtain ⟨hi, hm, rfl⟩ := Ctx.charge_paid huser hpaid h
      exact ⟨fun hmet => Budget.count_pay hmet hi, fun hmet => Budget.count_pay hmet hm, Budget.pay_unmetered n, Budget.pay_unmetered m⟩
    · rw [Ctx.charge_kernel n m hkernel] at h
      exact (Sum.inl.inj h).symm

end Sys2Proof.Proofs
end

section
/-! The cell's vector queue (08 R196, R200, R205) and the instructions that pass through it to memory (R201, R212). -/

namespace Sys2Proof.Machine

open Sys2Proof.Claims

/-! ### The vector queue and the streams of the acting cell -/

/-- The place of the step, the vector queue and the stream bindings of the acting cell are as before. -/
structure QueueKept (s t : State) : Prop where
  sel : t.sel = s.sel
  vq : t.myCell.vq = s.myCell.vq
  strm : t.myCell.strm = s.myCell.strm

theorem QueueKept.trans {s t u : State} (h : QueueKept s t) (k : QueueKept t u) : QueueKept s u :=
  ⟨k.sel.trans h.sel, k.vq.trans h.vq, k.strm.trans h.strm⟩
theorem State.setCtx_queueKept (s : State) (c : Ctx) : QueueKept s (s.setCtx c) := by
  refine ⟨rfl, ?_, ?_⟩ <;> rw [State.myCell_setCtx] <;> rfl
theorem State.charged_queueKept (s : State) (n m : Nat) : QueueKept s (s.charged n m) := by
  rcases s.charged_eq n m with e | ⟨c, -, e⟩ <;> rw [e]
  · exact ⟨rfl, rfl, rfl⟩
  · exact s.setCtx_queueKept c
theorem CellsKept.queueKept {s t : State} (h : CellsKept s t) : QueueKept s t := by
  have hcell := h.cell s.cid
  have hcid : t.cid = s.cid := by rw [State.cid, h.sel, State.cid]
  refine ⟨h.sel, ?_, ?_⟩ <;> rw [State.myCell, hcid]
  · exact (congrArg Cell.vq hcell :)
  · exact (congrArg Cell.strm hcell :)

section

variable {s t : State} (h : QueueKept s t)

include h

theorem QueueKept.vbefore_eq : t.vbefore = s.vbefore := by
  simp only [State.vbefore, State.ownEnt, h.vq, h.sel]
theorem QueueKept.vbusy_eq : t.vbusy = s.vbusy := by rw [State.vbusy, h.vbefore_eq, State.vbusy]
theorem QueueKept.binding_eq (n : Nat) : t.binding n = s.binding n := by simp only [State.binding, Cell.stream, h.strm]
theorem QueueKept.dirAt_eq (n : Nat) : t.dirAt n = s.dirAt n := by rw [State.dirAt, h.vbefore_eq, h.binding_eq, State.dirAt]
theorem QueueKept.misuse_eq (srcs : List Nat) (dst : Option Nat) : misuse srcs dst t = misuse srcs dst s := by
  simp only [misuse, h.dirAt_eq]

end

theorem misuseErr_none {srcs : List Nat} {dst : Option Nat} {s : State} (i : Instr) (h : misuse srcs dst s = false) :
    misuseErr i srcs dst s = none := by
  rw [misuseErr, h, if_neg Bool.false_ne_true]

/-! ### An instruction that may wait in the queue before its charge (R205) -/

/-- One whose unit is there and that completes, whether or not it may wait in the queue before it is charged. -/
theorem issue_ok_queued {i : Instr} {sh : Shape} {s t : State} {n m : Nat} (h : s.issues i sh.gm n m = true)
    (hk : sh.kernel = false ∨ s.ctx.user = false) (ho : sh.own s = none) (hr : sh.ready s = true) (hc : sh.cost s = (n, m))
    (he : sh.early s = none) (hg : readRegions i = []) (hb : sh.body (s.charged n m) = .ok t) : issue i sh s = .next (t.done i) := by
  obtain ⟨hrun, hfree, hwf, ⟨g, hguard, hs⟩, c, hcharge⟩ := State.issues_iff.1 h
  have hpriv : (sh.kernel && s.ctx.user) = false := by rcases hk with e | e <;> simp [e]
  have hbody : runBody i sh (s.setCtx c) = .ok t := by
    rw [runBody_eq hg, ← hb, State.charged, hcharge]
  have hkeep (u : State) : keepCap i (.ok t) s u = u := keepCap_done rfl
  simp only [issue, hrun, hfree, hwf, hpriv, hguard, hs, hr, hc, he, ho, hcharge, Ctx.chargeQueued_of_charge hcharge, hbody, hkeep,
    finish, State.done, ite_self, Bool.not_true, Bool.true_and, Bool.or_false, Bool.and_false, Bool.false_and, Bool.false_eq_true, if_false,
    if_true]

/-- An instruction whose turn in the queue has come takes its units and joins the queue with its effect. -/
theorem vqueue_ok {i : Instr} {whole mem : Bool} {srcs : List Nat} {dst : Option Nat}
    {f : (Nat → Lanes) → State → Except Res (State × FFlags)} {v t : State} {vs : List (Nat × Lanes)} {fl : FFlags}
    (hmisuse : misuse srcs dst v = false)
    (hturn : (if mem || v.onStream (srcs ++ dst.toList) then v.vbusy else v.vheld srcs dst.toList) = false)
    (hpop : popAll v srcs = .ok vs) (hf : f (vsrc vs v) v = .ok (t, fl)) :
    vqueue i whole mem srcs dst f v = .ok ((takePops vs t).enqueueV (whole || v.onStream (srcs ++ dst.toList)) fl) := by
  simp only [vqueue, hmisuse, hturn, hpop, hf, Bool.false_eq_true, if_false]

/-! ### The shape of a VMEM (R212) -/

section

variable {i : Instr} {p : Pfx} {srcs : List Nat} {dst m : Nat} {writes : Bool} {addr : (Nat → Lanes) → State → Nat → Word}
  {body : State → Res} {s t v : State} (hm : m = vmemTraffic p (fun s => addr (vpeek s) s) s) (hv : v = released p (s.charged 2 m))
  (h : s.issues i .plain 2 m = true) (hroom : s.vroom = true) (hbusy : s.vbusy = false) (hpeek : peekable srcs s = true)
  (hmisuse : misuse (if writes then srcs else dst :: srcs) (if writes then some dst else none) v = false) (hg : readRegions i = [])

omit hg in
include hv in
/-- The queue and the streams are those that the instruction found at its issue. -/
theorem queueKept_released : QueueKept s v := by
  subst hv
  exact (s.charged_queueKept 2 m).trans (released_kept p _).queueKept

include hm hv h hroom hbusy hpeek hmisuse hg

/-- A VMEM that no entry of the queue holds up and whose offsets are there completes when its meaning does. -/
theorem issue_vmem (hbody : body (s.charged 2 m) = .ok t) : issue i (vmem i p srcs dst writes addr body) s = .next (t.done i) := by
  rw [(queueKept_released hv).misuse_eq] at hmisuse
  subst hm
  refine issue_ok_queued h (.inl rfl) (misuseErr_none i hmisuse) hroom rfl (if_neg ?_) hg hbody
  simp [hbusy, hpeek]

end

/-! ### Memory under a vector store that is issued -/

theorem takePops_mem (vs : List (Nat × Lanes)) (s : State) : (takePops vs s).mem = s.mem := by
  unfold takePops
  exact foldl_mem _ (fun s v => by split <;> rfl) vs s
theorem State.enqueueV_mem (s : State) (whole : Bool) (fl : FFlags) : (s.enqueueV whole fl).mem = s.mem := rfl
theorem foldl_addPend_mem (xs : List (List WByte × Nat × FFlags)) (s : State) :
    (xs.foldl (fun s x => s.addPend (.store x.1 x.2.1 .vmem)) s).mem = s.mem :=
  foldl_mem (fun s x => s.addPend (.store x.1 x.2.1 .vmem)) (fun _ _ => rfl) xs s
theorem State.touchPut_of_sound {s : State} (va : Word) (n : Nat) (h : s.flaws = []) : s.touchPut va n = s := by
  unfold State.touchPut
  split
  · rw [State.meetPut, if_pos h]
  · rfl
theorem State.touchPuts_of_sound {s : State} (vas : List Word) (n : Nat) (h : s.flaws = []) : s.touchPuts vas n = s := by
  unfold State.touchPuts
  induction vas with
  | nil => rfl
  | cons va vas ih => rw [List.foldl_cons, s.touchPut_of_sound va n h, ih]

/-! ### The charge of an instruction that waits in the queue (05 R125, R126) -/

theorem Ctx.chargeQueued_pays {c : Ctx} {i m : Nat} {q : PReq} (hu : c.user = true) (hp : c.paid = none) (hq : c.preq = some q)
    (hwait : c.wait = .stream) (hi : q.saved.pays i = true) (hm : c.mbud.pays m = true) :
    c.chargeQueued i m = .inl { c with preq := some { q with saved := q.saved.pay i }, mbud := c.mbud.pay m } := by
  rw [Ctx.chargeQueued, Ctx.charge_user i m hu hp, hq]
  exact if_pos ⟨hwait, hi, hm⟩
theorem Ctx.chargeQueued_yields {c : Ctx} {i m : Nat} {q : PReq} (hu : c.user = true) (hp : c.paid = none) (hq : c.preq = some q)
    (h : c.wait ≠ .stream ∨ q.saved.pays i = false ∨ c.mbud.pays m = false) : c.chargeQueued i m = .inr 3#3 := by
  rw [Ctx.chargeQueued, Ctx.charge_user i m hu hp, hq]
  refine if_neg ?_
  rintro ⟨hwait, hi, hm⟩
  rcases h with h | h | h
  · exact h hwait
  · simp [hi] at h
  · simp [hm] at h
theorem Ctx.chargeQueued_no_preq {c : Ctx} (i m : Nat) (h : c.preq = none) : c.chargeQueued i m = c.charge i m := by
  rw [Ctx.chargeQueued, h]
  cases c.charge i m <;> rfl

end Sys2Proof.Machine
end

section
/-! O29: vector loads and stores. -/

namespace Sys2Proof.Proofs

open Sys2Proof Sys2Proof.Machine Sys2Proof.Claims

section

variable {i : Instr} {p : Pfx} {d : BitVec 4} {srcs : List Nat} {addr : (Nat → Lanes) → State → Nat → Word} {s : State}
  (hg : readRegions i = [])

include hg

/-- An instruction whose meaning is `vload`: every lane is checked, then read, before the register is written. -/
theorem vecLoads_of_vload (hexec : exec i s = vload i p d srcs addr s) : VecLoads i p d srcs addr s := by
  rintro m u v A w vs xs t fl hm rfl hv h hroom hbusy hpeek hheld hrel hmisuse hpop rfl hcheck hread rfl hput
  rw [hexec]
  refine issue_vmem hm hv h hroom hbusy hpeek hmisuse hg ?_
  have hturn : v.vbusy = false := ((queueKept_released hv).vbusy_eq).trans hbusy
  dsimp only
  rw [hheld, if_neg Bool.false_ne_true, withRelease_done _ hrel, ← hv, vqueue_ok (mem := true) hmisuse hturn hpop (t := withAcquire p t) (fl := fl)]
  · rfl
  · simp only [hcheck, hread, hput]

/-- An instruction whose meaning is `vstore`: its lanes are issued, or performed at once with its acquire. -/
theorem vecStores_of_vstore (hexec : exec i s = vstore i p d srcs addr s) : VecStores i p d srcs addr s := by
  rintro m u v w vs xs hm rfl hv h hroom hbusy hpeek hheld rfl hrel hmisuse hpop hstore
  rw [hexec]
  have hturn : v.vbusy = false := ((queueKept_released hv).vbusy_eq).trans hbusy
  refine ⟨fun hacq => ⟨_, issue_vmem hm hv h hroom hbusy hpeek hmisuse hg ?_, rfl, fun hflaws a => ?_⟩, fun hacq hpend hmeets =>
    issue_vmem hm hv h hroom hbusy hpeek hmisuse hg ?_⟩
  · dsimp only
    rw [hheld, if_neg Bool.false_ne_true, withRelease_done _ hrel, ← hv, vqueue_ok (mem := true) hmisuse hturn hpop]
    · rfl
    · simp only [hstore, hacq, Bool.false_eq_true, if_false]
  · have hsound : v.flaws = [] := by rw [hv, released_flaws, State.charged_flaws, hflaws]
    rw [State.done_mem, State.enqueueV_mem, takePops_mem, foldl_addPend_mem, v.touchPuts_of_sound _ _ hsound, hv, released_mem,
      State.charged_mem]
  · dsimp only
    rw [hheld, if_neg Bool.false_ne_true, withRelease_done _ hrel, ← hv, vqueue_ok (mem := true) hmisuse hturn hpop]
    · rfl
    · simp only [hstore, hacq, hpend, hmeets, withAcquire_acq, List.isEmpty_nil, Bool.not_false, Bool.and_self, if_true]

end

/-- Settles O29: each form is `vload` or `vstore` at its lane addresses; one that waits in the queue is charged by what its PMREQ left it. -/
theorem vectorMemory : Obligations.VectorMemory := by
  unfold Obligations.VectorMemory
  refine ⟨?vld, ?vlds, ?vgath, ?vst, ?vsts, ?vscat, fun c i m q hu hp hq => ?queued, fun c i m => Ctx.chargeQueued_no_preq i m⟩
  case vld | vlds | vgath =>
    intro p d a s
    exact vecLoads_of_vload rfl rfl
  case vst | vsts | vscat =>
    intro p d a s
    exact vecStores_of_vstore rfl rfl
  case queued => exact ⟨Ctx.chargeQueued_pays hu hp hq, Ctx.chargeQueued_yields hu hp hq⟩

end Sys2Proof.Proofs
end

section
/-! Continuation records (05 R118, R121, R125, 12 R298): the fields that a record gets, and how a context that has begun a yield leaves its slot. -/

namespace Sys2Proof.Machine

/-! ### Fields of a frame (12 Table 12-5) -/

theorem State.rdN_putN_out (s : State) (t x : Nat) {pa n a k : Nat} (h : a + k ≤ pa ∨ pa + n ≤ a) :
    rdN (s.putN t pa n x).mem a k = rdN s.mem a k := by
  show leNat (rdBytes (applyBytes s.mem (wbytes pa (leBytes n x))) a k) = _
  rw [applyBytes_wbytes, rdBytes_wrBytes_out _ _ (by rwa [length_leBytes]), rdN]

/-- A place in a frame: an offset and a number of bytes. Two places share no byte. -/
def Apart (f g : Nat × Nat) : Prop := overlap f.1 f.2 g.1 g.2 = false

theorem Apart.or {f g : Nat × Nat} (h : Apart f g) : f.1 + f.2 ≤ g.1 ∨ g.1 + g.2 ≤ f.1 := by
  simp only [Apart, overlap, Bool.and_eq_false_iff, decide_eq_false_iff_not] at h
  omega

/-- Fields of the frame at `key`, each a place and a value, are written one after the other. -/
def State.putFields (s : State) (t key : Nat) (l : List ((Nat × Nat) × Nat)) : State :=
  l.foldl (fun s f => s.setF t key f.1.1 f.1.2 f.2) s

theorem State.putFields_cons (s : State) (t key : Nat) (f : (Nat × Nat) × Nat) (l : List ((Nat × Nat) × Nat)) :
    s.putFields t key (f :: l) = (s.setF t key f.1.1 f.1.2 f.2).putFields t key l := rfl
theorem State.putFields_append (s : State) (t key : Nat) (l l' : List ((Nat × Nat) × Nat)) :
    s.putFields t key (l ++ l') = (s.putFields t key l).putFields t key l' := List.foldl_append

/-- A place that none of the fields touches reads as before. -/
theorem State.rdN_putFields_out {t key : Nat} {o : Nat × Nat} : ∀ {l : List ((Nat × Nat) × Nat)} {s : State}, (∀ f ∈ l, Apart o f.1) →
    rdN (s.putFields t key l).mem (key + o.1) o.2 = rdN s.mem (key + o.1) o.2
  | [], _, _ => rfl
  | f :: l, s, h => by
    have hf := (h f List.mem_cons_self).or
    rw [s.putFields_cons, State.rdN_putFields_out fun g hg => h g (List.mem_cons_of_mem f hg), State.setF, s.rdN_putN_out t f.2 (by omega)]

/-- Of fields that share no byte each reads back. -/
theorem State.rdN_putFields {t key : Nat} {f : (Nat × Nat) × Nat} {l : List ((Nat × Nat) × Nat)} {s : State} (hwf : s.mem.wf = true)
    (hapart : (l.map (·.1)).Pairwise Apart) (hf : f ∈ l) : rdN (s.putFields t key l).mem (key + f.1.1) f.1.2 = f.2 % 256 ^ f.1.2 := by
  induction l generalizing s with
  | nil => cases hf
  | cons g l ih =>
    rw [List.map_cons, List.pairwise_cons] at hapart
    obtain ⟨hg, hl⟩ := hapart
    rw [s.putFields_cons]
    rcases List.mem_cons.1 hf with rfl | hf
    · rw [State.rdN_putFields_out fun g hmem => hg g.1 (List.mem_map_of_mem hmem), State.setF, s.putN_self t _ f.1.2 f.2 hwf]
    · exact ih (s.putN_mem_wf t _ _ _ hwf) hl hf

theorem State.f32_putFields {s : State} {t key o : Nat} {v : BitVec 32} {l : List ((Nat × Nat) × Nat)} (hwf : s.mem.wf = true)
    (hapart : (l.map (·.1)).Pairwise Apart) (hf : ((o, 4), v.toNat) ∈ l) : (s.putFields t key l).f32 key o = v := by
  rw [State.f32, State.rdN_putFields hwf hapart hf]
  exact (congrArg (BitVec.ofNat 32) (Nat.mod_eq_of_lt v.isLt)).trans (BitVec.ofNat_toNat 32 v ▸ BitVec.setWidth_eq v)
theorem State.f64_putFields {s : State} {t key o : Nat} {v : Word} {l : List ((Nat × Nat) × Nat)} (hwf : s.mem.wf = true)
    (hapart : (l.map (·.1)).Pairwise Apart) (hf : ((o, 8), v.toNat) ∈ l) : (s.putFields t key l).f64 key o = v := by
  rw [State.f64, rd64, State.rdN_putFields hwf hapart hf]
  exact (congrArg (BitVec.ofNat 64) (Nat.mod_eq_of_lt v.isLt)).trans (BitVec.ofNat_toNat 64 v ▸ BitVec.setWidth_eq v)

/-- Fields within the first `n` bytes of a frame leave every byte outside them. -/
theorem State.rd8_putFields_out {t key n a : Nat} (ha : a < key ∨ key + n ≤ a) : ∀ {l : List ((Nat × Nat) × Nat)} {s : State},
    (∀ o ∈ l.map (·.1), o.1 + o.2 ≤ n) → rd8 (s.putFields t key l).mem a = rd8 s.mem a
  | [], _, _ => rfl
  | f :: l, s, h => by
    rw [List.map_cons, List.forall_mem_cons] at h
    rw [s.putFields_cons, State.rd8_putFields_out ha h.2]
    exact s.putN_out t _ _ _ a (by omega)

/-! ### The record of a context that leaves (R118, R125) -/

/-- What is left of the instruction budget: after a PMREQ, what it has saved. -/
def Ctx.keptIbud (c : Ctx) : BitVec 32 := match c.preq with | some q => q.saved.count | none => c.ibud.count

/-- The fields of a record of context `x`, whose grant words held `gi` and `gm`. -/
def recordFields (x : Ctx) (gi gm : BitVec 32) (join cpc : Word) (mask : BitVec 16) (reason : BitVec 3) : List ((Nat × Nat) × Nat) :=
  [((fIBUD, 4), x.keptIbud.toNat), ((fMBUD, 4), x.mbud.count.toNat), ((fFTADDR, 8), (0#64).toNat), ((fFTINFO, 8), (0#64).toNat),
    ((fIGW, 4), (addSat x.iallow gi).toNat), ((fMGW, 4), (addSat x.mallow gm).toNat), ((fJOIN, 8), join.toNat),
    ((fCPC, 8), ((cpc &&& 0x01FFFFFFFFFFFFFE#64) ||| (reason.setWidth 64 <<< 61)).toNat), ((fLIVE, 8), (mask.setWidth 64).toNat)] ++
  (List.range 16).map fun n => ((fS n, 8), (if mask.getLsbD n then vget x.regs n 0#64 else 0#64).toNat)
/-- Their places. -/
def recordPlaces : List (Nat × Nat) :=
  [(fIBUD, 4), (fMBUD, 4), (fFTADDR, 8), (fFTINFO, 8), (fIGW, 4), (fMGW, 4), (fJOIN, 8), (fCPC, 8), (fLIVE, 8)] ++
  (List.range 16).map fun n => (fS n, 8)

theorem recordPlaces_apart : recordPlaces.Pairwise Apart := by unfold Apart; decide
theorem recordPlaces_inside : ∀ o ∈ recordPlaces, o.1 + o.2 ≤ 256 := by decide

section

variable (x : Ctx) (gi gm : BitVec 32) (join cpc : Word) (mask : BitVec 16) (reason : BitVec 3)

theorem recordFields_places : (recordFields x gi gm join cpc mask reason).map (·.1) = recordPlaces := rfl
theorem recordFields_apart : ((recordFields x gi gm join cpc mask reason).map (·.1)).Pairwise Apart := by
  rw [recordFields_places]; exact recordPlaces_apart
theorem recordFields_inside : ∀ o ∈ (recordFields x gi gm join cpc mask reason).map (·.1), o.1 + o.2 ≤ 256 := by
  rw [recordFields_places]; exact recordPlaces_inside

end

theorem saveRegs_eq (t key : Nat) (c : Ctx) (mask : BitVec 16) (s : State) : saveRegs t key c mask s =
    s.putFields t key ((List.range 16).map fun n => ((fS n, 8), (if mask.getLsbD n then vget c.regs n 0#64 else 0#64).toNat)) :=
  List.foldl_map.symm

/-- With no correctable error pending, a record is its fields, written once the grant words are claimed. -/
theorem State.saveRecord_eq {s : State} (c n key : Nat) (cpc : Word) (mask : BitVec 16) (reason : BitVec 3) (h : s.flaws = []) :
    ∃ join, s.saveRecord c n key cpc mask reason = ((s.claimGrants (c / 16) key).2.2.putFields (c / 16) key
      (recordFields (s.ctxAt c n) (s.f32 key fIGW) (s.f32 key fMGW) join cpc mask reason)).parkImage c n := by
  have hframe : s.meetFrame (c / 16) (s.ctxAt c n).ident 256 = s := by rw [State.meetFrame, h]; rfl
  unfold State.saveRecord
  dsimp only
  rw [hframe, saveRegs_eq]
  simp only [recordFields, State.putFields_append, State.putFields_cons, State.setF32, State.setF64]
  exact ⟨_, rfl⟩

theorem State.claimGrants_mem_wf {s : State} (t key : Nat) (h : s.mem.wf = true) : (s.claimGrants t key).2.2.mem.wf = true :=
  State.putN_mem_wf _ t _ _ _ (s.putN_mem_wf t _ _ _ h)
theorem State.claimGrants_out (s : State) (t : Nat) {key a : Nat} (ha : a < key ∨ key + 256 ≤ a) :
    rd8 (s.claimGrants t key).2.2.mem a = rd8 s.mem a := by
  show rd8 ((s.setF32 t key fIGW 0#32).setF32 t key fMGW 0#32).mem a = _
  rw [State.setF32, State.setF, State.putN_out, State.setF32, State.setF, State.putN_out] <;> simp only [fIGW, fMGW] <;> omega

theorem State.parkImage_mem (s : State) (c n : Nat) : (s.parkImage c n).mem = s.mem := rfl
theorem State.f32_of_mem {s t : State} (h : t.mem = s.mem) (key o : Nat) : t.f32 key o = s.f32 key o := by rw [State.f32, h, State.f32]
theorem State.f64_of_mem {s t : State} (h : t.mem = s.mem) (key o : Nat) : t.f64 key o = s.f64 key o := by rw [State.f64, h, State.f64]

section

variable {s : State} {c n key : Nat} {cpc : Word} {mask : BitVec 16} {reason : BitVec 3} (hwf : s.mem.wf = true) (hflaws : s.flaws = [])

include hwf hflaws

/-- Each field of the record reads back. -/
theorem State.saveRecord_f32 {o : Nat} {v : BitVec 32}
    (hf : ∀ join, ((o, 4), v.toNat) ∈ recordFields (s.ctxAt c n) (s.f32 key fIGW) (s.f32 key fMGW) join cpc mask reason) :
    (s.saveRecord c n key cpc mask reason).f32 key o = v := by
  obtain ⟨join, e⟩ := s.saveRecord_eq c n key cpc mask reason hflaws
  rw [e, State.f32_of_mem (State.parkImage_mem _ c n)]
  exact State.f32_putFields (s.claimGrants_mem_wf _ key hwf) (recordFields_apart _ _ _ join cpc mask reason) (hf join)
theorem State.saveRecord_f64 {o : Nat} {v : Word}
    (hf : ∀ join, ((o, 8), v.toNat) ∈ recordFields (s.ctxAt c n) (s.f32 key fIGW) (s.f32 key fMGW) join cpc mask reason) :
    (s.saveRecord c n key cpc mask reason).f64 key o = v := by
  obtain ⟨join, e⟩ := s.saveRecord_eq c n key cpc mask reason hflaws
  rw [e, State.f64_of_mem (State.parkImage_mem _ c n)]
  exact State.f64_putFields (s.claimGrants_mem_wf _ key hwf) (recordFields_apart _ _ _ join cpc mask reason) (hf join)

omit hwf in
theorem State.saveRecord_out {a : Nat} (ha : a < key ∨ key + 256 ≤ a) : rd8 (s.saveRecord c n key cpc mask reason).mem a = rd8 s.mem a := by
  obtain ⟨join, e⟩ := s.saveRecord_eq c n key cpc mask reason hflaws
  rw [e, State.parkImage_mem]
  exact (State.rd8_putFields_out ha (recordFields_inside _ _ _ join cpc mask reason)).trans (s.claimGrants_out _ ha)

end

/-! ### BUDGET_YIELD (R118, R119) -/

theorem exec_budgetYield_waits {s : State} {reason : BitVec 3} (hwait : s.ctx.wait = .leaving reason) (hleave : s.canLeave = false) :
    exec .budgetYield s = .next s.closeStreams := by
  show execBudgetYield s = _
  simp only [execBudgetYield, hwait, hleave, Bool.not_false, if_true]

section

variable {s x : State} {reason : BitVec 3} {key : Nat} (hwait : s.ctx.wait = .leaving reason) (hleave : s.canLeave = true)
  (hkey : s.frameKey s.tid s.ctx.ident = some key)
  (hx : x = s.saveRecord s.cid s.sid key s.ctx.cont s.ctx.cmask reason)

include hwait hleave

/-- A kill that was waiting for the context's queues ends its task. -/
theorem exec_budgetYield_killed {q : PReq} (hreason : reason = 3#3) (hq : s.ctx.preq = some q) (hdisp : q.disp = 2#2) :
    exec .budgetYield s = .next (s.endTask s.cid s.sid none) := by
  show execBudgetYield s = _
  simp only [execBudgetYield, hwait, hleave, hreason, hq, hdisp, Bool.not_true, Bool.false_eq_true, if_false, and_self, if_true]

include hkey hx

/-- A context that yields for no budget goes back into the ready queue, but where a PMREQ asks for another end. -/
theorem exec_budgetYield_requeued (hplace : s.myTile.placeFree (placeOf s.cid s.sid) = true) (h1 : reason ≠ 1#3) (h2 : reason ≠ 2#3)
    (h3 : reason = 3#3 → ∃ q, s.ctx.preq = some q ∧ q.disp = 0#2) :
    exec .budgetYield s = .next ((x.freeSlot s.cid s.sid).requeue s.tid s.ctx.ident key 1 0 (placeOf s.cid s.sid)) := by
  subst hx
  show execBudgetYield s = _
  replace hplace : (s.tile s.tid).placeFree (placeOf s.cid s.sid) = true := hplace
  by_cases h : reason = 3#3
  · obtain ⟨q, hq, hdisp⟩ := h3 h
    simp [execBudgetYield, hwait, hleave, h, hq, hdisp, hkey, hplace]
  · simp [execBudgetYield, hwait, hleave, h, h1, h2, hkey, hplace]

/-- After a PMREQ that holds or moves its frame the record stays in the frame. -/
theorem exec_budgetYield_held {q : PReq} (hreason : reason = 3#3) (hq : s.ctx.preq = some q) (h0 : q.disp ≠ 0#2) (h2 : q.disp ≠ 2#2) :
    exec .budgetYield s = .next ((x.setF s.tid key fSTATE 1 4).freeSlot s.cid s.sid) := by
  subst hx
  show execBudgetYield s = _
  simp [execBudgetYield, hwait, hleave, hreason, hq, h0, h2, hkey]

theorem exec_budgetYield_refilled {r : State} (hplace : s.myTile.placeFree (placeOf s.cid s.sid) = true) (hreason : reason = 1#3 ∨ reason = 2#3)
    (hpol : s.ctx.bpol = 0#2) (hr : x.refillFrame s.tid key reason = (true, r)) :
    exec .budgetYield s = .next ((r.freeSlot s.cid s.sid).requeue s.tid s.ctx.ident key 1 0 (placeOf s.cid s.sid)) := by
  subst hx
  have h3 : reason ≠ 3#3 := by rcases hreason with rfl | rfl <;> decide
  show execBudgetYield s = _
  replace hplace : (s.tile s.tid).placeFree (placeOf s.cid s.sid) = true := hplace
  simp [execBudgetYield, hwait, hleave, hkey, h3, hreason, hpol, hr, hplace]

theorem exec_budgetYield_parked {e : Nat} (hreason : reason = 1#3 ∨ reason = 2#3) (hpol : s.ctx.bpol ≠ 0#2)
    (he : freeEntry s.myTile 512 = some e) (hroom : s.myCell.sendRoom = true) :
    exec .budgetYield s = .next (x.parkNotified s.cid s.sid e s.ctx.ident key reason) := by
  subst hx
  have h3 : reason ≠ 3#3 := by rcases hreason with rfl | rfl <;> decide
  show execBudgetYield s = _
  replace he : freeEntry (s.tile s.tid) 512 = some e := he
  simp [execBudgetYield, hwait, hleave, hkey, h3, hreason, hpol, he, hroom]

end

end Sys2Proof.Machine
end

section
/-! Every instruction word of user mode is a use of Issue() (02 R43): where its own traps, its unit and its charge stand, and the yield that a
charge which cannot be paid begins (05 R112 to R118, R125). -/

namespace Sys2Proof.Machine

open Sys2Proof.Claims

/-! ### Vector registers of a calm queue (08 R205) -/

/-- When every entry of the queue has its result, a register's direction is that of its binding. -/
theorem State.dirAt_of_calm {s : State} (h : queueCalm s) (n : Nat) : s.dirAt n = (s.binding n).map (·.wr) := by
  have hclosed : ∀ e ∈ s.vbefore, e.isOpen = false := fun e he => by
    rw [VEnt.isOpen, h e (List.takeWhile_subset _ he)]; rfl
  rw [State.dirAt]
  generalize (s.binding n).map (·.wr) = b
  generalize s.vbefore = l at hclosed
  induction l with
  | nil => rfl
  | cons e l ih =>
    rw [List.forall_mem_cons] at hclosed
    rw [List.foldl_cons, hclosed.1]
    exact ih hclosed.2

/-- With no register bound, and none to be bound by an entry of the queue, there is no misuse. -/
theorem misuse_of_calm {s : State} (h : queueCalm s ∧ ∀ k, s.myCell.stream k = none) (srcs : List Nat) (dst : Option Nat) :
    misuse srcs dst s = false := by
  obtain ⟨hcalm, hnone⟩ := h
  have hdir (n : Nat) : s.dirAt n = none := by
    rw [s.dirAt_of_calm hcalm, State.binding, hnone, ite_self]; rfl
  simp [misuse, hdir]

/-- A read stream is bound to v31. -/
theorem mmvOwn_none {s : State} (i : Instr) (h : (weightStream s).isSome = true ∧ queueCalm s) : mmvOwn i s = none := by
  obtain ⟨hweights, hcalm⟩ := h
  obtain ⟨st, hst⟩ := Option.isSome_iff_exists.1 hweights
  obtain ⟨hstream, hread⟩ := Option.filter_eq_some_iff.1 hst
  have hdir : s.dirAt 31 = some false := by
    rw [s.dirAt_of_calm hcalm, State.binding, if_pos (by decide), hstream]
    simpa using hread
  rw [mmvOwn, hdir]; rfl

/-! ### Special registers that user mode may access (R97) -/

theorem sprPermitted_read_user {n : Nat} (h : n ∉ [0x040, 0x041, 0x042, 0x043, 0x044, 0x045, 0x048, 0x049, 0x04A, 0x04B]) (user : Bool) :
    sprPermitted n user false = true := by
  refine sprPermitted_read_of fun _ hkernel => h ?_
  rcases sprAccess_eq_kernel hkernel with ⟨hl, hu⟩ | ⟨hl, hu⟩ <;> interval_cases n <;> decide
theorem sprPermitted_write_user {n : Nat} (h : n ∉ [0x008, 0x010, 0x011, 0x014, 0x015, 0x016, 0x023, 0x031, 0x040, 0x041, 0x042, 0x043, 0x044,
    0x045, 0x048, 0x049, 0x04A, 0x04B]) (user : Bool) : sprPermitted n user true = true := by
  refine sprPermitted_write_of fun _ => ?_
  simp only [List.mem_cons, List.not_mem_nil, or_false, not_or] at h
  unfold sprAccess
  split_ifs <;> simp <;> omega

theorem sprShape_own {n : Nat} {write : Bool} {k : State → State} {s : State} (h : sprPermitted n s.ctx.user write = true) :
    (sprShape n write k).own s = none := if_pos h

/-! ### Every instruction word of user mode -/

/-- `sh` is the shape of the instruction word `i` in the state `s`: where no trap of its own stands, its unit is there and its charge is that of
Table 05-2, Issue() goes as far as the charge. -/
structure WordShape (i : Instr) (s : State) (sh : Shape) : Prop where
  exec_eq : exec i s = issue i sh s
  gm : sh.gm = issueMode i
  kernel : sh.kernel = false
  own : ownFree s i → sh.own s = none
  ready : unitReady s i → sh.ready s = true
  early : unitReady s i → sh.early s = none
  units : regionWriter i = false → unitReady s i → (sh.cost s).1 = unitsOf i
  queues : sh.queues = true → ∃ p d a, i = .vgath p d a ∨ i = .vscat p d a

/-- A check of the dispatch, row by row: most rows have no trap of their own and need no unit. -/
theorem exec_wordShape {i : Instr} (hword : i.isWord = true) (huser : kernelOnly i = false) (s : State) : ∃ sh, WordShape i s sh := by
  cases i <;> cases hword <;> cases huser
  case vadd | vsub | vmul | vfma | vmin | vmax | vabs | vneg | vand | vor | vxor | vnot | vshl | vshr | vsra | vsel | vcmp | vbcast | vext | vins |
      vperm | vredadd | vredmin | vredmax | viota | vld | vst | vlds | vsts =>
    exact ⟨_, rfl, rfl, rfl, fun h => misuseErr_none _ (misuse_of_calm h _ _), id, fun _ => rfl, fun _ _ => rfl, nofun⟩
  case vgath p d a =>
    exact ⟨_, rfl, rfl, rfl, fun h => misuseErr_none _ (misuse_of_calm h _ _), And.left, fun ⟨_, hbusy, hpeek⟩ => if_neg (by simp [hbusy, hpeek]),
      fun _ _ => rfl, fun _ => ⟨p, d, a, .inl rfl⟩⟩
  case vscat p d a =>
    exact ⟨_, rfl, rfl, rfl, fun h => misuseErr_none _ (misuse_of_calm h _ _), And.left, fun ⟨_, hbusy, hpeek⟩ => if_neg (by simp [hbusy, hpeek]),
      fun _ _ => rfl, fun _ => ⟨p, d, a, .inr rfl⟩⟩
  case vcvt =>
    exact ⟨_, rfl, rfl, rfl, fun ⟨hpart, hmisuse⟩ => (if_neg (Nat.not_le.2 hpart)).trans (misuseErr_none _ hmisuse), id, fun _ => rfl,
      fun _ _ => rfl, nofun⟩
  case vbind =>
    exact ⟨_, rfl, rfl, rfl, fun h => if_neg (by simp [show s.dirAt _ = none from h]), Bool.and_eq_true_iff.2, fun _ => rfl,
      fun _ _ => rfl, nofun⟩
  case mmv =>
    exact ⟨_, rfl, rfl, rfl, mmvOwn_none _, id, fun _ => rfl, fun _ _ => rfl, nofun⟩
  case mrow =>
    exact ⟨_, rfl, rfl, rfl, fun h => misuseErr_none _ (misuse_of_calm h _ _), fun ⟨hacc, hheld⟩ => Bool.and_eq_true_iff.2 ⟨hacc, congrArg not hheld⟩, fun _ => rfl,
      fun _ _ => rfl, nofun⟩
  case vunbind | vstat | mmaRing | mmaHold | mldb | mpass | mzero | mst | mld | arrive | hpread =>
    exact ⟨_, rfl, rfl, rfl, fun _ => rfl, id, fun _ => rfl, fun _ _ => rfl, nofun⟩
  case lds | sts | trn | stq =>
    exact ⟨_, rfl, rfl, rfl, fun _ => rfl, fun h => Bool.or_eq_true_iff.2 (.inr (congrArg not h)), fun _ => rfl, fun _ _ => rfl, nofun⟩
  case gvol | prefRegion | geq =>
    exact ⟨_, rfl, rfl, rfl, fun _ => rfl, fun h => congrArg not h, fun _ => rfl, fun _ _ => rfl, nofun⟩
  case gtest p d a =>
    exact ⟨_, rfl, rfl, rfl, fun _ => rfl, fun ⟨hrag, hsub, hbusy⟩ => by simp [hrag, hbusy, imp_iff_not_or.1 hsub], fun _ => rfl, fun _ _ => rfl,
      nofun⟩
  case copy | gpool | xred | xbcast | xgath =>
    exact ⟨_, rfl, rfl, rfl, fun _ => rfl, And.left, fun _ => rfl, fun _ ⟨_, hjudge⟩ => by simp [hjudge, unitsOf], nofun⟩
  case mfs =>
    exact ⟨_, rfl, rfl, rfl, fun h => sprShape_own (sprPermitted_read_user h _), fun _ => rfl, fun _ => rfl, fun _ _ => rfl, nofun⟩
  case mts =>
    exact ⟨_, rfl, rfl, rfl, fun h => sprShape_own (sprPermitted_write_user h _), fun _ => rfl, fun _ => rfl, fun _ _ => rfl, nofun⟩
  case acas | afaddcp =>
    exact ⟨_, rfl, rfl, rfl, fun h => if_neg h, fun _ => rfl, fun _ => rfl, fun _ _ => rfl, nofun⟩
  case send p d a =>
    refine ⟨_, rfl, rfl, rfl, fun h => if_neg ?_, fun _ => rfl, fun _ => rfl, fun _ _ => rfl, nofun⟩
    change p.an a + dwCount (opD p d s) ≤ 16 at h
    omega
  case wdset =>
    exact ⟨_, rfl, rfl, rfl, fun h => if_neg (by simp [show wdsetIllegal _ _ = false from h]), fun _ => rfl, fun _ => rfl, fun _ _ => rfl, nofun⟩
  case gint | guni | gsub | gset | gempty | gbox | glat | grag | gdil | gshift | gproj | gsplit | gcanon =>
    exact ⟨_, rfl, rfl, rfl, fun _ => rfl, fun _ => rfl, fun _ => rfl, nofun, nofun⟩
  all_goals exact ⟨_, rfl, rfl, rfl, fun _ => rfl, fun _ => rfl, fun _ => rfl, fun _ _ => rfl, nofun⟩

end Sys2Proof.Machine
end

section
/-! Yields at Issue() (05 R118, R125): an instruction whose charge cannot be paid has no effect, and its context begins to leave or traps. -/

namespace Sys2Proof.Machine

open Sys2Proof.Claims

/-! ### Charges that cannot be paid -/

theorem Ctx.charge_preempted {c : Ctx} {q : PReq} (n m : Nat) (hu : c.user = true) (hp : c.paid = none) (hq : c.preq = some q) :
    c.charge n m = .inr 3#3 := by
  rw [Ctx.charge_user n m hu hp, hq]; rfl
theorem Ctx.charge_short_units {c : Ctx} {n : Nat} (m : Nat) (hu : c.user = true) (hp : c.paid = none) (hq : c.preq = none)
    (h : c.ibud.pays n = false) : c.charge n m = .inr 1#3 := by
  rw [Ctx.charge_user n m hu hp, hq, h]; rfl
theorem Ctx.charge_short_traffic {c : Ctx} {n m : Nat} (hu : c.user = true) (hp : c.paid = none) (hq : c.preq = none)
    (hi : c.ibud.pays n = true) (hm : c.mbud.pays m = false) : c.charge n m = .inr 2#3 := by
  rw [Ctx.charge_user n m hu hp, hq, hi, hm]; rfl

theorem Budget.pays_of_lt {b : Budget} {n : Nat} (hb : b.unm = false) (h : b.count.toNat < n) : b.pays n = false := by
  rw [Budget.pays, hb, decide_eq_false (Nat.not_le.2 h)]; rfl

/-- The charge of an instruction as Issue() takes it: one that may wait in the vector queue pays there as well (R125). -/
def Shape.chargeOf (sh : Shape) (c : Ctx) (cost : Nat × Nat) : Ctx ⊕ BitVec 3 :=
  if sh.queues then c.chargeQueued cost.1 cost.2 else c.charge cost.1 cost.2

theorem Shape.chargeOf_preempted {sh : Shape} {c : Ctx} {q : PReq} (cost : Nat × Nat) (hu : c.user = true) (hp : c.paid = none)
    (hq : c.preq = some q) (hwait : sh.queues = true → c.wait ≠ .stream) : sh.chargeOf c cost = .inr 3#3 := by
  unfold Shape.chargeOf
  split
  · next hqueues => exact Ctx.chargeQueued_yields hu hp hq (.inl (hwait hqueues))
  · exact Ctx.charge_preempted _ _ hu hp hq
theorem Shape.chargeOf_no_preq (sh : Shape) {c : Ctx} (cost : Nat × Nat) (hq : c.preq = none) : sh.chargeOf c cost = c.charge cost.1 cost.2 := by
  rw [Shape.chargeOf, Ctx.chargeQueued_no_preq _ _ hq, ite_self]

/-! ### Issue() of an instruction that cannot be charged -/

/-- A PMREQ finds the instruction not issued: neither its unit nor a place in the queue is waited for (R125). -/
def Shape.stopped (sh : Shape) (s : State) : Bool :=
  s.ctx.user && s.ctx.preq.isSome && s.ctx.paid.isNone && !(sh.queues && s.ctx.wait == .stream)

theorem State.leaveQueue_absent {s : State} (h : ∀ e ∈ s.myCell.vq, e.slot = s.sel.slot → e.kind ≠ .waits ∧ e.kind ≠ .release) :
    s.leaveQueue = s := by
  refine if_neg ?_
  simp only [List.any_eq_true, not_exists, not_and]
  intro e he
  by_cases hslot : e.slot = s.sel.slot
  · simp [h e he hslot]
  · simp [hslot]

/-- An instruction that no trap of its own stops, whose unit is there or which a PMREQ finds not issued, and which cannot be charged begins a
yield. -/
theorem issue_yields {i : Instr} {sh : Shape} {s : State} {g : PEntry} {cost : Nat × Nat} {r : BitVec 3} (hrun : s.canRun = true)
    (hfree : interlocked i s.ctx = false) (hwf : i.wf = true) (hkernel : sh.kernel = false)
    (hguard : issueGuard sh.gm (guardPfx i) s.ctx = some g) (hown : g.s = true → sh.own s = none)
    (hgo : sh.stopped s = true ∨ (g.s = true → sh.ready s = true ∧ sh.early s = none)) (hleave : s.leaveQueue = s)
    (hcost : (if g.s then sh.cost s else (1, 0)) = cost) (hcharge : sh.chargeOf s.ctx cost = .inr r) :
    issue i sh s = .next (s.beginYield r i.ilen) := by
  have hno : (if g.s && s.ctx.paid.isNone then sh.own s else none) = none := by
    split
    · next h => exact hown (Bool.and_eq_true_iff.1 h).1
    · rfl
  have hunit : (g.s && !sh.ready s && !sh.stopped s) = false := by
    rcases hgo with hgo | hgo
    · rw [hgo, Bool.not_true, Bool.and_false]
    · cases hg : g.s with
      | false => rfl
      | true => rw [(hgo hg).1]; rfl
  have hearly : (if g.s && s.ctx.paid.isNone && !sh.stopped s then sh.early s else none) = none := by
    rcases hgo with hgo | hgo
    · rw [hgo, Bool.not_true, Bool.and_false]; rfl
    · split
      · next h => exact (hgo (Bool.and_eq_true_iff.1 (Bool.and_eq_true_iff.1 h).1).1).2
      · rfl
  unfold Shape.stopped at hunit hearly
  unfold Shape.chargeOf at hcharge
  simp only [issue, hrun, hfree, hwf, hkernel, hguard, hno, hunit, hearly, hleave, hcost, hcharge, ite_self, Bool.not_true, Bool.or_false,
    Bool.false_and, Bool.false_eq_true, if_false]

/-! ### Yield(reason) (R118) -/

theorem issueGuard_issueMode (i : Instr) (p : Pfx) (c : Ctx) : issueGuard (issueMode i) p c = issueGuard (guardHow i) p c := by
  cases i <;> rfl

theorem Ctx.badCont_eq_false {c : Ctx} (h0 : c.cont ≠ 0#64) (h1 : c.cont.getLsbD 0 = false) : c.badCont = false := by
  rw [Ctx.badCont, h1, Bool.or_false, beq_eq_false_iff_ne]
  exact h0
theorem Ctx.badCont_eq_true {c : Ctx} (h : c.cont = 0#64 ∨ c.cont.getLsbD 0 = true) : c.badCont = true := by
  rw [Ctx.badCont, Bool.or_eq_true, beq_iff_eq]
  exact h

theorem Ctx.settle_unpaid {c : Ctx} {w : Wait} (h : c.paid = none) : { c.settle with wait := w } = { c with wait := w, cap := none } := by
  rw [Ctx.settle, ← h]

section

variable {s : State} {n : Nat}

/-- A PMREQ that kills, or one that finds a place to continue at: the context is leaving. -/
theorem State.beginYield_preempted {q : PReq} (hp : s.ctx.paid = none) (hq : s.ctx.preq = some q)
    (h : q.disp = 2#2 ∨ s.ctx.cont ≠ 0#64 ∧ s.ctx.cont.getLsbD 0 = false) :
    s.beginYield 3#3 n = s.setCtx { s.ctx with wait := .leaving 3#3, cap := none } := by
  have hgo : (s.ctx.badCont && !(q.disp == 2#2)) = false := by
    rcases h with h | ⟨h0, h1⟩
    · simp [h]
    · rw [Ctx.badCont_eq_false h0 h1, Bool.false_and]
  simp [State.beginYield, hq, hgo, Ctx.settle_unpaid hp]
/-- With no place to continue at it traps, with the budget that the PMREQ saved. -/
theorem State.beginYield_preempted_trap {q : PReq} (hq : s.ctx.preq = some q) (hdisp : q.disp ≠ 2#2)
    (h : s.ctx.cont = 0#64 ∨ s.ctx.cont.getLsbD 0 = true) :
    s.beginYield 3#3 n = (s.setCtx { s.ctx with ibud := q.saved, preq := none }).takeTrap ⟨8, s.ctx.pc, 0x103#64, none⟩ n := by
  have hstop : (s.ctx.badCont && !(q.disp == 2#2)) = true := by simp [Ctx.badCont_eq_true h, hdisp]
  simp [State.beginYield, hq, hstop, mkErr]

variable {r : BitVec 3}

/-- Without a budget policy that traps, a context with no PMREQ pending leaves, or traps when it has no place to continue at. -/
theorem State.beginYield_budget (hpol : s.ctx.bpol = 0#2 ∨ s.ctx.bpol = 1#2) (hq : s.ctx.preq = none) : s.beginYield r n =
    if s.ctx.badCont then s.takeTrap (mkErr 8 s.ctx.pc (0x100#64 ||| r.setWidth 64)) n
    else s.setCtx { s.ctx.settle with wait := .leaving r } := by
  have hlt : ¬ 2#2 ≤ s.ctx.bpol := by rcases hpol with h | h <;> rw [h] <;> decide
  simp only [State.beginYield, hlt, hq, false_and, Bool.and_false, Bool.not_false, Bool.and_true, if_false]

variable (hbudget : r = 1#3 ∨ r = 2#3)

include hbudget

theorem State.beginYield_policy (hpol : s.ctx.bpol = 2#2 ∨ s.ctx.bpol = 3#2) :
    s.beginYield r n = s.takeTrap ⟨8, s.ctx.pc, r.setWidth 64, none⟩ n := by
  have hge : 2#2 ≤ s.ctx.bpol := by rcases hpol with h | h <;> rw [h] <;> decide
  exact if_pos ⟨hge, hbudget⟩

/-- An instruction that Issue() finds too dear has the yields of R118. -/
theorem yields_of_beginYield {i : Instr} (hexec : exec i s = .next (s.beginYield r i.ilen)) (hp : s.ctx.paid = none) (hq : s.ctx.preq = none) :
    Yields s i r := by
  refine ⟨fun hpol h0 h1 => ?leaves, fun hpol hbad => ?stuck, fun hpol => ?policy⟩
  case leaves =>
    rw [hexec, State.beginYield_budget hpol hq, Ctx.badCont_eq_false h0 h1, if_neg Bool.false_ne_true, Ctx.settle_unpaid hp]
  case stuck =>
    have hinfo : 0x100#64 ||| r.setWidth 64 = 0x100#64 + r.setWidth 64 := by rcases hbudget with rfl | rfl <;> rfl
    rw [hexec, State.beginYield_budget hpol hq, Ctx.badCont_eq_true hbad, if_pos rfl, hinfo]; rfl
  case policy => rw [hexec, State.beginYield_policy hbudget hpol]

end

/-! ### Instructions that the context cannot pay -/

section

variable {i : Instr} {s : State} {G : Bool}

/-- What a context faces of an instruction of the shape `sh`, when its charge fails. -/
theorem WordShape.yields {sh : Shape} {cost : Nat × Nat} {r : BitVec 3} (hsh : WordShape i s sh) (hfaces : Faces s i (guardHow i) G)
    (hown : G = true → ownFree s i) (hgo : sh.stopped s = true ∨ (G = true → unitReady s i))
    (hcost : (if G then sh.cost s else (1, 0)) = cost) (hcharge : sh.chargeOf s.ctx cost = .inr r) :
    exec i s = .next (s.beginYield r i.ilen) := by
  obtain ⟨hrun, hfree, hwf, -, -, hqueue, g, hguard, rfl⟩ := hfaces
  rw [← issueGuard_issueMode, ← hsh.gm] at hguard
  rw [hsh.exec_eq]
  refine issue_yields hrun hfree hwf hsh.kernel hguard (fun hg => hsh.own (hown hg)) ?_ (State.leaveQueue_absent hqueue) hcost hcharge
  exact hgo.imp_right fun hunit hg => ⟨hsh.ready (hunit hg), hsh.early (hunit hg)⟩

variable (hword : i.isWord = true) (huser : kernelOnly i = false)

include hword huser

/-- After a PMREQ Issue() charges no instruction, but one whose turn in the vector queue comes. -/
theorem exec_preempted {q : PReq} (hfaces : Faces s i (guardHow i) G) (hown : G = true → ownFree s i) (hq : s.ctx.preq = some q)
    (hqueue : (∀ p d a, i ≠ .vgath p d a ∧ i ≠ .vscat p d a) ∨ s.ctx.wait ≠ .stream) : exec i s = .next (s.beginYield 3#3 i.ilen) := by
  obtain ⟨sh, hsh⟩ := exec_wordShape hword huser s
  have ⟨_, _, _, hu, hp, _⟩ := hfaces
  have hwait (h : sh.queues = true) : s.ctx.wait ≠ .stream := by
    obtain ⟨p, d, a, hi⟩ := hsh.queues h
    exact hqueue.resolve_left fun hne => hi.elim (hne p d a).1 (hne p d a).2
  have hstop : sh.stopped s = true := by
    cases hqs : sh.queues with
    | false => simp [Shape.stopped, hu, hq, hp, hqs]
    | true => simp [Shape.stopped, hu, hq, hp, hwait hqs]
  exact hsh.yields hfaces hown (.inl hstop) rfl (sh.chargeOf_preempted _ hu hp hq hwait)

/-- One whose units of Table 05-2 are not there. -/
theorem cannotPay_units (hregion : regionWriter i = false) (hunit : unitReady s i) (hown : ownFree s i) :
    CannotPay s i (guardHow i) true (unitsOf i) := by
  rintro hfaces hq hmetered hlt
  obtain ⟨sh, hsh⟩ := exec_wordShape hword huser s
  have ⟨_, _, _, hu, hp, _⟩ := hfaces
  refine yields_of_beginYield (.inl rfl) (hsh.yields hfaces (fun _ => hown) (.inr fun _ => hunit) (if_pos rfl) ?_) hp hq
  rw [← hsh.units hregion hunit] at hlt
  rw [sh.chargeOf_no_preq _ hq]
  exact Ctx.charge_short_units _ hu hp hq (Budget.pays_of_lt hmetered hlt)

/-- Under a false guard the charge is 1 (R89). -/
theorem cannotPay_guardFalse : CannotPay s i (guardHow i) false 1 := by
  rintro hfaces hq hmetered hlt
  obtain ⟨sh, hsh⟩ := exec_wordShape hword huser s
  have ⟨_, _, _, hu, hp, _⟩ := hfaces
  refine yields_of_beginYield (.inl rfl) (hsh.yields hfaces (fun h => absurd h Bool.false_ne_true) (.inr fun h => absurd h Bool.false_ne_true) rfl ?_) hp hq
  rw [sh.chargeOf_no_preq _ hq]
  exact Ctx.charge_short_units _ hu hp hq (Budget.pays_of_lt hmetered hlt)

end

/-- A load or store whose traffic the context cannot pay. -/
theorem yields_memory {i : Instr} {s : State} {m : State → Nat} {body : State → Res} (hexec : exec i s = issue i (memory 1 m body) s)
    (hfaces : Faces s i .plain true) (hq : s.ctx.preq = none) (hpays : s.ctx.ibud.pays 1 = true) (hmetered : s.ctx.mbud.unm = false)
    (hlt : s.ctx.mbud.count.toNat < m s) : Yields s i 2#3 := by
  obtain ⟨hrun, hfree, hwf, hu, hp, hqueue, g, hguard, hg⟩ := hfaces
  refine yields_of_beginYield (.inr rfl) (hexec.trans (issue_yields hrun hfree hwf rfl hguard (fun _ => rfl) (.inr fun _ => ⟨rfl, rfl⟩)
    (State.leaveQueue_absent hqueue) (if_pos hg) ?_)) hp hq
  exact Ctx.charge_short_traffic hu hp hq hpays (Budget.pays_of_lt hmetered hlt)

/-! ### BYIELD -/

theorem State.user_charged (s : State) (n m : Nat) (h : s.sid ≤ 10) : (s.charged n m).ctx.user = s.ctx.user := by
  have e := congrArg Ctx.user (s.charged_ctx n m h)
  exact e
theorem State.cont_charged (s : State) (n m : Nat) (h : s.sid ≤ 10) : (s.charged n m).ctx.cont = s.ctx.cont := by
  have e := congrArg Ctx.cont (s.charged_ctx n m h)
  exact e

theorem exec_byield_kernel {p : Pfx} {d a : BitVec 4} {s : State} (h : s.issues (.byield p d a) .plain 2 0 = true) (hu : s.ctx.user = false) :
    exec (.byield p d a) s = .next ((s.charged 2 0).done (.byield p d a)) := by
  refine issue_ok h (.inl rfl) rfl rfl rfl rfl ?_
  show (if !(s.charged 2 0).ctx.user then _ else _) = _
  rw [s.user_charged 2 0 (State.issues_sid h), hu]; rfl
theorem exec_byield_user {p : Pfx} {d a : BitVec 4} {s : State} (h : s.issues (.byield p d a) .plain 2 0 = true) (hu : s.ctx.user = true)
    (h0 : s.ctx.cont ≠ 0#64) (h1 : s.ctx.cont.getLsbD 0 = false) : exec (.byield p d a) s =
      .next ((s.charged 2 0).setCtx { (s.charged 2 0).ctx with wait := .leaving 4#3, paid := none, cap := none }) := by
  have hcont := s.cont_charged 2 0 (State.issues_sid h)
  refine issue_left h (.inl rfl) rfl rfl rfl rfl ?_
  dsimp only [plain]
  rw [s.user_charged 2 0 (State.issues_sid h), hu, Ctx.badCont_eq_false (hcont.symm ▸ h0) (hcont.symm ▸ h1)]; rfl

end Sys2Proof.Machine
end

section
/-! O47: yields. -/

namespace Sys2Proof.Proofs

open Sys2Proof Sys2Proof.Machine Sys2Proof.Claims

/-- Settles O47: `issue_yields` says when Issue() begins a yield, `State.beginYield` what begins, and the lemmas about BUDGET_YIELD and the record
how it ends. -/
theorem yieldResults : Obligations.YieldResults := by
  unfold Obligations.YieldResults
  refine ⟨?preempted, ?units, ?traffic, ?byield, fun s reason => exec_budgetYield_waits, ?leaves, ?record⟩
  case preempted =>
    intro i s q G hword _ huser hfaces hown hq hqueue
    have ⟨_, _, _, _, hp, _⟩ := hfaces
    rw [exec_preempted hword huser hfaces hown hq hqueue]
    exact ⟨fun h => congrArg _ (State.beginYield_preempted hp hq h), fun hdisp h => congrArg _ (State.beginYield_preempted_trap hq hdisp h)⟩
  case units =>
    intro i s hword _ huser
    exact ⟨cannotPay_units hword huser, cannotPay_guardFalse hword huser⟩
  case traffic =>
    rintro i va n (⟨p, d, a, k, ⟨rfl, rfl, rfl⟩ | ⟨rfl, rfl, rfl⟩⟩ | ⟨mk, p, d, a, hmk, rfl, rfl⟩) s hfaces hq hpays hmetered hlt
    case inl.inl | inl.inr => exact yields_memory rfl hfaces hq hpays hmetered hlt
    case inr =>
      simp only [List.mem_cons, List.not_mem_nil, or_false, Prod.mk.injEq] at hmk
      rcases hmk with ⟨rfl, rfl⟩ | ⟨rfl, rfl⟩ | ⟨rfl, rfl⟩ | ⟨rfl, rfl⟩ | ⟨rfl, rfl⟩ | ⟨rfl, rfl⟩ | ⟨rfl, rfl⟩ | ⟨rfl, rfl⟩ | ⟨rfl, rfl⟩
      all_goals exact yields_memory rfl hfaces hq hpays hmetered hlt
  case byield =>
    rintro p d a s u rfl h
    exact ⟨exec_byield_kernel h, exec_byield_user h⟩
  case leaves =>
    intro s x reason key hwait hleave hkey hplace hx
    refine ⟨fun h1 h2 h3 => ?_, fun q hreason hq => ⟨fun hdisp => ?_, fun hdisp => ?_, fun hdisp => ?_⟩, fun r hreason hpol hr => ?_,
      fun e hreason hpol he hroom => ?_⟩
    · exact exec_budgetYield_requeued hwait hleave hkey hx hplace h1 h2 fun h => absurd h h3
    · exact exec_budgetYield_requeued hwait hleave hkey hx hplace (by rw [hreason]; decide) (by rw [hreason]; decide) fun _ => ⟨q, hq, hdisp⟩
    · have hdisp' : q.disp ≠ 0#2 ∧ q.disp ≠ 2#2 := by rcases hdisp with h | h <;> rw [h] <;> decide
      exact exec_budgetYield_held hwait hleave hkey hx hreason hq hdisp'.1 hdisp'.2
    · exact exec_budgetYield_killed hwait hleave hreason hq hdisp
    · exact exec_budgetYield_refilled hwait hleave hkey hx hplace hreason hpol hr
    · exact exec_budgetYield_parked hwait hleave hkey hx hreason hpol he hroom
  case record =>
    intro s c n key cpc mask reason _ hinv hflaws
    refine ⟨_, rfl, ?_, ?_, ?_, ?_, ?_, ?_, fun k hk => ?_, fun a ha => State.saveRecord_out hflaws ha⟩
    · exact State.saveRecord_f64 (o := fCPC) hinv hflaws fun _ => by simp [recordFields]
    · exact State.saveRecord_f64 (o := fLIVE) hinv hflaws fun _ => by simp [recordFields]
    · exact State.saveRecord_f32 (o := fIBUD) (v := (s.ctxAt c n).keptIbud) hinv hflaws fun _ => by simp [recordFields]
    · exact State.saveRecord_f32 (o := fMBUD) hinv hflaws fun _ => by simp [recordFields]
    · exact State.saveRecord_f32 (o := fIGW) (v := addSat _ (s.f32 key fIGW)) hinv hflaws fun _ => by simp [recordFields]
    · exact State.saveRecord_f32 (o := fMGW) (v := addSat _ (s.f32 key fMGW)) hinv hflaws fun _ => by simp [recordFields]
    · exact State.saveRecord_f64 (o := fS k) hinv hflaws fun _ =>
        List.mem_append_right _ (List.mem_map.2 ⟨k, List.mem_range.2 hk, rfl⟩)

end Sys2Proof.Proofs
end

section
/-! The region-writing instructions (06 R151 to R160): what the charge leaves of their operands, and what Issue() answers when the meaning
gives a region, an overflow or the reason of a trap. -/

namespace Sys2Proof.Machine

open Sys2Proof.Claims

/-! ### What the charge leaves of a region instruction's operands -/

@[simp] theorem State.desc_charged (s : State) (n m : Nat) (i : BitVec 12) : (s.charged n m).desc i = s.desc i := by
  rcases s.charged_eq n m with e | ⟨c, -, e⟩ <;> rw [e]; rfl
@[simp] theorem State.gBad_charged (s : State) (n m : Nat) (g : GReg) (ragOk : Bool) : (s.charged n m).gBad g ragOk = s.gBad g ragOk := by
  rw [State.gBad, State.desc_charged, State.gBad]
@[simp] theorem State.boxes_charged (s : State) (n m : Nat) (g : GReg) : (s.charged n m).boxes g = s.boxes g := by
  rw [State.boxes, State.desc_charged, State.lens, State.charged_mem, State.boxes, State.lens]
@[simp] theorem mkRagged_charged (s : State) (n m : Nat) (i : BitVec 12) (outer : NBox) (last : Rng) (ltab : Word) (mode inx ovf : Bool) :
    mkRagged (s.charged n m) i outer last ltab mode inx ovf = mkRagged s i outer last ltab mode inx ovf := by
  simp only [mkRagged, tableAddr, State.desc_charged, State.charged_tid]

section

variable {s : State} (n m : Nat) (h : s.sid ≤ 10)

include h

theorem State.gmode_charged : (s.charged n m).ctx.gmode = s.ctx.gmode := (congrArg Ctx.gmode (s.charged_ctx n m h) :)
theorem vecList_charged (p : Pfx) (r k : Nat) : vecList p r k (s.charged n m) = vecList p r k s := by
  simp only [vecList, vecField, s.rs_charged n m _ h]
theorem vecSigned_charged (p : Pfx) (r k : Nat) : vecSigned p r k (s.charged n m) = vecSigned p r k s := by
  simp only [vecSigned, s.rs_charged n m _ h]
theorem produce_charged (i : BitVec 12) (op : Bool → Bool → Bool) (L R : List NBox) (mode inx ovf : Bool) :
    produce (s.charged n m) i op L R mode inx ovf = produce s i op L R mode inx ovf := by
  unfold produce coverOn
  rw [State.desc_charged, State.gmode_charged n m h]

end

/-! ### Issue() of a region-writing instruction -/

/-- What the instruction `i` does, `x` being what it makes of its operands: a region is written and charged by its boxes (R151); more than
eight boxes under EXACT trap, uncharged, and set the destination's OVF alone (R136); operands that are refused trap with their reason,
uncharged (R152). -/
structure RegionMeaning (i : Instr) (dst base per : Nat) (x : Except Nat Produced) (s : State) : Prop where
  done : ∀ r, x = .ok r → RegionDone i dst base per r s
  overflow : ∀ k, x = .ok (.over k) → s.ctx.paid = none → s.issues i .plain 0 0 = true → Sound i s →
    exec i s = .next ((((s.setCtx { s.ctx with wait := .none }).wg dst
      { (s.setCtx { s.ctx with wait := .none }).rg dst with ovf := true }).takeTrap ⟨0x0A, s.ctx.pc, BitVec.ofNat 64 k, none⟩ i.ilen))
  illegal : ∀ r, x = .error r → s.issues i .plain base 0 = true → Sound i s → s.ctx.paid = none →
    exec i s = .next ((s.setCtx { s.ctx with wait := .none }).takeTrap ⟨0x0B, s.ctx.pc, BitVec.ofNat 64 r, none⟩ i.ilen)

section

variable {i : Instr} {dst base per : Nat} {make : State → Except Nat Produced} {s : State}

/-- A region-writing instruction that issues, charged what its result costs. -/
theorem regionOp_eq {x : Except Nat Produced} {n : Nat} {r : Res} (hmake : make s = x)
    (hcharged : s.sid ≤ 10 → make (s.charged n 0) = make s) (h : s.issues i .plain n 0 = true)
    (hcost : regionCost base per x.toOption = (n, 0)) (hsound : Sound i s)
    (hr : (match x with | .error r => Res.trap (rErr r (s.charged n 0)) | .ok y => putRegion dst y (s.charged n 0)) = r)
    (hwaits : r.waits = false := by rfl) :
    regionOp i dst base per make s = .next (finish i.ilen s (s.charged n 0) n 0 r) := by
  rw [regionOp, issue_region (n := n) (m := 0) h (.inl rfl) rfl rfl ((congrArg (fun y => regionCost base per y.toOption) hmake).trans hcost)
    hsound.1, State.begun_of_sound i n 0 hsound.2]
  dsimp only
  rw [hcharged (State.issues_sid h), hmake]
  cases x <;> subst hr <;> rw [keepCap_done hwaits]

/-- A context that cannot pay for a region's boxes yields (05 R118). -/
theorem regionOp_cannotPay {g : GReg} (hexec : exec i s = regionOp i dst base per make s) (hmake : make s = .ok (.ok g)) :
    CannotPay s i .plain true (base + per * g.boxes.length) := by
  rintro ⟨hrun, hfree, hwf, hu, hp, hqueue, e, hguard, he⟩ hq hmetered hlt
  refine yields_of_beginYield (.inl rfl) (hexec.trans (issue_yields hrun hfree hwf rfl hguard (fun _ => rfl) (.inr fun _ => ⟨rfl, rfl⟩)
    (State.leaveQueue_absent hqueue) (if_pos he) ?_)) hp hq
  dsimp only [Shape.chargeOf]
  rw [hmake]
  exact Ctx.charge_short_units 0 hu hp hq (Budget.pays_of_lt hmetered hlt)

/-- An instruction whose meaning is `regionOp`, its operands read alike on the charged state. -/
theorem regionMeaning_of_regionOp {x : Except Nat Produced} (hexec : exec i s = regionOp i dst base per make s) (hmake : make s = x)
    (hcharged : ∀ n, s.sid ≤ 10 → make (s.charged n 0) = make s) : RegionMeaning i dst base per x s := by
  constructor
  case done =>
    rintro r rfl g n rfl rfl
    refine ⟨fun h hsound => ?_, regionOp_cannotPay hexec hmake⟩
    rw [hexec, regionOp_eq hmake (hcharged _) h rfl hsound rfl]
    rfl
  case overflow =>
    rintro k rfl hpaid h hsound
    rw [hexec, regionOp_eq hmake (hcharged _) h rfl hsound rfl]
    simp only [putRegion, finish, State.unqueue, Ctx.unpay, hpaid, Option.isSome_none, Bool.false_eq_true, if_false,
      s.pc_charged 0 0 (State.issues_sid h)]
    rfl
  case illegal =>
    rintro r rfl h hsound hpaid
    rw [hexec, regionOp_eq hmake (hcharged _) h rfl hsound rfl, finish_trap hpaid, rErr, s.pc_charged base 0 (State.issues_sid h)]
    rfl

end

/-! ### The checks of a region operand (R152) -/

theorem State.gBad_usable {s : State} {g : GReg} {ragOk : Bool} (hrank : g.rank ≠ 0#3) (hD : (s.desc g.desc).installed = true)
    (hrag : ragOk = true ∨ g.ragged = false) : s.gBad g ragOk = none := by
  unfold State.gBad
  rw [if_neg (by simp [hrank, hD]), if_neg (by rcases hrag with h | h <;> simp [h])]
theorem State.gBad_unset {s : State} {g : GReg} {ragOk : Bool} (h : g.rank = 0#3 ∨ (s.desc g.desc).installed = false) :
    s.gBad g ragOk = some 3 := if_pos (h.imp_right fun h => by rw [h]; rfl)
theorem State.gBad_ragged {s : State} {g : GReg} (hrank : g.rank ≠ 0#3) (hD : (s.desc g.desc).installed = true) (hrag : g.ragged = true) :
    s.gBad g false = some 2 := by
  unfold State.gBad
  rw [if_neg (by simp [hrank, hD]), if_pos (by simp [hrag])]

/-! ### Region registers in error (R148) -/

/-- An instruction that has issued and reads a region register with an uncorrectable error traps, uncharged. -/
theorem issue_regionFault {i : Instr} {sh : Shape} {s : State} {n m : Nat} (h : s.issues i sh.gm n m = true)
    (hk : sh.kernel = false ∨ s.ctx.user = false) (ho : sh.own s = none) (hr : sh.ready s = true) (hc : sh.cost s = (n, m))
    (hpaid : s.ctx.paid = none) (hbad : (readRegions i).any s.myCell.gbad.getLsbD = true) (he : sh.early s = none := by rfl)
    (hq : sh.queues = false := by rfl) :
    issue i sh s = .next ((s.setCtx { s.ctx with wait := .none }).takeTrap ⟨0x15, s.ctx.pc, 0#64, none⟩ i.ilen) := by
  have hsid := State.issues_sid h
  have hheld : (s.charged n m).held = none := by
    rw [s.held_charged n m hsid, State.held, hpaid]; rfl
  have hbody : runBody i sh (s.charged n m) = .trap (mkErr 0x15 s.ctx.pc 0#64) := by
    rw [runBody, hheld, regionFault, State.gbad_charged, hbad, s.pc_charged n m hsid]; rfl
  rw [issue_run h hk ho hr hc he hq, hbody, keepCap_done rfl, finish_trap hpaid]; rfl

/-- One that completes, after the correction of those that hold another error. -/
theorem issue_begun_ok {i : Instr} {sh : Shape} {s t : State} {n m : Nat} (h : s.issues i sh.gm n m = true)
    (hk : sh.kernel = false ∨ s.ctx.user = false) (ho : sh.own s = none) (hr : sh.ready s = true) (hc : sh.cost s = (n, m))
    (hfault : regionFault i s = none) (hb : sh.body (s.begun i n m) = .ok t) (he : sh.early s = none := by rfl)
    (hq : sh.queues = false := by rfl) : issue i sh s = .next (t.done i) := by
  rw [issue_region h hk ho hr hc hfault he hq, hb, keepCap_done rfl]; rfl

theorem CellsKept.rg_eq {s t : State} (h : CellsKept s t) (k : Nat) : t.rg k = s.rg k := by
  rw [State.rg, State.myCell, h.cid_eq]
  exact congrArg (fun g => vget g k GReg.unset) (congrArg Cell.g (h.cell s.cid) :)

/-- The only error pending, one that does not last, is corrected and logged. -/
theorem State.meetFlaw_transient {s : State} {x : Array} (h : s.flaws = [(x, false)]) :
    (s.meetFlaw s.tid x).flaws = [] ∧ (∀ k, (s.meetFlaw s.tid x).desc k = s.desc k) ∧
    (s.meetFlaw s.tid x).myTile.elogT = incSat s.myTile.elogT := by
  have htid : (s.meetFlaw s.tid x).tid = s.tid := (s.meetFlaw_kept s.tid x).tid_eq
  have hlog : s.meetFlaw s.tid x = ({ s with flaws := [] } : State).logError s.tid x.code.1 x.code.2 false := by
    simp [State.meetFlaw, h, State.reportError]
  have htile : (s.meetFlaw s.tid x).tile s.tid = _ := (congrArg (State.tile · s.tid) hlog).trans (mget_mset_self _ _ _ _)
  refine ⟨by rw [hlog]; rfl, fun k => ?_, ?_⟩
  · have hasid : (s.meetFlaw s.tid x).asid = s.asid := by
      rw [State.asid, State.asidOf, htid, htile]; rfl
    have hdescs : (s.meetFlaw s.tid x).descs = s.descs := by rw [hlog]; rfl
    rw [State.desc, State.descOf, hasid, hdescs]; rfl
  · rw [State.myTile, htid, htile]; rfl

/-- The one region register that an instruction reads, the only error pending being its own. -/
theorem meetRegions_single {i : Instr} {s : State} {k : Nat} (hreads : readRegions i = [k]) (h : s.flaws = [(.region (16 * s.cid + k), false)]) :
    meetRegions i s = s.meetFlaw s.tid (.region (16 * s.cid + k)) := by
  rw [meetRegions, if_neg (by rw [h]; exact List.cons_ne_nil _ _), hreads]; rfl

/-! ### The transforms (R158) -/

def dilated (p : Pfx) (s : State) (n : Nat) (sizes : List Nat) (bs : List NBox) : List NBox :=
  bs.flatMap fun b => crossRngs (dilateBox (vecList p p.en n s) sizes b)
def shifted (p : Pfx) (s : State) (n : Nat) (sizes : List Nat) (bs : List NBox) : List NBox :=
  bs.filterMap (shiftBox ((List.range n).map fun k => vecSigned p p.en k s) sizes)
def projected (p : Pfx) (_ : State) (_ : Nat) (_ : List Nat) (bs : List NBox) : List NBox := bs.map (projBox (p.immW.toNat % 16) 0)

theorem dilated_charged (p : Pfx) (s : State) (n : Nat) (h : s.sid ≤ 10) : dilated p (s.charged n 0) = dilated p s := by
  funext k sizes bs
  rw [dilated, vecList_charged n 0 h, dilated]
theorem shifted_charged (p : Pfx) (s : State) (n : Nat) (h : s.sid ≤ 10) : shifted p (s.charged n 0) = shifted p s := by
  funext k sizes bs
  simp only [shifted, vecSigned_charged n 0 h]

/-- GDIL, GSHIFT and GPROJ are the transforms `dilated`, `shifted` and `projected`. -/
theorem exec_gdil (p : Pfx) (d a : BitVec 4) (s : State) : exec (.gdil p d a) s =
    transform (.gdil p d a) p d a (fun s n bs => dilated p s n (s.desc (s.rg (p.an a)).desc).sizes bs) s := rfl
theorem exec_gshift (p : Pfx) (d a : BitVec 4) (s : State) : exec (.gshift p d a) s =
    transform (.gshift p d a) p d a (fun s n bs => shifted p s n (s.desc (s.rg (p.an a)).desc).sizes bs) s := rfl
theorem exec_gproj (p : Pfx) (d a : BitVec 4) (s : State) : exec (.gproj p d a) s =
    transform (.gproj p d a) p d a (fun s n bs => projected p s n (s.desc (s.rg (p.an a)).desc).sizes bs) s := rfl

/-! ### What each instruction makes of its operands (R154 to R160) -/

section

variable (p : Pfx) (d a : BitVec 4) (s : State)

/-- GINT, GUNI and GSUB, whose set operation is `op` (R154). -/
theorem algebra_meaning {i : Instr} {op : Bool → Bool → Bool} (hexec : exec i s = algebra i op p d a s) {P Q : GReg}
    (hP : P = s.rg (if p.hasR then p.an a else p.dn d)) (hQ : Q = s.rg (if p.hasR then p.en else p.an a)) :
    RegionMeaning i (p.dn d) 4 2
      (if P.rank = 0#3 ∨ Q.rank = 0#3 ∨ !(s.desc P.desc).installed then .error 3
      else if P.ragged || Q.ragged then .error 2
      else if P.desc ≠ Q.desc then .error 1
      else .ok (produce s P.desc op (s.boxes P) (s.boxes Q) P.strided (P.inexact || Q.inexact) (P.ovf || Q.ovf))) s := by
  subst hP hQ
  exact regionMeaning_of_regionOp hexec rfl fun n h => by
    simp only [State.rg_charged, State.desc_charged, State.boxes_charged, produce_charged n 0 h]

/-- A transform `f` that reads scalar registers alone of the state (R158). -/
theorem transform_meaning {i : Instr} {f : State → Nat → List Nat → List NBox → List NBox}
    (hexec : exec i s = transform i p d a (fun s n bs => f s n (s.desc (s.rg (p.an a)).desc).sizes bs) s)
    (hf : ∀ n, s.sid ≤ 10 → f (s.charged n 0) = f s) {g : GReg} (hg : g = s.rg (p.an a)) :
    RegionMeaning i (p.dn d) 4 2 (match s.gBad g false with
      | some r => .error r
      | none => .ok (produce s g.desc opOr (f s (s.desc g.desc).n (s.desc g.desc).sizes (s.boxes g)) [] g.strided g.inexact g.ovf)) s := by
  subst hg
  exact regionMeaning_of_regionOp hexec rfl fun n h => by
    simp only [State.rg_charged, State.desc_charged, State.gBad_charged, State.boxes_charged, produce_charged n 0 h, hf n h]

theorem gcanon_meaning {g : GReg} (hg : g = s.rg (p.an a)) :
    RegionMeaning (.gcanon p d a) (p.dn d) 8 4 (match s.gBad g false with
      | some r => .error r
      | none => .ok (produce s g.desc opOr (s.boxes g) [] (p.fx.getLsbD 0) g.inexact g.ovf)) s := by
  subst hg
  exact regionMeaning_of_regionOp (make := fun _ => _) rfl rfl fun n h => by
    simp only [State.rg_charged, State.gBad_charged, State.boxes_charged, produce_charged n 0 h]

/-- GSET and GEMPTY make the boxes `L` of the descriptor that s[a] names (R155). -/
theorem whole_meaning {i : Instr} {L : Desc → List NBox} (hexec : exec i s = regionOp i (p.dn d) 2 0 (fun s =>
      if !(s.desc ((opA p a s).extractLsb' 0 12)).installed then .error 3
      else .ok (produce s ((opA p a s).extractLsb' 0 12) opOr (L (s.desc ((opA p a s).extractLsb' 0 12))) [] (cmode s) false false)) s)
    {D : BitVec 12} (hD : D = (s.rs (p.an a)).extractLsb' 0 12) :
    RegionMeaning i (p.dn d) 2 0 (if !(s.desc D).installed then .error 3
      else .ok (produce s D opOr (L (s.desc D)) [] (s.ctx.gmode.getLsbD 1) false false)) s := by
  subst hD
  exact regionMeaning_of_regionOp hexec rfl fun n h => by
    simp only [opA, cmode, s.rs_charged n 0 _ h, State.gmode_charged n 0 h, State.desc_charged, produce_charged n 0 h] <;> rfl

/-- GBOX over the descriptor of g[d] (R156). -/
theorem gbox_meaning {g : GReg} (hg : g = s.rg (p.dn d)) {k : Nat} (hk : k = (s.desc g.desc).n) {cnt st : List Nat}
    (hcnt : cnt = vecList p p.en k s) (hst : st = vecList p (p.en + vecRegs p) k s) :
    RegionMeaning (.gbox p d a) (p.dn d) 2 0 (if (s.gBad g true).isSome then .error 3
      else if g.ragged then .error 2
      else if cnt.contains 0 || st.contains 0 then .error 4
      else .ok (produce s g.desc opOr [mkBox (vecList p (p.an a) k s) cnt st] [] (s.ctx.gmode.getLsbD 1) false false)) s := by
  subst hg hk hcnt hst
  exact regionMeaning_of_regionOp (make := fun _ => _) rfl rfl fun n h => by
    simp only [cmode, State.rg_charged, State.desc_charged, State.gBad_charged, vecList_charged n 0 h, produce_charged n 0 h,
      State.gmode_charged n 0 h]

theorem glat_meaning {g : GReg} (hg : g = s.rg (p.dn d)) {k : Nat} (hk : k = (s.desc g.desc).n) {lo st cnt : List Nat}
    (hlo : lo = vecList p (p.an a) k s) (hst : st = vecList p p.en k s)
    (hcnt : cnt = (List.range k).map fun j => ceilDiv (((s.desc g.desc).sizes[j]?).getD 0 - (lo[j]?).getD 0) ((st[j]?).getD 1)) :
    RegionMeaning (.glat p d a) (p.dn d) 2 0 (if (s.gBad g true).isSome then .error 3
      else if g.ragged then .error 2
      else if st.contains 0 then .error 4
      else .ok (produce s g.desc opOr (if cnt.contains 0 then [] else [mkBox lo cnt st]) [] (s.ctx.gmode.getLsbD 1) false false)) s := by
  subst hg hk hlo hst hcnt
  exact regionMeaning_of_regionOp (make := fun _ => _) rfl rfl fun n h => by
    simp only [cmode, State.rg_charged, State.desc_charged, State.gBad_charged, vecList_charged n 0 h, produce_charged n 0 h,
      State.gmode_charged n 0 h]

/-- GRAG over the descriptor of g[d], its box being `b` (R157). -/
theorem grag_meaning {g : GReg} (hg : g = s.rg (p.dn d)) {k : Nat} (hk : k = (s.desc g.desc).n) {cnt st : List Nat} {b : NBox}
    (hcnt : cnt = vecList p (p.en + vecRegs p) k s) (hst : st = vecList p (p.en + 2 * vecRegs p) k s)
    (hb : b = mkBox (vecList p p.en k s) cnt st) :
    RegionMeaning (.grag p d a) (p.dn d) 2 0 (if (s.gBad g true).isSome then .error 3
      else if k < 2 ∨ !(s.desc g.desc).ragged then .error 8
      else if st.contains 0 || (cnt.take (k - 1)).contains 0 then .error 4
      else match mkRagged s g.desc (b.take (k - 1)) ((b.drop (k - 1)).headD oneRng) (s.rs (p.an a)) (s.ctx.gmode.getLsbD 1) false false with
        | none => .error 8
        | some r => .ok (.ok r)) s := by
  subst hg hk hcnt hst hb
  exact regionMeaning_of_regionOp (make := fun _ => _) rfl rfl fun n h => by
    simp only [opA, cmode, State.rg_charged, State.desc_charged, State.gBad_charged, vecList_charged n 0 h, mkRagged_charged,
      s.rs_charged n 0 _ h, State.gmode_charged n 0 h]

/-- GSPLIT, part `i` of `k` (R159). -/
theorem gsplit_meaning {g : GReg} (hg : g = s.rg (p.an a)) {i k : Nat} (hi : i = ((s.rs p.en).extractLsb' 0 32).toNat)
    (hk : k = ((s.rs p.en).extractLsb' 32 32).toNat) :
    RegionMeaning (.gsplit p d a) (p.dn d) 4 2 (match s.gBad g true with
      | some r => .error r
      | none =>
        if k = 0 ∨ k ≤ i then .error 5
        else if g.ragged then
          match g.outer (s.desc g.desc).n with
          | [] => .ok (.ok (emptyRegion g.desc (s.desc g.desc) g.strided g.inexact g.ovf))
          | r0 :: rest =>
            match (if partStart r0.cnt k (i + 1) - partStart r0.cnt k i = 0 then none
              else clipBox (s.desc g.desc).sizes
                (⟨r0.lo + partStart r0.cnt k i * r0.step, partStart r0.cnt k (i + 1) - partStart r0.cnt k i, r0.step⟩ :: rest)) with
            | none => .ok (.ok (emptyRegion g.desc (s.desc g.desc) g.strided g.inexact g.ovf))
            | some O => .ok (.ok { g with
              rank := BitVec.ofNat 3 (s.desc g.desc).n
              ltab := g.ltab + BitVec.ofNat 64 (4 * partStart r0.cnt k i * NBox.size rest)
              boxes := [(O.map Rng.norm ++ [(((g.nboxes (s.desc g.desc).n).headD []).drop ((s.desc g.desc).n - 1)).headD oneRng]).map Rng.dim] })
        else if 2 ^ 64 ≤ volume (s.boxes g) then .error 5
        else .ok (produce s g.desc opOr (listPart (s.boxes g) (partStart (volume (s.boxes g)) k i) (partStart (volume (s.boxes g)) k (i + 1))) []
          g.strided g.inexact g.ovf)) s := by
  subst hg hi hk
  exact regionMeaning_of_regionOp (make := fun _ => _) rfl rfl fun n h => by
    simp only [opE, State.rg_charged, State.desc_charged, State.gBad_charged, State.boxes_charged, s.rs_charged n 0 _ h, produce_charged n 0 h]
    <;> rfl

end

end Sys2Proof.Machine
end

section
/-! O33 and O34: region-writing instructions. -/

namespace Sys2Proof.Proofs

open Sys2Proof Sys2Proof.Machine Sys2Proof.Claims

theorem regionAlgebra_of_algebra {mk : Pfx → BitVec 4 → BitVec 4 → Instr} {op : Bool → Bool → Bool}
    (hexec : ∀ p d a s, exec (mk p d a) s = algebra (mk p d a) op p d a s) : RegionAlgebra mk op := by
  intro p d a s P Q hP hQ hPset hQset hD hPrag hQrag hdesc
  refine (algebra_meaning p d a s (hexec p d a s) hP hQ).done _ ?_
  rw [if_neg (by simp [hPset, hQset, hD]), if_neg (by simp [hPrag, hQrag]), if_neg (not_not_intro hdesc)]

theorem regionTransform_of_transform {mk : Pfx → BitVec 4 → BitVec 4 → Instr} {f : Pfx → State → Nat → List Nat → List NBox → List NBox}
    (hexec : ∀ p d a s, exec (mk p d a) s = transform (mk p d a) p d a (fun s n bs => f p s n (s.desc (s.rg (p.an a)).desc).sizes bs) s)
    (hf : ∀ p s n, s.sid ≤ 10 → f p (s.charged n 0) = f p s) : RegionTransform mk f := by
  intro p d a s g hg hset hD hrag
  refine (transform_meaning p d a s (hexec p d a s) (hf p s) hg).done _ ?_
  rw [State.gBad_usable hset hD (.inr hrag)]

/-- Settles O33: each form is `regionOp` with what its `_meaning` lemma says, and the operands of the statement pass its checks. -/
theorem regionResults : Obligations.RegionResults := by
  unfold Obligations.RegionResults
  refine ⟨regionAlgebra_of_algebra fun _ _ _ _ => rfl, regionAlgebra_of_algebra fun _ _ _ _ => rfl, regionAlgebra_of_algebra fun _ _ _ _ => rfl,
    ?gset, ?gempty, ?gbox, ?glat, ?grag, regionTransform_of_transform exec_gdil dilated_charged,
    regionTransform_of_transform exec_gshift shifted_charged, regionTransform_of_transform exec_gproj fun _ _ _ _ => rfl,
    ?gsplit, ?ragged, ?gcanon⟩
  case gset =>
    intro p d a s hD _
    refine (whole_meaning (L := fun D => [wholeBox D]) p d a s rfl rfl).done _ ?_
    rw [hD]; rfl
  case gempty =>
    intro p d a s hD _
    refine (whole_meaning (L := fun _ => []) p d a s rfl rfl).done _ ?_
    rw [hD]; rfl
  case gbox =>
    intro p d a s g n hg hset hD hrag hn hcnt hst
    refine (gbox_meaning p d a s hg hn rfl rfl).done _ ?_
    rw [State.gBad_usable hset hD (.inl rfl), hrag]
    simp [hcnt, hst]
  case glat =>
    intro p d a s g n cnt hg hset hD hrag hn hst hcnt
    refine (glat_meaning p d a s hg hn rfl rfl hcnt).done _ ?_
    rw [State.gBad_usable hset hD (.inl rfl), hrag]
    simp [hst]
  case grag =>
    intro p d a s g n b r hg hset hD hrag hn hrank hst hcnt hb hr
    refine (grag_meaning p d a s hg hn rfl rfl hb).done _ ?_
    rw [State.gBad_usable hset hD (.inl rfl), hrag, hr]
    simp [hst, hcnt, Nat.not_lt.2 hrank]
  case gsplit =>
    intro p d a s g i k hg hset hD hrag hi hk hik hvol
    refine (gsplit_meaning p d a s hg hi hk).done _ ?_
    rw [State.gBad_usable hset hD (.inl rfl), hrag]
    dsimp only
    rw [if_neg (by omega), if_neg Bool.false_ne_true, if_neg (Nat.not_le.2 hvol)]
  case ragged =>
    rintro p d a s g D i k r0 rest fr n O hg hset rfl hD hrag hi hk hik houter rfl rfl hO
    refine (gsplit_meaning p d a s hg hi hk).done _ ?_
    rw [State.gBad_usable hset hD (.inl rfl), houter]
    dsimp only
    rw [if_neg (by omega), if_pos hrag, ← hO]
    cases O <;> rfl
  case gcanon =>
    intro p d a s g hg hset hD hrag
    refine (gcanon_meaning p d a s hg).done _ ?_
    rw [State.gBad_usable hset hD (.inr hrag)]

/-! ### Where they trap -/

/-- The reasons of GINT, GUNI and GSUB (R152, R154). -/
theorem algebra_illegal {mk : Pfx → BitVec 4 → BitVec 4 → Instr} {op : Bool → Bool → Bool} {p : Pfx} {d a : BitVec 4} {s : State}
    (hexec : exec (mk p d a) s = algebra (mk p d a) op p d a s) {P Q : GReg} {r : Nat}
    (hP : P = s.rg (if p.hasR then p.an a else p.dn d)) (hQ : Q = s.rg (if p.hasR then p.en else p.an a))
    (h : s.issues (mk p d a) .plain 4 0 = true) (hsound : Sound (mk p d a) s) (hpaid : s.ctx.paid = none)
    (hr : r = 3 ∧ (P.rank = 0#3 ∨ Q.rank = 0#3 ∨ (s.desc P.desc).installed = false) ∨
      P.rank ≠ 0#3 ∧ Q.rank ≠ 0#3 ∧ (s.desc P.desc).installed = true ∧
        (r = 2 ∧ (P.ragged = true ∨ Q.ragged = true) ∨ r = 1 ∧ P.ragged = false ∧ Q.ragged = false ∧ P.desc ≠ Q.desc)) :
    exec (mk p d a) s = .next ((s.setCtx { s.ctx with wait := .none }).takeTrap ⟨0x0B, s.ctx.pc, BitVec.ofNat 64 r, none⟩ (mk p d a).ilen) := by
  refine (algebra_meaning p d a s hexec hP hQ).illegal r ?_ h hsound hpaid
  rcases hr with ⟨rfl, hunset⟩ | ⟨hPset, hQset, hD, hr⟩
  · rw [if_pos (by simpa using hunset)]
  · rw [if_neg (by simp [hPset, hQset, hD])]
    rcases hr with ⟨rfl, hrag⟩ | ⟨rfl, hPrag, hQrag, hdesc⟩
    · rw [if_pos (by simpa using hrag)]
    · rw [if_neg (by simp [hPrag, hQrag]), if_pos hdesc]

/-- Reasons 3 and 2 of an operand that must not be ragged (R152). -/
theorem gBad_reason {s : State} {g : GReg} {r : Nat} (hr : r = 3 ∧ (g.rank = 0#3 ∨ (s.desc g.desc).installed = false) ∨
    r = 2 ∧ g.rank ≠ 0#3 ∧ (s.desc g.desc).installed = true ∧ g.ragged = true) : s.gBad g false = some r := by
  rcases hr with ⟨rfl, hunset⟩ | ⟨rfl, hset, hD, hrag⟩
  · exact State.gBad_unset hunset
  · exact State.gBad_ragged hset hD hrag

/-- GCNT of a register whose error does not last: it is corrected and logged, and the boxes are counted (R148). -/
theorem exec_gcnt_corrected {p : Pfx} {d a : BitVec 4} {s : State} (h : s.issues (.gcnt p d a) .plain 2 0 = true)
    (hsound : regionFault (.gcnt p d a) s = none) (hbad : s.gBad (s.rg (p.an a)) true = none)
    (hflaws : s.flaws = [(.region (16 * s.cid + p.an a), false)]) : ∃ t, exec (.gcnt p d a) s = .next t ∧
      t.rs (p.dn d) = BitVec.ofNat 64 (s.rg (p.an a)).boxes.length ∧ t.flaws = [] ∧ t.myTile.elogT = incSat s.myTile.elogT := by
  have hsid := State.issues_sid h
  have hdn : p.dn d < 16 := Instr.wf_sreg (State.issues_iff.1 h).2.2.1 List.mem_cons_self
  have hflaws' : (s.charged 2 0).flaws = [(.region (16 * (s.charged 2 0).cid + p.an a), false)] := by
    rw [s.charged_flaws, hflaws, s.charged_cid]
  obtain ⟨hcorrected, hdesc, hlogged⟩ := State.meetFlaw_transient hflaws'
  have hkept := (s.charged 2 0).meetFlaw_kept (s.charged 2 0).tid (.region (16 * (s.charged 2 0).cid + p.an a))
  have hbegun : s.begun (.gcnt p d a) 2 0 = _ := meetRegions_single rfl hflaws'
  rw [← hbegun] at hcorrected hdesc hlogged hkept
  have hexec (t : State) (hb : checkRegion ((s.begun (.gcnt p d a) 2 0).rg (p.an a)) true (s.begun (.gcnt p d a) 2 0) (fun s =>
      .ok (s.ws (p.dn d) (BitVec.ofNat 64 (s.rg (p.an a)).boxes.length))) = .ok t) : exec (.gcnt p d a) s = .next (t.done (.gcnt p d a)) :=
    issue_begun_ok h (.inl rfl) rfl rfl rfl hsound hb
  generalize s.begun (.gcnt p d a) 2 0 = v at hcorrected hdesc hlogged hkept hexec
  have hvsid : v.sid ≤ 10 := by rw [hkept.sid_eq, s.charged_sid]; exact hsid
  have hrg : v.rg (p.an a) = s.rg (p.an a) := (hkept.rg_eq _).trans (s.rg_charged 2 0 _)
  have hvbad : v.gBad (s.rg (p.an a)) true = none := by
    rw [State.gBad, hdesc, State.desc_charged]; exact hbad
  refine ⟨(v.ws (p.dn d) (BitVec.ofNat 64 (s.rg (p.an a)).boxes.length)).done (.gcnt p d a), hexec _ ?_, ?_, hcorrected, ?_⟩
  · rw [checkRegion, hrg, hvbad]
  · have hwsid : (v.ws (p.dn d) (BitVec.ofNat 64 (s.rg (p.an a)).boxes.length)).sid ≤ 10 := hvsid
    rw [State.rs_done _ _ _ hwsid, State.rs_ws_self _ _ hvsid hdn]
  · have htile : (s.charged 2 0).myTile = s.myTile := by
      rw [State.myTile, State.tile, s.charged_tiles, s.charged_tid]; rfl
    rw [← htile]
    exact hlogged

/-- Settles O34: each form is `regionOp`, whose meaning refuses the operand or finds too many boxes; an error of the register is met first. -/
theorem regionTraps : Obligations.RegionTraps := by
  unfold Obligations.RegionTraps
  refine ⟨?overflow, ?algebra, ?transform, ?gbox, ?gsplit, ?error, ?corrected⟩
  case overflow =>
    intro mk op hmk p d a s P Q k hP hQ hPset hQset hD hPrag hQrag hdesc hpaid hover h hsound
    have hx : (if P.rank = 0#3 ∨ Q.rank = 0#3 ∨ !(s.desc P.desc).installed then .error 3
        else if P.ragged || Q.ragged then .error 2
        else if P.desc ≠ Q.desc then .error 1
        else .ok (produce s P.desc op (s.boxes P) (s.boxes Q) P.strided (P.inexact || Q.inexact) (P.ovf || Q.ovf)) : Except Nat Produced) =
        .ok (.over k) := by
      rw [if_neg (by simp [hPset, hQset, hD]), if_neg (by simp [hPrag, hQrag]), if_neg (not_not_intro hdesc), hover]
    simp only [List.mem_cons, List.not_mem_nil, or_false, Prod.mk.injEq] at hmk
    rcases hmk with ⟨rfl, rfl⟩ | ⟨rfl, rfl⟩ | ⟨rfl, rfl⟩
    all_goals exact (algebra_meaning p d a s rfl hP hQ).overflow k hx hpaid h hsound
  case algebra =>
    intro mk hmk p d a s P Q r hP hQ h hsound hpaid hr
    simp only [List.mem_cons, List.not_mem_nil, or_false] at hmk
    rcases hmk with rfl | rfl | rfl
    all_goals exact algebra_illegal rfl hP hQ h hsound hpaid hr
  case transform =>
    intro mk n hmk p d a s g r hg h hsound hpaid hr
    have hbad := gBad_reason hr
    simp only [List.mem_cons, List.not_mem_nil, or_false, Prod.mk.injEq] at hmk
    rcases hmk with ⟨rfl, rfl⟩ | ⟨rfl, rfl⟩ | ⟨rfl, rfl⟩ | ⟨rfl, rfl⟩
    · exact (transform_meaning p d a s (exec_gdil p d a s) (dilated_charged p s) hg).illegal r (by rw [hbad]) h hsound hpaid
    · exact (transform_meaning p d a s (exec_gshift p d a s) (shifted_charged p s) hg).illegal r (by rw [hbad]) h hsound hpaid
    · exact (transform_meaning p d a s (exec_gproj p d a s) (fun _ _ => rfl) hg).illegal r (by rw [hbad]) h hsound hpaid
    · exact (gcanon_meaning p d a s hg).illegal r (by rw [hbad]) h hsound hpaid
  case gbox =>
    intro p d a s g n hg hset hD hrag hn h hsound hpaid hzero
    refine (gbox_meaning p d a s hg hn rfl rfl).illegal 4 ?_ h hsound hpaid
    rw [State.gBad_usable hset hD (.inl rfl), hrag]
    simpa [or_iff_not_imp_left] using hzero
  case gsplit =>
    intro p d a s g i k hg hset hD hi hk hle h hsound hpaid
    refine (gsplit_meaning p d a s hg hi hk).illegal 5 ?_ h hsound hpaid
    rw [State.gBad_usable hset hD (.inl rfl)]
    exact if_pos (.inr hle)
  case error =>
    intro mk hmk p d a s h hpaid hwait hbad
    have hany : [p.an a].any s.myCell.gbad.getLsbD = true := by rw [List.any_cons, hbad, Bool.true_or]
    simp only [List.mem_cons, List.not_mem_nil, or_false] at hmk
    rcases hmk with rfl | rfl | rfl
    · exact issue_regionFault h (.inl rfl) rfl rfl rfl hpaid hany
    · exact issue_regionFault h (.inl rfl) rfl (congrArg not (hwait rfl)) rfl hpaid hany
    · exact issue_regionFault h (.inl rfl) rfl rfl rfl hpaid hany
  case corrected =>
    rintro p d a s g rfl h hsound hbad hflaws
    exact exec_gcnt_corrected h hsound hbad hflaws

end Sys2Proof.Proofs
end

section
/-! Region images and queries (06 R161 to R163): what the released state holds of a stored register, and the meanings of GLD, GST, the queries
and the tests on operands that pass their checks. -/

namespace Sys2Proof.Machine

open Sys2Proof.Claims

/-! ### What the charge and the release leave of the operands -/

/-- A release changes no context. -/
theorem released_ctx (p : Pfx) (u : State) : (released p u).ctx = u.ctx := by
  unfold released State.release
  split_ifs
  · exact (u.dropL1_l1Only _).ctx_eq
  · rfl
  · rfl

theorem gOp_released (p : Pfx) {s : State} (n m k : Nat) (h : s.sid ≤ 10) : (released p (s.charged n m)).gOp k = s.gOp k := by
  have hheld : (released p (s.charged n m)).held = s.held := by
    rw [State.held, released_ctx]
    exact s.held_charged n m h
  rw [State.gOp, hheld, State.gOp, (released_kept p (s.charged n m)).rg_eq, s.rg_charged]

/-! ### Operands that pass their checks (R152) -/

theorem withRegion_usable {g : GReg} {ragOk : Bool} {s : State} (k : State → Res) (hflaws : s.flaws = []) (hbad : s.gBad g ragOk = none)
    (hwait : s.ragWait g = false) (hpoison : s.ragPoison g = none) : withRegion g ragOk s k = k s := by
  have hmeet : s.meetTable g = s := by
    rw [State.meetTable, State.meetLines, if_pos hflaws, ite_self]
  rw [withRegion, hbad]
  dsimp only
  rw [hwait, hpoison]
  dsimp only
  rw [hmeet, if_neg Bool.false_ne_true]

/-- An operand that must not be ragged has no table to wait for. -/
theorem withRegion_plain {g : GReg} {s : State} (k : State → Res) (hbad : s.gBad g false = none) : withRegion g false s k = k s := by
  have hrag : g.ragged = false := by
    cases hg : g.ragged with
    | false => rfl
    | true => unfold State.gBad at hbad; split at hbad <;> simp [hg] at hbad
  rw [withRegion, hbad]
  simp only [State.ragWait, State.ragPoison, State.meetTable, hrag, Bool.false_and, Bool.false_eq_true, if_false]

/-! ### GLD and GST (R161) -/

/-- An instruction that has paid and waits keeps what it has captured at its issue (04 R79). -/
theorem issue_hold_captures {i : Instr} {sh : Shape} {s : State} {n m : Nat} {k : Cap} (h : s.issues i sh.gm n m = true)
    (hk : sh.kernel = false ∨ s.ctx.user = false) (ho : sh.own s = none) (hr : sh.ready s = true) (hc : sh.cost s = (n, m))
    (hsound : Sound i s) (hcap : s.capture i = some k) (hb : sh.body (s.charged n m) = .hold) (he : sh.early s = none := by rfl)
    (hq : sh.queues = false := by rfl) :
    issue i sh s = .next ((s.charged n m).setCtx { (s.charged n m).ctx.waitAs n m .hold with
      cap := if s.ctx.paid = none then some k else s.ctx.cap }) := by
  have hsid := State.issues_sid h
  have husid : (s.charged n m).sid ≤ 10 := by rw [s.charged_sid]; exact hsid
  have hucap : (s.charged n m).ctx.cap = s.ctx.cap := (congrArg Ctx.cap (s.charged_ctx n m hsid) :)
  rw [issue_region h hk ho hr hc hsound.1 he hq, State.begun_of_sound i n m hsound.2, hb]
  congr 1
  cases hpaid : s.ctx.paid with
  | none =>
    rw [keepCap, hpaid, hcap, if_pos rfl]
    show State.setCtx (State.setCtx _ _) _ = _
    rw [finish, State.ctx_setCtx _ _ husid, State.setCtx_setCtx]
  | some x =>
    rw [if_neg (Option.some_ne_none x), ← hucap, keepCap, hpaid]
    rfl

section

variable {p : Pfx} {d a : BitVec 4} {s u v : State} {va : Word} {m : Nat} (hva : va = s.rs (p.an a) + p.immW)
  (hm : m = bulkTraffic s va 400) (hu : u = s.charged 2 m) (halign : va.toNat % 16 = 0) (hmem : MemReady p u v)

include hva hm hu halign hmem

theorem exec_gld_region {bs : List Byte} {g : GReg} (h : s.issues (.gld p d a) .plain 2 m = true) (hread : readPieces v va 25 = .ok bs)
    (hload : loadImage v.asIssued bs = .ok (.ok g)) :
    exec (.gld p d a) s = .next ((withAcquire p ((v.touchAll (pieces va 16 25) 16).wg (p.dn d) g)).done (.gld p d a)) := by
  obtain ⟨rfl, hheld, hrel⟩ := hmem
  subst hva hm hu
  refine issue_ok h (.inl rfl) rfl rfl rfl rfl ?_
  dsimp only [memory]
  rw [addrX, opA_charged p a _ _ (State.issues_sid h), if_neg (not_not_intro halign), hheld, if_neg Bool.false_ne_true, withRelease_done _ hrel,
    hread]
  dsimp only
  rw [hload]

theorem exec_gst_stores {xs : List (List WByte × Nat × FFlags)} {w : State} (h : s.issues (.gst p d a) .plain 2 m = true)
    (hsound : Sound (.gst p d a) s) (hxs : storePieces v va 25 (s.gOp (p.dn d)).image = .ok xs) (hw : w = v.touchPuts (pieces va 16 25) 16) :
    (pAcq p = false → exec (.gst p d a) s = .next ((xs.foldl (fun s x => s.issueStore x .plain) w).done (.gst p d a))) ∧
    (pAcq p = true → v.ctx.pend = [] → v.pendMeets (xs.flatMap (·.1)) = false → exec (.gst p d a) s =
      .next (((xs.foldl (fun s x => (s.raise x.2.2).write s.tid x.1) w).acquire (pScope p)).done (.gst p d a))) ∧
    (pAcq p = true → v.ctx.pend ≠ [] ∨ v.pendMeets (xs.flatMap (·.1)) = true → exec (.gst p d a) s =
      .next (u.setCtx { u.ctx.waitAs 2 m .hold with cap := if s.ctx.paid = none then some ⟨s.rg (p.dn d), Desc.none, [], []⟩ else s.ctx.cap })) := by
  obtain ⟨rfl, hheld, hrel⟩ := hmem
  subst hva hm hu hw
  have hsid := State.issues_sid h
  refine ⟨fun hacq => issue_region_ok h (.inl rfl) rfl rfl rfl hsound ?_,
    fun hacq hpend hmeets => issue_region_ok h (.inl rfl) rfl rfl rfl hsound ?_,
    fun hacq hwait => issue_hold_captures h (.inl rfl) rfl rfl rfl hsound rfl ?_⟩
  all_goals
    dsimp only [memory]
    rw [addrX, opA_charged p a _ _ hsid, if_neg (not_not_intro halign), hheld, if_neg Bool.false_ne_true, withRelease_done _ hrel,
      gOp_released p _ _ _ hsid, hxs]
    dsimp only
    rw [hacq]
  · rfl
  · rw [hpend, hmeets, withAcquire_acq _ hacq]; rfl
  · refine (if_pos rfl).trans (if_neg ?_)
    rcases hwait with h | h <;> simp [h]

end

theorem foldl_issueStore_mem (xs : List (List WByte × Nat × FFlags)) (s : State) :
    (xs.foldl (fun s x => s.issueStore x .plain) s).mem = s.mem :=
  foldl_mem (fun s x => s.issueStore x .plain) (fun _ _ => rfl) xs s

/-! ### Queries and tests (R162, R163) -/

/-- What function `q` of GTEST asks of the region `g` (R163). -/
def gtestHolds (p : Pfx) (q : Nat) (g : GReg) (s : State) : Bool :=
  match q with
  | 0 => (s.boxes g).isEmpty
  | 1 => (s.boxes g).any fun b => NBox.has b (vecList p p.en (s.desc g.desc).n s)
  | 2 => g.desc == (s.rg p.en).desc && subSet (s.desc g.desc).n (s.boxes g) (s.boxes (s.rg p.en))
  | _ => g.inexact

section

variable {p : Pfx} {d a : BitVec 4} {s u : State} {g : GReg} (hu : u = s.charged 2 0)

include hu

/-- A query of a region that passes its check. -/
theorem query_ok {i : Instr} {ragOk : Bool} {k : Nat} {f : State → GReg → Res} {t : State} (hg : g = s.rg k) (h : s.issues i .plain 2 0 = true)
    (hsound : Sound i s) (hbad : s.gBad g ragOk = none) (hwait : ragOk = true → u.ragWait g = false ∧ u.ragPoison g = none) (hf : f u g = .ok t) :
    query i ragOk (·.rg k) f s = .next (t.done i) := by
  subst hu hg
  have hready : (!ragOk || !s.ragWait (s.rg k)) = true := by
    cases ragOk with
    | false => rfl
    | true => rw [← s.ragWait_charged 2 0 _ (State.issues_sid h), (hwait rfl).1]; rfl
  refine issue_region_ok h (.inl rfl) rfl hready rfl hsound ?_
  dsimp only [plain]
  rw [s.rg_charged]
  rw [← s.gBad_charged 2 0] at hbad
  cases ragOk with
  | false => rw [withRegion_plain _ hbad, s.rg_charged, hf]
  | true =>
    rw [withRegion_usable _ ((s.charged_flaws 2 0).trans hsound.2) hbad (hwait rfl).1 (hwait rfl).2, s.rg_charged, hf]

theorem exec_gcnt_count (hg : g = s.rg (p.an a)) (h : s.issues (.gcnt p d a) .plain 2 0 = true) (hsound : Sound (.gcnt p d a) s)
    (hbad : s.gBad g true = none) :
    exec (.gcnt p d a) s = .next ((u.ws (p.dn d) (BitVec.ofNat 64 g.boxes.length)).done (.gcnt p d a)) := by
  subst hu hg
  refine issue_region_ok h (.inl rfl) rfl rfl rfl hsound ?_
  dsimp only [plain]
  rw [s.rg_charged, checkRegion, s.gBad_charged, hbad]
  dsimp only
  rw [s.rg_charged]

/-- GTEST pushes what its function finds of g[a], and of g[e] for the subset test (R163). -/
theorem exec_gtest_pushes {t : State} (hg : g = s.rg (p.an a)) (h : s.issues (.gtest p d a) .push 2 0 = true)
    (hsound : Sound (.gtest p d a) s) (hbusy : u.spillBusy = false) (hbad : s.gBad g true = none) (hwait : u.ragWait g = false)
    (hpoison : u.ragPoison g = none)
    (hsub : p.immW.toNat % 4 = 2 → s.gBad (s.rg p.en) true = none ∧ u.ragWait (s.rg p.en) = false ∧ u.ragPoison (s.rg p.en) = none)
    (hpush : u.push (condEntry (gtestHolds p (p.immW.toNat % 4) g s)) = some t) : exec (.gtest p d a) s = .next (t.done (.gtest p d a)) := by
  subst hu hg
  have hsid := State.issues_sid h
  have hflaws : (s.charged 2 0).flaws = [] := (s.charged_flaws 2 0).trans hsound.2
  have hready : (!s.ragWait (s.rg (p.an a)) && (p.immW.toNat % 4 != 2 || !s.ragWait (s.rg p.en)) && !s.spillBusy) = true := by
    rw [← s.ragWait_charged 2 0 _ hsid, ← s.ragWait_charged 2 0 _ hsid, hwait, ← s.spillBusy_charged 2 0 hsid, hbusy]
    by_cases hq : p.immW.toNat % 4 = 2
    · rw [(hsub hq).2.1]; simp
    · simp [hq]
  have hpushes : pushRes (s.charged 2 0) _ = .ok t := pushRes_ok hbusy hpush
  refine issue_region_ok (sh := { pushing 2 (fun _ => 0) _ with ready := _ }) h (.inl rfl) rfl hready rfl hsound ?_
  dsimp only [pushing]
  rw [s.rg_charged, withRegion_usable _ hflaws ((s.gBad_charged 2 0 _ _).trans hbad) hwait hpoison]
  rw [← hpushes]
  clear hpush hpushes hready
  generalize p.immW.toNat % 4 = q at *
  match q with
  | 0 => simp only [gtestHolds, s.boxes_charged]
  | 1 => simp only [gtestHolds, s.boxes_charged, s.desc_charged, vecList_charged 2 0 hsid]
  | 2 =>
    obtain ⟨hebad, hewait, hepoison⟩ := hsub rfl
    simp only [s.rg_charged, s.desc_charged]
    rw [withRegion_usable _ hflaws ((s.gBad_charged 2 0 _ _).trans hebad) hewait hepoison]
    simp only [gtestHolds, s.boxes_charged]
  | _ + 3 => rfl

/-- GEQ pushes whether g[d] and g[a] are equal (R163). -/
theorem exec_geq_pushes {g' : GReg} {t : State} (hg : g = s.rg (p.dn d)) (hg' : g' = s.rg (p.an a)) (h : s.issues (.geq p d a) .push 2 0 = true)
    (hsound : Sound (.geq p d a) s) (hbusy : u.spillBusy = false) (hbad : s.gBad g false = none) (hbad' : s.gBad g' false = none)
    (hpush : u.push (condEntry (g.desc == g'.desc && sameSet (s.desc g.desc).n (s.boxes g) (s.boxes g'))) = some t) :
    exec (.geq p d a) s = .next (t.done (.geq p d a)) := by
  subst hu hg hg'
  have hready : (!s.spillBusy) = true := by
    rw [← s.spillBusy_charged 2 0 (State.issues_sid h), hbusy]; rfl
  refine issue_region_ok (sh := { pushing 2 (fun _ => 0) _ with ready := _ }) h (.inl rfl) rfl hready rfl hsound ?_
  dsimp only [pushing]
  rw [s.rg_charged, s.rg_charged, withRegion_plain _ ((s.gBad_charged 2 0 _ _).trans hbad),
    withRegion_plain _ ((s.gBad_charged 2 0 _ _).trans hbad'), s.desc_charged, s.boxes_charged, s.boxes_charged]
  exact pushRes_ok hbusy hpush

end

end Sys2Proof.Machine
end

section
/-! O37: region images and queries. -/

namespace Sys2Proof.Proofs

open Sys2Proof Sys2Proof.Machine Sys2Proof.Claims

/-- Settles O37: on operands that pass their checks each form completes with the meaning that its lemma gives. -/
theorem regionQueries : Obligations.RegionQueries := by
  unfold Obligations.RegionQueries
  refine ⟨?gld, ?gst, ?gcnt, ?gvol, ?grdbox, ?gtest, ?geq⟩
  case gld =>
    rintro p d a s u v w va m bs g hva hm hu h halign hmem hread hload rfl
    exact exec_gld_region hva hm hu halign hmem h hread hload
  case gst =>
    intro p d a s u v w va m xs hva hm hu h hsound halign hmem hxs hw
    obtain ⟨hissued, hperformed, hwaits⟩ := exec_gst_stores hva hm hu halign hmem h hsound hxs hw
    refine ⟨fun hacq => ⟨_, hissued hacq, rfl, fun k => ?_⟩, hperformed, hwaits⟩
    have hvflaws : v.flaws = [] := by
      rw [hmem.1, released_flaws, hu, State.charged_flaws, hsound.2]
    rw [State.done_mem, foldl_issueStore_mem, hw, v.touchPuts_of_sound _ _ hvflaws, hmem.1, released_mem, hu, State.charged_mem]
  case gcnt =>
    intro p d a s u g hu hg h hsound hbad
    exact exec_gcnt_count hu hg h hsound hbad
  case gvol =>
    intro p d a s u g hu hg h hsound hbad hwait hpoison
    show execGvol p d a s = _
    refine query_ok hu hg h hsound hbad (fun _ => ⟨hwait, hpoison⟩) ?_
    rw [hu, State.boxes_charged]
  case grdbox =>
    rintro p d a s u g b w hu hg h hsound hbad hb rfl
    show execGrdbox p d a s = _
    refine query_ok hu hg h hsound hbad (fun h => absurd h Bool.false_ne_true) ?_
    rw [hb]; rfl
  case gtest =>
    rintro p d a s u g q t hu hg h hsound hbusy hbad hwait hpoison rfl
    refine ⟨fun hq hpush => ?_, fun hq hpush => ?_, fun hq hebad hewait hepoison hpush => ?_, fun hq hpush => ?_⟩
    · exact exec_gtest_pushes hu hg h hsound hbusy hbad hwait hpoison (by simp [hq]) (by rw [hq]; exact hpush)
    · exact exec_gtest_pushes hu hg h hsound hbusy hbad hwait hpoison (by simp [hq]) (by rw [hq]; exact hpush)
    · exact exec_gtest_pushes hu hg h hsound hbusy hbad hwait hpoison (fun _ => ⟨hebad, hewait, hepoison⟩) (by rw [hq]; exact hpush)
    · exact exec_gtest_pushes hu hg h hsound hbusy hbad hwait hpoison (by simp [hq]) (by rw [hq]; exact hpush)
  case geq =>
    intro p d a s u g g' t hu hg hg' h hsound hbusy hbad hbad' hpush
    exact exec_geq_pushes hu hg hg' h hsound hbusy hbad hbad' hpush

end Sys2Proof.Proofs
end

section
/-! Boxes and their members (06 R128): membership of ranges, boxes and unions, the number of members, and a member of each box. -/

namespace Sys2Proof.Machine

open Sys2Proof.Claims

/-! ### Ranges -/

theorem Rng.has_iff {r : Rng} (hstep : 0 < r.step) (x : Nat) : r.has x = true ↔ ∃ i, i < r.cnt ∧ x = r.lo + i * r.step := by
  simp only [Rng.has, Bool.and_eq_true, decide_eq_true_eq, beq_iff_eq]
  constructor
  · rintro ⟨⟨hlo, hmod⟩, hdiv⟩
    refine ⟨_, hdiv, ?_⟩
    have := Nat.div_add_mod' (x - r.lo) r.step
    omega
  · rintro ⟨i, hi, rfl⟩
    simp [Nat.mul_div_cancel _ hstep, hi]

/-- A range of step 1 is an interval. -/
theorem Rng.has_unit (a c x : Nat) : (⟨a, c, 1⟩ : Rng).has x = true ↔ a ≤ x ∧ x < a + c := by
  simp only [Rng.has, Bool.and_eq_true, decide_eq_true_eq, beq_iff_eq, Nat.mod_one, Nat.div_one, and_true]
  omega

/-! ### Boxes -/

@[simp] theorem NBox.has_nil (x : List Nat) : NBox.has [] x = true := by cases x <;> rfl
@[simp] theorem NBox.has_cons (r : Rng) (b : NBox) (x : Nat) (xs : List Nat) :
    NBox.has (r :: b) (x :: xs) = true ↔ r.has x = true ∧ NBox.has b xs = true := Bool.and_eq_true _ _ ▸ Iff.rfl

theorem NBox.foldl_size (b : NBox) (k : Nat) : b.foldl (fun n r => n * r.cnt) k = k * NBox.size b := by
  induction b generalizing k with
  | nil => simp [NBox.size]
  | cons r b ih =>
    rw [NBox.size, List.foldl_cons, List.foldl_cons, ih, ih, Nat.one_mul, Nat.mul_assoc]
@[simp] theorem NBox.size_nil : NBox.size [] = 1 := rfl
@[simp] theorem NBox.size_cons (r : Rng) (b : NBox) : NBox.size (r :: b) = r.cnt * NBox.size b := by
  rw [NBox.size, List.foldl_cons, NBox.foldl_size, Nat.one_mul]

/-! ### Unions -/

/-- A box of `n` dimensions whose ranges have members. -/
def Full (n : Nat) (b : NBox) : Prop := b.length = n ∧ ∀ r ∈ b, 0 < r.cnt ∧ 0 < r.step

theorem full_nil {b : NBox} (h : Full 0 b) : b = [] := List.eq_nil_of_length_eq_zero h.1
theorem full_cons {n : Nat} {r : Rng} {b : NBox} : Full (n + 1) (r :: b) ↔ (0 < r.cnt ∧ 0 < r.step) ∧ Full n b := by
  simp only [Full, List.length_cons, Nat.add_right_cancel_iff, List.forall_mem_cons]
  exact and_left_comm
theorem Full.exists_cons {n : Nat} {b : NBox} (h : Full (n + 1) b) : ∃ r c, b = r :: c ∧ (0 < r.cnt ∧ 0 < r.step) ∧ Full n c := by
  cases b with
  | nil => cases h.1
  | cons r c => exact ⟨r, c, rfl, full_cons.1 h⟩

theorem boxes_nil (n : Nat) : Boxes n [] := List.forall_mem_nil _
theorem boxes_cons {n : Nat} {b : NBox} {bs : List NBox} : Boxes n (b :: bs) ↔ Full n b ∧ Boxes n bs := List.forall_mem_cons

theorem boxes_exists_cons {n : Nat} {b : NBox} {bs : List NBox} (h : Boxes (n + 1) (b :: bs)) :
    ∃ r c, b = r :: c ∧ (0 < r.cnt ∧ 0 < r.step) ∧ Full n c ∧ Boxes (n + 1) bs := by
  obtain ⟨hb, hbs⟩ := boxes_cons.1 h
  obtain ⟨r, c, rfl, hr, hc⟩ := hb.exists_cons
  exact ⟨r, c, rfl, hr, hc, hbs⟩

/-- The first member of a box. -/
theorem Full.has_lo {n : Nat} {b : NBox} (h : Full n b) : (b.map (·.lo)).length = n ∧ NBox.has b (b.map (·.lo)) = true := by
  refine ⟨by rw [List.length_map, h.1], ?_⟩
  induction b generalizing n with
  | nil => rfl
  | cons r b ih =>
    obtain ⟨hcnt, hstep⟩ := h.2 r List.mem_cons_self
    exact (NBox.has_cons _ _ _ _).2 ⟨(r.has_iff hstep _).2 ⟨0, hcnt, by simp⟩, ih (n := b.length) ⟨rfl, fun q hq => h.2 q (List.mem_cons_of_mem _ hq)⟩⟩

theorem Full.size_pos {n : Nat} {b : NBox} (h : Full n b) : 0 < NBox.size b := by
  induction b generalizing n with
  | nil => exact Nat.one_pos
  | cons r b ih =>
    rw [NBox.size_cons]
    exact Nat.mul_pos (h.2 r List.mem_cons_self).1 (ih (n := b.length) ⟨rfl, fun q hq => h.2 q (List.mem_cons_of_mem _ hq)⟩)

theorem any_has_iff (bs : List NBox) (x : List Nat) : (bs.any fun b => NBox.has b x) = true ↔ In bs x := List.any_eq_true
@[simp] theorem in_nil (x : List Nat) : ¬ In [] x := by rintro ⟨b, hb, -⟩; cases hb
@[simp] theorem in_cons (b : NBox) (bs : List NBox) (x : List Nat) : In (b :: bs) x ↔ NBox.has b x = true ∨ In bs x := by
  simp only [In, List.mem_cons, exists_eq_or_imp]
@[simp] theorem in_append (bs cs : List NBox) (x : List Nat) : In (bs ++ cs) x ↔ In bs x ∨ In cs x := by
  simp only [In, List.mem_append, or_and_right, exists_or]
@[simp] theorem in_map_cons (r : Rng) (bs : List NBox) (x : Nat) (xs : List Nat) : In (bs.map (r :: ·)) (x :: xs) ↔ r.has x = true ∧ In bs xs := by
  simp only [In, List.mem_map, exists_exists_and_eq_and, NBox.has_cons]
  exact ⟨fun ⟨b, hb, hr, hx⟩ => ⟨hr, b, hb, hx⟩, fun ⟨hr, b, hb, hx⟩ => ⟨b, hb, hr, hx⟩⟩
theorem in_flatMap {α : Type} (l : List α) (f : α → List NBox) (x : List Nat) : In (l.flatMap f) x ↔ ∃ y ∈ l, In (f y) x := by
  simp only [In, List.mem_flatMap]
  exact ⟨fun ⟨b, ⟨y, hy, hb⟩, hx⟩ => ⟨y, hy, b, hb, hx⟩, fun ⟨y, hy, b, hb, hx⟩ => ⟨b, ⟨y, hy, hb⟩, hx⟩⟩

/-- A union of boxes of no dimensions holds the one point when it is not empty. -/
theorem in_zero (bs : List NBox) (h : Boxes 0 bs) : In bs [] ↔ bs ≠ [] := by
  cases bs with
  | nil => simp
  | cons b bs => simp [full_nil (boxes_cons.1 h).1]
theorem any_zero {bs : List NBox} (h : Boxes 0 bs) : (bs.any fun b => NBox.has b []) = !bs.isEmpty := by
  rw [Bool.eq_iff_iff, any_has_iff, in_zero bs h]; simp

end Sys2Proof.Machine
end

section
/-! The canonical form (06 R134): the cuts of a union, its slices, the groups of equal slices as they grow point by point, and the progressions of
their runs. What a canonical form holds, and that it depends on the set alone, follow by induction on the dimensions. -/

namespace Sys2Proof.Machine

open Sys2Proof.Claims

/-! ### Rising lists -/

theorem mem_mergeNat {n : Nat} {a b : List Nat} (h : a.length + b.length ≤ n) (x : Nat) : x ∈ mergeNat n a b ↔ x ∈ a ∨ x ∈ b := by
  induction n generalizing a b with
  | zero =>
    obtain rfl : a = [] := List.eq_nil_of_length_eq_zero (by omega)
    simp [mergeNat]
  | succ n ih =>
    match a, b with
    | [], b => simp [mergeNat]
    | y :: a, [] => simp [mergeNat]
    | y :: a, z :: b =>
      simp only [List.length_cons] at h
      rw [mergeNat]
      split_ifs with hlt hgt
      · rw [List.mem_cons, ih (by simp; omega), List.mem_cons, List.mem_cons, or_assoc]
      · rw [List.mem_cons, ih (by simp; omega), List.mem_cons, List.mem_cons, or_left_comm]
      · obtain rfl : y = z := by omega
        rw [List.mem_cons, ih (by omega), List.mem_cons, List.mem_cons]
        tauto

theorem mergeNat_pairwise {n : Nat} {a b : List Nat} (h : a.length + b.length ≤ n) (ha : a.Pairwise (· < ·)) (hb : b.Pairwise (· < ·)) :
    (mergeNat n a b).Pairwise (· < ·) := by
  induction n generalizing a b with
  | zero =>
    obtain rfl : a = [] := List.eq_nil_of_length_eq_zero (by omega)
    simpa [mergeNat] using hb
  | succ n ih =>
    match a, b with
    | [], b => simpa [mergeNat] using hb
    | y :: a, [] => simpa [mergeNat] using ha
    | y :: a, z :: b =>
      simp only [List.length_cons] at h
      have ⟨hya, ha'⟩ := List.pairwise_cons.1 ha
      have ⟨hzb, hb'⟩ := List.pairwise_cons.1 hb
      rw [mergeNat]
      split_ifs with hlt hgt
      · refine List.pairwise_cons.2 ⟨fun x hx => ?_, ih (by simp; omega) ha' hb⟩
        rcases (mem_mergeNat (by simp; omega) x).1 hx with hx | hx
        · exact hya x hx
        · rcases List.mem_cons.1 hx with rfl | hx
          · exact hlt
          · exact hlt.trans (hzb x hx)
      · refine List.pairwise_cons.2 ⟨fun x hx => ?_, ih (by simp; omega) ha hb'⟩
        rcases (mem_mergeNat (by simp; omega) x).1 hx with hx | hx
        · rcases List.mem_cons.1 hx with rfl | hx
          · exact hgt
          · exact hgt.trans (hya x hx)
        · exact hzb x hx
      · obtain rfl : y = z := by omega
        refine List.pairwise_cons.2 ⟨fun x hx => ?_, ih (by omega) ha' hb'⟩
        rcases (mem_mergeNat (by omega) x).1 hx with hx | hx
        · exact hya x hx
        · exact hzb x hx

theorem dedup_of_pairwise {l : List Nat} (h : l.Pairwise (· < ·)) : dedup l = l := by
  induction l with
  | nil => rfl
  | cons x l ih =>
    have ⟨hx, hl⟩ := List.pairwise_cons.1 h
    match l with
    | [] => rfl
    | y :: l => rw [dedup, if_neg (Nat.ne_of_lt (hx y List.mem_cons_self)), ih hl]

/-! ### Cuts -/

section

variable {r : Rng} (hcnt : 0 < r.cnt) (hstep : 0 < r.step)

include hcnt hstep

theorem Rng.cuts_pairwise : r.cuts.Pairwise (· < ·) := by
  unfold Rng.cuts
  split_ifs with h
  · simp [hcnt]
  · rw [List.pairwise_flatMap]
    refine ⟨fun i _ => by simp, List.pairwise_lt_range.imp fun {i j} hij => ?_⟩
    have hmul : (i + 1) * r.step ≤ j * r.step := Nat.mul_le_mul_right _ hij
    rw [Nat.add_mul] at hmul
    simp only [List.mem_cons, List.not_mem_nil, or_false, forall_eq_or_imp, forall_eq]
    omega

/-- Membership changes only at cuts. -/
theorem Rng.has_succ {x : Nat} (hx : x + 1 ∉ r.cuts) : r.has (x + 1) = r.has x := by
  rw [Bool.eq_iff_iff, r.has_iff hstep, r.has_iff hstep]
  unfold Rng.cuts at hx
  split_ifs at hx with h
  · simp only [List.mem_cons, List.not_mem_nil, or_false, not_or] at hx
    rcases h with h | h
    · rw [h]
      exact ⟨fun ⟨i, hi, hxi⟩ => ⟨i - 1, by omega, by omega⟩, fun ⟨i, hi, hxi⟩ => ⟨i + 1, by omega, by omega⟩⟩
    · rw [h] at hx ⊢
      exact ⟨fun ⟨i, hi, hxi⟩ => by obtain rfl : i = 0 := by omega
                                    omega, fun ⟨i, hi, hxi⟩ => by obtain rfl : i = 0 := by omega
                                                                  omega⟩
  · simp only [List.mem_flatMap, List.mem_range, List.mem_cons, List.not_mem_nil, or_false, not_exists, not_and, not_or] at hx
    exact ⟨fun ⟨i, hi, hxi⟩ => absurd hxi (hx i hi).1, fun ⟨i, hi, hxi⟩ => absurd (congrArg (· + 1) hxi) (hx i hi).2⟩

omit hcnt in
/-- Every member lies between two cuts. -/
theorem Rng.cuts_around {x : Nat} (hx : r.has x = true) : (∃ c ∈ r.cuts, c ≤ x) ∧ ∃ c ∈ r.cuts, x < c := by
  obtain ⟨i, hi, rfl⟩ := (r.has_iff hstep x).1 hx
  unfold Rng.cuts
  split_ifs with h
  · refine ⟨⟨r.lo, by simp, by omega⟩, r.lo + r.cnt, by simp, ?_⟩
    rcases h with h | h
    · rw [h]; omega
    · obtain rfl : i = 0 := by omega
      omega
  · simp only [List.mem_flatMap, List.mem_range, List.mem_cons, List.not_mem_nil, or_false]
    exact ⟨⟨_, ⟨i, hi, .inl rfl⟩, Nat.le_refl _⟩, _, ⟨i, hi, .inr rfl⟩, Nat.lt_succ_self _⟩

end

/-- One step of `allCuts`. -/
def addCuts (acc : List Nat) (b : NBox) : List Nat :=
  match b with
  | [] => acc
  | r :: _ => let c := dedup r.cuts; mergeNat (acc.length + c.length) acc c
theorem allCuts_eq (bs : List NBox) : allCuts bs = bs.foldl addCuts [] := rfl

theorem addCuts_spec {n : Nat} {acc : List Nat} {b : NBox} (hacc : acc.Pairwise (· < ·)) (hb : Full n b) :
    (addCuts acc b).Pairwise (· < ·) ∧ (∀ x ∈ acc, x ∈ addCuts acc b) ∧ ∀ r c, b = r :: c → ∀ x ∈ r.cuts, x ∈ addCuts acc b := by
  cases b with
  | nil => exact ⟨hacc, fun _ => id, nofun⟩
  | cons r b =>
    obtain ⟨hcnt, hstep⟩ := hb.2 r List.mem_cons_self
    have hcuts := r.cuts_pairwise hcnt hstep
    dsimp only [addCuts]
    rw [dedup_of_pairwise hcuts]
    refine ⟨mergeNat_pairwise (Nat.le_refl _) hacc hcuts, fun x hx => (mem_mergeNat (Nat.le_refl _) x).2 (.inl hx), ?_⟩
    rintro _ _ ⟨⟩ x hx
    exact (mem_mergeNat (Nat.le_refl _) x).2 (.inr hx)

theorem foldl_addCuts_spec {n : Nat} {bs : List NBox} (hbs : Boxes n bs) {acc : List Nat} (hacc : acc.Pairwise (· < ·)) :
    (bs.foldl addCuts acc).Pairwise (· < ·) ∧ (∀ x ∈ acc, x ∈ bs.foldl addCuts acc) ∧
    ∀ r c, r :: c ∈ bs → ∀ x ∈ r.cuts, x ∈ bs.foldl addCuts acc := by
  induction bs generalizing acc with
  | nil => exact ⟨hacc, fun _ => id, nofun⟩
  | cons b bs ih =>
    obtain ⟨hb, hbs⟩ := boxes_cons.1 hbs
    obtain ⟨hsorted, hkeep, hadd⟩ := addCuts_spec hacc hb
    obtain ⟨hsorted', hkeep', hadd'⟩ := ih hbs hsorted
    refine ⟨hsorted', fun x hx => hkeep' x (hkeep x hx), fun r c hrc x hx => ?_⟩
    rcases List.mem_cons.1 hrc with rfl | hrc
    · exact hkeep' x (hadd r c rfl x hx)
    · exact hadd' r c hrc x hx

theorem allCuts_pairwise {n : Nat} {bs : List NBox} (hbs : Boxes n bs) : (allCuts bs).Pairwise (· < ·) := by
  rw [allCuts_eq]; exact (foldl_addCuts_spec hbs List.Pairwise.nil).1
theorem cuts_subset_allCuts {n : Nat} {bs : List NBox} (hbs : Boxes n bs) {r : Rng} {c : NBox} (h : r :: c ∈ bs) : ∀ x ∈ r.cuts, x ∈ allCuts bs := by
  obtain ⟨-, -, hadd⟩ := foldl_addCuts_spec hbs List.Pairwise.nil
  exact allCuts_eq bs ▸ hadd r c h

/-! ### Slices -/

theorem sliceAt_cons (r : Rng) (c : NBox) (bs : List NBox) (x : Nat) :
    sliceAt ((r :: c) :: bs) x = if r.has x then c :: sliceAt bs x else sliceAt bs x := by
  unfold sliceAt
  rw [List.filterMap_cons]
  dsimp only
  split <;> split at * <;> simp_all

/-- The slice at x of a union of boxes: its members are those of the union whose first coordinate is x. -/
theorem in_sliceAt {n : Nat} {bs : List NBox} (hbs : Boxes (n + 1) bs) (x : Nat) (xs : List Nat) : In (sliceAt bs x) xs ↔ In bs (x :: xs) := by
  induction bs with
  | nil => simp [sliceAt]
  | cons b bs ih =>
    obtain ⟨r, c, rfl, -, -, hbs'⟩ := boxes_exists_cons hbs
    rw [sliceAt_cons, in_cons, NBox.has_cons, ← ih hbs']
    split_ifs with h <;> simp [h]

theorem any_sliceAt {n : Nat} {bs : List NBox} (hbs : Boxes (n + 1) bs) (x : Nat) (xs : List Nat) :
    ((sliceAt bs x).any fun b => NBox.has b xs) = bs.any fun b => NBox.has b (x :: xs) := by
  rw [Bool.eq_iff_iff, any_has_iff, any_has_iff, in_sliceAt hbs]

theorem boxes_sliceAt {n : Nat} {bs : List NBox} (hbs : Boxes (n + 1) bs) (x : Nat) : Boxes n (sliceAt bs x) := by
  induction bs with
  | nil => exact nofun
  | cons b bs ih =>
    obtain ⟨r, c, rfl, -, hc, hbs'⟩ := boxes_exists_cons hbs
    rw [sliceAt_cons]
    split_ifs
    · exact boxes_cons.2 ⟨hc, ih hbs'⟩
    · exact ih hbs'

/-- Slices change only at cuts, and are empty outside them. -/
theorem sliceAt_succ {n : Nat} {bs : List NBox} (hbs : Boxes (n + 1) bs) {cs : List Nat}
    (hcs : ∀ r c, r :: c ∈ bs → ∀ x ∈ r.cuts, x ∈ cs) {x : Nat} (hx : x + 1 ∉ cs) : sliceAt bs (x + 1) = sliceAt bs x := by
  induction bs with
  | nil => rfl
  | cons b bs ih =>
    obtain ⟨r, c, rfl, ⟨hcnt, hstep⟩, -, hbs'⟩ := boxes_exists_cons hbs
    rw [sliceAt_cons, sliceAt_cons, r.has_succ hcnt hstep fun h => hx (hcs r c List.mem_cons_self _ h),
      ih hbs' fun r' c' h => hcs r' c' (List.mem_cons_of_mem _ h)]

theorem sliceAt_around {n : Nat} {bs : List NBox} (hbs : Boxes (n + 1) bs) {cs : List Nat}
    (hcs : ∀ r c, r :: c ∈ bs → ∀ x ∈ r.cuts, x ∈ cs) {x : Nat} (hx : sliceAt bs x ≠ []) : (∃ c ∈ cs, c ≤ x) ∧ ∃ c ∈ cs, x < c := by
  induction bs with
  | nil => exact absurd rfl hx
  | cons b bs ih =>
    obtain ⟨r, c, rfl, ⟨hcnt, hstep⟩, -, hbs'⟩ := boxes_exists_cons hbs
    rw [sliceAt_cons] at hx
    split_ifs at hx with h
    · obtain ⟨⟨k, hk, hkx⟩, l, hl, hxl⟩ := r.cuts_around hstep h
      exact ⟨⟨k, hcs r c List.mem_cons_self k hk, hkx⟩, l, hcs r c List.mem_cons_self l hl, hxl⟩
    · exact ih hbs' (fun r' c' h => hcs r' c' (List.mem_cons_of_mem _ h)) hx

end Sys2Proof.Machine
end

section
/-! The canonical form (06 R134), continued: the groups of equal slices as they grow point by point, the progressions of their runs, and what
`boxesFrom` holds. -/

namespace Sys2Proof.Machine

open Sys2Proof.Claims

/-! ### Groups, point by point -/

/-- The group of the slice `f x` grows by the point x, unless the slice is empty. -/
def addPoint (f : Nat → List NBox) (gs : List Group1) (x : Nat) : List Group1 := if (f x).isEmpty then gs else addGroup (f x) x 1 gs
/-- The same for the points between two cuts, whose slices are those of the first of them. -/
def addGap (f : Nat → List NBox) (gs : List Group1) (ab : Nat × Nat) : List Group1 :=
  let sub := f ab.1
  if sub.isEmpty then gs else addGroup sub ab.1 (ab.2 - ab.1) gs
/-- The groups of the points below `m`. -/
def groupsTo (f : Nat → List NBox) (m : Nat) : List Group1 := (List.range m).foldl (addPoint f) []

theorem groupsTo_succ (f : Nat → List NBox) (m : Nat) : groupsTo f (m + 1) = addPoint f (groupsTo f m) m := by
  rw [groupsTo, List.range_succ, List.foldl_append]; rfl

theorem addRun_succ (a n : Nat) (rs : List (Nat × Nat)) : addRun (a + n) 1 (addRun a n rs) = addRun a (n + 1) rs := by
  cases rs with
  | nil => simp [addRun]
  | cons r rs =>
    obtain ⟨x, c⟩ := r
    by_cases h : x + c = a
    · simp [addRun, h, ← Nat.add_assoc]
    · simp [addRun, h]

theorem addGroup_succ (sub : List NBox) (a n : Nat) (gs : List Group1) : addGroup sub (a + n) 1 (addGroup sub a n gs) = addGroup sub a (n + 1) gs := by
  induction gs with
  | nil => simp [addGroup, addRun]
  | cons g gs ih =>
    obtain ⟨l, rs⟩ := g
    simp only [addGroup]
    split_ifs with h
    · rw [addGroup, if_pos h, addRun_succ]
    · rw [addGroup, if_neg h, ih]

/-- A gap whose slices are all alike grows its group by each of its points. -/
theorem addGap_eq_points {f : Nat → List NBox} {a n : Nat} (hf : ∀ x, a ≤ x → x < a + (n + 1) → f x = f a) (gs : List Group1) :
    addGap f gs (a, a + (n + 1)) = (List.range' a (n + 1)).foldl (addPoint f) gs := by
  have hgap (k : Nat) : addGap f gs (a, a + k) = if (f a).isEmpty then gs else addGroup (f a) a k gs := by
    rw [addGap, Nat.add_sub_cancel_left]
  induction n with
  | zero => rw [hgap]; rfl
  | succ n ih =>
    rw [List.range'_concat, List.foldl_append, ← ih fun x h1 h2 => hf x h1 (by omega), hgap, hgap]
    simp only [List.foldl_cons, List.foldl_nil, addPoint, Nat.one_mul, hf (a + (n + 1)) (by omega) (by omega)]
    split_ifs
    · rfl
    · rw [addGroup_succ]

/-- `f` is empty outside the cuts and changes at cuts alone. -/
structure CutBy (cs : List Nat) (f : Nat → List NBox) : Prop where
  same : ∀ x, x + 1 ∉ cs → f (x + 1) = f x
  around : ∀ x, f x ≠ [] → (∃ c ∈ cs, c ≤ x) ∧ ∃ c ∈ cs, x < c

theorem CutBy.const {cs : List Nat} {f : Nat → List NBox} (h : CutBy cs f) {a x : Nat} (hax : a ≤ x) (hcs : ∀ c ∈ cs, c ≤ a ∨ x < c) :
    f x = f a := by
  induction x, hax using Nat.le_induction with
  | base => rfl
  | succ x hax ih =>
    rw [h.same x fun hx => by have := hcs _ hx; omega, ih fun c hc => by have := hcs c hc; omega]

/-- Points with empty slices leave the groups as they are. -/
theorem foldl_addPoint_empty {f : Nat → List NBox} {l : List Nat} (h : ∀ x ∈ l, f x = []) (gs : List Group1) : l.foldl (addPoint f) gs = gs := by
  induction l with
  | nil => rfl
  | cons x l ih =>
    rw [List.foldl_cons, addPoint, h x List.mem_cons_self]
    exact ih fun y hy => h y (List.mem_cons_of_mem _ hy)

theorem foldl_gaps_eq_points {f : Nat → List NBox} {pre : List Nat} {c : Nat} {cs : List Nat} (hpre : ∀ x ∈ pre, x ≤ c)
    (hsorted : (c :: cs).Pairwise (· < ·)) (h : CutBy (pre ++ c :: cs) f) {m : Nat} (hm : ∀ x ∈ c :: cs, x ≤ m) (gs : List Group1) :
    (gaps (c :: cs)).foldl (addGap f) gs = (List.range' c (m - c)).foldl (addPoint f) gs := by
  induction cs generalizing pre c gs with
  | nil =>
    refine (foldl_addPoint_empty (fun x hx => ?_) gs).symm
    by_contra hne
    obtain ⟨-, k, hk, hxk⟩ := h.around x hne
    have hkc : k ≤ c := by
      rcases List.mem_append.1 hk with hk | hk
      · exact hpre k hk
      · exact (List.mem_singleton.1 hk).le
    have := (List.mem_range'_1.1 hx).1
    omega
  | cons e cs ih =>
    obtain ⟨hlt, hsorted'⟩ := List.pairwise_cons.1 hsorted
    obtain ⟨k, rfl⟩ : ∃ k, e = c + (k + 1) := ⟨e - c - 1, by have := hlt e List.mem_cons_self; omega⟩
    have hem : c + (k + 1) ≤ m := hm _ (by simp)
    have hconst : ∀ x, c ≤ x → x < c + (k + 1) → f x = f c := by
      refine fun x hcx hxe => h.const hcx fun j hj => ?_
      rcases List.mem_append.1 hj with hj | hj
      · exact .inl (hpre j hj)
      · rcases List.mem_cons.1 hj with rfl | hj
        · exact .inl (Nat.le_refl _)
        · rcases List.mem_cons.1 hj with rfl | hj
          · exact .inr hxe
          · exact .inr (hxe.trans ((List.pairwise_cons.1 hsorted').1 j hj))
    have hsplit : List.range' c (m - c) = List.range' c (k + 1) ++ List.range' (c + (k + 1)) (m - (c + (k + 1))) := by
      rw [List.range'_append_1]
      congr 1
      omega
    rw [gaps, List.foldl_cons, hsplit, List.foldl_append, ← addGap_eq_points hconst]
    refine ih (pre := pre ++ [c]) (fun x hx => ?_) hsorted' (by simpa using h) (fun x hx => hm x (List.mem_cons_of_mem _ hx)) _
    rcases List.mem_append.1 hx with hx | hx
    · exact (hpre x hx).trans (Nat.le_add_right _ _)
    · exact (List.mem_singleton.1 hx) ▸ Nat.le_add_right _ _

/-- The groups that the gaps between cuts give are those of the points. -/
theorem foldl_gaps_eq_groupsTo {f : Nat → List NBox} {cs : List Nat} (hsorted : cs.Pairwise (· < ·)) (h : CutBy cs f) {m : Nat}
    (hm : ∀ x ∈ cs, x ≤ m) : (gaps cs).foldl (addGap f) [] = groupsTo f m := by
  cases cs with
  | nil =>
    refine (foldl_addPoint_empty (fun x _ => ?_) []).symm
    by_contra hne
    obtain ⟨⟨k, hk, -⟩, -⟩ := h.around x hne
    cases hk
  | cons c cs =>
    have hcm := hm c List.mem_cons_self
    have hbelow : ∀ x ∈ List.range c, f x = [] := by
      intro x hx
      by_contra hne
      obtain ⟨⟨k, hk, hkx⟩, -⟩ := h.around x hne
      have hxc := List.mem_range.1 hx
      rcases List.mem_cons.1 hk with rfl | hk
      · omega
      · have := (List.pairwise_cons.1 hsorted).1 k hk
        omega
    have hsplit : List.range m = List.range c ++ List.range' c (m - c) := by
      rw [List.range_eq_range', List.range_eq_range', show m = c + (m - c) by omega, Nat.add_sub_cancel_left, ← List.range'_append_1, Nat.zero_add]
    rw [foldl_gaps_eq_points (pre := []) nofun hsorted h hm, groupsTo, hsplit, List.foldl_append, foldl_addPoint_empty hbelow]

/-! ### What the groups hold -/

/-- A point of one of the runs. -/
def InRuns (rs : List (Nat × Nat)) (y : Nat) : Prop := ∃ r ∈ rs, r.1 ≤ y ∧ y < r.1 + r.2
/-- Runs with points, the last one first, apart from each other and below `m`. -/
def RunsBelow (m : Nat) (rs : List (Nat × Nat)) : Prop :=
  rs.Pairwise (fun r q => q.1 + q.2 ≤ r.1) ∧ ∀ r ∈ rs, 0 < r.2 ∧ r.1 + r.2 ≤ m

theorem inRuns_cons (r : Nat × Nat) (rs : List (Nat × Nat)) (y : Nat) : InRuns (r :: rs) y ↔ (r.1 ≤ y ∧ y < r.1 + r.2) ∨ InRuns rs y := by
  simp only [InRuns, List.mem_cons, exists_eq_or_imp]

theorem inRuns_addRun (m : Nat) (rs : List (Nat × Nat)) (y : Nat) : InRuns (addRun m 1 rs) y ↔ y = m ∨ InRuns rs y := by
  have hpoint (m' : Nat) : (m' ≤ y ∧ y < m' + 1) ↔ y = m' := by omega
  cases rs with
  | nil => rw [addRun, inRuns_cons, hpoint]
  | cons r rs =>
    obtain ⟨x, c⟩ := r
    rw [addRun]
    split_ifs with h
    · subst h
      rw [inRuns_cons, inRuns_cons, ← or_assoc]
      refine or_congr_left ?_
      dsimp only
      omega
    · rw [inRuns_cons, hpoint]

theorem runsBelow_addRun {m : Nat} {rs : List (Nat × Nat)} (h : RunsBelow m rs) : RunsBelow (m + 1) (addRun m 1 rs) := by
  cases rs with
  | nil => simp [addRun, RunsBelow]
  | cons r rs =>
    obtain ⟨x, c⟩ := r
    obtain ⟨hapart, hbelow⟩ := h
    obtain ⟨⟨hc, hxc⟩, hbelow'⟩ := List.forall_mem_cons.1 hbelow
    rw [addRun]
    split_ifs with hend
    · obtain ⟨hx, hrs⟩ := List.pairwise_cons.1 hapart
      exact ⟨List.pairwise_cons.2 ⟨hx, hrs⟩, List.forall_mem_cons.2 ⟨⟨Nat.succ_pos _, by dsimp only; omega⟩,
        fun q hq => ⟨(hbelow' q hq).1, (hbelow' q hq).2.trans (Nat.le_succ m)⟩⟩⟩
    · exact ⟨List.pairwise_cons.2 ⟨fun q hq => (hbelow q hq).2, hapart⟩, List.forall_mem_cons.2 ⟨⟨Nat.one_pos, Nat.le_refl _⟩,
        fun q hq => ⟨(hbelow q hq).1, (hbelow q hq).2.trans (Nat.le_succ m)⟩⟩⟩

theorem RunsBelow.succ {m : Nat} {rs : List (Nat × Nat)} (h : RunsBelow m rs) : RunsBelow (m + 1) rs :=
  ⟨h.1, fun r hr => ⟨(h.2 r hr).1, (h.2 r hr).2.trans (Nat.le_succ m)⟩⟩

theorem mem_addGroup {sub : List NBox} {m : Nat} {gs : List Group1} :
    (∀ l y, (∃ g ∈ addGroup sub m 1 gs, g.1 = l ∧ InRuns g.2 y) ↔ (sub = l ∧ y = m) ∨ ∃ g ∈ gs, g.1 = l ∧ InRuns g.2 y) ∧
    ((∀ g ∈ gs, RunsBelow m g.2) → ∀ g ∈ addGroup sub m 1 gs, RunsBelow (m + 1) g.2) := by
  induction gs with
  | nil =>
    refine ⟨fun l y => ?_, fun _ => ?_⟩
    · have hpoint : InRuns [(m, 1)] y ↔ y = m := (inRuns_addRun m [] y).trans (or_iff_left nofun)
      simp only [addGroup, List.mem_singleton, exists_eq_left, hpoint, List.not_mem_nil, false_and, exists_false, or_false]
    · simp [addGroup, RunsBelow]
  | cons g gs ih =>
    obtain ⟨k, rs⟩ := g
    rw [addGroup]
    split_ifs with h
    · subst h
      refine ⟨fun l y => ?_, fun hgs => ?_⟩
      · simp only [List.mem_cons, exists_eq_or_imp, inRuns_addRun]
        rw [and_or_left, or_assoc]
      · obtain ⟨hrs, hgs⟩ := List.forall_mem_cons.1 hgs
        exact List.forall_mem_cons.2 ⟨runsBelow_addRun hrs, fun g hg => (hgs g hg).succ⟩
    · refine ⟨fun l y => ?_, fun hgs => ?_⟩
      · simp only [List.mem_cons, exists_eq_or_imp, ih.1 l y]
        rw [or_left_comm]
      · obtain ⟨hrs, hgs⟩ := List.forall_mem_cons.1 hgs
        exact List.forall_mem_cons.2 ⟨hrs.succ, ih.2 hgs⟩

/-- The groups of the points below `m`: their runs, and whose points they are. -/
theorem groupsTo_spec (f : Nat → List NBox) (m : Nat) : (∀ g ∈ groupsTo f m, RunsBelow m g.2) ∧
    ∀ l y, (∃ g ∈ groupsTo f m, g.1 = l ∧ InRuns g.2 y) ↔ y < m ∧ f y = l ∧ l ≠ [] := by
  induction m with
  | zero => exact ⟨nofun, fun l y => by simp [groupsTo]⟩
  | succ m ih =>
    obtain ⟨hruns, hmem⟩ := ih
    rw [groupsTo_succ, addPoint]
    split_ifs with h
    · rw [List.isEmpty_iff] at h
      refine ⟨fun g hg => (hruns g hg).succ, fun l y => (hmem l y).trans ?_⟩
      refine ⟨fun ⟨hy, hl⟩ => ⟨by omega, hl⟩, fun ⟨hy, hl, hne⟩ => ⟨?_, hl, hne⟩⟩
      rcases Nat.lt_succ_iff_lt_or_eq.1 hy with hy | rfl
      · exact hy
      · exact absurd (hl.symm.trans h) hne
    · rw [List.isEmpty_iff] at h
      refine ⟨mem_addGroup.2 hruns, fun l y => (mem_addGroup.1 l y).trans ?_⟩
      rw [hmem, Nat.lt_succ_iff_lt_or_eq]
      constructor
      · rintro (⟨rfl, rfl⟩ | ⟨hy, hl⟩)
        · exact ⟨.inr rfl, rfl, h⟩
        · exact ⟨.inl hy, hl⟩
      · rintro ⟨hy | rfl, hl, hne⟩
        · exact .inr ⟨hy, hl, hne⟩
        · exact .inl ⟨hl, rfl⟩

/-! ### Progressions -/

/-- The points of a progression are taken, the others stay in their order. -/
theorem takeProg_spec (st : Nat) (l : List Nat) (next : Nat) : (takeProg st next l).2.Sublist l ∧
    ∀ y, y ∈ l ↔ (∃ i, i < (takeProg st next l).1 ∧ y = next + i * st) ∨ y ∈ (takeProg st next l).2 := by
  induction l generalizing next with
  | nil => simp [takeProg]
  | cons x l ih =>
    rw [takeProg]
    split_ifs with h
    · subst h
      obtain ⟨hsub, hmem⟩ := ih (x + st)
      refine ⟨hsub.cons _, fun y => ?_⟩
      rw [List.mem_cons, hmem, ← or_assoc]
      refine or_congr_left ?_
      dsimp only
      rw [Nat.exists_lt_succ_left]
      simp only [Nat.zero_mul, Nat.add_zero, Nat.add_mul, Nat.one_mul, Nat.add_assoc, Nat.add_comm st]
    · obtain ⟨hsub, hmem⟩ := ih next
      refine ⟨hsub.cons_cons _, fun y => ?_⟩
      rw [List.mem_cons, hmem, List.mem_cons, or_left_comm]

theorem singles_spec {n : Nat} {l : List Nat} (hn : l.length ≤ n) (hl : l.Pairwise (· < ·)) :
    (∀ q ∈ singles n l, 0 < q.cnt ∧ 0 < q.step) ∧ ∀ y, (∃ q ∈ singles n l, q.has y = true) ↔ y ∈ l := by
  induction n generalizing l with
  | zero =>
    obtain rfl : l = [] := List.eq_nil_of_length_eq_zero (by omega)
    simp [singles]
  | succ n ih =>
    match l with
    | [] => simp [singles]
    | [x] =>
      refine ⟨by simp [singles], fun y => ?_⟩
      simp only [singles, List.mem_singleton, exists_eq_left, Rng.has_unit]
      omega
    | x :: z :: l =>
      have hxz : x < z := (List.pairwise_cons.1 hl).1 z List.mem_cons_self
      obtain ⟨hsub, hmem⟩ := takeProg_spec (z - x) (z :: l) z
      obtain ⟨hok, hrest⟩ := ih (l := (takeProg (z - x) z (z :: l)).2) (by have := hsub.length_le; simp only [List.length_cons] at *; omega)
        ((List.pairwise_cons.1 hl).2.sublist hsub)
      rw [singles]
      refine ⟨List.forall_mem_cons.2 ⟨⟨Nat.succ_pos _, by dsimp only; omega⟩, hok⟩, fun y => ?_⟩
      rw [List.mem_cons, hmem]
      simp only [List.mem_cons, exists_eq_or_imp, hrest]
      rw [← or_assoc]
      refine or_congr_left ?_
      rw [Rng.has_iff (by dsimp only; omega)]
      dsimp only
      rw [Nat.exists_lt_succ_left]
      have hnext (i : Nat) : x + (i + 1) * (z - x) = z + i * (z - x) := by rw [Nat.add_mul]; omega
      simp only [hnext, Nat.zero_mul, Nat.add_zero]

/-- The progressions of rising runs hold exactly their points, in both modes. -/
theorem progs_spec {strided : Bool} {m : Nat} {rs : List (Nat × Nat)} (h : RunsBelow m rs) :
    (∀ q ∈ progs strided rs.reverse, 0 < q.cnt ∧ 0 < q.step) ∧ ∀ y, (∃ q ∈ progs strided rs.reverse, q.has y = true) ↔ InRuns rs y := by
  obtain ⟨hapart, hbelow⟩ := h
  cases strided with
  | false =>
    rw [progs, if_neg Bool.false_ne_true]
    refine ⟨?_, fun y => ?_⟩
    · simp only [List.mem_map, List.mem_reverse, forall_exists_index, and_imp]
      rintro _ r hr rfl
      exact ⟨(hbelow r hr).1, Nat.one_pos⟩
    · simp only [List.mem_map, List.mem_reverse, exists_exists_and_eq_and, Rng.has_unit, InRuns]
  | true =>
    rw [progs, if_pos rfl]
    dsimp only
    have hone : ((rs.reverse.filter fun r => r.2 == 1).map (·.1)).Pairwise (· < ·) := by
      rw [List.pairwise_map]
      refine ((List.pairwise_reverse.2 hapart).filter _).imp_of_mem fun {r q} hr _ hrq => ?_
      have := (hbelow r (List.mem_reverse.1 (List.mem_of_mem_filter hr))).1
      omega
    obtain ⟨hok, hmem⟩ := singles_spec (Nat.le_refl _) hone
    refine ⟨fun q hq => ?_, fun y => ?_⟩
    · rcases List.mem_append.1 hq with hq | hq
      · obtain ⟨r, hr, rfl⟩ := List.mem_map.1 hq
        exact ⟨(hbelow r (List.mem_reverse.1 (List.mem_of_mem_filter hr))).1, Nat.one_pos⟩
      · exact hok q hq
    · simp only [List.mem_append, or_and_right, exists_or, hmem]
      simp only [List.mem_map, List.mem_filter, List.mem_reverse, exists_exists_and_eq_and, Rng.has_unit, InRuns, bne_iff_ne, beq_iff_eq]
      constructor
      · rintro (⟨r, ⟨hr, -⟩, hy⟩ | ⟨r, ⟨hr, h1⟩, rfl⟩)
        · exact ⟨r, hr, hy⟩
        · exact ⟨r, hr, Nat.le_refl _, by omega⟩
      · rintro ⟨r, hr, hy⟩
        by_cases h1 : r.2 = 1
        · exact .inr ⟨r, ⟨hr, h1⟩, by omega⟩
        · exact .inl ⟨r, ⟨hr, h1⟩, hy⟩

/-! ### The boxes of a canonical form -/

/-- The boxes that the groups give. -/
def groupBoxes (strided : Bool) (gs : List Group1) : List NBox :=
  gs.flatMap fun g => (progs strided g.2.reverse).flatMap fun q => g.1.map fun b => q :: b

section

variable {op : Bool → Bool → Bool} (strided : Bool) (hop : op false false = false)

include hop

theorem boxesFrom_nil (n : Nat) : boxesFrom op strided n [] [] = [] := by
  cases n with
  | zero => simp [boxesFrom, hop]
  | succ n => rfl

/-- The slices of two unions change at their cuts alone. -/
theorem cutBy_slices {n : Nat} {L R : List NBox} (hL : Boxes (n + 1) L) (hR : Boxes (n + 1) R) :
    CutBy (allCuts (L ++ R)) fun x => boxesFrom op strided n (sliceAt L x) (sliceAt R x) := by
  have hLR : Boxes (n + 1) (L ++ R) := List.forall_mem_append.2 ⟨hL, hR⟩
  have hLcs : ∀ r c, r :: c ∈ L → ∀ x ∈ r.cuts, x ∈ allCuts (L ++ R) := fun r c h => cuts_subset_allCuts hLR (List.mem_append_left _ h)
  have hRcs : ∀ r c, r :: c ∈ R → ∀ x ∈ r.cuts, x ∈ allCuts (L ++ R) := fun r c h => cuts_subset_allCuts hLR (List.mem_append_right _ h)
  refine ⟨fun x hx => ?_, fun x hx => ?_⟩
  · simp only [sliceAt_succ hL hLcs hx, sliceAt_succ hR hRcs hx]
  · by_cases hLx : sliceAt L x = []
    · refine sliceAt_around hR hRcs fun hRx => hx ?_
      rw [hLx, hRx, boxesFrom_nil strided hop]
    · exact sliceAt_around hL hLcs hLx

/-- The boxes over one more dimension are those of the groups of the points, up to any bound past the cuts. -/
theorem boxesFrom_succ {n : Nat} {L R : List NBox} (hL : Boxes (n + 1) L) (hR : Boxes (n + 1) R) :
    ∃ k, ∀ m, k ≤ m → (∀ x, boxesFrom op strided n (sliceAt L x) (sliceAt R x) ≠ [] → x < m) ∧
      boxesFrom op strided (n + 1) L R =
        groupBoxes strided (groupsTo (fun x => boxesFrom op strided n (sliceAt L x) (sliceAt R x)) m) := by
  have hcut := cutBy_slices strided hop hL hR
  have hsorted := allCuts_pairwise (List.forall_mem_append.2 ⟨hL, hR⟩ : Boxes (n + 1) (L ++ R))
  refine ⟨(allCuts (L ++ R)).sum, fun m hm => ?_⟩
  have hbound : ∀ c ∈ allCuts (L ++ R), c ≤ m := fun c hc => (List.single_le_sum (fun _ _ => Nat.zero_le _) c hc).trans hm
  refine ⟨fun x hx => ?_, ?_⟩
  · obtain ⟨-, c, hc, hxc⟩ := hcut.around x hx
    exact hxc.trans_le (hbound c hc)
  · rw [← foldl_gaps_eq_groupsTo hsorted hcut hbound, boxesFrom]
    split_ifs with hempty
    · simp only [Bool.and_eq_true, List.isEmpty_iff] at hempty
      obtain ⟨rfl, rfl⟩ := hempty
      rfl
    · rfl

/-- A canonical form holds exactly the set that it stands for, and its boxes have members (R134). -/
theorem boxesFrom_spec {n : Nat} {L R : List NBox} (hL : Boxes n L) (hR : Boxes n R) :
    Boxes n (boxesFrom op strided n L R) ∧ ∀ x : List Nat, x.length = n →
      (In (boxesFrom op strided n L R) x ↔ op (L.any fun b => NBox.has b x) (R.any fun b => NBox.has b x) = true) := by
  induction n generalizing L R with
  | zero =>
    rw [boxesFrom]
    refine ⟨?_, fun x hx => ?_⟩
    · split_ifs
      · exact boxes_cons.2 ⟨⟨rfl, nofun⟩, nofun⟩
      · exact nofun
    · obtain rfl := List.eq_nil_of_length_eq_zero hx
      rw [any_zero hL, any_zero hR]
      split_ifs with h <;> simp [h]
  | succ n ih =>
    obtain ⟨m, hm⟩ := boxesFrom_succ strided hop hL hR
    obtain ⟨hbound, heq⟩ := hm m (Nat.le_refl _)
    have hslice (x : Nat) := ih (boxes_sliceAt hL x) (boxes_sliceAt hR x)
    obtain ⟨hruns, hmem⟩ := groupsTo_spec (fun x => boxesFrom op strided n (sliceAt L x) (sliceAt R x)) m
    rw [heq]
    refine ⟨fun b hb => ?_, fun x hx => ?_⟩
    · simp only [groupBoxes, List.mem_flatMap, List.mem_map] at hb
      obtain ⟨g, hg, q, hq, c, hc, rfl⟩ := hb
      obtain ⟨hok, hhas⟩ := progs_spec (strided := strided) (hruns g hg)
      obtain ⟨hq0, hq1⟩ := hok q hq
      obtain ⟨y, hy⟩ : ∃ y, q.has y = true := ⟨q.lo, (q.has_iff hq1 _).2 ⟨0, hq0, by simp⟩⟩
      obtain ⟨-, hgy, -⟩ := (hmem g.1 y).1 ⟨g, hg, rfl, (hhas y).1 ⟨q, hq, hy⟩⟩
      exact full_cons.2 ⟨⟨hq0, hq1⟩, (hslice y).1 c (hgy ▸ hc)⟩
    · obtain ⟨y, xs, rfl⟩ := List.exists_cons_of_length_eq_add_one hx
      have hxs : xs.length = n := by simpa using hx
      rw [← any_sliceAt hL, ← any_sliceAt hR, ← (hslice y).2 xs hxs, groupBoxes, in_flatMap]
      simp only [in_flatMap, in_map_cons]
      constructor
      · rintro ⟨g, hg, q, hq, hqy, hin⟩
        obtain ⟨-, hgy, -⟩ := (hmem g.1 y).1 ⟨g, hg, rfl, ((progs_spec (hruns g hg)).2 y).1 ⟨q, hq, hqy⟩⟩
        exact hgy ▸ hin
      · intro hin
        have hne : boxesFrom op strided n (sliceAt L y) (sliceAt R y) ≠ [] := fun h => by rw [h] at hin; exact in_nil _ hin
        obtain ⟨g, hg, hgy, hrun⟩ := (hmem _ y).2 ⟨hbound y hne, rfl, hne⟩
        obtain ⟨q, hq, hqy⟩ := ((progs_spec (hruns g hg)).2 y).2 hrun
        exact ⟨g, hg, q, hq, hqy, hgy.symm ▸ hin⟩

/-- The canonical form is a function of the set and the mode only (R134). -/
theorem boxesFrom_congr {op' : Bool → Bool → Bool} (hop' : op' false false = false) {n : Nat} {L R L' R' : List NBox}
    (hL : Boxes n L) (hR : Boxes n R) (hL' : Boxes n L') (hR' : Boxes n R')
    (h : ∀ x : List Nat, x.length = n → op (L.any fun b => NBox.has b x) (R.any fun b => NBox.has b x) =
      op' (L'.any fun b => NBox.has b x) (R'.any fun b => NBox.has b x)) :
    boxesFrom op strided n L R = boxesFrom op' strided n L' R' := by
  induction n generalizing L R L' R' with
  | zero =>
    have h0 := h [] rfl
    rw [any_zero hL, any_zero hR, any_zero hL', any_zero hR'] at h0
    rw [boxesFrom, boxesFrom, h0]
  | succ n ih =>
    obtain ⟨k, hk⟩ := boxesFrom_succ strided hop hL hR
    obtain ⟨k', hk'⟩ := boxesFrom_succ strided hop' hL' hR'
    have hslices : (fun x => boxesFrom op strided n (sliceAt L x) (sliceAt R x)) = fun x => boxesFrom op' strided n (sliceAt L' x) (sliceAt R' x) := by
      funext y
      refine ih (boxes_sliceAt hL y) (boxes_sliceAt hR y) (boxes_sliceAt hL' y) (boxes_sliceAt hR' y) fun xs hxs => ?_
      rw [any_sliceAt hL, any_sliceAt hR, any_sliceAt hL', any_sliceAt hR']
      exact h (y :: xs) (by simp [hxs])
    rw [(hk (max k k') (Nat.le_max_left _ _)).2, (hk' (max k k') (Nat.le_max_right _ _)).2, hslices]

end

/-! ### Sorting -/

theorem mem_insertBox (b c : NBox) (bs : List NBox) : c ∈ insertBox b bs ↔ c = b ∨ c ∈ bs := by
  induction bs with
  | nil => simp [insertBox]
  | cons d bs ih =>
    rw [insertBox]
    split_ifs
    · rw [List.mem_cons]
    · rw [List.mem_cons, ih, List.mem_cons, or_left_comm]
theorem mem_sortBoxes (c : NBox) (bs : List NBox) : c ∈ sortBoxes bs ↔ c ∈ bs := by
  induction bs with
  | nil => rfl
  | cons b bs ih => rw [sortBoxes, mem_insertBox, ih, List.mem_cons]

/-- A canonical form holds exactly the set that it stands for (R134, R154). -/
theorem in_canonOf {op : Bool → Bool → Bool} (strided : Bool) (hop : op false false = false) {n : Nat} {L R : List NBox} (hL : Boxes n L)
    (hR : Boxes n R) {x : List Nat} (hx : x.length = n) :
    In (canonOf op strided n L R) x ↔ op (L.any fun b => NBox.has b x) (R.any fun b => NBox.has b x) = true := by
  rw [← (boxesFrom_spec strided hop hL hR).2 x hx]
  simp only [In, canonOf, mem_sortBoxes]

/-! ### Set tests (R163) -/

theorem subSet_iff {n : Nat} {L R : List NBox} (hL : Boxes n L) (hR : Boxes n R) :
    subSet n L R = true ↔ ∀ x : List Nat, x.length = n → In L x → In R x := by
  obtain ⟨hboxes, hmem⟩ := boxesFrom_spec (op := opDiff) false rfl hL hR
  have hdiff (x : List Nat) : opDiff (L.any fun b => NBox.has b x) (R.any fun b => NBox.has b x) = true ↔ In L x ∧ ¬ In R x := by
    rw [← any_has_iff, ← any_has_iff]; simp [opDiff]
  rw [subSet, List.isEmpty_iff]
  constructor
  · intro hempty x hx hin
    by_contra hout
    exact in_nil x (hempty ▸ (hmem x hx).2 ((hdiff x).2 ⟨hin, hout⟩))
  · intro hsub
    by_contra hne
    obtain ⟨b, bs, hb⟩ := List.exists_cons_of_ne_nil hne
    obtain ⟨hlen, hhas⟩ := Full.has_lo (hboxes b (by rw [hb]; exact List.mem_cons_self))
    obtain ⟨hin, hout⟩ := (hdiff _).1 ((hmem _ hlen).1 (by rw [hb]; exact (in_cons _ _ _).2 (.inl hhas)))
    exact hout (hsub _ hlen hin)

theorem sameSet_iff {n : Nat} {L R : List NBox} (hL : Boxes n L) (hR : Boxes n R) :
    sameSet n L R = true ↔ ∀ x : List Nat, x.length = n → (In L x ↔ In R x) := by
  have hunion (bs : List NBox) (x : List Nat) : opOr (bs.any fun b => NBox.has b x) (([] : List NBox).any fun b => NBox.has b x) = true ↔ In bs x := by
    rw [← any_has_iff]; simp [opOr]
  rw [sameSet, beq_iff_eq]
  constructor
  · intro heq x hx
    rw [← hunion L, ← hunion R, ← in_canonOf false rfl hL (boxes_nil n) hx, ← in_canonOf false rfl hR (boxes_nil n) hx, ← canon, ← canon, heq]
  · intro hsame
    rw [canon, canon, canonOf, canonOf]
    refine congrArg sortBoxes (boxesFrom_congr false rfl rfl hL (boxes_nil n) hR (boxes_nil n) fun x hx => ?_)
    rw [Bool.eq_iff_iff, hunion, hunion]
    exact hsame x hx

end Sys2Proof.Machine
end

section
/-! Clipping and the transforms of boxes (06 R129, R158): what each makes of one range, and of a box dimension by dimension. -/

namespace Sys2Proof.Machine

open Sys2Proof.Claims

/-! ### Clipping (R129) -/

theorem ceilDiv_le_iff {a b : Nat} (hb : 0 < b) (i : Nat) : ceilDiv a b ≤ i ↔ a ≤ i * b := by
  rw [ceilDiv, ← Nat.lt_succ_iff, Nat.div_lt_iff_lt_mul hb, Nat.succ_mul]
  omega

/-- A range on integers, clipped: its members inside [0, size). -/
theorem clipRng_has {lo : Int} {cnt step size : Nat} (hstep : 0 < step) (x : Nat) :
    (clipRng lo cnt step size).has x = true ↔ x < size ∧ ∃ i, i < cnt ∧ (x : Int) = lo + (i * step : Nat) := by
  have hfirst (i : Nat) : (if lo < 0 then ceilDiv (-lo).toNat step else 0) ≤ i ↔ 0 ≤ lo + (i * step : Nat) := by
    split_ifs with h
    · rw [ceilDiv_le_iff hstep]; omega
    · omega
  have hlast (i : Nat) : i < (if lo < size then min cnt (ceilDiv ((size : Int) - lo).toNat step) else 0) ↔
      i < cnt ∧ lo + (i * step : Nat) < size := by
    split_ifs with h
    · rw [Nat.lt_min, ← Nat.not_le (a := ceilDiv _ _), ceilDiv_le_iff hstep]; omega
    · omega
  rw [clipRng]
  generalize (if lo < 0 then ceilDiv (-lo).toNat step else 0) = i0 at hfirst
  generalize (if lo < size then min cnt (ceilDiv ((size : Int) - lo).toNat step) else 0) = i1 at hlast
  have h0 := (hfirst i0).1 (Nat.le_refl _)
  rw [Rng.has_iff hstep]
  constructor
  · rintro ⟨j, hj, hx⟩
    dsimp only at hj hx
    obtain ⟨hcnt, hsize⟩ := (hlast (i0 + j)).1 (by omega)
    have hmul : (i0 + j) * step = i0 * step + j * step := Nat.add_mul _ _ _
    exact ⟨by omega, i0 + j, hcnt, by omega⟩
  · rintro ⟨hsize, i, hi, hx⟩
    have hi0 := (hfirst i).2 (by omega)
    have hi1 := (hlast i).2 ⟨hi, by omega⟩
    obtain ⟨j, rfl⟩ := Nat.exists_eq_add_of_le hi0
    have hmul : (i0 + j) * step = i0 * step + j * step := Nat.add_mul _ _ _
    exact ⟨j, by dsimp only; omega, by dsimp only; omega⟩

theorem Rng.cnt_pos_of_has {r : Rng} {x : Nat} (h : r.has x = true) : r.cnt ≠ 0 := by
  simp only [Rng.has, Bool.and_eq_true, decide_eq_true_eq] at h
  exact Nat.ne_zero_of_lt h.2

/-- A clipped range of naturals: the members below the size. -/
theorem clipRng_nat_has {r : Rng} (hstep : 0 < r.step) (size x : Nat) :
    (clipRng r.lo r.cnt r.step size).has x = true ↔ r.has x = true ∧ x < size := by
  rw [clipRng_has hstep, r.has_iff hstep, and_comm]
  simp only [← Nat.cast_add, Nat.cast_inj]

/-- One range of a box that may be empty, before the rest of it. -/
theorem in_clipped {q : Rng} {o : Option NBox} {x : Nat} {xs : List Nat} :
    In (if q.cnt = 0 then none else o.map (q :: ·)).toList (x :: xs) ↔ q.has x = true ∧ In o.toList xs := by
  split_ifs with h
  · simp only [Option.toList_none, in_nil, false_iff, not_and]
    exact fun hx => absurd h (Rng.cnt_pos_of_has hx)
  · cases o <;> simp

theorem in_toList (o : Option NBox) (x : List Nat) : (o.any fun c => NBox.has c x) = true ↔ In o.toList x := by
  cases o <;> simp

/-- Clipping keeps exactly the members inside the tensor. -/
theorem in_clipBox {sizes : List Nat} {b : NBox} {x : List Nat} (hb : Full sizes.length b) (hx : x.length = sizes.length) :
    In (clipBox sizes b).toList x ↔ NBox.has b x = true ∧ ((x.zip sizes).all fun y => decide (y.1 < y.2)) = true := by
  induction sizes generalizing b x with
  | nil =>
    obtain rfl := full_nil hb
    obtain rfl := List.eq_nil_of_length_eq_zero hx
    simp [clipBox]
  | cons n ns ih =>
    obtain ⟨r, c, rfl, ⟨-, hstep⟩, hc⟩ := hb.exists_cons
    obtain ⟨y, ys, rfl⟩ := List.exists_cons_of_length_eq_add_one hx
    rw [clipBox, in_clipped, ih hc (by simpa using hx), clipRng_nat_has hstep, NBox.has_cons, List.zip_cons_cons, List.all_cons,
      Bool.and_eq_true, decide_eq_true_eq, and_and_and_comm]

/-! ### Points, dimension by dimension -/

@[simp] theorem co_zero (x : Nat) (xs : List Nat) : co (x :: xs) 0 = x := rfl
@[simp] theorem co_succ (x : Nat) (xs : List Nat) (k : Nat) : co (x :: xs) (k + 1) = co xs k := rfl

/-- A member of a box of one more dimension with properties of each coordinate. -/
theorem exists_member_cons {n : Nat} {r : Rng} {b : NBox} (P : Nat → Nat → Prop) :
    (∃ x : List Nat, x.length = n + 1 ∧ NBox.has (r :: b) x = true ∧ ∀ k, k < n + 1 → P k (co x k)) ↔
      (∃ x, r.has x = true ∧ P 0 x) ∧ ∃ xs : List Nat, xs.length = n ∧ NBox.has b xs = true ∧ ∀ k, k < n → P (k + 1) (co xs k) := by
  constructor
  · rintro ⟨x, hx, hhas, hP⟩
    obtain ⟨y, ys, rfl⟩ := List.exists_cons_of_length_eq_add_one hx
    obtain ⟨hr, hb⟩ := (NBox.has_cons _ _ _ _).1 hhas
    exact ⟨⟨y, hr, hP 0 (Nat.succ_pos _)⟩, ys, by simpa using hx, hb, fun k hk => hP (k + 1) (Nat.succ_lt_succ hk)⟩
  · rintro ⟨⟨y, hr, hP0⟩, ys, hys, hb, hP⟩
    exact ⟨y :: ys, by simp [hys], (NBox.has_cons _ _ _ _).2 ⟨hr, hb⟩, Nat.forall_lt_succ_left.2 ⟨hP0, hP⟩⟩

/-! ### Dilation (R158) -/

/-- A clipped range, or none when it is empty. -/
def clipped (x : Int) (c st size : Nat) : List Rng := let z := clipRng x c st size; if z.cnt = 0 then [] else [z]

theorem clipped_has {x : Int} {c st size : Nat} (hst : 0 < st) (y : Nat) :
    (∃ z ∈ clipped x c st size, z.has y = true) ↔ y < size ∧ ∃ i, i < c ∧ (y : Int) = x + (i * st : Nat) := by
  rw [← clipRng_has hst, clipped]
  split_ifs with h
  · simp only [List.not_mem_nil, false_and, exists_false, false_iff]
    exact fun hy => Rng.cnt_pos_of_has hy h
  · simp only [List.mem_singleton, exists_eq_left]

/-- The points within `r` of a progression whose gaps `r` closes are an interval. -/
theorem exists_near {cnt step r t : Nat} (hcnt : 0 < cnt) (hstep : 0 < step) (h : step ≤ 2 * r + 1 ∨ cnt = 1) (ht : t < (cnt - 1) * step + 2 * r + 1) :
    ∃ i, i < cnt ∧ i * step ≤ t ∧ t ≤ i * step + 2 * r := by
  rcases h with h | rfl
  · have hdiv := Nat.div_add_mod' t step
    have hmod := Nat.mod_lt t hstep
    by_cases hlt : t / step < cnt
    · exact ⟨t / step, hlt, by omega, by omega⟩
    · have hmul : (cnt - 1) * step ≤ t / step * step := Nat.mul_le_mul_right _ (by omega)
      exact ⟨cnt - 1, by omega, by omega, by omega⟩
  · exact ⟨0, Nat.one_pos, by omega, by omega⟩

theorem exists_mem_flatMap {α β : Type} (l : List α) (f : α → List β) (P : β → Prop) :
    (∃ z ∈ l.flatMap f, P z) ↔ ∃ k ∈ l, ∃ z ∈ f k, P z := by
  simp only [List.mem_flatMap]
  exact ⟨fun ⟨z, ⟨k, hk, hz⟩, h⟩ => ⟨k, hk, z, hz, h⟩, fun ⟨k, hk, z, hz, h⟩ => ⟨z, ⟨k, hk, hz⟩, h⟩⟩

theorem dilateRng_has {r size : Nat} {q : Rng} (hcnt : 0 < q.cnt) (hstep : 0 < q.step) (y : Nat) :
    (∃ z ∈ dilateRng r size q, z.has y = true) ↔ y < size ∧ ∃ x, q.has x = true ∧ y ≤ x + r ∧ x ≤ y + r := by
  have hmember : (∃ x, q.has x = true ∧ y ≤ x + r ∧ x ≤ y + r) ↔ ∃ i, i < q.cnt ∧ y ≤ q.lo + i * q.step + r ∧ q.lo + i * q.step ≤ y + r := by
    simp only [q.has_iff hstep]
    exact ⟨fun ⟨x, ⟨i, hi, hx⟩, h⟩ => ⟨i, hi, hx ▸ h⟩, fun ⟨i, hi, h⟩ => ⟨_, ⟨i, hi, rfl⟩, h⟩⟩
  have heq : dilateRng r size q =
      if q.step ≤ 2 * r + 1 ∨ q.cnt = 1 then clipped ((q.lo : Int) - r) ((q.cnt - 1) * q.step + 2 * r + 1) 1 size
      else if q.cnt ≤ 2 * r + 1 then (List.range q.cnt).flatMap fun k => clipped ((q.lo + k * q.step : Nat) - (r : Int)) (2 * r + 1) 1 size
      else (List.range (2 * r + 1)).flatMap fun k => clipped ((q.lo + k : Nat) - (r : Int)) q.cnt q.step size := rfl
  rw [hmember, heq]
  split_ifs with hmeet hfew
  · rw [clipped_has Nat.one_pos]
    refine and_congr_right fun _ => ⟨?_, ?_⟩
    · rintro ⟨t, ht, hy⟩
      obtain ⟨i, hi, hle, hge⟩ := exists_near hcnt hstep hmeet ht
      exact ⟨i, hi, by omega, by omega⟩
    · rintro ⟨i, hi, hle, hge⟩
      have hmul : i * q.step ≤ (q.cnt - 1) * q.step := Nat.mul_le_mul_right _ (by omega)
      exact ⟨y + r - q.lo, by omega, by omega⟩
  · rw [exists_mem_flatMap]
    simp only [clipped_has Nat.one_pos, List.mem_range]
    constructor
    · rintro ⟨i, hi, hy, t, ht, hyt⟩
      exact ⟨hy, i, hi, by omega, by omega⟩
    · rintro ⟨hy, i, hi, hle, hge⟩
      exact ⟨i, hi, hy, y + r - (q.lo + i * q.step), by omega, by omega⟩
  · rw [exists_mem_flatMap]
    simp only [clipped_has hstep, List.mem_range]
    constructor
    · rintro ⟨t, ht, hy, i, hi, hyt⟩
      exact ⟨hy, i, hi, by omega, by omega⟩
    · rintro ⟨hy, i, hi, hle, hge⟩
      exact ⟨y + r - (q.lo + i * q.step), by omega, hy, i, hi, by omega⟩

theorem in_cross_cons (rs : List Rng) (rest : List (List Rng)) (y : Nat) (ys : List Nat) :
    In (crossRngs (rs :: rest)) (y :: ys) ↔ (∃ z ∈ rs, z.has y = true) ∧ In (crossRngs rest) ys := by
  rw [crossRngs, in_flatMap]
  simp only [in_map_cons]
  exact ⟨fun ⟨z, hz, hy, hys⟩ => ⟨⟨z, hz, hy⟩, hys⟩, fun ⟨⟨z, hz, hy⟩, hys⟩ => ⟨z, hz, hy, hys⟩⟩

/-- A point is in the dilation of a box when it is in the tensor and within the radii of a member. -/
theorem in_dilateBox {sizes rs : List Nat} {b : NBox} {y : List Nat} (hb : Full sizes.length b) (hrs : rs.length = sizes.length)
    (hy : y.length = sizes.length) : In (crossRngs (dilateBox rs sizes b)) y ↔ (∀ k, k < sizes.length → co y k < co sizes k) ∧
      ∃ x, x.length = sizes.length ∧ NBox.has b x = true ∧ ∀ k, k < sizes.length → co y k ≤ co x k + co rs k ∧ co x k ≤ co y k + co rs k := by
  induction sizes generalizing rs b y with
  | nil =>
    obtain rfl := full_nil hb
    obtain rfl := List.eq_nil_of_length_eq_zero hrs
    simp [dilateBox, crossRngs]
  | cons n ns ih =>
    obtain ⟨q, c, rfl, ⟨hcnt, hstep⟩, hc⟩ := hb.exists_cons
    obtain ⟨r, rs, rfl⟩ := List.exists_cons_of_length_eq_add_one hrs
    obtain ⟨y, ys, rfl⟩ := List.exists_cons_of_length_eq_add_one hy
    rw [dilateBox, in_cross_cons, dilateRng_has hcnt hstep, ih hc (by simpa using hrs) (by simpa using hy), List.length_cons, Nat.forall_lt_succ_left,
      exists_member_cons fun k x => co (y :: ys) k ≤ x + co (r :: rs) k ∧ x ≤ co (y :: ys) k + co (r :: rs) k, and_and_and_comm]
    simp only [co_zero, co_succ]

/-! ### Shifts and projections (R158) -/

/-- A point is in a shifted box when it is in the tensor and a member, shifted. -/
theorem in_shiftBox {sizes : List Nat} {os : List Int} {b : NBox} {y : List Nat} (hb : Full sizes.length b) (hos : os.length = sizes.length)
    (hy : y.length = sizes.length) : In (shiftBox os sizes b).toList y ↔ (∀ k, k < sizes.length → co y k < co sizes k) ∧
      ∃ x, x.length = sizes.length ∧ NBox.has b x = true ∧ ∀ k, k < sizes.length → (co y k : Int) = co x k + os.getD k 0 := by
  induction sizes generalizing os b y with
  | nil =>
    obtain rfl := full_nil hb
    obtain rfl := List.eq_nil_of_length_eq_zero hos
    simp [shiftBox]
  | cons n ns ih =>
    obtain ⟨q, c, rfl, ⟨-, hstep⟩, hc⟩ := hb.exists_cons
    obtain ⟨o, os, rfl⟩ := List.exists_cons_of_length_eq_add_one hos
    obtain ⟨y, ys, rfl⟩ := List.exists_cons_of_length_eq_add_one hy
    have hfirst : (∃ x, q.has x = true ∧ (y : Int) = x + o) ↔ ∃ i, i < q.cnt ∧ (y : Int) = q.lo + o + (i * q.step : Nat) := by
      simp only [q.has_iff hstep]
      constructor
      · rintro ⟨x, ⟨i, hi, rfl⟩, hx⟩
        exact ⟨i, hi, by omega⟩
      · rintro ⟨i, hi, hx⟩
        exact ⟨_, ⟨i, hi, rfl⟩, by omega⟩
    rw [shiftBox, in_clipped, clipRng_has hstep, ih hc (by simpa using hos) (by simpa using hy), List.length_cons, Nat.forall_lt_succ_left,
      exists_member_cons fun k x => (co (y :: ys) k : Int) = x + (o :: os).getD k 0, and_and_and_comm]
    simp only [co_zero, co_succ, List.getD_cons_zero, List.getD_cons_succ, hfirst]

/-- A point is in a projected box when it is a member with 0 in each dimension that the mask leaves out. -/
theorem in_projBox {mask n j : Nat} {b : NBox} {y : List Nat} (hb : Full n b) (hy : y.length = n) :
    NBox.has (projBox mask j b) y = true ↔ ∃ x, x.length = n ∧ NBox.has b x = true ∧
      ∀ k, k < n → co y k = if mask / 2 ^ (j + k) % 2 = 1 then co x k else 0 := by
  induction n generalizing j b y with
  | zero =>
    obtain rfl := full_nil hb
    simp [projBox]
  | succ n ih =>
    obtain ⟨q, c, rfl, ⟨hcnt, hstep⟩, hc⟩ := hb.exists_cons
    obtain ⟨y, ys, rfl⟩ := List.exists_cons_of_length_eq_add_one hy
    have hfirst : (∃ x, q.has x = true ∧ y = if mask / 2 ^ j % 2 = 1 then x else 0) ↔
        Rng.has (if mask / 2 ^ j % 2 = 1 then q else oneRng) y = true := by
      split_ifs
      · exact ⟨fun ⟨x, hx, h⟩ => h ▸ hx, fun h => ⟨y, h, rfl⟩⟩
      · rw [oneRng, Rng.has_unit]
        exact ⟨fun ⟨_, _, h⟩ => by omega, fun h => ⟨q.lo, (q.has_iff hstep _).2 ⟨0, hcnt, by simp⟩, by omega⟩⟩
    rw [projBox, NBox.has_cons, ih hc (by simpa using hy), exists_member_cons fun k x => co (y :: ys) k = if mask / 2 ^ (j + k) % 2 = 1 then x else 0]
    simp only [co_zero, co_succ, Nat.add_zero, hfirst, Nat.add_assoc, Nat.add_comm 1]

end Sys2Proof.Machine
end

section
/-! Splits of regions (06 R159): the enumeration of members, what a part of it holds, and how the parts divide it. -/

namespace Sys2Proof.Machine

open Sys2Proof.Claims

/-! ### Enumeration -/

theorem volume_foldl (bs : List NBox) (k : Nat) : bs.foldl (fun n b => n + NBox.size b) k = k + volume bs := by
  induction bs generalizing k with
  | nil => rfl
  | cons b bs ih => rw [volume, List.foldl_cons, List.foldl_cons, ih, ih, Nat.zero_add, Nat.add_assoc]
@[simp] theorem volume_nil : volume [] = 0 := rfl
@[simp] theorem volume_cons (b : NBox) (bs : List NBox) : volume (b :: bs) = NBox.size b + volume bs := by
  rw [volume, List.foldl_cons, volume_foldl, Nat.zero_add]
@[simp] theorem volume_append (bs cs : List NBox) : volume (bs ++ cs) = volume bs + volume cs := by
  rw [volume, List.foldl_append, volume_foldl]; rfl
theorem volume_map_cons (r : Rng) (bs : List NBox) : volume (bs.map (r :: ·)) = r.cnt * volume bs := by
  induction bs with
  | nil => rfl
  | cons b bs ih => rw [List.map_cons, volume_cons, volume_cons, ih, NBox.size_cons, Nat.mul_add]

@[simp] theorem boxMember_nil (i : Nat) : boxMember [] i = [] := rfl
theorem boxMember_cons (r : Rng) (b : NBox) (i : Nat) :
    boxMember (r :: b) i = (r.lo + i / NBox.size b * r.step) :: boxMember b (i % NBox.size b) := rfl
theorem boxMember_row (r : Rng) {b : NBox} (k : Nat) {i : Nat} (hi : i < NBox.size b) :
    boxMember (r :: b) (k * NBox.size b + i) = (r.lo + k * r.step) :: boxMember b i := by
  have hsize := Nat.zero_lt_of_lt hi
  rw [boxMember_cons, Nat.add_comm (k * _), Nat.add_mul_div_right _ _ hsize, Nat.div_eq_of_lt hi, Nat.zero_add, Nat.add_mul_mod_self_right, Nat.mod_eq_of_lt hi]
theorem boxMember_length (b : NBox) (i : Nat) : (boxMember b i).length = b.length := by
  induction b generalizing i with
  | nil => rfl
  | cons r b ih => rw [boxMember_cons, List.length_cons, List.length_cons, ih]

theorem listMember_left {b : NBox} {i : Nat} (bs : List NBox) (h : i < NBox.size b) : listMember (b :: bs) i = boxMember b i := if_pos h
theorem listMember_right (b : NBox) (bs : List NBox) (i : Nat) : listMember (b :: bs) (i + NBox.size b) = listMember bs i := by
  rw [listMember, if_neg (by omega), Nat.add_sub_cancel]

/-! ### Boxes that hold an interval of an enumeration -/

/-- The boxes hold the points of `n` dimensions that `f` gives at the indices from `i` below `j`, and have as many members. -/
def Spans (n : Nat) (f : Nat → List Nat) (bs : List NBox) (i j : Nat) : Prop :=
  volume bs = j - i ∧ ∀ x, x.length = n → (In bs x ↔ ∃ q, (i ≤ q ∧ q < j) ∧ f q = x)

theorem Spans.nil {n : Nat} {f : Nat → List Nat} {i j : Nat} (h : j ≤ i) : Spans n f [] i j := by
  refine ⟨(Nat.sub_eq_zero_of_le h).symm, fun x _ => ?_⟩
  simp only [in_nil, false_iff]
  rintro ⟨q, hq, -⟩
  omega

theorem Spans.append {n : Nat} {f : Nat → List Nat} {bs cs : List NBox} {i j a b c d : Nat} (hb : Spans n f bs a b) (hc : Spans n f cs c d)
    (hvol : j - i = (b - a) + (d - c)) (hmem : ∀ q, i ≤ q ∧ q < j ↔ (a ≤ q ∧ q < b) ∨ (c ≤ q ∧ q < d)) : Spans n f (bs ++ cs) i j := by
  refine ⟨by rw [volume_append, hb.1, hc.1, hvol], fun x hx => ?_⟩
  rw [in_append, hb.2 x hx, hc.2 x hx, ← exists_or]
  exact exists_congr fun q => by rw [hmem, or_and_right]

theorem Spans.congr {n : Nat} {f g : Nat → List Nat} {bs : List NBox} {i j : Nat} (h : Spans n f bs i j) (hfg : ∀ q, q < j → g q = f q) :
    Spans n g bs i j :=
  ⟨h.1, fun x hx => (h.2 x hx).trans <| exists_congr fun q => and_congr_right fun hq => by rw [hfg q hq.2]⟩

theorem Spans.shift {n : Nat} {f g : Nat → List Nat} {bs : List NBox} {i j s : Nat} (h : Spans n f bs i j) (hfg : ∀ q, g (q + s) = f q) :
    Spans n g bs (i + s) (j + s) := by
  refine ⟨by rw [h.1, Nat.add_sub_add_right], fun x hx => (h.2 x hx).trans ⟨?_, ?_⟩⟩
  · rintro ⟨q, hq, rfl⟩
    exact ⟨q + s, by omega, hfg q⟩
  · rintro ⟨q, hq, rfl⟩
    exact ⟨q - s, by omega, by rw [← hfg, Nat.sub_add_cancel (by omega)]⟩

/-- Rows of a box, from row `k`, when the rest of the box is enumerated. -/
theorem Spans.rows {n : Nat} {r : Rng} {b : NBox} (hstep : 0 < r.step) (h : Spans n (boxMember b) [b] 0 (NBox.size b)) (k m : Nat) :
    Spans (n + 1) (boxMember (r :: b)) [⟨r.lo + k * r.step, m, r.step⟩ :: b] (k * NBox.size b) ((k + m) * NBox.size b) := by
  refine ⟨by simp [Nat.add_mul], fun x hx => ?_⟩
  obtain ⟨x, xs, rfl⟩ := List.exists_cons_of_length_eq_add_one hx
  have hrest := h.2 xs (by simpa using hx)
  simp only [in_cons, in_nil, or_false, Nat.zero_le, true_and] at hrest
  have hrow : Rng.has ⟨r.lo + k * r.step, m, r.step⟩ x = true ↔ ∃ t, t < m ∧ x = r.lo + k * r.step + t * r.step := Rng.has_iff (r := ⟨_, m, _⟩) hstep x
  simp only [in_cons, in_nil, or_false, NBox.has_cons, hrow, hrest]
  constructor
  · rintro ⟨⟨t, ht, rfl⟩, q, hq, rfl⟩
    have hnext : (k + t + 1) * NBox.size b ≤ (k + m) * NBox.size b := Nat.mul_le_mul_right _ (by omega)
    rw [Nat.succ_mul] at hnext
    have hfirst : k * NBox.size b ≤ (k + t) * NBox.size b := Nat.mul_le_mul_right _ (by omega)
    exact ⟨(k + t) * NBox.size b + q, ⟨by omega, by omega⟩, by rw [boxMember_row r _ hq, Nat.add_mul, Nat.add_assoc]⟩
  · rintro ⟨q, ⟨hfirst, hlast⟩, hq⟩
    obtain ⟨hx, hxs⟩ := List.cons.inj (hq.symm.trans (boxMember_cons r b q))
    have hsize : 0 < NBox.size b := Nat.pos_of_ne_zero fun h0 => by simp [h0] at hlast
    have hk := (Nat.le_div_iff_mul_le hsize).2 hfirst
    have hm := (Nat.div_lt_iff_lt_mul hsize).2 hlast
    refine ⟨⟨q / NBox.size b - k, by omega, ?_⟩, q % NBox.size b, Nat.mod_lt _ hsize, hxs.symm⟩
    rw [hx, Nat.add_assoc, ← Nat.add_mul, Nat.add_sub_cancel' hk]

/-- Part of row `k` of a box. -/
theorem Spans.row {n : Nat} {r : Rng} {b : NBox} {cs : List NBox} {a c : Nat} (h : Spans n (boxMember b) cs a c) (hc : c ≤ NBox.size b) (k : Nat) :
    Spans (n + 1) (boxMember (r :: b)) (cs.map (⟨r.lo + k * r.step, 1, 1⟩ :: ·)) (k * NBox.size b + a) (k * NBox.size b + c) := by
  refine ⟨by rw [volume_map_cons, h.1]; dsimp only; omega, fun x hx => ?_⟩
  obtain ⟨x, xs, rfl⟩ := List.exists_cons_of_length_eq_add_one hx
  rw [in_map_cons, Rng.has_unit, h.2 xs (by simpa using hx)]
  constructor
  · rintro ⟨hlo, q, hq, rfl⟩
    obtain rfl : x = r.lo + k * r.step := by omega
    exact ⟨k * NBox.size b + q, by omega, boxMember_row r k (by omega)⟩
  · rintro ⟨q, hq, hmem⟩
    obtain ⟨t, rfl⟩ := Nat.exists_eq_add_of_le (Nat.le_trans (Nat.le_add_right _ a) hq.1)
    rw [boxMember_row r k (by omega), List.cons.injEq] at hmem
    obtain ⟨rfl, rfl⟩ := hmem
    exact ⟨by omega, t, by omega, rfl⟩

/-- A box holds its members. -/
theorem spans_box {n : Nat} {b : NBox} (hb : Full n b) : Spans n (boxMember b) [b] 0 (NBox.size b) := by
  induction n generalizing b with
  | zero =>
    obtain rfl := full_nil hb
    refine ⟨rfl, fun x hx => ?_⟩
    obtain rfl := List.eq_nil_of_length_eq_zero hx
    simp
  | succ n ih =>
    obtain ⟨r, c, rfl, ⟨-, hstep⟩, hc⟩ := hb.exists_cons
    simpa using (ih hc).rows hstep 0 r.cnt

theorem Spans.trans {n : Nat} {f : Nat → List Nat} {bs cs : List NBox} {i j k : Nat} (hb : Spans n f bs i j) (hc : Spans n f cs j k)
    (hij : i ≤ j) (hjk : j ≤ k) : Spans n f (bs ++ cs) i k :=
  hb.append hc (by omega) (by omega)

/-- A part of a box holds the members of its indices. -/
theorem spans_boxPart {n : Nat} {b : NBox} (hb : Full n b) {i j : Nat} (hj : j ≤ NBox.size b) : Spans n (boxMember b) (boxPart b i j) i j := by
  induction n generalizing b i j with
  | zero =>
    obtain rfl := full_nil hb
    rw [NBox.size_nil] at hj
    rw [boxPart]
    split_ifs with hij
    · obtain ⟨rfl, rfl⟩ : i = 0 ∧ j = 1 := by omega
      exact spans_box hb
    · exact Spans.nil (by omega)
  | succ n ih =>
    obtain ⟨r, c, rfl, ⟨-, hstep⟩, hc⟩ := hb.exists_cons
    by_cases hij : j ≤ i
    · rw [boxPart, if_pos (Or.inr hij)]
      exact Spans.nil hij
    have hsize := hc.size_pos
    have hidiv := Nat.div_add_mod' i (NBox.size c)
    have hjdiv := Nat.div_add_mod' j (NBox.size c)
    have himod := Nat.mod_lt i hsize
    have hjmod := Nat.mod_lt j hsize
    have hle : i / NBox.size c ≤ j / NBox.size c := Nat.div_le_div_right (by omega)
    rw [boxPart, if_neg (by omega)]
    dsimp only
    generalize i / NBox.size c = i0 at *
    generalize j / NBox.size c = j0 at *
    generalize i % NBox.size c = ri at *
    generalize j % NBox.size c = rj at *
    by_cases hrow : i0 = j0
    · rw [if_pos hrow, ← hidiv, ← hjdiv, ← hrow]
      exact (ih hc hjmod.le).row hjmod.le i0
    rw [if_neg hrow]
    have hnext : (i0 + 1) * NBox.size c = i0 * NBox.size c + NBox.size c := Nat.succ_mul _ _
    have hrows : (i0 + 1) * NBox.size c ≤ j0 * NBox.size c := Nat.mul_le_mul_right _ (by omega)
    have htail : Spans (n + 1) (boxMember (r :: c)) (if rj = 0 then [] else (boxPart c 0 rj).map (⟨r.lo + j0 * r.step, 1, 1⟩ :: ·))
        (j0 * NBox.size c) j := by
      split_ifs with h
      · exact Spans.nil (by omega)
      · rw [← hjdiv]
        exact (ih hc hjmod.le).row hjmod.le j0
    have hmid {k : Nat} (hk : k ≤ j0) : Spans (n + 1) (boxMember (r :: c)) (if k < j0 then [⟨r.lo + k * r.step, j0 - k, r.step⟩ :: c] else [])
        (k * NBox.size c) (j0 * NBox.size c) := by
      split_ifs with h
      · simpa [Nat.add_sub_cancel' hk] using (spans_box hc).rows hstep k (j0 - k)
      · exact Spans.nil (Nat.mul_le_mul_right _ (by omega))
    by_cases hstart : ri = 0
    · simp only [if_pos hstart]
      rw [List.nil_append, ← hidiv, hstart]
      exact (hmid hle).trans htail (by omega) (by omega)
    · simp only [if_neg hstart]
      have hhead := (ih hc (i := ri) Nat.le.refl).row (r := r) Nat.le.refl i0
      rw [hidiv, ← hnext] at hhead
      exact (hhead.trans (hmid (by omega)) (by omega) hrows).trans htail (by omega) (by omega)

/-- A list of boxes holds its members. -/
theorem spans_list {n : Nat} {bs : List NBox} (hbs : Boxes n bs) : Spans n (listMember bs) bs 0 (volume bs) := by
  induction bs with
  | nil => exact Spans.nil Nat.le.refl
  | cons b bs ih =>
    obtain ⟨hb, hbs⟩ := boxes_cons.1 hbs
    have hfirst := (spans_box hb).congr fun q hq => listMember_left bs hq
    have hrest := (ih hbs).shift (listMember_right b bs)
    rw [volume_cons]
    exact hfirst.append hrest (by omega) (by omega)

/-- A part of a list of boxes holds the members of its indices. -/
theorem spans_listPart {n : Nat} {bs : List NBox} (hbs : Boxes n bs) (i j : Nat) :
    Spans n (listMember bs) (listPart bs i j) (min i (volume bs)) (min j (volume bs)) := by
  induction bs generalizing i j with
  | nil => exact Spans.nil (by simp)
  | cons b bs ih =>
    obtain ⟨hb, hbs⟩ := boxes_cons.1 hbs
    have hfirst := (spans_boxPart hb (i := min i (NBox.size b)) (j := min j (NBox.size b)) (Nat.min_le_right _ _)).congr fun q hq =>
      listMember_left bs (Nat.lt_of_lt_of_le hq (Nat.min_le_right _ _))
    have hrest := (ih hbs (i - NBox.size b) (j - NBox.size b)).shift (listMember_right b bs)
    rw [volume_cons]
    exact hfirst.append hrest (by omega) (by omega)

theorem in_listPart {n : Nat} {bs : List NBox} (hbs : Boxes n bs) (i j : Nat) {x : List Nat} (hx : x.length = n) :
    In (listPart bs i j) x ↔ ∃ q, i ≤ q ∧ q < j ∧ q < volume bs ∧ listMember bs q = x := by
  rw [(spans_listPart hbs i j).2 x hx]
  exact exists_congr fun q => by rw [← and_assoc, ← and_assoc]; exact and_congr_left fun _ => by omega

theorem in_iff_listMember {n : Nat} {bs : List NBox} (hbs : Boxes n bs) {x : List Nat} (hx : x.length = n) :
    In bs x ↔ ∃ q, q < volume bs ∧ listMember bs q = x := by
  simpa using (spans_list hbs).2 x hx

/-! ### The order of the members -/

theorem lexLt_cons (x y : Nat) (xs ys : List Nat) : lexLt (x :: xs) (y :: ys) = true ↔ x < y ∨ x = y ∧ lexLt xs ys = true := by
  simp [lexLt]

theorem lexLt_irrefl (x : List Nat) : lexLt x x = false := by
  induction x with
  | nil => rfl
  | cons x xs ih => simp [lexLt, ih]

/-- The members of a box are enumerated in row-major order. -/
theorem boxMember_lexLt {n : Nat} {b : NBox} (hb : Full n b) {p q : Nat} (hpq : p < q) (hq : q < NBox.size b) :
    lexLt (boxMember b p) (boxMember b q) = true := by
  induction n generalizing b p q with
  | zero =>
    obtain rfl := full_nil hb
    rw [NBox.size_nil] at hq
    omega
  | succ n ih =>
    obtain ⟨r, c, rfl, ⟨-, hstep⟩, hc⟩ := hb.exists_cons
    have hp := Nat.div_add_mod' p (NBox.size c)
    have hq := Nat.div_add_mod' q (NBox.size c)
    rw [boxMember_cons, boxMember_cons, lexLt_cons]
    rcases Nat.lt_or_eq_of_le (Nat.div_le_div_right (c := NBox.size c) hpq.le) with hrow | hrow
    · exact Or.inl (Nat.add_lt_add_left (Nat.mul_lt_mul_of_pos_right hrow hstep) _)
    · rw [hrow] at hp ⊢
      exact Or.inr ⟨rfl, ih hc (by omega) (Nat.mod_lt _ hc.size_pos)⟩

theorem boxMember_inj {n : Nat} {b : NBox} (hb : Full n b) {p q : Nat} (hp : p < NBox.size b) (hq : q < NBox.size b)
    (h : boxMember b p = boxMember b q) : p = q := by
  rcases Nat.lt_trichotomy p q with hlt | heq | hlt
  · exact absurd (boxMember_lexLt hb hlt hq) (by rw [h, lexLt_irrefl]; decide)
  · exact heq
  · exact absurd (boxMember_lexLt hb hlt hp) (by rw [h, lexLt_irrefl]; decide)

/-- Boxes with no member in common. -/
def DisjointBoxes (n : Nat) (bs : List NBox) : Prop := bs.Pairwise fun b c => ∀ x, x.length = n → NBox.has b x = true → NBox.has c x = false

/-- Boxes with no member in common have each member at one index. -/
theorem listMember_inj {n : Nat} {bs : List NBox} (hbs : Boxes n bs) (hapart : DisjointBoxes n bs) {p q : Nat} (hp : p < volume bs) (hq : q < volume bs)
    (h : listMember bs p = listMember bs q) : p = q := by
  induction bs generalizing p q with
  | nil => exact absurd hp (Nat.not_lt_zero _)
  | cons b bs ih =>
    obtain ⟨hb, hbs⟩ := boxes_cons.1 hbs
    obtain ⟨hfirst, hapart⟩ := List.pairwise_cons.1 hapart
    rw [volume_cons] at hp hq
    have hdiff {s t : Nat} (hs : s < NBox.size b) (ht : t < volume bs) : boxMember b s ≠ listMember bs t := fun heq => by
      have hlen : (boxMember b s).length = n := (boxMember_length b s).trans hb.1
      have hin : In [b] (boxMember b s) := ((spans_box hb).2 _ hlen).2 ⟨s, ⟨Nat.zero_le _, hs⟩, rfl⟩
      obtain ⟨c, hc, hhas⟩ := (in_iff_listMember hbs hlen).2 ⟨t, ht, heq.symm⟩
      rw [hfirst c hc _ hlen (by simpa using hin)] at hhas
      cases hhas
    rcases Nat.lt_or_ge p (NBox.size b) with hps | hps <;> rcases Nat.lt_or_ge q (NBox.size b) with hqs | hqs
    · rw [listMember_left bs hps, listMember_left bs hqs] at h
      exact boxMember_inj hb hps hqs h
    · obtain ⟨t, rfl⟩ := Nat.exists_eq_add_of_le' hqs
      rw [listMember_left bs hps, listMember_right] at h
      exact absurd h (hdiff hps (by omega))
    · obtain ⟨t, rfl⟩ := Nat.exists_eq_add_of_le' hps
      rw [listMember_left bs hqs, listMember_right] at h
      exact absurd h.symm (hdiff hqs (by omega))
    · obtain ⟨t, rfl⟩ := Nat.exists_eq_add_of_le' hps
      obtain ⟨u, rfl⟩ := Nat.exists_eq_add_of_le' hqs
      rw [listMember_right, listMember_right] at h
      rw [ih hbs hapart (by omega) (by omega) h]

/-! ### The parts of a split -/

theorem partStart_zero (v k : Nat) : partStart v k 0 = 0 := by simp [partStart]
theorem partStart_last {v k : Nat} (hk : 0 < k) : partStart v k k = v := by
  rw [partStart, Nat.min_eq_right (Nat.mod_lt _ hk).le, Nat.div_add_mod]
theorem partStart_succ (v k i : Nat) : partStart v k (i + 1) = partStart v k i + (v / k + if i < v % k then 1 else 0) := by
  rw [partStart, partStart, Nat.succ_mul]
  split_ifs <;> omega
theorem partStart_mono (v k : Nat) : Monotone (partStart v k) :=
  monotone_nat_of_le_succ fun i => by rw [partStart_succ]; exact Nat.le_add_right _ _

/-- An index below the start of part `m` lies in an earlier part. -/
theorem exists_part {v k m q : Nat} (hq : q < partStart v k m) : ∃ i, i < m ∧ partStart v k i ≤ q ∧ q < partStart v k (i + 1) := by
  induction m with
  | zero => simp [partStart_zero] at hq
  | succ m ih =>
    rcases Nat.lt_or_ge q (partStart v k m) with h | h
    · obtain ⟨i, hi, hpart⟩ := ih h
      exact ⟨i, Nat.lt_succ_of_lt hi, hpart⟩
    · exact ⟨m, Nat.lt_succ_self m, h, hq⟩

theorem part_unique {v k i j q : Nat} (hi : partStart v k i ≤ q ∧ q < partStart v k (i + 1)) (hj : partStart v k j ≤ q ∧ q < partStart v k (j + 1)) :
    i = j := by
  rcases Nat.lt_trichotomy i j with hlt | heq | hlt
  · have hle : partStart v k (i + 1) ≤ partStart v k j := partStart_mono v k hlt
    omega
  · exact heq
  · have hle : partStart v k (j + 1) ≤ partStart v k i := partStart_mono v k hlt
    omega

section
variable {n : Nat} {bs : List NBox} (hbs : Boxes n bs) {k : Nat} {P : Nat → List NBox}
  (hP : ∀ i, P i = listPart bs (partStart (volume bs) k i) (partStart (volume bs) k (i + 1)))
include hbs hP

theorem spans_part (hk : 0 < k) {i : Nat} (hi : i < k) :
    Spans n (listMember bs) (P i) (partStart (volume bs) k i) (partStart (volume bs) k (i + 1)) := by
  have hend := (partStart_mono (volume bs) k (Nat.succ_le_of_lt hi)).trans_eq (partStart_last hk)
  have hstart := (partStart_mono (volume bs) k hi.le).trans_eq (partStart_last hk)
  have h := spans_listPart hbs (partStart (volume bs) k i) (partStart (volume bs) k (i + 1))
  rwa [Nat.min_eq_left hstart, Nat.min_eq_left hend, ← hP] at h

theorem volume_part (hk : 0 < k) {i : Nat} (hi : i < k) : volume (P i) = volume bs / k + if i < volume bs % k then 1 else 0 := by
  rw [(spans_part hbs hP hk hi).1, partStart_succ, Nat.add_sub_cancel_left]

/-- The parts hold all members together. -/
theorem in_iff_in_part (hk : 0 < k) {x : List Nat} (hx : x.length = n) : In bs x ↔ ∃ i, i < k ∧ In (P i) x := by
  rw [in_iff_listMember hbs hx]
  constructor
  · rintro ⟨q, hq, rfl⟩
    obtain ⟨i, hi, hpart⟩ := exists_part (hq.trans_eq (partStart_last hk).symm)
    exact ⟨i, hi, ((spans_part hbs hP hk hi).2 _ hx).2 ⟨q, hpart, rfl⟩⟩
  · rintro ⟨i, -, hin⟩
    rw [hP, in_listPart hbs _ _ hx] at hin
    obtain ⟨q, -, -, hq, rfl⟩ := hin
    exact ⟨q, hq, rfl⟩

/-- The parts of boxes with no member in common have none in common. -/
theorem part_disjoint (hdisj : DisjointBoxes n bs) {x : List Nat} (hx : x.length = n) {i j : Nat} (hi : In (P i) x) (hj : In (P j) x) : i = j := by
  rw [hP, in_listPart hbs _ _ hx] at hi hj
  obtain ⟨p, hp, hp', hpv, rfl⟩ := hi
  obtain ⟨q, hq, hq', hqv, h⟩ := hj
  obtain rfl := listMember_inj hbs hdisj hqv hpv h
  exact part_unique ⟨hp, hp'⟩ ⟨hq, hq'⟩

end

end Sys2Proof.Machine

namespace Sys2Proof.Proofs

open Sys2Proof.Machine Sys2Proof.Claims

theorem canonOf_any {op : Bool → Bool → Bool} (strided : Bool) {n : Nat} {L R : List NBox} (hop : op false false = false)
    (hLR : Boxes n (L ++ R)) {x : List Nat} (hx : x.length = n) : ((canonOf op strided n L R).any fun b => NBox.has b x) =
      op (L.any fun b => NBox.has b x) (R.any fun b => NBox.has b x) := by
  obtain ⟨hL, hR⟩ := List.forall_mem_append.1 hLR
  rw [Bool.eq_iff_iff, any_has_iff, in_canonOf strided hop hL hR hx]

theorem clipBox_any {sizes : List Nat} {b : NBox} {x : List Nat} (hb : Full sizes.length b) (hx : x.length = sizes.length) :
    ((clipBox sizes b).any fun c => NBox.has c x) = (NBox.has b x && (x.zip sizes).all fun y => decide (y.1 < y.2)) := by
  rw [Bool.eq_iff_iff, in_toList, in_clipBox hb hx, Bool.and_eq_true]

/-- Settles O35: a canonical form slices the set along its first dimension until slices are points, clipping and the transforms act on each
range, and a part of a split is an interval of the enumeration of members. -/
theorem regionSets : Obligations.RegionSets := by
  unfold Obligations.RegionSets
  refine ⟨fun op strided n L R hop hLR x hx => canonOf_any strided hop hLR hx, fun sizes b x hb hx hr => clipBox_any ⟨hb, hr⟩ hx,
    fun sizes b y hb hy => ?_, fun n bs hbs => ⟨fun i j x hx => in_listPart hbs i j hx, fun x hx => in_iff_listMember hbs hx,
    fun b hb p q hpq hq => boxMember_lexLt (hbs b hb) hpq hq, fun k P hk hP => ⟨fun i hi => volume_part hbs hP hk hi,
    fun x hx => in_iff_in_part hbs hP hk hx, fun hdisj i j x hx _ _ hi hj => part_disjoint hbs hP hdisj hx hi hj⟩⟩,
    fun n L R hL hR => ⟨subSet_iff hL hR, sameSet_iff hL hR⟩⟩
  have hb : Full sizes.length b := hb b List.mem_cons_self
  refine ⟨fun rs hrs => in_dilateBox hb hrs hy, fun os hos => in_shiftBox hb hos hy, fun mask => ?_⟩
  simpa using in_projBox (mask := mask) (j := 0) hb hy

end Sys2Proof.Proofs
end

section
/-! Rounding (07 R165, R169): what a rounding depends on, so that equal exact values, and a value with a sticky bit for its tail, round
alike; the codes of a format and the rounding of a code's own value. -/

namespace Sys2Proof.Machine

open Sys2Proof.Claims

/-! ### The rounding of a quotient by a power of two (R169 step 2) -/

/-- A rounding depends on the quotient, on how the remainder compares with one half, and on whether there is one. -/
theorem roundShift_congr {mode : RM} {neg : Bool} {m sh m' sh' : Nat} (hq : m / 2 ^ sh = m' / 2 ^ sh')
    (hlt : 2 ^ sh < 2 * (m % 2 ^ sh) ↔ 2 ^ sh' < 2 * (m' % 2 ^ sh')) (heq : 2 * (m % 2 ^ sh) = 2 ^ sh ↔ 2 * (m' % 2 ^ sh') = 2 ^ sh')
    (hz : m % 2 ^ sh = 0 ↔ m' % 2 ^ sh' = 0) : roundShift mode neg m sh = roundShift mode neg m' sh' := by
  have hz' : (m % 2 ^ sh != 0) = (m' % 2 ^ sh' != 0) := by simp only [bne, Bool.beq_eq_decide_eq, hz]
  have heq' : (2 * (m % 2 ^ sh) == 2 ^ sh) = (2 * (m' % 2 ^ sh') == 2 ^ sh') := by simp only [Bool.beq_eq_decide_eq, heq]
  have hle : 2 ^ sh ≤ 2 * (m % 2 ^ sh) ↔ 2 ^ sh' ≤ 2 * (m' % 2 ^ sh') := by omega
  simp only [roundShift, hq, hz', heq', hlt, hle]

theorem roundShift_scale (mode : RM) (neg : Bool) (m sh j : Nat) :
    roundShift mode neg (m * 2 ^ j) (sh + j) = roundShift mode neg m sh := by
  have hpos : 0 < 2 ^ j := Nat.two_pow_pos j
  have hr : m * 2 ^ j % 2 ^ (sh + j) = m % 2 ^ sh * 2 ^ j := by rw [pow_add, Nat.mul_mod_mul_right]
  refine roundShift_congr ?_ ?_ ?_ ?_
  · rw [pow_add, Nat.mul_div_mul_right _ _ hpos]
  · rw [hr, pow_add, ← mul_assoc, Nat.mul_lt_mul_right hpos]
  · rw [hr, pow_add, ← mul_assoc, Nat.mul_left_inj hpos.ne']
  · rw [hr, Nat.mul_eq_zero, or_iff_left hpos.ne']

/-- What is exact rounds to itself. -/
theorem roundShift_exact (mode : RM) (neg : Bool) (m sh : Nat) : roundShift mode neg (m * 2 ^ sh) sh = (m, false) := by
  have hpos : 0 < 2 ^ sh := Nat.two_pow_pos sh
  have hne : (0 == 2 ^ sh) = false := by simp only [beq_eq_false_iff_ne]; omega
  cases mode <;> simp [roundShift, Nat.mul_div_cancel _ hpos, hne]

/-- The value m' cut behind the bit of 2^(j+1), with a last bit that is set when anything is cut off. -/
structure Sticky (m m' j : Nat) : Prop where
  quot : m / 2 = m' / 2 ^ (j + 1)
  rest : m % 2 = 0 ↔ m' % 2 ^ (j + 1) = 0

/-- Two bits below the unit, the lower one sticky, decide a rounding. -/
theorem Sticky.roundShift {m m' j : Nat} (h : Sticky m m' j) (mode : RM) (neg : Bool) {sh : Nat} (hsh : 2 ≤ sh) :
    roundShift mode neg m' (sh + j) = roundShift mode neg m sh := by
  obtain ⟨k, rfl⟩ : ∃ k, sh = k + 2 := ⟨sh - 2, by omega⟩
  have hp : 2 ^ (k + 2 + j) = 2 ^ (j + 1) * 2 ^ (k + 1) := by rw [← pow_add]; congr 1; omega
  have hp' : 2 ^ (k + 2) = 2 * 2 ^ (k + 1) := pow_succ' 2 (k + 1)
  have hr' : m' % 2 ^ (k + 2 + j) = m' % 2 ^ (j + 1) + 2 ^ (j + 1) * (m / 2 % 2 ^ (k + 1)) := by rw [hp, Nat.mod_mul, h.quot]
  have hr : m % 2 ^ (k + 2) = m % 2 + 2 * (m / 2 % 2 ^ (k + 1)) := by rw [hp', Nat.mod_mul]
  have hlow : m' % 2 ^ (j + 1) < 2 ^ (j + 1) := Nat.mod_lt _ (Nat.two_pow_pos _)
  have hrest := h.rest
  have hquot : m' / 2 ^ (k + 2 + j) = m / 2 ^ (k + 2) := by
    rw [hp, hp', ← Nat.div_div_eq_div_mul, ← Nat.div_div_eq_div_mul, h.quot]
  rw [pow_succ' 2 k] at hp hp' hr hr'
  generalize 2 ^ k = H at hp hp' hr hr'
  generalize m / 2 % (2 * H) = R at hr hr'
  generalize 2 ^ (j + 1) = U at *
  generalize m' % U = l at *
  have hlt : R < H → U * R + U ≤ U * H := fun h => Nat.mul_succ U R ▸ Nat.mul_le_mul_left U h
  have hgt : H < R → U * H + U ≤ U * R := fun h => Nat.mul_succ U H ▸ Nat.mul_le_mul_left U h
  have heq : R = H → U * R = U * H := fun h => by rw [h]
  have hzero : U * R = 0 ↔ R = 0 := by rw [Nat.mul_eq_zero]; omega
  have hp2 : U * (2 * H) = 2 * (U * H) := Nat.mul_left_comm U 2 H
  refine roundShift_congr hquot ?_ ?_ ?_ <;> rw [hr', hr]
  · rw [hp, hp']; omega
  · rw [hp, hp']; omega
  · omega

/-! ### The rounding of a finite value (R169) -/

/-- The exponent of the unit to which a value whose highest bit counts `2^top` is rounded. -/
def FFmt.unitAt (f : FFmt) (top : Int) : Int := max (top - f.frac) f.qmin

/-- The value in units of `2^q`, rounded, and whether that was inexact. -/
def roundUnits (mode : RM) (neg : Bool) (m : Nat) (e q : Int) : Nat × Bool :=
  if e < q then roundShift mode neg m (q - e).toNat else (m * 2 ^ (e - q).toNat, false)

/-- The code and flags of a rounded value: overflow, underflow, a zero (R169 steps 3 to 5). -/
def FFmt.pack (f : FFmt) (mode : RM) (neg : Bool) (top : Int) (r : Nat × Bool) : Nat × FFlags :=
  let code := (f.unitAt top - f.qmin).toNat * 2 ^ f.frac + r.1
  if f.largest < code then
    let sat := !f.ieee || (match mode with | .rne => false | .rna => false | .rz => true | .rup => neg | .rdn => !neg)
    (f.withSign neg (if sat then f.largest else f.infCode), fOF ||| fNX)
  else
    (if code = 0 && !f.ieee then 0 else f.withSign neg code,
      flagIf r.2 fNX ||| flagIf (r.2 && decide (top < f.qmin + f.frac)) fUF)

theorem roundFin_eq (f : FFmt) (mode : RM) (neg : Bool) {m : Nat} (hm : m ≠ 0) (e : Int) :
    roundFin f mode neg m e = f.pack mode neg (m.log2 + e) (roundUnits mode neg m e (f.unitAt (m.log2 + e))) := if_neg hm

theorem roundFin_zero {f : FFmt} (hf : f.ieee = true) (mode : RM) (neg : Bool) (e : Int) :
    roundFin f mode neg 0 e = (f.withSign neg 0, 0#5) := by
  simp [roundFin, hf]

theorem roundUnits_scale (mode : RM) (neg : Bool) (m j : Nat) (e q : Int) :
    roundUnits mode neg (m * 2 ^ j) (e - j) q = roundUnits mode neg m e q := by
  unfold roundUnits
  by_cases h : e < q
  · have hsh : (q - (e - j)).toNat = (q - e).toNat + j := by omega
    rw [if_pos h, if_pos (by omega), hsh, roundShift_scale]
  · rw [if_neg h]
    by_cases hj : e - j < q
    · have hsh : m * 2 ^ j = m * 2 ^ (e - q).toNat * 2 ^ (q - (e - j)).toNat := by
        rw [mul_assoc, ← pow_add]; congr 2; omega
      rw [if_pos hj, hsh, roundShift_exact]
    · rw [if_neg hj, mul_assoc, ← pow_add]; congr 3; omega

theorem log2_mul_two_pow {m : Nat} (hm : m ≠ 0) (j : Nat) : (m * 2 ^ j).log2 = m.log2 + j := by
  rw [Nat.log2_eq_iff (by positivity), pow_add, Nat.add_right_comm, pow_add _ _ j]
  exact ⟨Nat.mul_le_mul_right _ (Nat.log2_self_le hm), Nat.mul_lt_mul_of_pos_right Nat.lt_log2_self (Nat.two_pow_pos j)⟩

/-- A finite value rounds the same in any unit in which it is exact. -/
theorem roundFin_scale (f : FFmt) (mode : RM) (neg : Bool) (m j : Nat) (e : Int) :
    roundFin f mode neg (m * 2 ^ j) (e - j) = roundFin f mode neg m e := by
  by_cases hm : m = 0
  · rw [hm, Nat.zero_mul]; rfl
  · have htop : ((m * 2 ^ j).log2 : Int) + (e - j) = m.log2 + e := by rw [log2_mul_two_pow hm]; omega
    rw [roundFin_eq _ _ _ (Nat.mul_ne_zero hm (Nat.two_pow_pos j).ne'), roundFin_eq _ _ _ hm, htop, roundUnits_scale]

/-- Two representations of one value round alike. -/
theorem roundFin_congr (f : FFmt) (mode : RM) (neg : Bool) {m m' : Nat} {e e' e0 : Int} (he : e0 ≤ e) (he' : e0 ≤ e')
    (h : m * 2 ^ (e - e0).toNat = m' * 2 ^ (e' - e0).toNat) : roundFin f mode neg m e = roundFin f mode neg m' e' := by
  have hdown {m : Nat} {e : Int} (he : e0 ≤ e) : roundFin f mode neg m e = roundFin f mode neg (m * 2 ^ (e - e0).toNat) e0 := by
    have := roundFin_scale f mode neg m (e - e0).toNat e
    rwa [show e - ((e - e0).toNat : Int) = e0 by omega, eq_comm] at this
  rw [hdown he, hdown he', h]

theorem Sticky.log2 {m m' j : Nat} (h : Sticky m m' j) (hm : 2 ≤ m) : m'.log2 = m.log2 + j := by
  have hm0 : m / 2 ≠ 0 := by omega
  have hlow := Nat.log2_self_le (n := m) (by omega)
  have hhigh := Nat.lt_log2_self (n := m)
  obtain ⟨k, hk⟩ : ∃ k, m.log2 = k + 1 := by
    have := (Nat.le_log2 (n := m) (k := 1) (by omega)).2 (by omega)
    exact ⟨m.log2 - 1, by omega⟩
  rw [hk, pow_succ] at hlow
  rw [hk, pow_succ] at hhigh
  have hdiv := Nat.div_add_mod m' (2 ^ (j + 1))
  have hmod := Nat.mod_lt m' (Nat.two_pow_pos (j + 1))
  have hle : 2 ^ (j + 1) * 2 ^ k ≤ 2 ^ (j + 1) * (m / 2) := Nat.mul_le_mul_left _ (by omega)
  have hlt : 2 ^ (j + 1) * (m / 2 + 1) ≤ 2 ^ (j + 1) * 2 ^ (k + 1) := Nat.mul_le_mul_left _ (by omega)
  rw [← h.quot] at hdiv
  rw [Nat.mul_succ] at hlt
  rw [← pow_add] at hle hlt
  rw [Nat.log2_eq_iff (by rintro rfl; simp at hdiv; omega), hk, show k + 1 + j = j + 1 + k by omega]
  exact ⟨by omega, by rw [Nat.add_assoc]; omega⟩

/-- A value cut off with a sticky bit, three bits or more below the last of the format, rounds as the whole value does. -/
theorem Sticky.roundFin {m m' j : Nat} (h : Sticky m m' j) (f : FFmt) (mode : RM) (neg : Bool) (e : Int) (hm : 2 ^ (f.frac + 2) ≤ m) :
    roundFin f mode neg m' (e - j) = roundFin f mode neg m e := by
  have hpos := Nat.two_pow_pos f.frac
  rw [pow_add] at hm
  have hm0 : m ≠ 0 := by omega
  have hlog := h.log2 (by omega)
  have hm0' : m' ≠ 0 := by
    rintro rfl
    have := h.quot
    rw [Nat.zero_div] at this
    omega
  have htop : (m'.log2 : Int) + (e - j) = m.log2 + e := by rw [hlog]; omega
  have hfrac : f.frac + 2 ≤ m.log2 := (Nat.le_log2 hm0).2 (by rwa [pow_add])
  have hq : e + 2 ≤ f.unitAt (m.log2 + e) := by unfold FFmt.unitAt; omega
  rw [roundFin_eq _ _ _ hm0', roundFin_eq _ _ _ hm0, htop]
  generalize f.unitAt (m.log2 + e) = q at hq
  have hsh : (q - (e - j)).toNat = (q - e).toNat + j := by omega
  rw [roundUnits, roundUnits, if_pos (by omega), if_pos (by omega), hsh, h.roundShift mode neg (by omega)]

/-! ### The codes of a format (R165) -/

/-- A format whose fields have their bits: a sign, two bits of exponent or more, one of fraction or more. -/
def FFmt.Sane (f : FFmt) : Prop := 1 ≤ f.frac ∧ f.frac + 3 ≤ f.bits

theorem sane_of_mem {f : FFmt} (h : f ∈ [fmtF64, fmtF32, fmtF16, fmtBf16, fmtE4m3n, fmtE5m2n]) : f.Sane := by
  revert f; unfold FFmt.Sane; decide

section

variable {f : FFmt} (hf : f.Sane)

include hf

theorem FFmt.Sane.signBit_eq : f.signBit = f.infCode + 2 ^ f.frac := by
  have := Nat.two_pow_pos (f.bits - 1 - f.frac)
  rw [infCode, expMax, ← Nat.succ_mul, Nat.succ_eq_add_one, Nat.sub_add_cancel this, ← pow_add, signBit]
  congr 1
  have := hf.2
  omega

theorem FFmt.Sane.two_pow_bits : 2 ^ f.bits = 2 * f.signBit := by
  rw [signBit, ← pow_succ']
  congr 1
  have := hf.2
  omega

theorem FFmt.Sane.expMax_pos : 3 ≤ f.expMax := by
  have : 2 ^ 2 ≤ 2 ^ (f.bits - 1 - f.frac) := Nat.pow_le_pow_right (by omega) (by have := hf.2; omega)
  rw [expMax]
  omega

theorem FFmt.Sane.largest_lt : f.largest < f.signBit := by
  have := hf.signBit_eq
  have := Nat.two_pow_pos f.frac
  unfold largest
  rw [← infCode]
  split <;> omega

/-- A code is its sign and its magnitude. -/
theorem FFmt.Sane.withSign_mag {x : Nat} (hx : x < 2 ^ f.bits) : f.withSign (decide (f.signBit ≤ x)) (x % f.signBit) = x := by
  rw [hf.two_pow_bits] at hx
  unfold withSign
  by_cases h : f.signBit ≤ x
  · rw [if_pos (decide_eq_true h), Nat.mod_eq_sub_mod h, Nat.mod_eq_of_lt (by omega)]; omega
  · rw [if_neg (by simpa using h), Nat.mod_eq_of_lt (by omega)]

theorem FFmt.Sane.withSign_lt {neg : Bool} {x : Nat} (hx : x < f.signBit) : f.withSign neg x < 2 ^ f.bits := by
  rw [hf.two_pow_bits]
  unfold withSign
  split <;> omega

end

/-- The finite codes: `E` and `m` are the exponent in units of the least one and the mantissa, which lacks its high bit only when `E` is 0;
the formats without -0 have no negative zero. -/
structure FFmt.FinCode (f : FFmt) (x : Nat) (neg : Bool) (m : Nat) (e : Int) (E : Nat) : Prop where
  code : x = f.withSign neg (E * 2 ^ f.frac + m)
  exp : e = f.qmin + E
  le : E * 2 ^ f.frac + m ≤ f.largest
  lt : m < 2 ^ (f.frac + 1)
  normal : E ≠ 0 → 2 ^ f.frac ≤ m
  signed : f.ieee = false → neg = true → m ≠ 0

theorem FFmt.decode_fin {f : FFmt} (hf : f.Sane) {x m : Nat} {neg : Bool} {e : Int} (hx : x < 2 ^ f.bits)
    (h : f.decode x = .fin neg m e) : ∃ E, f.FinCode x neg m e E := by
  have hsign := hf.withSign_mag hx
  have hdiv := Nat.div_add_mod' (x % f.signBit) (2 ^ f.frac)
  have hmod := Nat.mod_lt (x % f.signBit) (Nat.two_pow_pos f.frac)
  have hmag : x % f.signBit < f.signBit := Nat.mod_lt _ (Nat.two_pow_pos _)
  have hle (hne : (f.ieee && x % f.signBit / 2 ^ f.frac == f.expMax) = false) : x % f.signBit ≤ f.largest := by
    have heq := hf.signBit_eq
    unfold largest
    by_cases hi : f.ieee = true
    · rw [if_pos hi, ← infCode]
      have hexp : x % f.signBit / 2 ^ f.frac ≠ f.expMax := by simpa [hi] using hne
      have hlt : x % f.signBit / 2 ^ f.frac < f.expMax + 1 := by
        rw [Nat.div_lt_iff_lt_mul (Nat.two_pow_pos _), Nat.succ_mul, ← infCode, ← heq]; exact hmag
      have : x % f.signBit / 2 ^ f.frac < f.expMax := by omega
      rw [Nat.div_lt_iff_lt_mul (Nat.two_pow_pos _), ← infCode] at this
      omega
    · rw [if_neg hi]; omega
  simp only [decode, Nat.mod_eq_of_lt hx] at h
  split at h
  · split at h <;> cases h
  · split at h
    · cases h
    · rename_i hinf hnan
      have hle := hle (by simpa using hinf)
      have hsigned : f.ieee = false → decide (f.signBit ≤ x) = true → x % f.signBit ≠ 0 := by
        intro hi hn hz
        exact hnan (by rw [hi, hn, hz]; rfl)
      split at h
      · rename_i hz
        rw [hz, Nat.zero_mul, Nat.zero_add] at hdiv
        cases h
        refine ⟨0, ?_, by omega, by omega, by rw [pow_succ]; omega, fun h => absurd rfl h, ?_⟩
        · rw [Nat.zero_mul, Nat.zero_add, hdiv, hsign]
        · rw [hdiv]; exact hsigned
      · rename_i hz
        cases h
        have hcode : (x % f.signBit / 2 ^ f.frac - 1) * 2 ^ f.frac + (2 ^ f.frac + x % f.signBit % 2 ^ f.frac) = x % f.signBit := by
          rw [← Nat.add_assoc, ← Nat.succ_mul, Nat.succ_eq_add_one, Nat.sub_add_cancel (Nat.pos_of_ne_zero hz)]; exact hdiv
        refine ⟨x % f.signBit / 2 ^ f.frac - 1, ?_, rfl, by omega, by rw [pow_succ]; omega, fun _ => by omega, fun _ _ => ?_⟩
        · rw [hcode, hsign]
        · have := Nat.two_pow_pos f.frac; omega

theorem FFmt.decode_inf {f : FFmt} (hf : f.Sane) {x : Nat} {neg : Bool} (hx : x < 2 ^ f.bits) (h : f.decode x = .inf neg) :
    f.ieee = true ∧ x = f.withSign neg f.infCode := by
  have hsign := hf.withSign_mag hx
  have hdiv := Nat.div_add_mod' (x % f.signBit) (2 ^ f.frac)
  simp only [decode, Nat.mod_eq_of_lt hx] at h
  split at h
  · rename_i hinf
    simp only [Bool.and_eq_true, beq_iff_eq] at hinf
    split at h
    · rename_i hz
      cases h
      rw [hinf.2, hz, Nat.add_zero] at hdiv
      exact ⟨hinf.1, by rw [infCode, hdiv, hsign]⟩
    · cases h
  · split at h
    · cases h
    · split at h <;> cases h

theorem FFmt.decode_zero {f : FFmt} (hf : f.Sane) {x : Nat} {neg : Bool} {e : Int} (hx : x < 2 ^ f.bits) (h : f.decode x = .fin neg 0 e) :
    x = f.withSign neg 0 := by
  obtain ⟨E, hcode, -, -, -, hnormal, -⟩ := FFmt.decode_fin hf hx h
  have := Nat.two_pow_pos f.frac
  have hE : E = 0 := by by_contra hne; have := hnormal hne; omega
  rw [hcode, hE, Nat.zero_mul]

/-- The value of a finite code is in the unit to which it is rounded. -/
theorem FFmt.FinCode.unitAt {f : FFmt} {x m : Nat} {neg : Bool} {e : Int} {E : Nat} (h : f.FinCode x neg m e E) (hm : m ≠ 0) :
    f.unitAt (m.log2 + e) = e := by
  have hlog : m.log2 < f.frac + 1 := (Nat.log2_lt hm).2 h.lt
  have hlow : E ≠ 0 → f.frac ≤ m.log2 := fun hE => (Nat.le_log2 hm).2 (h.normal hE)
  have := h.exp
  unfold FFmt.unitAt
  omega

theorem FFmt.FinCode.roundFin {f : FFmt} {x m : Nat} {neg : Bool} {e : Int} {E : Nat} (h : f.FinCode x neg m e E) (mode : RM) :
    roundFin f mode neg m e = (x, 0#5) := by
  by_cases hm : m = 0
  · subst hm
    have := Nat.two_pow_pos f.frac
    have hE : E = 0 := by by_contra hE; have := h.normal hE; omega
    have hx : x = f.withSign neg 0 := by rw [h.code, hE, Nat.zero_mul]
    by_cases hi : f.ieee = true
    · rw [roundFin_zero hi, hx]
    · have hneg : neg = false := by
        by_contra hn
        exact h.signed (by simpa using hi) (by simpa using hn) rfl
      subst hneg
      simp [Machine.roundFin, hi, flagIf, hx, withSign]
  · have hcode : (e - f.qmin).toNat * 2 ^ f.frac + m = E * 2 ^ f.frac + m := by
      rw [show (e - f.qmin).toNat = E by have := h.exp; omega]
    rw [roundFin_eq _ _ _ hm, h.unitAt hm, roundUnits, if_neg (lt_irrefl e), Int.sub_self, Int.toNat_zero, pow_zero, Nat.mul_one]
    simp only [pack, h.unitAt hm, hcode]
    rw [if_neg (by have := h.le; omega), if_neg (by simp [hm]), h.code]
    simp [flagIf]

theorem roundVal_decode {f : FFmt} (hf : f.Sane) (mode : RM) {x m : Nat} {neg : Bool} {e : Int} (hx : x < 2 ^ f.bits)
    (h : f.decode x = .fin neg m e) : roundVal f mode (f.decode x) = (x, 0#5) := by
  obtain ⟨E, hE⟩ := FFmt.decode_fin hf hx h
  rw [h]
  exact hE.roundFin mode

/-! ### The codes that a rounding answers -/

theorem FFmt.Sane.pack_lt {f : FFmt} (hf : f.Sane) (mode : RM) (neg : Bool) (top : Int) (r : Nat × Bool) :
    (f.pack mode neg top r).1 < 2 ^ f.bits := by
  have hbig := hf.largest_lt
  have hinf : f.infCode < f.signBit := by have := hf.signBit_eq; have := Nat.two_pow_pos f.frac; omega
  have hsat (b : Bool) : (if b = true then f.largest else f.infCode) < f.signBit := by split <;> assumption
  simp only [pack]
  split
  · exact hf.withSign_lt (hsat _)
  · split
    · exact Nat.two_pow_pos _
    · exact hf.withSign_lt (by omega)

theorem roundFin_lt {f : FFmt} (hf : f.Sane) (mode : RM) (neg : Bool) (m : Nat) (e : Int) : (roundFin f mode neg m e).1 < 2 ^ f.bits := by
  by_cases hm : m = 0
  · unfold roundFin
    rw [if_pos hm]
    split
    · exact hf.withSign_lt (Nat.two_pow_pos _)
    · exact Nat.two_pow_pos _
  · rw [roundFin_eq _ _ _ hm]
    exact hf.pack_lt ..

end Sys2Proof.Machine
end

section
/-! Scalar floating arithmetic (07 R190): exact sums and products, quotients and roots behind their sticky bit, and what is no finite number. -/

namespace Sys2Proof.Machine

open Sys2Proof.Claims

/-! ### Values in a common unit -/

@[simp] theorem flagIf_false (f : FFlags) : flagIf false f = 0#5 := rfl

theorem scaleTo_eq (e0 : Int) (neg : Bool) (m : Nat) (e : Int) : scaleTo e0 neg m e = scaled e0 neg m e := by
  cases neg <;> simp [scaleTo, scaled]

theorem scaled_not (e0 : Int) (neg : Bool) (m : Nat) (e : Int) : scaled e0 (!neg) m e = -scaled e0 neg m e := by
  cases neg <;> simp [scaled]

theorem natAbs_scaled (e0 : Int) (neg : Bool) (m : Nat) (e : Int) : (scaled e0 neg m e).natAbs = m * 2 ^ (e - e0).toNat := by
  cases neg <;> simp [scaled, Int.natAbs_mul, Int.natAbs_pow]

theorem scaled_eq_zero {e0 : Int} {neg : Bool} {m : Nat} {e : Int} : scaled e0 neg m e = 0 ↔ m = 0 := by
  rw [← Int.natAbs_eq_zero, natAbs_scaled, Nat.mul_eq_zero, or_iff_left (Nat.two_pow_pos _).ne']

theorem scaled_neg {e0 : Int} {neg : Bool} {m : Nat} {e : Int} (hm : m ≠ 0) : scaled e0 neg m e < 0 ↔ neg = true := by
  have : (0 : Int) < m * 2 ^ (e - e0).toNat := by positivity
  cases neg with
  | false => simp only [scaled, Bool.false_eq_true, if_false, one_mul, iff_false]; omega
  | true => simp only [scaled, if_true, neg_mul, one_mul, iff_true]; omega

/-- In a finer unit a value is as many times as large. -/
theorem scaled_down {e0 e1 : Int} (neg : Bool) (m : Nat) {e : Int} (h0 : e0 ≤ e1) (h1 : e1 ≤ e) :
    scaled e0 neg m e = scaled e1 neg m e * 2 ^ (e1 - e0).toNat := by
  rw [scaled, scaled, mul_assoc _ (2 ^ _) (2 ^ _), ← pow_add]
  congr 2
  omega

/-- An exact integer of units rounds as any finite value that equals it. -/
theorem roundFin_of_scaled (f : FFmt) (mode : RM) {n : Bool} {m : Nat} {e e0 e1 t : Int} (hm : m ≠ 0) (h0 : e0 ≤ e) (h1 : e0 ≤ e1)
    (h : scaled e0 n m e = t * 2 ^ (e1 - e0).toNat) : t ≠ 0 ∧ roundFin f mode (decide (t < 0)) t.natAbs e1 = roundFin f mode n m e := by
  have hpos : (0 : Int) < 2 ^ (e1 - e0).toNat := by positivity
  have hneg : decide (t < 0) = n := by
    rw [Bool.eq_iff_iff, decide_eq_true_eq, ← scaled_neg (e0 := e0) (e := e) hm, h, mul_neg_iff, and_iff_left hpos, or_iff_right (fun h => absurd h.2 hpos.not_gt)]
  have habs := congrArg Int.natAbs h
  rw [natAbs_scaled, Int.natAbs_mul, Int.natAbs_pow] at habs
  refine ⟨?_, by rw [hneg, roundFin_congr f mode n h0 h1 habs]⟩
  rintro rfl
  exact hm (scaled_eq_zero.1 (h.trans (zero_mul _)))

/-! ### Sums (R190) -/

theorem addVals_exact (f : FFmt) (mode : RM) {n n1 n2 : Bool} {m m1 m2 : Nat} {e e1 e2 e0 : Int} (he : e0 = min e (min e1 e2))
    (hm : m ≠ 0) (h : scaled e0 n m e = scaled e0 n1 m1 e1 + scaled e0 n2 m2 e2) :
    addVals f mode (.fin n1 m1 e1) (.fin n2 m2 e2) = roundFin f mode n m e := by
  rw [scaled_down n1 m1 (e0 := e0) (e1 := min e1 e2) (by omega) (by omega),
    scaled_down n2 m2 (e0 := e0) (e1 := min e1 e2) (by omega) (by omega), ← add_mul] at h
  obtain ⟨ht, hround⟩ := roundFin_of_scaled f mode hm (by omega) (by omega) h
  simp only [addVals, scaleTo_eq]
  rw [if_neg ht, hround]

theorem addVals_zero {f : FFmt} (hi : f.ieee = true) (mode : RM) {n1 n2 : Bool} {m1 m2 : Nat} {e1 e2 : Int}
    (h : scaled (min e1 e2) n1 m1 e1 + scaled (min e1 e2) n2 m2 e2 = 0) :
    addVals f mode (.fin n1 m1 e1) (.fin n2 m2 e2) = (f.withSign (mode == .rdn || (m1 == 0 && n1 && n2)) 0, 0#5) := by
  have hm : (m1 == 0 && m2 == 0) = (m1 == 0) := by
    by_cases h1 : m1 = 0
    · have h2 : scaled (min e1 e2) n2 m2 e2 = 0 := by rw [scaled_eq_zero.2 h1, zero_add] at h; exact h
      rw [scaled_eq_zero.1 h2, h1]; rfl
    · simp [h1]
  simp only [addVals, scaleTo_eq]
  rw [if_pos h, hm, roundFin_zero hi]

/-! ### A sticky bit for the tail of a quotient or a root -/

theorem sticky_intro {q q' j : Nat} {p p' : Prop} [Decidable p] [Decidable p'] (hq : q' / 2 ^ j = q) (hp : p ↔ p' ∧ q' % 2 ^ j = 0) :
    Sticky (2 * q + if p then 0 else 1) (2 * q' + if p' then 0 else 1) j := by
  have hhalf (n : Nat) (P : Prop) [Decidable P] : (2 * n + if P then 0 else 1) / 2 = n ∧
      (2 * n + if P then 0 else 1) % 2 = if P then 0 else 1 := by split <;> omega
  constructor
  · rw [(hhalf q p).1, pow_succ', ← Nat.div_div_eq_div_mul, (hhalf q' p').1, hq]
  · rw [(hhalf q p).2, pow_succ', Nat.mod_mul, (hhalf q' p').1, (hhalf q' p').2, Nat.add_eq_zero_iff]
    simp only [ite_eq_left_iff, one_ne_zero, imp_false, not_not, hp, Nat.mul_eq_zero, OfNat.ofNat_ne_zero, false_or]

theorem sticky_div (N j : Nat) {D : Nat} (hD : D ≠ 0) :
    Sticky (2 * (N / D) + if N % D = 0 then 0 else 1) (2 * (N * 2 ^ j / D) + if N * 2 ^ j % D = 0 then 0 else 1) j := by
  have hpos := Nat.two_pow_pos j
  refine sticky_intro ?_ ?_
  · rw [Nat.div_div_eq_div_mul, Nat.mul_div_mul_right _ _ hpos]
  · have hmod : N * 2 ^ j % D + D * (N * 2 ^ j / D % 2 ^ j) = N % D * 2 ^ j := by rw [← Nat.mod_mul, Nat.mul_mod_mul_right]
    have hz : N % D = 0 ↔ N % D * 2 ^ j = 0 := by rw [Nat.mul_eq_zero, or_iff_left hpos.ne']
    rw [hz, ← hmod, Nat.add_eq_zero_iff, Nat.mul_eq_zero, or_iff_right hD]

theorem sticky_sqrt (N j : Nat) : Sticky (2 * N.sqrt + if N.sqrt * N.sqrt = N then 0 else 1)
    (2 * (N * (2 ^ j * 2 ^ j)).sqrt + if (N * (2 ^ j * 2 ^ j)).sqrt * (N * (2 ^ j * 2 ^ j)).sqrt = N * (2 ^ j * 2 ^ j) then 0 else 1) j := by
  have hpos := Nat.two_pow_pos j
  have hpos2 : 0 < 2 ^ j * 2 ^ j := Nat.mul_pos hpos hpos
  have hsq (a : Nat) : a * a * (2 ^ j * 2 ^ j) = a * 2 ^ j * (a * 2 ^ j) := by ring
  have hq : (N * (2 ^ j * 2 ^ j)).sqrt / 2 ^ j = N.sqrt := by
    rw [Nat.eq_sqrt]
    have hlow := Nat.div_mul_le_self (N * (2 ^ j * 2 ^ j)).sqrt (2 ^ j)
    have hhigh : (N * (2 ^ j * 2 ^ j)).sqrt + 1 ≤ ((N * (2 ^ j * 2 ^ j)).sqrt / 2 ^ j + 1) * 2 ^ j := Nat.lt_div_mul_add hpos |>.trans_eq (by ring)
    constructor
    · refine Nat.le_of_mul_le_mul_right ?_ hpos2
      rw [hsq]
      exact (Nat.mul_le_mul hlow hlow).trans (Nat.sqrt_le _)
    · refine Nat.lt_of_mul_lt_mul_right (a := 2 ^ j * 2 ^ j) ?_
      rw [hsq]
      exact (Nat.lt_succ_sqrt _).trans_le (Nat.mul_le_mul hhigh hhigh)
  refine sticky_intro hq ⟨fun h => ?_, fun ⟨h, hz⟩ => ?_⟩
  · have hroot : (N * (2 ^ j * 2 ^ j)).sqrt = N.sqrt * 2 ^ j := by conv_lhs => rw [← h, hsq, Nat.sqrt_eq]
    rw [hroot]
    exact ⟨by rw [← hsq, h], Nat.mul_mod_left _ _⟩
  · have hroot : (N * (2 ^ j * 2 ^ j)).sqrt = N.sqrt * 2 ^ j := by rw [← hq, Nat.div_mul_cancel (Nat.dvd_of_mod_eq_zero hz)]
    rw [hroot, ← hsq] at h
    exact Nat.eq_of_mul_eq_mul_right hpos2 h

/-! ### Quotients (R190) -/

theorem divVals_exact {f : FFmt} (hi : f.ieee = true) (mode : RM) {n1 n2 : Bool} {m1 m2 : Nat} {e1 e2 : Int} (hm : m2 ≠ 0) {k : Nat}
    (hk : f.frac + 4 + m2.log2 ≤ k) : divVals f mode (.fin n1 m1 e1) (.fin n2 m2 e2) =
      roundFin f mode (n1 != n2) (2 * (m1 * 2 ^ k / m2) + (if m1 * 2 ^ k % m2 = 0 then 0 else 1)) (e1 - e2 - k - 1) := by
  show (if m2 = 0 then _ else _) = _
  rw [if_neg hm]
  show roundFin f mode (n1 != n2) _ _ = _
  by_cases h1 : m1 = 0
  · simp [h1, roundFin_zero hi]
  · obtain ⟨j, rfl⟩ := Nat.exists_eq_add_of_le hk
    have hbig : 2 ^ (f.frac + 2) ≤ m1 * 2 ^ (f.frac + 4 + m2.log2) / m2 := by
      rw [Nat.le_div_iff_mul_le (by omega)]
      calc 2 ^ (f.frac + 2) * m2 ≤ 2 ^ (f.frac + 2) * 2 ^ (m2.log2 + 1) := Nat.mul_le_mul_left _ Nat.lt_log2_self.le
        _ ≤ 2 ^ (f.frac + 4 + m2.log2) := by rw [← pow_add]; exact Nat.pow_le_pow_right (by omega) (by omega)
        _ ≤ m1 * 2 ^ (f.frac + 4 + m2.log2) := Nat.le_mul_of_pos_left _ (by omega)
    rw [← (sticky_div (m1 * 2 ^ (f.frac + 4 + m2.log2)) j hm).roundFin f mode _ _ (by omega), mul_assoc, ← pow_add]
    congr 1
    push_cast
    ring

/-! ### Square roots (R190) -/

theorem isqrtFrom_eq {n : Nat} : ∀ (k r : Nat), r * r ≤ n → n < (r + 2 ^ k) * (r + 2 ^ k) → isqrtFrom n k r = n.sqrt
  | 0, r, h0, h1 => Nat.eq_sqrt.2 ⟨h0, h1⟩
  | k + 1, r, h0, h1 => by
    rw [pow_succ, mul_two, ← add_assoc] at h1
    rw [isqrtFrom]
    split
    · rename_i h; exact isqrtFrom_eq k _ h h1
    · rename_i h; exact isqrtFrom_eq k r h0 (not_le.1 h)

theorem isqrt_eq (n : Nat) : isqrt n = n.sqrt := by
  refine isqrtFrom_eq _ _ (Nat.zero_le _) ?_
  rw [zero_add, ← pow_add]
  exact Nat.lt_log2_self.trans_le (Nat.pow_le_pow_right (by omega) (by omega))

theorem fsqrt_exact {f : FFmt} (mode : RM) {x m m0 k r : Nat} {e e0 : Int} (h : f.decode x = .fin false m e) (hm : m ≠ 0)
    (h0 : (m0, e0) = if e % 2 = 0 then (m, e) else (2 * m, e - 1)) (hk : f.frac + 4 ≤ k) (hlow : r * r ≤ m0 * 2 ^ (2 * k))
    (hhigh : m0 * 2 ^ (2 * k) < (r + 1) * (r + 1)) : fsqrt f mode x =
      roundFin f mode false (2 * r + (if r * r = m0 * 2 ^ (2 * k) then 0 else 1)) (e0 / 2 - k - 1) := by
  obtain rfl : r = (m0 * 2 ^ (2 * k)).sqrt := Nat.eq_sqrt.2 ⟨hlow, hhigh⟩
  have hm0 : m0 ≠ 0 := by split at h0 <;> cases h0 <;> omega
  have hmodel : fsqrt f mode x = roundFin f mode false (2 * (m0 * 2 ^ (2 * (f.frac + 4))).sqrt +
      (if (m0 * 2 ^ (2 * (f.frac + 4))).sqrt * (m0 * 2 ^ (2 * (f.frac + 4))).sqrt = m0 * 2 ^ (2 * (f.frac + 4)) then 0 else 1))
      (e0 / 2 - (f.frac + 4 : Nat) - 1) := by
    simp only [fsqrt, h, hm, if_false, isqrt_eq]
    by_cases he : e % 2 = 0 <;> simp only [he, if_true, if_false] at h0 <;> cases h0 <;> simp [he]
  obtain ⟨j, rfl⟩ := Nat.exists_eq_add_of_le hk
  have hpow : m0 * 2 ^ (2 * (f.frac + 4 + j)) = m0 * 2 ^ (2 * (f.frac + 4)) * (2 ^ j * 2 ^ j) := by
    rw [mul_assoc, ← pow_add, ← pow_add]; congr 2; omega
  have hbig : 2 ^ (f.frac + 2) ≤ (m0 * 2 ^ (2 * (f.frac + 4))).sqrt := by
    rw [Nat.le_sqrt, ← pow_add]
    exact (Nat.pow_le_pow_right (by omega) (by omega)).trans (Nat.le_mul_of_pos_left _ (by omega))
  rw [hmodel, hpow, ← (sticky_sqrt (m0 * 2 ^ (2 * (f.frac + 4))) j).roundFin f mode _ _ (by omega)]
  congr 1
  push_cast
  ring

end Sys2Proof.Machine
end

section
/-! The results of the scalar floating-point instructions (07 R190, R191, R193) by the values of their operands. -/

namespace Sys2Proof.Machine

open Sys2Proof.Claims

/-! ### What is no finite number -/

theorem nanOf_pair (f : FFmt) (a b : Val) : nanOf f [a, b] = (f.canonNaN, if a.isSig = true ∨ b.isSig = true then fNV else 0#5) := by
  simp only [nanOf, flagIf, List.any_cons, List.any_nil, Bool.or_false, Bool.or_eq_true]

theorem nanOf_triple (f : FFmt) (a b c : Val) :
    nanOf f [a, b, c] = (f.canonNaN, if a.isSig = true ∨ b.isSig = true ∨ c.isSig = true then fNV else 0#5) := by
  simp only [nanOf, flagIf, List.any_cons, List.any_nil, Bool.or_false, Bool.or_eq_true]

theorem Val.isSig_of_not_isNaN {v : Val} (h : v.isNaN = false) : v.isSig = false := by
  cases v with
  | nan s => cases h
  | inf n | fin n m e => rfl

theorem roundVal_inf {f : FFmt} (hi : f.ieee = true) (mode : RM) (n : Bool) : roundVal f mode (.inf n) = (f.withSign n f.infCode, 0#5) :=
  if_pos hi

theorem roundVal_decode_inf {f : FFmt} (hf : f.Sane) (mode : RM) {x : Nat} {n : Bool} (hx : x < 2 ^ f.bits) (h : f.decode x = .inf n) :
    roundVal f mode (.inf n) = (x, 0#5) := by
  obtain ⟨hi, rfl⟩ := FFmt.decode_inf hf hx h
  exact roundVal_inf hi mode n

theorem arith_nan (f : FFmt) (mode : RM) {x y : Nat} (h : (f.decode x).isNaN = true ∨ (f.decode y).isNaN = true) :
    ∀ g ∈ [fadd, fsub, fmul, fdiv], g f mode x y =
      (f.canonNaN, if (f.decode x).isSig = true ∨ (f.decode y).isSig = true then fNV else 0#5) := by
  have h' : ((f.decode x).isNaN || (f.decode y).isNaN) = true := by rwa [Bool.or_eq_true]
  intro g hg
  simp only [List.mem_cons, List.not_mem_nil, or_false] at hg
  rcases hg with rfl | rfl | rfl | rfl <;> exact (if_pos h').trans (nanOf_pair f _ _)

/-! ### The operations by the values of their operands (R190) -/

section

variable {f : FFmt} {mode : RM} {x y : Nat}

theorem fadd_eq (hx : (f.decode x).isNaN = false) (hy : (f.decode y).isNaN = false) :
    fadd f mode x y = addVals f mode (f.decode x) (f.decode y) := by
  simp only [fadd, hx, hy, Bool.or_self, Bool.false_eq_true, if_false]

theorem fsub_eq (hx : (f.decode x).isNaN = false) (hy : (f.decode y).isNaN = false) :
    fsub f mode x y = addVals f mode (f.decode x) (f.decode y).negate := by
  simp only [fsub, hx, hy, Bool.or_self, Bool.false_eq_true, if_false]

theorem fmul_some (hx : (f.decode x).isNaN = false) (hy : (f.decode y).isNaN = false) {v : Val}
    (hv : mulVals (f.decode x) (f.decode y) = some v) : fmul f mode x y = roundVal f mode v := by
  simp only [fmul, hx, hy, hv, Bool.or_self, Bool.false_eq_true, if_false]

theorem fmul_none (hx : (f.decode x).isNaN = false) (hy : (f.decode y).isNaN = false) (hv : mulVals (f.decode x) (f.decode y) = none) :
    fmul f mode x y = (f.canonNaN, fNV) := by
  simp only [fmul, hx, hy, hv, Bool.or_self, Bool.false_eq_true, if_false]

theorem fdiv_eq (hx : (f.decode x).isNaN = false) (hy : (f.decode y).isNaN = false) :
    fdiv f mode x y = divVals f mode (f.decode x) (f.decode y) := by
  simp only [fdiv, hx, hy, Bool.or_self, Bool.false_eq_true, if_false]

theorem ffma_eq {d : Nat} (hd : (f.decode d).isNaN = false) (hx : (f.decode x).isNaN = false) (hy : (f.decode y).isNaN = false) {v : Val}
    (hv : mulVals (f.decode x) (f.decode y) = some v) : ffma f mode d x y = addVals f mode (f.decode d) v := by
  simp only [ffma, hd, hx, hy, hv, Bool.or_self, Bool.false_eq_true, if_false]

end

/-- A product of two values is none for infinity times zero, and infinite when a factor is. -/
theorem mulVals_none {a b : Val} (h : InfZero a b) : mulVals a b = none := by
  rcases h with ⟨ha, hb⟩ | ⟨ha, hb⟩ <;> cases a <;> cases b <;> simp_all [mulVals, Val.isInf, Val.isZero]

theorem mulVals_inf {a b : Val} (ha : a.isNaN = false) (hb : b.isNaN = false) (hinf : a.isInf = true ∨ b.isInf = true) (h : ¬ InfZero a b) :
    mulVals a b = some (.inf (a.neg != b.neg)) := by
  cases a <;> cases b <;> simp_all [mulVals, Val.isInf, Val.isZero, Val.isNaN, InfZero]

theorem not_isNaN_of_infZero {a b : Val} (h : InfZero a b) : a.isNaN = false ∧ b.isNaN = false := by
  rcases h with ⟨ha, hb⟩ | ⟨ha, hb⟩ <;> cases a <;> cases b <;> simp_all [Val.isInf, Val.isZero, Val.isNaN]

theorem ffma_infZero (f : FFmt) (mode : RM) (d : Nat) {x y : Nat} (h : InfZero (f.decode x) (f.decode y)) :
    ffma f mode d x y = (f.canonNaN, fNV) := by
  simp only [ffma, not_isNaN_of_infZero h, mulVals_none h, Bool.or_self, Bool.false_eq_true, if_false]

/-- A product with an infinite factor. -/
theorem fmul_inf {f : FFmt} (hi : f.ieee = true) (mode : RM) {x y : Nat} (hx : (f.decode x).isNaN = false) (hy : (f.decode y).isNaN = false)
    (hinf : (f.decode x).isInf = true ∨ (f.decode y).isInf = true) : fmul f mode x y =
      if (f.decode x).isZero || (f.decode y).isZero then (f.canonNaN, fNV)
      else (f.withSign ((f.decode x).neg != (f.decode y).neg) f.infCode, 0#5) := by
  by_cases hz : InfZero (f.decode x) (f.decode y)
  · rw [fmul_none hx hy (mulVals_none hz), if_pos]
    rw [Bool.or_eq_true]
    exact hz.elim (fun h => .inr h.2) (fun h => .inl h.1)
  · rw [fmul_some hx hy (mulVals_inf hx hy hinf hz), if_neg, roundVal_inf hi]
    rw [Bool.or_eq_true]
    revert hz hinf
    cases f.decode x <;> cases f.decode y <;> simp [InfZero, Val.isInf, Val.isZero]

/-- The product of finite values in any unit in which it is exact. -/
theorem fmul_exact (f : FFmt) (mode : RM) {x y m m1 m2 : Nat} {n1 n2 : Bool} {e e0 e1 e2 : Int} (hx : f.decode x = .fin n1 m1 e1)
    (hy : f.decode y = .fin n2 m2 e2) (h0 : e0 = min e (e1 + e2)) (h : m * 2 ^ (e - e0).toNat = m1 * m2 * 2 ^ (e1 + e2 - e0).toNat) :
    fmul f mode x y = roundVal f mode (.fin (n1 != n2) m e) := by
  rw [fmul_some (v := .fin (n1 != n2) (m1 * m2) (e1 + e2)) (by rw [hx]; rfl) (by rw [hy]; rfl) (by rw [hx, hy]; rfl)]
  exact (roundFin_congr f mode (n1 != n2) (by omega) (by omega) h).symm

theorem fsub_zero {f : FFmt} (hi : f.ieee = true) (mode : RM) {x y m1 m2 : Nat} {n1 n2 : Bool} {e1 e2 : Int}
    (hx : f.decode x = .fin n1 m1 e1) (hy : f.decode y = .fin n2 m2 e2) (h : scaled (min e1 e2) n1 m1 e1 = scaled (min e1 e2) n2 m2 e2) :
    fsub f mode x y = (f.withSign (mode == .rdn || (m1 == 0 && n1 && !n2)) 0, 0#5) := by
  rw [fsub_eq (by rw [hx]; rfl) (by rw [hy]; rfl), hx, hy]
  exact addVals_zero hi mode (by rw [scaled_not, h, add_neg_cancel])

theorem fsub_exact (f : FFmt) (mode : RM) {x y m m1 m2 : Nat} {n n1 n2 : Bool} {e e0 e1 e2 : Int} (hx : f.decode x = .fin n1 m1 e1)
    (hy : f.decode y = .fin n2 m2 e2) (h0 : e0 = min e (min e1 e2)) (hm : m ≠ 0)
    (h : scaled e0 n m e = scaled e0 n1 m1 e1 - scaled e0 n2 m2 e2) : fsub f mode x y = roundVal f mode (.fin n m e) := by
  rw [fsub_eq (by rw [hx]; rfl) (by rw [hy]; rfl), hx, hy]
  exact addVals_exact f mode h0 hm (by rw [scaled_not, h, sub_eq_add_neg])

theorem ffma_exact (f : FFmt) (mode : RM) {d x y m m1 m2 m3 : Nat} {n n1 n2 n3 : Bool} {e e0 e1 e2 e3 : Int}
    (hd : f.decode d = .fin n3 m3 e3) (hx : f.decode x = .fin n1 m1 e1) (hy : f.decode y = .fin n2 m2 e2)
    (h0 : e0 = min e (min e3 (e1 + e2))) (hm : m ≠ 0)
    (h : scaled e0 n m e = scaled e0 n3 m3 e3 + scaled e0 (n1 != n2) (m1 * m2) (e1 + e2)) :
    ffma f mode d x y = roundVal f mode (.fin n m e) := by
  rw [ffma_eq (v := .fin (n1 != n2) (m1 * m2) (e1 + e2)) (by rw [hd]; rfl) (by rw [hx]; rfl) (by rw [hy]; rfl) (by rw [hx, hy]; rfl), hd]
  exact addVals_exact f mode h0 hm h

theorem ffma_zero {f : FFmt} (hi : f.ieee = true) (mode : RM) {d x y m1 m2 m3 : Nat} {n1 n2 n3 : Bool} {e1 e2 e3 : Int}
    (hd : f.decode d = .fin n3 m3 e3) (hx : f.decode x = .fin n1 m1 e1) (hy : f.decode y = .fin n2 m2 e2)
    (h : scaled (min e3 (e1 + e2)) n3 m3 e3 + scaled (min e3 (e1 + e2)) (n1 != n2) (m1 * m2) (e1 + e2) = 0) :
    ffma f mode d x y = (f.withSign (mode == .rdn || (m3 == 0 && n3 && (n1 != n2))) 0, 0#5) := by
  rw [ffma_eq (v := .fin (n1 != n2) (m1 * m2) (e1 + e2)) (by rw [hd]; rfl) (by rw [hx]; rfl) (by rw [hy]; rfl) (by rw [hx, hy]; rfl), hd]
  exact addVals_zero hi mode h

theorem fdiv_fin {f : FFmt} (mode : RM) {x y m1 m2 : Nat} {n1 n2 : Bool} {e1 e2 : Int} (hx : f.decode x = .fin n1 m1 e1)
    (hy : f.decode y = .fin n2 m2 e2) : fdiv f mode x y = divVals f mode (.fin n1 m1 e1) (.fin n2 m2 e2) := by
  rw [fdiv_eq (by rw [hx]; rfl) (by rw [hy]; rfl), hx, hy]

theorem floatExact {f : FFmt} (hf : f.Sane) (hi : f.ieee = true) (mode : RM) {x y : Nat} (hx : x < 2 ^ f.bits) (hy : y < 2 ^ f.bits) :
    FloatExact f mode x y := by
  refine ⟨arith_nan f mode, ?fin, ?infInf, ?infFin, ?finInf,
    fun m e k r m0 e0 h hm h0 hk hl hh => fsqrt_exact mode h hm h0 hk hl hh, ?sqrtZero, ?sqrtNeg, ?sqrtInf, ?sqrtNaN⟩
  case fin =>
    intro n1 m1 e1 n2 m2 e2 h1 h2
    have hadd : fadd f mode x y = addVals f mode (.fin n1 m1 e1) (.fin n2 m2 e2) := by
      rw [fadd_eq (by rw [h1]; rfl) (by rw [h2]; rfl), h1, h2]
    refine ⟨fun n m e e0 h0 hm => ⟨fun h => ?_, fun h => fsub_exact f mode h1 h2 h0 hm h⟩, fun h => ?_, fsub_zero hi mode h1 h2,
      fun m e e0 h0 h => fmul_exact f mode h1 h2 h0 h, fun hm k hk => ?_, fun hm => ?_,
      fun d n3 m3 e3 h3 n m e e0 h0 hm h => ffma_exact f mode h3 h1 h2 h0 hm h⟩
    · rw [hadd]; exact addVals_exact f mode h0 hm h
    · rw [hadd]; exact addVals_zero hi mode h
    · rw [fdiv_fin mode h1 h2]; exact divVals_exact hi mode hm hk
    · rw [fdiv_fin mode h1 h2]; exact if_pos hm
  case infInf =>
    intro n1 n2 h1 h2
    have hinf := roundVal_decode_inf hf mode hx h1
    have hmul := fmul_inf hi mode (by rw [h1]; rfl) (by rw [h2]; rfl) (.inl (by rw [h1]; rfl))
    rw [fadd_eq (by rw [h1]; rfl) (by rw [h2]; rfl), fsub_eq (by rw [h1]; rfl) (by rw [h2]; rfl), fdiv_eq (by rw [h1]; rfl) (by rw [h2]; rfl), hmul,
      h1, h2]
    refine ⟨?_, ?_, rfl, rfl⟩
    · simp only [addVals, hinf]
    · cases n1 <;> cases n2 <;> simp [Val.negate, addVals, hinf]
  case infFin =>
    intro n1 n2 m2 e2 h1 h2
    have hinf := roundVal_decode_inf hf mode hx h1
    have hmul := fmul_inf hi mode (by rw [h1]; rfl) (by rw [h2]; rfl) (.inl (by rw [h1]; rfl))
    rw [fadd_eq (by rw [h1]; rfl) (by rw [h2]; rfl), fsub_eq (by rw [h1]; rfl) (by rw [h2]; rfl), fdiv_eq (by rw [h1]; rfl) (by rw [h2]; rfl), hmul,
      h1, h2]
    refine ⟨hinf, hinf, roundVal_inf hi mode _, ?_, fun hm d => ffma_infZero f mode d ?_⟩
    · simp [Val.isZero, Val.neg]
    · rw [h1, h2, hm]; exact .inl ⟨rfl, rfl⟩
  case finInf =>
    intro n1 m1 e1 n2 h1 h2
    have hinf := roundVal_decode_inf hf mode hy h2
    have hmul := fmul_inf hi mode (by rw [h1]; rfl) (by rw [h2]; rfl) (.inr (by rw [h2]; rfl))
    rw [fadd_eq (by rw [h1]; rfl) (by rw [h2]; rfl), fsub_eq (by rw [h1]; rfl) (by rw [h2]; rfl), fdiv_eq (by rw [h1]; rfl) (by rw [h2]; rfl), hmul,
      h1, h2]
    refine ⟨hinf, roundVal_inf hi mode _, roundFin_zero hi mode _ _, ?_⟩
    simp [Val.isZero, Val.neg]
  case sqrtZero =>
    intro n e h
    simp only [fsqrt, h, if_true]
    rw [roundFin_zero hi, ← FFmt.decode_zero hf hx h]
  case sqrtNeg =>
    intro m e h hm
    simp only [fsqrt, h, hm, if_false, if_true]
  case sqrtInf =>
    intro n h
    have hinf := roundVal_decode_inf hf mode hx h
    cases n <;> simp [fsqrt, h, hinf]
  case sqrtNaN =>
    intro s h
    simp only [fsqrt, h, flagIf]

theorem fmaSpecials {f : FFmt} (hi : f.ieee = true) (mode : RM) (d x y : Nat) : FmaSpecials f mode d x y := by
  refine ⟨ffma_infZero f mode d, fun hz => ⟨fun hnan => ?_, fun hx hy hinf n hn => ?_⟩, fun n1 m1 e1 n2 m2 e2 h1 h2 => ⟨fun n3 h3 => ?_, ?_⟩⟩
  · have hprod : ∃ v, (if (f.decode x).isNaN || (f.decode y).isNaN then some (Val.nan false) else mulVals (f.decode x) (f.decode y)) = some v := by
      split
      · exact ⟨_, rfl⟩
      · rename_i hxy
        simp only [Bool.or_eq_true, not_or, Bool.not_eq_true] at hxy
        cases hx : f.decode x <;> cases hy : f.decode y <;> simp_all [mulVals, InfZero, Val.isInf, Val.isZero, Val.isNaN]
    obtain ⟨v, hv⟩ := hprod
    have hany : ((f.decode x).isNaN || (f.decode y).isNaN || (f.decode d).isNaN) = true := by
      simp only [Bool.or_eq_true]; tauto
    simp only [ffma, hv, hany, if_true, nanOf_triple]
  · have hprod := mulVals_inf hx hy hinf hz
    rw [← hn] at hprod
    refine ⟨fun n3 m3 e3 h3 => ?_, fun n3 h3 => ?_⟩ <;> rw [ffma_eq (by rw [h3]; rfl) hx hy hprod, h3]
    · exact roundVal_inf hi mode n
    · simp only [addVals, roundVal_inf hi]
      split <;> simp_all
  · rw [ffma_eq (v := .fin (n1 != n2) (m1 * m2) (e1 + e2)) (by rw [h3]; rfl) (by rw [h1]; rfl) (by rw [h2]; rfl) (by rw [h1, h2]; rfl), h3]
    exact roundVal_inf hi mode n3
  · rintro n3 m3 e3 e0 h3 rfl h
    exact ffma_zero hi mode h3 h1 h2 h

end Sys2Proof.Machine
end

section
/-! The least and the greatest, comparisons, classes, signs and conversions (07 R171, R190, R191, R193). -/

namespace Sys2Proof.Machine

open Sys2Proof.Claims

/-! ### The order of values (R191) -/

theorem cmpVal_lt_iff {a b : Val} (ha : a.isNaN = false) (hb : b.isNaN = false) : cmpVal a b < 0 ↔ ValLess a b := by
  cases a with
  | nan s => cases ha
  | inf n1 =>
    cases b with
    | nan s => cases hb
    | inf n2 => cases n1 <;> cases n2 <;> simp [cmpVal, ValLess]
    | fin n2 m2 e2 => cases n1 <;> simp [cmpVal, ValLess]
  | fin n1 m1 e1 =>
    cases b with
    | nan s => cases hb
    | inf n2 => cases n2 <;> simp [cmpVal, ValLess]
    | fin n2 m2 e2 => rw [ValLess, cmpVal, scaleTo_eq, scaleTo_eq, Int.sign_neg_iff, sub_neg]

theorem cmpVal_eq_iff {a b : Val} (ha : a.isNaN = false) (hb : b.isNaN = false) : cmpVal a b = 0 ↔ ValSame a b := by
  cases a with
  | nan s => cases ha
  | inf n1 =>
    cases b with
    | nan s => cases hb
    | inf n2 => cases n1 <;> cases n2 <;> simp [cmpVal, ValSame]
    | fin n2 m2 e2 => cases n1 <;> simp [cmpVal, ValSame]
  | fin n1 m1 e1 =>
    cases b with
    | nan s => cases hb
    | inf n2 => cases n2 <;> simp [cmpVal, ValSame]
    | fin n2 m2 e2 => rw [ValSame, cmpVal, scaleTo_eq, scaleTo_eq, Int.sign_eq_zero_iff_zero, sub_eq_zero]

theorem fcompare_eq (f : FFmt) (c : BitVec 2) (x y : Nat) :
    (((f.decode x).isNaN = true ∨ (f.decode y).isNaN = true) → ((fcompare f (fcondOf c) x y).1 = true ↔ c = 3#2) ∧
      (fcompare f (fcondOf c) x y).2 = if c = 1#2 ∨ c = 2#2 ∨ (f.decode x).isSig = true ∨ (f.decode y).isSig = true then fNV else 0#5) ∧
    ((f.decode x).isNaN = false → (f.decode y).isNaN = false → ∀ lt eq, lt = ValLess (f.decode x) (f.decode y) →
      eq = ValSame (f.decode x) (f.decode y) → (fcompare f (fcondOf c) x y).2 = 0#5 ∧
      ((fcompare f (fcondOf c) x y).1 = true ↔ c = 0#2 ∧ eq ∨ c = 1#2 ∧ lt ∨ c = 2#2 ∧ (lt ∨ eq))) := by
  have hc : c = 0#2 ∨ c = 1#2 ∨ c = 2#2 ∨ c = 3#2 := by revert c; decide
  refine ⟨fun hnan => ?_, ?_⟩
  · have hnan' : ((f.decode x).isNaN || (f.decode y).isNaN) = true := by rwa [Bool.or_eq_true]
    rcases hc with rfl | rfl | rfl | rfl <;> simp [fcompare, fcondOf, hnan', flagIf]
  · rintro hx hy _ _ rfl rfl
    have hsig := Val.isSig_of_not_isNaN hx
    have hsig' := Val.isSig_of_not_isNaN hy
    rw [← cmpVal_lt_iff hx hy, ← cmpVal_eq_iff hx hy]
    rcases hc with rfl | rfl | rfl | rfl <;> simp [fcompare, fcondOf, hx, hy, hsig, hsig', Int.le_iff_lt_or_eq]

/-! ### FMIN and FMAX (R190) -/

/-- The first operand is the lesser, -0 below +0. -/
def FirstBelow (a b : Val) : Prop := ValLess a b ∨ ValSame a b ∧ a.neg = true ∧ b.neg = false

theorem fminmax_eq (f : FFmt) (big : Bool) {x y : Nat} (hx : (f.decode x).isNaN = false) (hy : (f.decode y).isNaN = false) :
    (FirstBelow (f.decode x) (f.decode y) → fminmax f big x y = (if big then y else x, 0#5)) ∧
    (¬ FirstBelow (f.decode x) (f.decode y) → fminmax f big x y = (if big then x else y, 0#5)) := by
  have hbelow : (decide (cmpVal (f.decode x) (f.decode y) < 0) || (cmpVal (f.decode x) (f.decode y) == 0 && (f.decode x).neg &&
      !(f.decode y).neg)) = true ↔ FirstBelow (f.decode x) (f.decode y) := by
    simp only [FirstBelow, ← cmpVal_lt_iff hx hy, ← cmpVal_eq_iff hx hy, Bool.or_eq_true, Bool.and_eq_true, decide_eq_true_eq, beq_iff_eq,
      Bool.not_eq_true', and_assoc]
  rw [← hbelow, Bool.not_eq_true]
  simp only [fminmax, hx, hy, Val.isSig_of_not_isNaN hx, Val.isSig_of_not_isNaN hy, Bool.and_self, Bool.or_self, flagIf_false,
    Bool.false_eq_true, if_false]
  refine ⟨fun h => ?_, fun h => ?_⟩ <;> rw [h] <;> cases big <;> rfl

theorem firstBelow_inf {n : Bool} {b : Val} (hb : b.isNaN = false) (hne : b ≠ .inf n) :
    (FirstBelow (.inf n) b ↔ n = true) ∧ (FirstBelow b (.inf n) ↔ n = false) := by
  cases b with
  | nan s => cases hb
  | inf n2 => cases n <;> cases n2 <;> simp_all [FirstBelow, ValLess, ValSame]
  | fin n2 m2 e2 => simp [FirstBelow, ValLess, ValSame]

theorem minMaxCases (f : FFmt) (x y : Nat) : MinMaxCases f x y := by
  rintro big _ rfl
  refine ⟨fun hx hy => ?_, fun hx hy => ?_, fun hx hy => ?_, ?_, fun n hx hy hne => ?_⟩
  · simp [fminmax, hx, hy, flagIf]
  · simp [fminmax, hx, hy, flagIf]
  · simp [fminmax, hx, hy, flagIf]
  · rintro n1 m1 e1 n2 m2 e2 _ _ hx hy rfl rfl
    obtain ⟨hlow, hhigh⟩ := fminmax_eq f big (x := x) (y := y) (by rw [hx]; rfl) (by rw [hy]; rfl)
    rw [hx, hy] at hlow hhigh
    refine ⟨fun h => hlow h, fun h => hhigh fun h' => ?_, fun _ _ => ?_⟩
    · have h' : scaled (min e1 e2) n1 m1 e1 < scaled (min e1 e2) n2 m2 e2 ∨
          scaled (min e1 e2) n1 m1 e1 = scaled (min e1 e2) n2 m2 e2 ∧ n1 = true ∧ n2 = false := h'
      rcases h with h | ⟨h, hn1, hn2⟩ <;> rcases h' with h' | ⟨h', hn1', hn2'⟩
      · omega
      · omega
      · omega
      · simp_all
    · by_cases hb : FirstBelow (.fin n1 m1 e1) (.fin n2 m2 e2)
      · rw [hlow hb]; cases big <;> simp
      · rw [hhigh hb]; cases big <;> simp
  · obtain ⟨hinf, hinf'⟩ := firstBelow_inf hy hne
    have hx' : (f.decode x).isNaN = false := by rw [hx]; rfl
    have hxy := fminmax_eq f big hx' hy
    have hyx := fminmax_eq f big hy hx'
    rw [hx, hinf] at hxy
    rw [hx, hinf'] at hyx
    cases n <;> cases big <;> simp_all

/-! ### Classes and signs (R190, R193) -/

/-- The value of a code of an IEEE format by its three fields. -/
theorem FFmt.decode_ieee {f : FFmt} (hf : f.Sane) (hi : f.ieee = true) {x : Nat} (hx : x < 2 ^ f.bits) :
    f.decode x = if x / 2 ^ f.frac % 2 ^ (f.bits - 1 - f.frac) = 2 ^ (f.bits - 1 - f.frac) - 1 then
        (if x % 2 ^ f.frac = 0 then .inf (decide (x / 2 ^ (f.bits - 1) = 1))
          else .nan (decide (x % 2 ^ f.frac < 2 ^ (f.frac - 1))))
      else if x / 2 ^ f.frac % 2 ^ (f.bits - 1 - f.frac) = 0 then .fin (decide (x / 2 ^ (f.bits - 1) = 1)) (x % 2 ^ f.frac) f.qmin
      else .fin (decide (x / 2 ^ (f.bits - 1) = 1)) (2 ^ f.frac + x % 2 ^ f.frac)
        (f.qmin + (x / 2 ^ f.frac % 2 ^ (f.bits - 1 - f.frac) - 1 : Nat)) := by
  have hsign : f.signBit = 2 ^ f.frac * 2 ^ (f.bits - 1 - f.frac) := by
    rw [signBit, ← pow_add]; congr 1; have := hf.2; omega
  have hexp : x % f.signBit / 2 ^ f.frac = x / 2 ^ f.frac % 2 ^ (f.bits - 1 - f.frac) := by rw [hsign, Nat.mod_mul_right_div_self]
  have hfrac : x % f.signBit % 2 ^ f.frac = x % 2 ^ f.frac := by rw [hsign, Nat.mod_mul_right_mod]
  have hneg : decide (f.signBit ≤ x) = decide (x / 2 ^ (f.bits - 1) = 1) := by
    rw [hf.two_pow_bits] at hx
    rw [decide_eq_decide, ← signBit, Nat.div_eq_iff (show 0 < f.signBit from Nat.two_pow_pos _)]
    omega
  simp only [decode, Nat.mod_eq_of_lt hx, hi, hexp, hfrac, hneg, Bool.true_and, beq_iff_eq, Bool.not_true, Bool.false_and,
    Bool.false_eq_true, if_false, expMax]

theorem fclassOf_eq {f : FFmt} (hf : f.Sane) (hi : f.ieee = true) {x : Nat} (hx : x < 2 ^ f.bits) : fclassOf f x = 2 ^ classBit f x := by
  have hm : x % 2 ^ f.frac < 2 ^ f.frac := Nat.mod_lt _ (Nat.two_pow_pos _)
  have hpos := Nat.two_pow_pos f.frac
  unfold fclassOf classBit
  rw [FFmt.decode_ieee hf hi hx]
  by_cases hmax : x / 2 ^ f.frac % 2 ^ (f.bits - 1 - f.frac) = 2 ^ (f.bits - 1 - f.frac) - 1
  · simp only [hmax, if_true]
    by_cases hz : x % 2 ^ f.frac = 0
    · simp only [hz, if_true]; split <;> rfl
    · simp only [hz, if_false, decide_eq_true_eq]; split <;> rfl
  · simp only [hmax, if_false]
    by_cases he : x / 2 ^ f.frac % 2 ^ (f.bits - 1 - f.frac) = 0
    · simp only [he, if_true, hm]
      by_cases hz : x % 2 ^ f.frac = 0
      · simp only [hz, if_true]; split <;> rfl
      · simp only [hz, if_false]; split <;> rfl
    · have hne : 2 ^ f.frac + x % 2 ^ f.frac ≠ 0 := by omega
      have hge : ¬ 2 ^ f.frac + x % 2 ^ f.frac < 2 ^ f.frac := by omega
      simp only [he, hne, hge, if_false]; split <;> rfl

theorem fabs_eq {f : FFmt} (hi : f.ieee = true) (x : Nat) : fabs f x = x % 2 ^ (f.bits - 1) := by
  simp [fabs, hi, FFmt.signBit]

theorem xor_two_pow {k x : Nat} (hx : x < 2 ^ (k + 1)) : x ^^^ 2 ^ k = if 2 ^ k ≤ x then x - 2 ^ k else x + 2 ^ k := by
  have hpos := Nat.two_pow_pos k
  rw [pow_succ] at hx
  rw [← Nat.div_add_mod (x ^^^ 2 ^ k) (2 ^ k), Nat.xor_div_two_pow, Nat.xor_mod_two_pow, Nat.div_self hpos, Nat.mod_self, Nat.xor_zero]
  split
  · rename_i h
    rw [(Nat.div_eq_iff hpos).2 (by omega : 1 * 2 ^ k ≤ x ∧ x ≤ 1 * 2 ^ k + 2 ^ k - 1), Nat.mod_eq_sub_mod h, Nat.mod_eq_of_lt (by omega)]
    simp
  · rename_i h
    rw [Nat.div_eq_of_lt (by omega), Nat.mod_eq_of_lt (by omega)]
    simp [Nat.add_comm]

theorem fneg_eq {f : FFmt} (hf : f.Sane) (hi : f.ieee = true) {x : Nat} (hx : x < 2 ^ f.bits) : fneg f x = x ^^^ 2 ^ (f.bits - 1) := by
  have hbits : f.bits = f.bits - 1 + 1 := by have := hf.2; omega
  rw [xor_two_pow (hbits ▸ hx)]
  simp [fneg, hi, Nat.mod_eq_of_lt hx, FFmt.signBit]

/-! ### Conversions (R171) -/

theorem roundShift_goesUp (mode : RM) (neg : Bool) (m k : Nat) :
    ∃ up : Bool, roundShift mode neg m k = (if up then m / 2 ^ k + 1 else m / 2 ^ k, m % 2 ^ k != 0) ∧
      (up = true ↔ GoesUp mode neg (m / 2 ^ k) (m % 2 ^ k) k) := by
  have hpos := Nat.two_pow_pos k
  refine ⟨_, rfl, ?_⟩
  cases mode <;> simp [GoesUp]
  omega

theorem flagIf_bne_zero (r : Nat) (f : FFlags) : flagIf (r != 0) f = if r = 0 then 0#5 else f := by
  by_cases h : r = 0 <;> simp [flagIf, h]

/-- The rounding to an integer is that of the value's significand, taken to units (R169). -/
theorem roundToInt_eq (mode : RM) (neg : Bool) (m : Nat) (e : Int) : roundToInt mode neg m e =
    (if neg then -((roundShift mode neg (m * 2 ^ e.toNat) (-e).toNat).1 : Int) else (roundShift mode neg (m * 2 ^ e.toNat) (-e).toNat).1,
      (roundShift mode neg (m * 2 ^ e.toNat) (-e).toNat).2) := by
  unfold roundToInt
  by_cases he : e < 0
  · rw [if_pos he, Int.toNat_of_nonpos (by omega : e ≤ 0), pow_zero, Nat.mul_one]
  · have hexact := roundShift_exact mode neg (m * 2 ^ e.toNat) 0
    rw [pow_zero, Nat.mul_one] at hexact
    rw [if_neg he, Int.toNat_of_nonpos (by omega : -e ≤ 0), hexact]

theorem wrapInt_eq (w : Nat) (i : Int) : wrapInt w i = codeInt w i := BitVec.toNat_ofInt i
theorem intMin_eq (sg : Bool) (w : Nat) : intMin sg w = least sg w := by simp [intMin, least]
theorem intMax_eq (sg : Bool) (w : Nat) : intMax sg w = greatest sg w := by simp [intMax, greatest]

/-- What the store of a finite value into an integer type does with the rounded integer. -/
theorem storeInt_fin (sg : Bool) (w : Nat) (mode : RM) (sat fromInt : Bool) (n : Bool) (m : Nat) (e : Int) {i : Int} {inexact : Bool}
    (h : roundToInt mode n m e = (i, inexact)) :
    (least sg w ≤ i → i ≤ greatest sg w → storeInt sg w mode sat fromInt (.fin n m e) = (codeInt w i, flagIf inexact fNX)) ∧
    (i < least sg w ∨ greatest sg w < i →
      (fromInt = true ∧ sat = false → storeInt sg w mode sat fromInt (.fin n m e) = (codeInt w i, 0#5)) ∧
      (fromInt = false ∨ sat = true → storeInt sg w mode sat fromInt (.fin n m e) =
        (codeInt w (if i < 0 then least sg w else greatest sg w), fNV))) := by
  simp only [storeInt, h, intMin_eq, intMax_eq, wrapInt_eq]
  refine ⟨fun h0 h1 => if_pos ⟨h0, h1⟩, fun hout => ?_⟩
  rw [if_neg (by omega)]
  refine ⟨fun ⟨hf, hs⟩ => by rw [hf, hs]; rfl, fun hfs => if_neg ?_⟩
  rcases hfs with rfl | rfl <;> simp

theorem convertCases (src dst : Ty) (mode : RM) (sat : Bool) (x : Nat) : ConvertCases src dst mode sat x := by
  refine ⟨fun f hf => ?_, fun sg w hw => ?_⟩
  · have hconv : convert src dst mode sat x = roundVal f mode (src.val x) := by
      simp only [convert, convertVal, hf]
    rw [hconv]
    refine ⟨fun s h => ?_, fun n h => ?_, fun n m e h => ?_⟩ <;> rw [h]
    · rfl
    · rfl
  · have hflt : dst.flt = none := by cases dst <;> simp_all [Ty.int, Ty.flt]
    have hconv : convert src dst mode sat x = storeInt sg w mode sat src.int.isSome (src.val x) := by
      simp only [convert, convertVal, hflt, hw]
    rw [hconv]
    refine ⟨fun s h => by rw [h]; rfl, fun n h => ?_, ?_⟩
    · rw [h, storeInt, wrapInt_eq, intMin_eq, intMax_eq]
    · rintro n m e k q r a i h rfl rfl rfl hup hdown rfl
      have hround : roundShift mode n (m * 2 ^ e.toNat) (-e).toNat = (a, m * 2 ^ e.toNat % 2 ^ (-e).toNat != 0) := by
        obtain ⟨up, hshift, hiff⟩ := roundShift_goesUp mode n (m * 2 ^ e.toNat) (-e).toNat
        rw [← hiff] at hup hdown
        cases up with
        | true => rw [hshift, hup rfl]; rfl
        | false => rw [hshift, hdown Bool.false_ne_true]; rfl
      have hint := roundToInt_eq mode n m e
      rw [hround] at hint
      have hstore := storeInt_fin sg w mode sat src.int.isSome n m e hint
      rw [h]
      rw [flagIf_bne_zero] at hstore
      exact hstore

end Sys2Proof.Machine
end

section
/-! The nearest Q4N level (07 R172 to R176). -/

namespace Sys2Proof.Machine

open Sys2Proof.Claims

/-! ### The levels (Table 07-3) -/

theorem q4Mag_eq {c : Nat} (hc : c < 16) : q4Mag c = level c := by
  revert c; decide
theorem level_pos {c : Nat} (hc : c < 16) : 0 < level c := by
  revert c; decide
/-- A magnitude belongs to two codes of opposite signs, the least to codes 7 and 8. -/
theorem level_inj {c d : Nat} (hc : c < 16) (hd : d < 16) (h : level c = level d) (hne : c ≠ d) : decide (d < 8) = !decide (c < 8) :=
  (by decide : ∀ c < 16, ∀ d < 16, level c = level d → c ≠ d → decide (d < 8) = !decide (c < 8)) c hc d hd h hne
theorem level_least {c : Nat} (hc : c < 16) (h : level c ≤ level 8) : level c = level 8 := by
  revert c; decide

theorem q4F32_exact {c : Nat} (hc : c < 16) : roundVal fmtF32 .rne (.fin (decide (c < 8)) (level c) (-10)) = (q4F32 c, 0#5) := by
  revert c; decide +kernel

/-- Level 8 is positive, levels 0 and 15 are -1 and 1. -/
theorem decode_q4F32_8 : fmtF32.decode (q4F32 8) = .fin false 11272192 (-28) := by decide +kernel
theorem decode_q4F32_unit {c : Nat} (hc : c = 0 ∨ c = 15) : fmtF32.decode (q4F32 c) = .fin (decide (c < 8)) (2 ^ 23) (-23) := by
  rcases hc with rfl | rfl <;> decide +kernel

/-! ### The value that a code stands for (R175) -/

theorem FFmt.decode_mod (f : FFmt) (x : Nat) : f.decode (x % 2 ^ f.bits) = f.decode x := by
  simp only [decode, Nat.mod_mod]

theorem fmtF32_sane : fmtF32.Sane := sane_of_mem (by decide)

/-- A code at most the largest value is finite. -/
theorem FFmt.decode_le_largest {f : FFmt} (hf : f.Sane) (hi : f.ieee = true) {neg : Bool} {x : Nat} (h : x ≤ f.largest) :
    ∃ n m e, f.decode (f.withSign neg x) = .fin n m e := by
  have hlt := hf.largest_lt
  have hmag : f.withSign neg x % f.signBit = x := by
    unfold withSign
    split
    · rw [Nat.add_mod_left, Nat.mod_eq_of_lt (by omega)]
    · exact Nat.mod_eq_of_lt (by omega)
  have hexp : x / 2 ^ f.frac ≠ f.expMax := by
    have hpos := Nat.mul_pos (show 0 < f.expMax by have := hf.expMax_pos; omega) (Nat.two_pow_pos f.frac)
    rw [largest, if_pos hi] at h
    exact ((Nat.div_lt_iff_lt_mul (Nat.two_pow_pos _)).2 (by omega)).ne
  simp only [decode, Nat.mod_eq_of_lt (hf.withSign_lt (show x < f.signBit by omega)), hmag, hi, Bool.true_and, beq_iff_eq, hexp, if_false,
    Bool.not_true, Bool.false_and, Bool.false_eq_true]
  split <;> exact ⟨_, _, _, rfl⟩

theorem q4Decode_zero {b : Nat} {bn : Bool} {be : Int} (hb : fmtF32.decode b = .fin bn 0 be) :
    ∃ n e, fmtF32.decode (q4Decode 8 b) = .fin n 0 e := by
  refine ⟨bn, fmtF32.qmin, ?_⟩
  rw [q4Decode, fmul_some (v := .fin (bn != false) (0 * 11272192) (be + -28)) (by rw [hb]; rfl) (by rw [decode_q4F32_8]; rfl)
    (by rw [hb, decode_q4F32_8]; rfl), Nat.zero_mul, roundVal,
    roundFin_zero rfl]
  cases bn <;> decide

theorem q4Decode_inf {b : Nat} {bn : Bool} (hb : fmtF32.decode b = .inf bn) : fmtF32.decode (q4Decode 8 b) = .inf bn := by
  rw [q4Decode, fmul_some (v := .inf bn) (by rw [hb]; rfl) (by rw [decode_q4F32_8]; rfl)
    (by rw [hb, decode_q4F32_8]; cases bn <;> rfl)]
  cases bn <;> decide

/-- The scale taken once or minus once is as finite as it was. -/
theorem q4Decode_unit {b c bm : Nat} {bn : Bool} {be : Int} (hc : c = 0 ∨ c = 15) (hb : fmtF32.decode b = .fin bn bm be) :
    ∃ n m e, fmtF32.decode (q4Decode c b) = .fin n m e := by
  have hq := decode_q4F32_unit hc
  obtain ⟨E, hE⟩ := FFmt.decode_fin fmtF32_sane (Nat.mod_lt b (Nat.two_pow_pos _)) ((fmtF32.decode_mod b).trans hb)
  have hcode : fmtF32.FinCode (fmtF32.withSign (bn != decide (c < 8)) (E * 2 ^ fmtF32.frac + bm)) (bn != decide (c < 8)) bm be E :=
    ⟨rfl, hE.exp, hE.le, hE.lt, hE.normal, fun h => absurd h (by decide)⟩
  rw [q4Decode, fmul_exact fmtF32 .rne (e := be) hb hq rfl ?_, roundVal, hcode.roundFin]
  · exact FFmt.decode_le_largest fmtF32_sane rfl hE.le
  · rw [mul_assoc, ← pow_add]
    congr 2
    omega

/-! ### The nearest code (R176) -/

/-- A search that replaces its best candidate by a better one alone. -/
theorem foldl_best {α : Type} {better : α → α → Bool} {key : α → Nat} (hkey : ∀ a b, better a b = true ↔ key a < key b) (l : List α) (a : α) :
    l.foldl (fun best c => if better c best then c else best) a ∈ a :: l ∧
    (∀ c ∈ a :: l, key (l.foldl (fun best c => if better c best then c else best) a) ≤ key c) ∧
    (l.foldl (fun best c => if better c best then c else best) a = a ∨
      key (l.foldl (fun best c => if better c best then c else best) a) < key a) := by
  induction l generalizing a with
  | nil => simp
  | cons b l ih =>
    obtain ⟨hmem, hmin, hstay⟩ := ih (if better b a then b else a)
    simp only [List.foldl_cons]
    generalize l.foldl (fun best c => if better c best then c else best) (if better b a then b else a) = r at hmem hmin hstay
    have hfirst := hmin _ List.mem_cons_self
    by_cases h : better b a = true
    · have hlt := (hkey b a).1 h
      simp only [h, if_true] at hmem hmin hstay hfirst
      refine ⟨List.mem_cons_of_mem _ hmem, List.forall_mem_cons.2 ⟨by omega, hmin⟩, .inr (by omega)⟩
    · have hle := mt (hkey b a).2 h
      simp only [h, if_false, Bool.false_eq_true] at hmem hmin hstay hfirst
      rw [List.forall_mem_cons] at hmin
      refine ⟨?_, List.forall_mem_cons.2 ⟨hfirst, List.forall_mem_cons.2 ⟨by omega, hmin.2⟩⟩, hstay⟩
      rcases List.mem_cons.1 hmem with h | h
      · exact h ▸ List.mem_cons_self
      · exact List.mem_cons_of_mem _ (List.mem_cons_of_mem _ h)

/-- The distance of a value from the level of a code under a scale, in units of `2^e0`. -/
def levelDist (xn : Bool) (xm : Nat) (xe : Int) (bn : Bool) (bm : Nat) (be : Int) (c : Nat) : Nat :=
  (scaled (min xe (be - 10)) xn xm xe - scaled (min xe (be - 10)) (bn != decide (c < 8)) (bm * q4Mag c) (be - 10)).natAbs

/-- A code is better than another when it is nearer, or as near and of a smaller magnitude. -/
def nearer (xn : Bool) (xm : Nat) (xe : Int) (bn : Bool) (bm : Nat) (be : Int) (c d : Nat) : Bool :=
  decide (levelDist xn xm xe bn bm be c < levelDist xn xm xe bn bm be d) ||
    (levelDist xn xm xe bn bm be c == levelDist xn xm xe bn bm be d && decide (q4Mag c < q4Mag d))

/-- The codes that the search compares with code 8. -/
def otherCodes : List Nat := [7, 9, 6, 10, 5, 11, 4, 12, 3, 13, 2, 14, 1, 15, 0]

section

variable (xn : Bool) (xm : Nat) (xe : Int) (bn : Bool) (bm : Nat) (be : Int)

theorem q4Nearest_eq : q4Nearest xn xm xe bn bm be =
    otherCodes.foldl (fun best c => if nearer xn xm xe bn bm be c best then c else best) 8 := by
  simp only [nearer, levelDist, ← scaleTo_eq]
  rfl

theorem nearer_iff (c d : Nat) : nearer xn xm xe bn bm be c d = true ↔
    levelDist xn xm xe bn bm be c * 2048 + q4Mag c < levelDist xn xm xe bn bm be d * 2048 + q4Mag d := by
  have hmag (c : Nat) : q4Mag c < 2048 := by unfold q4Mag; split <;> omega
  have := hmag c
  have := hmag d
  simp only [nearer, Bool.or_eq_true, Bool.and_eq_true, decide_eq_true_eq, beq_iff_eq]
  omega

/-- The code found is at least as near as any other, of two as near the smaller in magnitude, and code 8 unless it is better. -/
theorem q4Nearest_best : q4Nearest xn xm xe bn bm be < 16 ∧
    (∀ d < 16, nearer xn xm xe bn bm be d (q4Nearest xn xm xe bn bm be) = false) ∧
    (q4Nearest xn xm xe bn bm be = 8 ∨ nearer xn xm xe bn bm be (q4Nearest xn xm xe bn bm be) 8 = true) := by
  obtain ⟨hmem, hmin, hstay⟩ := foldl_best (nearer_iff xn xm xe bn bm be) otherCodes 8
  rw [← q4Nearest_eq] at hmem hmin hstay
  have hlt : ∀ c ∈ 8 :: otherCodes, c < 16 := by decide
  have hall : ∀ d < 16, d ∈ 8 :: otherCodes := by decide
  refine ⟨hlt _ hmem, fun d hd => ?_, hstay.imp_right (nearer_iff ..).2⟩
  rw [← Bool.not_eq_true, nearer_iff]
  exact (hmin d (hall d hd)).not_gt

end

theorem not_nearer {xn : Bool} {xm : Nat} {xe : Int} {bn : Bool} {bm : Nat} {be : Int} {c d : Nat}
    (h : nearer xn xm xe bn bm be d c = false) : levelDist xn xm xe bn bm be c < levelDist xn xm xe bn bm be d ∨
      levelDist xn xm xe bn bm be c = levelDist xn xm xe bn bm be d ∧ q4Mag c ≤ q4Mag d := by
  rw [nearer, Bool.or_eq_false_iff, Bool.and_eq_false_iff, decide_eq_false_iff_not, decide_eq_false_iff_not, beq_eq_false_iff_ne] at h
  omega

/-- At two levels of one magnitude as near as each other the value is 0, so the least level is the nearest. -/
theorem q4Nearest_tie {xn : Bool} {xm : Nat} {xe : Int} {bn : Bool} {bm : Nat} {be : Int} (hbm : bm ≠ 0) {c d : Nat}
    (hc : c < 16) (hd : d < 16) (hlevel : level c = level d) (hne : c ≠ d)
    (h : levelDist xn xm xe bn bm be c = levelDist xn xm xe bn bm be d) :
    ∀ a, levelDist xn xm xe bn bm be a = bm * q4Mag a * 2 ^ (be - 10 - min xe (be - 10)).toNat := by
  have hneg : (bn != decide (d < 8)) = !(bn != decide (c < 8)) := by
    rw [level_inj hc hd hlevel hne]; cases bn <;> cases decide (c < 8) <;> rfl
  have hz : scaled (min xe (be - 10)) (bn != decide (c < 8)) (bm * q4Mag c) (be - 10) ≠ 0 := by
    rw [Ne, scaled_eq_zero, q4Mag_eq hc]
    exact Nat.mul_ne_zero hbm (level_pos hc).ne'
  have hx : scaled (min xe (be - 10)) xn xm xe = 0 := by
    unfold levelDist at h
    rw [hneg, scaled_not, q4Mag_eq hd, ← hlevel, ← q4Mag_eq hc] at h
    omega
  intro a
  rw [levelDist, hx, zero_sub, Int.natAbs_neg, natAbs_scaled]

theorem q4Encode_fin {xn bn : Bool} {xm bm b : Nat} {xe be : Int} (hb : fmtF32.decode b = .fin bn bm be) (hbm : bm ≠ 0) :
    q4Encode (.fin xn xm xe) b = (q4Nearest xn xm xe bn bm be,
      flagIf (cmpVal (fmtF32.decode (q4Decode (q4Nearest xn xm xe bn bm be) b)) (.fin xn xm xe) != 0) fNX) := by
  simp [q4Encode, hb, Val.isNaN, Val.isZero, Val.isInf, hbm]

/-- The comparison behind NX (R176 step 5). -/
theorem flagIf_cmpVal (n : Bool) (m : Nat) (e : Int) (xn : Bool) (xm : Nat) (xe : Int) :
    flagIf (cmpVal (.fin n m e) (.fin xn xm xe) != 0) fNX =
      if scaled (min e xe) n m e = scaled (min e xe) xn xm xe then 0#5 else fNX := by
  have hiff := cmpVal_eq_iff (a := .fin n m e) (b := .fin xn xm xe) rfl rfl
  rw [ValSame] at hiff
  split
  · rename_i h; rw [hiff.2 h]; rfl
  · rename_i h; rw [bne_iff_ne.2 (mt hiff.1 h)]; rfl

theorem q4Encode_no_quotient {x : Val} {b : Nat} (hx : x.isNaN = false) (hb : (fmtF32.decode b).isNaN = false)
    (h : (fmtF32.decode b).isZero = true ∨ x.isInf = true ∧ (fmtF32.decode b).isInf = true) :
    q4Encode x b = (8, fNV ||| flagIf (cmpVal (fmtF32.decode (q4Decode 8 b)) x != 0) fNX) := by
  have h' : ((fmtF32.decode b).isZero || (x.isInf && (fmtF32.decode b).isInf)) = true := by simpa using h
  simp only [q4Encode, hx, hb, h', Bool.or_self, Bool.false_eq_true, if_false, if_true]

theorem q4Cases (x : Val) (b : Nat) : Q4Cases x b := by
  refine ⟨fun h => if_pos (by rwa [Bool.or_eq_true]), fun bn be hb hx => ?zero, fun xn bn hx hb => ?infInf, fun xn xm xe bn hx hb => ?finInf,
    fun xn bn bm be hx hb hbm => ?infFin, fun xn xm xe bn bm be e0 hx hb hbm h0 => ?fin⟩
  case zero =>
    obtain ⟨n, e, hq⟩ := q4Decode_zero hb
    rw [q4Encode_no_quotient hx (by rw [hb]; rfl) (.inl (by rw [hb]; rfl)), hq]
    cases x with
    | nan s => cases hx
    | inf xn => cases xn <;> rfl
    | fin xn xm xe =>
      rw [flagIf_cmpVal, scaled_eq_zero.2 rfl]
      simp only [eq_comm (a := (0 : Int)), scaled_eq_zero, Val.isZero, beq_iff_eq]
      split <;> rfl
  case infInf =>
    subst hx
    rw [q4Encode_no_quotient rfl (by rw [hb]; rfl) (.inr ⟨rfl, by rw [hb]; rfl⟩), q4Decode_inf hb]
    cases xn <;> cases bn <;> rfl
  case finInf =>
    subst hx
    simp only [q4Encode, hb, Val.isNaN, Val.isZero, Val.isInf, Bool.or_self, Bool.and_true, Bool.false_eq_true, if_false, q4Decode_inf hb]
    cases bn <;> rfl
  case infFin =>
    subst hx
    have hinexact {c : Nat} (hc : c = 0 ∨ c = 15) : flagIf (cmpVal (fmtF32.decode (q4Decode c b)) (.inf xn) != 0) fNX = fNX := by
      obtain ⟨n, m, e, hq⟩ := q4Decode_unit hc hb
      rw [hq]
      cases xn <;> rfl
    simp only [q4Encode, hb, Val.isNaN, Val.isZero, Val.isInf, Val.neg, Bool.or_self, Bool.and_false, beq_eq_false_iff_ne.2 hbm,
      Bool.false_eq_true, if_false]
    by_cases h : xn = bn
    · rw [if_pos h, if_neg (by simpa using h), hinexact (.inr rfl)]
    · rw [if_neg h, if_pos (by simpa using h), hinexact (.inl rfl)]
  case fin =>
    subst hx h0
    obtain ⟨hc, hmin, hstay⟩ := q4Nearest_best xn xm xe bn bm be
    rw [q4Encode_fin hb hbm]
    generalize q4Nearest xn xm xe bn bm be = c at hc hmin hstay
    refine ⟨c, rfl, hc, ?_, fun n m e hq => ?_⟩
    · rintro d hd _ _ rfl rfl
      have h := not_nearer (hmin d hd)
      rw [← q4Mag_eq hc, ← q4Mag_eq hd]
      show levelDist xn xm xe bn bm be c < levelDist xn xm xe bn bm be d ∨ levelDist xn xm xe bn bm be c = levelDist xn xm xe bn bm be d ∧ _
      refine h.imp_right fun ⟨hdist, hle⟩ => ⟨hdist, ?_⟩
      by_cases hmag : q4Mag c < q4Mag d
      · exact .inl hmag
      · have heq : q4Mag c = q4Mag d := by omega
        refine .inr ⟨heq, ?_⟩
        by_contra hnot
        rw [not_or] at hnot
        have hall := q4Nearest_tie hbm hc hd (by rw [← q4Mag_eq hc, ← q4Mag_eq hd, heq]) hnot.2 hdist
        have h8 := not_nearer (hmin 8 (by omega))
        have hle8 : level c ≤ level 8 := by
          rw [← q4Mag_eq hc, ← q4Mag_eq (show 8 < 16 by omega)]
          rcases h8 with h8 | ⟨-, h8⟩
          · rw [hall, hall, Nat.mul_lt_mul_right (Nat.two_pow_pos _), Nat.mul_lt_mul_left (by omega)] at h8
            exact h8.le
          · exact h8
        have hmag8 : q4Mag c = q4Mag 8 := by
          rw [q4Mag_eq hc, q4Mag_eq (show 8 < 16 by omega), level_least hc hle8]
        refine hstay.elim hnot.1 fun h => ?_
        rw [nearer_iff, hall, hall, hmag8] at h
        exact lt_irrefl _ h
    · rw [hq, flagIf_cmpVal]

end Sys2Proof.Machine
end

section
/-! The issue of the scalar floating-point instructions (07 R166, R168, R170), and rounding. -/

namespace Sys2Proof.Machine

open Sys2Proof.Claims

/-! ### A float instruction reads its operands and its rounding mode in the charged state -/

theorem roundMode_charged (p : Pfx) {s : State} (n m : Nat) (h : s.sid ≤ 10) : roundMode p (s.charged n m) = roundMode p s := by
  have hfcsr : (s.charged n m).ctx.fcsr = s.ctx.fcsr := (congrArg Ctx.fcsr (s.charged_ctx n m h) :)
  rw [roundMode, hfcsr, ← roundMode]

/-- A float instruction issues and writes what its meaning answers in the charged state. -/
theorem issue_fdone {i : Instr} {n d : Nat} {s : State} {f : State → Nat × FFlags} {r : Nat × FFlags} (h : s.issues i .plain n 0 = true)
    (hg : readRegions i = []) (hr : f (s.charged n 0) = r) : issue i (plain n fun s => fwrite d (f s) s) s =
      .next ((((s.charged n 0).ws d (BitVec.ofNat 64 r.1)).raise r.2).done i) :=
  issue_ok (sh := plain n fun s => fwrite d (f s) s) h (.inl rfl) rfl rfl rfl hg (congrArg (fun r => fwrite d r (s.charged n 0)) hr)

theorem f2_intro {mk : Pfx → BitVec 4 → BitVec 4 → Instr} {n : Nat} {f : FFmt → RM → Nat → Nat → Nat × FFlags}
    (hexec : ∀ p d a s, exec (mk p d a) s = farith (mk p d a) n p d a f s := by intros; rfl)
    (hregs : ∀ p d a, readRegions (mk p d a) = (p.rrr d a).filterMap Operand.greg := by intros; rfl) : F2 mk n f := by
  intro p d a s h
  have hsid := State.issues_sid h
  unfold FDone
  rw [hexec]
  refine issue_fdone h ((hregs p d a).trans (greg_rrr p d a)) ?_
  rw [srcX_charged p d a n 0 hsid, srcY_charged p a n 0 hsid, roundMode_charged p n 0 hsid]
  rfl

theorem f1_intro {mk : Pfx → BitVec 4 → BitVec 4 → Instr} {n : Nat} {f : FFmt → RM → Nat → Nat × FFlags}
    (hexec : ∀ p d a s, exec (mk p d a) s = farith1 (mk p d a) n p d a f s := by intros; rfl)
    (hregs : ∀ p d a, readRegions (mk p d a) = [] := by intros; rfl) : F1 mk n f := by
  intro p d a s h
  have hsid := State.issues_sid h
  unfold FDone
  rw [hexec]
  refine issue_fdone h (hregs p d a) ?_
  rw [opA_charged p a n 0 hsid, roundMode_charged p n 0 hsid]
  rfl

end Sys2Proof.Machine

namespace Sys2Proof.Proofs

open Sys2Proof Sys2Proof.Machine Sys2Proof.Claims

/-- Settles O25: the value of a finite code lies in the unit to which it is rounded, so nothing is cut off. -/
theorem roundExact : Obligations.RoundExact := by
  unfold Obligations.RoundExact
  intro f hf mode x neg m e hx h
  exact roundVal_decode (sane_of_mem hf) mode hx h

/-- FADD to FNEG, FMA, FCVT, FCLASS and FQNT issue and write what their function answers. -/
theorem float_issue :
    F2 .fadd 1 fadd ∧ F2 .fsub 1 fsub ∧ F2 .fmul 1 fmul ∧ F2 .fdiv 8 fdiv ∧ F1 .fsqrt 8 fsqrt ∧
    F2 .fmin 1 (fun f _ x y => fminmax f false x y) ∧ F2 .fmax 1 (fun f _ x y => fminmax f true x y) ∧
    F1 .fabs 1 (fun f _ x => (fabs f x, 0#5)) ∧ F1 .fneg 1 (fun f _ x => (fneg f x, 0#5)) ∧
    F1 .fclass 1 (fun f _ x => (fclassOf f x, 0#5)) :=
  ⟨f2_intro, f2_intro, f2_intro, f2_intro, f1_intro, f2_intro, f2_intro, f1_intro, f1_intro, f1_intro⟩

/-- Settles O24: each instruction issues with its function, and the function is the one rounding of the exact value, or the case of a value that
is no finite number. -/
theorem floatResults : Obligations.FloatResults := by
  unfold Obligations.FloatResults
  obtain ⟨hadd, hsub, hmul, hdiv, hsqrt, hmin, hmax, habs, hneg, hclass⟩ := float_issue
  refine ⟨⟨hadd, hsub, hmul, hdiv, hsqrt, hmin, hmax, habs, hneg, hclass, ?fma, ?fcvt, ?fqnt⟩, ?values,
    fun src dst mode sat x _ => convertCases src dst mode sat x, q4Cases, fun c hc => q4F32_exact hc, ?fcmp,
    fun f _ x y c => fcompare_eq f c x y⟩
  case fma =>
    intro p d a s h
    have hsid := State.issues_sid h
    refine issue_fdone h rfl ?_
    rw [opA_charged p a 1 0 hsid, opD_charged p d 1 0 hsid, opE_charged p 1 0 hsid, roundMode_charged p 1 0 hsid]
    rfl
  case fcvt =>
    rintro p d a g s _ h rfl
    have hsid := State.issues_sid h
    refine issue_fdone h rfl ?_
    rw [s.rs_charged 1 0 _ hsid, roundMode_charged p 1 0 hsid]
  case fqnt =>
    intro p d a s h
    have hsid := State.issues_sid h
    refine issue_fdone h rfl ?_
    rw [opA_charged p a 1 0 hsid, opE_charged p 1 0 hsid]
    rfl
  case values =>
    intro f hf mode x y hx hy
    have hsane : f.Sane := by
      refine sane_of_mem ?_
      simp only [List.mem_cons, List.not_mem_nil, or_false] at hf ⊢
      tauto
    have hi : f.ieee = true := (by decide : ∀ f ∈ [fmtF32, fmtF64], f.ieee = true) f hf
    exact ⟨floatExact hsane hi mode hx hy, minMaxCases f x y, fun d => fmaSpecials hi mode d x y, fclassOf_eq hsane hi hx, fabs_eq hi x,
      fneg_eq hsane hi hx⟩
  case fcmp =>
    intro p d a c s h hbusy hd
    have hsid := State.issues_sid h
    have hres : fcmpRes p d a c (s.charged 1 0) =
        fcompare (fmtOf p) (fcondOf c) (low (fmtOf p) (srcX p d a s)) (low (fmtOf p) (srcY p a s)) := by
      rw [fcmpRes, srcX_charged p d a 1 0 hsid, srcY_charged p a 1 0 hsid]
      rfl
    obtain ⟨t, ht, hbody⟩ :=
      pushRes_raise (fcmpRes p d a c (s.charged 1 0)).2 (condEntry (fcmpRes p d a c (s.charged 1 0)).1) hsid hbusy hd
    have hok := issue_ok (i := .fcmp p d a c) (sh := fcmpShape p d a c) h (.inl rfl) rfl rfl rfl (greg_rr p d a) hbody
    rw [hres] at ht
    exact ⟨t, _, rfl, ht, hok⟩

end Sys2Proof.Proofs
end

section
/-! Caches, translation and window descriptors (07 R186, R187, 10 R245, R248, R263). -/

namespace Sys2Proof.Machine

open Sys2Proof.Claims

/-! ### Issue of an instruction whose own trap is judged before it pays (14 R340) -/

/-- An instruction that has paid and waits is past its own trap; one that has not passes it. -/
theorem issue_ok_own {i : Instr} {sh : Shape} {s t : State} {n m : Nat} (h : s.issues i sh.gm n m = true) (hk : sh.kernel = false)
    (ho : s.ctx.paid = none → sh.own s = none) (hr : sh.ready s = true) (hc : sh.cost s = (n, m)) (hg : readRegions i = [])
    (hb : sh.body (s.charged n m) = .ok t) (he : sh.early s = none := by rfl) (hq : sh.queues = false := by rfl) :
    issue i sh s = .next (t.done i) := by
  cases hpaid : s.ctx.paid with
  | none => exact issue_ok h (.inl hk) (ho hpaid) hr hc hg hb he hq
  | some x =>
    obtain ⟨hrun, hfree, hwf, ⟨g, hguard, hs⟩, c, hch⟩ := State.issues_iff.1 h
    have hcharged : s.setCtx c = s.charged n m := by rw [State.charged, hch]
    simp [issue, hrun, hfree, hwf, hk, hguard, hs, hpaid, hr, hc, hch, hq, hcharged, runBody_eq hg, hb, keepCap, Res.waits, finish,
      State.done]

/-! ### A TLB miss (10 R245, R248) -/

theorem State.meetWalk_of_sound {s : State} (t : Nat) (asid : BitVec 12) (va : Nat) (h : s.flaws = []) : s.meetWalk t asid va = s := by
  unfold State.meetWalk
  induction (s.walkKeys asid va).1 with
  | nil => rfl
  | cons k ks ih => rw [List.foldl_cons, State.meetLines, if_pos h, ih]

theorem State.meetWalk_kept (s : State) (t : Nat) (asid : BitVec 12) (va : Nat) : CellsKept s (s.meetWalk t asid va) :=
  .foldl (fun s k => s.meetLines_kept t k 8) _ s

theorem State.parkFault_kept (s : State) (t : Nat) (va who : Word) : CellsKept s (s.parkFault t va who).2 := by
  unfold State.parkFault
  dsimp only
  split
  · exact s.setMtu_kept _ _
  · exact s.sendFault_kept _ _ _

theorem execTlbMissWalk_leaf {s : State} {va : Word} {kind : AccKind} {pte : Word} (hwait : s.ctx.wait = .walk va kind)
    (hwalk : s.walk s.asid va.toNat = .leaf pte) (hflaws : s.flaws = []) :
    execTlbMissWalk s = .next ((s.fillTlb s.cid (mkTlb s.asid va.toNat pte)).setCtx s.ctx.again) := by
  simp only [execTlbMissWalk, hwait, hwalk, s.meetWalk_of_sound _ _ _ hflaws]

theorem execTlbMissWalk_absent {s : State} {va : Word} {kind : AccKind} (hsid : s.sid ≤ 10) (hwait : s.ctx.wait = .walk va kind)
    (hwalk : s.walk s.asid va.toNat = .absent) : ∃ t id, execTlbMissWalk s = .next t ∧ t.ctx.wait = .mtu id va kind := by
  simp only [execTlbMissWalk, hwait, hwalk]
  refine ⟨_, _, rfl, congrArg Ctx.wait (State.ctx_setCtx _ _ ?_)⟩
  exact (((s.meetWalk_kept _ _ _).trans (State.parkFault_kept _ _ _ _)).sid_eq).trans_le hsid

/-! ### INVL1 of a line (R263) -/

/-- The meaning of INVL1 of a line. -/
def dropLine (u : State) (va : Nat) : Res :=
  if va < 2 ^ 57 then
    match u.physOf u.cid va with
    | some (.ok pa _) => .ok (u.setMyCell { u.myCell with l1 := u.myCell.l1.filter (·.line != pa / 64) })
    | _ => .ok u
  else .ok u

theorem dropLine_none {u : State} {va : Nat} (h : 2 ^ 57 ≤ va ∨ ∀ pa sc, u.physOf u.cid va ≠ some (.ok pa sc)) : dropLine u va = .ok u := by
  unfold dropLine
  split
  · rename_i hva
    split
    · rename_i pa sc hphys
      exact absurd hphys (h.resolve_left (Nat.not_le_of_lt hva) pa sc)
    · rfl
  · rfl

end Sys2Proof.Machine

namespace Sys2Proof.Proofs

open Sys2Proof Sys2Proof.Machine Sys2Proof.Claims

/-- Settles O39: PREF checks and does nothing more, INVL1 drops lines of its cell, a walk fills the TLB or parks its access, and WDSET judges
its descriptor before it pays. -/
theorem cacheResults : Obligations.CacheResults := by
  unfold Obligations.CacheResults
  refine ⟨?prefLine, ?prefRegion, ?all, ?line, ?lineNone, ?leaf, ?absent, ?wdset⟩
  case prefLine =>
    rintro p a s m rfl h
    exact issue_ok (sh := memory 1 (fun s => units (chargedBytes s.tid (opA p a s).toNat 1)) .ok) h (.inl rfl) rfl rfl rfl rfl rfl
  case prefRegion =>
    rintro p a s g m u rfl hbad rfl rfl h hsound hwait hpoison hrights
    have hflaws : (s.charged 1 (units (regionBytes s (s.desc (s.rg (p.an a)).desc) (s.boxes (s.rg (p.an a)))))).flaws = [] :=
      (s.charged_flaws _ _).trans hsound.2
    refine issue_region_ok (sh := { memory 1 _ _ with ready := _ }) h (.inl rfl) rfl ?_ ?_ hsound ?_
    · show (!s.ragWait (s.rg (p.an a))) = true
      rw [← s.ragWait_charged _ _ _ (State.issues_sid h), hwait]; rfl
    · simp only [memory, hbad, Option.isSome_none, Bool.false_eq_true, if_false]
    · simp only [memory, State.rg_charged]
      rw [withRegion_usable _ hflaws ((s.gBad_charged _ _ _ _).trans hbad) hwait hpoison]
      simp only [State.desc_charged, State.boxes_charged, hrights, State.meetProt_of_sound hflaws]
  case all =>
    intro p a s h
    exact issue_ok h (.inl rfl) rfl rfl rfl rfl rfl
  case line =>
    rintro p a s u pa sc rfl h hva hphys
    refine issue_ok h (.inl rfl) rfl rfl rfl rfl ?_
    simp only [plain, opA_charged p a 1 0 (State.issues_sid h), hva, hphys, if_true]
  case lineNone =>
    rintro p a s u rfl h hnone
    refine issue_ok (sh := plain 1 fun u => dropLine u (opA p a u).toNat) h (.inl rfl) rfl rfl rfl rfl ?_
    exact dropLine_none (by rwa [opA_charged p a 1 0 (State.issues_sid h)])
  case leaf =>
    intro s va kind pte hflaws hwait hwalk
    exact execTlbMissWalk_leaf hwait hwalk hflaws
  case absent =>
    intro s va kind hsid hwait hwalk
    exact execTlbMissWalk_absent hsid hwait hwalk
  case wdset =>
    rintro p d a s u rfl h
    refine ⟨fun D hlegal hcheck => issue_ok_own h rfl (fun hpaid => ?_) rfl rfl rfl ?_, fun hpaid hillegal => ?_⟩
    · simp only [hlegal hpaid, Bool.false_eq_true, if_false]
    · simp only [plain, hcheck]
    · obtain ⟨hrun, hfree, hwf, ⟨g, hguard, hs⟩, -⟩ := State.issues_iff.1 h
      refine issue_own hrun hfree hwf (.inl rfl) hpaid (fun g' hg' => ?_) (if_pos hillegal)
      cases hguard.symm.trans hg'
      exact hs

end Sys2Proof.Proofs
end

section
/-! The step of the matrix unit (09 R222, 07 R178, R179): elements of packed blocks, the sum of products and its one rounding. -/

namespace Sys2Proof.Machine

open Sys2Proof.Claims

/-! ### Packed elements -/

theorem elAt_cons (w x y : Nat) (i : Nat) : elAt w (x % 2 ^ w + y * 2 ^ w) i = if i = 0 then x % 2 ^ w else elAt w y (i - 1) := by
  have hpos := Nat.two_pow_pos w
  have hlt : x % 2 ^ w < 2 ^ w := Nat.mod_lt _ hpos
  cases i with
  | zero => rw [elAt, Nat.mul_zero, pow_zero, Nat.div_one, Nat.add_mul_mod_self_right, Nat.mod_mod, if_pos rfl]
  | succ k =>
    rw [elAt, Nat.mul_succ, Nat.add_comm (w * k), pow_add, ← Nat.div_div_eq_div_mul, Nat.add_mul_div_right _ _ hpos, Nat.div_eq_of_lt hlt,
      Nat.zero_add, if_neg (Nat.succ_ne_zero k), Nat.add_sub_cancel, elAt]

/-- A block of elements under a rest: its elements, then those of the rest. -/
theorem elAt_packNats (w : Nat) (xs : List Nat) (y i : Nat) : elAt w (packNats w xs + y * 2 ^ (w * xs.length)) i =
    if h : i < xs.length then xs[i] % 2 ^ w else elAt w y (i - xs.length) := by
  induction xs generalizing i with
  | nil => simp [packNats]
  | cons x xs ih =>
    have hcons : packNats w (x :: xs) + y * 2 ^ (w * (x :: xs).length) = x % 2 ^ w + (packNats w xs + y * 2 ^ (w * xs.length)) * 2 ^ w := by
      rw [List.length_cons, Nat.mul_succ, pow_add, ← Nat.mul_assoc, Nat.add_mul, ← Nat.add_assoc]
      rfl
    rw [hcons, elAt_cons]
    cases i with
    | zero => simp
    | succ k => simp [ih]

theorem packNats_lt (w : Nat) (xs : List Nat) : packNats w xs < 2 ^ (w * xs.length) := by
  induction xs with
  | nil => exact Nat.one_pos
  | cons x xs ih =>
    have hlt : x % 2 ^ w < 2 ^ w := Nat.mod_lt _ (Nat.two_pow_pos w)
    calc packNats w (x :: xs) = x % 2 ^ w + packNats w xs * 2 ^ w := rfl
      _ < (packNats w xs + 1) * 2 ^ w := by rw [Nat.succ_mul]; omega
      _ ≤ 2 ^ (w * xs.length) * 2 ^ w := Nat.mul_le_mul_right _ ih
      _ = 2 ^ (w * (x :: xs).length) := by rw [← pow_add, List.length_cons, Nat.mul_succ]

/-- A number of `W` bits whose `L` lowest are replaced has `W` bits. -/
theorem replaceLow_toNat {P L W : Nat} (hP : P < 2 ^ L) (acc : BitVec W) (hL : L ≤ W) :
    (BitVec.ofNat W (P + acc.toNat / 2 ^ L * 2 ^ L)).toNat = P + acc.toNat / 2 ^ L * 2 ^ L := by
  have hhigh : acc.toNat / 2 ^ L < 2 ^ (W - L) := by
    rw [Nat.div_lt_iff_lt_mul (Nat.two_pow_pos _), ← pow_add, Nat.sub_add_cancel hL]
    exact acc.isLt
  rw [BitVec.toNat_ofNat, Nat.mod_eq_of_lt]
  calc P + acc.toNat / 2 ^ L * 2 ^ L < (acc.toNat / 2 ^ L + 1) * 2 ^ L := by rw [Nat.succ_mul]; omega
    _ ≤ 2 ^ (W - L) * 2 ^ L := Nat.mul_le_mul_right _ hhigh
    _ = 2 ^ W := by rw [← pow_add, Nat.sub_add_cancel hL]

/-- An accumulator whose low part is replaced: the new elements, then its own. -/
theorem elAt_setLow (w : Nat) (xs : List Nat) (acc : BitVec 8192) (hsize : w * xs.length ≤ 8192) (i : Nat) :
    elAt w (setLow w xs acc).toNat i = if h : i < xs.length then xs[i] % 2 ^ w else elAt w acc.toNat i := by
  rw [setLow, replaceLow_toNat (packNats_lt w xs) acc hsize, elAt_packNats]
  split
  · rfl
  · rename_i h
    rw [elAt, Nat.div_div_eq_div_mul, ← pow_add, ← Nat.mul_add, Nat.add_sub_cancel' (not_lt.1 h), elAt]

/-! ### Infinite and invalid terms (R178) -/

/-- A product of two values that are numbers, none for infinity times zero. -/
def prodOf (p : Val × Val) : Option Val := if p.1.isNaN || p.2.isNaN then some (.nan false) else mulVals p.1 p.2

theorem mmaProduct_eq (t : Ty) (x y : Nat) : mmaProduct t x y = prodOf (t.val x, t.val y) := rfl

/-- The terms of a step's sum. -/
def stepTerms (x : Val) (ps : List (Val × Val)) : List (Option Val) := some x :: ps.map prodOf

theorem length_filterMap_lt {α : Type} {l : List (Option α)} (h : none ∈ l) : (l.filterMap id).length < l.length := by
  induction l with
  | nil => cases h
  | cons a l ih =>
    have hle := List.length_filterMap_le id l
    cases a with
    | none => rw [List.filterMap_cons_none rfl, List.length_cons]; omega
    | some a =>
      rw [show (some a :: l).filterMap id = a :: l.filterMap id from rfl, List.length_cons, List.length_cons]
      have := ih (by simpa using h)
      omega

section

variable {f : FFmt} {mode : RM} {l : List (Option Val)}

theorem stepRound_none (h : none ∈ l) : stepRound f mode l = (f.canonNaN, fNV) := by
  have hlen : decide ((l.filterMap id).length < l.length) = true := decide_eq_true (length_filterMap_lt h)
  simp only [stepRound, hlen, Bool.true_or, if_true]

theorem stepRound_nan {v : Val} (h : some v ∈ l) (hv : v.isNaN = true) : stepRound f mode l = (f.canonNaN, fNV) := by
  have hany : (l.filterMap id).any Val.isNaN = true := List.any_eq_true.2 ⟨v, List.mem_filterMap.2 ⟨_, h, rfl⟩, hv⟩
  simp only [stepRound, hany, Bool.or_true, if_true]

/-- A sum of numbers with an infinite one. -/
theorem stepRound_inf (hi : f.ieee = true) {vs : List Val} (hnan : ∀ v ∈ vs, v.isNaN = false) {n : Bool} (hn : .inf n ∈ vs) :
    stepRound f mode (vs.map some) = if .inf (!n) ∈ vs then (f.canonNaN, fNV) else (f.withSign n f.infCode, 0#5) := by
  have hvs : (vs.map some).filterMap id = vs := by simp
  have hany : vs.any Val.isNaN = false := by simpa using hnan
  have hinf : vs.any Val.isInf = true := List.any_eq_true.2 ⟨_, hn, rfl⟩
  have hneg : (vs.filter Val.isInf).any Val.neg = decide (.inf true ∈ vs) := by
    rw [Bool.eq_iff_iff, List.any_eq_true, decide_eq_true_eq]
    refine ⟨fun ⟨v, hv, hvn⟩ => ?_, fun h => ⟨_, List.mem_filter.2 ⟨h, rfl⟩, rfl⟩⟩
    obtain ⟨hv, hvi⟩ := List.mem_filter.1 hv
    cases v <;> simp_all [Val.isInf, Val.neg]
  have hpos : (vs.filter Val.isInf).any (fun v => !v.neg) = decide (.inf false ∈ vs) := by
    rw [Bool.eq_iff_iff, List.any_eq_true, decide_eq_true_eq]
    refine ⟨fun ⟨v, hv, hvn⟩ => ?_, fun h => ⟨_, List.mem_filter.2 ⟨h, rfl⟩, rfl⟩⟩
    obtain ⟨hv, hvi⟩ := List.mem_filter.1 hv
    cases v <;> simp_all [Val.isInf, Val.neg]
  simp only [stepRound, hvs, List.length_map, lt_irrefl, decide_false, hany, Bool.or_self, Bool.false_eq_true, if_false, hinf, if_true, hneg,
    hpos, roundVal_inf hi]
  cases n
  · by_cases h : .inf true ∈ vs <;> simp [hn, h]
  · simp [hn]

/-! ### Finite sums (R222) -/

theorem valScaled_eq (e0 : Int) (v : Val) : valScaled e0 v = termAt e0 v := by
  cases v with
  | fin n m e => exact scaleTo_eq e0 n m e
  | nan s | inf n => rfl

theorem foldl_min_le (vs : List Val) (e : Int) : (vs.foldl (fun e v => min e (valExp v)) e ≤ e) ∧
    ∀ v ∈ vs, vs.foldl (fun e v => min e (valExp v)) e ≤ valExp v := by
  induction vs generalizing e with
  | nil => simp
  | cons v vs ih =>
    obtain ⟨hle, hall⟩ := ih (min e (valExp v))
    rw [List.foldl_cons]
    exact ⟨hle.trans (min_le_left _ _), List.forall_mem_cons.2 ⟨hle.trans (min_le_right _ _), hall⟩⟩

/-- A sum of terms in a finer unit. -/
theorem sum_termAt_down {vs : List Val} {e0 e1 : Int} (h0 : e0 ≤ e1) (h1 : ∀ n m e, .fin n m e ∈ vs → e1 ≤ e) :
    (vs.map (termAt e0)).sum = (vs.map (termAt e1)).sum * 2 ^ (e1 - e0).toNat := by
  rw [← List.sum_map_mul_right]
  congr 1
  refine List.map_congr_left fun v hv => ?_
  cases v with
  | fin n m e => exact scaled_down n m h0 (h1 n m e hv)
  | nan s | inf n => exact (zero_mul _).symm

section

variable {vs : List Val} (hfin : ∀ v ∈ vs, v.isNaN = false ∧ v.isInf = false)

include hfin

/-- A sum of finite terms is one integer in a common unit. -/
theorem stepRound_fin : ∃ e0, (∀ n m e, .fin n m e ∈ vs → e0 ≤ e) ∧ stepRound f mode (vs.map some) =
    if (vs.map (termAt e0)).sum = 0 then roundFin f mode (mode == .rdn || vs.all (fun v => v.isZero && v.neg)) 0 0
    else roundFin f mode (decide ((vs.map (termAt e0)).sum < 0)) (vs.map (termAt e0)).sum.natAbs e0 := by
  have hvs : (vs.map some).filterMap id = vs := by simp
  have hnan : vs.any Val.isNaN = false := by simpa using fun v hv => (hfin v hv).1
  have hinf : vs.any Val.isInf = false := by simpa using fun v hv => (hfin v hv).2
  have hsum (e0 : Int) : vs.foldl (fun a v => a + valScaled e0 v) 0 = (vs.map (termAt e0)).sum := by
    simp only [List.sum_eq_foldl, List.foldl_map, valScaled_eq]
  refine ⟨_, fun n m e h => (foldl_min_le vs 0).2 _ h, ?_⟩
  simp only [stepRound, hvs, List.length_map, lt_irrefl, decide_false, hnan, Bool.or_self, Bool.false_eq_true, if_false, hinf, hsum]

theorem stepRound_exact {e0 : Int} (hbelow : ∀ n m e, .fin n m e ∈ vs → e0 ≤ e) {n : Bool} {m : Nat} {e : Int} (hm : m ≠ 0) (he : e0 ≤ e)
    (h : scaled e0 n m e = (vs.map (termAt e0)).sum) : stepRound f mode (vs.map some) = roundFin f mode n m e := by
  obtain ⟨e1, hbelow1, hstep⟩ := stepRound_fin (f := f) (mode := mode) hfin
  have hdown := sum_termAt_down (min_le_left e0 e1) hbelow
  rw [sum_termAt_down (min_le_right e0 e1) hbelow1, ← h, ← scaled_down n m (min_le_left e0 e1) he] at hdown
  obtain ⟨ht, hround⟩ := roundFin_of_scaled f mode hm ((min_le_left e0 e1).trans he) (min_le_right e0 e1) hdown.symm
  rw [hstep, if_neg ht, hround]

theorem stepRound_zero (hi : f.ieee = true) {e0 : Int} (hbelow : ∀ n m e, .fin n m e ∈ vs → e0 ≤ e) (h : (vs.map (termAt e0)).sum = 0) :
    stepRound f mode (vs.map some) = (f.withSign (mode == .rdn || vs.all (fun v => v.isZero && v.neg)) 0, 0#5) := by
  obtain ⟨e1, hbelow1, hstep⟩ := stepRound_fin (f := f) (mode := mode) hfin
  have hdown := sum_termAt_down (min_le_left e0 e1) hbelow
  rw [sum_termAt_down (min_le_right e0 e1) hbelow1, h, zero_mul, Int.mul_eq_zero] at hdown
  rw [hstep, if_pos (hdown.resolve_right (by positivity)), roundFin_zero hi]

end

end

/-! ### The sum of an accumulator element and the products (R178) -/

/-- What a product is when it is a number. -/
def prodVal (p : Val × Val) : Val := (prodOf p).getD (.nan false)

section

variable {p : Val × Val}

theorem prodOf_infZero (h : InfZero p.1 p.2) : prodOf p = none := by
  obtain ⟨h1, h2⟩ := not_isNaN_of_infZero h
  rw [prodOf, h1, h2]
  exact mulVals_none h

theorem prodOf_nan (h : p.1.isNaN = true ∨ p.2.isNaN = true) : prodOf p = some (.nan false) :=
  if_pos (by rwa [Bool.or_eq_true])

variable (hnan : p.1.isNaN = false ∧ p.2.isNaN = false) (hz : ¬ InfZero p.1 p.2)

include hnan hz

theorem prodOf_inf (h : p.1.isInf = true ∨ p.2.isInf = true) : prodOf p = some (.inf (p.1.neg != p.2.neg)) := by
  rw [prodOf, hnan.1, hnan.2]
  exact mulVals_inf hnan.1 hnan.2 h hz

omit hz in
theorem prodOf_fin (h : ¬ (p.1.isInf = true ∨ p.2.isInf = true)) : ∃ n1 m1 e1 n2 m2 e2, p = (.fin n1 m1 e1, .fin n2 m2 e2) ∧
    prodOf p = some (.fin (n1 != n2) (m1 * m2) (e1 + e2)) := by
  obtain ⟨a, b⟩ := p
  obtain ⟨ha, hb⟩ := hnan
  cases a with
  | nan s => cases ha
  | inf n1 => exact absurd (.inl rfl) h
  | fin n1 m1 e1 =>
    cases b with
    | nan s => cases hb
    | inf n2 => exact absurd (.inr rfl) h
    | fin n2 m2 e2 => exact ⟨n1, m1, e1, n2, m2, e2, rfl, rfl⟩

theorem prodOf_eq : prodOf p = some (prodVal p) := by
  by_cases h : p.1.isInf = true ∨ p.2.isInf = true
  · rw [prodVal, prodOf_inf hnan hz h]; rfl
  · obtain ⟨_, _, _, _, _, _, -, hp⟩ := prodOf_fin hnan h
    rw [prodVal, hp]; rfl

theorem prodVal_isNaN : (prodVal p).isNaN = false := by
  by_cases h : p.1.isInf = true ∨ p.2.isInf = true
  · rw [prodVal, prodOf_inf hnan hz h]; rfl
  · obtain ⟨_, _, _, _, _, _, -, hp⟩ := prodOf_fin hnan h
    rw [prodVal, hp]; rfl

theorem prodVal_inf_iff (n : Bool) : prodVal p = .inf n ↔ (p.1.isInf = true ∨ p.2.isInf = true) ∧ (p.1.neg != p.2.neg) = n := by
  by_cases h : p.1.isInf = true ∨ p.2.isInf = true
  · rw [prodVal, prodOf_inf hnan hz h, and_iff_right h]; simp
  · obtain ⟨_, _, _, _, _, _, -, hp⟩ := prodOf_fin hnan h
    rw [prodVal, hp]; simp [h]

end

/-- A sum of finite terms in a unit that is fine enough (R222). -/
theorem stepCell_finite {f : FFmt} (hi : f.ieee = true) (mode : RM) {x : Val} {ps : List (Val × Val)}
    (hfin : ∀ v ∈ x :: ps.map prodVal, v.isNaN = false ∧ v.isInf = false)
    (hps : ∀ p ∈ ps, ∃ n1 m1 e1 n2 m2 e2, p = (.fin n1 m1 e1, .fin n2 m2 e2) ∧ prodOf p = some (.fin (n1 != n2) (m1 * m2) (e1 + e2)))
    (e0 T : Int) (hbelow : Below e0 x ps) (hT : T = termAt e0 x + (ps.map (productAt e0)).sum) :
    (∀ n m e, m ≠ 0 → e0 ≤ e → scaled e0 n m e = T → stepRound f mode ((x :: ps.map prodVal).map some) = roundVal f mode (.fin n m e)) ∧
    (T = 0 → ((∃ e, x = .fin true 0 e) ∧ (∀ p ∈ ps, (p.1.isZero = true ∨ p.2.isZero = true) ∧ p.1.neg ≠ p.2.neg) ∨ mode = .rdn →
        stepRound f mode ((x :: ps.map prodVal).map some) = (f.withSign true 0, 0#5)) ∧
      (¬ ((∃ e, x = .fin true 0 e) ∧ ∀ p ∈ ps, (p.1.isZero = true ∨ p.2.isZero = true) ∧ p.1.neg ≠ p.2.neg) → mode ≠ .rdn →
        stepRound f mode ((x :: ps.map prodVal).map some) = (0, 0#5))) := by
  have hbelow' : ∀ n m e, .fin n m e ∈ x :: ps.map prodVal → e0 ≤ e := by
    intro n m e hmem
    rcases List.mem_cons.1 hmem with h | h
    · exact hbelow.1 n m e h.symm
    · obtain ⟨p, hp, hval⟩ := List.mem_map.1 h
      obtain ⟨n1, m1, e1, n2, m2, e2, rfl, hprod⟩ := hps p hp
      rw [prodVal, hprod] at hval
      cases hval
      exact hbelow.2 _ _ _ _ _ _ hp
  have hsum : ((x :: ps.map prodVal).map (termAt e0)).sum = T := by
    rw [List.map_cons, List.sum_cons, List.map_map, hT]
    congr 2
    refine List.map_congr_left fun p hp => ?_
    obtain ⟨n1, m1, e1, n2, m2, e2, rfl, hprod⟩ := hps p hp
    rw [Function.comp, prodVal, hprod]; rfl
  have hall : ((x :: ps.map prodVal).all fun v => v.isZero && v.neg) = true ↔
      (∃ e, x = .fin true 0 e) ∧ ∀ p ∈ ps, (p.1.isZero = true ∨ p.2.isZero = true) ∧ p.1.neg ≠ p.2.neg := by
    rw [List.all_eq_true, List.forall_mem_cons, List.forall_mem_map]
    refine and_congr ?_ (forall₂_congr fun p hp => ?_)
    · cases x <;> simp [Val.isZero, Val.neg, and_comm]
    · obtain ⟨n1, m1, e1, n2, m2, e2, rfl, hprod⟩ := hps p hp
      rw [prodVal, hprod]
      simp [Val.isZero, Val.neg]
  refine ⟨fun n m e hm he h => stepRound_exact hfin hbelow' hm he (h.trans hsum.symm), fun hz => ?_⟩
  rw [stepRound_zero hfin hi hbelow' (hsum.trans hz), ← hall]
  refine ⟨fun h => ?_, fun hnot hmode => ?_⟩
  · have hsign : (mode == .rdn || (x :: ps.map prodVal).all fun v => v.isZero && v.neg) = true := by
      rw [Bool.or_eq_true, beq_iff_eq]; exact h.symm
    rw [hsign]
  · rw [Bool.not_eq_true] at hnot
    rw [hnot, beq_eq_false_iff_ne.2 hmode]; rfl

/-- The value of the step's element (R178). -/
theorem stepRound_cell {f : FFmt} (hi : f.ieee = true) (mode : RM) (x : Val) (ps : List (Val × Val)) :
    StepCell f mode x ps (stepRound f mode (stepTerms x ps)) := by
  have hinvalid {p : Val × Val} (hp : p ∈ ps) (h : p.1.isNaN = true ∨ p.2.isNaN = true ∨ InfZero p.1 p.2) :
      stepRound f mode (stepTerms x ps) = (f.canonNaN, fNV) := by
    rcases or_assoc.2 h with h | h
    · exact stepRound_nan (v := .nan false) (List.mem_cons_of_mem _ (List.mem_map.2 ⟨p, hp, prodOf_nan h⟩)) rfl
    · exact stepRound_none (List.mem_cons_of_mem _ (List.mem_map.2 ⟨p, hp, prodOf_infZero h⟩))
  by_cases hp : ∃ p ∈ ps, p.1.isNaN = true ∨ p.2.isNaN = true ∨ InfZero p.1 p.2
  · obtain ⟨p, hmem, hp'⟩ := hp
    exact ⟨fun _ => hinvalid hmem hp', fun hno => absurd (.inr (.inl ⟨p, hmem, hp'⟩)) hno⟩
  by_cases hx : x.isNaN = true
  · exact ⟨fun _ => stepRound_nan List.mem_cons_self hx, fun hno => absurd (.inl hx) hno⟩
  have hnan {p : Val × Val} (hmem : p ∈ ps) : p.1.isNaN = false ∧ p.2.isNaN = false := by
    constructor <;> by_contra h
    · exact hp ⟨p, hmem, .inl (by simpa using h)⟩
    · exact hp ⟨p, hmem, .inr (.inl (by simpa using h))⟩
  have hz {p : Val × Val} (hmem : p ∈ ps) : ¬ InfZero p.1 p.2 := fun h => hp ⟨p, hmem, .inr (.inr h)⟩
  have hterms : stepTerms x ps = (x :: ps.map prodVal).map some := by
    rw [stepTerms, List.map_cons, List.map_map]
    exact congrArg _ (List.map_congr_left fun p hmem => prodOf_eq (hnan hmem) (hz hmem))
  have hvals : ∀ v ∈ x :: ps.map prodVal, v.isNaN = false := by
    simp only [List.forall_mem_cons, List.forall_mem_map]
    exact ⟨by simpa using hx, fun p hmem => prodVal_isNaN (hnan hmem) (hz hmem)⟩
  have hinf (n : Bool) : .inf n ∈ x :: ps.map prodVal ↔ InfTerm x ps n := by
    rw [List.mem_cons, List.mem_map, InfTerm, eq_comm]
    refine or_congr_right (exists_congr fun p => and_congr_right fun hmem => ?_)
    exact prodVal_inf_iff (hnan hmem) (hz hmem) n
  rw [hterms]
  refine ⟨fun hno => ?_, fun hno => ⟨fun n hn => ?_, fun hfin => ?_⟩⟩
  · rcases hno with h | h | ⟨htrue, hfalse⟩
    · exact absurd h hx
    · exact absurd h hp
    · rw [stepRound_inf hi hvals ((hinf true).2 htrue)]
      exact if_pos ((hinf false).2 hfalse)
  · rw [stepRound_inf hi hvals ((hinf n).2 hn), if_neg]
    intro hother
    rw [hinf] at hother
    cases n
    · exact hno (.inr (.inr ⟨hother, hn⟩))
    · exact hno (.inr (.inr ⟨hn, hother⟩))
  · refine stepCell_finite hi mode (fun v hv => ⟨hvals v hv, ?_⟩) fun p hmem => ?_
    · cases v with
      | inf n => exact absurd ((hinf n).1 hv) (hfin n)
      | nan s | fin n m e => rfl
    · exact prodOf_fin (hnan hmem) fun h => hfin _ (.inr ⟨p, hmem, h, rfl⟩)

end Sys2Proof.Machine
end

section
/-! The accumulator after a step of each shape of Table 09-1 (09 R222). -/

namespace Sys2Proof.Machine

open Sys2Proof.Claims

/-! ### Codes fit their format -/

theorem FFmt.Sane.infCode_lt {f : FFmt} (hf : f.Sane) : f.infCode < f.signBit := by
  rw [hf.signBit_eq]
  exact Nat.lt_add_of_pos_right (Nat.two_pow_pos _)

theorem FFmt.Sane.canonNaN_lt {f : FFmt} (hf : f.Sane) (hi : f.ieee = true) : f.canonNaN < 2 ^ f.bits := by
  have hhalf : 2 ^ (f.frac - 1) < 2 ^ f.frac := Nat.pow_lt_pow_right Nat.one_lt_two (Nat.sub_lt hf.1 Nat.one_pos)
  rw [FFmt.canonNaN, if_pos hi, hf.two_pow_bits, hf.signBit_eq]
  omega

theorem stepRound_lt {f : FFmt} (hf : f.Sane) (hi : f.ieee = true) (mode : RM) (l : List (Option Val)) : (stepRound f mode l).1 < 2 ^ f.bits := by
  unfold stepRound
  dsimp only
  split
  · exact hf.canonNaN_lt hi
  split
  · split
    · exact hf.canonNaN_lt hi
    · rw [roundVal_inf hi]
      exact hf.withSign_lt hf.infCode_lt
  split <;> exact roundFin_lt hf _ _ _ _

/-! ### Integer steps (R179) -/

theorem toInt_ofNat_eq_signed {w x : Nat} (hw : 0 < w) (hx : x < 2 ^ w) : (BitVec.ofNat w x).toInt = signed w x := by
  obtain ⟨k, rfl⟩ := Nat.exists_eq_succ_of_ne_zero hw.ne'
  rw [BitVec.toInt_eq_toNat_cond, BitVec.toNat_ofNat, Nat.mod_eq_of_lt hx, signed, Nat.succ_sub_one, Nat.pow_succ, Nat.mul_comm]
  push_cast
  by_cases h : x < 2 ^ k
  · rw [if_pos h, if_pos (by omega)]
  · rw [if_neg h, if_neg (by omega), Nat.succ_eq_add_one, pow_succ]

theorem toInt_ofInt_wrap (i : Int) : (BitVec.ofInt 32 i).toInt = (i + 2 ^ 31) % 2 ^ 32 - 2 ^ 31 := by
  rw [BitVec.toInt_ofInt, Int.bmod_def]
  split <;> omega

theorem stepInt_eq (sat : Bool) (x : Int) (ps : List Int) : stepInt sat x ps = intCell sat x ps := by
  unfold stepInt intCell
  congr 1
  funext a q
  cases sat
  · exact toInt_ofInt_wrap (a + q)
  · rfl

/-! ### The flags of a step -/

theorem getLsbD_foldl_or {α : Type} {w : Nat} (g : α → BitVec w) (l : List α) (f : BitVec w) (b : Nat) :
    (l.foldl (fun f r => f ||| g r) f).getLsbD b = true ↔ f.getLsbD b = true ∨ ∃ r ∈ l, (g r).getLsbD b = true := by
  induction l generalizing f with
  | nil => simp
  | cons r l ih => rw [List.foldl_cons, ih, BitVec.getLsbD_or, Bool.or_eq_true, List.exists_mem_cons_iff, or_assoc]

/-! ### Elements in row-major order -/

section

variable {n v i j : Nat} (hj : j < n)

include hj

theorem rowMajor_lt (hi : i < v) : n * i + j < v * n :=
  calc n * i + j < n * (i + 1) := by rw [Nat.mul_succ]; omega
    _ ≤ v * n := by rw [Nat.mul_comm]; exact Nat.mul_le_mul_right _ hi

theorem rowMajor_div : (n * i + j) / n = i := by
  rw [Nat.mul_add_div (Nat.zero_lt_of_lt hj), Nat.div_eq_of_lt hj, Nat.add_zero]

theorem rowMajor_mod : (n * i + j) % n = j := by
  rw [Nat.mul_add_mod, Nat.mod_eq_of_lt hj]

end

/-! ### The shapes -/

/-- A shape whose accumulator holds its elements, which are numbers of the formats that a step sums in. -/
structure MShape.Fits (sh : MShape) : Prop where
  cols : 0 < sh.n
  size : 4 * sh.acc.nibbles * (sh.m * sh.n) ≤ 8192
  elems : (∃ f : FFmt, sh.acc.flt = some f ∧ f.Sane ∧ f.ieee = true ∧ f.bits = 4 * sh.acc.nibbles) ∨ sh.acc = .i32 ∧ sh.ty = .i8

theorem MShape.fits_of_flt {sh : MShape} {f : FFmt} (hn : 0 < sh.n) (hsize : 4 * sh.acc.nibbles * (sh.m * sh.n) ≤ 8192)
    (hacc : sh.acc.flt = some f) (hf : f ∈ [fmtF64, fmtF32]) (hbits : f.bits = 4 * sh.acc.nibbles) : sh.Fits := by
  refine ⟨hn, hsize, .inl ⟨f, hacc, sane_of_mem (List.mem_append_left [fmtF16, fmtBf16, fmtE4m3n, fmtE5m2n] hf), ?_, hbits⟩⟩
  simp only [List.mem_cons, List.not_mem_nil, or_false] at hf
  rcases hf with rfl | rfl <;> rfl

section

variable {sh : MShape} (h : sh.Fits) (mode : RM) (sat : Bool) (A B : Nat) (acc : BitVec 8192) (i j : Nat)

include h

theorem stepElem_lt : (stepElem sh mode sat A B acc i j).1 < 2 ^ (4 * sh.acc.nibbles) := by
  rcases h.elems with ⟨f, hflt, hsane, hi, hbits⟩ | ⟨hacc, -⟩
  · simp only [stepElem, hflt]
    exact hbits ▸ stepRound_lt hsane hi _ _
  · rw [hacc]
    simp only [stepElem, hacc, Ty.flt]
    exact BitVec.isLt _

theorem stepElem_flt {f : FFmt} (hflt : sh.acc.flt = some f) :
    StepCell f mode (f.decode (slice (4 * sh.acc.nibbles) acc.toNat (sh.n * i + j))) ((List.range sh.k).map fun k =>
      (sh.ty.val (slice (4 * sh.ty.nibbles) A (sh.k * i + k)), sh.ty.val (slice (4 * sh.ty.nibbles) B (sh.n * k + j))))
      (stepElem sh mode sat A B acc i j) := by
  have hi : f.ieee = true := by
    rcases h.elems with ⟨g, hg, -, hi, -⟩ | ⟨hacc, -⟩
    · rw [hflt] at hg
      cases hg
      exact hi
    · rw [hacc] at hflt
      cases hflt
  have hstep := stepRound_cell hi mode (f.decode (slice (4 * sh.acc.nibbles) acc.toNat (sh.n * i + j))) ((List.range sh.k).map fun k =>
      (sh.ty.val (slice (4 * sh.ty.nibbles) A (sh.k * i + k)), sh.ty.val (slice (4 * sh.ty.nibbles) B (sh.n * k + j))))
  rw [stepTerms, List.map_map] at hstep
  simp only [stepElem, hflt, mmaProduct_eq]
  exact hstep

theorem stepElem_int (hflt : sh.acc.flt = none) : stepElem sh mode sat A B acc i j =
    (codeInt 32 (intCell sat (signed 32 (slice 32 acc.toNat (sh.n * i + j))) ((List.range sh.k).map fun k =>
      signed 8 (slice 8 A (sh.k * i + k)) * signed 8 (slice 8 B (sh.n * k + j)))), 0#5) := by
  rcases h.elems with ⟨f, hf, -, -, -⟩ | ⟨hacc, hty⟩
  · rw [hflt] at hf
    cases hf
  · have hslice (w x i : Nat) : slice w x i < 2 ^ w := Nat.mod_lt _ (Nat.two_pow_pos w)
    have hsigned {w : Nat} (hw : 0 < w) (x i : Nat) : (BitVec.ofNat w (elAt w x i)).toInt = signed w (slice w x i) :=
      toInt_ofNat_eq_signed hw (hslice w x i)
    simp only [stepElem, hacc, hty, Ty.flt, Ty.nibbles, Nat.reduceMul, wrapInt_eq, stepInt_eq, hsigned, Nat.ofNat_pos]

theorem stepAcc_slice {v : Nat} (hv : v ≤ sh.m) (q : Nat) :
    slice (4 * sh.acc.nibbles) (stepAcc sh mode sat v A B acc).1.toNat q =
      if q < v * sh.n then (stepElem sh mode sat A B acc (q / sh.n) (q % sh.n)).1 else slice (4 * sh.acc.nibbles) acc.toNat q := by
  have hsize : 4 * sh.acc.nibbles * (v * sh.n) ≤ 8192 := (Nat.mul_le_mul_left _ (Nat.mul_le_mul_right _ hv)).trans h.size
  refine (elAt_setLow (4 * sh.acc.nibbles) _ acc (by simpa using hsize) q).trans ?_
  simp only [List.length_map, List.length_range, List.getElem_map, List.getElem_range, Nat.mod_eq_of_lt (stepElem_lt h _ _ _ _ _ _ _)]
  rfl

theorem stepAcc_flags (v b : Nat) : (stepAcc sh mode sat v A B acc).2.getLsbD b = true ↔
    ∃ i j, i < v ∧ j < sh.n ∧ (stepElem sh mode sat A B acc i j).2.getLsbD b = true := by
  refine (getLsbD_foldl_or Prod.snd _ _ b).trans ?_
  simp only [BitVec.getLsbD_zero, Bool.false_eq_true, false_or, List.mem_map, List.mem_range, exists_exists_and_eq_and]
  constructor
  · rintro ⟨q, hq, hb⟩
    exact ⟨_, _, (Nat.div_lt_iff_lt_mul h.cols).2 hq, Nat.mod_lt _ h.cols, hb⟩
  · rintro ⟨i, j, hi, hj, hb⟩
    exact ⟨sh.n * i + j, rowMajor_lt hj hi, by rwa [rowMajor_div hj, rowMajor_mod hj]⟩

theorem stepAcc_stepIs {v : Nat} (hv : v ≤ sh.m) : StepIs sh mode sat v A B acc (stepAcc sh mode sat v A B acc) := by
  refine ⟨_, _, stepElem sh mode sat A B acc, rfl, rfl, fun i j hi hj => ⟨?_, ?_, ?_⟩, fun i hi => ?_, stepAcc_flags h mode sat A B acc v⟩
  · rw [stepAcc_slice h mode sat A B acc hv, if_pos (rowMajor_lt hj hi), rowMajor_div hj, rowMajor_mod hj]
  · exact fun f hflt => stepElem_flt h mode sat A B acc i j hflt
  · exact stepElem_int h mode sat A B acc i j
  · rw [stepAcc_slice h mode sat A B acc hv, if_neg (not_lt.2 hi)]

end

/-- The shapes of Table 09-1, and that of MMV (R233). -/
def stepShapes : List MShape :=
  [⟨8, 4, 8, .f64, .f64⟩, ⟨16, 4, 16, .f32, .f32⟩, ⟨16, 16, 16, .bf16, .f32⟩, ⟨16, 16, 16, .f16, .f32⟩, ⟨16, 32, 16, .e4m3n, .f32⟩,
    ⟨16, 32, 16, .e5m2n, .f32⟩, ⟨16, 32, 16, .i8, .i32⟩, ⟨8, 32, 16, .bf16, .f32⟩]

theorem MShape.fits_of_mem {sh : MShape} (h : sh ∈ stepShapes) : sh.Fits := by
  have hf64 (m k n : Nat) (ty : Ty) (hn : 0 < n) (hsize : 64 * (m * n) ≤ 8192) : (MShape.mk m k n ty .f64).Fits :=
    fits_of_flt (f := fmtF64) hn hsize rfl (by simp) rfl
  have hf32 (m k n : Nat) (ty : Ty) (hn : 0 < n) (hsize : 32 * (m * n) ≤ 8192) : (MShape.mk m k n ty .f32).Fits :=
    fits_of_flt (f := fmtF32) hn hsize rfl (by simp) rfl
  simp only [stepShapes, List.mem_cons, List.not_mem_nil, or_false] at h
  rcases h with rfl | rfl | rfl | rfl | rfl | rfl | rfl | rfl
  · exact hf64 _ _ _ _ (by decide) (by decide)
  · exact hf32 _ _ _ _ (by decide) (by decide)
  · exact hf32 _ _ _ _ (by decide) (by decide)
  · exact hf32 _ _ _ _ (by decide) (by decide)
  · exact hf32 _ _ _ _ (by decide) (by decide)
  · exact hf32 _ _ _ _ (by decide) (by decide)
  · exact ⟨by decide, by decide, .inr ⟨rfl, rfl⟩⟩
  · exact hf32 _ _ _ _ (by decide) (by decide)

/-- The format field selects the shape (Table 09-1); its code 7 is reserved. -/
theorem pShape_listed (p : Pfx) : [MShape.mk 8 4 8 .f64 .f64, ⟨16, 4, 16, .f32, .f32⟩, ⟨16, 16, 16, .bf16, .f32⟩, ⟨16, 16, 16, .f16, .f32⟩,
    ⟨16, 32, 16, .e4m3n, .f32⟩, ⟨16, 32, 16, .e5m2n, .f32⟩, ⟨16, 32, 16, .i8, .i32⟩][p.fx53.toNat]? = some (pShape p) ∨ p.fx53 = 7#3 := by
  unfold pShape
  generalize p.fx53 = x
  revert x
  decide

end Sys2Proof.Machine
end

section
/-! The matrix unit's banks, its retirement and the string ring (09 R222 to R229). -/

namespace Sys2Proof.Machine

open Sys2Proof.Claims

/-! ### Banks of a cell -/

@[simp] theorem Cell.bank_setBank (x : Cell) (b : Bool) (k : Bank) : (x.setBank b k).bank b = k := by cases b <;> rfl
@[simp] theorem Cell.bank_setBank_not (x : Cell) (b : Bool) (k : Bank) : (x.setBank b k).bank (!b) = x.bank (!b) := by cases b <;> rfl
@[simp] theorem Cell.latch_setBank (x : Cell) (b : Bool) (k : Bank) : (x.setBank b k).latch = x.latch := by cases b <;> rfl
@[simp] theorem Cell.slots_setBank (x : Cell) (b : Bool) (k : Bank) : (x.setBank b k).slots = x.slots := by cases b <;> rfl

theorem Bank.at_put (k : Bank) {d : Nat} (x : BitVec 8192) (h : d < 4) : (k.put d x).at d = x := vget_vset_self _ _ _ _ h
theorem Bank.at_put_ne (k : Bank) {d j : Nat} (x : BitVec 8192) (h : j ≠ d) : (k.put d x).at j = k.at j := vget_vset_ne _ _ _ h

theorem Bank.free_at (d : Nat) : Bank.free.at d = 0#8192 := by
  simp only [Bank.at, Bank.free, vget, Vector.getElem?_replicate]
  split <;> rfl

/-! ### The claim of a bank (R228, R229) -/

/-- A context whose identity owns a bank of the cell uses it. -/
theorem State.claimBank_owned {s : State} {b : Bool} (h : s.myCell.ownBank s.ctx.ident = some b) :
    s.claimBank = .ok (b, s.setMyCell { s.myCell with lru := !b }) := by
  simp only [State.claimBank, h]

/-- One that owns none takes the free bank 0. -/
theorem State.claimBank_free {s : State} (hown : s.myCell.ownBank s.ctx.ident = none) (hfar : s.bankElsewhere s.ctx.ident = none)
    (hspilt : s.isSpilt s.asid s.ctx.ident = false) (hfree : s.myCell.bank0.owner = 0#64) :
    s.claimBank = .ok (false, s.refill false s.ctx.ident none) := by
  have hbank : (s.myCell.bank false).owner = 0#64 := hfree
  simp [State.claimBank, hown, hfar, hspilt, hfree, hbank]

/-! ### The retirement of a step (R222) -/

/-- The acting cell once the result of the step `r` is written. -/
def writtenCell (s : State) (r : MRun) : Cell :=
  { s.myCell.setBank r.bank ((s.myCell.bank r.bank).put r.d r.result) with mrun := none }

/-- Once the step's flags have joined its context's, too. -/
def retiredCell (s : State) (r : MRun) : Cell :=
  (writtenCell s r).setSlot r.slot.toNat (((writtenCell s r).slot r.slot.toNat).raise r.flags)

/-- The state after the step, but for the handoff of a ring step. -/
def retired (s : State) (r : MRun) : State :=
  (s.setMyCell (writtenCell s r)).setCtxAt s.cid r.slot.toNat
    (((s.setMyCell (writtenCell s r)).ctxAt s.cid r.slot.toNat).raise r.flags)

section

variable {s : State} {r : MRun}

theorem execMatrixStepRetire_eq (h : s.myCell.mrun = some r) :
    execMatrixStepRetire s = .next (if r.handoff then (retired s r).handoff s.cid else retired s r) := by
  rw [execMatrixStepRetire, h]
  rfl

theorem retired_myCell : (retired s r).myCell = retiredCell s r := by
  have hcell : (s.setMyCell (writtenCell s r)).cell s.cid = writtenCell s r := s.myCell_setMyCell _
  rw [retiredCell, ← hcell]
  exact (State.cell_setCtxAt _ s.cid _ _ s.cid).trans (if_pos rfl)

theorem retired_sameModule : SameModule s (retired s r) :=
  (sameModule_setMyCell s (writtenCell s r)).setMyCell rfl _

theorem retiredCell_latch : (retiredCell s r).latch = s.myCell.latch := Cell.latch_setBank _ _ _

theorem retiredCell_bank (b : Bool) :
    (retiredCell s r).bank b = (s.myCell.setBank r.bank ((s.myCell.bank r.bank).put r.d r.result)).bank b := rfl

theorem retiredCell_slot (h : r.slot.toNat ≤ 10) : (retiredCell s r).slot r.slot.toNat = (s.ctxAt s.cid r.slot.toNat).raise r.flags := by
  have hslots : (writtenCell s r).slots = s.myCell.slots := Cell.slots_setBank _ _ _
  rw [retiredCell, Cell.slot_setSlot_self _ _ _ h, Cell.slot, hslots]
  rfl

/-- What a cell with the retired one's units but for the latch shows of the step. -/
theorem retired_result {t : State} {l : Latch} (ht : t.myCell = { retiredCell s r with latch := l }) (hcid : t.cid = s.cid) (hd : r.d < 4)
    (hslot : r.slot.toNat ≤ 10) : t.myCell.mrun = none ∧ (t.myCell.bank r.bank).at r.d = r.result ∧
      (t.ctxAt s.cid r.slot.toNat).fcsr = (s.ctxAt s.cid r.slot.toNat).fcsr ||| (r.flags ++ 0#3) := by
  refine ⟨ht ▸ rfl, ?_, ?_⟩
  · rw [ht]
    show ((retiredCell s r).bank r.bank).at r.d = r.result
    rw [retiredCell_bank, Cell.bank_setBank, Bank.at_put _ _ hd]
  · rw [← hcid]
    show (t.myCell.slot r.slot.toNat).fcsr = _
    rw [ht, hcid]
    exact congrArg Ctx.fcsr (retiredCell_slot hslot)

end

/-! ### Handoffs (R223 to R225) -/

/-- The next cell of the ring is another one. -/
theorem ringNext_ne (c : Nat) : ringNext c ≠ c := by unfold ringNext; omega

section

variable {s : State}

theorem State.handoff_last (h : s.myCell.latch.chops = 15#4) : s.handoff s.cid = s := if_pos h

theorem State.handoff_sent (h : s.myCell.latch.chops ≠ 15#4) (hnext : (s.cell (ringNext s.cid)).latch.infull = false)
    (hflight : s.myCell.latch.flight = []) : s.handoff s.cid =
      s.setMyCell { s.myCell with latch := { s.myCell.latch with flight := [(s.myCell.latch.cur, s.myCell.latch.chops + 1#4)] } } := by
  refine (if_neg h).trans (if_neg ?_)
  rw [hnext]
  show ¬ (!s.myCell.latch.flight.isEmpty) = true
  rw [hflight]
  exact Bool.false_ne_true

theorem State.handoff_waits (h : s.myCell.latch.chops ≠ 15#4)
    (hbusy : (s.cell (ringNext s.cid)).latch.infull = true ∨ s.myCell.latch.flight ≠ []) :
    s.handoff s.cid = s.setMyCell { s.myCell with latch := { s.myCell.latch with pending := true } } := by
  refine (if_neg h).trans (if_pos ?_)
  rw [Bool.or_eq_true]
  exact hbusy.imp_right fun hne => by
    show (!s.myCell.latch.flight.isEmpty) = true
    simpa using hne

/-- A handoff changes the latch of its cell alone. -/
theorem State.handoff_cases (s : State) : s.handoff s.cid = s ∨ ∃ l, s.handoff s.cid = s.setMyCell { s.myCell with latch := l } := by
  by_cases hlast : s.myCell.latch.chops = 15#4
  · exact .inl (State.handoff_last hlast)
  by_cases hbusy : (s.cell (ringNext s.cid)).latch.infull = true ∨ s.myCell.latch.flight ≠ []
  · exact .inr ⟨_, State.handoff_waits hlast hbusy⟩
  · obtain ⟨hnext, hflight⟩ := not_or.1 hbusy
    exact .inr ⟨_, State.handoff_sent hlast (by simpa using hnext) (by simpa using hflight)⟩

theorem State.handoff_sel (s : State) : (s.handoff s.cid).sel = s.sel := by
  rcases s.handoff_cases with h | ⟨l, h⟩ <;> rw [h]
  rfl

theorem State.handoff_myCell (s : State) : ∃ l, (s.handoff s.cid).myCell = { s.myCell with latch := l } := by
  rcases s.handoff_cases with h | ⟨l, h⟩ <;> rw [h]
  · exact ⟨_, rfl⟩
  · exact ⟨l, s.myCell_setMyCell _⟩

theorem SameModule.handoff {t : State} (h : SameModule s t) (hcid : t.cid = s.cid) : SameModule s (t.handoff t.cid) := by
  rcases t.handoff_cases with he | ⟨l, he⟩ <;> rw [he]
  · exact h
  · exact h.setMyCell hcid _

/-- The oldest handoff on its way lands in the next cell's IN. -/
def landed (s : State) (b : BitVec 4096) (h : BitVec 4) (rest : List (BitVec 4096 × BitVec 4)) : State :=
  let t := s.setMyCell { s.myCell with latch := { s.myCell.latch with flight := rest } }
  t.setCell (ringNext s.cid) { t.cell (ringNext s.cid) with
    latch := { (t.cell (ringNext s.cid)).latch with inn := b, ihops := h, infull := true } }

theorem execHandoffLand_first {b : BitVec 4096} {h : BitVec 4} {rest : List (BitVec 4096 × BitVec 4)}
    (hflight : s.myCell.latch.flight = (b, h) :: rest) (hempty : (s.cell (ringNext s.cid)).latch.infull = false)
    (hrun : s.myTile.run ≠ .stopped) : execHandoffLand s = .next (landed s b h rest) := by
  have hgo : (s.myTile.run == .stopped || (s.cell (ringNext s.cid)).latch.infull) = false := by
    rw [hempty, Bool.or_false, beq_eq_false_iff_ne]
    exact hrun
  simp only [execHandoffLand, hgo, hflight, Bool.false_eq_true, if_false]
  rfl

end

end Sys2Proof.Machine
end

section
/-! MMA and MMV at issue (09 R232, R233). -/

namespace Sys2Proof.Machine

open Sys2Proof.Claims

/-- A matrix instruction that starts does what its meaning does on the charged state. -/
theorem issue_matrix {i : Instr} {ready : State → Bool} {n : Nat} {body : State → Res} {s t : State} (h : s.issues i .plain n 0 = true)
    (hr : ready s = true) (hg : readRegions i = []) (hb : body (s.charged n 0) = .ok t) : issue i (matrix ready n body) s = .next (t.done i) :=
  issue_ok (sh := matrix ready n body) h (.inl rfl) rfl hr rfl hg (congrArg Res.unissued hb)

/-- One that accesses memory goes on once it may. -/
theorem matMem_ready {p : Pfx} {u v : State} (k : State → Res) (h : MemReady p u v) : matMem p u k = k v := by
  obtain ⟨rfl, hheld, hrel⟩ := h
  rw [matMem, hheld]
  exact withRelease_done k hrel

theorem addr16_ready {p : Pfx} {u v : State} (a : BitVec 4) (h : MemReady p u v) :
    addr16 p a v = u.rs (p.an a) + BitVec.ofInt 64 (16 * p.imm0) := by
  obtain ⟨rfl, -, -⟩ := h
  exact congrArg (· + immWord (16 * p.imm0)) ((released_kept p u).rs_eq _)

/-- An accumulator in no uncorrectable error is read. -/
theorem readAcc_good {w : State} {b : Bool} {d : Nat} (k : BitVec 8192 → State → Res) (h : (w.myCell.bank b).bad.getLsbD d = false) :
    readAcc w b d k = k ((w.myCell.bank b).at d) (w.meetFlaw w.tid (.acc (8 * w.cid + (if b then 4 else 0) + d))) :=
  if_neg (by rw [h]; exact Bool.false_ne_true)

/-- A ring step takes IN as its B; one that holds keeps CUR. -/
def takeIn (ring : Bool) (w : State) : State := if ring then w.setMyCell { w.myCell with latch := w.myCell.latch.take } else w

/-- MMA with its operands ready starts its step. -/
theorem mma_starts {i : Instr} {ring : Bool} {p : Pfx} {d a : BitVec 4} {s v y : State} {A n : Nat} {b : Bool} {x : BitVec 8192} {va : Word}
    (h : s.issues i .plain 64 0 = true) (hready : (if ring then ringReady else accReady) s = true) (hg : readRegions i = [])
    (hmem : MemReady p (s.charged 64 0) v) (hva : va = (s.charged 64 0).rs (p.an a) + BitVec.ofInt 64 (16 * p.imm0))
    (hn : n = validRows (s.charged 64 0) (pShape p).m * (pShape p).k * (pShape p).ty.bytes) (hA : matRead v va n = .ok A)
    (hacc : AccRead v (p.dn d) b x y) :
    mma i ring p d a s = .next ((withAcquire p ((takeIn ring (y.matTouch va n)).startStep b (p.dn d) (stepAcc (pShape p)
      (roundMode p (takeIn ring (y.matTouch va n))) (satOn p) (validRows (s.charged 64 0) (pShape p).m) A
      (takeIn ring (y.matTouch va n)).myCell.latch.cur.toNat x) ring)).done i) := by
  obtain ⟨w, hclaim, hgood, rfl, rfl⟩ := hacc
  subst hva hn
  refine issue_matrix h hready hg ?_
  simp only [matMem_ready _ hmem, addr16_ready a hmem, hA, hclaim, readAcc_good _ hgood]
  rfl

end Sys2Proof.Machine

namespace Sys2Proof.Proofs

open Sys2Proof Sys2Proof.Machine Sys2Proof.Claims

/-- Settles O31: a step's elements are sums of products rounded once, a context uses the bank it owns or takes a free one, a step that
retires writes its accumulator and hands its B on, and a handoff lands in the next cell's empty IN. -/
theorem matrixResults : Obligations.MatrixResults := by
  unfold Obligations.MatrixResults
  refine ⟨⟨?step, pShape_listed, fun _ _ => rfl⟩, ⟨?hold, ?ring, ?mmv⟩, ⟨?owned, ?free⟩, ?retire, ?retireRing, ?land⟩
  case step =>
    intro sh hsh mode sat v A B acc hv
    exact stepAcc_stepIs (MShape.fits_of_mem hsh) mode sat A B acc hv
  case hold =>
    rintro p d a s u v A b x y va n w rfl h hready hmem hva hn hA hacc rfl
    exact mma_starts (ring := false) h hready rfl hmem hva hn hA hacc
  case ring =>
    rintro p d a s u v A b x y va n w r rfl h hready hmem hva hn hA hacc rfl rfl
    exact mma_starts (ring := true) h hready rfl hmem hva hn hA hacc
  case mmv =>
    rintro p d a s u st W st2 b x y r rfl h hready hdir hst hpop ⟨z, hclaim, hgood, rfl, rfl⟩ rfl
    have hown : mmvOwn (.mmv p d a) s = none := by rw [mmvOwn, hdir]; rfl
    refine issue_ok (sh := { matrix mmvReady 64 _ with own := mmvOwn (.mmv p d a) }) h (.inl rfl) hown hready rfl rfl ?_
    simp only [matrix, Shape.unissued, hst, hpop, hclaim, readAcc_good _ hgood]
    rfl
  case owned =>
    intro s b h
    exact ⟨_, State.claimBank_owned h, rfl, by rw [s.myCell_setMyCell]; cases b <;> rfl, rfl⟩
  case free =>
    intro s hown hfar hspilt hfree
    have hcell : (s.refill false s.ctx.ident none).myCell =
        { s.myCell.setBank false ⟨s.ctx.ident, Bank.free.acc, 0#4⟩ with lru := true } := State.myCell_setMyCell _ _
    refine ⟨_, State.claimBank_free hown hfar hspilt hfree, rfl, ?_, fun d => ?_, ?_, ?_⟩
    all_goals rw [hcell]
    · rfl
    · exact Bank.free_at d
    · rfl
    · rfl
  case retire =>
    intro s r hrun hd hslot hno
    have hexec := execMatrixStepRetire_eq hrun
    rw [if_neg (by rw [hno]; exact Bool.false_ne_true)] at hexec
    obtain ⟨hmrun, hres, hflags⟩ := retired_result (retired_myCell (s := s) (r := r)) rfl hd hslot
    refine ⟨_, hexec, hmrun, hres, hflags, fun k _ hk => ?_, ?_, retired_sameModule⟩
    · rw [retired_myCell, retiredCell_bank, Cell.bank_setBank, Bank.at_put_ne _ _ hk]
    · rw [retired_myCell, retiredCell_bank, Cell.bank_setBank_not]
  case retireRing =>
    rintro s r l hrun hd hslot hhandoff rfl
    have hexec := execMatrixStepRetire_eq hrun
    rw [if_pos hhandoff] at hexec
    have hlatch : (retired s r).myCell.latch = s.myCell.latch := by rw [retired_myCell, retiredCell_latch]
    have hnext : (retired s r).cell (ringNext s.cid) = s.cell (ringNext s.cid) := retired_sameModule.2.1 _ (ringNext_ne _)
    obtain ⟨_, hcell⟩ := (retired s r).handoff_myCell
    rw [retired_myCell] at hcell
    have hcid : ((retired s r).handoff s.cid).cid = s.cid := congrArg (fun x : Sel => x.cell.toNat) (retired s r).handoff_sel
    obtain ⟨hmrun, hres, hflags⟩ := retired_result hcell hcid hd hslot
    refine ⟨_, hexec, hmrun, hres, hflags, retired_sameModule.handoff rfl, ?_, ?_, ?_⟩
    · intro hlast
      rw [← hlatch] at hlast ⊢
      exact congrArg (fun t : State => t.myCell.latch) (State.handoff_last hlast)
    · intro hne hempty hflight
      rw [← hlatch] at hne hflight ⊢
      rw [← hnext] at hempty
      exact (congrArg (fun t : State => t.myCell.latch) (State.handoff_sent hne hempty hflight)).trans
        (congrArg Cell.latch (State.myCell_setMyCell _ _))
    · intro hne hbusy
      rw [← hlatch] at hne hbusy ⊢
      rw [← hnext] at hbusy
      exact (congrArg (fun t : State => t.myCell.latch) (State.handoff_waits hne hbusy)).trans
        (congrArg Cell.latch (State.myCell_setMyCell _ _))
  case land =>
    intro s b h rest hflight hempty hne hrun
    have hexec := execHandoffLand_first hflight hempty hrun
    have hnext : (landed s b h rest).cell (ringNext s.cid) = _ := (State.cell_setCell _ _ _ _).trans (if_pos rfl)
    have hmine : (landed s b h rest).myCell = { s.myCell with latch := { s.myCell.latch with flight := rest } } :=
      (State.cell_setCell _ _ _ _).trans ((if_neg hne.symm).trans (State.myCell_setMyCell _ _))
    refine ⟨_, hexec, ?_, ?_, ?_, ?_, rfl⟩
    · rw [hnext]
    · rw [hnext]
    · rw [hnext]
    · rw [hmine]

end Sys2Proof.Proofs
end

section
/-! Lanes of the vector registers (08 R194, R195, 02 R44): what a register built lane by lane, a merged register and an element of one hold. -/

namespace Sys2Proof.Machine

open Sys2Proof.Claims

/-! ### Register files built place by place -/

theorem vget_foldl_vset {α : Type} {n : Nat} (f : Nat → α) (e : α) (v : Vector α n) {i : Nat} (hi : i < n) (k : Nat) :
    vget ((List.range k).foldl (fun v i => vset v i (f i)) v) i e = if i < k then f i else vget v i e := by
  induction k with
  | zero => rfl
  | succ k ih =>
    rw [List.range_succ, List.foldl_append, List.foldl_cons, List.foldl_nil]
    by_cases hik : i = k
    · subst hik
      rw [vget_vset_self _ _ _ _ hi, if_pos (Nat.lt_succ_self i)]
    · rw [vget_vset_ne _ _ _ hik, ih]
      simp only [show i < k + 1 ↔ i < k by omega]

theorem vget_mkVec {α : Type} {n : Nat} (d e : α) (f : Nat → α) {i : Nat} (hi : i < n) : vget (mkVec d f : Vector α n) i e = f i := by
  rw [mkVec, vget_foldl_vset f e _ hi, if_pos hi]

theorem lane_mkLanes (f : Nat → BitVec 32) {i : Nat} (hi : i < 32) : lane (mkLanes f) i = f i := vget_mkVec _ _ f hi

theorem lane_mergeLanes (old new : Lanes) (mask : BitVec 32) {i : Nat} (hi : i < 32) :
    lane (mergeLanes old new mask) i = if mask.getLsbD i then lane new i else lane old i := lane_mkLanes _ hi

/-! ### A write of a vector register -/

theorem State.myCell_wv (s : State) (n : Nat) (x : Lanes) : (s.wv n x).myCell = { s.myCell with v := vset s.myCell.v n x } :=
  s.myCell_setMyCell _
theorem State.rv_wv_self (s : State) {n : Nat} (x : Lanes) (h : n < 32) : (s.wv n x).rv n = x := by
  rw [State.rv, State.myCell_wv]
  exact vget_vset_self _ _ _ _ h
theorem State.rv_wv_ne (s : State) {n k : Nat} (x : Lanes) (h : k ≠ n) : (s.wv n x).rv k = s.rv k := by
  rw [State.rv, State.myCell_wv]
  exact vget_vset_ne _ _ _ h
theorem State.rg_wv (s : State) (n k : Nat) (x : Lanes) : (s.wv n x).rg k = s.rg k := by rw [State.rg, State.myCell_wv, State.rg]

theorem State.ctxAt_setMyCell {s : State} {x : Cell} (h : x.slots = s.myCell.slots) (n : Nat) :
    (s.setMyCell x).ctxAt s.cid n = s.ctxAt s.cid n := by
  show (s.setMyCell x).myCell.slot n = s.myCell.slot n
  rw [s.myCell_setMyCell, Cell.slot, h, Cell.slot]

/-! ### Plain registers (R195) -/

theorem putLanes_plain {s : State} {dst : Nat} (r : VRes) (h : s.binding dst = none) :
    putLanes dst r s = .ok (s.wv dst (mergeLanes (s.rv dst) r.new r.mask), 0#5) := by
  rw [putLanes, h]

/-- Nothing is popped where no source is bound. -/
theorem popAll_plain {s : State} {srcs : List Nat} (h : ∀ n ∈ srcs, s.binding n = none) : popAll s srcs = .ok [] := by
  induction srcs with
  | nil => rfl
  | cons n ns ih =>
    rw [List.forall_mem_cons] at h
    simp [popAll, ih h.2, h.1]

/-! ### Elements of a lane (R194) -/

/-- An element of a whole-lane type is its lane. -/
theorem subEl_whole {T : VTy} (hw : T.w = 32) (x : BitVec 32) : subEl T x 0 = x.toNat := by
  rw [subEl, hw, Nat.mul_zero, pow_zero, Nat.div_one, Nat.mod_eq_of_lt x.isLt]

theorem lane_lanesOp {T : VTy} {mask : BitVec 32} (f : Nat → Nat → Nat → Nat × FFlags) (x y z : Lanes) {i : Nat} (hi : i < 32)
    (hm : mask.getLsbD i = true) : lane (lanesOp T mask f x y z).new i = (laneOp T f (lane x i) (lane y i) (lane z i)).1 := by
  simp only [lanesOp]
  rw [lane_mkLanes _ hi, if_pos hm]

theorem laneOp_whole {T : VTy} (hn : T.n = 1) (hw : T.w = 32) (f : Nat → Nat → Nat → Nat × FFlags) (x y z : BitVec 32) :
    (laneOp T f x y z).1 = BitVec.ofNat 32 (f x.toNat y.toNat z.toNat).1 := by
  simp only [laneOp, hn, List.range_one, List.map_cons, List.map_nil, subEl_whole hw, packEls, List.foldr_cons, List.foldr_nil, hw,
    Nat.zero_mul, Nat.add_zero]
  apply BitVec.eq_of_toNat_eq
  simp

/-- An unsigned integer result wraps modulo the width, with no flag (R209). -/
theorem arith2_add_n32 {p : Pfx} (hT : pVty p = ⟨1, 32, .n32⟩) (hsat : satOn p = false) (u : State) (x y : Nat) :
    arith2 p fadd (fun x y => x + y) u x y = ((x + y) % 2 ^ 32, 0#5) := by
  have hint : (Ty.n32).int = some (false, 32) := rfl
  have hflt : (Ty.n32).flt = none := rfl
  simp only [arith2, hT, hflt, intResult, hsat, Bool.false_and, Bool.false_eq_true, if_false, elInt, hint, wrapInt_eq, codeInt]
  norm_cast

end Sys2Proof.Machine

namespace Sys2Proof.Proofs

open Sys2Proof Sys2Proof.Machine Sys2Proof.Claims

/-- Settles O27: a result is merged into the register under its mask, and a source that is not bound is read as it stands. -/
theorem vectorLanes : Obligations.VectorLanes := by
  unfold Obligations.VectorLanes
  refine ⟨fun s dst r hdst hplain => ⟨_, putLanes_plain r hplain, fun i hi => ?lanes, fun k hk => s.rv_wv_ne _ hk, fun k => s.rg_wv _ k _,
    sameModule_setMyCell s _, State.ctxAt_setMyCell rfl⟩, fun s srcs hplain => ⟨popAll_plain hplain, fun _ => rfl⟩,
    fun p u x y i hi hT hsat hm => ?add⟩
  case lanes => rw [s.rv_wv_self _ hdst, lane_mergeLanes _ _ _ hi]
  case add =>
    rw [lane_lanesOp _ _ _ _ hi hm, laneOp_whole (by rw [hT]) (by rw [hT]), arith2_add_n32 hT hsat]
    apply BitVec.eq_of_toNat_eq
    simp

end Sys2Proof.Proofs
end

section
/-! The issue of an instruction on vector registers alone (08 R196, R205, R208): its shape, its turn in the queue, and what it puts where. -/

namespace Sys2Proof.Machine

open Sys2Proof.Claims

/-! ### The shape of the instruction -/

/-- A VCVT has the part that its immediate names (R215). -/
def PartExists : Instr → Prop
  | .vcvt p _ _ g => p.immW.toNat % 4 < vcvtParts (pVty p) (vtyOf g.toNat)
  | _ => True

/-- `sh` is the shape of an instruction on vector registers: it is charged 1, traps for misuse alone and does `vwrite`. -/
structure FormShape (i : Instr) (F : VForm) (sh : Shape) : Prop where
  exec_eq : ∀ s, exec i s = issue i sh s
  gm : sh.gm = guardMode i
  kernel : sh.kernel = false
  own : ∀ s, PartExists i → misuse F.srcs F.vdst s = false → sh.own s = none
  ready : sh.ready = State.vroom
  early : ∀ s, sh.early s = none
  queues : sh.queues = false
  cost : ∀ s, sh.cost s = (1, 0)
  body : sh.body = vwrite i F
  regions : readRegions i = []

/-- A check of the dispatch, row by row. -/
theorem exec_formShape {i : Instr} {F : VForm} (h : vform i = some F) : ∃ sh, FormShape i F sh := by
  cases i <;> cases h
  case vcvt p d a g =>
    exact ⟨_, fun _ => rfl, rfl, rfl, fun _ hpart hmisuse => (if_neg (Nat.not_le.2 hpart)).trans (misuseErr_none _ hmisuse),
      rfl, fun _ => rfl, rfl, fun _ => rfl, rfl, rfl⟩
  all_goals
    exact ⟨_, fun _ => rfl, rfl, rfl, fun _ _ hmisuse => misuseErr_none _ hmisuse, rfl, fun _ => rfl, rfl, fun _ => rfl, rfl, rfl⟩

/-! ### Its meaning on the charged state -/

section

variable {i : Instr} {F : VForm} {s u : State} (hF : vform i = some F) (hu : u = s.charged 1 0) (h : s.issues i (guardMode i) 1 0 = true)
  (hroom : s.vroom = true) (hpart : PartExists i) (hmisuse : misuse F.srcs F.vdst s = false)

include hF hu h hroom hpart hmisuse

/-- Issue() runs the meaning on the charged state, and nothing is captured. -/
theorem exec_form : exec i s = .next (finish i.ilen s u 1 0 (vwrite i F u)) := by
  obtain ⟨sh, hsh⟩ := exec_formShape hF
  have hcap : s.capture i = none := by cases i <;> cases hF <;> rfl
  rw [hsh.exec_eq, issue_eq (hsh.gm ▸ h) (.inl hsh.kernel) (hsh.own s hpart hmisuse) (by rw [hsh.ready]; exact hroom) (hsh.cost s)
    hsh.regions (hsh.early s) hsh.queues, keepCap_none hcap, hsh.body, hu]

theorem exec_form_ok {t : State} (hbody : vwrite i F u = .ok t) : exec i s = .next (t.done i) := by
  rw [exec_form hF hu h hroom hpart hmisuse, hbody]; rfl

end

/-- An instruction whose turn has come takes its units, puts its result and joins the queue with its flags. -/
theorem vwrite_turn {i : Instr} {F : VForm} {u t : State} {vs : List (Nat × Lanes)} {fl : FFlags}
    (hmisuse : misuse F.srcs F.vdst u = false) (hturn : VecTurn u F.srcs F.vdst.toList) (hpop : popAll u F.srcs = .ok vs)
    (hput : F.put (F.f (vsrc vs u) u) u = .ok (t, fl)) :
    vwrite i F u = .ok ((takePops vs t).enqueueV (F.whole || u.onStream (F.srcs ++ F.vdst.toList)) ((F.f (vsrc vs u) u).flags ||| fl)) := by
  have hnow : ¬ (!u.onStream (F.srcs ++ F.vdst.toList) && u.vheld F.srcs F.vdst.toList) = true := by
    unfold VecTurn at hturn
    cases hbound : u.onStream (F.srcs ++ F.vdst.toList)
    · rw [hbound, if_neg Bool.false_ne_true] at hturn
      simp [hturn]
    · simp
  rw [vwrite, if_neg hnow, vqueue_ok (mem := false) hmisuse hturn hpop]
  simp only [hput]

/-- Each such instruction completes with the result that its meaning forms. -/
theorem vecWrites_of_form {i : Instr} {F : VForm} (hF : vform i = some F) (hpart : PartExists i) (hv : F.toS = false) (s : State) :
    VecWrites i (guardMode i) F.whole F.srcs F.dst F.f s := by
  rintro u vs t fl hu h hmisuse hroom hturn hpop hput
  have hdst : F.vdst = some F.dst := if_neg (by rw [hv]; exact Bool.false_ne_true)
  have hput' : F.put (F.f (vsrc vs u) u) u = .ok (t, fl) := by
    rw [VForm.put, hv]; exact hput
  have hbody := vwrite_turn (i := i) (by rw [hdst]; exact hmisuse) (by rw [hdst]; exact hturn) hpop hput'
  rw [hdst] at hbody
  rw [hu, (s.charged_queueKept 1 0).misuse_eq, ← hdst] at hmisuse
  exact exec_form_ok hF hu h hroom hpart hmisuse hbody

theorem v2_of_form {mk : Pfx → BitVec 4 → BitVec 4 → Instr} {T : Pfx → VTy} {f : Pfx → State → Nat → Nat → Nat × FFlags}
    (hF : ∀ p d a, vform (mk p d a) = some (velem2 p d a (T p) (f p))) (hguard : ∀ p d a, guardMode (mk p d a) = .plain)
    (hpart : ∀ p d a, PartExists (mk p d a)) : V2 mk T f := by
  intro p d a s
  rw [← hguard p d a]
  exact vecWrites_of_form (hF p d a) (hpart p d a) rfl s

theorem v1_of_form {mk : Pfx → BitVec 4 → BitVec 4 → Instr} {T : Pfx → VTy} {f : Pfx → State → Nat → Nat × FFlags}
    (hF : ∀ p d a, vform (mk p d a) = some (velem1 p d a (T p) (f p))) (hguard : ∀ p d a, guardMode (mk p d a) = .plain)
    (hpart : ∀ p d a, PartExists (mk p d a)) : V1 mk T f := by
  intro p d a s
  rw [← hguard p d a]
  exact vecWrites_of_form (hF p d a) (hpart p d a) rfl s

end Sys2Proof.Machine

namespace Sys2Proof.Proofs

open Sys2Proof Sys2Proof.Machine Sys2Proof.Claims

/-- Settles O26: each instruction is its form of `vform`, whose result is the element function of the statement. -/
theorem vectorArith : Obligations.VectorArith := by
  unfold Obligations.VectorArith
  refine ⟨?vadd, ?vsub, ?vmul, ?vmin, ?vmax, ?vabs, ?vneg, ?vand, ?vor, ?vxor, ?vnot, ?vshl, ?vshr, ?vsra, ?vfma, ?vsel⟩
  case vsel =>
    rintro p d a s u e g vs t fl hu h hentry hmisuse hroom hturn hpop hput
    have hres : (formVsel p d a).f (vsrc vs u) u = ⟨mergeLanes (vsrc vs u (vx p d a)) (vsrc vs u (vy p a)) e.mask,
        g.mask &&& BitVec.ofNat 32 (2 ^ (min u.ctx.vcnt.toNat 32) - 1), 0#5⟩ := by
      simp only [formVsel, hentry]
    have hdone := vecWrites_of_form (i := .vsel p d a) (F := formVsel p d a) rfl trivial rfl s u vs t fl hu h hmisuse hroom hturn hpop (by rw [hres]; exact hput)
    rw [hres, BitVec.zero_or] at hdone
    exact hdone
  case vfma => exact fun p d a s => vecWrites_of_form (i := .vfma p d a) (F := formVfma p d a) rfl trivial rfl s
  case vabs | vneg | vnot => exact v1_of_form (fun _ _ _ => rfl) (fun _ _ _ => rfl) fun _ _ _ => trivial
  all_goals exact v2_of_form (fun _ _ _ => rfl) (fun _ _ _ => rfl) fun _ _ _ => trivial

end Sys2Proof.Proofs
end

section
/-! VCMP (08 R211): the conditions on elements and lanes, the mask that is pushed, and the flags. -/

namespace Sys2Proof.Machine

open Sys2Proof.Claims

/-! ### Elements of the eight types (Table 08-1) -/

/-- A PFX names one of the eight element types. -/
theorem pVty_mem (p : Pfx) : pVty p ∈ (List.range 8).map vtyOf := by
  have hlt : p.fx53.toNat < 8 := p.fx53.isLt
  exact List.mem_map.2 ⟨_, List.mem_range.2 hlt, rfl⟩

theorem subEl_lt (T : VTy) (x : BitVec 32) (j : Nat) : subEl T x j < 2 ^ T.w := Nat.mod_lt _ (Nat.two_pow_pos _)

/-- The integer that a code of an element's width stands for. -/
theorem elInt_eq {T : VTy} (hT : T ∈ (List.range 8).map vtyOf) {x : Nat} (hx : x < 2 ^ T.w) : elInt T x = intOf T x := by
  have hsigned {w : Nat} (hw : 0 < w) (hTw : T.w = w) : (BitVec.ofNat w x).toInt = signed w x := toInt_ofNat_eq_signed hw (hTw ▸ hx)
  simp only [List.range, List.range.loop, List.map_cons, List.map_nil, vtyOf, List.mem_cons, List.not_mem_nil, or_false] at hT
  rcases hT with rfl | rfl | rfl | rfl | rfl | rfl | rfl | rfl
  · exact hsigned (w := 32) (by decide) rfl
  · rfl
  · rfl
  · rfl
  · rfl
  · exact hsigned (w := 16) (by decide) rfl
  · exact hsigned (w := 8) (by decide) rfl
  · rfl

/-! ### The condition on two elements -/

theorem not_valSame_nan {a b : Val} (h : a.isNaN = true ∨ b.isNaN = true) : ¬ ValSame a b := by
  cases a <;> cases b <;> simp_all [ValSame, Val.isNaN]
theorem not_valLess_nan {a b : Val} (h : a.isNaN = true ∨ b.isNaN = true) : ¬ ValLess a b := by
  cases a <;> cases b <;> simp_all [ValLess, Val.isNaN]

theorem vcmpHolds_flt {T : VTy} {f : FFmt} (hf : T.ty.flt = some f) (c x y : Nat) : VcmpHolds T c x y ↔
    c = 0 ∧ ValSame (f.decode x) (f.decode y) ∨ c = 1 ∧ ¬ ValSame (f.decode x) (f.decode y) ∨ c = 2 ∧ ValLess (f.decode x) (f.decode y) ∨
      c = 3 ∧ (f.decode x).isNaN = false ∧ (f.decode y).isNaN = false ∧ ¬ ValLess (f.decode x) (f.decode y) ∨
      c = 4 ∧ ((f.decode x).isNaN = true ∨ (f.decode y).isNaN = true) ∨ c = 5 ∧ (f.decode x).isNaN = false ∧ (f.decode y).isNaN = false := by
  simp [VcmpHolds, hf]

/-- NV is the flag of a compare exactly when `P`, and there is no other. -/
def NVExactly (P : Prop) (f : FFlags) : Prop := f = fNV ∧ P ∨ f = 0#5 ∧ ¬ P

theorem nvExactly_flagIf {P : Prop} {b : Bool} (h : b = true ↔ P) : NVExactly P (flagIf b fNV) := by
  cases b
  · exact .inr ⟨rfl, fun hp => Bool.false_ne_true (h.2 hp)⟩
  · exact .inl ⟨rfl, h.1 rfl⟩
theorem NVExactly.or {P Q : Prop} {f g : FFlags} (hf : NVExactly P f) (hg : NVExactly Q g) : NVExactly (P ∨ Q) (f ||| g) := by
  rcases hf with ⟨rfl, hp⟩ | ⟨rfl, hp⟩ <;> rcases hg with ⟨rfl, hq⟩ | ⟨rfl, hq⟩
  · exact .inl ⟨rfl, .inl hp⟩
  · exact .inl ⟨rfl, .inl hp⟩
  · exact .inl ⟨rfl, .inr hq⟩
  · exact .inr ⟨rfl, not_or.2 ⟨hp, hq⟩⟩
theorem NVExactly.congr {P Q : Prop} {f : FFlags} (h : NVExactly P f) (hpq : P ↔ Q) : NVExactly Q f := by rwa [← propext hpq]
theorem NVExactly.foldl {α : Type} {P : α → Prop} {g : α → FFlags} {l : List α} (h : ∀ x ∈ l, NVExactly (P x) (g x)) {Q : Prop} {f : FFlags}
    (hf : NVExactly Q f) : NVExactly (Q ∨ ∃ x ∈ l, P x) (l.foldl (fun f x => f ||| g x) f) := by
  induction l generalizing Q f with
  | nil => exact hf.congr (by simp)
  | cons x l ih =>
    rw [List.forall_mem_cons] at h
    exact (ih h.2 (hf.or h.1)).congr (by rw [List.exists_mem_cons_iff, or_assoc])
theorem nvExactly_fold {α : Type} {P : α → Prop} {g : α → FFlags} {l : List α} (h : ∀ x ∈ l, NVExactly (P x) (g x)) :
    NVExactly (∃ x ∈ l, P x) (l.foldl (fun f x => f ||| g x) 0#5) :=
  (NVExactly.foldl h (.inr ⟨rfl, not_false⟩)).congr (iff_of_eq (false_or _))
/-- Two flags that say the same are equal. -/
theorem NVExactly.unique {P : Prop} {f g : FFlags} (hf : NVExactly P f) (hg : NVExactly P g) : f = g := by
  rcases hf with ⟨rfl, hp⟩ | ⟨rfl, hp⟩ <;> rcases hg with ⟨rfl, hq⟩ | ⟨rfl, hq⟩
  · rfl
  · exact absurd hp hq
  · exact absurd hq hp
  · rfl

section

variable {T : VTy} {c x y : Nat} (hc : c < 6)

include hc

/-- A floating condition is that of R211's table. -/
theorem vcond_flt {f : FFmt} (hf : T.ty.flt = some f) :
    ((vcond T c x y).1 = true ↔ VcmpHolds T c x y) ∧ NVExactly (vcmpNV T c x y) (vcond T c x y).2 := by
  rw [vcmpHolds_flt hf]
  have hNV : vcmpNV T c x y ↔ (c = 2 ∨ c = 3) ∧ ((f.decode x).isNaN = true ∨ (f.decode y).isNaN = true) ∨
      ((f.decode x).isSig = true ∨ (f.decode y).isSig = true) := by simp [vcmpNV, hf]
  have hsig : (f.decode x).isSig = true ∨ (f.decode y).isSig = true → (f.decode x).isNaN = true ∨ (f.decode y).isNaN = true :=
    Or.imp (fun h => by by_contra hn; simp [Val.isSig_of_not_isNaN (by simpa using hn)] at h)
      (fun h => by by_contra hn; simp [Val.isSig_of_not_isNaN (by simpa using hn)] at h)
  have hflag : (vcond T c x y).2 = flagIf (if c = 2 ∨ c = 3 then (f.decode x).isNaN || (f.decode y).isNaN else
      (f.decode x).isSig || (f.decode y).isSig) fNV := by
    simp only [vcond, hf]
    interval_cases c <;> rfl
  refine ⟨?_, ?_⟩
  · simp only [vcond, hf]
    by_cases hnan : (f.decode x).isNaN = true ∨ (f.decode y).isNaN = true
    · have hnan' : ((f.decode x).isNaN || (f.decode y).isNaN) = true := by rwa [Bool.or_eq_true]
      have hsame := not_valSame_nan hnan
      have hless := not_valLess_nan hnan
      have himp : (f.decode x).isNaN = false → (f.decode y).isNaN = true := fun h => hnan.resolve_left (by simp [h])
      interval_cases c <;> simp [fcompare, hnan, hnan', hsame, hless] <;> exact himp
    · obtain ⟨hx, hy⟩ : (f.decode x).isNaN = false ∧ (f.decode y).isNaN = false := by simpa using hnan
      rw [← cmpVal_lt_iff hx hy, ← cmpVal_eq_iff hx hy]
      interval_cases c <;> simp [fcompare, hx, hy]
  · rw [hflag]
    refine nvExactly_flagIf ?_
    rw [hNV]
    split
    · rename_i h; simp only [h, true_and, Bool.or_eq_true, or_iff_left_of_imp hsig]
    · rename_i h; simp only [h, false_and, false_or, Bool.or_eq_true]

/-- An integer condition is that of R211's table, and sets no flag. -/
theorem vcond_int (hT : T ∈ (List.range 8).map vtyOf) (hf : T.ty.flt = none) (hx : x < 2 ^ T.w) (hy : y < 2 ^ T.w) :
    ((vcond T c x y).1 = true ↔ VcmpHolds T c x y) ∧ NVExactly (vcmpNV T c x y) (vcond T c x y).2 := by
  refine ⟨?_, .inr ⟨by simp only [vcond, hf], by simp [vcmpNV, hf]⟩⟩
  simp only [vcond, hf, VcmpHolds, elInt_eq hT hx, elInt_eq hT hy]
  interval_cases c <;> simp

/-- The condition on every sub-element of a lane, and its flags. -/
theorem vcondLane_spec (hT : T ∈ (List.range 8).map vtyOf) (u v : BitVec 32) :
    ((vcondLane T c u v).1 = true ↔ ∀ j, j < T.n → VcmpHolds T c (subEl T u j) (subEl T v j)) ∧
      NVExactly (∃ j ∈ List.range T.n, vcmpNV T c (subEl T u j) (subEl T v j)) (vcondLane T c u v).2 := by
  have helem (j : Nat) : ((vcond T c (subEl T u j) (subEl T v j)).1 = true ↔ VcmpHolds T c (subEl T u j) (subEl T v j)) ∧
      NVExactly (vcmpNV T c (subEl T u j) (subEl T v j)) (vcond T c (subEl T u j) (subEl T v j)).2 := by
    cases hf : T.ty.flt with
    | some f => exact vcond_flt hc hf
    | none => exact vcond_int hc hT hf (subEl_lt T u j) (subEl_lt T v j)
  have hfold (l : List Nat) (a : Bool × FFlags) :
      l.foldl (fun a j => let r := vcond T c (subEl T u j) (subEl T v j); (a.1 && r.1, a.2 ||| r.2)) a =
        (a.1 && l.all (fun j => (vcond T c (subEl T u j) (subEl T v j)).1),
          l.foldl (fun f j => f ||| (vcond T c (subEl T u j) (subEl T v j)).2) a.2) := by
    induction l generalizing a with
    | nil => simp
    | cons j l ih => rw [List.foldl_cons, ih]; simp [Bool.and_assoc]
  rw [vcondLane, hfold]
  refine ⟨?_, nvExactly_fold fun j _ => (helem j).2⟩
  rw [Bool.true_and, List.all_eq_true]
  exact forall_congr' fun j => by rw [List.mem_range, (helem j).1]

end

/-! ### The mask of lanes -/

theorem testBit_foldl_two_pow (b : Nat → Bool) (n : Nat) : ((List.range n).foldl (fun m i => if b i then m + 2 ^ i else m) 0 < 2 ^ n) ∧
    ∀ i, ((List.range n).foldl (fun m i => if b i then m + 2 ^ i else m) 0).testBit i = (decide (i < n) && b i) := by
  induction n with
  | zero => simp
  | succ n ih =>
    rw [List.range_succ, List.foldl_append, List.foldl_cons, List.foldl_nil]
    obtain ⟨hlt, hbit⟩ := ih
    generalize (List.range n).foldl (fun m i => if b i then m + 2 ^ i else m) 0 = m at hlt hbit
    by_cases hb : b n = true
    · rw [if_pos hb]
      refine ⟨by rw [pow_succ]; omega, fun i => ?_⟩
      rw [Nat.add_comm]
      rcases lt_trichotomy i n with h | rfl | h
      · rw [Nat.testBit_two_pow_add_gt h, hbit, decide_eq_true h, decide_eq_true (by omega)]
      · rw [Nat.testBit_two_pow_add_eq, hbit]; simp [hb]
      · rw [Nat.testBit_lt_two_pow (lt_of_lt_of_le (by rw [pow_succ]; omega) (Nat.pow_le_pow_right Nat.two_pos h)), decide_eq_false (by omega),
          Bool.false_and]
    · rw [if_neg hb]
      refine ⟨by rw [pow_succ]; omega, fun i => ?_⟩
      rw [hbit]
      by_cases hi : i = n
      · subst hi; simp [hb]
      · simp only [show i < n + 1 ↔ i < n by omega]

/-- The mask whose bits are those of a condition. -/
theorem getLsbD_maskOf (b : Nat → Bool) {i : Nat} (hi : i < 32) :
    (BitVec.ofNat 32 ((List.range 32).foldl (fun n i => if b i then n + 2 ^ i else n) 0)).getLsbD i = b i := by
  rw [BitVec.getLsbD_ofNat, (testBit_foldl_two_pow b 32).2 i, decide_eq_true hi, Bool.true_and, Bool.true_and]

/-- Flags are joined over the lanes of a mask. -/
theorem foldl_lanesOf {α : Type} (m : BitVec 32) (g : α → Nat → α) (a : α) :
    (lanesOf m).foldl g a = (List.range 32).foldl (fun a i => if m.getLsbD i then g a i else a) a := List.foldl_filter
theorem mem_lanesOf {m : BitVec 32} {i : Nat} : i ∈ lanesOf m ↔ i < 32 ∧ m.getLsbD i = true := by
  rw [lanesOf, List.mem_filter, List.mem_range]

/-! ### The instruction -/

/-- VCMP pushes the mask that the conditions of its lanes give, and joins the queue with their flags (R211). -/
theorem exec_vcmp_pushes {p : Pfx} {d a c : BitVec 4} {s u t : State} {vs : List (Nat × Lanes)} {m : BitVec 32} {fl : FFlags}
    (hu : u = s.charged 1 0) (h : s.issues (.vcmp p d a c) .push 1 0 = true) (hbusy : u.spillBusy = false)
    (hmisuse : misuse [vx p d a, vy p a] none u = false) (hroom : s.vroom = true) (hturn : VecTurn u [vx p d a, vy p a] [])
    (hpop : popAll u [vx p d a, vy p a] = .ok vs)
    (hmask : ∀ i, i < 32 → (m.getLsbD i = true ↔ (activeMask p u).getLsbD i = true ∧ ∀ j, j < (pVty p).n →
      VcmpHolds (pVty p) c.toNat (subEl (pVty p) (lane (vsrc vs u (vx p d a)) i) j) (subEl (pVty p) (lane (vsrc vs u (vy p a)) i) j)))
    (hpush : u.push ⟨true, m⟩ = some t)
    (hfl : NVExactly (∃ i ∈ lanesOf (activeMask p u), ∃ j ∈ List.range (pVty p).n, vcmpNV (pVty p) c.toNat
      (subEl (pVty p) (lane (vsrc vs u (vx p d a)) i) j) (subEl (pVty p) (lane (vsrc vs u (vy p a)) i) j)) fl) :
    exec (.vcmp p d a c) s = .next (((takePops vs t).enqueueV (u.onStream [vx p d a, vy p a]) fl).done (.vcmp p d a c)) := by
  have hc : c.toNat < 6 := by
    have hwf := (State.issues_iff.1 h).2.2.1
    simp only [Instr.wf, Bool.and_eq_true] at hwf
    exact of_decide_eq_true hwf.1.2
  have hown : misuse [vx p d a, vy p a] none s = false := by
    rwa [hu, (s.charged_queueKept 1 0).misuse_eq] at hmisuse
  have hlane (i : Nat) := vcondLane_spec hc (pVty_mem p) (lane (vsrc vs u (vx p d a)) i) (lane (vsrc vs u (vy p a)) i)
  have hm : BitVec.ofNat 32 ((List.range 32).foldl (fun n i => if (activeMask p u).getLsbD i &&
      (vcondLane (pVty p) c.toNat (lane (vsrc vs u (vx p d a)) i) (lane (vsrc vs u (vy p a)) i)).1 then n + 2 ^ i else n) 0) = m := by
    refine BitVec.eq_of_getLsbD_eq fun i hi => ?_
    rw [getLsbD_maskOf (fun i => (activeMask p u).getLsbD i && (vcondLane (pVty p) c.toNat (lane (vsrc vs u (vx p d a)) i)
      (lane (vsrc vs u (vy p a)) i)).1) hi, Bool.eq_iff_iff, Bool.and_eq_true, (hlane i).1, hmask i hi]
  have hflags : (List.range 32).foldl (fun f i => if (activeMask p u).getLsbD i then f ||| (vcondLane (pVty p) c.toNat
      (lane (vsrc vs u (vx p d a)) i) (lane (vsrc vs u (vy p a)) i)).2 else f) 0#5 = fl := by
    rw [← foldl_lanesOf (activeMask p u) (fun f i => f ||| (vcondLane (pVty p) c.toNat (lane (vsrc vs u (vx p d a)) i)
      (lane (vsrc vs u (vy p a)) i)).2)]
    exact (nvExactly_fold fun i _ => (hlane i).2).unique hfl
  refine issue_ok h (.inl rfl) (misuseErr_none _ hown) hroom rfl rfl ?_
  rw [← hu]
  dsimp only [queued, pushing]
  rw [vqueue_ok (mem := false) hmisuse hturn hpop (t := t) (fl := fl)]
  · rw [Bool.false_or]; rfl
  · simp only [hm, hflags, hbusy, hpush, Bool.false_eq_true, if_false]

end Sys2Proof.Machine
end

section
/-! Reductions (08 R214): the tree over the elements, the exact widening of floating elements, and the integer adds. -/

namespace Sys2Proof.Machine

open Sys2Proof.Claims

/-! ### The tree -/

section

variable {α : Type} (op : α → α → α × FFlags)

/-- A node from the two below it. -/
def joinNodes : Option α × FFlags → Option α × FFlags → Option α × FFlags
  | (some a, f), (some b, g) => (some (op a b).1, f ||| g ||| (op a b).2)
  | (some a, f), (none, g) => (some a, f ||| g)
  | (none, f), (b, g) => (b, f ||| g)

theorem node_succ (t : Nat → Option α) (k x : Nat) :
    node op t (k + 1) x = joinNodes op (node op t k (2 * x)) (node op t k (2 * x + 1)) := rfl

/-- Flags that come from below the two nodes stay. -/
theorem joinNodes_flags (x y : Option α) (f f' g g' : FFlags) :
    joinNodes op (x, f ||| f') (y, g ||| g') = ((joinNodes op (x, f') (y, g')).1, f ||| g ||| (joinNodes op (x, f') (y, g')).2) := by
  cases x <;> cases y <;> simp only [joinNodes, Prod.mk.injEq, true_and] <;> ac_rfl

/-- A level of two lists, the first of even length. -/
theorem treeLevel_append (l l' : List (Option α)) {n : Nat} (h : l.length = 2 * n) :
    treeLevel op (l ++ l') = ((treeLevel op l).1 ++ (treeLevel op l').1, (treeLevel op l).2 ||| (treeLevel op l').2) := by
  induction n generalizing l with
  | zero =>
    rw [List.length_eq_zero_iff.1 h]
    simp [treeLevel]
  | succ n ih =>
    match l, h with
    | x :: y :: l, h =>
      have hrest := ih l (by simp only [List.length_cons] at h; omega)
      cases x <;> cases y <;> simp [treeLevel, hrest, BitVec.or_assoc]

theorem length_treeLevel (l : List (Option α)) {n : Nat} (h : l.length = 2 * n) : (treeLevel op l).1.length = n := by
  induction n generalizing l with
  | zero => rw [List.length_eq_zero_iff.1 h]; rfl
  | succ n ih =>
    match l, h with
    | x :: y :: l, h =>
      have hrest := ih l (by simp only [List.length_cons] at h; omega)
      cases x <;> cases y <;> simp [treeLevel, hrest]

theorem tree_succ (k : Nat) (l : List (Option α)) :
    tree op (k + 1) l = ((tree op k (treeLevel op l).1).1, (treeLevel op l).2 ||| (tree op k (treeLevel op l).1).2) := rfl

/-- The tree over two halves joins their trees. -/
theorem tree_append (k : Nat) {l l' : List (Option α)} (h : l.length = 2 ^ k) (h' : l'.length = 2 ^ k) :
    tree op (k + 1) (l ++ l') = joinNodes op (tree op k l) (tree op k l') := by
  induction k generalizing l l' with
  | zero =>
    obtain ⟨x, rfl⟩ := List.length_eq_one_iff.1 h
    obtain ⟨y, rfl⟩ := List.length_eq_one_iff.1 h'
    cases x <;> cases y <;> simp [tree, treeLevel, joinNodes]
  | succ k ih =>
    rw [pow_succ'] at h h'
    have hlen := length_treeLevel op l h
    have hlen' := length_treeLevel op l' h'
    rw [tree_succ, treeLevel_append op l l' h, ih hlen hlen', tree_succ op k l, tree_succ op k l', joinNodes_flags]

/-- The tree over the elements is the tree of R214. -/
theorem tree_eq_node (t : Nat → Option α) (k x : Nat) : tree op k ((List.range' (x * 2 ^ k) (2 ^ k)).map t) = node op t k x := by
  induction k generalizing x with
  | zero => simp [tree, node]
  | succ k ih =>
    have hsplit : List.range' (x * 2 ^ (k + 1)) (2 ^ (k + 1)) =
        List.range' (2 * x * 2 ^ k) (2 ^ k) ++ List.range' ((2 * x + 1) * 2 ^ k) (2 ^ k) := by
      rw [show x * 2 ^ (k + 1) = 2 * x * 2 ^ k by ring, show (2 * x + 1) * 2 ^ k = 2 * x * 2 ^ k + 2 ^ k by ring, pow_succ', two_mul (2 ^ k),
        ← List.range'_append_1]
    rw [hsplit, List.map_append, tree_append op k (by simp) (by simp), ih, ih, node_succ]

theorem tree_range (t : Nat → Option α) (k : Nat) : tree op k ((List.range (2 ^ k)).map t) = node op t k 0 := by
  rw [← tree_eq_node, Nat.zero_mul, List.range_eq_range']

end

theorem treeDepth_eq {T : VTy} (hT : T ∈ (List.range 8).map vtyOf) {k : Nat} (hk : 2 ^ k = 32 * T.n) : treeDepth T = k := by
  have hdepth : 32 * T.n = 2 ^ treeDepth T := by
    have hall : ∀ T ∈ (List.range 8).map vtyOf, 32 * T.n = 2 ^ treeDepth T := by decide
    exact hall T hT
  exact Nat.pow_right_injective le_rfl (hdepth.symm.trans hk.symm)

/-! ### The widening of a floating element -/

/-- A value of at most 24 bits in f32's range is exact in f32. -/
theorem roundFin_f32_exact (mode : RM) (neg : Bool) {m : Nat} {e : Int} (hm : m < 2 ^ 24) (hlow : -149 ≤ e) (hhigh : (m.log2 : Int) + e ≤ 127) :
    (roundFin fmtF32 mode neg m e).2 = 0#5 := by
  by_cases hz : m = 0
  · rw [hz, roundFin_zero rfl]
  have hlog : m.log2 < 24 := (Nat.log2_lt hz).2 hm
  rw [roundFin_eq _ _ _ hz]
  have hq : fmtF32.unitAt (m.log2 + e) = max (m.log2 + e - 23) (-149) := rfl
  have hexact : roundUnits mode neg m e (fmtF32.unitAt (m.log2 + e)) = (m * 2 ^ (e - fmtF32.unitAt (m.log2 + e)).toNat, false) :=
    if_neg (by omega)
  have hunits : m * 2 ^ (e - fmtF32.unitAt (m.log2 + e)).toNat < 2 ^ 24 :=
    calc m * 2 ^ (e - fmtF32.unitAt (m.log2 + e)).toNat < 2 ^ (m.log2 + 1) * 2 ^ (e - fmtF32.unitAt (m.log2 + e)).toNat :=
          Nat.mul_lt_mul_of_pos_right Nat.lt_log2_self (Nat.two_pow_pos _)
      _ = 2 ^ (m.log2 + 1 + (e - fmtF32.unitAt (m.log2 + e)).toNat) := (pow_add _ _ _).symm
      _ ≤ 2 ^ 24 := Nat.pow_le_pow_right Nat.two_pos (by omega)
  have hcode : ¬ fmtF32.largest < (fmtF32.unitAt (m.log2 + e) - fmtF32.qmin).toNat * 2 ^ fmtF32.frac +
      m * 2 ^ (e - fmtF32.unitAt (m.log2 + e)).toNat := by
    rw [show fmtF32.largest = 255 * 2 ^ 23 - 1 from rfl, show fmtF32.qmin = -149 from rfl, show fmtF32.frac = 23 from rfl]
    have hexp : (fmtF32.unitAt (m.log2 + e) - (-149)).toNat ≤ 253 := by omega
    have hhead := Nat.mul_le_mul_right (2 ^ 23) hexp
    omega
  rw [hexact]
  simp only [FFmt.pack]
  rw [if_neg hcode]
  exact congrArg (flagIf false fNX ||| flagIf · fUF) (Bool.false_and _)

/-- The floating element types. -/
theorem vtyOf_flt {T : VTy} (hT : T ∈ (List.range 8).map vtyOf) {f : FFmt} (hf : T.ty.flt = some f) :
    T.w = f.bits ∧ f ∈ [fmtF32, fmtBf16, fmtF16, fmtE4m3n] := by
  have hall : ∀ T ∈ (List.range 8).map vtyOf, ∀ f ∈ T.ty.flt, T.w = f.bits ∧ f ∈ [fmtF32, fmtBf16, fmtF16, fmtE4m3n] := by decide
  exact hall T hT f hf

/-- Every finite code of an element type is exact in f32. -/
theorem widen_fin {f : FFmt} (hf : f ∈ [fmtF32, fmtBf16, fmtF16, fmtE4m3n]) {x m : Nat} {neg : Bool} {e : Int} (hx : x < 2 ^ f.bits)
    (h : f.decode x = .fin neg m e) : (roundFin fmtF32 .rne neg m e).2 = 0#5 := by
  have hsane : f.Sane := by
    have hall : ∀ f ∈ [fmtF32, fmtBf16, fmtF16, fmtE4m3n], f ∈ [fmtF64, fmtF32, fmtF16, fmtBf16, fmtE4m3n, fmtE5m2n] := by decide
    exact sane_of_mem (hall f hf)
  obtain ⟨E, -, hexp, hle, hlt, hnormal, -⟩ := FFmt.decode_fin hsane hx h
  by_cases hz : m = 0
  · rw [hz, roundFin_zero rfl]
  have hlog : m.log2 < f.frac + 1 := (Nat.log2_lt hz).2 hlt
  /- The unit of the format is at least that of f32, and the exponent of its largest code at most that of f32's. -/
  have hrange : ∀ f ∈ [fmtF32, fmtBf16, fmtF16, fmtE4m3n], f.frac ≤ 23 ∧ -149 ≤ f.qmin ∧ 1 ≤ f.largest / 2 ^ f.frac ∧
      f.qmin + f.frac + (f.largest / 2 ^ f.frac : Nat) ≤ 128 := by decide
  obtain ⟨hfrac, hqmin, hone, hbig⟩ := hrange f hf
  have hE : E + 1 ≤ f.largest / 2 ^ f.frac := by
    by_cases hE : E = 0
    · rwa [hE]
    · rw [Nat.le_div_iff_mul_le (Nat.two_pow_pos _), Nat.succ_mul]
      have := hnormal hE
      omega
  exact roundFin_f32_exact _ _ (hlt.trans_le (Nat.pow_le_pow_right Nat.two_pos (by omega))) (by omega) (by omega)

/-- A widened element sets NV when it is a signalling NaN, and no other flag (R214, log entry 37). -/
theorem convert_widen_flags {T : VTy} (hT : T ∈ (List.range 8).map vtyOf) {f : FFmt} (hf : T.ty.flt = some f) {x : Nat} (hx : x < 2 ^ T.w) :
    NVExactly ((f.decode x).isSig = true) (convert T.ty .f32 .rne false x).2 := by
  obtain ⟨hw, hmem⟩ := vtyOf_flt hT hf
  have hconv : convert T.ty .f32 .rne false x = roundVal fmtF32 .rne (f.decode x) := by
    simp only [convert, convertVal, Ty.val, hf]; rfl
  rw [hconv]
  cases hv : f.decode x with
  | nan sig => exact nvExactly_flagIf Iff.rfl
  | inf neg => exact .inr ⟨rfl, Bool.false_ne_true⟩
  | fin neg m e => exact .inr ⟨widen_fin hmem (hw ▸ hx) hv, Bool.false_ne_true⟩

/-! ### The reductions -/

/-- A floating reduction over the fixed tree: its result, and its flags, which hold those of the widened elements. -/
theorem reduceFlt_eq {T : VTy} (hT : T ∈ (List.range 8).map vtyOf) {f : FFmt} (hf : T.ty.flt = some f) (act : BitVec 32) (v : Lanes)
    (op : Nat → Nat → Nat × FFlags) (ident : Nat) {k : Nat} (hk : 2 ^ k = 32 * T.n) {N : Option Nat × FFlags}
    (hN : N = node op (fun e => if act.getLsbD (e / T.n) then some (convert T.ty .f32 .rne false (element T v e)).1 else none) k 0) :
    (reduceFlt T act v op ident).1 = N.1.getD ident ∧ ∃ fl, (reduceFlt T act v op ident).2 = N.2 ||| fl ∧
      NVExactly (∃ e ∈ List.range (32 * T.n), act.getLsbD (e / T.n) = true ∧ (f.decode (element T v e)).isSig = true) fl := by
  have htree : tree op (treeDepth T) (((List.range (32 * T.n)).map fun e =>
      if act.getLsbD (e / T.n) then some (convert T.ty .f32 .rne false (element T v e)) else none).map fun e => e.map (·.1)) = N := by
    rw [List.map_map, treeDepth_eq hT hk, ← hk, hN, ← tree_range]
    congr 1
    refine List.map_congr_left fun e _ => ?_
    simp only [Function.comp_apply]
    split <;> rfl
  refine ⟨?_, _, ?_, nvExactly_fold (g := fun e => if act.getLsbD (e / T.n) then (convert T.ty .f32 .rne false (element T v e)).2 else 0#5)
    fun e _ => ?_⟩
  · simp only [reduceFlt, htree]
  · simp only [reduceFlt, htree, List.foldl_map]
    congr 2
    funext g e
    split <;> simp_all
  · split
    · rename_i h
      exact (convert_widen_flags hT hf (x := element T v e) (subEl_lt T _ _)).congr (by simp [h])
    · rename_i h
      exact .inr ⟨rfl, fun hsig => h hsig.1⟩

theorem reduceInt_eq {T : VTy} (hT : T ∈ (List.range 8).map vtyOf) (act : BitVec 32) (v : Lanes) (op : Int → Int → Int) (ident : Int)
    {k : Nat} (hk : 2 ^ k = 32 * T.n) : reduceInt T act v op ident = codeInt 32
      ((node (fun a b => (op a b, 0#5)) (fun e => if act.getLsbD (e / T.n) then some (intOf T (element T v e)) else none) k 0).1.getD ident) := by
  have hel (e : Nat) : elInt T (element T v e) = intOf T (element T v e) := elInt_eq hT (subEl_lt T _ _)
  simp only [reduceInt, hel, wrapInt_eq, treeDepth_eq hT hk, ← hk, tree_range]

theorem redAdd_eq (T : VTy) {sg : Bool} (h : sg = decide (T.ty ≠ .n32)) (a b : Int) :
    redAdd T true a b = max (least sg 32) (min (greatest sg 32) (a + b)) ∧
    redAdd T false a b = (a + b - least sg 32) % 2 ^ 32 + least sg 32 ∧
    intMax (redSigned T) 32 = greatest sg 32 ∧ intMin (redSigned T) 32 = least sg 32 := by
  have hsg : redSigned T = sg := by rw [h, redSigned]; simp [bne, Bool.beq_eq_decide_eq]
  rw [hsg]
  refine ⟨by simp only [redAdd, hsg, intMin_eq, intMax_eq, if_true], ?_, intMax_eq _ _, intMin_eq _ _⟩
  cases sg
  · have hnonneg : 0 ≤ (a + b) % 2 ^ 32 := Int.emod_nonneg _ (by decide)
    simpa [redAdd, hsg, least, BitVec.toNat_ofInt] using hnonneg
  · simpa [redAdd, hsg, least, Int.sub_eq_add_neg] using toInt_ofInt_wrap (a + b)

theorem reductions (T : VTy) (hT : T ∈ (List.range 8).map vtyOf) (act : BitVec 32) (v : Lanes) : Reductions T act v := by
  refine ⟨?_, fun op ident k _ hk => reduceInt_eq hT act v op ident hk, fun sg a b h => redAdd_eq T h a b⟩
  intro op ident k f N hf hk hN
  obtain ⟨hval, fl, hfl, hNV⟩ := reduceFlt_eq hT hf act v op ident hk hN
  refine ⟨hval, fun ⟨e, he, hact, hsig⟩ => ?_, fun hquiet => ?_⟩
  · rcases hNV with ⟨rfl, -⟩ | ⟨-, hno⟩
    · exact hfl
    · exact absurd ⟨e, List.mem_range.2 he, hact, hsig⟩ hno
  · rcases hNV with ⟨-, e, he, hact, hsig⟩ | ⟨rfl, -⟩
    · rw [hquiet e (List.mem_range.1 he) hact] at hsig
      cases hsig
    · rw [hfl, BitVec.or_zero]

end Sys2Proof.Machine
end

section
/-! Lane moves, reductions and conversions (08 R213 to R215). -/

namespace Sys2Proof.Machine

open Sys2Proof.Claims

/-- VEXT writes the lane that its immediate names to s[d], with no flag (R213). -/
theorem exec_vext {p : Pfx} {d a : BitVec 4} {s u : State} {vs : List (Nat × Lanes)} (hu : u = s.charged 1 0)
    (h : s.issues (.vext p d a) .plain 1 0 = true) (hmisuse : misuse [p.an a] none u = false) (hroom : s.vroom = true)
    (hturn : VecTurn u [p.an a] []) (hpop : popAll u [p.an a] = .ok vs) :
    exec (.vext p d a) s = .next (((takePops vs (u.ws (p.dn d)
      ((lane (vsrc vs u (p.an a)) (p.immW.extractLsb' 0 5).toNat).setWidth 64))).enqueueV true 0#5).done (.vext p d a)) := by
  have hput : (formVext p d a).put ((formVext p d a).f (vsrc vs u) u) u =
      .ok (u.ws (p.dn d) ((lane (vsrc vs u (p.an a)) (p.immW.extractLsb' 0 5).toNat).setWidth 64), 0#5) := by
    simp [VForm.put, formVext, laneNo, lane_mkLanes]
  have hbody := vwrite_turn (i := .vext p d a) (F := formVext p d a) hmisuse hturn hpop hput
  have hwhole : ((formVext p d a).whole || u.onStream ((formVext p d a).srcs ++ (formVext p d a).vdst.toList)) = true := Bool.true_or _
  rw [hwhole, show ((formVext p d a).f (vsrc vs u) u).flags ||| 0#5 = 0#5 from BitVec.or_zero] at hbody
  rw [hu, (s.charged_queueKept 1 0).misuse_eq] at hmisuse
  exact exec_form_ok (F := formVext p d a) rfl hu h hroom trivial hmisuse hbody

/-- The elements in order are those of the lanes in order. -/
theorem foldl_elements {α : Type} {n : Nat} (hn : 0 < n) (g : α → Nat → α) (act : BitVec 32) (a : α) (k : Nat) :
    (List.range (k * n)).foldl (fun a x => if act.getLsbD (x / n) then g a x else a) a =
      (List.range k).foldl (fun a i => if act.getLsbD i then (List.range n).foldl (fun a j => g a (n * i + j)) a else a) a := by
  induction k with
  | zero => simp
  | succ k ih =>
    rw [Nat.succ_mul, List.range_add, List.foldl_append, ih, List.range_succ, List.foldl_append, List.foldl_cons, List.foldl_nil, List.foldl_map]
    have hlane : ∀ j ∈ List.range n, (k * n + j) / n = k := fun j hj => by
      rw [Nat.mul_comm, Nat.mul_add_div hn, Nat.div_eq_of_lt (List.mem_range.1 hj), Nat.add_zero]
    generalize (List.range k).foldl _ a = b
    split
    · rename_i hk
      refine List.foldl_ext _ _ _ fun b j hj => ?_
      rw [hlane j hj, if_pos hk, Nat.mul_comm]
    · rename_i hk
      rw [List.foldl_ext (g := fun b _ => b) _ _ fun b j hj => by rw [hlane j hj, if_neg hk]]
      exact List.foldl_fixed _

/-- Every type has an element in a lane. -/
theorem pVty_n_pos (p : Pfx) : 0 < (pVty p).n := by
  have hall : ∀ T ∈ (List.range 8).map vtyOf, 0 < T.n := by decide
  exact hall _ (pVty_mem p)

/-- Two meanings that give the same results say the same. -/
theorem vecWrites_congr {i : Instr} {gm : GuardMode} {whole : Bool} {srcs : List Nat} {dst : Nat} {f g : (Nat → Lanes) → State → VRes} {s : State}
    (h : VecWrites i gm whole srcs dst f s) (hfg : ∀ rd u, f rd u = g rd u) : VecWrites i gm whole srcs dst g s := by
  rwa [show f = g from funext₂ hfg] at h

/-- VIOTA's elements are numbered lane by lane. -/
theorem vecWrites_viota (p : Pfx) (d a : BitVec 4) (s : State) : VecWrites (.viota p d a) .plain false [] (p.dn d) (fun _ u =>
    let el (x : Nat) : Nat × FFlags := convertVal .i64 (pVty p).ty (roundMode p u) false none (.fin false x 0)
    ⟨mkLanes fun i => packEls (pVty p) ((List.range (pVty p).n).map fun j => (el ((pVty p).n * i + j)).1), activeMask p u,
      (lanesOf (activeMask p u)).foldl (fun f i => (List.range (pVty p).n).foldl (fun f j => f ||| (el ((pVty p).n * i + j)).2) f) 0#5⟩) s := by
  refine vecWrites_congr (vecWrites_of_form (i := .viota p d a) (F := formViota p d a) rfl trivial rfl s) fun rd u => ?_
  simp only [formViota, foldl_lanesOf, foldl_elements (pVty_n_pos p) (fun f x =>
    f ||| (convertVal .i64 (pVty p).ty (roundMode p u) false none (.fin false x 0)).2)]

/-- A reduction writes its tree's result to lane 0 (R214). -/
theorem vecWrites_reduction {i : Instr} {p : Pfx} {d a : BitVec 4} {ff : RM → Nat → Nat → Nat × FFlags} {fident : Nat} {fi : Int → Int → Int}
    {iident : Int} (hF : vform i = some (reduction p d a ff fident fi iident)) (hpart : PartExists i) (hguard : guardMode i = .plain) (s : State) :
    VecWrites i .plain true [p.an a] (p.dn d) (fun rd u =>
      match (pVty p).ty.flt with
      | some _ => ⟨mkLanes fun _ => BitVec.ofNat 32 (reduceFlt (pVty p) (activeMask p u) (rd (p.an a)) (ff (roundMode p u)) fident).1,
          1#32, (reduceFlt (pVty p) (activeMask p u) (rd (p.an a)) (ff (roundMode p u)) fident).2⟩
      | none => ⟨mkLanes fun _ => BitVec.ofNat 32 (reduceInt (pVty p) (activeMask p u) (rd (p.an a)) fi iident), 1#32, 0#5⟩) s := by
  have hform := vecWrites_of_form hF hpart rfl s
  rw [hguard] at hform
  refine vecWrites_congr hform fun rd u => ?_
  simp only [reduction]
  cases (pVty p).ty.flt <;> rfl

end Sys2Proof.Machine

namespace Sys2Proof.Proofs

open Sys2Proof Sys2Proof.Machine Sys2Proof.Claims

/-- Settles O28: the compare pushes the mask of its conditions, the reductions are trees, and the others are their forms of `vform`. -/
theorem vectorLaneOps : Obligations.VectorLaneOps := by
  unfold Obligations.VectorLaneOps
  refine ⟨?vcmp, fun T hT act v => reductions T hT act v, ?vbcast, ?vins, ?vperm, ?vext, ?viota, ?vredadd, ?vredmin, ?vredmax, ?vcvt⟩
  case vcmp =>
    rintro p d a c s u vs t fl hu h hbusy hmisuse hroom hturn hpop ⟨m, hmask, hpush⟩ hfl
    refine exec_vcmp_pushes hu h hbusy hmisuse hroom hturn hpop hmask hpush (hfl.imp ?_ ?_)
    · rintro ⟨hNV, i, j, hi, hact, hj, hsets⟩
      exact ⟨hNV, i, mem_lanesOf.2 ⟨hi, hact⟩, j, List.mem_range.2 hj, hsets⟩
    · rintro ⟨hnone, hquiet⟩
      refine ⟨hnone, ?_⟩
      rintro ⟨i, hi, j, hj, hsets⟩
      obtain ⟨hlt, hact⟩ := mem_lanesOf.1 hi
      exact hquiet i j hlt hact (List.mem_range.1 hj) hsets
  case vbcast => exact fun p d a s => vecWrites_of_form (i := .vbcast p d a) (F := formVbcast p d a) rfl trivial rfl s
  case vins => exact fun p d a s => vecWrites_of_form (i := .vins p d a) (F := formVins p d a) rfl trivial rfl s
  case vperm => exact fun p d a s => vecWrites_of_form (i := .vperm p d a) (F := formVperm p d a) rfl trivial rfl s
  case vext => exact fun p d a s u vs hu h hmisuse hroom hturn hpop => exec_vext hu h hmisuse hroom hturn hpop
  case viota => exact vecWrites_viota
  case vredadd => exact fun p d a s => vecWrites_reduction (i := .vredadd p d a) rfl trivial rfl s
  case vredmin => exact fun p d a s => vecWrites_reduction (i := .vredmin p d a) rfl trivial rfl s
  case vredmax => exact fun p d a s => vecWrites_reduction (i := .vredmax p d a) rfl trivial rfl s
  case vcvt =>
    rintro p d a g s S D N part parts src0 dst0 rfl rfl rfl rfl rfl rfl rfl
    refine ⟨fun hpart => vecWrites_of_form (i := .vcvt p d a g) (F := formVcvt p d a g) rfl hpart rfl s, ?_⟩
    intro e hpart hrun hfree hwf hguard hs hpaid
    refine issue_own hrun hfree hwf (.inl rfl) hpaid (fun g' hg' => ?_) (if_pos hpart)
    obtain rfl : e = g' := Option.some.inj (hguard.symm.trans hg')
    exact hs

end Sys2Proof.Proofs
end

section
/-! Streams (08 R204 to R207, R216): the binding, its end, the status word and the steps of a stream unit. -/

namespace Sys2Proof.Machine

open Sys2Proof.Claims

/-! ### The queue and the streams under a charge and a read -/

section

variable {s t : State} (h : QueueKept s t)

include h

theorem QueueKept.vheld_eq (rd wr : List Nat) : t.vheld rd wr = s.vheld rd wr := by rw [State.vheld, h.vbefore_eq, State.vheld]
theorem QueueKept.any_ownEnt (hfree : s.myCell.vq.any s.ownEnt = false) : t.myCell.vq.any t.ownEnt = false := by
  have hown : t.ownEnt = s.ownEnt := funext fun e => by simp only [State.ownEnt, h.sel]
  rw [h.vq, hown, hfree]

end

theorem State.fillL1_kept (s : State) (c pa : Nat) : CellsKept s (s.fillL1 c pa) := by
  unfold State.fillL1
  dsimp only
  split
  · exact .refl s
  · refine .of_l1 rfl fun k => ?_
    rw [State.cell_setCell]
    split
    · rename_i hk; subst hk; exact ⟨_, rfl⟩
    · exact ⟨_, rfl⟩
theorem State.dropLines_kept (s : State) (t : Nat) (ls : List Nat) : CellsKept s (s.dropLines t ls) := by
  refine .of_l1 rfl fun k => ?_
  rw [s.cell_dropLines]
  split <;> exact ⟨_, rfl⟩
theorem State.meetWin_kept (s : State) (user : Bool) (w off n : Nat) (va : Word) : CellsKept s (s.meetWin user w off n va) := by
  unfold State.meetWin
  split
  · exact .refl s
  · split
    · exact .refl s
    · dsimp only
      split
      · exact .refl s
      · exact .foldl (fun s k => s.meetLines_kept _ _ _) _ s
theorem State.touch_kept (s : State) (va : Word) (n : Nat) : CellsKept s (s.touch va n) := by
  unfold State.touch
  split
  · rename_i pa cached _ _
    cases cached
    · exact (s.meetLines_kept _ _ _).trans (State.dropLines_kept _ _ _)
    · exact (s.meetLines_kept _ _ _).trans (State.fillL1_kept _ _ _)
  · exact s.meetWin_kept _ _ _ _ _
  · exact .refl s
/-- A read changes the memory path alone. -/
theorem State.touchAll_kept (s : State) (vas : List Word) (n : Nat) : CellsKept s (s.touchAll vas n) :=
  .foldl (fun s va => s.touch_kept va n) vas s

/-- A unit read by a stream unit changes the memory path alone. -/
theorem State.meetUnit_kept (s : State) (st : Stream) (e n : Nat) : CellsKept s (s.meetUnit st e n) := by
  refine .trans (.foldl (fun s va => ?_) _ s) (State.dropLines_kept _ _ _)
  have hpath : CellsKept s (s.meetPath s.tid st.asid va.toNat) := by
    unfold State.meetPath
    split
    · exact .refl s
    · exact s.meetWalk_kept _ _ _
  dsimp only
  split
  · exact hpath.trans (State.meetLines_kept _ _ _ _)
  · exact hpath.trans (State.meetWin_kept _ _ _ _ _ _)
  · exact hpath

/-! ### VBIND (R204) -/

theorem State.ownClaim_of_free {s : State} (h : s.myCell.vq.any s.ownEnt = false) : s.ownClaim = VClaim.none := by
  have hnone : s.myCell.vq.find? s.ownEnt = none := List.find?_eq_none.2 fun e he => by
    rw [List.any_eq_false] at h
    exact h e he
  rw [State.ownClaim, hnone]; rfl

/-- An instruction that has no entry yet takes its place at the end of the queue. -/
theorem State.queueWait_of_free {s : State} (k : VClaim) (h : s.myCell.vq.any s.ownEnt = false) : s.queueWait k =
    s.setMyCell { s.myCell with vq := s.myCell.vq ++ [⟨s.sel.slot, s.ctx.ident, true, 15#4, 0#5, .waits, k⟩] } := by
  simp only [State.queueWait, h, Bool.false_eq_true, if_false]

theorem State.ident_charged (s : State) (n m : Nat) (h : s.sid ≤ 10) : (s.charged n m).ctx.ident = s.ctx.ident :=
  (congrArg Ctx.ident (s.charged_ctx n m h) :)

section

variable {p : Pfx} {d a : BitVec 4} {s u : State} {m : Nat} {bs : List Byte} {st : Stream} (hm : m = bindTraffic p a s)
  (hu : u = s.charged 2 m) (h : s.issues (.vbind p d a) .plain 2 m = true) (hdir : s.dirAt (p.dn d) = none) (hdone : s.accessesDone = true)
  (hread : readDesc48 u (u.rs (p.an a)) 6 = .ok bs) (hst : streamOf u bs = .ok st) (hroom : s.vroom = true)
  (hfree : s.myCell.vq.any s.ownEnt = false)

include hm hu h hdir hdone hread hst hroom hfree

/-- A VBIND of a valid descriptor makes its binding, with the descriptor's lines read, or waits with it. -/
theorem exec_vbind : exec (.vbind p d a) s = .next (finish (Instr.vbind p d a).ilen s u 2 m
    (bindTo (p.dn d) st (fun s => s.touchAll (pieces (opA p a s) 8 6) 8) u)) := by
  subst hm hu
  have hown : (State.ownClaim (s.charged 2 (bindTraffic p a s))).st = none := by
    rw [State.ownClaim_of_free ((s.charged_queueKept _ _).any_ownEnt hfree)]; rfl
  refine (issue_eq (n := 2) (m := bindTraffic p a s) h (.inl rfl) ?_ ?_ rfl rfl).trans ?_
  · simp [hdir]
  · simp [hroom, hdone]
  · rw [keepCap_none rfl]
    dsimp only [memory, opA]
    simp only [hown, hread, hst]

theorem exec_vbind_now (hheld : s.vheld [] [p.dn d] = false) {w : State} (hw : w = u.touchAll (pieces (u.rs (p.an a)) 8 6) 8) :
    exec (.vbind p d a) s = .next (((w.setMyCell (w.myCell.setStream (p.dn d - 28) (some st))).enqueueV false 0#5).done (.vbind p d a)) := by
  have hnow : ¬ u.vheld [] [p.dn d] = true := by
    rw [hu, (s.charged_queueKept 2 m).vheld_eq, hheld]
    exact Bool.false_ne_true
  rw [exec_vbind hm hu h hdir hdone hread hst hroom hfree, bindTo, if_neg hnow, hw]; rfl

theorem exec_vbind_late (hheld : s.vheld [] [p.dn d] = true) : ∃ t, exec (.vbind p d a) s = .next t ∧ t.ctx.wait = .stream ∧
    t.myCell.vq = s.myCell.vq ++ [⟨s.sel.slot, s.ctx.ident, true, 15#4, 0#5, .waits,
      ⟨[], [p.dn d], some (p.dn d, some st.wr), some st⟩⟩] := by
  have hkept : QueueKept s u := hu ▸ s.charged_queueKept 2 m
  have hlate : u.vheld [] [p.dn d] = true := by rw [hkept.vheld_eq, hheld]
  have hsid := State.issues_sid h
  have husid : u.sid = s.sid := by rw [hu, State.charged_sid]
  have hident : u.ctx.ident = s.ctx.ident := hu ▸ s.ident_charged 2 m hsid
  refine ⟨_, exec_vbind hm hu h hdir hdone hread hst hroom hfree, ?_⟩
  rw [bindTo, if_pos hlate, finish, State.queueWait_of_free _ (hkept.any_ownEnt hfree)]
  set x := u.setMyCell { u.myCell with vq := u.myCell.vq ++ [⟨u.sel.slot, u.ctx.ident, true, 15#4, 0#5, .waits,
    ⟨[], [p.dn d], some (p.dn d, some st.wr), some st⟩⟩] } with hx
  have htouch := x.touchAll_kept (pieces (opA p a x) 8 6) 8
  refine ⟨?_, ?_⟩
  · rw [State.ctx_setCtx _ _ (by rw [htouch.sid_eq]; exact husid ▸ hsid)]; rfl
  · rw [(State.setCtx_queueKept _ _).vq, htouch.queueKept.vq, hx, State.myCell_setMyCell, hkept.vq, hkept.sel, hident]

end

/-! ### VUNBIND and VSTAT (R207, R216) -/

theorem exec_vunbind {p : Pfx} {d a : BitVec 4} {s u : State} {st : Stream} (hu : u = s.charged 2 0)
    (h : s.issues (.vunbind p d a) .plain 2 0 = true) (hbound : (s.dirAt (p.dn d)).isSome = true) (hroom : s.vroom = true)
    (hheld : s.vheld [] [p.dn d] = false) (hst : u.binding (p.dn d) = some st) (hpushed : st.pushed = []) : exec (.vunbind p d a) s =
      .next (((u.setMyCell (u.myCell.setStream (p.dn d - 28) none)).enqueueV true 0#5).done (.vunbind p d a)) := by
  refine issue_ok h (.inl rfl) rfl hroom rfl rfl ?_
  have hkept := s.charged_queueKept 2 0
  subst hu
  obtain ⟨b, hb⟩ := Option.isSome_iff_exists.1 hbound
  simp [plain, hkept.dirAt_eq, hb, hkept.vheld_eq, hheld, hst, hpushed]
theorem exec_vunbind_unbound {p : Pfx} {d a : BitVec 4} {s : State} (h : s.issues (.vunbind p d a) .plain 2 0 = true)
    (hbound : s.dirAt (p.dn d) = none) (hroom : s.vroom = true) :
    exec (.vunbind p d a) s = .next (((s.charged 2 0).enqueueV false 0#5).done (.vunbind p d a)) := by
  refine issue_ok h (.inl rfl) rfl hroom rfl rfl ?_
  simp [plain, (s.charged_queueKept 2 0).dirAt_eq, hbound]

theorem exec_vstat_unbound {p : Pfx} {d a : BitVec 4} {s : State} (h : s.issues (.vstat p d a) .plain 2 0 = true) (hroom : s.vroom = true)
    (hbound : s.dirAt (p.an a) = none) :
    exec (.vstat p d a) s = .next ((((s.charged 2 0).ws (p.dn d) 0#64).enqueueV false 0#5).done (.vstat p d a)) := by
  refine issue_ok h (.inl rfl) rfl hroom rfl rfl ?_
  simp [queued, plain, (s.charged_queueKept 2 0).dirAt_eq, hbound]
theorem exec_vstat_bound {p : Pfx} {d a : BitVec 4} {s u : State} {st : Stream} (hu : u = s.charged 2 0)
    (h : s.issues (.vstat p d a) .plain 2 0 = true) (hroom : s.vroom = true) (hbound : (s.dirAt (p.an a)).isSome = true)
    (hheld : u.vheld [p.an a] [p.an a] = false) (hst : u.binding (p.an a) = some st) :
    exec (.vstat p d a) s = .next (((u.ws (p.dn d) st.status).enqueueV true 0#5).done (.vstat p d a)) := by
  subst hu
  refine issue_ok h (.inl rfl) rfl hroom rfl rfl ?_
  obtain ⟨b, hb⟩ := Option.isSome_iff_exists.1 hbound
  simp [queued, plain, (s.charged_queueKept 2 0).dirAt_eq, hb, hheld, hst]

/-! ### The stream unit (R205, R206) -/

theorem exec_streamUnitFetch {s : State} {st : Stream} {bs : List Byte} {e n : Nat} (hst : s.myCell.stream s.sel.k = some st)
    (hwr : st.wr = false) (herr : st.err = none) (hfault : st.fault = none) (hroom : st.ready.length < 8) (hrun : s.myTile.run ≠ .stopped)
    (hleft : st.done + st.ready.length < st.unitsLen) (hunit : (e, n) = st.unitElems (st.done + st.ready.length))
    (hread : streamReads s s.tid st e n = .ok bs) : exec .streamUnitFetch s = .next ((s.meetUnit st e n).setMyCell
      ((s.meetUnit st e n).myCell.setStream s.sel.k (some { st with ready := st.ready ++ [packBytes bs] }))) := by
  have hrun' : (s.myTile.run == .stopped) = false := by simpa using hrun
  show execStreamUnitFetch s = _
  simp only [execStreamUnitFetch, hst]
  rw [if_neg (by simp [hrun', hwr, herr, hfault, hroom, hleft]), ← hunit]
  simp only [hread, (s.meetUnit_kept st e n).sel]

/-- The stores of the oldest pushed unit are performed, and it leaves its stream (R206). -/
theorem exec_streamUnitWrite {s : State} {st : Stream} {q : Push} {rest : List Push} (hst : s.myCell.stream s.sel.k = some st)
    (hpushed : st.pushed = q :: rest) (hrun : s.myTile.run ≠ .stopped) (hflaws : s.flaws = []) :
    exec .streamUnitWrite s = .next ((s.perform s.tid q.ws).setMyCell ((s.perform s.tid q.ws).myCell.setStream s.sel.k (some { st with pushed := rest }))) := by
  have hrun' : (s.myTile.run == .stopped) = false := by simpa using hrun
  show execStreamUnitWrite s = _
  simp [execStreamUnitWrite, State.writeUnit, hst, hpushed, hrun', State.write_eq, hflaws]

end Sys2Proof.Machine
end

section
/-! The vector queue (08 R196 to R199): an instruction that joins it behind others or waits in it, a result that is formed later, a
completion and a new window. -/

namespace Sys2Proof.Machine

open Sys2Proof.Claims

/-! ### An instruction that joins the queue behind others (R196) -/

/-- The acting cell with the entry of an instruction whose result is formed later. -/
def State.lateCell (u : State) (i : Instr) (F : VForm) : Cell :=
  { u.myCell with vq := u.myCell.vq ++ [⟨u.sel.slot, u.ctx.ident, F.whole, 15#4, 0#5, .late i u.ctx, ⟨F.srcs, F.vdst.toList, none, none⟩⟩] }
/-- The acting context that interlocks the scalar register which a VEXT writes later. -/
def VForm.interlocks (F : VForm) (c : Ctx) : Ctx := if F.toS then { c with vdest := c.vdest ++ [F.dst] } else c

theorem VForm.interlocks_regs (F : VForm) (c : Ctx) : (F.interlocks c).regs = c.regs := by
  unfold VForm.interlocks; split <;> rfl
theorem VForm.interlocks_pc (F : VForm) (c : Ctx) : (F.interlocks c).pc = c.pc := by
  unfold VForm.interlocks; split <;> rfl
theorem VForm.mem_interlocks {F : VForm} (h : F.toS = true) (c : Ctx) : F.dst ∈ (F.interlocks c).loadDests := by
  rw [VForm.interlocks, if_pos h, Ctx.loadDests]
  exact List.mem_append_left _ (List.mem_append_right _ (List.mem_singleton_self _))

/-- It changes the queue of its cell and its own context. -/
theorem State.joinLate_done {u : State} (i : Instr) (F : VForm) (h : u.sid ≤ 10) : (u.joinLate i F).done i =
    (u.setMyCell (u.lateCell i F)).setCtx ((F.interlocks u.ctx).over (u.ctx.pc + BitVec.ofNat 64 (2 * i.ilen))) := by
  have hctx : (u.setMyCell (u.lateCell i F)).ctx = u.ctx := State.ctxAt_setMyCell (x := u.lateCell i F) rfl u.sid
  have hsid : (u.setMyCell (u.lateCell i F)).sid ≤ 10 := h
  by_cases hs : F.toS = true
  · have hjoin : u.joinLate i F = (u.setMyCell (u.lateCell i F)).setCtx (F.interlocks u.ctx) := by
      rw [← hctx, VForm.interlocks, if_pos hs]
      exact if_pos hs
    have hdone := State.done_eq ((u.setMyCell (u.lateCell i F)).setCtx (F.interlocks u.ctx)) i hsid
    rw [hjoin, hdone, State.setCtx_setCtx, nextPc, State.ctx_setCtx _ _ hsid, F.interlocks_pc]
  · have hjoin : u.joinLate i F = u.setMyCell (u.lateCell i F) := if_neg hs
    rw [hjoin, State.done_eq _ i hsid, nextPc, hctx, VForm.interlocks, if_neg hs]

section

variable {i : Instr} {F : VForm} {s u : State} (hF : vform i = some F) (hu : u = s.charged 1 0) (h : s.issues i (guardMode i) 1 0 = true)
  (hroom : s.vroom = true) (hpart : PartExists i) (hmisuse : misuse F.srcs F.vdst s = false)

include hF hu h hroom hpart hmisuse

/-- Behind entries that have still to write what it reads, or to use what it writes, it joins the queue and its context goes on. -/
theorem exec_form_late (hplain : u.onStream (F.srcs ++ F.vdst.toList) = false) (hheld : u.vheld F.srcs F.vdst.toList = true) :
    ∃ t, exec i s = .next t ∧
      t.myCell.vq = s.myCell.vq ++ [⟨s.sel.slot, s.ctx.ident, F.whole, 15#4, 0#5, .late i u.ctx, ⟨F.srcs, F.vdst.toList, none, none⟩⟩] ∧
      t.myCell.v = s.myCell.v ∧ SameRegs s t [] ∧ SameModule s t ∧ SameSlots s t ∧ t.ctx.wait = .none ∧
      t.ctx.pc = s.ctx.pc + BitVec.ofNat 64 (2 * i.ilen) ∧ (F.toS = true → F.dst ∈ t.ctx.loadDests) := by
  have hsid := State.issues_sid h
  have husid : u.sid ≤ 10 := by rw [hu, State.charged_sid]; exact hsid
  have hcid : u.cid = s.cid := by rw [hu, State.charged_cid]
  have hkept : QueueKept s u := hu ▸ s.charged_queueKept 1 0
  have hv : u.myCell.v = s.myCell.v := by
    rcases s.charged_eq 1 0 with e | ⟨c, -, e⟩ <;> rw [hu, e]
    rw [State.myCell_setCtx]; rfl
  have hident : u.ctx.ident = s.ctx.ident := hu ▸ s.ident_charged 1 0 hsid
  have hpc : u.ctx.pc = s.ctx.pc := hu ▸ s.pc_charged 1 0 hsid
  have hbody : vwrite i F u = .ok (u.joinLate i F) := if_pos (by simp [hplain, hheld])
  refine ⟨_, exec_form_ok hF hu h hroom hpart hmisuse hbody, ?_⟩
  rw [State.joinLate_done i F husid]
  set w := u.setMyCell (u.lateCell i F)
  have hwsid : w.sid ≤ 10 := husid
  have hcell : w.myCell = u.lateCell i F := u.myCell_setMyCell _
  rw [State.myCell_setCtx, hcell, State.ctx_setCtx _ _ hwsid]
  refine ⟨?vq, hv, ?regs, ?module, ?slots, rfl, by rw [← hpc]; rfl, fun hs => VForm.mem_interlocks hs u.ctx⟩
  case vq =>
    show u.myCell.vq ++ _ = _
    rw [hkept.vq, hkept.sel, hident]
  case regs =>
    intro r _
    rw [w.rs_setCtx _ r hwsid]
    show vget (F.interlocks u.ctx).regs r 0#64 = _
    rw [F.interlocks_regs, ← s.rs_charged 1 0 r hsid, ← hu]; rfl
  case module =>
    have hmod : SameModule s u := hu ▸ sameModule_charged s 1 0
    exact (hmod.setMyCell hcid _).setCtx hcid _
  case slots =>
    intro n hn
    have husids : u.sid = s.sid := by rw [hu, State.charged_sid]
    have hne : n ≠ w.sid := fun e => hn (e.trans husids)
    have hslots : SameSlots s u := hu ▸ sameSlots_charged s 1 0
    rw [← hslots n hn, ← hcid]
    exact (sameSlots_setCtx w _ n hne).trans (State.ctxAt_setMyCell (x := u.lateCell i F) rfl n)

/-- On a stream it waits with its context behind every open entry. -/
theorem exec_form_stream (hbound : u.onStream (F.srcs ++ F.vdst.toList) = true) (hbusy : u.vbusy = true) :
    exec i s = .next ((u.queueWait (u.claimOf F.srcs F.vdst)).setCtx (u.ctx.waitAs 1 0 .stream)) := by
  have hturn : ¬ (!u.onStream (F.srcs ++ F.vdst.toList) && u.vheld F.srcs F.vdst.toList) = true := by simp [hbound]
  have hmisuse' : misuse F.srcs F.vdst u = false := by rw [hu, (s.charged_queueKept 1 0).misuse_eq, hmisuse]
  have hbody : vwrite i F u = .streamWait (u.claimOf F.srcs F.vdst) id := by
    rw [vwrite, if_neg hturn]
    simp [vqueue, hmisuse', hbound, hbusy]
  rw [exec_form hF hu h hroom hpart hmisuse, hbody]; rfl

end

/-! ### A result that is formed later (R196, R200) -/

section

variable {s x : State} {c j : Nat} {e : VEnt} {i : Instr} {y : Ctx} {F : VForm} (hq : (s.cell c).vq[j]? = some e) (hkind : e.kind = .late i y)
  (hF : vform i = some F) (hvec : F.toS = false) (hc : c < numCells) (hx : x = State.setCtx { s with sel := ⟨BitVec.ofNat 16 c, e.slot, 0⟩ } y)

include hq hkind hF hvec hc hx

/-- The result goes to the register of its cell, and the entry is ready. -/
theorem State.cell_formAt : (s.formAt c j).cell c = { s.cell c with
    v := vset (s.cell c).v F.dst (mergeLanes (vget (s.cell c).v F.dst zeroLanes) (F.f (fun n => vget (s.cell c).v n zeroLanes) x).new
      (F.f (fun n => vget (s.cell c).v n zeroLanes) x).mask)
    vq := (s.cell c).vq.modify j fun e =>
      { e with kind := .ready, claim := VClaim.none, flags := (F.f (fun n => vget (s.cell c).v n zeroLanes) x).flags } } := by
  have hcid : (BitVec.ofNat 16 c).toNat = c := by
    rw [BitVec.toNat_ofNat]
    exact Nat.mod_eq_of_lt (hc.trans (by decide))
  have hrv : State.rv { s with sel := ⟨BitVec.ofNat 16 c, e.slot, 0⟩ } = fun n => vget (s.cell c).v n zeroLanes := by
    funext n
    show vget (s.cell (BitVec.ofNat 16 c).toNat).v n zeroLanes = _
    rw [hcid]
  simp only [State.formAt, hq, hkind, hF, hvec, Bool.not_false, if_true, hrv, ← hx, State.cell_setCell]

omit hc hx in
theorem State.mem_formAt : (s.formAt c j).mem = s.mem := by
  simp only [State.formAt, hq, hkind, hF, hvec, Bool.not_false, if_true]; rfl

end

/-! ### A completion and a new window (R197, R199) -/

theorem State.ctxAt_setMyCell_setSlot (s : State) (x : Cell) (c : Ctx) {n : Nat} (h : n ≤ 10) :
    (s.setMyCell (x.setSlot n c)).ctxAt s.cid n = c := by
  show (s.setMyCell (x.setSlot n c)).myCell.slot n = c
  rw [s.myCell_setMyCell, Cell.slot_setSlot_self _ _ _ h]

/-- The flags of the oldest started instruction join the context that issued it. -/
theorem exec_vectorComplete {s : State} {e : VEnt} {rest : List VEnt} (hrun : s.myCell.vrun = e :: rest)
    (hlive : (s.ctxAt s.cid e.slot.toNat).live = true) (hident : (s.ctxAt s.cid e.slot.toNat).ident = e.ident) :
    exec .vectorComplete s = .next ((s.setMyCell { s.myCell with vrun := rest }).setMyCell
      (Cell.setSlot { s.myCell with vrun := rest } e.slot.toNat ((s.ctxAt s.cid e.slot.toNat).raise e.flags))) := by
  have hctx : (s.setMyCell { s.myCell with vrun := rest }).ctxAt s.cid e.slot.toNat = s.ctxAt s.cid e.slot.toNat :=
    State.ctxAt_setMyCell (x := { s.myCell with vrun := rest }) rfl _
  have hcell : (s.setMyCell { s.myCell with vrun := rest }).cell s.cid = { s.myCell with vrun := rest } := s.myCell_setMyCell _
  have hmine : ((s.ctxAt s.cid e.slot.toNat).live && (s.ctxAt s.cid e.slot.toNat).ident == e.ident) = true := by simp [hlive, hident]
  show execVectorComplete s = _
  simp only [execVectorComplete, hrun]
  rw [show State.cid (s.setMyCell { s.myCell with vrun := rest }) = s.cid from rfl, hctx, if_pos hmine, State.setCtxAt, hcell]; rfl

theorem State.quart_setQuart_self (s : State) (q : Nat) (x : Quartet) : (s.setQuart q x).quart q = x := mget_mset_self _ _ _ _

end Sys2Proof.Machine
end

section
/-! A grant of the arbiter (08 R197): a quartet in which one instruction alone waits, and every lane group is free. -/

namespace Sys2Proof.Machine

open Sys2Proof.Claims

theorem foldl_fixed_of_mem {α β : Type} {f : α → β → α} {a : α} {l : List β} (h : ∀ b ∈ l, f a b = a) : l.foldl f a = a := by
  induction l with
  | nil => rfl
  | cons b l ih =>
    rw [List.forall_mem_cons] at h
    rw [List.foldl_cons, h.1, ih h.2]

/-! ### The order of the cells -/

theorem mem_insertPass {x c : Nat × Nat} {l : List (Nat × Nat)} : x ∈ insertPass c l ↔ x = c ∨ x ∈ l := by
  induction l with
  | nil => simp [insertPass]
  | cons d l ih =>
    rw [insertPass]
    split
    · simp only [List.mem_cons, ih]; tauto
    · simp only [List.mem_cons]
theorem mem_passOrder {x : Nat × Nat} {l : List (Nat × Nat)} : x ∈ passOrder l ↔ x ∈ l := by
  have hfold (acc : List (Nat × Nat)) : x ∈ l.foldl (fun acc c => insertPass c acc) acc ↔ x ∈ l ∨ x ∈ acc := by
    induction l generalizing acc with
    | nil => simp
    | cons c l ih => rw [List.foldl_cons, ih, mem_insertPass, List.mem_cons]; tauto
  rw [passOrder, hfold]; simp

/-- The positions of a quartet in the order of their grants: the weighted ones by pass value, then the others. -/
def grantOrder (w : BitVec 16) (pv : Nat → Nat) : List Nat :=
  (passOrder (((List.range 4).filter fun k => decide (1 ≤ weightOf w k)).map fun k => (k, pv k))).map (·.1) ++
    (List.range 4).filter fun k => weightOf w k == 0
/-- Each of the four has its turn. -/
theorem mem_grantOrder {w : BitVec 16} {pv : Nat → Nat} {k : Nat} : k ∈ grantOrder w pv ↔ k < 4 := by
  have hweighted : k ∈ (passOrder (((List.range 4).filter fun k => decide (1 ≤ weightOf w k)).map fun k => (k, pv k))).map (·.1) ↔
      k < 4 ∧ 1 ≤ weightOf w k := by
    simp [List.mem_map, mem_passOrder, and_assoc]
  have hrest : k ∈ (List.range 4).filter (fun k => weightOf w k == 0) ↔ k < 4 ∧ weightOf w k = 0 := by simp
  rw [grantOrder, List.mem_append, hweighted, hrest]
  omega

/-! ### What precedes the grants -/

/-- A cell with no open entry has nothing to form. -/
theorem State.formCell_of_ready {s : State} {c : Nat} (h : ∀ e ∈ (s.cell c).vq, e.isOpen = false) : s.formCell c = s := by
  refine foldl_fixed_of_mem fun j _ => ?_
  dsimp only
  split
  · rename_i e he
    rw [h e (List.mem_of_getElem? he), Bool.false_and, if_neg Bool.false_ne_true]
  · rfl

/-- Nothing but the pass values of the cells, and whether they had an eligible slice, has changed. -/
structure PassKept (s t : State) : Prop where
  mem : t.mem = s.mem
  tiles : t.tiles = s.tiles
  sel : t.sel = s.sel
  cell : ∀ c, ∃ b n, t.cell c = { s.cell c with elig := b, pval := n }

theorem PassKept.refl (s : State) : PassKept s s := ⟨rfl, rfl, rfl, fun _ => ⟨_, _, rfl⟩⟩
theorem PassKept.trans {s t u : State} (h : PassKept s t) (k : PassKept t u) : PassKept s u := by
  refine ⟨k.mem.trans h.mem, k.tiles.trans h.tiles, k.sel.trans h.sel, fun c => ?_⟩
  obtain ⟨b, n, ht⟩ := h.cell c
  obtain ⟨b', n', hu⟩ := k.cell c
  exact ⟨b', n', by rw [hu, ht]⟩
theorem PassKept.foldl {α : Type} {f : State → α → State} (hf : ∀ s x, PassKept s (f s x)) (l : List α) (s : State) :
    PassKept s (l.foldl f s) := by
  induction l generalizing s with
  | nil => exact .refl s
  | cons x l ih => exact (hf s x).trans (ih _)
theorem PassKept.ite {s t : State} {p : Prop} [Decidable p] (h : PassKept s t) : PassKept s (if p then t else s) := by
  split
  · exact h
  · exact .refl s
theorem State.setCell_passKept (s : State) (c : Nat) (b : Bool) (n : Nat) : PassKept s (s.setCell c { s.cell c with elig := b, pval := n }) := by
  refine ⟨rfl, rfl, rfl, fun k => ?_⟩
  rw [s.cell_setCell]
  split
  · rename_i hk; subst hk; exact ⟨_, _, rfl⟩
  · exact ⟨_, _, rfl⟩

theorem catchUp_passKept (q : Nat) (w : BitVec 16) (s : State) : PassKept s (catchUp q w s) := by
  refine .foldl (fun s k => ?_) _ s
  exact .ite (s.setCell_passKept _ _ _)

section

variable {s t : State} (h : PassKept s t)

include h

theorem PassKept.vq_eq (c : Nat) : (t.cell c).vq = (s.cell c).vq := by
  obtain ⟨b, n, ht⟩ := h.cell c
  rw [ht]
theorem PassKept.vrun_eq (c : Nat) : (t.cell c).vrun = (s.cell c).vrun := by
  obtain ⟨b, n, ht⟩ := h.cell c
  rw [ht]
theorem PassKept.entryHeld_eq (c : Nat) (e : VEnt) : t.entryHeld c e = s.entryHeld c e := by
  obtain ⟨b, n, ht⟩ := h.cell c
  have hctx : t.ctxAt c e.slot.toNat = s.ctxAt c e.slot.toNat := by rw [State.ctxAt, ht]; rfl
  rw [State.entryHeld, hctx, State.tile, h.tiles, State.entryHeld, State.tile]

end

/-! ### The grants -/

/-- A cell without entries takes nothing. -/
theorem grantTo_idle {q k : Nat} {w : BitVec 16} {acc : List Nat × State} (h : (acc.2.cell (4 * q + k)).vq = []) : grantTo q w acc k = acc := by
  have hnone (held : VEnt → Bool) (free : List Nat) : takeGroups held [] free = [] := by simp [takeGroups, oldestAt]
  simp [grantTo, h, hnone]

section

variable {e : VEnt} (hready : e.isOpen = false) (htodo : e.todo = 15#4)

include hready htodo

/-- A whole instruction, or slices of one that is not, start in all four groups. -/
theorem takeGroups_alone {held : VEnt → Bool} (hheld : held e = false) : takeGroups held [e] [0, 1, 2, 3] = [0, 1, 2, 3] := by
  have hkind : e.kind = .ready := by simpa [VEnt.isOpen] using hready
  have hfirst : ∀ g < 4, oldestAt [e] g = some 0 := fun g hg => by
    interval_cases g <;> simp [oldestAt, List.findIdx?_cons, hkind, htodo]
  simp [takeGroups, hfirst, hheld, List.range, List.range.loop]

theorem startSlices_alone {x : Cell} (hvq : x.vq = [e]) :
    startSlices x [0, 1, 2, 3] = { x with vq := [], vrun := x.vrun ++ [{ e with todo := 0#4 }] } := by
  have hkind : e.kind = .ready := by simpa [VEnt.isOpen] using hready
  simp [startSlices, hvq, oldestAt, List.findIdx?_cons, hkind, htodo]

end

/-- A cell whose one entry has started, with the pass value `n`. -/
def Cell.granted (x : Cell) (e : VEnt) (n : Nat) : Cell := { x with vq := [], vrun := x.vrun ++ [{ e with todo := 0#4 }], pval := n }

section

variable {q k : Nat} {w : BitVec 16} {s : State} {e : VEnt} (hvq : (s.cell (4 * q + k)).vq = [e]) (htodo : e.todo = 15#4)
  (hheld : s.entryHeld (4 * q + k) e = false)

include hheld in
theorem State.ready_of_not_entryHeld : e.isOpen = false := (Bool.or_eq_false_iff.1 hheld).1

include hvq htodo hheld

/-- The cell's one entry takes the four groups. -/
theorem grantTo_alone : ∃ n, grantTo q w ([0, 1, 2, 3], s) k = ([], s.setCell (4 * q + k)
    ((s.cell (4 * q + k)).granted e n)) := by
  have hready := State.ready_of_not_entryHeld hheld
  have htake : takeGroups (s.entryHeld (4 * q + k)) (s.cell (4 * q + k)).vq [0, 1, 2, 3] = [0, 1, 2, 3] := by
    rw [hvq]
    exact takeGroups_alone hready htodo hheld
  refine ⟨if weightOf w k = 0 then (s.cell (4 * q + k)).pval else (s.cell (4 * q + k)).pval + 4 * (360360 / weightOf w k), ?_⟩
  simp only [grantTo, htake, startSlices_alone hready htodo hvq]
  rfl

/-- The other cells of the quartet take nothing, before it or after it. -/
theorem foldl_grantTo_alone {l : List Nat} (hidle : ∀ j ∈ l, j ≠ k → (s.cell (4 * q + j)).vq = []) (hk : k ∈ l) :
    ∃ n, l.foldl (grantTo q w) ([0, 1, 2, 3], s) = ([], s.setCell (4 * q + k)
      ((s.cell (4 * q + k)).granted e n)) := by
  obtain ⟨before, after, rfl, hnot⟩ := List.eq_append_cons_of_mem hk
  obtain ⟨n, hgrant⟩ := grantTo_alone (w := w) hvq htodo hheld
  have hbefore : before.foldl (grantTo q w) ([0, 1, 2, 3], s) = ([0, 1, 2, 3], s) := foldl_fixed_of_mem fun j hj =>
    grantTo_idle (hidle j (List.mem_append_left _ hj) (ne_of_mem_of_not_mem hj hnot))
  refine ⟨n, ?_⟩
  rw [List.foldl_append, hbefore, List.foldl_cons, hgrant]
  refine foldl_fixed_of_mem fun j hj => grantTo_idle ?_
  dsimp only
  rw [State.cell_setCell]
  split
  · rfl
  · rename_i hne
    exact hidle j (List.mem_append_right _ (List.mem_cons_of_mem _ hj)) fun hjk => hne (by rw [hjk])

end

/-- One cycle of the arbiter starts the instruction that stands alone in its quartet's queues. -/
theorem exec_arbiterGrant_alone {s : State} {e : VEnt} (hvq : s.myCell.vq = [e]) (htodo : e.todo = 15#4) (hheld : s.entryHeld s.cid e = false)
    (hidle : ∀ c, c / 4 = s.cid / 4 → c ≠ s.cid → (s.cell c).vq = []) :
    ∃ t, exec .arbiterGrant s = .next t ∧ t.myCell.vq = [] ∧ t.myCell.vrun = s.myCell.vrun ++ [{ e with todo := 0#4 }] ∧
      t.mem = s.mem ∧ t.tiles = s.tiles := by
  set q := s.cid / 4 with hq
  set k := s.cid % 4
  have hcid : 4 * q + k = s.cid := Nat.div_add_mod _ _
  have hothers : ∀ j < 4, j ≠ k → (s.cell (4 * q + j)).vq = [] := fun j hj hjk => hidle _ (by omega) (by omega)
  have hform : (List.range 4).foldl (fun s k => s.formCell (4 * q + k)) s = s := by
    refine foldl_fixed_of_mem fun j hj => State.formCell_of_ready ?_
    by_cases hjk : j = k
    · rw [hjk, hcid]
      show ∀ x ∈ s.myCell.vq, x.isOpen = false
      rw [hvq, List.forall_mem_singleton]
      exact State.ready_of_not_entryHeld (q := q) (k := k) (by rw [hcid]; exact hheld)
    · rw [hothers j (List.mem_range.1 hj) hjk]
      exact fun _ hx => absurd hx List.not_mem_nil
  obtain ⟨v, hv⟩ : ∃ v, v = catchUp q (s.quart q).force s := ⟨_, rfl⟩
  have hkept : PassKept s v := hv ▸ catchUp_passKept q (s.quart q).force s
  obtain ⟨n, hgrant⟩ := foldl_grantTo_alone (w := (s.quart q).force) (q := q) (k := k) (s := v) (e := e)
    (l := grantOrder (s.quart q).force fun k => (v.cell (4 * q + k)).pval)
    (by rw [hkept.vq_eq, hcid]; exact hvq) htodo (by rw [hkept.entryHeld_eq, hcid]; exact hheld)
    (fun j hj hjk => by rw [hkept.vq_eq]; exact hothers j (mem_grantOrder.1 hj) hjk) (mem_grantOrder.2 (Nat.mod_lt _ (by decide)))
  refine ⟨v.setCell (4 * q + k) ((v.cell (4 * q + k)).granted e n), ?_, ?_⟩
  · show execArbiterGrant s = _
    rw [grantOrder] at hgrant
    simp only [execArbiterGrant, ← hq, hform, ← hv, hgrant]
  · have hvcid : v.cid = 4 * q + k := by rw [State.cid, hkept.sel, hcid, State.cid]
    have hcell : (v.setCell (4 * q + k) ((v.cell (4 * q + k)).granted e n)).myCell = (v.cell (4 * q + k)).granted e n := by
      rw [← hvcid]
      exact v.myCell_setMyCell _
    rw [hcell]
    refine ⟨rfl, ?_, hkept.mem, hkept.tiles⟩
    rw [Cell.granted, hkept.vrun_eq, hcid]; rfl

end Sys2Proof.Machine
end

section
/-! O30: streams and the vector queue. -/

namespace Sys2Proof.Proofs

open Sys2Proof Sys2Proof.Machine Sys2Proof.Claims

/-- Settles O30: each instruction on the charged state, where it stands in the queue; each step of the stream units and of the arbiter. -/
theorem vectorQueue : Obligations.VectorQueue := by
  unfold Obligations.VectorQueue
  refine ⟨⟨?vbind, ?vunbind, ?unbound, ?vstat, ?fetch, ?write⟩, ⟨?joins, ?forms⟩, ?complete, ?window, ?grant⟩
  case vbind =>
    intro p d a s m u bs st w hm hu h hdir hdone hw hread hst hroom hfree
    refine ⟨fun hheld => exec_vbind_now hm hu h hdir hdone hread hst hroom hfree hheld hw, fun hheld => ?_⟩
    obtain ⟨t, hexec, hwait, hvq⟩ := exec_vbind_late hm hu h hdir hdone hread hst hroom hfree hheld
    exact ⟨t, hexec, hwait, fun _ => hvq⟩
  case vunbind =>
    intro p d a s u st hu h hbound hroom hheld hst hpushed
    exact exec_vunbind hu h hbound hroom hheld hst hpushed
  case unbound =>
    rintro p d a s u rfl h hbound hroom
    exact exec_vunbind_unbound h hbound hroom
  case vstat =>
    intro p d a s u hu h hroom
    refine ⟨fun hbound => hu ▸ exec_vstat_unbound h hroom hbound, fun st hbound hheld hst => ?_⟩
    exact exec_vstat_bound hu h hroom hbound hheld hst
  case fetch =>
    rintro s w st bs e n hst hwr herr hfault hready hrun hleft hunit hread rfl
    exact exec_streamUnitFetch hst hwr herr hfault hready hrun hleft hunit hread
  case write =>
    intro s st q rest hst hpushed hrun hflaws
    refine ⟨_, exec_streamUnitWrite hst hpushed hrun hflaws, rfl, fun hk => ?_⟩
    rw [State.myCell_setMyCell]
    exact vget_vset_self _ _ _ _ hk
  case joins =>
    intro i F s u hF hu h hroom hmisuse hparts
    have hpart : PartExists i := by
      unfold PartExists
      split
      · exact hparts _ _ _ _ rfl
      · trivial
    exact ⟨exec_form_late hF hu h hroom hpart hmisuse, exec_form_stream hF hu h hroom hpart hmisuse⟩
  case forms =>
    rintro s t x c j e i y F hq hkind hF hvec - hc hx rfl
    have hcell := State.cell_formAt hq hkind hF hvec hc hx
    refine ⟨by rw [hcell], ?_, State.mem_formAt hq hkind hF hvec, by rw [hcell]⟩
    rw [hcell]
    simp [hq]
  case complete =>
    intro s e rest hrun hlive hident hslot
    refine ⟨_, exec_vectorComplete hrun hlive hident, ?_, ?_, ((SameModule.refl s).setMyCell rfl _).setMyCell rfl _⟩
    · rw [State.myCell_setMyCell]; rfl
    · exact congrArg Ctx.fcsr (State.ctxAt_setMyCell_setSlot (s.setMyCell { s.myCell with vrun := rest }) _ _ hslot)
  case window =>
    intro s
    refine ⟨_, rfl, ?_, ?_, rfl, rfl, rfl⟩ <;> rw [State.quart_setQuart_self]
  case grant =>
    intro s e hvq htodo hheld hidle
    exact exec_arbiterGrant_alone hvq htodo hheld hidle

end Sys2Proof.Proofs
end

section
/-! Moves between memory, the latch and the accumulators, and the kernel's moves of banks (09 R234 to R238). -/

namespace Sys2Proof.Machine

open Sys2Proof.Claims

/-! ### The operands of a matrix instruction that may access memory -/

theorem opA_ready {p : Pfx} {u v : State} (a : BitVec 4) (h : MemReady p u v) : opA p a v = u.rs (p.an a) := by
  obtain ⟨rfl, -, -⟩ := h
  exact (released_kept p u).rs_eq _

theorem moveSize_raw {p : Pfx} (s : State) (h : viewOf p = none) : moveSize p s = (8, 8 * validRows s 16) := by
  rw [moveSize, h]

theorem moveSize_view {p : Pfx} {t : Ty} {c rows : Nat} (s : State) (h : viewOf p = some (t, c, rows)) :
    moveSize p s = ((pShape p).ty.bytes, validRows s rows * c) := by
  rw [moveSize, h]

/-! ### MLDB, MPASS, MZERO, MROW (R234, R235) -/

section

variable {p : Pfx} {d a : BitVec 4} {s u : State} (hu : u = s.charged 2 0)

include hu

theorem exec_mldb {v w : State} {va : Word} {B n : Nat} (h : s.issues (.mldb p d a) .plain 2 0 = true) (hready : latchReady s = true)
    (hmem : MemReady p u v) (hn : n = (pShape p).k * (pShape p).n * (pShape p).ty.bytes)
    (hva : va = u.rs (p.an a) + BitVec.ofInt 64 (16 * p.imm0)) (hB : matRead v va n = .ok B) (hw : w = v.matTouch va n) :
    exec (.mldb p d a) s = .next ((withAcquire p (w.setMyCell { w.myCell with latch := { w.myCell.latch with
      cur := BitVec.ofNat 4096 (B + w.myCell.latch.cur.toNat / 2 ^ (8 * n) * 2 ^ (8 * n)), chops := 0#4 } })).done (.mldb p d a)) := by
  subst hu hn hva hw
  refine issue_matrix h hready rfl ?_
  simp only [matMem_ready _ hmem, addr16_ready a hmem, hB]

theorem exec_mpass (h : s.issues (.mpass p d a) .plain 2 0 = true) (hready : latchReady s = true) :
    exec (.mpass p d a) s = .next ((u.handoff u.cid).done (.mpass p d a)) := by
  subst hu
  exact issue_matrix h hready rfl rfl

theorem exec_mzero {w : State} {b : Bool} (h : s.issues (.mzero p d a) .plain 2 0 = true) (hready : accReady s = true)
    (hclaim : u.claimBank = .ok (b, w)) : exec (.mzero p d a) s = .next ((w.putAcc b (p.dn d) 0#8192).done (.mzero p d a)) := by
  subst hu
  refine issue_matrix h hready rfl ?_
  simp only [withBank, hclaim]

theorem exec_mrow {b : Bool} {x : BitVec 8192} {y t : State} {fl : FFlags} (h : s.issues (.mrow p d a) .plain 2 0 = true)
    (hready : accReady s = true) (hheld : s.vheld [] [p.an a] = false) (hmisuse : misuse [] (some (p.an a)) u = false)
    (hacc : AccRead u (p.dn d) b x y)
    (hput : putLanes (p.an a) ⟨unpackLanes (x.extractLsb' (1024 * (p.immW.toNat % 8)) 1024), BitVec.allOnes 32, 0#5⟩ y = .ok (t, fl)) :
    exec (.mrow p d a) s = .next ((t.raise fl).done (.mrow p d a)) := by
  subst hu
  rw [(s.charged_queueKept 2 0).misuse_eq] at hmisuse
  obtain ⟨w, hclaim, hgood, rfl, rfl⟩ := hacc
  refine issue_ok (sh := { matrix _ 2 _ with own := misuseErr (.mrow p d a) [] (some (p.an a)) }) h (.inl rfl)
    (misuseErr_none _ hmisuse) ?_ rfl rfl ?_
  · show (accReady s && !s.vheld [] [p.an a]) = true
    rw [hready, hheld]
    rfl
  · simp only [matrix, Shape.unissued, withBank, hclaim, readAcc_good _ hgood, hput]
    rfl

end

/-! ### MST (R236) -/

/-- The accesses that a context has pending stand whatever flags it raises. -/
theorem State.raise_pend (s : State) (f : FFlags) : (s.raise f).ctx.pend = s.ctx.pend := by
  by_cases h : s.sid ≤ 10
  · rw [s.ctx_raise f h]
    rfl
  · have hslots : vset s.myCell.slots s.sid (s.ctx.raise f) = s.myCell.slots := Vector.setIfInBounds_eq_of_size_le (by omega)
    show ((s.setCtx (s.ctx.raise f)).myCell.slot s.sid).pend = _
    rw [State.myCell_setCtx, Cell.setSlot, hslots]
    rfl

theorem State.pendMeets_raise (s : State) (f : FFlags) (bs : List WByte) : (s.raise f).pendMeets bs = s.pendMeets bs := by
  have hstrm : (s.raise f).myCell.strm = s.myCell.strm := by
    rw [State.raise, State.myCell_setCtx]
    rfl
  have htouches (pa n : Nat) : (s.raise f).pendTouches pa n = s.pendTouches pa n := by
    simp only [State.pendTouches, Ctx.pendTouches, Cell.pushTouches, s.raise_pend f, hstrm, State.raise_sel]
  simp only [State.pendMeets, htouches]

section

variable {p : Pfx} {d a : BitVec 4} {s u v y z : State} {pl : Place} {b : Bool} {x : BitVec 8192}
  {ys : List (List WByte × Nat × FFlags)} (hu : u = s.charged 16 0) (h : s.issues (.mst p d a) .plain 16 0 = true)
  (hready : accReady s = true) (hmem : MemReady p u v)
  (hcheck : matCheck v (u.rs (p.an a)) ((moveSize p u).1 * (moveSize p u).2) = .ok pl) (hwindow : mstWindow v (moveSize p u).1 pl = false)
  (hacc : AccRead v (p.dn d) b x y) (hys : mstStores y (mstPieces p x y).1 (u.rs (p.an a)) (mstPieces p x y).2.1 = .ok ys)
  (hz : z = y.touchPuts (pieces (u.rs (p.an a)) (mstPieces p x y).1 (mstPieces p x y).2.1.length) (mstPieces p x y).1)

include hu h hready hmem hcheck hwindow hacc hys hz

theorem exec_mst_issued (hacq : pAcq p = false) : exec (.mst p d a) s =
    .next ((ys.foldl (fun s y => s.issueStore y .matrix) (z.raise (mstPieces p x y).2.2)).done (.mst p d a)) := by
  subst hu hz
  obtain ⟨w, hclaim, hgood, rfl, rfl⟩ := hacc
  refine issue_matrix h hready rfl ?_
  simp only [opA, matMem_ready _ hmem, hcheck, hwindow, hacq, withBank, hclaim, readAcc_good _ hgood, hys, Bool.false_and,
    Bool.false_eq_true, if_false]

/-- With an acquire part the stores are performed at once, when nothing that the acquire waits for is left (log entry 11). -/
theorem exec_mst_performed (hacq : pAcq p = true) (hpend : v.ctx.pend = []) (hmeets : z.pendMeets (ys.flatMap (·.1)) = false) :
    exec (.mst p d a) s = .next (((ys.foldl (fun s y => (s.raise y.2.2).write s.tid y.1) (z.raise (mstPieces p x y).2.2)).acquire
      (pScope p)).done (.mst p d a)) := by
  rw [← z.pendMeets_raise (mstPieces p x y).2.2] at hmeets
  subst hu hz
  obtain ⟨w, hclaim, hgood, rfl, rfl⟩ := hacc
  refine issue_matrix h hready rfl ?_
  simp only [opA, matMem_ready _ hmem, hcheck, hwindow, hacq, hpend, withBank, hclaim, readAcc_good _ hgood, hys, hmeets,
    withAcquire_acq _ hacq, List.isEmpty_nil, Bool.not_true, Bool.and_false, Bool.false_eq_true, if_false, if_true]

end

/-! ### MLD (R236) -/

/-- The bits of an element of the accumulator in the view. -/
def moveWidth (p : Pfx) : Nat := match viewOf p with | none => 64 | some (t, _, _) => 4 * t.nibbles

/-- The element `q` that MLD puts in the accumulator, of an operand of `n`-byte elements: raw, or converted to the view's type. -/
def movedIn (p : Pfx) (w : State) (n M q : Nat) : Nat × FFlags :=
  match viewOf p with
  | none => (elAt 64 M q, 0#5)
  | some (t, _, _) => convert (pShape p).ty t (roundMode p w) (satOn p) (elAt (8 * n) M q)

/-- The lowest elements of accumulator `d` get the codes; one that keeps a part of what it held keeps its error too. -/
def State.putLow (w : State) (b : Bool) (d wd : Nat) (xs : List Nat) : State :=
  let y := w.putAcc b d (setLow wd xs ((w.myCell.bank b).at d))
  if wd * xs.length < 8192 then y.setMyCell (y.myCell.setBank b { y.myCell.bank b with bad := (w.myCell.bank b).bad }) else y

theorem State.putLow_eq {w : State} {b : Bool} {d wd k : Nat} {xs : List Nat} (h : xs.length = k) : w.putLow b d wd xs =
    if wd * k < 8192 then
      (w.putAcc b d (setLow wd xs ((w.myCell.bank b).at d))).setMyCell ((w.putAcc b d (setLow wd xs ((w.myCell.bank b).at d))).myCell.setBank b
        { (w.putAcc b d (setLow wd xs ((w.myCell.bank b).at d))).myCell.bank b with bad := (w.myCell.bank b).bad })
    else w.putAcc b d (setLow wd xs ((w.myCell.bank b).at d)) := by
  rw [← h]
  rfl

theorem moveWidth_raw {p : Pfx} (h : viewOf p = none) : moveWidth p = 64 := by
  rw [moveWidth, h]

theorem moveWidth_view {p : Pfx} {t : Ty} {c rows : Nat} (h : viewOf p = some (t, c, rows)) : moveWidth p = 4 * t.nibbles := by
  rw [moveWidth, h]

theorem movedIn_raw {p : Pfx} (w : State) (n M : Nat) (h : viewOf p = none) : movedIn p w n M = fun q => (elAt 64 M q, 0#5) := by
  funext q
  rw [movedIn, h]

theorem movedIn_view {p : Pfx} {t : Ty} {c rows : Nat} (w : State) (n M : Nat) (h : viewOf p = some (t, c, rows)) :
    movedIn p w n M = fun q => convert (pShape p).ty t (roundMode p w) (satOn p) (elAt (8 * n) M q) := by
  funext q
  rw [movedIn, h]

/-- Raw elements set no flag. -/
theorem flags_of_exact (f : Nat → Nat) (l : List Nat) : (l.map fun q => (f q, 0#5)).foldl (fun f r => f ||| r.2) 0#5 = 0#5 := by
  induction l with
  | nil => rfl
  | cons q l ih => rwa [List.map_cons, List.foldl_cons, BitVec.or_zero]

theorem exec_mld {p : Pfx} {d a : BitVec 4} {s u v w : State} {n k M : Nat} {b : Bool} {rs : List (Nat × FFlags)}
    (hu : u = s.charged 16 0) (h : s.issues (.mld p d a) .plain 16 0 = true) (hready : accReady s = true) (hmem : MemReady p u v)
    (hsize : moveSize p u = (n, k)) (hM : matRead v (u.rs (p.an a)) (n * k) = .ok M)
    (hclaim : (v.matTouch (u.rs (p.an a)) (n * k)).claimBank = .ok (b, w)) (hrs : rs = (List.range k).map (movedIn p w n M)) :
    exec (.mld p d a) s = .next ((withAcquire p ((w.putLow b (p.dn d) (moveWidth p) (rs.map (·.1))).raise
      (rs.foldl (fun f r => f ||| r.2) 0#5))).done (.mld p d a)) := by
  subst hu hrs
  refine issue_matrix h hready rfl ?_
  simp only [hsize, matMem_ready _ hmem, opA_ready a hmem, hM, withBank, hclaim]
  rw [State.putLow_eq (k := k) (by rw [List.length_map, List.length_map, List.length_range]), List.length_map, List.length_range]
  rfl

/-! ### MWAIT and MBANK (R237, R238) -/

theorem exec_mwait {p : Pfx} {d a : BitVec 4} {s u : State} (hu : u = s.charged 2 0) (h : s.issues (.mwait p d a) .plain 2 0 = true)
    (hfree : unitFree u = true) (hdone : mstDone u = true) : exec (.mwait p d a) s = .next (u.done (.mwait p d a)) := by
  subst hu
  refine issue_ok h (.inl rfl) rfl rfl rfl rfl ?_
  simp only [plain, hfree, hdone, Bool.and_self, if_true]

/-- The memory key of the first of the bytes. -/
def firstKey (ws : List WByte) : Nat := match ws with | q :: _ => q.pa | [] => 0

/-- An MBANK that the kernel starts on a free unit does what its meaning does on the charged state. -/
theorem issue_mbank {i : Instr} {body : State → Res} {s t : State} (h : s.issues i .plain 2 0 = true) (hkernel : s.ctx.user = false)
    (hfree : unitFree s = true) (hg : readRegions i = []) (hb : body (s.charged 2 0) = .ok t) : mbank i body s = .next (t.done i) :=
  issue_ok h (.inr hkernel) rfl hfree rfl hg hb

section

variable {p : Pfx} {d a : BitVec 4} {s u : State} {b : Bool} (hu : u = s.charged 2 0) (hkernel : s.ctx.user = false)
  (hfree : unitFree s = true) (hb : b = (p.dn d == 1))

include hu hkernel hfree hb

theorem exec_mbankSel (h : s.issues (.mbankSel p d a) .plain 2 0 = true) : exec (.mbankSel p d a) s =
    .next ((u.setMyCell (u.myCell.setBank b (if s.rs (p.an a) = 0#64 then Bank.free else { u.myCell.bank b with
      owner := s.rs (p.an a) }))).done (.mbankSel p d a)) := by
  subst hu hb
  refine issue_mbank h hkernel hfree rfl ?_
  rw [opA_charged p a 2 0 (State.issues_sid h)]

theorem exec_mbankSpill {xs : List (List WByte × Nat × FFlags)} {w : State} (h : s.issues (.mbankSpill p d a) .plain 2 0 = true)
    (halign : (s.rs (p.an a)).toNat % 64 = 0) (hheld : u.ctx.accessHeld = false)
    (hxs : bankStores u (s.rs (p.an a)) 64 (u.myCell.bank b).bytes = .ok xs)
    (hw : w = (xs.foldl (fun s x => s.raise x.2.2) (u.touchPuts (pieces (s.rs (p.an a)) 64 64) 64)).storeBank (u.myCell.bank b)
      (xs.flatMap (·.1)) (xs.map fun x => firstKey x.1)) :
    exec (.mbankSpill p d a) s = .next ((w.setMyCell (w.myCell.setBank b Bank.free)).done (.mbankSpill p d a)) := by
  subst hu hb hw
  refine issue_mbank h hkernel hfree rfl ?_
  dsimp only
  rw [opA_charged p a 2 0 (State.issues_sid h), if_neg (not_not_intro halign), hheld, if_neg Bool.false_ne_true, hxs]
  rfl

theorem exec_mbankFill {bs : List Byte} {w : State} (h : s.issues (.mbankFill p d a) .plain 2 0 = true)
    (halign : (s.rs (p.an a)).toNat % 64 = 0) (hheld : u.ctx.accessHeld = false)
    (hbs : bankRead u (s.rs (p.an a)) 64 = .ok bs) (hw : w = u.touchAll (pieces (s.rs (p.an a)) 64 64) 64) :
    exec (.mbankFill p d a) s = .next ((w.setMyCell (w.myCell.setBank b ⟨(w.myCell.bank b).owner, accsOf (leNat bs), 0#4⟩)).done
      (.mbankFill p d a)) := by
  rw [hw]
  subst hu hb
  refine issue_mbank h hkernel hfree rfl ?_
  dsimp only
  rw [opA_charged p a 2 0 (State.issues_sid h), if_neg (not_not_intro halign), hheld, if_neg Bool.false_ne_true, hbs]

end

/-! ### Memory once a bank is stored -/

/-- Raised flags are no memory and leave the pending errors. -/
theorem foldl_raise_mem_flaws (xs : List (List WByte × Nat × FFlags)) (s : State) :
    (xs.foldl (fun s x => s.raise x.2.2) s).mem = s.mem ∧ (xs.foldl (fun s x => s.raise x.2.2) s).flaws = s.flaws := by
  induction xs generalizing s with
  | nil => exact ⟨rfl, rfl⟩
  | cons x xs ih => exact ih (s.raise x.2.2)

theorem State.storeBank_mem {s : State} (k : Bank) (ws : List WByte) (keys : List Nat) (h : s.flaws = []) :
    (s.storeBank k ws keys).mem = applyBytes s.mem ws :=
  congrArg State.mem (s.write_eq s.tid ws h)

/-- With no correctable error pending a spilled bank changes the bytes that its stores name, and no other. -/
theorem spilledBank_mem {u : State} (xs : List (List WByte × Nat × FFlags)) (vas : List Word) (k : Bank) (keys : List Nat)
    (h : u.flaws = []) : ((xs.foldl (fun s x => s.raise x.2.2) (u.touchPuts vas 64)).storeBank k (xs.flatMap (·.1)) keys).mem =
      applyBytes u.mem (xs.flatMap (·.1)) := by
  obtain ⟨hmem, hflaws⟩ := foldl_raise_mem_flaws xs u
  rw [u.touchPuts_of_sound vas 64 h, State.storeBank_mem k _ keys (hflaws.trans h), hmem]

end Sys2Proof.Machine

namespace Sys2Proof.Proofs

open Sys2Proof Sys2Proof.Machine Sys2Proof.Claims

/-- Settles O32: with its unit free and its operand there, each move of the matrix unit completes with what R234 to R238 give it, and a
bank's spill changes its own bytes of memory. -/
theorem matrixMoves : Obligations.MatrixMoves := by
  unfold Obligations.MatrixMoves
  refine ⟨?mldb, ?mpass, ?mzero, ?mrow, ?mst, ?mldRaw, ?mldView, ?mwait, ?mbankSel, ?mbankSpill, ?mbankFill⟩
  case mldb =>
    intro p d a s u v w va B n hu h hready hmem hn hva hB hw
    exact exec_mldb hu h hready hmem hn hva hB hw
  case mpass =>
    intro p d a s u hu h hready
    exact exec_mpass hu h hready
  case mzero =>
    intro p d a s u b w hu h hready hclaim
    exact exec_mzero hu h hready hclaim
  case mrow =>
    intro p d a s u b x y t fl hu h hready hheld hmisuse hacc hput
    exact exec_mrow hu h hready hheld hmisuse hacc hput
  case mst =>
    intro p d a s u v pl b x y z ys hu h hready hmem hpend hcheck hwindow hacc hys hz
    refine ⟨fun hacq => ?_, fun hacq hmeets => ?_⟩
    · exact exec_mst_issued hu h hready hmem hcheck hwindow hacc hys hz hacq
    · exact exec_mst_performed hu h hready hmem hcheck hwindow hacc hys hz hacq (hpend hacq) hmeets
  case mldRaw =>
    rintro p d a s u v M b w k x y z hu h hready hmem hview rfl hM hclaim rfl rfl rfl
    have hexec := exec_mld (d := d) hu h hready hmem (moveSize_raw u hview) hM hclaim rfl
    rw [movedIn_raw w 8 M hview, moveWidth_raw hview, flags_of_exact, List.map_map,
      State.putLow_eq (by rw [List.length_map, List.length_range])] at hexec
    exact hexec
  case mldView =>
    rintro p d a s u v M b w t c rows n k rs x y z hu h hready hmem hview rfl rfl hM hclaim rfl rfl rfl rfl
    have hexec := exec_mld (d := d) hu h hready hmem (moveSize_view u hview) hM hclaim rfl
    rw [movedIn_view w _ M hview, moveWidth_view hview, State.putLow_eq (by rw [List.length_map, List.length_map, List.length_range])] at hexec
    exact hexec
  case mwait =>
    intro p d a s u hu h hfree hdone
    exact exec_mwait hu h hfree hdone
  case mbankSel =>
    intro p d a s u b hu h hkernel hfree hb
    have hexec := exec_mbankSel hu hkernel hfree hb h
    refine ⟨fun hzero => ?_, fun howner => ?_⟩
    · rwa [if_pos hzero] at hexec
    · rwa [if_neg howner] at hexec
  case mbankSpill =>
    rintro p d a s u b xs keys w rfl h hkernel hfree hb halign hheld hxs rfl rfl
    refine ⟨exec_mbankSpill rfl hkernel hfree hb h halign hheld hxs rfl, fun hflaws => ?_⟩
    rw [spilledBank_mem xs _ _ _ ((s.charged_flaws 2 0).trans hflaws), State.charged_mem]
  case mbankFill =>
    intro p d a s u b bs w hu h hkernel hfree hb halign hheld hbs hw
    exact exec_mbankFill hu hkernel hfree hb h halign hheld hbs hw

end Sys2Proof.Proofs
end

section
/-! Memory stays in its canonical form (R241). Of all that a step does, only `State.perform` writes memory, and it keeps the form. So a
function of the model either leaves memory, and says so in a `_mem` lemma, or it writes through `State.write`, and says so in a `_mem_wf`
lemma; the outcomes of an instruction carry the form of the state they hold (`keepsForm`). One lemma per function, in the model's own
order, each from the lemmas of what it calls. -/

namespace Sys2Proof.Machine

/-! ### The form of what a function answers -/

/-- The state after the words that were read. -/
def FetchWord.keepsForm : FetchWord → Prop
  | .ok _ s => s.mem.wf = true
  | _ => True

def Fetched.keepsForm : Fetched → Prop
  | .instr _ s | .miss _ s | .err _ s => s.mem.wf = true

def StageOut.keepsForm : StageOut → Prop
  | .done s _ _ | .park s _ _ _ | .fault s _ _ => s.mem.wf = true
  | _ => True

def Elem.keepsForm : Elem State → Prop
  | .ok s => s.mem.wf = true
  | _ => True

/-- A source of elements reads with no loss of the form. -/
def Source.keepsForm (get : Source) : Prop := ∀ s i, s.mem.wf = true → (get s i).2.mem.wf = true

/-- The meaning that a shape carries keeps the form. -/
def Shape.keepsForm (sh : Shape) : Prop := ∀ s : State, s.mem.wf = true → (sh.body s).keepsForm

/-- What a deque operation does with its entry. -/
def DqOut.keepsForm : DqOut → Prop
  | .entry _ g => ∀ (k : Nat) (s : State), s.mem.wf = true → (g k s).keepsForm
  | _ => True

/-- What putting a result into a register or a stream answers. -/
def PutOut.keepsForm : Except Res (State × FFlags) → Prop
  | .error r => r.keepsForm
  | .ok t => t.1.mem.wf = true

/-- A meaning keeps memory in its canonical form. -/
def KeepsForm (f : State → Result) : Prop := ∀ s t, s.mem.wf = true → f s = .next t → t.mem.wf = true

theorem mem_wf_of_eq {s t : State} (e : t.mem = s.mem) (h : s.mem.wf = true) : t.mem.wf = true := e ▸ h

theorem mem_ite {s a b : State} {p : Prop} [Decidable p] (ha : a.mem = s.mem) (hb : b.mem = s.mem) :
    (if p then a else b).mem = s.mem := by
  split
  · exact ha
  · exact hb

/-- Through `issue` an instruction keeps the form when its meaning does; the traps and charges around it keep it. -/
theorem issue_keepsForm {i : Instr} {sh : Shape} (hs : sh.keepsForm) : KeepsForm (issue i sh) :=
  fun _ _ h he => issue_mem_wf h hs he

theorem PutOut.keepsForm_of_error {x : Except Res (State × FFlags)} {r : Res} (h : PutOut.keepsForm x) (e : x = .error r) :
    r.keepsForm := by
  subst e
  exact h

theorem PutOut.keepsForm_of_ok {x : Except Res (State × FFlags)} {t : State} {fl : FFlags} (h : PutOut.keepsForm x)
    (e : x = .ok (t, fl)) :
    t.mem.wf = true := by
  subst e
  exact h

/-! ### Cells, slots and tiles -/

@[simp] theorem State.eachCell_mem (s : State) (t : Nat) (f : Cell → Cell) : (s.eachCell t f).mem = s.mem :=
  foldl_mem _ (fun s x => by simp) _ _

@[simp] theorem State.setLive_mem (s : State) (c n : Nat) (y : Ctx) : (s.setLive c n y).mem = s.mem := rfl

@[simp] theorem State.acquire_mem (s : State) (scope : Nat) : (s.acquire scope).mem = s.mem := by
  unfold State.acquire
  simp

@[simp] theorem State.draw_mem (s : State) : s.draw.2.mem = s.mem := rfl

@[simp] theorem State.logViolation_mem (s : State) (t : Nat) (addr : Word) (cell desc : Nat) (kind right : Nat) :
    (s.logViolation t addr cell desc kind right).mem = s.mem :=
  rfl

@[simp] theorem State.logError_mem (s : State) (t array addr : Nat) (lasting : Bool) :
    (s.logError t array addr lasting).mem = s.mem :=
  rfl

/-! ### Cached translations (10 R245) -/

@[simp] theorem State.fillTlb_mem (s : State) (c : Nat) (e : TlbEntry) : (s.fillTlb c e).mem = s.mem := rfl

/-! ### Counters and firing (12 R296) -/

theorem State.checkFire_mem_wf (s : State) (t c : Nat) (h : s.mem.wf = true) : (s.checkFire t c).mem.wf = true := by
  unfold State.checkFire
  grind [checkFireFuel_mem_wf]

/-! ### Traps, the predicate stack, releases (14 R337, 04 R91, 11 R269) -/

theorem State.consume_mem_wf (s : State) (n : Nat) (id : BitVec 32) (h : s.mem.wf = true) : (s.consume n id).mem.wf = true := by
  unfold State.consume
  grind [State.ringPut_mem_wf, State.setMtu_mem]

theorem State.meetArrays_mem_wf (s : State) (sel : Array → Bool) (h : s.mem.wf = true) : (s.meetArrays sel).mem.wf = true := by
  unfold State.meetArrays
  grind [State.meetFlaw_mem_wf, foldl_mem_wf]

theorem State.meetWalk_mem_wf (s : State) (t : Nat) (asid : BitVec 12) (va : Nat) (h : s.mem.wf = true) :
    (s.meetWalk t asid va).mem.wf = true := by
  unfold State.meetWalk
  grind [State.meetLines_mem_wf, foldl_mem_wf]

theorem State.meetPath_mem_wf (s : State) (t : Nat) (asid : BitVec 12) (va : Nat) (h : s.mem.wf = true) :
    (s.meetPath t asid va).mem.wf = true := by
  unfold State.meetPath
  grind [State.meetWalk_mem_wf]

theorem State.refuse_keepsForm (s : State) (va : Word) (e : Err) : (s.refuse va e).keepsForm := by
  unfold State.refuse
  split
  · trivial
  · exact fun u hu => u.meetWalk_mem_wf _ _ _ hu

theorem State.pop_mem_wf (s : State) {r0 : PEntry} {w : State} (h : s.mem.wf = true) (he : s.pop = some (r0, w)) :
    w.mem.wf = true := by
  unfold State.pop at he
  grind [State.meetLines_mem_wf, foldl_mem_wf, State.setCtx_mem]

@[simp] theorem State.release_mem (s : State) (scope : Nat) : (s.release scope).mem = s.mem := by
  unfold State.release
  split <;> rfl

@[simp] theorem State.beginAt_mem (s : State) (c n scope : Nat) : (s.beginAt c n scope).mem = s.mem := by
  unfold State.beginAt
  simp

@[simp] theorem State.changeSpace_mem (s : State) (t : Nat) (a : BitVec 12) : (s.changeSpace t a).mem = s.mem := by
  unfold State.changeSpace
  split <;> simp

/-! ### Release and acquire at an instruction (11 R268, R269) -/

theorem withRelease_keepsForm (p : Pfx) (s : State) (k : State → Res) (h : s.mem.wf = true)
    (hk : ∀ (u : State), u.mem.wf = true → (k u).keepsForm) : (withRelease p s k).keepsForm := by
  unfold withRelease
  grind [State.release_mem, Res.keepsForm]

@[simp] theorem withAcquire_mem (p : Pfx) (s : State) : (withAcquire p s).mem = s.mem := by
  unfold withAcquire
  split <;> simp

/-! ### The shapes of instructions (02 R43) -/

theorem plain_keepsForm (n : Nat) {body : State → Res} (hb : ∀ u : State, u.mem.wf = true → (body u).keepsForm) :
    (plain n body).keepsForm :=
  hb

theorem memory_keepsForm (n : Nat) (m : State → Nat) {body : State → Res} (hb : ∀ u : State, u.mem.wf = true → (body u).keepsForm) :
    (memory n m body).keepsForm := hb

theorem pushing_keepsForm (n : Nat) (m : State → Nat) {body : State → Res} (hb : ∀ u : State, u.mem.wf = true → (body u).keepsForm)
    :
    (pushing n m body).keepsForm := hb

theorem State.trapBack_mem_wf (s : State) (e : Err) (ilen : Nat) (h : s.mem.wf = true) : (s.trapBack e ilen).mem.wf = true := by
  unfold State.trapBack
  grind [State.takeTrap_mem_wf, State.setCtx_mem, State.unqueue_mem]

theorem Res.unissued_keepsForm {r : Res} (hr : r.keepsForm) : r.unissued.keepsForm := by
  cases r
  all_goals exact hr

theorem Shape.unissued_keepsForm {sh : Shape} (hs : sh.keepsForm) : sh.unissued.keepsForm :=
  fun s h => Res.unissued_keepsForm (hs s h)

/-! ### WDSET (07 R186) -/

theorem execWdset_keepsForm (p : Pfx) (d a : BitVec 4) : KeepsForm (execWdset p d a) := by
  refine issue_keepsForm fun u h => ?_
  dsimp only [plain]
  grind [State.setMyTile_mem, Res.keepsForm]

/-! ### Data accesses, loads and stores (11 R266, 04 R102 to R104) -/

theorem State.readPiece_keepsForm {s : State} {va : Word} {n : Nat} {r : Res} (he : s.readPiece va n = .error r) : r.keepsForm := by
  unfold State.readPiece at he
  repeat' (split at he)
  all_goals cases he
  all_goals first
    | exact s.refuse_keepsForm _ _
    | trivial

@[simp] theorem State.fillL1_mem (s : State) (c pa : Nat) : (s.fillL1 c pa).mem = s.mem := by
  unfold State.fillL1
  grind [State.setCell_mem]

theorem State.meetWin_mem_wf (s : State) (user : Bool) (w off n : Nat) (va : Word) (h : s.mem.wf = true) :
    (s.meetWin user w off n va).mem.wf = true := by
  unfold State.meetWin
  grind [State.meetLines_mem_wf, foldl_mem_wf]

theorem State.touchWin_mem_wf (s : State) (w off n : Nat) (va : Word) (h : s.mem.wf = true) :
    (s.touchWin w off n va).mem.wf = true := by
  unfold State.touchWin
  grind [State.meetWin_mem_wf]

theorem State.meetPut_mem_wf (s : State) (w off n : Nat) (va : Word) (h : s.mem.wf = true) :
    (s.meetPut w off n va).mem.wf = true := by
  unfold State.meetPut
  grind [State.meetLines_mem_wf, foldl_mem_wf]

theorem State.touchPut_mem_wf (s : State) (va : Word) (n : Nat) (h : s.mem.wf = true) : (s.touchPut va n).mem.wf = true := by
  unfold State.touchPut
  grind [State.meetPut_mem_wf]

theorem State.touchPuts_mem_wf (s : State) (vas : List Word) (n : Nat) (h : s.mem.wf = true) :
    (s.touchPuts vas n).mem.wf = true := by
  unfold State.touchPuts
  grind [State.touchPut_mem_wf, foldl_mem_wf]

theorem State.readLine_mem_wf (s : State) (cached : Bool) (pa n : Nat) (h : s.mem.wf = true) :
    (s.readLine cached pa n).mem.wf = true := by
  unfold State.readLine
  grind [State.meetLines_mem_wf, State.dropLines_mem, State.fillL1_mem]

theorem State.touch_mem_wf (s : State) (va : Word) (n : Nat) (h : s.mem.wf = true) : (s.touch va n).mem.wf = true := by
  unfold State.touch
  grind [State.readLine_mem_wf, State.touchWin_mem_wf]

theorem State.touchAll_mem_wf (s : State) (vas : List Word) (n : Nat) (h : s.mem.wf = true) : (s.touchAll vas n).mem.wf = true := by
  unfold State.touchAll
  grind [State.touch_mem_wf, foldl_mem_wf]

theorem State.storePiece_keepsForm {s : State} {va : Word} {bs : List Byte} {r : Res} (he : s.storePiece va bs = .error r) :
    r.keepsForm := by
  unfold State.storePiece at he
  repeat' (split at he)
  all_goals cases he
  all_goals first
    | exact s.refuse_keepsForm _ _
    | trivial

@[simp] theorem State.issueStore_mem (s : State) (x : List WByte × Nat × FFlags) (k : StKind) : (s.issueStore x k).mem = s.mem :=
  rfl

theorem loadBody_keepsForm (p : Pfx) (d : BitVec 4) (va : Word) (n : Nat) (signed : Bool) (s : State) (h : s.mem.wf = true) :
    (loadBody p d va n signed s).keepsForm := by
  unfold loadBody
  split
  · trivial
  · split
    · trivial
    · refine withRelease_keepsForm p s _ h fun u hu => ?_
      dsimp only
      split
      · exact hu
      · split
        · trivial
        · split
          · exact u.touchWin_mem_wf _ _ _ _ hu
          · trivial
          · trivial
      · trivial
      · exact u.refuse_keepsForm va _

theorem storeBody_keepsForm (p : Pfx) (va : Word) (n : Nat) (v : Word) (s : State) (h : s.mem.wf = true) :
    (storeBody p va n v s).keepsForm := by
  unfold storeBody
  grind [State.storePiece_keepsForm, State.touchPut_mem_wf, State.write_mem_wf, withRelease_keepsForm, State.issueStore_mem,
    State.raise_mem, withAcquire_mem, Res.keepsForm]

theorem execLd_keepsForm (p : Pfx) (d a i : BitVec 4) : KeepsForm (execLd p d a i) :=
  issue_keepsForm fun u h => loadBody_keepsForm _ _ _ _ _ u h

theorem execSt_keepsForm (p : Pfx) (d a i : BitVec 4) : KeepsForm (execSt p d a i) := by
  refine issue_keepsForm (memory_keepsForm _ _ fun u h => ?_)
  grind [storeBody_keepsForm, Res.keepsForm]

theorem ldx_keepsForm (i : Instr) (p : Pfx) (d a : BitVec 4) (n : Nat) (signed : Bool) : KeepsForm (ldx i p d a n signed) :=
  issue_keepsForm fun u h => loadBody_keepsForm _ _ _ _ _ u h

theorem stx_keepsForm (i : Instr) (p : Pfx) (d a : BitVec 4) (n : Nat) : KeepsForm (stx i p d a n) := by
  refine issue_keepsForm (memory_keepsForm _ _ fun u h => ?_)
  grind [storeBody_keepsForm, Res.keepsForm]

theorem execLb_keepsForm (p : Pfx) (d a : BitVec 4) : KeepsForm (execLb p d a) :=
  ldx_keepsForm _ _ _ _ _ _

theorem execLbu_keepsForm (p : Pfx) (d a : BitVec 4) : KeepsForm (execLbu p d a) :=
  ldx_keepsForm _ _ _ _ _ _

theorem execLh_keepsForm (p : Pfx) (d a : BitVec 4) : KeepsForm (execLh p d a) :=
  ldx_keepsForm _ _ _ _ _ _

theorem execLhu_keepsForm (p : Pfx) (d a : BitVec 4) : KeepsForm (execLhu p d a) :=
  ldx_keepsForm _ _ _ _ _ _

theorem execLw_keepsForm (p : Pfx) (d a : BitVec 4) : KeepsForm (execLw p d a) :=
  ldx_keepsForm _ _ _ _ _ _

theorem execLwu_keepsForm (p : Pfx) (d a : BitVec 4) : KeepsForm (execLwu p d a) :=
  ldx_keepsForm _ _ _ _ _ _

theorem execSb_keepsForm (p : Pfx) (d a : BitVec 4) : KeepsForm (execSb p d a) := stx_keepsForm _ _ _ _ _

theorem execSh_keepsForm (p : Pfx) (d a : BitVec 4) : KeepsForm (execSh p d a) := stx_keepsForm _ _ _ _ _

theorem execSw_keepsForm (p : Pfx) (d a : BitVec 4) : KeepsForm (execSw p d a) := stx_keepsForm _ _ _ _ _

theorem State.completeAt_mem_wf (s : State) (k : Nat) (h : s.mem.wf = true) : (s.completeAt k).mem.wf = true := by
  unfold State.completeAt
  grind [State.readLine_mem_wf, State.write_mem_wf, State.acquire_mem, State.setCtx_mem, State.ws_mem]

theorem execLoadComplete_keepsForm : KeepsForm execLoadComplete := by
  intro s t h he
  unfold execLoadComplete at he
  grind [State.completeAt_mem_wf]

theorem execStorePerformed_keepsForm : KeepsForm execStorePerformed := by
  intro s t h he
  unfold execStorePerformed at he
  grind [State.completeAt_mem_wf]

/-! ### Regions and page 3 (06 R128 to R163) -/

@[simp] theorem State.asIssued_mem (s : State) : s.asIssued.mem = s.mem := by
  unfold State.asIssued
  split <;> rfl

theorem State.meetTable_mem_wf (s : State) (g : GReg) (h : s.mem.wf = true) : (s.meetTable g).mem.wf = true := by
  unfold State.meetTable
  grind [State.meetLines_mem_wf]

theorem withRegion_keepsForm (g : GReg) (ragOk : Bool) (s : State) (k : State → Res) (h : s.mem.wf = true)
    (hk : ∀ (u : State), u.mem.wf = true → (k u).keepsForm) : (withRegion g ragOk s k).keepsForm := by
  unfold withRegion
  grind [State.meetTable_mem_wf, Res.keepsForm]

@[simp] theorem markOvf_mem (n : Nat) (s : State) : (markOvf n s).mem = s.mem := rfl

theorem putRegion_keepsForm (n : Nat) (r : Produced) (s : State) (h : s.mem.wf = true) : (putRegion n r s).keepsForm := by
  unfold putRegion
  grind [State.wg_mem, markOvf_mem, Res.keepsForm]

theorem regionOp_keepsForm (i : Instr) (n base per : Nat) (make : State → Except Nat Produced) :
    KeepsForm (regionOp i n base per make) := by
  refine issue_keepsForm fun u h => ?_
  grind [putRegion_keepsForm, Res.keepsForm]

theorem algebra_keepsForm (i : Instr) (op : Bool → Bool → Bool) (p : Pfx) (d a : BitVec 4) : KeepsForm (algebra i op p d a) :=
  regionOp_keepsForm _ _ _ _ _

theorem execGint_keepsForm (p : Pfx) (d a : BitVec 4) : KeepsForm (execGint p d a) := algebra_keepsForm _ _ _ _ _

theorem execGuni_keepsForm (p : Pfx) (d a : BitVec 4) : KeepsForm (execGuni p d a) := algebra_keepsForm _ _ _ _ _

theorem execGsub_keepsForm (p : Pfx) (d a : BitVec 4) : KeepsForm (execGsub p d a) := algebra_keepsForm _ _ _ _ _

theorem execGset_keepsForm (p : Pfx) (d a : BitVec 4) : KeepsForm (execGset p d a) := regionOp_keepsForm _ _ _ _ _

theorem execGempty_keepsForm (p : Pfx) (d a : BitVec 4) : KeepsForm (execGempty p d a) := regionOp_keepsForm _ _ _ _ _

theorem execGbox_keepsForm (p : Pfx) (d a : BitVec 4) : KeepsForm (execGbox p d a) := regionOp_keepsForm _ _ _ _ _

theorem execGlat_keepsForm (p : Pfx) (d a : BitVec 4) : KeepsForm (execGlat p d a) := regionOp_keepsForm _ _ _ _ _

theorem execGrag_keepsForm (p : Pfx) (d a : BitVec 4) : KeepsForm (execGrag p d a) := regionOp_keepsForm _ _ _ _ _

theorem transform_keepsForm (i : Instr) (p : Pfx) (d a : BitVec 4) (f : State → Nat → List NBox → List NBox) :
    KeepsForm (transform i p d a f) :=
  regionOp_keepsForm _ _ _ _ _

theorem execGdil_keepsForm (p : Pfx) (d a : BitVec 4) : KeepsForm (execGdil p d a) := by
  unfold execGdil
  exact transform_keepsForm _ _ _ _ _

theorem execGshift_keepsForm (p : Pfx) (d a : BitVec 4) : KeepsForm (execGshift p d a) := by
  unfold execGshift
  exact transform_keepsForm _ _ _ _ _

theorem execGproj_keepsForm (p : Pfx) (d a : BitVec 4) : KeepsForm (execGproj p d a) := by
  unfold execGproj
  exact transform_keepsForm _ _ _ _ _

theorem execGsplit_keepsForm (p : Pfx) (d a : BitVec 4) : KeepsForm (execGsplit p d a) := regionOp_keepsForm _ _ _ _ _

theorem execGcanon_keepsForm (p : Pfx) (d a : BitVec 4) : KeepsForm (execGcanon p d a) := regionOp_keepsForm _ _ _ _ _

theorem readPieces_keepsForm {s : State} {va : Word} {r : Res} : ∀ {k : Nat}, readPieces s va k = .error r → r.keepsForm
  | 0, he => by cases he
  | k + 1, he => by
    unfold readPieces at he
    repeat' (split at he)
    all_goals cases he
    · rename_i e
      exact readPieces_keepsForm e
    · rename_i e
      exact State.readPiece_keepsForm e

theorem execGld_keepsForm (p : Pfx) (d a : BitVec 4) : KeepsForm (execGld p d a) := by
  refine issue_keepsForm (memory_keepsForm _ _ fun u h => ?_)
  grind [State.touchAll_mem_wf, readPieces_keepsForm, withRelease_keepsForm, State.wg_mem, markOvf_mem, withAcquire_mem,
    Res.keepsForm]

theorem storePieces_keepsForm {s : State} {r : Res} :
    ∀ {va : Word} {k : Nat} {bs : List Byte}, storePieces s va k bs = .error r → r.keepsForm
  | _, 0, _, he => by cases he
  | _, k + 1, _, he => by
    unfold storePieces at he
    repeat' (split at he)
    all_goals cases he
    · rename_i e
      exact State.storePiece_keepsForm e
    · rename_i e
      exact storePieces_keepsForm e

theorem execGst_keepsForm (p : Pfx) (d a : BitVec 4) : KeepsForm (execGst p d a) := by
  refine issue_keepsForm (memory_keepsForm _ _ fun u h => ?_)
  grind [State.touchPuts_mem_wf, State.write_mem_wf, foldl_mem_wf, storePieces_keepsForm, withRelease_keepsForm,
    State.issueStore_mem, State.raise_mem, withAcquire_mem, Res.keepsForm]

theorem checkRegion_keepsForm (g : GReg) (ragOk : Bool) (s : State) (k : State → Res) (h : s.mem.wf = true)
    (hk : ∀ (u : State), u.mem.wf = true → (k u).keepsForm) : (checkRegion g ragOk s k).keepsForm := by
  unfold checkRegion
  grind [Res.keepsForm]

theorem query_keepsForm (i : Instr) (ragOk : Bool) (g : State → GReg) (f : State → GReg → Res)
    (hf : ∀ (u : State) y1, u.mem.wf = true → (f u y1).keepsForm) : KeepsForm (query i ragOk g f) := by
  refine issue_keepsForm fun u h => ?_
  dsimp only [plain]
  grind [withRegion_keepsForm, Res.keepsForm]

theorem execGcnt_keepsForm (p : Pfx) (d a : BitVec 4) : KeepsForm (execGcnt p d a) := by
  refine issue_keepsForm (plain_keepsForm _ fun u h => ?_)
  grind [checkRegion_keepsForm, State.ws_mem, Res.keepsForm]

theorem execGvol_keepsForm (p : Pfx) (d a : BitVec 4) : KeepsForm (execGvol p d a) := by
  unfold execGvol
  exact query_keepsForm _ _ _ _ fun u _ h => mem_wf_of_eq (u.ws_mem _ _) h

theorem execGrdbox_keepsForm (p : Pfx) (d a : BitVec 4) : KeepsForm (execGrdbox p d a) := by
  unfold execGrdbox
  refine query_keepsForm _ _ _ _ fun u g h => ?_
  dsimp only
  split
  · trivial
  · simpa only [Res.keepsForm, State.ws_mem] using h

theorem execGtest_keepsForm (p : Pfx) (d a : BitVec 4) : KeepsForm (execGtest p d a) := by
  refine issue_keepsForm fun u h => ?_
  dsimp only [pushing]
  grind [pushRes_keepsForm, withRegion_keepsForm, Res.keepsForm]

theorem execGeq_keepsForm (p : Pfx) (d a : BitVec 4) : KeepsForm (execGeq p d a) := by
  refine issue_keepsForm fun u h => ?_
  dsimp only [pushing]
  grind [pushRes_keepsForm, withRegion_keepsForm, Res.keepsForm]

/-! ### Streams (08 R202 to R207) -/

theorem State.streamPark_mem_wf (s : State) (k : Nat) (st : Stream) (va : Word) (h : s.mem.wf = true) :
    (s.streamPark k st va).mem.wf = true := by
  unfold State.streamPark
  grind [State.parkFault_mem_wf, State.setMyCell_mem]

@[simp] theorem State.streamErr_mem (s : State) (k : Nat) (st : Stream) (u : Nat) (e : Err) :
    (s.streamErr k st u e).mem = s.mem := by
  unfold State.streamErr
  split <;> rfl

theorem State.meetUnit_mem_wf (s : State) (st : Stream) (e n : Nat) (h : s.mem.wf = true) : (s.meetUnit st e n).mem.wf = true := by
  unfold State.meetUnit
  dsimp only
  rw [State.dropLines_mem]
  refine foldl_mem_wf _ (fun u va hu => ?_) _ s h
  have hp := u.meetPath_mem_wf u.tid st.asid va.toNat hu
  split
  · exact State.meetLines_mem_wf _ _ _ _ hp
  · exact State.meetWin_mem_wf _ _ _ _ _ _ hp
  · exact hp

theorem State.meetUnitWalks_mem_wf (s : State) (st : Stream) (e n : Nat) (h : s.mem.wf = true) :
    (s.meetUnitWalks st e n).mem.wf = true := by
  unfold State.meetUnitWalks
  grind [State.meetPath_mem_wf, State.meetPut_mem_wf, foldl_mem_wf, foldl_mem]

theorem execStreamUnitFetch_keepsForm : KeepsForm execStreamUnitFetch := by
  intro s t h he
  unfold execStreamUnitFetch at he
  grind [State.meetUnit_mem_wf, State.streamPark_mem_wf, State.setMyCell_mem, State.streamErr_mem]

@[simp] theorem State.countOob_mem (s : State) (t n : Nat) : (s.countOob t n).mem = s.mem := rfl

theorem State.writeUnit_mem_wf (s : State) (k : Nat) (st : Stream) (q : Push) (rest : List Push) (h : s.mem.wf = true) :
    (s.writeUnit k st q rest).mem.wf = true := by
  unfold State.writeUnit
  grind [State.write_mem_wf, State.setMyCell_mem]

theorem execStreamUnitWrite_keepsForm : KeepsForm execStreamUnitWrite := by
  intro s t h he
  unfold execStreamUnitWrite at he
  grind [State.writeUnit_mem_wf]

/-! ### The protection table (06 R145) -/

theorem State.meetProt_mem_wf (s : State) (h : s.mem.wf = true) : s.meetProt.mem.wf = true := by
  unfold State.meetProt
  grind [State.meetFlaw_mem_wf]

/-! ### Atomics, PREF, INVL1 and the walk of a TLB miss (10 R253, R263, R245) -/

theorem amoBody_keepsForm (p : Pfx) (a : BitVec 4) (n : Nat) (new : Nat → Option Nat) (put : Nat → State → State) (s : State)
    (h : s.mem.wf = true) (hput : ∀ y0 (u : State), u.mem.wf = true → (put y0 u).mem.wf = true) :
    (amoBody p a n new put s).keepsForm := by
  unfold amoBody
  grind [State.meetLines_mem_wf, State.putN_mem_wf, State.refuse_keepsForm, withRelease_keepsForm, State.dropLines_mem,
    withAcquire_mem, Res.keepsForm]

theorem amo_keepsForm (i : Instr) (p : Pfx) (d a : BitVec 4) (f : Nat → Nat → Nat) : KeepsForm (amo i p d a f) := by
  refine issue_keepsForm (memory_keepsForm _ _ fun u h => ?_)
  grind [amoBody_keepsForm, State.ws_mem, Res.keepsForm]

theorem execAadd_keepsForm (p : Pfx) (d a : BitVec 4) : KeepsForm (execAadd p d a) := by
  unfold execAadd
  exact amo_keepsForm _ _ _ _ _

theorem execAand_keepsForm (p : Pfx) (d a : BitVec 4) : KeepsForm (execAand p d a) := amo_keepsForm _ _ _ _ _

theorem execAor_keepsForm (p : Pfx) (d a : BitVec 4) : KeepsForm (execAor p d a) := amo_keepsForm _ _ _ _ _

theorem execAxor_keepsForm (p : Pfx) (d a : BitVec 4) : KeepsForm (execAxor p d a) := amo_keepsForm _ _ _ _ _

theorem execAmin_keepsForm (p : Pfx) (d a : BitVec 4) : KeepsForm (execAmin p d a) := by
  unfold execAmin
  exact amo_keepsForm _ _ _ _ _

theorem execAmax_keepsForm (p : Pfx) (d a : BitVec 4) : KeepsForm (execAmax p d a) := by
  unfold execAmax
  exact amo_keepsForm _ _ _ _ _

theorem execAminu_keepsForm (p : Pfx) (d a : BitVec 4) : KeepsForm (execAminu p d a) := amo_keepsForm _ _ _ _ _

theorem execAmaxu_keepsForm (p : Pfx) (d a : BitVec 4) : KeepsForm (execAmaxu p d a) := amo_keepsForm _ _ _ _ _

theorem execAswap_keepsForm (p : Pfx) (d a : BitVec 4) : KeepsForm (execAswap p d a) := by
  unfold execAswap
  exact amo_keepsForm _ _ _ _ _

theorem execAfadd_keepsForm (p : Pfx) (d a : BitVec 4) : KeepsForm (execAfadd p d a) := by
  unfold execAfadd
  exact amo_keepsForm _ _ _ _ _

theorem execAcas_keepsForm (p : Pfx) (d a : BitVec 4) : KeepsForm (execAcas p d a) := by
  refine issue_keepsForm fun u h => ?_
  dsimp only [memory]
  grind [amoBody_keepsForm, State.ws_mem, Res.keepsForm]

theorem execAfaddcp_keepsForm (p : Pfx) (d a : BitVec 4) : KeepsForm (execAfaddcp p d a) := by
  refine issue_keepsForm fun u h => ?_
  dsimp only [memory]
  grind [amoBody_keepsForm, State.ws_mem, Res.keepsForm]

theorem execPrefLine_keepsForm (p : Pfx) (a : BitVec 4) : KeepsForm (execPrefLine p a) :=
  issue_keepsForm fun _ h => h

theorem execPrefRegion_keepsForm (p : Pfx) (a : BitVec 4) : KeepsForm (execPrefRegion p a) := by
  refine issue_keepsForm fun u h => ?_
  dsimp only [memory]
  grind [State.meetProt_mem_wf, withRegion_keepsForm, Res.keepsForm]

theorem execInvl1All_keepsForm (p : Pfx) (a : BitVec 4) : KeepsForm (execInvl1All p a) :=
  issue_keepsForm fun _ h => h

theorem execInvl1Line_keepsForm (p : Pfx) (a : BitVec 4) : KeepsForm (execInvl1Line p a) := by
  refine issue_keepsForm (plain_keepsForm _ fun u h => ?_)
  grind [State.setMyCell_mem, Res.keepsForm]

theorem execTlbMissWalk_keepsForm : KeepsForm execTlbMissWalk := by
  intro s t h he
  unfold execTlbMissWalk at he
  grind [State.meetWalk_mem_wf, State.parkFault_mem_wf, State.fillTlb_mem, State.setCtx_mem]

/-! ### The vector unit and page 1 (08 R196 to R216) -/

theorem queued_keepsForm (i : Instr) (srcs : List Nat) (dst : Option Nat) {sh : Shape} (hs : sh.keepsForm) :
    (queued i srcs dst sh).keepsForm :=
  hs

theorem popAll_keepsForm {s : State} {r : Res} : ∀ {l : List Nat}, popAll s l = .error r → r.keepsForm
  | [], he => by cases he
  | n :: ns, he => by
    unfold popAll at he
    split at he
    · rename_i e
      cases he
      exact popAll_keepsForm e
    · repeat' (split at he)
      all_goals cases he
      all_goals first
        | exact fun _ h => h
        | trivial

theorem pushUnit_keepsForm (k : Nat) (st : Stream) (x : VRes) (s : State) (h : s.mem.wf = true) :
    PutOut.keepsForm (pushUnit k st x s) := by
  unfold pushUnit
  dsimp only
  repeat' split
  all_goals first
    | trivial
    | exact h
    | exact fun _ hu => hu
    | exact fun u hu => mem_wf_of_eq (u.streamErr_mem k st _ _) hu
    | exact fun u hu => State.streamPark_mem_wf u k st _ hu
    | exact s.meetUnitWalks_mem_wf st _ _ h

theorem putLanes_keepsForm (dst : Nat) (x : VRes) (s : State) (h : s.mem.wf = true) : PutOut.keepsForm (putLanes dst x s) := by
  unfold putLanes
  split
  · exact pushUnit_keepsForm _ _ _ _ h
  · exact mem_wf_of_eq (s.wv_mem dst _) h

theorem Res.names_keepsForm (k : VClaim) {r : Res} (hr : r.keepsForm) : (r.names k).keepsForm := by
  cases r
  case hold => exact fun _ h => h
  all_goals exact hr

theorem vqueue_keepsForm (i : Instr) (whole mem : Bool) (srcs : List Nat) (dst : Option Nat)
    {f : (Nat → Lanes) → State → Except Res (State × FFlags)}
    (hf : ∀ y (u : State), u.mem.wf = true → PutOut.keepsForm (f y u)) (s : State) (h : s.mem.wf = true) :
    (vqueue i whole mem srcs dst f s).keepsForm := by
  unfold vqueue
  grind [Res.names_keepsForm, popAll_keepsForm, State.enqueueV_mem, takePops_mem, Res.keepsForm, PutOut.keepsForm]

theorem VForm.put_keepsForm (F : VForm) (x : VRes) (s : State) (h : s.mem.wf = true) : PutOut.keepsForm (F.put x s) := by
  unfold VForm.put
  split
  · exact mem_wf_of_eq (s.ws_mem F.dst _) h
  · exact putLanes_keepsForm _ _ _ h

@[simp] theorem State.joinLate_mem (s : State) (i : Instr) (F : VForm) : (s.joinLate i F).mem = s.mem := by
  unfold State.joinLate
  split <;> rfl

theorem vwrite_keepsForm (i : Instr) (F : VForm) (s : State) (h : s.mem.wf = true) : (vwrite i F s).keepsForm := by
  unfold vwrite
  split
  · exact mem_wf_of_eq (s.joinLate_mem i F) h
  · refine vqueue_keepsForm _ _ _ _ _ (fun rd u hu => ?_) s h
    have hp := F.put_keepsForm (F.f rd u) u hu
    dsimp only
    split
    · rename_i e
      exact PutOut.keepsForm_of_error hp e
    · rename_i e
      exact PutOut.keepsForm_of_ok hp e

theorem vexec_keepsForm (i : Instr) (F : VForm) : KeepsForm (vexec i F) := issue_keepsForm (vwrite_keepsForm i F)

theorem execVadd_keepsForm (p : Pfx) (d a : BitVec 4) : KeepsForm (execVadd p d a) :=
  vexec_keepsForm _ _

theorem execVsub_keepsForm (p : Pfx) (d a : BitVec 4) : KeepsForm (execVsub p d a) :=
  vexec_keepsForm _ _

theorem execVmul_keepsForm (p : Pfx) (d a : BitVec 4) : KeepsForm (execVmul p d a) :=
  vexec_keepsForm _ _

theorem execVfma_keepsForm (p : Pfx) (d a : BitVec 4) : KeepsForm (execVfma p d a) :=
  vexec_keepsForm _ _

theorem execVmin_keepsForm (p : Pfx) (d a : BitVec 4) : KeepsForm (execVmin p d a) :=
  vexec_keepsForm _ _

theorem execVmax_keepsForm (p : Pfx) (d a : BitVec 4) : KeepsForm (execVmax p d a) :=
  vexec_keepsForm _ _

theorem execVabs_keepsForm (p : Pfx) (d a : BitVec 4) : KeepsForm (execVabs p d a) :=
  vexec_keepsForm _ _

theorem execVneg_keepsForm (p : Pfx) (d a : BitVec 4) : KeepsForm (execVneg p d a) :=
  vexec_keepsForm _ _

theorem execVand_keepsForm (p : Pfx) (d a : BitVec 4) : KeepsForm (execVand p d a) :=
  vexec_keepsForm _ _

theorem execVor_keepsForm (p : Pfx) (d a : BitVec 4) : KeepsForm (execVor p d a) :=
  vexec_keepsForm _ _

theorem execVxor_keepsForm (p : Pfx) (d a : BitVec 4) : KeepsForm (execVxor p d a) :=
  vexec_keepsForm _ _

theorem execVnot_keepsForm (p : Pfx) (d a : BitVec 4) : KeepsForm (execVnot p d a) :=
  vexec_keepsForm _ _

theorem execVshl_keepsForm (p : Pfx) (d a : BitVec 4) : KeepsForm (execVshl p d a) :=
  vexec_keepsForm _ _

theorem execVshr_keepsForm (p : Pfx) (d a : BitVec 4) : KeepsForm (execVshr p d a) :=
  vexec_keepsForm _ _

theorem execVsra_keepsForm (p : Pfx) (d a : BitVec 4) : KeepsForm (execVsra p d a) :=
  vexec_keepsForm _ _

theorem execVsel_keepsForm (p : Pfx) (d a : BitVec 4) : KeepsForm (execVsel p d a) := issue_keepsForm (vwrite_keepsForm _ _)

theorem execVcmp_keepsForm (p : Pfx) (d a c : BitVec 4) : KeepsForm (execVcmp p d a c) := by
  refine issue_keepsForm (queued_keepsForm _ _ _
    (pushing_keepsForm _ _ fun u h => vqueue_keepsForm _ _ _ _ _ (fun rd w hw => ?_) u h))
  dsimp only
  split
  · trivial
  · split
    · rename_i e
      exact State.push_mem_wf e hw
    · trivial

theorem checkLanes_keepsForm {s : State} {addr : Nat → Word} {r : Res} :
    ∀ {l : List Nat}, checkLanes s addr l = .error r → r.keepsForm
  | [], he => by cases he
  | i :: is, he => by
    unfold checkLanes at he
    split at he
    · split at he
      · exact checkLanes_keepsForm he
      · cases he
        trivial
    · cases he
      trivial
    · exact checkLanes_keepsForm he

theorem readLanes_keepsForm {s : State} {addr : Nat → Word} {r : Res} :
    ∀ {l : List Nat}, readLanes s addr l = .error r → r.keepsForm
  | [], he => by cases he
  | i :: is, he => by
    unfold readLanes at he
    repeat' (split at he)
    all_goals cases he
    · rename_i e
      exact State.readPiece_keepsForm e
    · rename_i e
      exact readLanes_keepsForm e

theorem storeLanes_keepsForm {s : State} {addr : Nat → Word} {v : Lanes} {r : Res} :
    ∀ {l : List Nat}, storeLanes s addr v l = .error r → r.keepsForm
  | [], he => by cases he
  | i :: is, he => by
    unfold storeLanes at he
    repeat' (split at he)
    all_goals cases he
    · rename_i e
      exact State.storePiece_keepsForm e
    · rename_i e
      exact storeLanes_keepsForm e

theorem vload_keepsForm (i : Instr) (p : Pfx) (d : BitVec 4) (srcs : List Nat) (addr : (Nat → Lanes) → State → Nat → Word) :
    KeepsForm (vload i p d srcs addr) := by
  refine issue_keepsForm fun u h => Res.names_keepsForm _ ?_
  split
  · trivial
  · refine withRelease_keepsForm p u _ h fun v hv => vqueue_keepsForm _ _ _ _ _ (fun rd w hw => ?_) v hv
    dsimp only
    split
    · rename_i e
      exact checkLanes_keepsForm e
    · split
      · rename_i e
        exact readLanes_keepsForm e
      · rename_i xs _
        have hp := fun x => putLanes_keepsForm (p.dn d) x _ (w.touchAll_mem_wf ((lanesOf (activeMask p w)).map (addr rd w)) 4 hw)
        split
        · rename_i e
          exact PutOut.keepsForm_of_error (hp _) e
        · rename_i e
          exact mem_wf_of_eq (withAcquire_mem p _) (PutOut.keepsForm_of_ok (hp _) e)

theorem vstore_keepsForm (i : Instr) (p : Pfx) (d : BitVec 4) (srcs : List Nat) (addr : (Nat → Lanes) → State → Nat → Word) :
    KeepsForm (vstore i p d srcs addr) := by
  refine issue_keepsForm fun u h => Res.names_keepsForm _ ?_
  split
  · trivial
  · refine withRelease_keepsForm p u _ h fun v hv => vqueue_keepsForm _ _ _ _ _ (fun rd w hw => ?_) v hv
    have ht := w.touchPuts_mem_wf ((lanesOf (activeMask p w)).map (addr rd w)) 4 hw
    dsimp only
    split
    · rename_i e
      exact storeLanes_keepsForm e
    · split
      · split
        · exact mem_wf_of_eq (withAcquire_mem p _) (foldl_mem_wf _ (fun s x hs => s.write_mem_wf _ _ hs) _ _ ht)
        · trivial
      · exact mem_wf_of_eq (foldl_addPend_mem _ _) ht

theorem execVld_keepsForm (p : Pfx) (d a : BitVec 4) : KeepsForm (execVld p d a) :=
  vload_keepsForm _ _ _ _ _

theorem execVst_keepsForm (p : Pfx) (d a : BitVec 4) : KeepsForm (execVst p d a) :=
  vstore_keepsForm _ _ _ _ _

theorem execVlds_keepsForm (p : Pfx) (d a : BitVec 4) : KeepsForm (execVlds p d a) :=
  vload_keepsForm _ _ _ _ _

theorem execVsts_keepsForm (p : Pfx) (d a : BitVec 4) : KeepsForm (execVsts p d a) :=
  vstore_keepsForm _ _ _ _ _

theorem execVgath_keepsForm (p : Pfx) (d a : BitVec 4) : KeepsForm (execVgath p d a) :=
  vload_keepsForm _ _ _ _ _

theorem execVscat_keepsForm (p : Pfx) (d a : BitVec 4) : KeepsForm (execVscat p d a) :=
  vstore_keepsForm _ _ _ _ _

theorem execVbcast_keepsForm (p : Pfx) (d a : BitVec 4) : KeepsForm (execVbcast p d a) :=
  vexec_keepsForm _ _

theorem execVext_keepsForm (p : Pfx) (d a : BitVec 4) : KeepsForm (execVext p d a) :=
  vexec_keepsForm _ _

theorem execVins_keepsForm (p : Pfx) (d a : BitVec 4) : KeepsForm (execVins p d a) :=
  vexec_keepsForm _ _

theorem execVperm_keepsForm (p : Pfx) (d a : BitVec 4) : KeepsForm (execVperm p d a) :=
  vexec_keepsForm _ _

theorem execViota_keepsForm (p : Pfx) (d a : BitVec 4) : KeepsForm (execViota p d a) :=
  vexec_keepsForm _ _

theorem execVredadd_keepsForm (p : Pfx) (d a : BitVec 4) : KeepsForm (execVredadd p d a) :=
  vexec_keepsForm _ _

theorem execVredmin_keepsForm (p : Pfx) (d a : BitVec 4) : KeepsForm (execVredmin p d a) :=
  vexec_keepsForm _ _

theorem execVredmax_keepsForm (p : Pfx) (d a : BitVec 4) : KeepsForm (execVredmax p d a) :=
  vexec_keepsForm _ _

theorem execVcvt_keepsForm (p : Pfx) (d a : BitVec 4) (g : BitVec 3) : KeepsForm (execVcvt p d a g) :=
  issue_keepsForm (vwrite_keepsForm _ _)

theorem readDesc48_keepsForm {s : State} {va : Word} {r : Res} : ∀ {k : Nat}, readDesc48 s va k = .error r → r.keepsForm
  | 0, he => by cases he
  | k + 1, he => by
    unfold readDesc48 at he
    repeat' (split at he)
    all_goals cases he
    · rename_i e
      exact readDesc48_keepsForm e
    · rename_i e
      exact State.readPiece_keepsForm e

theorem bindTo_keepsForm (n : Nat) (st : Stream) (f : State → State) (s : State) (h : s.mem.wf = true)
    (hf : ∀ (u : State), u.mem.wf = true → (f u).mem.wf = true) : (bindTo n st f s).keepsForm := by
  unfold bindTo
  grind [State.enqueueV_mem, State.setMyCell_mem, Res.keepsForm]

theorem execVbind_keepsForm (p : Pfx) (d a : BitVec 4) : KeepsForm (execVbind p d a) := by
  refine issue_keepsForm fun u h => ?_
  dsimp only [memory]
  grind [State.touchAll_mem_wf, bindTo_keepsForm, readDesc48_keepsForm, Res.keepsForm]

theorem execVunbind_keepsForm (p : Pfx) (d a : BitVec 4) : KeepsForm (execVunbind p d a) := by
  refine issue_keepsForm fun u h => ?_
  dsimp only [plain]
  grind [State.enqueueV_mem, State.setMyCell_mem, Res.keepsForm]

theorem execVstat_keepsForm (p : Pfx) (d a : BitVec 4) : KeepsForm (execVstat p d a) := by
  refine issue_keepsForm fun u h => ?_
  simp only [queued, plain]
  split
  · exact h
  · split
    · exact fun _ hu => hu
    · exact h

@[simp] theorem catchUp_mem (q : Nat) (w : BitVec 16) (s : State) : (catchUp q w s).mem = s.mem := by
  unfold catchUp
  grind [State.setCell_mem, foldl_mem]

theorem grantTo_mem_wf (q : Nat) (w : BitVec 16) (acc : List Nat × State) (k : Nat) (hacc : acc.2.mem.wf = true) :
    (grantTo q w acc k).2.mem.wf = true := by
  unfold grantTo
  grind [State.setCell_mem]

theorem foldl_grantTo_mem_wf (q : Nat) (w : BitVec 16) :
    ∀ (l : List Nat) (x : List Nat × State), x.2.mem.wf = true → (l.foldl (grantTo q w) x).2.mem.wf = true
  | [], _, h => h
  | k :: l, x, h => foldl_grantTo_mem_wf q w l _ (grantTo_mem_wf q w x k h)

@[simp] theorem State.formAt_mem (s : State) (c j : Nat) : (s.formAt c j).mem = s.mem := by
  unfold State.formAt
  grind [State.setCell_mem, State.setCtxAt_mem]

@[simp] theorem State.formCell_mem (s : State) (c : Nat) : (s.formCell c).mem = s.mem := by
  unfold State.formCell
  grind [State.formAt_mem, foldl_mem]

theorem foldl_formCell_mem (f : Nat → Nat) (l : List Nat) (s : State) : (l.foldl (fun s k => s.formCell (f k)) s).mem = s.mem :=
  foldl_mem _ (fun s k => s.formCell_mem (f k)) l s

theorem execArbiterGrant_keepsForm : KeepsForm execArbiterGrant := by
  intro s t h he
  unfold execArbiterGrant at he
  injection he with he
  subst he
  refine foldl_grantTo_mem_wf _ _ _ _ ?_
  dsimp only
  rw [catchUp_mem, foldl_formCell_mem]
  exact h

theorem execArbiterWindow_keepsForm : KeepsForm execArbiterWindow := by
  intro s t h he
  unfold execArbiterWindow at he
  grind [State.setQuart_mem]

theorem execVectorComplete_keepsForm : KeepsForm execVectorComplete := by
  intro s t h he
  unfold execVectorComplete at he
  grind [State.setCtxAt_mem, State.setMyCell_mem]

/-! ### The matrix unit (09 R218 to R239) -/

theorem matRead_keepsForm (s : State) (va : Word) (n : Nat) {r : Res} (he : matRead s va n = .error r) : r.keepsForm := by
  unfold matRead at he
  grind [Res.keepsForm]

theorem State.matTouch_mem_wf (s : State) (va : Word) (n : Nat) (h : s.mem.wf = true) : (s.matTouch va n).mem.wf = true := by
  unfold State.matTouch
  grind [State.meetLines_mem_wf, State.touchWin_mem_wf]

theorem matMem_keepsForm (p : Pfx) (s : State) (k : State → Res) (h : s.mem.wf = true)
    (hk : ∀ (u : State), u.mem.wf = true → (k u).keepsForm) : (matMem p s k).keepsForm := by
  unfold matMem
  grind [withRelease_keepsForm, Res.keepsForm]

@[simp] theorem State.setSpilt_mem (s : State) (a : BitVec 12) (me : Word) (on : Bool) : (s.setSpilt a me on).mem = s.mem := rfl

theorem State.storeBank_mem_wf (s : State) (k : Bank) (ws : List WByte) (keys : List Nat) (h : s.mem.wf = true) :
    (s.storeBank k ws keys).mem.wf = true := s.write_mem_wf s.tid ws h

theorem State.spill_mem_wf (s : State) (c : Nat) (b : Bool) (keys : List Nat) (h : s.mem.wf = true) :
    (s.spill c b keys).mem.wf = true :=
  State.storeBank_mem_wf s ((s.cell c).bank b) _ keys h

theorem State.meetArea_mem_wf (s : State) (me : Word) (h : s.mem.wf = true) : (s.meetArea me).mem.wf = true := by
  unfold State.meetArea
  grind [State.meetPath_mem_wf]

theorem State.claimBank_mem_wf {s w : State} {b : Bool} (h : s.mem.wf = true) (he : s.claimBank = .ok (b, w)) :
    w.mem.wf = true := by
  unfold State.claimBank at he
  dsimp only at he
  split at he
  · cases he
    exact h
  · split at he
    · cases he
    · cases he
    · split at he
      · cases he
      · cases he
        refine foldl_mem_wf _ (fun u k hu => u.meetLines_mem_wf _ k 64 hu) _ _ ?_
        grind [State.spill_mem_wf, State.meetArea_mem_wf]

@[simp] theorem State.freeBanks_mem (s : State) (t : Nat) (me : Word) : (s.freeBanks t me).mem = s.mem := by
  unfold State.freeBanks
  grind [State.setCell_mem, State.setSpilt_mem, foldl_mem]

theorem matrix_keepsForm (ready : State → Bool) (n : Nat) {body : State → Res}
    (hb : ∀ u : State, u.mem.wf = true → (body u).keepsForm) :
    (matrix ready n body).keepsForm := Shape.unissued_keepsForm hb

theorem readAcc_keepsForm (s : State) (b : Bool) (d : Nat) (k : BitVec 8192 → State → Res) (h : s.mem.wf = true)
    (hk : ∀ y0 (u : State), u.mem.wf = true → (k y0 u).keepsForm) : (readAcc s b d k).keepsForm := by
  unfold readAcc
  grind [State.meetFlaw_mem_wf, Res.keepsForm]

@[simp] theorem State.startStep_mem (s : State) (b : Bool) (d : Nat) (r : BitVec 8192 × FFlags) (handoff : Bool) :
    (s.startStep b d r handoff).mem = s.mem :=
  rfl

theorem mma_keepsForm (i : Instr) (ring : Bool) (p : Pfx) (d a : BitVec 4) : KeepsForm (mma i ring p d a) := by
  refine issue_keepsForm (Shape.unissued_keepsForm fun u h => ?_)
  grind [State.claimBank_mem_wf, State.matTouch_mem_wf, matMem_keepsForm, matRead_keepsForm, readAcc_keepsForm, State.setMyCell_mem,
    State.startStep_mem, withAcquire_mem, Res.keepsForm]

theorem execMmaRing_keepsForm (p : Pfx) (d a : BitVec 4) : KeepsForm (execMmaRing p d a) := mma_keepsForm _ _ _ _ _

theorem execMmaHold_keepsForm (p : Pfx) (d a : BitVec 4) : KeepsForm (execMmaHold p d a) := mma_keepsForm _ _ _ _ _

theorem execMmv_keepsForm (p : Pfx) (d a : BitVec 4) : KeepsForm (execMmv p d a) := by
  refine issue_keepsForm (Shape.unissued_keepsForm fun u h => ?_)
  grind [State.claimBank_mem_wf, readAcc_keepsForm, State.setMyCell_mem, State.startStep_mem, Res.keepsForm]

@[simp] theorem State.handoff_mem (s : State) (c : Nat) : (s.handoff c).mem = s.mem := by
  unfold State.handoff
  grind [State.setCell_mem]

theorem execMldb_keepsForm (p : Pfx) (d a : BitVec 4) : KeepsForm (execMldb p d a) := by
  refine issue_keepsForm (Shape.unissued_keepsForm fun u h => ?_)
  grind [State.matTouch_mem_wf, matMem_keepsForm, matRead_keepsForm, State.setMyCell_mem, withAcquire_mem, Res.keepsForm]

theorem execMpass_keepsForm (p : Pfx) (d a : BitVec 4) : KeepsForm (execMpass p d a) := by
  refine issue_keepsForm (Shape.unissued_keepsForm fun u h => ?_)
  grind [State.handoff_mem, Res.keepsForm]

theorem execMatrixStepRetire_keepsForm : KeepsForm execMatrixStepRetire := by
  intro s t h he
  unfold execMatrixStepRetire at he
  grind [State.handoff_mem, State.setCtxAt_mem, State.setMyCell_mem]

theorem execHandoffLand_keepsForm : KeepsForm execHandoffLand := by
  intro s t h he
  unfold execHandoffLand at he
  grind [State.setCell_mem, State.setMyCell_mem]

theorem withBank_keepsForm (s : State) (k : Bool → State → Res) (h : s.mem.wf = true)
    (hk : ∀ y0 (u : State), u.mem.wf = true → (k y0 u).keepsForm) : (withBank s k).keepsForm := by
  unfold withBank
  grind [State.claimBank_mem_wf, Res.keepsForm]

@[simp] theorem State.putAcc_mem (s : State) (b : Bool) (d : Nat) (x : BitVec 8192) : (s.putAcc b d x).mem = s.mem := rfl

theorem execMzero_keepsForm (p : Pfx) (d a : BitVec 4) : KeepsForm (execMzero p d a) := by
  refine issue_keepsForm (Shape.unissued_keepsForm fun u h => ?_)
  grind [withBank_keepsForm, State.putAcc_mem, Res.keepsForm]

theorem execMrow_keepsForm (p : Pfx) (d a : BitVec 4) : KeepsForm (execMrow p d a) := by
  refine issue_keepsForm fun u h => ?_
  refine matrix_keepsForm (fun _ => true) 2
    (fun u hu => withBank_keepsForm u _ hu fun b w hw => readAcc_keepsForm w b _ _ hw fun acc x hx => ?_) u h
  have hp := putLanes_keepsForm (p.an a)
    ⟨unpackLanes (acc.extractLsb' (1024 * (p.immW.toNat % 8)) 1024), BitVec.allOnes 32, 0#5⟩ x hx
  dsimp only
  split
  · rename_i e
    exact PutOut.keepsForm_of_error hp e
  · rename_i e
    exact mem_wf_of_eq (State.raise_mem _ _) (PutOut.keepsForm_of_ok hp e)

theorem mstStores_keepsForm {s : State} {n : Nat} {r : Res} :
    ∀ {va : Word} {l : List Nat}, mstStores s n va l = .error r → r.keepsForm
  | _, [], he => by cases he
  | _, x :: xs, he => by
    unfold mstStores at he
    repeat' (split at he)
    all_goals cases he
    · rename_i e
      exact State.storePiece_keepsForm e
    · rename_i e
      exact mstStores_keepsForm e

theorem execMst_keepsForm (p : Pfx) (d a : BitVec 4) : KeepsForm (execMst p d a) := by
  refine issue_keepsForm (matrix_keepsForm _ _ fun u h => ?_)
  rcases moveSize p u with ⟨n, k⟩
  refine matMem_keepsForm p u _ h fun v hv => ?_
  dsimp only
  split
  · trivial
  · split
    · trivial
    · split
      · trivial
      · refine withBank_keepsForm v _ hv fun b w hw => readAcc_keepsForm w b _ _ hw fun acc x hx => ?_
        split
        · rename_i e
          exact mstStores_keepsForm e
        · have ht := fun vas => x.touchPuts_mem_wf vas (mstPieces p acc x).1 hx
          split
          · trivial
          · split
            · exact mem_wf_of_eq (withAcquire_mem p _)
                (foldl_mem_wf _ (fun s y hs => (s.raise y.2.2).write_mem_wf s.tid y.1 hs) _ _ (ht _))
            · exact foldl_mem_wf _ (fun s y hs => mem_wf_of_eq (s.issueStore_mem _ _) hs) _ _ (ht _)

theorem execMld_keepsForm (p : Pfx) (d a : BitVec 4) : KeepsForm (execMld p d a) := by
  refine issue_keepsForm (Shape.unissued_keepsForm fun u h => ?_)
  grind [State.matTouch_mem_wf, matMem_keepsForm, matRead_keepsForm, withBank_keepsForm, State.putAcc_mem, State.raise_mem,
    State.setMyCell_mem, withAcquire_mem, Res.keepsForm]

theorem execMwait_keepsForm (p : Pfx) (d a : BitVec 4) : KeepsForm (execMwait p d a) := by
  refine issue_keepsForm (plain_keepsForm _ fun u h => ?_)
  grind [Res.keepsForm]

theorem mbank_keepsForm (i : Instr) (body : State → Res) (hbody : ∀ (u : State), u.mem.wf = true → (body u).keepsForm) :
    KeepsForm (mbank i body) := by
  refine issue_keepsForm fun u h => ?_
  grind [Res.keepsForm]

theorem execMbankSel_keepsForm (p : Pfx) (d a : BitVec 4) : KeepsForm (execMbankSel p d a) :=
  mbank_keepsForm _ _ fun _ h => h

theorem bankStores_keepsForm {s : State} {r : Res} :
    ∀ {va : Word} {k : Nat} {bs : List Byte}, bankStores s va k bs = .error r → r.keepsForm
  | _, 0, _, he => by cases he
  | _, k + 1, _, he => by
    unfold bankStores at he
    repeat' (split at he)
    all_goals cases he
    · rename_i e
      exact State.storePiece_keepsForm e
    · trivial
    · rename_i e
      exact bankStores_keepsForm e

theorem bankRead_keepsForm {s : State} {va : Word} {r : Res} : ∀ {k : Nat}, bankRead s va k = .error r → r.keepsForm
  | 0, he => by cases he
  | k + 1, he => by
    unfold bankRead at he
    repeat' (split at he)
    all_goals cases he
    · rename_i e
      exact bankRead_keepsForm e
    · rename_i e
      exact State.readPiece_keepsForm e

theorem execMbankSpill_keepsForm (p : Pfx) (d a : BitVec 4) : KeepsForm (execMbankSpill p d a) := by
  refine mbank_keepsForm _ _ fun u h => ?_
  dsimp only
  split
  · trivial
  · split
    · trivial
    · split
      · rename_i e
        exact bankStores_keepsForm e
      · exact mem_wf_of_eq (State.setMyCell_mem _ _)
          (State.storeBank_mem_wf _ _ _ _
          (foldl_mem_wf _ (fun s x hs => mem_wf_of_eq (s.raise_mem _) hs) _ _ (u.touchPuts_mem_wf _ _ h)))

theorem execMbankFill_keepsForm (p : Pfx) (d a : BitVec 4) : KeepsForm (execMbankFill p d a) := by
  refine mbank_keepsForm _ _ fun u h => ?_
  dsimp only
  split
  · trivial
  · split
    · trivial
    · split
      · rename_i e
        exact bankRead_keepsForm e
      · exact mem_wf_of_eq (State.setMyCell_mem _ _) (u.touchAll_mem_wf (pieces (opA p a u) 64 64) 64 h)

/-! ### The chord network and barriers (13 R313 to R318) -/

@[simp] theorem State.setChord_mem (s : State) (level node chan : Nat) (w : BitVec 32) :
    (s.setChord level node chan w).mem = s.mem :=
  rfl

@[simp] theorem State.setArrived_mem (s : State) (c chan : Nat) (b : Bool) : (s.setArrived c chan b).mem = s.mem := by
  unfold State.setArrived
  grind [State.setCell_mem]

@[simp] theorem State.clearArrivals_mem (s : State) (chan : Nat) (cs : List Nat) : (s.clearArrivals chan cs).mem = s.mem :=
  foldl_mem _ (fun s x => by simp) _ _

@[simp] theorem State.openIfDone_mem (s : State) (level node chan : Nat) : (s.openIfDone level node chan).mem = s.mem := by
  unfold State.openIfDone
  grind [State.clearArrivals_mem, State.setChord_mem]

@[simp] theorem State.withdrawFrom_mem (s : State) (c chan : Nat) : (s.withdrawFrom c chan).mem = s.mem := by
  unfold State.withdrawFrom
  split <;> simp

@[simp] theorem State.withdraw_mem (s : State) (c : Nat) : (s.withdraw c).mem = s.mem := by
  unfold State.withdraw
  grind [State.withdrawFrom_mem, foldl_mem]

@[simp] theorem State.withdrawAfter_mem (s : State) (c n : Nat) : (s.withdrawAfter c n).mem = s.mem := by
  unfold State.withdrawAfter
  split <;> simp

@[simp] theorem State.chordWrite_mem (s : State) (level node chan : Nat) (w : BitVec 32) :
    (s.chordWrite level node chan w).mem = s.mem := by
  unfold State.chordWrite
  grind [State.clearArrivals_mem, State.setChord_mem]

theorem execChordConfigWrite_keepsForm (level : BitVec 3) (node : BitVec 12) (chan : BitVec 5) (w : BitVec 32) :
    KeepsForm (execChordConfigWrite level node chan w) := by
  intro s t h he
  unfold execChordConfigWrite at he
  grind [State.chordWrite_mem]

theorem withGroup_keepsForm (n : Nat) (s : State) (k : Nat → Nat → State → Res) (h : s.mem.wf = true)
    (hk : ∀ y0 y1 (u : State), u.mem.wf = true → (k y0 y1 u).keepsForm) : (withGroup n s k).keepsForm := by
  unfold withGroup
  grind [Res.keepsForm]

theorem execArrive_keepsForm (p : Pfx) (d a : BitVec 4) : KeepsForm (execArrive p d a) := by
  refine issue_keepsForm fun u h => ?_
  grind [withGroup_keepsForm, State.openIfDone_mem, State.release_mem, State.setArrived_mem, State.setMyCell_mem, Res.keepsForm]

theorem execBwait_keepsForm (p : Pfx) (d a : BitVec 4) : KeepsForm (execBwait p d a) := by
  refine issue_keepsForm (plain_keepsForm _ fun u h => ?_)
  grind [withGroup_keepsForm, State.acquire_mem, State.ws_mem, Res.keepsForm]

theorem execBstat_keepsForm (p : Pfx) (d a : BitVec 4) : KeepsForm (execBstat p d a) := by
  refine issue_keepsForm (plain_keepsForm _ fun u h => ?_)
  grind [State.ws_mem, Res.keepsForm]

/-! ### The stage step and staged objects (10 R255 to R262) -/

theorem State.setGran_mem_wf (s : State) (t : Nat) (l : GLoc) (v : Nat) (h : s.mem.wf = true) :
    (s.setGran t l v).mem.wf = true := by
  cases l with
  | word pa k => exact s.perform_mem_wf t _ h
  | ctl => exact h

theorem stageData_mem_wf (s : State) (t : Nat) (r : StageReq) (h : s.mem.wf = true) : (stageData s t r).2.mem.wf = true := by
  unfold stageData
  grind [State.meetLines_mem_wf, State.write_mem_wf, State.countOob_mem, State.dropLines_mem]

theorem State.meetGran_mem_wf (s : State) (t : Nat) (l : GLoc) (h : s.mem.wf = true) : (s.meetGran t l).mem.wf = true := by
  cases l with
  | word pa k => exact s.meetLines_mem_wf t _ 1 h
  | ctl => exact h

theorem stageRun_keepsForm (t : Nat) (r : StageReq) :
    ∀ (gs : List (Nat × GLoc)) (w : StageAt) (v : Option Word) (o : BitVec 2) (s : State),
    s.mem.wf = true → (stageRun t r w v o gs s).keepsForm
  | [], _, _, _, _, h => h
  | (g, l) :: rest, w, v, o, s, h => by
    have hm := s.meetGran_mem_wf t l h
    unfold stageRun
    dsimp only
    split
    · split
      · trivial
      · exact hm
    · split
      · exact hm
      · repeat' split
        all_goals first
          | exact hm
          | trivial
      · exact stageRun_keepsForm t r rest _ _ _ _ (State.setGran_mem_wf _ t l _ (stageData_mem_wf _ t r hm))
      · exact stageRun_keepsForm t r rest _ _ _ _ (State.setGran_mem_wf _ t l _ hm)

theorem stageRun_keepsForm_of_eq {t : Nat} {r : StageReq} {gs : List (Nat × GLoc)} {w : StageAt} {v : Option Word} {o : BitVec 2}
    {s : State} {out : StageOut} (h : s.mem.wf = true) (e : stageRun t r w v o gs s = out) : out.keepsForm :=
  e ▸ stageRun_keepsForm t r gs w v o s h

theorem stageCheck_keepsForm (p : Pfx) (a : BitVec 4) (one elem : Bool) (s : State) (k : State → Res) (h : s.mem.wf = true)
    (hk : ∀ (u : State), u.mem.wf = true → (k u).keepsForm) : (stageCheck p a one elem s k).keepsForm := by
  unfold stageCheck
  grind [withRegion_keepsForm, Res.keepsForm]

theorem accRes_keepsForm (s : State) (va : Word) (kind : AccKind) (a : Acc) : (accRes s va kind a).keepsForm := by
  cases a with
  | err e => exact s.refuse_keepsForm va e
  | mem | win | miss => trivial

theorem granLocs_keepsForm {s : State} {D : Desc} {r : Res} : ∀ {l : List Nat}, granLocs s D l = .error r → r.keepsForm
  | [], he => by cases he
  | i :: is, he => by
    unfold granLocs at he
    split at he
    · cases he
      exact accRes_keepsForm s _ _ _
    · split at he
      · cases he
        trivial
      · split at he
        · rename_i e
          cases he
          exact granLocs_keepsForm e
        · cases he

theorem elemKey_keepsForm {s : State} {D : Desc} {need : Need} {x : List Nat} {r : Res} (he : elemKey s D need x = .error r) :
    r.keepsForm := by
  unfold elemKey at he
  dsimp only at he
  repeat' (split at he)
  all_goals cases he
  exact accRes_keepsForm s _ _ _

theorem stageGo_keepsForm (r : StageReq) (s : State) (h : s.mem.wf = true) : (stageGo r s).keepsForm := by
  unfold stageGo
  grind [stageRun_keepsForm, State.acquire_mem, State.release_mem, State.setCtx_mem, State.ws_mem, Res.keepsForm,
    StageOut.keepsForm]

theorem stageOp_keepsForm (i : Instr) (p : Pfx) (d a : BitVec 4) (op : StageOp) (rights : List Nat) (s : State)
    (h : s.mem.wf = true) : (stageOp i p d a op rights s).keepsForm := by
  unfold stageOp
  grind [State.meetProt_mem_wf, elemKey_keepsForm, granLocs_keepsForm, stageCheck_keepsForm, stageGo_keepsForm, Res.keepsForm]

theorem stageShape_keepsForm (p : Pfx) (a : BitVec 4) (one elem : Bool) {body : State → Res}
    (hb : ∀ u : State, u.mem.wf = true → (body u).keepsForm) : (stageShape p a one elem body).keepsForm := hb

theorem execLds_keepsForm (p : Pfx) (d a : BitVec 4) : KeepsForm (execLds p d a) :=
  issue_keepsForm (stageShape_keepsForm _ _ _ _ fun u h => stageOp_keepsForm (.lds p d a) p d a .lds [0, 2] u h)

theorem execSts_keepsForm (p : Pfx) (d a : BitVec 4) : KeepsForm (execSts p d a) :=
  issue_keepsForm (stageShape_keepsForm _ _ _ _ fun u h => stageOp_keepsForm (.sts p d a) p d a .sts [1, 2] u h)

theorem execTrn_keepsForm (p : Pfx) (d a : BitVec 4) : KeepsForm (execTrn p d a) :=
  issue_keepsForm (stageShape_keepsForm _ _ _ _ fun u h => stageOp_keepsForm (.trn p d a) p d a .trn [2] u h)

theorem execStq_keepsForm (p : Pfx) (d a : BitVec 4) : KeepsForm (execStq p d a) := by
  refine issue_keepsForm (stageShape_keepsForm _ _ _ _ fun u h => stageCheck_keepsForm _ _ _ _ u _ h fun v hv => ?_)
  split
  · trivial
  · split
    · trivial
    · refine withRelease_keepsForm p v _ hv fun w hw => ?_
      split
      · rename_i e
        exact granLocs_keepsForm e
      · split
        · trivial
        · exact mem_wf_of_eq (withAcquire_mem p _)
            (foldl_mem_wf _ (fun s l hs => s.meetGran_mem_wf _ _ hs) _ _ (w.meetProt_mem_wf hw))

theorem execAutld_keepsForm (p : Pfx) (d a : BitVec 4) : KeepsForm (execAutld p d a) := by
  refine issue_keepsForm (memory_keepsForm _ _ fun u h => ?_)
  grind [State.touchAll_mem_wf, readPieces_keepsForm, State.release_mem, Res.keepsForm]

/-! ### Frames, records, the send buffer and the dispatcher (12 R290 to R303) -/

theorem State.setF_mem_wf (s : State) (t key : Nat) (off n v : Nat) (h : s.mem.wf = true) :
    (s.setF t key off n v).mem.wf = true := by
  unfold State.setF
  grind [State.putN_mem_wf]

theorem State.setF32_mem_wf (s : State) (t key off : Nat) (v : BitVec 32) (h : s.mem.wf = true) :
    (s.setF32 t key off v).mem.wf = true := by
  unfold State.setF32
  grind [State.setF_mem_wf]

theorem State.setF64_mem_wf (s : State) (t key off : Nat) (v : Word) (h : s.mem.wf = true) :
    (s.setF64 t key off v).mem.wf = true := by
  unfold State.setF64
  grind [State.setF_mem_wf]

theorem State.meetFrame_mem_wf (s : State) (t : Nat) (f : Word) (n : Nat) (h : s.mem.wf = true) :
    (s.meetFrame t f n).mem.wf = true := by
  unfold State.meetFrame
  grind [State.meetLines_mem_wf, State.meetPath_mem_wf]

theorem State.initFrame_mem_wf (s : State) (t : Nat) (f : Word) (key : Nat) (entry : Word) (iq mq : BitVec 32) (join : Word)
    (pos : Nat) (h : s.mem.wf = true) : (s.initFrame t f key entry iq mq join pos).mem.wf = true := by
  unfold State.initFrame
  grind [State.perform_mem_wf, State.setF_mem_wf, State.setF32_mem_wf, State.setF64_mem_wf, State.setTile_mem]

@[simp] theorem State.dropFrame_mem (s : State) (t : Nat) (f : Word) : (s.dropFrame t f).mem = s.mem := rfl

@[simp] theorem State.freeSlot_mem (s : State) (c n : Nat) : (s.freeSlot c n).mem = s.mem := rfl

theorem saveRegs_mem_wf (t key : Nat) (c : Ctx) (mask : BitVec 16) (s : State) (h : s.mem.wf = true) :
    (saveRegs t key c mask s).mem.wf = true := by
  unfold saveRegs
  grind [State.setF64_mem_wf, foldl_mem_wf]

theorem State.saveRecord_mem_wf (s : State) (c n key : Nat) (cpc : Word) (mask : BitVec 16) (reason : BitVec 3)
    (h : s.mem.wf = true) : (s.saveRecord c n key cpc mask reason).mem.wf = true := by
  unfold State.saveRecord
  grind [State.claimGrants_mem_wf, State.meetFrame_mem_wf, State.setF32_mem_wf, State.setF64_mem_wf, saveRegs_mem_wf,
    State.parkImage_mem]

theorem State.refillFrame_mem_wf (s : State) (t key : Nat) (reason : BitVec 3) (h : s.mem.wf = true) :
    (s.refillFrame t key reason).2.mem.wf = true := by
  unfold State.refillFrame
  grind [State.setF32_mem_wf]

@[simp] theorem State.post_mem (s : State) (c : Nat) (o : Out) : (s.post c o).mem = s.mem := rfl

@[simp] theorem State.sendJoin_mem (s : State) (c : Nat) (f j : Word) (kind : BitVec 8) (iref mref : BitVec 32) :
    (s.sendJoin c f j kind iref mref).mem = s.mem := by
  unfold State.sendJoin
  grind [State.logViolation_mem, State.post_mem]

@[simp] theorem State.stopCommands_mem (s : State) (t : Nat) (f : Word) : (s.stopCommands t f).mem = s.mem := by
  unfold State.stopCommands
  simp

@[simp] theorem State.dropSent_mem (s : State) (t : Nat) (f : Word) : (s.dropSent t f).mem = s.mem := by
  unfold State.dropSent
  split <;> simp

theorem State.endTask_mem_wf (s : State) (c n : Nat) (kind : Option (BitVec 8)) (h : s.mem.wf = true) :
    (s.endTask c n kind).mem.wf = true := by
  unfold State.endTask
  grind [State.claimGrants_mem_wf, State.meetFrame_mem_wf, State.dropFrame_mem, State.dropSent_mem, State.eachCell_mem,
    State.freeBanks_mem, State.freeSlot_mem, State.sendJoin_mem, State.stopCommands_mem, State.withdrawAfter_mem]

theorem execExit_keepsForm (p : Pfx) (d a : BitVec 4) : KeepsForm (execExit p d a) := by
  refine issue_keepsForm (plain_keepsForm _ fun u h => ?_)
  grind [State.endTask_mem_wf, Res.keepsForm]

theorem State.requeue_mem_wf (s : State) (t : Nat) (f : Word) (key scope : Nat) (ilen k : Nat) (h : s.mem.wf = true) :
    (s.requeue t f key scope ilen k).mem.wf = true := by
  unfold State.requeue
  grind [State.setF_mem_wf, State.setTile_mem]

@[simp] theorem State.notify_mem (s : State) (c : Nat) (f : Word) (key : Nat) (reason : BitVec 3) :
    (s.notify c f key reason).mem = s.mem := by
  unfold State.notify
  simp

theorem State.parkNotified_mem_wf (s : State) (c n e : Nat) (f : Word) (key : Nat) (reason : BitVec 3) (h : s.mem.wf = true) :
    (s.parkNotified c n e f key reason).mem.wf = true := by
  unfold State.parkNotified
  grind [State.setF_mem_wf, State.freeSlot_mem, State.notify_mem, State.setTile_mem]

theorem execBudgetYield_keepsForm : KeepsForm execBudgetYield := by
  intro s t h he
  unfold execBudgetYield at he
  grind [State.endTask_mem_wf, State.parkNotified_mem_wf, State.refillFrame_mem_wf, State.requeue_mem_wf, State.saveRecord_mem_wf,
    State.setF_mem_wf, State.closeStreams_mem, State.freeSlot_mem]

theorem applyMsg_mem_wf (t off : Nat) (words : List Word) (ctr scope : Nat) (iref mref : BitVec 32) (s : State)
    (h : s.mem.wf = true) : (applyMsg t off words ctr scope iref mref s).mem.wf = true := by
  unfold applyMsg
  grind [State.bump_mem_wf, State.write_mem_wf]

@[simp] theorem State.enqueueRq_mem (s : State) (t : Nat) (e : RqEntry) : (s.enqueueRq t e).mem = s.mem := rfl

theorem State.applyOut_mem_wf (s : State) (c : Nat) (o : Out) (h : s.mem.wf = true) : (s.applyOut c o).mem.wf = true := by
  cases o with
  | msg | join => exact applyMsg_mem_wf _ _ _ _ _ _ _ _ h
  | spawn => exact h

@[simp] theorem State.logOut_mem (s : State) (a c : Nat) (o : Out) : (s.logOut a c o).mem = s.mem := rfl

theorem State.deliver_mem_wf (s : State) (a c : Nat) (o : Out) (h : s.mem.wf = true) : (s.deliver a c o).mem.wf = true := by
  unfold State.deliver
  grind [State.applyOut_mem_wf, State.logOut_mem, State.setTile_mem]

theorem State.flushIngress_mem_wf (s : State) (t : Nat) (h : s.mem.wf = true) : (s.flushIngress t).mem.wf = true := by
  unfold State.flushIngress
  grind [State.deliver_mem_wf, State.setTile_mem]

theorem replayList_mem_wf (t : Nat) : ∀ (l : List (Nat × Out)) (s : State), s.mem.wf = true → (replayList t l s).2.mem.wf = true
  | [], _, h => h
  | (c, o) :: l, s, h => by
    unfold replayList
    split
    · exact h
    · exact replayList_mem_wf t l _ (s.applyOut_mem_wf c o h)

theorem State.replay_mem_wf (s : State) (t : Nat) (h : s.mem.wf = true) : (s.replay t).mem.wf = true := by
  unfold State.replay
  grind [replayList_mem_wf]

theorem State.enterSpace_mem_wf (s : State) (t : Nat) (a : BitVec 12) (h : s.mem.wf = true) : (s.enterSpace t a).mem.wf = true := by
  unfold State.enterSpace
  grind [State.flushIngress_mem_wf, State.replay_mem_wf, State.changeSpace_mem]

theorem deliverK_keepsForm (ok : Out → Bool) : KeepsForm (deliverK ok) := by
  intro s t h he
  unfold deliverK at he
  grind [State.deliver_mem_wf, State.flushIngress_mem_wf, State.setMyCell_mem]

theorem execMessageDelivery_keepsForm : KeepsForm execMessageDelivery := deliverK_keepsForm _

theorem execJoinIncrement_keepsForm : KeepsForm execJoinIncrement := deliverK_keepsForm _

theorem execSpawnEnqueue_keepsForm : KeepsForm execSpawnEnqueue := by
  intro s t h he
  unfold execSpawnEnqueue at he
  grind [State.deliver_mem_wf, State.flushIngress_mem_wf, State.setMyCell_mem, State.setTile_mem]

theorem execFiredPendingEnqueue_keepsForm : KeepsForm execFiredPendingEnqueue := by
  intro s t h he
  unfold execFiredPendingEnqueue at he
  grind [State.takeRecord_mem_wf, State.logViolation_mem, State.noteRecord_mem, State.setTile_mem]

theorem State.bindFresh_mem_wf (s : State) (c n : Nat) (e : RqEntry) (r : Vector Word 8) (h : s.mem.wf = true) :
    (s.bindFresh c n e r).mem.wf = true := by
  unfold State.bindFresh
  grind [State.initFrame_mem_wf, State.beginAt_mem, State.setLive_mem]

@[simp] theorem State.takeRefunds_mem (s : State) (t : Nat) (k : Option (BitVec 10)) : (s.takeRefunds t k).2.2.mem = s.mem := by
  unfold State.takeRefunds
  split <;> rfl

theorem State.bindFrame_mem_wf (s : State) (c n : Nat) (e : RqEntry) (key : Nat) (h : s.mem.wf = true) :
    (s.bindFrame c n e key).mem.wf = true := by
  unfold State.bindFrame
  grind [State.claimGrants_mem_wf, State.meetFrame_mem_wf, State.setF_mem_wf, State.takeTrap_mem_wf, State.beginAt_mem,
    State.setLive_mem, State.takeRefunds_mem]

theorem execDispatch_keepsForm : KeepsForm execDispatch := by
  intro s t h he
  unfold execDispatch at he
  grind [State.bindFrame_mem_wf, State.bindFresh_mem_wf, State.replay_mem_wf, State.setMyTile_mem]

/-! ### Page 5: messages, tasks, deques and budgets (12 R289 to R310, 05 R121) -/

theorem execSend_keepsForm (p : Pfx) (d a : BitVec 4) : KeepsForm (execSend p d a) := by
  refine issue_keepsForm fun u h => ?_
  dsimp only [memory]
  grind [State.post_mem, State.release_mem, State.setMyCell_mem, Res.keepsForm]

theorem execCtradd_keepsForm (p : Pfx) (d a : BitVec 4) : KeepsForm (execCtradd p d a) := by
  refine issue_keepsForm (plain_keepsForm _ fun u h => ?_)
  grind [State.bump_mem_wf, Res.keepsForm]

theorem execCtrrd_keepsForm (p : Pfx) (d a : BitVec 4) : KeepsForm (execCtrrd p d a) :=
  issue_keepsForm fun _ h => h

theorem execCwait_keepsForm (p : Pfx) (d a : BitVec 4) : KeepsForm (execCwait p d a) := by
  refine issue_keepsForm (plain_keepsForm _ fun u h => ?_)
  grind [State.acquire_mem, State.setCtx_mem, State.setMyTile_mem, Res.keepsForm]

theorem execWtarm_keepsForm (p : Pfx) (d a : BitVec 4) : KeepsForm (execWtarm p d a) := by
  refine issue_keepsForm (plain_keepsForm _ fun u h => ?_)
  grind [State.checkFire_mem_wf, State.setMyTile_mem, Res.keepsForm]

theorem execWtdis_keepsForm (p : Pfx) (d a : BitVec 4) : KeepsForm (execWtdis p d a) := by
  refine issue_keepsForm (plain_keepsForm _ fun u h => ?_)
  grind [State.setMyTile_mem, Res.keepsForm]

theorem pushFalse_keepsForm (s : State) (h : s.mem.wf = true) : (pushFalse s).keepsForm := by
  unfold pushFalse
  grind [pushRes_keepsForm, Res.keepsForm]

theorem pushTrue_keepsForm (s : State) (h : s.mem.wf = true) : (pushTrue s).keepsForm := by
  unfold pushTrue
  grind [pushRes_keepsForm, Res.keepsForm]

theorem execSpawn_keepsForm (p : Pfx) (d a : BitVec 4) : KeepsForm (execSpawn p d a) := by
  refine issue_keepsForm (pushing_keepsForm _ _ fun u h => ?_)
  grind [State.touchAll_mem_wf, pushFalse_keepsForm, pushTrue_keepsForm, readPieces_keepsForm, State.post_mem, State.release_mem,
    State.setCtx_mem, State.setTile_mem, Res.keepsForm]

theorem execStart_keepsForm (p : Pfx) (d a : BitVec 4) : KeepsForm (execStart p d a) := by
  refine issue_keepsForm (pushing_keepsForm _ _ fun u h => ?_)
  grind [State.initFrame_mem_wf, pushFalse_keepsForm, pushTrue_keepsForm, State.setCtx_mem, State.setLive_mem, State.setMyCell_mem,
    State.ws_mem, Res.keepsForm]

theorem execHjoin_keepsForm (p : Pfx) (d a : BitVec 4) : KeepsForm (execHjoin p d a) := by
  refine issue_keepsForm (plain_keepsForm _ fun u h => ?_)
  grind [State.acquire_mem, State.setCtx_mem, State.setMyCell_mem, Res.keepsForm]

theorem execSusp_keepsForm (p : Pfx) (d a : BitVec 4) : KeepsForm (execSusp p d a) := by
  refine issue_keepsForm (plain_keepsForm _ fun u h => ?_)
  grind [State.checkFire_mem_wf, State.saveRecord_mem_wf, State.setF_mem_wf, State.freeSlot_mem, State.setMyTile_mem, Res.keepsForm]

theorem dqKey_keepsForm {s : State} {va : Word} {n : Nat} {r : Res} (he : dqKey s va n = .error r) : r.keepsForm := by
  unfold dqKey at he
  repeat' (split at he)
  all_goals cases he
  all_goals first
    | exact s.refuse_keepsForm _ _
    | trivial

theorem State.homeRead_mem_wf (s : State) (pa n : Nat) (h : s.mem.wf = true) : (s.homeRead pa n).mem.wf = true := by
  unfold State.homeRead
  grind [State.meetLines_mem_wf, State.dropLines_mem]

theorem dqBody_keepsForm (p : Pfx) (va : Word) {f : Nat → Nat → Nat → Nat → DqOut}
    (hf : ∀ h cap top bot, (f h cap top bot).keepsForm)
    {empty : State → Res} (hempty : ∀ u : State, u.mem.wf = true → (empty u).keepsForm) (s : State) (h : s.mem.wf = true) :
    (dqBody p va f empty s).keepsForm := by
  unfold dqBody
  split
  · trivial
  · split
    · trivial
    · split
      · rename_i e
        exact dqKey_keepsForm e
      · rename_i key _
        refine withRelease_keepsForm p s _ h fun u hu => ?_
        have hr := u.homeRead_mem_wf key 64 hu
        dsimp only
        split
        · trivial
        · split
          · trivial
          · exact hempty _ (mem_wf_of_eq (withAcquire_mem p _) hr)
          · rename_i e
            split
            · rename_i e
              exact dqKey_keepsForm e
            · have hg := hf key (rdN (u.homeRead key 64).mem (key + 8) 4) (rdN (u.homeRead key 64).mem (key + 0x10) 8)
                (rdN (u.homeRead key 64).mem (key + 0x18) 8)
              rw [e] at hg
              exact hg _ _ (State.homeRead_mem_wf _ _ 8 hr)

theorem execDqpush_keepsForm (p : Pfx) (d a : BitVec 4) : KeepsForm (execDqpush p d a) := by
  refine issue_keepsForm (memory_keepsForm 2 _ fun u h => dqBody_keepsForm p (opD p d u) (fun hd cap top bot => ?_) ?_ u h)
  · split
    · trivial
    · exact fun k w hw => mem_wf_of_eq (withAcquire_mem p _) (State.putN_mem_wf _ _ _ _ _ (w.put64_mem_wf _ _ _ hw))
  · exact fun _ hv => hv

theorem execDqpop_keepsForm (p : Pfx) (d a : BitVec 4) : KeepsForm (execDqpop p d a) := by
  refine issue_keepsForm (pushing_keepsForm 2 _ fun u h => dqBody_keepsForm p (opA p a u) (fun hd cap top bot => ?_)
    pushFalse_keepsForm u h)
  split
  · trivial
  · exact fun k w hw => pushTrue_keepsForm _
      (mem_wf_of_eq (withAcquire_mem p _) (mem_wf_of_eq (State.ws_mem _ _ _) (w.putN_mem_wf w.tid _ _ _ hw)))

theorem execDqsteal_keepsForm (p : Pfx) (d a : BitVec 4) : KeepsForm (execDqsteal p d a) := by
  refine issue_keepsForm (pushing_keepsForm 2 _ fun u h => dqBody_keepsForm p (opA p a u) (fun hd cap top bot => ?_)
    pushFalse_keepsForm u h)
  split
  · trivial
  · exact fun k w hw => pushTrue_keepsForm _
      (mem_wf_of_eq (withAcquire_mem p _) (mem_wf_of_eq (State.ws_mem _ _ _) (w.putN_mem_wf w.tid _ _ _ hw)))

theorem execBsetcRel_keepsForm (p : Pfx) (a : BitVec 4) : KeepsForm (execBsetcRel p a) :=
  issue_keepsForm fun _ h => h

theorem execBsetcReg_keepsForm (p : Pfx) (a : BitVec 4) : KeepsForm (execBsetcReg p a) :=
  issue_keepsForm fun _ h => h

theorem State.wake_mem_wf (s : State) (f : Word) (kernel : Bool) (h : s.mem.wf = true) : (s.wake f kernel).mem.wf = true := by
  unfold State.wake
  grind [State.meetFrame_mem_wf, State.refillFrame_mem_wf, State.setF_mem_wf, State.notify_mem, State.putFired_mem]

theorem grantAt_mem_wf (s : State) (pa : Nat) (iu mu : BitVec 32) (unm : Bool) (h : s.mem.wf = true) :
    (grantAt s pa iu mu unm).mem.wf = true := by
  unfold grantAt
  grind [State.meetLines_mem_wf, State.setF32_mem_wf, State.setF64_mem_wf]

theorem execBgrant_keepsForm (p : Pfx) (d a : BitVec 4) : KeepsForm (execBgrant p d a) := by
  refine issue_keepsForm (pushing_keepsForm _ _ fun u h => ?_)
  grind [State.wake_mem_wf, dqKey_keepsForm, grantAt_mem_wf, pushFalse_keepsForm, pushTrue_keepsForm, State.setCtx_mem,
    Res.keepsForm]

theorem execBtop_keepsForm (p : Pfx) (d a : BitVec 4) : KeepsForm (execBtop p d a) := by
  refine issue_keepsForm fun u h => ?_
  grind [State.wake_mem_wf, dqKey_keepsForm, grantAt_mem_wf, Res.keepsForm]

theorem execByield_keepsForm (p : Pfx) (d a : BitVec 4) : KeepsForm (execByield p d a) := by
  refine issue_keepsForm fun u h => ?_
  dsimp only [plain]
  grind [State.setCtx_mem, Res.keepsForm]

/-! ### Special registers (04 R81 to R97) -/

theorem State.sprWrite_mem_wf (s : State) (n : Nat) (v : Word) (h : s.mem.wf = true) : (s.sprWrite n v).mem.wf = true := by
  unfold State.sprWrite
  grind [State.enterSpace_mem_wf, State.setCtx_mem, State.setQuart_mem]

theorem sprShape_keepsForm (n : Nat) (write : Bool) {k : State → State} (hk : ∀ u : State, u.mem.wf = true → (k u).mem.wf = true) :
    (sprShape n write k).keepsForm := by
  intro s h
  unfold sprShape
  dsimp only
  split
  · trivial
  · split
    · trivial
    · exact hk s h

theorem execMfs_keepsForm (p : Pfx) (d a : BitVec 4) : KeepsForm (execMfs p d a) :=
  issue_keepsForm (sprShape_keepsForm _ _ fun _ h => h)

theorem execMts_keepsForm (p : Pfx) (d a : BitVec 4) : KeepsForm (execMts p d a) :=
  issue_keepsForm (sprShape_keepsForm _ _ fun u h => u.sprWrite_mem_wf _ _ h)

/-! ### Engine commands (13 R319 to R325) -/

@[simp] theorem State.setTag_mem (s : State) (c k : Nat) (t : Tag) : (s.setTag c k t).mem = s.mem := rfl

@[simp] theorem engineCapture_mem (k : EKind) (p : Pfx) (d a : BitVec 4) (scope : Nat) (s : State) :
    (engineCapture k p d a scope s).mem = s.mem :=
  rfl

theorem execEwait_keepsForm (p : Pfx) (d a : BitVec 4) : KeepsForm (execEwait p d a) := by
  refine issue_keepsForm (plain_keepsForm _ fun u h => ?_)
  grind [State.acquire_mem, State.ws_mem, Res.keepsForm]

theorem execEtest_keepsForm (p : Pfx) (d a : BitVec 4) : KeepsForm (execEtest p d a) := by
  refine issue_keepsForm (pushing_keepsForm _ _ fun u h => ?_)
  grind [State.push_mem_wf, pushRes_keepsForm, State.acquire_mem, State.ws_mem, Res.keepsForm]

theorem execChunkrd_keepsForm (p : Pfx) (d a : BitVec 4) : KeepsForm (execChunkrd p d a) := by
  refine issue_keepsForm (plain_keepsForm _ fun u h => ?_)
  grind [State.acquire_mem, State.ws_mem, Res.keepsForm]

theorem Cmd.touch_mem_wf (c : Cmd) (s : State) (t : Nat) (D : Desc) (x : List Nat) (h : s.mem.wf = true) :
    (c.touch s t D x).mem.wf = true := by
  unfold Cmd.touch
  grind [State.meetLines_mem_wf, State.meetPath_mem_wf, foldl_mem_wf]

theorem Cmd.wrElem_keepsForm (c : Cmd) (s : State) (t : Nat) (x : List Nat) (v : Nat) (h : s.mem.wf = true) :
    (c.wrElem s t x v).keepsForm := by
  unfold Cmd.wrElem
  grind [State.meetPath_mem_wf, State.write_mem_wf, State.countOob_mem, Elem.keepsForm]

theorem Run.fail_mem_wf (r : Run) (e : BitVec 4) (hr : r.s.mem.wf = true) : (r.fail e).s.mem.wf = true := by
  unfold Run.fail
  grind

theorem Run.page_mem_wf (r : Run) (t cell : Nat) (e : Err) (hr : r.s.mem.wf = true) : (r.page t cell e).s.mem.wf = true := by
  unfold Run.page
  grind [Run.fail_mem_wf, State.logViolation_mem]

theorem Run.gone_mem_wf (r : Run) (refused : Bool) (va : Word) (hr : r.s.mem.wf = true) : (r.gone refused va).s.mem.wf = true := by
  unfold Run.gone
  grind [Run.fail_mem_wf]

theorem moveRun_mem_wf (c : Cmd) (cell : Nat) (refused : Bool) (bs : List NBox) {get : Source} (hget : get.keepsForm) :
    ∀ (k i : Nat) (r : Run), r.s.mem.wf = true → (moveRun c cell refused bs get k i r).s.mem.wf = true
  | 0, _, _, h => h
  | k + 1, i, r, h => by
    have hs := hget r.s i h
    unfold moveRun
    split
    · exact h
    · dsimp only
      refine moveRun_mem_wf c cell refused bs hget k _ _ ?_
      split
      · exact Run.fail_mem_wf _ _ hs
      · exact Run.page_mem_wf _ _ cell _ hs
      · exact Run.gone_mem_wf _ refused _ hs
      · rename_i v _
        have hw := c.wrElem_keepsForm (get r.s i).2 (cell / 16) (listMember bs i) v hs
        split
        · rename_i e
          rw [e] at hw
          exact hw
        · exact Run.page_mem_wf _ _ cell _ hs
        · exact Run.gone_mem_wf _ refused _ hs
        · exact Run.fail_mem_wf _ _ hs

@[simp] theorem State.endMove_mem (s : State) (cell k : Nat) (c : Cmd) (err : BitVec 4) : (s.endMove cell k c err).mem = s.mem :=
  rfl

theorem State.engPark_mem_wf (s : State) (cell k : Nat) (c : Cmd) (va : Word) (h : s.mem.wf = true) :
    (s.engPark cell k c va).mem.wf = true := by
  unfold State.engPark
  grind [State.parkFault_mem_wf, State.setTag_mem]

theorem State.afterRun_mem_wf (s0 : Tag) (cell k : Nat) (c : Cmd) (total : Nat) (r : Run) (hr : r.s.mem.wf = true) :
    (State.afterRun s0 cell k c total r).mem.wf = true := by
  unfold State.afterRun
  grind [State.engPark_mem_wf, State.endMove_mem, State.setTag_mem]

theorem State.moveChunk_mem_wf (s : State) (cell k : Nat) (c : Cmd) (refused : Bool) (n total : Nat) (get : Source)
    (h : s.mem.wf = true) (hget : get.keepsForm) : (s.moveChunk cell k c refused n total get).mem.wf = true := by
  unfold State.moveChunk
  grind [State.afterRun_mem_wf, moveRun_mem_wf, Source.keepsForm]

theorem readAll_mem_wf (c : Cmd) (t cell : Nat) (refused : Bool) (bs : List NBox) (f : Nat → Nat) :
    ∀ (k i : Nat) (vs : List (Option Nat)) (r : Run), r.s.mem.wf = true → (readAll c t cell refused bs f k i vs r).2.s.mem.wf = true
  | 0, _, _, _, h => h
  | k + 1, i, vs, r, h => by
    have ht := c.touch_mem_wf r.s t c.srcD (listMember bs i) h
    unfold readAll
    dsimp only
    split
    · exact readAll_mem_wf c t cell refused bs f k _ _ _ ht
    · exact readAll_mem_wf c t cell refused bs f k _ _ _ (Run.fail_mem_wf _ _ ht)
    · exact Run.page_mem_wf _ t cell _ ht
    · exact Run.gone_mem_wf _ refused _ ht

theorem fromVals_keepsForm (vs : List (Option Nat)) : (fromVals vs).keepsForm := fun _ _ h => h

theorem Cmd.fromSource_keepsForm (c : Cmd) (t : Nat) : (c.fromSource t).keepsForm := fun s _ h => c.touch_mem_wf s t _ _ h

theorem State.copyChunk_mem_wf (s : State) (cell k : Nat) (c : Cmd) (refused : Bool) (n : Nat) (h : s.mem.wf = true) :
    (s.copyChunk cell k c refused n).mem.wf = true := by
  unfold State.copyChunk
  grind [Cmd.fromSource_keepsForm, State.engPark_mem_wf, State.moveChunk_mem_wf, fromVals_keepsForm, readAll_mem_wf,
    State.endMove_mem, State.setTag_mem, Source.keepsForm]

theorem Cmd.touchBag_mem_wf (c : Cmd) (s : State) (t k : Nat) (bag : List (List Nat)) (h : s.mem.wf = true) :
    (c.touchBag s t k bag).mem.wf = true := by
  unfold Cmd.touchBag
  grind [Cmd.touch_mem_wf, foldl_mem_wf]

theorem Cmd.fromBags_keepsForm (c : Cmd) (t free : Nat) (bags : List (List (List Nat))) : (c.fromBags t free bags).keepsForm :=
  fun s _ h => c.touchBag_mem_wf s t _ _ h

theorem State.poolChunk_mem_wf (s : State) (cell k : Nat) (c : Cmd) (refused : Bool) (n : Nat) (h : s.mem.wf = true) :
    (s.poolChunk cell k c refused n).mem.wf = true := by
  unfold State.poolChunk
  grind [Cmd.fromBags_keepsForm, State.moveChunk_mem_wf, State.draw_mem, State.endMove_mem, Source.keepsForm]

theorem State.engineUnit_mem_wf (s : State) (cell k : Nat) (refused : Bool) (n : Nat) (h : s.mem.wf = true) :
    (s.engineUnit cell k refused n).mem.wf = true := by
  unfold State.engineUnit
  grind [State.copyChunk_mem_wf, State.moveChunk_mem_wf, State.poolChunk_mem_wf, fromVals_keepsForm, Source.keepsForm]

theorem execEngineChunkPerformed_keepsForm : KeepsForm execEngineChunkPerformed := by
  intro s t h he
  unfold execEngineChunkPerformed at he
  grind [State.engineUnit_mem_wf]

@[simp] theorem State.shelve_mem (s : State) (k : Nat) (m : Cmd) : (s.shelve k m).mem = s.mem := rfl

@[simp] theorem State.pruneInsts_mem (s : State) : s.pruneInsts.mem = s.mem := rfl

@[simp] theorem State.closeInst_mem (s : State) (n : BitVec 12 × BitVec 8 × BitVec 16) : (s.closeInst n).mem = s.mem := by
  unfold State.closeInst
  grind [State.pruneInsts_mem, State.setTag_mem, State.shelve_mem, foldl_mem]

@[simp] theorem State.unparkTag_mem (s : State) (c k : Nat) : (s.unparkTag c k).mem = s.mem := rfl

@[simp] theorem State.setLeft_mem (s : State) (cell k : Nat) (c : Cmd) (err : BitVec 4) (left : List Nat) :
    (s.setLeft cell k c err left).mem = s.mem :=
  rfl

theorem complete_mem_wf (cell k : Nat) (c : Cmd) :
    ∀ (gs : List Nat) (err : BitVec 4) (s : State), s.mem.wf = true → (complete cell k c err gs s).mem.wf = true
  | [], _, _, h => h
  | g :: gs, err, s, h => by
    have hp := s.meetPath_mem_wf (cell / 16) c.asid (c.dstD.stageVa g).toNat h
    unfold complete
    dsimp only
    split
    · split
      · exact State.engPark_mem_wf _ _ _ _ _ h
      · exact h
    · refine complete_mem_wf cell k c gs _ _ ?_
      split
      · exact h
      · exact h
    · exact complete_mem_wf cell k c gs _ s h
    · split
      · exact complete_mem_wf cell k c gs _ s h
      · split
        · rename_i e
          exact complete_mem_wf cell k c gs _ _ (stageRun_keepsForm_of_eq hp e)
        · rename_i e
          exact complete_mem_wf cell k c gs _ _ (stageRun_keepsForm_of_eq hp e)
        · rename_i e
          exact stageRun_keepsForm_of_eq hp e
        · exact hp
        · exact hp

theorem State.completeTag_mem_wf (s : State) (cell k : Nat) (h : s.mem.wf = true) : (s.completeTag cell k).mem.wf = true := by
  unfold State.completeTag
  grind [complete_mem_wf, State.closeInst_mem]

theorem execEngineCompletion_keepsForm : KeepsForm execEngineCompletion := by
  intro s t h he
  unfold execEngineCompletion at he
  grind [State.completeTag_mem_wf]

/-! ### Collectives and stop units (13 R327 to R336, 14 R355) -/

@[simp] theorem State.dropInst_mem (s : State) (n : BitVec 12 × BitVec 8 × BitVec 16) : (s.dropInst n).mem = s.mem := rfl

@[simp] theorem State.putInst_mem (s : State) (x : Inst) : (s.putInst x).mem = s.mem := rfl

@[simp] theorem State.sendColl_mem (s : State) (g : Group) (r : CollReq) : (s.sendColl g r).mem = s.mem := by
  unfold State.sendColl
  split <;> rfl

@[simp] theorem State.sendFail_mem (s : State) (n : BitVec 12 × BitVec 8 × BitVec 16) (one : Bool) (err : BitVec 4) :
    (s.sendFail n one err).mem = s.mem := by
  unfold State.sendFail
  split <;> simp

theorem State.takeBack_mem_wf (s : State) (t : Nat) (m : Cmd) (err : BitVec 4) (h : s.mem.wf = true) :
    (s.takeBack t m err).mem.wf = true := by
  unfold State.takeBack
  grind [State.perform_mem_wf]

@[simp] theorem State.endShelved_mem (s : State) (k : Nat) (m : Cmd) (err : BitVec 4) : (s.endShelved k m err).mem = s.mem := rfl

theorem State.endNamed_mem_wf (s : State) (n : BitVec 12 × BitVec 8 × BitVec 16) (err : BitVec 4) (h : s.mem.wf = true) :
    (s.endNamed n err).mem.wf = true := by
  unfold State.endNamed
  grind [State.takeBack_mem_wf, foldl_mem_wf, State.endMove_mem, State.endShelved_mem, State.unparkTag_mem, foldl_mem]

theorem State.failInst_mem_wf (s : State) (x : Inst) (err : BitVec 4) (h : s.mem.wf = true) : (s.failInst x err).mem.wf = true := by
  unfold State.failInst
  grind [State.endNamed_mem_wf, foldl_mem_wf, State.dropInst_mem, State.putInst_mem, State.sendFail_mem]

theorem State.failAll_mem_wf (s : State) (x : Inst) (h : s.mem.wf = true) : (s.failAll x).mem.wf = true := by
  unfold State.failAll
  grind [State.failInst_mem_wf, State.sendFail_mem]

@[simp] theorem State.giveResult_mem (s : State) (x : Inst) (ty : Ty) (vs : List Nat) : (s.giveResult x ty vs).mem = s.mem := by
  unfold State.giveResult
  grind [State.endMove_mem, State.endShelved_mem, State.setTag_mem, State.shelve_mem, foldl_mem]

theorem State.startInst_mem_wf (s : State) (g : Group) (x : Inst) (arr : List Part) (h : s.mem.wf = true) :
    (s.startInst g x arr).mem.wf = true := by
  unfold State.startInst
  grind [State.failInst_mem_wf, State.giveResult_mem, State.putInst_mem, State.sendColl_mem]

theorem State.tryInst_mem_wf (s : State) (x : Inst) (h : s.mem.wf = true) : (s.tryInst x).mem.wf = true := by
  unfold State.tryInst
  split
  · exact h
  · dsimp only
    repeat' split
    all_goals first
      | exact h
      | exact s.failAll_mem_wf x h
      | exact s.failInst_mem_wf x _ h
      | exact s.startInst_mem_wf _ _ _ h

theorem State.addPart_mem_wf (s : State) (n : BitVec 12 × BitVec 8 × BitVec 16) (q : Part) (h : s.mem.wf = true) :
    (s.addPart n q).mem.wf = true := by
  unfold State.addPart
  grind [State.failInst_mem_wf, State.tryInst_mem_wf, State.putInst_mem]

theorem State.judgeSecond_mem_wf (s : State) (cell k : Nat) (h : s.mem.wf = true) : (s.judgeSecond cell k).mem.wf = true := by
  unfold State.judgeSecond
  grind [State.failInst_mem_wf]

@[simp] theorem State.killTag_mem (s : State) (c k : Nat) : (s.killTag c k).mem = s.mem := by
  unfold State.killTag
  grind [State.setTag_mem, State.shelve_mem, State.unparkTag_mem]

theorem State.cancelInst_mem_wf (s : State) (n : BitVec 12 × BitVec 8 × BitVec 16) (h : s.mem.wf = true) :
    (s.cancelInst n).mem.wf = true := by
  unfold State.cancelInst
  grind [State.engineUnit_mem_wf, foldl_mem_wf, State.dropInst_mem, State.endShelved_mem, State.killTag_mem, State.setTag_mem,
    State.shelve_mem, foldl_mem]

theorem State.postPart_mem_wf (s : State) (cell k : Nat) (c : Cmd) (refused : Bool) (h : s.mem.wf = true) :
    (s.postPart cell k c refused).mem.wf = true := by
  unfold State.postPart
  grind [State.addPart_mem_wf, State.engPark_mem_wf, readAll_mem_wf, State.sendColl_mem, State.setTag_mem]

theorem execCollectiveRequest_keepsForm (r : CollReq) : KeepsForm (execCollectiveRequest r) := by
  intro s t h he
  unfold execCollectiveRequest at he
  grind [State.addPart_mem_wf, State.cancelInst_mem_wf, State.postPart_mem_wf, State.tryInst_mem_wf, State.putInst_mem]

theorem State.engineRefuse_mem_wf (s : State) (cell k : Nat) (h : s.mem.wf = true) : (s.engineRefuse cell k).mem.wf = true := by
  unfold State.engineRefuse
  grind [State.engineUnit_mem_wf, State.postPart_mem_wf, State.setLeft_mem, State.setTag_mem]

@[simp] theorem State.rejudge_mem (s : State) (cell k : Nat) : (s.rejudge cell k).mem = s.mem := by
  unfold State.rejudge
  grind [State.endMove_mem, State.setLeft_mem, State.setTag_mem, State.unparkTag_mem]

@[simp] theorem State.rejudgeTile_mem (s : State) (t : Nat) : (s.rejudgeTile t).mem = s.mem := foldl_mem _ (fun s x => by simp) _ _

@[simp] theorem State.noteCmd_mem (s : State) (cell k : Nat) : (s.noteCmd cell k).mem = s.mem := by
  unfold State.noteCmd
  grind [State.setTag_mem]

@[simp] theorem State.noteTile_mem (s : State) (t : Nat) : (s.noteTile t).mem = s.mem := foldl_mem _ (fun s x => by simp) _ _

theorem execStopUnitReached_keepsForm : KeepsForm execStopUnitReached := by
  intro s t h he
  unfold execStopUnitReached at he
  grind [State.cancelInst_mem_wf, State.killTag_mem, State.noteTile_mem, State.pruneInsts_mem, State.sendFail_mem,
    State.setTile_mem]

theorem engineBody_keepsForm (k : EKind) (p : Pfx) (d a : BitVec 4) (s : State) (h : s.mem.wf = true) :
    (engineBody k p d a s).keepsForm := by
  unfold engineBody
  grind [State.judgeSecond_mem_wf, State.meetProt_mem_wf, State.meetTable_mem_wf, State.release_mem, engineCapture_mem,
    Res.keepsForm]

theorem engine_keepsForm (i : Instr) (k : EKind) (p : Pfx) (d a : BitVec 4) : KeepsForm (engine i k p d a) := by
  refine issue_keepsForm fun u h => ?_
  grind [engineBody_keepsForm, Res.keepsForm]

theorem execCopy_keepsForm (p : Pfx) (d a : BitVec 4) : KeepsForm (execCopy p d a) := engine_keepsForm _ _ _ _ _

theorem execGpool_keepsForm (p : Pfx) (d a : BitVec 4) : KeepsForm (execGpool p d a) := engine_keepsForm _ _ _ _ _

theorem execXred_keepsForm (p : Pfx) (d a : BitVec 4) : KeepsForm (execXred p d a) := engine_keepsForm _ _ _ _ _

theorem execXbcast_keepsForm (p : Pfx) (d a : BitVec 4) : KeepsForm (execXbcast p d a) := engine_keepsForm _ _ _ _ _

theorem execXgath_keepsForm (p : Pfx) (d a : BitVec 4) : KeepsForm (execXgath p d a) := engine_keepsForm _ _ _ _ _

/-! ### Scalar floating point (07 R189 to R193) -/

theorem farith_keepsForm (i : Instr) (charge : Nat) (p : Pfx) (d a : BitVec 4) (f : FFmt → RM → Nat → Nat → Nat × FFlags) :
    KeepsForm (farith i charge p d a f) :=
  issue_keepsForm fun _ h => h

theorem farith1_keepsForm (i : Instr) (charge : Nat) (p : Pfx) (d a : BitVec 4) (f : FFmt → RM → Nat → Nat × FFlags) :
    KeepsForm (farith1 i charge p d a f) :=
  issue_keepsForm fun _ h => h

theorem execFadd_keepsForm (p : Pfx) (d a : BitVec 4) : KeepsForm (execFadd p d a) := farith_keepsForm _ _ _ _ _ _

theorem execFsub_keepsForm (p : Pfx) (d a : BitVec 4) : KeepsForm (execFsub p d a) := farith_keepsForm _ _ _ _ _ _

theorem execFmul_keepsForm (p : Pfx) (d a : BitVec 4) : KeepsForm (execFmul p d a) := farith_keepsForm _ _ _ _ _ _

theorem execFdiv_keepsForm (p : Pfx) (d a : BitVec 4) : KeepsForm (execFdiv p d a) := farith_keepsForm _ _ _ _ _ _

theorem execFsqrt_keepsForm (p : Pfx) (d a : BitVec 4) : KeepsForm (execFsqrt p d a) := farith1_keepsForm _ _ _ _ _ _

theorem execFma_keepsForm (p : Pfx) (d a : BitVec 4) : KeepsForm (execFma p d a) :=
  issue_keepsForm fun _ h => h

theorem execFmin_keepsForm (p : Pfx) (d a : BitVec 4) : KeepsForm (execFmin p d a) := by
  unfold execFmin
  exact farith_keepsForm _ _ _ _ _ _

theorem execFmax_keepsForm (p : Pfx) (d a : BitVec 4) : KeepsForm (execFmax p d a) := by
  unfold execFmax
  exact farith_keepsForm _ _ _ _ _ _

theorem execFabs_keepsForm (p : Pfx) (d a : BitVec 4) : KeepsForm (execFabs p d a) := by
  unfold execFabs
  exact farith1_keepsForm _ _ _ _ _ _

theorem execFneg_keepsForm (p : Pfx) (d a : BitVec 4) : KeepsForm (execFneg p d a) := by
  unfold execFneg
  exact farith1_keepsForm _ _ _ _ _ _

theorem execFcmp_keepsForm (p : Pfx) (d a : BitVec 4) (c : BitVec 2) : KeepsForm (execFcmp p d a c) := by
  refine issue_keepsForm (pushing_keepsForm _ _ fun u h => ?_)
  grind [pushRes_keepsForm, State.raise_mem, Res.keepsForm]

theorem execFcvt_keepsForm (p : Pfx) (d a : BitVec 4) (g : BitVec 3) : KeepsForm (execFcvt p d a g) :=
  issue_keepsForm fun _ h => h

theorem execFclass_keepsForm (p : Pfx) (d a : BitVec 4) : KeepsForm (execFclass p d a) :=
  issue_keepsForm fun _ h => h

theorem execFqnt_keepsForm (p : Pfx) (d a : BitVec 4) : KeepsForm (execFqnt p d a) :=
  issue_keepsForm fun _ h => h

/-! ### Fetching an instruction's words (03 R72, R73) -/

theorem State.fetchWord_keepsForm (s : State) (a : Word) (h : s.mem.wf = true) : (s.fetchWord a).keepsForm := by
  unfold State.fetchWord
  dsimp only
  split
  · exact h
  · split
    · exact State.meetLines_mem_wf s _ _ _ h
    all_goals trivial

theorem State.fetchMet_mem_wf (s : State) (a : Word) (h : s.mem.wf = true) : (s.fetchMet a).mem.wf = true := by
  unfold State.fetchMet
  grind [State.meetWalk_mem_wf]

theorem fetchFrom_keepsForm : ∀ (n : Nat) (a : Word) (ws : List Half) (s : State), s.mem.wf = true → (fetchFrom n a ws s).keepsForm
  | 0, _, _, _, h => h
  | n + 1, a, ws, s, h => by
    have hw := s.fetchWord_keepsForm a h
    unfold fetchFrom
    split
    · rename_i e
      rw [e] at hw
      split
      · exact hw
      · exact fetchFrom_keepsForm n _ _ _ hw
    · exact h
    · exact State.fetchMet_mem_wf s a h

theorem State.fetch_keepsForm (s : State) (h : s.mem.wf = true) : s.fetch.keepsForm := by
  unfold State.fetch
  grind [fetchFrom_keepsForm, Fetched.keepsForm]

/-! ### Heaps and routing counters (13 R333 to R335) -/

theorem withHeap_keepsForm (need : Need) (va : Word) (s : State) (k : Nat → State → Res) (h : s.mem.wf = true)
    (hk : ∀ y0 (u : State), u.mem.wf = true → (k y0 u).keepsForm) : (withHeap need va s k).keepsForm := by
  unfold withHeap
  grind [State.meetLines_mem_wf, accRes_keepsForm, Res.keepsForm]

theorem offer_mem_wf (s : State) (key : Nat) (o : Word) (h : s.mem.wf = true) : (offer s key o).2.mem.wf = true := by
  unfold offer
  grind [State.put64_mem_wf, State.putN_mem_wf]

theorem execHpoffer_keepsForm (p : Pfx) (d a : BitVec 4) : KeepsForm (execHpoffer p d a) := by
  refine issue_keepsForm (memory_keepsForm _ _ fun u h => ?_)
  grind [offer_mem_wf, withHeap_keepsForm, withRelease_keepsForm, State.ws_mem, withAcquire_mem, Res.keepsForm]

theorem wordPieces_keepsForm {s : State} {r : Res} : ∀ {va : Word} {l : List Word}, wordPieces s va l = .error r → r.keepsForm
  | _, [], he => by cases he
  | _, w :: ws, he => by
    unfold wordPieces at he
    repeat' (split at he)
    all_goals cases he
    · rename_i e
      exact State.storePiece_keepsForm e
    · rename_i e
      exact wordPieces_keepsForm e

theorem execHpread_keepsForm (p : Pfx) (d a : BitVec 4) : KeepsForm (execHpread p d a) := by
  refine issue_keepsForm (Shape.unissued_keepsForm fun u h => ?_)
  grind [Shape.unissued_keepsForm, State.touchPuts_mem_wf, State.write_mem_wf, withHeap_keepsForm, withRelease_keepsForm,
    wordPieces_keepsForm, State.raise_mem, State.ws_mem, withAcquire_mem, Res.keepsForm]

theorem withCounters_keepsForm (va : Word) (n : Nat) (s : State) (k : Nat → State → Res) (h : s.mem.wf = true)
    (hk : ∀ y0 (u : State), u.mem.wf = true → (k y0 u).keepsForm) : (withCounters va n s k).keepsForm := by
  unfold withCounters
  grind [State.meetLines_mem_wf, accRes_keepsForm, Res.keepsForm]

theorem execRcinc_keepsForm (p : Pfx) (d a : BitVec 4) : KeepsForm (execRcinc p d a) := by
  refine issue_keepsForm (memory_keepsForm _ _ fun u h => ?_)
  grind [State.putN_mem_wf, withCounters_keepsForm, withRelease_keepsForm, State.ws_mem, withAcquire_mem, Res.keepsForm]

theorem execRcsnap_keepsForm (p : Pfx) (d a : BitVec 4) : KeepsForm (execRcsnap p d a) := by
  refine issue_keepsForm (memory_keepsForm _ _ fun u h => ?_)
  grind [State.putN_mem_wf, State.touchPuts_mem_wf, State.write_mem_wf, withCounters_keepsForm, withRelease_keepsForm,
    wordPieces_keepsForm, State.raise_mem, withAcquire_mem, Res.keepsForm]

/-! ### Parked stage steps (10 R259, R260) -/

theorem State.asCtx_mem_wf (s : State) (c : BitVec 16) (n : BitVec 4) (f : State → State) (h : s.mem.wf = true)
    (hf : ∀ (u : State), u.mem.wf = true → (f u).mem.wf = true) : (s.asCtx c n f).mem.wf = true := by
  unfold State.asCtx
  grind

@[simp] theorem State.relocateParked_mem (s : State) (asid : BitVec 12) : (s.relocateParked asid).mem = s.mem := by
  unfold State.relocateParked
  grind [State.setCtxAt_mem, State.setTag_mem, foldl_mem]

@[simp] theorem State.reply_mem (s : State) (a : Answer) : (s.reply a).mem = s.mem := rfl

theorem State.stageDone_mem_wf (s : State) (q : Parked) (v : Option Word) (order : BitVec 2) (h : s.mem.wf = true) :
    (s.stageDone q v order).mem.wf = true := by
  unfold State.stageDone
  grind [State.asCtx_mem_wf, State.requeue_mem_wf, State.setF64_mem_wf, State.acquire_mem, State.addPc_mem, State.reply_mem,
    State.setTag_mem, State.settle_mem, State.ws_mem]

theorem State.stageFault_mem_wf (s : State) (q : Parked) (g st : Nat) (h : s.mem.wf = true) :
    (s.stageFault q g st).mem.wf = true := by
  unfold State.stageFault
  grind [State.asCtx_mem_wf, State.requeue_mem_wf, State.setF64_mem_wf, State.trapBack_mem_wf, State.reply_mem, State.setTag_mem]

theorem State.stepLost_mem_wf (s : State) (q : Parked) (va : Word) (h : s.mem.wf = true) : (s.stepLost q va).mem.wf = true := by
  unfold State.stepLost
  grind [State.asCtx_mem_wf, State.requeue_mem_wf, State.setF64_mem_wf, State.trapBack_mem_wf, State.reply_mem, State.setTag_mem]

theorem State.retryParked_mem_wf (s : State) (i : Nat) (h : s.mem.wf = true) : (s.retryParked i).mem.wf = true := by
  unfold State.retryParked
  grind [State.stageDone_mem_wf, State.stageFault_mem_wf, State.stepLost_mem_wf, stageRun_keepsForm, StageOut.keepsForm]

theorem execParkedStepRetry_keepsForm : KeepsForm execParkedStepRetry := by
  intro s t h he
  unfold execParkedStepRetry at he
  grind [State.retryParked_mem_wf]

theorem execLongParkConversion_keepsForm : KeepsForm execLongParkConversion := by
  intro s t h he
  unfold execLongParkConversion at he
  grind [State.saveRecord_mem_wf, State.freeSlot_mem]

/-! ### Images and answers to page faults (14 R345 to R352) -/

@[simp] theorem State.refreshTag_mem (s : State) (c k : Nat) : (s.refreshTag c k).mem = s.mem := by
  unfold State.refreshTag
  grind [State.setTag_mem, State.shelve_mem]

@[simp] theorem State.withdrawStep_mem (s : State) (c k : Nat) : (s.withdrawStep c k).mem = s.mem := by
  unfold State.withdrawStep
  grind [State.setTag_mem]

@[simp] theorem State.recall_mem (s : State) (c k num : Nat) : (s.recall c k num).mem = s.mem := by
  unfold State.recall
  grind [State.refreshTag_mem, State.setTag_mem, State.withdrawStep_mem]

@[simp] theorem State.setCellDw_mem (s : State) (c k : Nat) (w : Word) : (s.setCellDw c k w).mem = s.mem := by
  refine mem_ite rfl (mem_ite rfl (mem_ite rfl (mem_ite rfl (mem_ite rfl (mem_ite rfl (mem_ite rfl (mem_ite rfl (mem_ite ?tag
    (mem_ite rfl (mem_ite rfl rfl))))))))))
  case tag => exact (State.setTag_mem _ c _ _).trans (mem_ite (s.refreshTag_mem c _) (mem_ite (s.recall_mem c _ _) rfl))

@[simp] theorem State.keepHeld_mem (s : State) (c : Nat) : (s.keepHeld c).mem = s.mem := by
  unfold State.keepHeld
  grind [State.withdrawStep_mem, foldl_mem]

@[simp] theorem State.keepWtt_mem (s : State) (t : Nat) : (s.keepWtt t).mem = s.mem := rfl

@[simp] theorem State.setTileDw_mem (s : State) (t k : Nat) (v : Word) : (s.setTileDw t k v).mem = s.mem := by
  unfold State.setTileDw
  grind [State.changeSpace_mem, State.chordWrite_mem, State.setCell_mem, State.setTile_mem]

@[simp] theorem State.newPool_mem (s : State) (t : Nat) : (s.newPool t).mem = s.mem := rfl

@[simp] theorem State.loadCell_mem (c : Nat) : ∀ (k : Nat) (ws : List Word) (s : State), (State.loadCell c k ws s).mem = s.mem
  | _, [], _ => rfl
  | k, w :: ws, s => (State.loadCell_mem c (k + 1) ws _).trans (s.setCellDw_mem c k w)

@[simp] theorem State.loadTile_mem (t : Nat) : ∀ (k : Nat) (ws : List Word) (s : State), (State.loadTile t k ws s).mem = s.mem
  | _, [], _ => rfl
  | k, w :: ws, s => (State.loadTile_mem t (k + 1) ws _).trans (s.setTileDw_mem t k w)

@[simp] theorem State.clearTile_mem (s : State) (t : Nat) : (s.clearTile t).mem = s.mem := by
  unfold State.clearTile
  grind [State.setCell_mem, State.setTile_mem, foldl_mem]

theorem State.refuseCtx_mem_wf (s : State) (c k : Nat) (va : Word) (kind : AccKind) (h : s.mem.wf = true) :
    (s.refuseCtx c k va kind).mem.wf = true := by
  unfold State.refuseCtx
  grind [State.asCtx_mem_wf, State.trapBack_mem_wf]

theorem State.refuseStream_mem_wf (s : State) (c k : Nat) (h : s.mem.wf = true) : (s.refuseStream c k).mem.wf = true := by
  unfold State.refuseStream
  grind [State.asCtx_mem_wf, State.streamErr_mem]

theorem State.putImage_mem_wf (s : State) (t : Nat) (keys : List Nat) (x : Ctx) (h : s.mem.wf = true) :
    (s.putImage t keys x).mem.wf = true := by
  unfold State.putImage
  grind [State.perform_mem_wf]

theorem State.meetImage_mem_wf (s : State) (t : Nat) (f : Word) (keys : List Nat) (h : s.mem.wf = true) :
    (s.meetImage t f keys).mem.wf = true := by
  unfold State.meetImage
  grind [State.meetLines_mem_wf, State.meetPath_mem_wf, foldl_mem_wf]

theorem State.switchOut_mem_wf (s : State) (c k : Nat) (id : BitVec 32) (va : Word) (kind : AccKind) (h : s.mem.wf = true) :
    (s.switchOut c k id va kind).mem.wf = true := by
  unfold State.switchOut
  grind [State.putImage_mem_wf, State.setF_mem_wf, State.freeSlot_mem, State.parkImage_mem]

@[simp] theorem State.mapAway_mem (s : State) (f : Away → Away) : (s.mapAway f).mem = s.mem := rfl

@[simp] theorem State.wakeStream_mem (s : State) (n : Nat) (id : BitVec 32) : (s.wakeStream n id).mem = s.mem := by
  unfold State.wakeStream
  split <;> rfl

@[simp] theorem State.wakeCmd_mem (s : State) (n : Nat) (id : BitVec 32) : (s.wakeCmd n id).mem = s.mem := by
  unfold State.wakeCmd
  split <;> rfl

theorem State.answer_mem_wf (s : State) (n : Nat) (id : BitVec 32) (code : BitVec 2) (h : s.mem.wf = true) :
    (s.answer n id code).mem.wf = true := by
  unfold State.answer
  grind [State.consume_mem_wf, State.engineRefuse_mem_wf, State.refuseCtx_mem_wf, State.refuseStream_mem_wf, State.switchOut_mem_wf,
    State.mapAway_mem, State.setCtxAt_mem, State.wakeCmd_mem, State.wakeStream_mem]

theorem execAnswerRetry_keepsForm (span : BitVec 4) (id : BitVec 32) : KeepsForm (execAnswerRetry span id) := by
  intro s t h he
  unfold execAnswerRetry at he
  grind [State.answer_mem_wf]

theorem execAnswerRefuse_keepsForm (span : BitVec 4) (id : BitVec 32) : KeepsForm (execAnswerRefuse span id) := by
  intro s t h he
  unfold execAnswerRefuse at he
  grind [State.answer_mem_wf]

theorem execAnswerLongService_keepsForm (span : BitVec 4) (id : BitVec 32) : KeepsForm (execAnswerLongService span id) := by
  intro s t h he
  unfold execAnswerLongService at he
  grind [State.answer_mem_wf]

theorem execSwitchInRestore_keepsForm : KeepsForm execSwitchInRestore := by
  intro s t h he
  unfold execSwitchInRestore at he
  grind [State.meetFrame_mem_wf, State.meetImage_mem_wf, State.refuseCtx_mem_wf, State.setF_mem_wf, State.beginAt_mem,
    State.setLive_mem]

/-! ### Page 7 (14 R343 to R359) -/

theorem kernelOp_keepsForm {body : State → Res} (hb : ∀ u : State, u.mem.wf = true → (body u).keepsForm) :
    (kernelOp body).keepsForm :=
  hb

theorem execSysc_keepsForm (p : Pfx) (n : BitVec 8) : KeepsForm (execSysc p n) :=
  issue_keepsForm fun _ h => h

theorem execTret_keepsForm (p : Pfx) (d a : BitVec 4) : KeepsForm (execTret p d a) := by
  refine issue_keepsForm (kernelOp_keepsForm fun u h => ?_)
  grind [State.setCtx_mem, Res.keepsForm]

theorem State.stateWrite_mem_wf (s : State) (by_ : BitVec 2) (a v : Word) {w : State} (h : s.mem.wf = true)
    (he : s.stateWrite by_ a v = some w) : w.mem.wf = true := by
  unfold State.stateWrite at he
  grind [State.answer_mem_wf, State.enterSpace_mem_wf, State.flushIngress_mem_wf, State.chordWrite_mem, State.newPool_mem,
    State.setCell_mem, State.setCellDw_mem, State.setCtxAt_mem, State.setMtu_mem, State.setTile_mem, State.setTileDw_mem]

theorem execRegrd_keepsForm (p : Pfx) (d a : BitVec 4) : KeepsForm (execRegrd p d a) := by
  refine issue_keepsForm (kernelOp_keepsForm fun u h => ?_)
  grind [State.meetArrays_mem_wf, State.ws_mem, Res.keepsForm]

theorem execCtxldReg_keepsForm (p : Pfx) (a : BitVec 4) : KeepsForm (execCtxldReg p a) := by
  refine issue_keepsForm (kernelOp_keepsForm fun u h => ?_)
  grind [State.stateWrite_mem_wf, Res.keepsForm]

theorem readLines_keepsForm {s : State} {va : Word} {r : Res} : ∀ {k : Nat}, readLines s va k = .error r → r.keepsForm
  | 0, he => by cases he
  | k + 1, he => by
    unfold readLines at he
    repeat' (split at he)
    all_goals cases he
    · rename_i e
      exact readLines_keepsForm e
    · rename_i e
      exact State.readPiece_keepsForm e

theorem storeLines_keepsForm {s : State} {r : Res} :
    ∀ {va : Word} {k : Nat} {l : List Word}, storeLines s va k l = .error r → r.keepsForm
  | _, 0, _, he => by cases he
  | _, k + 1, _, he => by
    unfold storeLines at he
    repeat' (split at he)
    all_goals cases he
    · rename_i e
      exact State.storePiece_keepsForm e
    · rename_i e
      exact storeLines_keepsForm e

theorem saveImage_keepsForm (p : Pfx) (va : Word) (ws : List Word) (s : State) (k : State → State) (h : s.mem.wf = true)
    (hk : ∀ (u : State), u.mem.wf = true → (k u).mem.wf = true) : (saveImage p va ws s k).keepsForm := by
  unfold saveImage
  grind [State.touchPuts_mem_wf, State.write_mem_wf, storeLines_keepsForm, withRelease_keepsForm, State.raise_mem, withAcquire_mem,
    Res.keepsForm]

theorem loadImageAt_keepsForm (p : Pfx) (va : Word) (n : Nat) (s : State) (k : State → List Word → Res) (h : s.mem.wf = true)
    (hk : ∀ (u : State) y1, u.mem.wf = true → (k u y1).keepsForm) : (loadImageAt p va n s k).keepsForm := by
  unfold loadImageAt
  grind [State.touchAll_mem_wf, readLines_keepsForm, withRelease_keepsForm, withAcquire_mem, Res.keepsForm]

theorem imageForm_keepsForm (p : Pfx) (a : BitVec 4) (slot : Bool) (s : State) (k : Res) (hk : k.keepsForm) :
    (imageForm p a slot s k).keepsForm := by
  unfold imageForm
  grind [Res.keepsForm]

@[simp] theorem State.drainQueue_mem (s : State) (c n : Nat) : (s.drainQueue c n).mem = s.mem := by
  unfold State.drainQueue
  grind [State.formAt_mem, State.setCell_mem, foldl_mem]

theorem execCtxsvCtx_keepsForm (p : Pfx) (a : BitVec 4) : KeepsForm (execCtxsvCtx p a) := by
  refine issue_keepsForm (kernelOp_keepsForm fun u h => ?_)
  grind [imageForm_keepsForm, saveImage_keepsForm, State.drainQueue_mem, State.freeSlot_mem, Res.keepsForm]

theorem execCtxsvCell_keepsForm (p : Pfx) (a : BitVec 4) : KeepsForm (execCtxsvCell p a) := by
  refine issue_keepsForm (kernelOp_keepsForm fun u h => ?_)
  grind [State.meetArrays_mem_wf, imageForm_keepsForm, saveImage_keepsForm, State.keepHeld_mem, Res.keepsForm]

theorem execCtxsvTile_keepsForm (p : Pfx) (a : BitVec 4) : KeepsForm (execCtxsvTile p a) := by
  refine issue_keepsForm (kernelOp_keepsForm fun u h => ?_)
  grind [State.meetArrays_mem_wf, imageForm_keepsForm, saveImage_keepsForm, State.keepWtt_mem, Res.keepsForm]

theorem State.bindIdent_mem_wf (s : State) (c : Nat) (ws : List Word) {r0 : Word} {w : State} (h : s.mem.wf = true)
    (he : s.bindIdent c ws = some (r0, w)) : w.mem.wf = true := by
  unfold State.bindIdent at he
  grind [State.initFrame_mem_wf, State.setTile_mem]

theorem execCtxldCtx_keepsForm (p : Pfx) (a : BitVec 4) : KeepsForm (execCtxldCtx p a) := by
  refine issue_keepsForm (kernelOp_keepsForm fun u h => ?_)
  grind [State.bindIdent_mem_wf, imageForm_keepsForm, loadImageAt_keepsForm, State.beginAt_mem, State.setLive_mem, Res.keepsForm]

theorem execCtxldCell_keepsForm (p : Pfx) (a : BitVec 4) : KeepsForm (execCtxldCell p a) :=
  issue_keepsForm fun u h => imageForm_keepsForm _ _ _ u _
    (loadImageAt_keepsForm _ _ _ u _ h fun v ws hv => mem_wf_of_eq (State.loadCell_mem _ _ ws v) hv)

theorem State.installTile_mem_wf (s : State) (t : Nat) (ws : List Word) (h : s.mem.wf = true) :
    (s.installTile t ws).mem.wf = true := by
  unfold State.installTile
  grind [State.flushIngress_mem_wf, State.replay_mem_wf, State.clearTile_mem, State.loadTile_mem, State.setTile_mem]

theorem execCtxldTile_keepsForm (p : Pfx) (a : BitVec 4) : KeepsForm (execCtxldTile p a) := by
  refine issue_keepsForm (kernelOp_keepsForm fun u h => ?_)
  grind [State.installTile_mem_wf, imageForm_keepsForm, loadImageAt_keepsForm, Res.keepsForm]

theorem await_keepsForm (s : State) (h : s.mem.wf = true) : (await s).keepsForm := h

theorem State.preempt_mem_wf (s : State) (c n : Nat) (disp : BitVec 2) (h : s.mem.wf = true) :
    (s.preempt c n disp).mem.wf = true := by
  unfold State.preempt
  grind [State.asCtx_mem_wf, State.beginYield_mem_wf, State.setCtxAt_mem]

theorem execPmreqCtx_keepsForm (p : Pfx) (a : BitVec 4) : KeepsForm (execPmreqCtx p a) := by
  refine issue_keepsForm (kernelOp_keepsForm fun u h => ?_)
  grind [State.preempt_mem_wf, await_keepsForm, Res.keepsForm]

@[simp] theorem State.stopTile_mem (s : State) (t : Nat) : (s.stopTile t).mem = s.mem := by
  unfold State.stopTile
  grind [State.setTile_mem]

@[simp] theorem State.meetTile_mem (s : State) (t : Nat) : (s.meetTile t).mem = s.mem := by
  unfold State.meetTile
  grind [State.meetWait_mem, foldl_mem]

theorem State.goTile_mem_wf (s : State) (t : Nat) (h : s.mem.wf = true) : (s.goTile t).mem.wf = true := by
  unfold State.goTile
  grind [State.flushIngress_mem_wf, State.replay_mem_wf, foldl_mem_wf, State.acquireAt_mem, State.meetTile_mem,
    State.rejudgeTile_mem, State.setTile_mem, foldl_mem]

theorem execPmreqStop_keepsForm (p : Pfx) (a : BitVec 4) : KeepsForm (execPmreqStop p a) := by
  refine issue_keepsForm (kernelOp_keepsForm fun u h => ?_)
  grind [await_keepsForm, State.acquire_mem, State.stopTile_mem, Res.keepsForm]

theorem execPmreqGo_keepsForm (p : Pfx) (a : BitVec 4) : KeepsForm (execPmreqGo p a) := by
  refine issue_keepsForm (kernelOp_keepsForm fun u h => ?_)
  grind [State.goTile_mem_wf, Res.keepsForm]

theorem execPmreqFrame_keepsForm (p : Pfx) (a : BitVec 4) : KeepsForm (execPmreqFrame p a) := by
  refine issue_keepsForm (kernelOp_keepsForm fun u h => ?_)
  grind [State.meetFrame_mem_wf, State.setF_mem_wf, State.enqueueRq_mem, Res.keepsForm]

theorem haltLines_keepsForm {s : State} {base : Word} {r : Res} : ∀ {l : List Nat}, haltLines s base l = .error r → r.keepsForm
  | [], he => by cases he
  | c :: cs, he => by
    unfold haltLines at he
    repeat' (split at he)
    all_goals cases he
    · rename_i e
      exact storeLines_keepsForm e
    · rename_i e
      exact haltLines_keepsForm e

theorem execGangstopStop_keepsForm (p : Pfx) (a : BitVec 4) : KeepsForm (execGangstopStop p a) := by
  refine issue_keepsForm (kernelOp_keepsForm fun u h => ?_)
  grind [State.write_mem_wf, await_keepsForm, foldl_mem_wf, haltLines_keepsForm, State.acquire_mem, State.raise_mem,
    State.stopTile_mem, Res.keepsForm]

theorem execGangstopRestart_keepsForm (p : Pfx) (a : BitVec 4) : KeepsForm (execGangstopRestart p a) := by
  refine issue_keepsForm (kernelOp_keepsForm fun u h => ?_)
  grind [State.goTile_mem_wf, foldl_mem_wf, Res.keepsForm]

theorem performFirst_mem_wf : ∀ (k : Nat) (s : State), s.mem.wf = true → (performFirst k s).mem.wf = true
  | 0, _, h => h
  | k + 1, s, h => performFirst_mem_wf k _ (s.completeAt_mem_wf 0 h)

theorem performPushed_mem_wf (j : Nat) : ∀ (k : Nat) (s : State), s.mem.wf = true → (performPushed j k s).mem.wf = true
  | 0, _, h => h
  | k + 1, s, h => by
    unfold performPushed
    repeat' split
    all_goals first
      | exact h
      | exact performPushed_mem_wf j k _ (State.writeUnit_mem_wf _ _ _ _ _ h)

theorem State.flushPushed_mem_wf (s : State) (c : Nat) (h : s.mem.wf = true) : (s.flushPushed c).mem.wf = true := by
  unfold State.flushPushed
  grind [State.asCtx_mem_wf, foldl_mem_wf, performPushed_mem_wf]

theorem State.flushCell_mem_wf (s : State) (c : Nat) (h : s.mem.wf = true) : (s.flushCell c).mem.wf = true := by
  unfold State.flushCell
  grind [State.asCtx_mem_wf, State.flushPushed_mem_wf, foldl_mem_wf, performFirst_mem_wf, foldl_mem]

theorem State.invalidate_mem_wf (s : State) (asid : BitVec 12) (lo hi : Nat) (h : s.mem.wf = true) :
    (s.invalidate asid lo hi).mem.wf = true := by
  unfold State.invalidate
  grind [State.flushCell_mem_wf, foldl_mem_wf, State.relocateParked_mem]

theorem execTlbinv_keepsForm (p : Pfx) (d a : BitVec 4) : KeepsForm (execTlbinv p d a) := by
  refine issue_keepsForm (kernelOp_keepsForm fun u h => ?_)
  grind [State.invalidate_mem_wf, Res.keepsForm]

/-! ### The service kernel (14 R344, R400) -/

theorem State.meetUser_mem_wf (s : State) (t : Nat) (va : Word) (n : Nat) (h : s.mem.wf = true) :
    (s.meetUser t va n).mem.wf = true := by
  unfold State.meetUser
  grind [State.meetLines_mem_wf, State.meetPath_mem_wf, foldl_mem_wf]

theorem State.clearGrans_mem_wf {s : State} (h : s.mem.wf = true) {t : Nat} {D : Desc} :
    ∀ {n : Nat} {w : State}, s.clearGrans t D n = some w → w.mem.wf = true
  | 0, _, he => by
    cases he
    exact h
  | n + 1, _, he => by
    unfold State.clearGrans at he
    split at he
    · cases he
    · rename_i e
      have hu := State.clearGrans_mem_wf h e
      split at he
      · cases he
        exact State.setGran_mem_wf _ _ _ _ (State.meetGran_mem_wf _ _ _ (State.meetPath_mem_wf _ _ _ _ hu))
      · cases he

theorem State.callInstall_mem_wf (s : State) (t idx : Nat) (va : Word) (h : s.mem.wf = true) :
    (s.callInstall t idx va).2.mem.wf = true := by
  unfold State.callInstall
  grind [State.clearGrans_mem_wf, State.meetUser_mem_wf]

@[simp] theorem State.callRemove_mem (s : State) (t idx : Nat) : (s.callRemove t idx).2.mem = s.mem := by
  unfold State.callRemove
  split <;> rfl

@[simp] theorem State.dropFates_mem (s : State) (asid : BitVec 12) (g : BitVec 8) : (s.dropFates asid g).mem = s.mem := by
  unfold State.dropFates
  split <;> rfl

theorem State.callGroup_mem_wf (s : State) (t idx : Nat) (va : Word) (h : s.mem.wf = true) :
    (s.callGroup t idx va).2.mem.wf = true := by
  unfold State.callGroup
  grind [State.meetUser_mem_wf, State.dropFates_mem]

@[simp] theorem State.callUngroup_mem (s : State) (t idx : Nat) : (s.callUngroup t idx).2.mem = s.mem := by
  unfold State.callUngroup
  grind [State.dropFates_mem]

theorem State.syscall_mem_wf (s : State) (n : Word) (h : s.mem.wf = true) : (s.syscall n).2.mem.wf = true := by
  unfold State.syscall
  grind [State.callGroup_mem_wf, State.callInstall_mem_wf, State.callRemove_mem, State.callUngroup_mem]

theorem State.service_mem_wf (s : State) (h : s.mem.wf = true) : s.service.mem.wf = true := by
  unfold State.service
  grind [State.endTask_mem_wf, State.syscall_mem_wf, State.takeTrap_mem_wf, State.setCtx_mem, State.ws_mem]

/-! ### The host port, links and the pool (chapter 15, 11 R277) -/

@[simp] theorem State.setHost_mem (s : State) (h : HostIf) : (s.setHost h).mem = s.mem := rfl

@[simp] theorem State.setQueue_mem (s : State) (q : Nat) (x : Queue) : (s.setQueue q x).mem = s.mem := rfl

@[simp] theorem State.writeWptr_mem (s : State) (q : Nat) (v : BitVec 32) : (s.writeWptr q v).mem = s.mem := rfl

@[simp] theorem State.writeQsize_mem (s : State) (q : Nat) (v : BitVec 5) : (s.writeQsize q v).mem = s.mem := by
  unfold State.writeQsize
  grind [State.setQueue_mem]

theorem State.writeMdata_mem_wf (s : State) (v : Word) (h : s.mem.wf = true) : (s.writeMdata v).mem.wf = true := by
  unfold State.writeMdata
  dsimp only
  split
  · exact h
  · split
    · exact h
    · have hf : ∀ u : State, u.mem.wf = true → ((u.stateWrite 1#2 s.host.maddr v).getD u).mem.wf = true := by
        intro u hu
        cases e : u.stateWrite 1#2 s.host.maddr v with
        | none => exact hu
        | some w => exact State.stateWrite_mem_wf u _ _ _ hu e
      split
      · exact hf _ (foldl_mem_wf _ (fun u i hu => u.flushPushed_mem_wf _ hu) _ _ h)
      · exact hf _ h

@[simp] theorem State.writeAnonce_mem (s : State) (n : BitVec 256) : (s.writeAnonce n).mem = s.mem := rfl

@[simp] theorem State.writePstate_mem (s : State) (v : Nat) : (s.writePstate v).mem = s.mem := by
  unfold State.writePstate
  grind [State.setHost_mem, State.setQueue_mem]

theorem State.barWrite_mem_wf (s : State) (off : Nat) (v : Word) (h : s.mem.wf = true) : (s.barWrite off v).mem.wf = true := by
  unfold State.barWrite
  dsimp only
  split
  · split
    · split <;> exact h
    · exact mem_wf_of_eq (s.writeQsize_mem _ _) h
    · exact h
    · split <;> exact h
    · exact h
  · split
    · exact h
    · split
      · exact s.writeMdata_mem_wf v h
      · split
        · exact mem_wf_of_eq (s.writePstate_mem _) h
        · split <;> exact h

theorem execWptrWrite_keepsForm (q : BitVec 3) (v : BitVec 32) : KeepsForm (execWptrWrite q v) := by
  intro s t h he
  unfold execWptrWrite at he
  grind [State.writeWptr_mem]

theorem execQsizeWrite_keepsForm (q : BitVec 3) (v : BitVec 5) : KeepsForm (execQsizeWrite q v) := by
  intro s t h he
  unfold execQsizeWrite at he
  grind [State.writeQsize_mem]

theorem execHostRegisterWrite_keepsForm (off : BitVec 16) (v : BitVec 64) : KeepsForm (execHostRegisterWrite off v) := by
  intro s t h he
  cases he
  split
  · exact s.barWrite_mem_wf _ _ h
  · exact h

theorem execMdataWrite_keepsForm (v : BitVec 64) : KeepsForm (execMdataWrite v) := by
  intro s t h he
  cases he
  split
  · exact s.writeMdata_mem_wf _ h
  · exact h

theorem execAnonceWrite_keepsForm (nonce : BitVec 256) : KeepsForm (execAnonceWrite nonce) := by
  intro s t h he
  unfold execAnonceWrite at he
  grind [State.writeAnonce_mem]

theorem execPstateFull_keepsForm : KeepsForm execPstateFull := by
  intro s t h he
  unfold execPstateFull at he
  grind [State.writePstate_mem]

theorem execPstatePartitionOff_keepsForm : KeepsForm execPstatePartitionOff := by
  intro s t h he
  unfold execPstatePartitionOff at he
  grind [State.writePstate_mem]

theorem execPstateIdle_keepsForm : KeepsForm execPstateIdle := by
  intro s t h he
  unfold execPstateIdle at he
  grind [State.writePstate_mem]

@[simp] theorem State.bar2Write_mem (s : State) (off : Nat) (bytes : List Byte) : (s.bar2Write off bytes).mem = s.mem := by
  unfold State.bar2Write
  grind [State.setHost_mem]

theorem State.meetHome_mem_wf (s : State) (pa n : Nat) (h : s.mem.wf = true) : (s.meetHome pa n).mem.wf = true := by
  unfold State.meetHome
  grind [State.meetLines_mem_wf]

theorem execHostMemoryAccess_keepsForm (a : HostAcc) : KeepsForm (execHostMemoryAccess a) := by
  intro s t h he
  unfold execHostMemoryAccess at he
  grind [State.meetHome_mem_wf, State.perform_mem_wf, State.bar2Write_mem]

@[simp] theorem State.stopQueue_mem (s : State) (q code : Nat) : (s.stopQueue q code).mem = s.mem := rfl

theorem takeEntry_keepsForm (kind : Nat) (f : Nat → State → State) (hf : ∀ y0 (u : State), u.mem.wf = true → (f y0 u).mem.wf = true)
    : KeepsForm (takeEntry kind f) := by
  intro s t h he
  unfold takeEntry at he
  grind [State.meetHome_mem_wf, State.stopQueue_mem]

theorem execCmdNoop_keepsForm : KeepsForm execCmdNoop := takeEntry_keepsForm _ _ fun _ _ h => h

@[simp] theorem State.launchSpace_mem (s : State) (a : BitVec 12) : (s.launchSpace a).mem = s.mem := by
  unfold State.launchSpace
  split <;> rfl

theorem execCmdLaunch_keepsForm : KeepsForm execCmdLaunch := by
  refine takeEntry_keepsForm _ _ fun q u h => ?_
  dsimp only
  split
  · exact h
  · split
    · split
      · exact h
      · exact mem_wf_of_eq (State.launchSpace_mem _ _) (State.meetLines_mem_wf _ _ _ _ (u.meetPath_mem_wf _ _ _ h))
    · exact h

theorem State.flushSpace_mem_wf (s : State) (asid : BitVec 12) (h : s.mem.wf = true) : (s.flushSpace asid).mem.wf = true := by
  unfold State.flushSpace
  grind [State.flushCell_mem_wf, foldl_mem_wf]

theorem execLaunchEnd_keepsForm : KeepsForm execLaunchEnd := by
  intro s t h he
  unfold execLaunchEnd at he
  grind [State.flushSpace_mem_wf, State.setQueue_mem]

theorem execCmdSignal_keepsForm : KeepsForm execCmdSignal := by
  refine takeEntry_keepsForm _ _ fun q u h => ?_
  dsimp only
  split <;> exact h

theorem execCmdWait_keepsForm : KeepsForm execCmdWait := by
  refine takeEntry_keepsForm _ _ fun q u h => ?_
  split <;> exact h

theorem State.bootReset_mem_wf (s : State) : s.bootReset.mem.wf = true := by
  rw [s.bootReset_mem]
  rfl

theorem execModuleReset_keepsForm : KeepsForm execModuleReset := by
  intro s t _ he
  cases he
  exact s.bootReset_mem_wf

theorem execRecoveryGo_keepsForm : KeepsForm execRecoveryGo := by
  intro s t h he
  unfold execRecoveryGo at he
  dsimp only at he
  split at he
  · cases he
    exact h
  · cases he
    exact State.bootReset_mem_wf _

theorem execPowerLoss_keepsForm (writing : Bool) : KeepsForm (execPowerLoss writing) := by
  intro s t h he
  unfold execPowerLoss at he
  grind [State.setHost_mem]

theorem execAttestationReportReady_keepsForm : KeepsForm execAttestationReportReady := by
  intro s t h he
  unfold execAttestationReportReady at he
  grind [State.setHost_mem]

theorem execLinkCrcResend_keepsForm (link : BitVec 6) (again : Bool) (lost : List (BitVec 10)) :
    KeepsForm (execLinkCrcResend link again lost) := by
  intro s t h he
  unfold execLinkCrcResend at he
  grind [State.sendFault_mem_wf, State.tryInst_mem_wf, foldl_mem_wf, State.logError_mem]

theorem execModuleBecomesReachable_keepsForm (m : BitVec 10) : KeepsForm (execModuleBecomesReachable m) := by
  intro s t h he
  unfold execModuleBecomesReachable at he
  grind

theorem execPoolBackInvalidate_keepsForm (line : BitVec 50) (bytes : BitVec 512) :
    KeepsForm (execPoolBackInvalidate line bytes) := by
  intro s t h he
  unfold execPoolBackInvalidate at he
  grind [State.perform_mem_wf]

theorem State.remoteStage_mem_wf (s : State) (word : Nat) (k : BitVec 4) (col : List Byte) (op : StageOp) (pa : Option Nat)
    (ty : BitVec 4) (v : Word) (h : s.mem.wf = true) : (s.remoteStage word k col op pa ty v).mem.wf = true := by
  unfold State.remoteStage
  grind [State.stageDone_mem_wf, State.stageFault_mem_wf, stageRun_keepsForm, StageOut.keepsForm]

theorem State.arrive_mem_wf (s : State) (a c : Nat) (o : Out) (h : s.mem.wf = true) : (s.arrive a c o).mem.wf = true := by
  unfold State.arrive
  grind [State.deliver_mem_wf, State.flushIngress_mem_wf]

theorem execRemoteRequestArrival_keepsForm (q : RemoteReq) : KeepsForm (execRemoteRequestArrival q) := by
  intro s t h he
  unfold execRemoteRequestArrival at he
  grind [State.arrive_mem_wf, State.meetHome_mem_wf, State.perform_mem_wf, State.putN_mem_wf, State.remoteStage_mem_wf,
    State.reply_mem]

/-! ### The scalar page (04 R87 to R107) -/

theorem alu_keepsForm (i : Instr) (charge : Nat) (p : Pfx) (d a : BitVec 4) (f : Word → Word → Word) :
    KeepsForm (alu i charge p d a f) :=
  issue_keepsForm fun _ h => h

theorem alu1_keepsForm (i : Instr) (p : Pfx) (d a : BitVec 4) (f : Word → Word) : KeepsForm (alu1 i p d a f) :=
  issue_keepsForm fun _ h => h

theorem execAdd_keepsForm (p : Pfx) (d a : BitVec 4) : KeepsForm (execAdd p d a) := alu_keepsForm _ _ _ _ _ _

theorem execSub_keepsForm (p : Pfx) (d a : BitVec 4) : KeepsForm (execSub p d a) := alu_keepsForm _ _ _ _ _ _

theorem execAnd_keepsForm (p : Pfx) (d a : BitVec 4) : KeepsForm (execAnd p d a) := alu_keepsForm _ _ _ _ _ _

theorem execOr_keepsForm (p : Pfx) (d a : BitVec 4) : KeepsForm (execOr p d a) := alu_keepsForm _ _ _ _ _ _

theorem execXor_keepsForm (p : Pfx) (d a : BitVec 4) : KeepsForm (execXor p d a) := alu_keepsForm _ _ _ _ _ _

theorem execSll_keepsForm (p : Pfx) (d a : BitVec 4) : KeepsForm (execSll p d a) := alu_keepsForm _ _ _ _ _ _

theorem execSrl_keepsForm (p : Pfx) (d a : BitVec 4) : KeepsForm (execSrl p d a) := alu_keepsForm _ _ _ _ _ _

theorem execSra_keepsForm (p : Pfx) (d a : BitVec 4) : KeepsForm (execSra p d a) := alu_keepsForm _ _ _ _ _ _

theorem execMul_keepsForm (p : Pfx) (d a : BitVec 4) : KeepsForm (execMul p d a) := alu_keepsForm _ _ _ _ _ _

theorem execMulh_keepsForm (p : Pfx) (d a : BitVec 4) : KeepsForm (execMulh p d a) := alu_keepsForm _ _ _ _ _ _

theorem execMulhu_keepsForm (p : Pfx) (d a : BitVec 4) : KeepsForm (execMulhu p d a) := alu_keepsForm _ _ _ _ _ _

theorem execMin_keepsForm (p : Pfx) (d a : BitVec 4) : KeepsForm (execMin p d a) := alu_keepsForm _ _ _ _ _ _

theorem execMax_keepsForm (p : Pfx) (d a : BitVec 4) : KeepsForm (execMax p d a) := alu_keepsForm _ _ _ _ _ _

theorem execMinu_keepsForm (p : Pfx) (d a : BitVec 4) : KeepsForm (execMinu p d a) := alu_keepsForm _ _ _ _ _ _

theorem execMaxu_keepsForm (p : Pfx) (d a : BitVec 4) : KeepsForm (execMaxu p d a) := alu_keepsForm _ _ _ _ _ _

theorem execMov_keepsForm (p : Pfx) (d a : BitVec 4) : KeepsForm (execMov p d a) := alu1_keepsForm _ _ _ _ _

theorem execDiv_keepsForm (p : Pfx) (d a : BitVec 4) : KeepsForm (execDiv p d a) := alu_keepsForm _ _ _ _ _ _

theorem execDivu_keepsForm (p : Pfx) (d a : BitVec 4) : KeepsForm (execDivu p d a) := alu_keepsForm _ _ _ _ _ _

theorem execRem_keepsForm (p : Pfx) (d a : BitVec 4) : KeepsForm (execRem p d a) := alu_keepsForm _ _ _ _ _ _

theorem execRemu_keepsForm (p : Pfx) (d a : BitVec 4) : KeepsForm (execRemu p d a) := alu_keepsForm _ _ _ _ _ _

theorem execClz_keepsForm (p : Pfx) (d a : BitVec 4) : KeepsForm (execClz p d a) := alu1_keepsForm _ _ _ _ _

theorem execCtz_keepsForm (p : Pfx) (d a : BitVec 4) : KeepsForm (execCtz p d a) := alu1_keepsForm _ _ _ _ _

theorem execPopc_keepsForm (p : Pfx) (d a : BitVec 4) : KeepsForm (execPopc p d a) := alu1_keepsForm _ _ _ _ _

theorem execSextb_keepsForm (p : Pfx) (d a : BitVec 4) : KeepsForm (execSextb p d a) := alu1_keepsForm _ _ _ _ _

theorem execSexth_keepsForm (p : Pfx) (d a : BitVec 4) : KeepsForm (execSexth p d a) := alu1_keepsForm _ _ _ _ _

theorem execSextw_keepsForm (p : Pfx) (d a : BitVec 4) : KeepsForm (execSextw p d a) := alu1_keepsForm _ _ _ _ _

theorem execZextb_keepsForm (p : Pfx) (d a : BitVec 4) : KeepsForm (execZextb p d a) := alu1_keepsForm _ _ _ _ _

theorem execZexth_keepsForm (p : Pfx) (d a : BitVec 4) : KeepsForm (execZexth p d a) := alu1_keepsForm _ _ _ _ _

theorem execZextw_keepsForm (p : Pfx) (d a : BitVec 4) : KeepsForm (execZextw p d a) := alu1_keepsForm _ _ _ _ _

theorem execBswap_keepsForm (p : Pfx) (d a : BitVec 4) : KeepsForm (execBswap p d a) := alu1_keepsForm _ _ _ _ _

theorem execAddw_keepsForm (p : Pfx) (d a : BitVec 4) : KeepsForm (execAddw p d a) := alu_keepsForm _ _ _ _ _ _

theorem execSubw_keepsForm (p : Pfx) (d a : BitVec 4) : KeepsForm (execSubw p d a) := alu_keepsForm _ _ _ _ _ _

theorem execAddi_keepsForm (p : Pfx) (d : BitVec 4) (i : BitVec 8) : KeepsForm (execAddi p d i) :=
  issue_keepsForm fun _ h => h

theorem execLi_keepsForm (p : Pfx) (d : BitVec 4) (i : BitVec 8) : KeepsForm (execLi p d i) :=
  issue_keepsForm fun _ h => h

theorem execCmp_keepsForm (p : Pfx) (d a : BitVec 4) (c : BitVec 3) : KeepsForm (execCmp p d a c) := by
  refine issue_keepsForm fun u h => ?_
  grind [pushRes_keepsForm, Res.keepsForm]

theorem execCmpi_keepsForm (p : Pfx) (a : BitVec 4) (c : BitVec 3) (i : BitVec 4) : KeepsForm (execCmpi p a c i) := by
  refine issue_keepsForm fun u h => ?_
  grind [pushRes_keepsForm, Res.keepsForm]

theorem execNop_keepsForm (p : Pfx) (d a : BitVec 4) : KeepsForm (execNop p d a) :=
  issue_keepsForm fun _ h => h

theorem execHint_keepsForm (p : Pfx) (w : Half) : KeepsForm (execHint p w) :=
  issue_keepsForm fun _ h => h

theorem execYield_keepsForm (p : Pfx) (d a : BitVec 4) : KeepsForm (execYield p d a) :=
  issue_keepsForm fun _ h => h

theorem execYieldPassEnd_keepsForm : KeepsForm execYieldPassEnd := by
  intro s t h he
  unfold execYieldPassEnd at he
  grind [State.setCtx_mem]

@[simp] theorem State.emptyFetch_mem (s : State) : s.emptyFetch.mem = s.mem := rfl

theorem execFence_keepsForm (p : Pfx) (d a : BitVec 4) : KeepsForm (execFence p d a) := by
  refine issue_keepsForm fun u h => ?_
  grind [withRelease_keepsForm, State.emptyFetch_mem, withAcquire_mem, Res.keepsForm]

theorem execTrap_keepsForm (p : Pfx) (d a : BitVec 4) : KeepsForm (execTrap p d a) :=
  issue_keepsForm fun _ h => h

theorem execBrk_keepsForm (p : Pfx) (n : BitVec 8) : KeepsForm (execBrk p n) :=
  issue_keepsForm fun _ h => h

theorem execRdcyc_keepsForm (p : Pfx) (d a : BitVec 4) : KeepsForm (execRdcyc p d a) :=
  issue_keepsForm fun _ h => h

theorem execIllegalInstruction_keepsForm (w : Illegal) : KeepsForm (execIllegalInstruction w) := by
  intro s t h he
  unfold execIllegalInstruction at he
  grind [State.takeTrap_mem_wf]

theorem execB_keepsForm (p : Pfx) (o : BitVec 8) : KeepsForm (execB p o) :=
  issue_keepsForm fun _ h => h

theorem execJ_keepsForm (p : Pfx) (o : BitVec 12) : KeepsForm (execJ p o) :=
  issue_keepsForm fun _ h => h

theorem execCall_keepsForm (p : Pfx) (o : BitVec 8) : KeepsForm (execCall p o) :=
  issue_keepsForm fun _ h => h

theorem branchIf_keepsForm (i : Instr) (want : Bool) (p : Pfx) (o : BitVec 8) : KeepsForm (branchIf i want p o) := by
  refine issue_keepsForm fun u h => ?_
  grind [State.pop_mem_wf, Res.keepsForm]

theorem execBt_keepsForm (p : Pfx) (o : BitVec 8) : KeepsForm (execBt p o) := branchIf_keepsForm _ _ _ _

theorem execBf_keepsForm (p : Pfx) (o : BitVec 8) : KeepsForm (execBf p o) := branchIf_keepsForm _ _ _ _

theorem jumpTo_keepsForm (t : Word) (s : State) (h : s.mem.wf = true) : (jumpTo t s).keepsForm := by
  unfold jumpTo
  split
  all_goals first | exact h | trivial

theorem execJr_keepsForm (p : Pfx) (d a : BitVec 4) : KeepsForm (execJr p d a) := by
  refine issue_keepsForm fun u h => ?_
  grind [jumpTo_keepsForm, Res.keepsForm]

theorem execCallr_keepsForm (p : Pfx) (d a : BitVec 4) : KeepsForm (execCallr p d a) := by
  refine issue_keepsForm fun u h => ?_
  grind [jumpTo_keepsForm, State.ws_mem, Res.keepsForm]

theorem execRet_keepsForm (p : Pfx) (d a : BitVec 4) : KeepsForm (execRet p d a) := by
  refine issue_keepsForm fun u h => ?_
  grind [jumpTo_keepsForm, Res.keepsForm]

theorem predOp_keepsForm (i : Instr) (n : Nat) (f : State → Res) (hf : ∀ (u : State), u.mem.wf = true → (f u).keepsForm) :
    KeepsForm (predOp i n f) := by
  refine issue_keepsForm fun u h => ?_
  grind [Res.keepsForm]

theorem combine_keepsForm (f : PEntry → PEntry → PEntry) (s : State) (h : s.mem.wf = true) : (combine f s).keepsForm := by
  unfold combine
  split
  · trivial
  · split
    · trivial
    · rename_i ex
      split
      · trivial
      · rename_i ey
        exact pushRes_keepsForm _ _ (State.pop_mem_wf _ (State.pop_mem_wf _ h ex) ey)

theorem execPend_keepsForm (p : Pfx) (d a : BitVec 4) : KeepsForm (execPend p d a) := by
  refine predOp_keepsForm _ _ _ fun u h => ?_
  split
  · trivial
  · split
    · rename_i e
      exact u.pop_mem_wf h e
    · trivial

theorem execPelse_keepsForm (p : Pfx) (d a : BitVec 4) : KeepsForm (execPelse p d a) := predOp_keepsForm _ _ _ fun _ h => h

theorem execPand_keepsForm (p : Pfx) (d a : BitVec 4) : KeepsForm (execPand p d a) := predOp_keepsForm _ _ _ (combine_keepsForm _)

theorem execPor_keepsForm (p : Pfx) (d a : BitVec 4) : KeepsForm (execPor p d a) := predOp_keepsForm _ _ _ (combine_keepsForm _)

theorem execPdup_keepsForm (p : Pfx) (d a : BitVec 4) : KeepsForm (execPdup p d a) :=
  predOp_keepsForm _ _ _ fun u h => pushRes_keepsForm u _ h

theorem execPset_keepsForm (p : Pfx) (d a : BitVec 4) : KeepsForm (execPset p d a) :=
  predOp_keepsForm _ _ _ fun u h => pushRes_keepsForm u _ h

theorem execPget_keepsForm (p : Pfx) (d a : BitVec 4) : KeepsForm (execPget p d a) := predOp_keepsForm _ _ _ fun _ h => h

theorem execPcnt_keepsForm (p : Pfx) (d a : BitVec 4) : KeepsForm (execPcnt p d a) := predOp_keepsForm _ _ _ fun _ h => h

/-! ### Every instruction -/

/-- The meaning of every instruction and of every event keeps the canonical form: one arm per constructor, as in `exec`. -/
theorem exec_keepsForm : ∀ i : Instr, KeepsForm (exec i)
  | .nop p d a => execNop_keepsForm p d a
  | .fence p d a => execFence_keepsForm p d a
  | .yield p d a => execYield_keepsForm p d a
  | .exit p d a => execExit_keepsForm p d a
  | .trap p d a => execTrap_keepsForm p d a
  | .brk p n => execBrk_keepsForm p n
  | .mfs p d a => execMfs_keepsForm p d a
  | .mts p d a => execMts_keepsForm p d a
  | .rdcyc p d a => execRdcyc_keepsForm p d a
  | .add p d a => execAdd_keepsForm p d a
  | .sub p d a => execSub_keepsForm p d a
  | .and p d a => execAnd_keepsForm p d a
  | .or p d a => execOr_keepsForm p d a
  | .xor p d a => execXor_keepsForm p d a
  | .sll p d a => execSll_keepsForm p d a
  | .srl p d a => execSrl_keepsForm p d a
  | .sra p d a => execSra_keepsForm p d a
  | .mul p d a => execMul_keepsForm p d a
  | .mulh p d a => execMulh_keepsForm p d a
  | .mulhu p d a => execMulhu_keepsForm p d a
  | .min p d a => execMin_keepsForm p d a
  | .max p d a => execMax_keepsForm p d a
  | .minu p d a => execMinu_keepsForm p d a
  | .maxu p d a => execMaxu_keepsForm p d a
  | .mov p d a => execMov_keepsForm p d a
  | .div p d a => execDiv_keepsForm p d a
  | .divu p d a => execDivu_keepsForm p d a
  | .rem p d a => execRem_keepsForm p d a
  | .remu p d a => execRemu_keepsForm p d a
  | .clz p d a => execClz_keepsForm p d a
  | .ctz p d a => execCtz_keepsForm p d a
  | .popc p d a => execPopc_keepsForm p d a
  | .sextb p d a => execSextb_keepsForm p d a
  | .sexth p d a => execSexth_keepsForm p d a
  | .sextw p d a => execSextw_keepsForm p d a
  | .zextb p d a => execZextb_keepsForm p d a
  | .zexth p d a => execZexth_keepsForm p d a
  | .zextw p d a => execZextw_keepsForm p d a
  | .bswap p d a => execBswap_keepsForm p d a
  | .addw p d a => execAddw_keepsForm p d a
  | .subw p d a => execSubw_keepsForm p d a
  | .addi p d n => execAddi_keepsForm p d n
  | .li p d n => execLi_keepsForm p d n
  | .cmp p d a c => execCmp_keepsForm p d a c
  | .cmpi p a c n => execCmpi_keepsForm p a c n
  | .ld p d a n => execLd_keepsForm p d a n
  | .st p d a n => execSt_keepsForm p d a n
  | .lb p d a => execLb_keepsForm p d a
  | .lbu p d a => execLbu_keepsForm p d a
  | .lh p d a => execLh_keepsForm p d a
  | .lhu p d a => execLhu_keepsForm p d a
  | .lw p d a => execLw_keepsForm p d a
  | .lwu p d a => execLwu_keepsForm p d a
  | .sb p d a => execSb_keepsForm p d a
  | .sh p d a => execSh_keepsForm p d a
  | .sw p d a => execSw_keepsForm p d a
  | .b p o => execB_keepsForm p o
  | .bt p o => execBt_keepsForm p o
  | .bf p o => execBf_keepsForm p o
  | .call p o => execCall_keepsForm p o
  | .j p o => execJ_keepsForm p o
  | .pend p d a => execPend_keepsForm p d a
  | .pelse p d a => execPelse_keepsForm p d a
  | .pand p d a => execPand_keepsForm p d a
  | .por p d a => execPor_keepsForm p d a
  | .pdup p d a => execPdup_keepsForm p d a
  | .pset p d a => execPset_keepsForm p d a
  | .pget p d a => execPget_keepsForm p d a
  | .pcnt p d a => execPcnt_keepsForm p d a
  | .jr p d a => execJr_keepsForm p d a
  | .callr p d a => execCallr_keepsForm p d a
  | .ret p d a => execRet_keepsForm p d a
  | .hint p w => execHint_keepsForm p w
  | .vadd p d a => execVadd_keepsForm p d a
  | .vsub p d a => execVsub_keepsForm p d a
  | .vmul p d a => execVmul_keepsForm p d a
  | .vfma p d a => execVfma_keepsForm p d a
  | .vmin p d a => execVmin_keepsForm p d a
  | .vmax p d a => execVmax_keepsForm p d a
  | .vabs p d a => execVabs_keepsForm p d a
  | .vneg p d a => execVneg_keepsForm p d a
  | .vand p d a => execVand_keepsForm p d a
  | .vor p d a => execVor_keepsForm p d a
  | .vxor p d a => execVxor_keepsForm p d a
  | .vnot p d a => execVnot_keepsForm p d a
  | .vshl p d a => execVshl_keepsForm p d a
  | .vshr p d a => execVshr_keepsForm p d a
  | .vsra p d a => execVsra_keepsForm p d a
  | .vsel p d a => execVsel_keepsForm p d a
  | .vcmp p d a c => execVcmp_keepsForm p d a c
  | .vld p d a => execVld_keepsForm p d a
  | .vst p d a => execVst_keepsForm p d a
  | .vlds p d a => execVlds_keepsForm p d a
  | .vsts p d a => execVsts_keepsForm p d a
  | .vgath p d a => execVgath_keepsForm p d a
  | .vscat p d a => execVscat_keepsForm p d a
  | .vbcast p d a => execVbcast_keepsForm p d a
  | .vext p d a => execVext_keepsForm p d a
  | .vins p d a => execVins_keepsForm p d a
  | .vperm p d a => execVperm_keepsForm p d a
  | .vredadd p d a => execVredadd_keepsForm p d a
  | .vredmin p d a => execVredmin_keepsForm p d a
  | .vredmax p d a => execVredmax_keepsForm p d a
  | .viota p d a => execViota_keepsForm p d a
  | .vbind p d a => execVbind_keepsForm p d a
  | .vunbind p d a => execVunbind_keepsForm p d a
  | .vstat p d a => execVstat_keepsForm p d a
  | .vcvt p d a g => execVcvt_keepsForm p d a g
  | .mmaRing p d a => execMmaRing_keepsForm p d a
  | .mmaHold p d a => execMmaHold_keepsForm p d a
  | .mmv p d a => execMmv_keepsForm p d a
  | .mldb p d a => execMldb_keepsForm p d a
  | .mpass p d a => execMpass_keepsForm p d a
  | .mzero p d a => execMzero_keepsForm p d a
  | .mst p d a => execMst_keepsForm p d a
  | .mld p d a => execMld_keepsForm p d a
  | .mrow p d a => execMrow_keepsForm p d a
  | .mwait p d a => execMwait_keepsForm p d a
  | .mbankSel p d a => execMbankSel_keepsForm p d a
  | .mbankSpill p d a => execMbankSpill_keepsForm p d a
  | .mbankFill p d a => execMbankFill_keepsForm p d a
  | .gint p d a => execGint_keepsForm p d a
  | .guni p d a => execGuni_keepsForm p d a
  | .gsub p d a => execGsub_keepsForm p d a
  | .gset p d a => execGset_keepsForm p d a
  | .gempty p d a => execGempty_keepsForm p d a
  | .gbox p d a => execGbox_keepsForm p d a
  | .glat p d a => execGlat_keepsForm p d a
  | .grag p d a => execGrag_keepsForm p d a
  | .gdil p d a => execGdil_keepsForm p d a
  | .gshift p d a => execGshift_keepsForm p d a
  | .gproj p d a => execGproj_keepsForm p d a
  | .gsplit p d a => execGsplit_keepsForm p d a
  | .gcanon p d a => execGcanon_keepsForm p d a
  | .gld p d a => execGld_keepsForm p d a
  | .gst p d a => execGst_keepsForm p d a
  | .gcnt p d a => execGcnt_keepsForm p d a
  | .gvol p d a => execGvol_keepsForm p d a
  | .grdbox p d a => execGrdbox_keepsForm p d a
  | .gtest p d a => execGtest_keepsForm p d a
  | .geq p d a => execGeq_keepsForm p d a
  | .aadd p d a => execAadd_keepsForm p d a
  | .aand p d a => execAand_keepsForm p d a
  | .aor p d a => execAor_keepsForm p d a
  | .axor p d a => execAxor_keepsForm p d a
  | .amin p d a => execAmin_keepsForm p d a
  | .amax p d a => execAmax_keepsForm p d a
  | .aminu p d a => execAminu_keepsForm p d a
  | .amaxu p d a => execAmaxu_keepsForm p d a
  | .aswap p d a => execAswap_keepsForm p d a
  | .acas p d a => execAcas_keepsForm p d a
  | .afadd p d a => execAfadd_keepsForm p d a
  | .afaddcp p d a => execAfaddcp_keepsForm p d a
  | .lds p d a => execLds_keepsForm p d a
  | .sts p d a => execSts_keepsForm p d a
  | .trn p d a => execTrn_keepsForm p d a
  | .stq p d a => execStq_keepsForm p d a
  | .autld p d a => execAutld_keepsForm p d a
  | .prefLine p a => execPrefLine_keepsForm p a
  | .prefRegion p a => execPrefRegion_keepsForm p a
  | .invl1All p a => execInvl1All_keepsForm p a
  | .invl1Line p a => execInvl1Line_keepsForm p a
  | .send p d a => execSend_keepsForm p d a
  | .ctradd p d a => execCtradd_keepsForm p d a
  | .ctrrd p d a => execCtrrd_keepsForm p d a
  | .cwait p d a => execCwait_keepsForm p d a
  | .wtarm p d a => execWtarm_keepsForm p d a
  | .wtdis p d a => execWtdis_keepsForm p d a
  | .spawn p d a => execSpawn_keepsForm p d a
  | .start p d a => execStart_keepsForm p d a
  | .hjoin p d a => execHjoin_keepsForm p d a
  | .susp p d a => execSusp_keepsForm p d a
  | .dqpush p d a => execDqpush_keepsForm p d a
  | .dqpop p d a => execDqpop_keepsForm p d a
  | .dqsteal p d a => execDqsteal_keepsForm p d a
  | .bsetcRel p a => execBsetcRel_keepsForm p a
  | .bsetcReg p a => execBsetcReg_keepsForm p a
  | .bgrant p d a => execBgrant_keepsForm p d a
  | .byield p d a => execByield_keepsForm p d a
  | .btop p d a => execBtop_keepsForm p d a
  | .arrive p d a => execArrive_keepsForm p d a
  | .bwait p d a => execBwait_keepsForm p d a
  | .bstat p d a => execBstat_keepsForm p d a
  | .copy p d a => execCopy_keepsForm p d a
  | .ewait p d a => execEwait_keepsForm p d a
  | .etest p d a => execEtest_keepsForm p d a
  | .gpool p d a => execGpool_keepsForm p d a
  | .xred p d a => execXred_keepsForm p d a
  | .xbcast p d a => execXbcast_keepsForm p d a
  | .xgath p d a => execXgath_keepsForm p d a
  | .chunkrd p d a => execChunkrd_keepsForm p d a
  | .collectiveRequest r => execCollectiveRequest_keepsForm r
  | .hpoffer p d a => execHpoffer_keepsForm p d a
  | .hpread p d a => execHpread_keepsForm p d a
  | .rcinc p d a => execRcinc_keepsForm p d a
  | .rcsnap p d a => execRcsnap_keepsForm p d a
  | .sysc p n => execSysc_keepsForm p n
  | .tret p d a => execTret_keepsForm p d a
  | .ctxsvCtx p a => execCtxsvCtx_keepsForm p a
  | .ctxsvCell p a => execCtxsvCell_keepsForm p a
  | .ctxsvTile p a => execCtxsvTile_keepsForm p a
  | .ctxldCtx p a => execCtxldCtx_keepsForm p a
  | .ctxldCell p a => execCtxldCell_keepsForm p a
  | .ctxldTile p a => execCtxldTile_keepsForm p a
  | .ctxldReg p a => execCtxldReg_keepsForm p a
  | .chordConfigWrite level node chan w => execChordConfigWrite_keepsForm level node chan w
  | .pmreqCtx p a => execPmreqCtx_keepsForm p a
  | .pmreqStop p a => execPmreqStop_keepsForm p a
  | .pmreqGo p a => execPmreqGo_keepsForm p a
  | .pmreqFrame p a => execPmreqFrame_keepsForm p a
  | .gangstopStop p a => execGangstopStop_keepsForm p a
  | .gangstopRestart p a => execGangstopRestart_keepsForm p a
  | .tlbinv p d a => execTlbinv_keepsForm p d a
  | .regrd p d a => execRegrd_keepsForm p d a
  | .wdset p d a => execWdset_keepsForm p d a
  | .answerRetry span id => execAnswerRetry_keepsForm span id
  | .answerRefuse span id => execAnswerRefuse_keepsForm span id
  | .answerLongService span id => execAnswerLongService_keepsForm span id
  | .fadd p d a => execFadd_keepsForm p d a
  | .fsub p d a => execFsub_keepsForm p d a
  | .fmul p d a => execFmul_keepsForm p d a
  | .fdiv p d a => execFdiv_keepsForm p d a
  | .fsqrt p d a => execFsqrt_keepsForm p d a
  | .fma p d a => execFma_keepsForm p d a
  | .fmin p d a => execFmin_keepsForm p d a
  | .fmax p d a => execFmax_keepsForm p d a
  | .fabs p d a => execFabs_keepsForm p d a
  | .fneg p d a => execFneg_keepsForm p d a
  | .fcmp p d a c => execFcmp_keepsForm p d a c
  | .fcvt p d a g => execFcvt_keepsForm p d a g
  | .fclass p d a => execFclass_keepsForm p d a
  | .fqnt p d a => execFqnt_keepsForm p d a
  | .wptrWrite q v => execWptrWrite_keepsForm q v
  | .qsizeWrite q v => execQsizeWrite_keepsForm q v
  | .hostRegisterWrite off v => execHostRegisterWrite_keepsForm off v
  | .mdataWrite v => execMdataWrite_keepsForm v
  | .anonceWrite nonce => execAnonceWrite_keepsForm nonce
  | .linkCrcResend link again lost => execLinkCrcResend_keepsForm link again lost
  | .illegalInstruction w => execIllegalInstruction_keepsForm w
  | .moduleBecomesReachable m => execModuleBecomesReachable_keepsForm m
  | .powerLoss writing => execPowerLoss_keepsForm writing
  | .hostMemoryAccess a => execHostMemoryAccess_keepsForm a
  | .poolBackInvalidate line bytes => execPoolBackInvalidate_keepsForm line bytes
  | .remoteRequestArrival r => execRemoteRequestArrival_keepsForm r
  | .yieldPassEnd => execYieldPassEnd_keepsForm
  | .loadComplete => execLoadComplete_keepsForm
  | .budgetYield => execBudgetYield_keepsForm
  | .vectorComplete => execVectorComplete_keepsForm
  | .arbiterWindow => execArbiterWindow_keepsForm
  | .streamUnitFetch => execStreamUnitFetch_keepsForm
  | .streamUnitWrite => execStreamUnitWrite_keepsForm
  | .matrixStepRetire => execMatrixStepRetire_keepsForm
  | .handoffLand => execHandoffLand_keepsForm
  | .parkedStepRetry => execParkedStepRetry_keepsForm
  | .longParkConversion => execLongParkConversion_keepsForm
  | .tlbMissWalk => execTlbMissWalk_keepsForm
  | .messageDelivery => execMessageDelivery_keepsForm
  | .joinIncrement => execJoinIncrement_keepsForm
  | .spawnEnqueue => execSpawnEnqueue_keepsForm
  | .firedPendingEnqueue => execFiredPendingEnqueue_keepsForm
  | .dispatch => execDispatch_keepsForm
  | .engineChunkPerformed => execEngineChunkPerformed_keepsForm
  | .engineCompletion => execEngineCompletion_keepsForm
  | .switchInRestore => execSwitchInRestore_keepsForm
  | .moduleReset => execModuleReset_keepsForm
  | .recoveryGo => execRecoveryGo_keepsForm
  | .cmdNoop => execCmdNoop_keepsForm
  | .cmdLaunch => execCmdLaunch_keepsForm
  | .launchEnd => execLaunchEnd_keepsForm
  | .cmdSignal => execCmdSignal_keepsForm
  | .cmdWait => execCmdWait_keepsForm
  | .attestationReportReady => execAttestationReportReady_keepsForm
  | .pstateFull => execPstateFull_keepsForm
  | .pstatePartitionOff => execPstatePartitionOff_keepsForm
  | .pstateIdle => execPstateIdle_keepsForm
  | .arbiterGrant => execArbiterGrant_keepsForm
  | .storePerformed => execStorePerformed_keepsForm
  | .stopUnitReached => execStopUnitReached_keepsForm

/-! ### Every turn -/

theorem State.current_keepsForm (s : State) (h : s.mem.wf = true) : s.current.keepsForm := by
  unfold State.current
  grind [State.fetch_keepsForm, Fetched.keepsForm]

/-- An issue reads the instruction, and runs it, asks for its page, or traps. -/
theorem issueNow_keepsForm : KeepsForm issueNow := by
  intro s t h he
  unfold issueNow at he
  have hc := s.current_keepsForm h
  split at he
  · split at he
    · rename_i e
      rw [e] at hc
      exact exec_keepsForm _ _ _ hc he
    · rename_i e
      rw [e] at hc
      cases he
      exact hc
    · rename_i e
      rw [e] at hc
      cases he
      exact State.takeTrap_mem_wf _ _ _ hc
  · cases he
    exact h

theorem State.noted_mem_wf (t s : State) (i : Instr) (h : t.mem.wf = true) : (t.noted s i).mem.wf = true := h

theorem issueTurn_keepsForm : KeepsForm issueTurn := by
  intro s t h he
  unfold issueTurn at he
  have hc := s.current_keepsForm h
  split at he
  · cases he
    exact h
  · split at he
    · rename_i e
      rw [e] at hc
      split at he
      · rename_i hx
        cases he
        exact State.noted_mem_wf _ _ _ (exec_keepsForm _ _ _ hc hx)
      · rename_i hn
        exact absurd he (hn _)
    · exact issueNow_keepsForm s t h he

theorem State.awayTurn_mem_wf (s : State) (h : s.mem.wf = true) : s.awayTurn.mem.wf = true := by
  unfold State.awayTurn
  split
  · exact h
  · rename_i w _
    split
    · exact h
    · rename_i keys _
      have hm := s.meetImage_mem_wf s.tid w.frame keys h
      dsimp only
      split
      · rename_i t e
        have ht := issueNow_keepsForm _ _ (mem_wf_of_eq (State.setCtx_mem _ _) hm) e
        split
        · have hw := fun va => State.meetWalk_mem_wf _ (s.meetImage s.tid w.frame keys).tid
            (s.meetImage s.tid w.frame keys).asid va hm
          split
          · exact mem_wf_of_eq (State.fillTlb_mem _ _ _) (hw _)
          · exact State.parkFault_mem_wf _ _ _ _ (hw _)
          · exact hw _
          · exact hw _
        · exact State.putImage_mem_wf _ (s.meetImage s.tid w.frame keys).tid keys (performFirst t.ctx.pend.length t).ctx
            (performFirst_mem_wf t.ctx.pend.length t ht)
        · exact hm
      · exact hm

theorem State.strike_mem_wf (s : State) (x : Stroke) (h : s.mem.wf = true) : (s.strike x).mem.wf = true := by
  unfold State.strike
  grind [State.enterSpace_mem_wf, State.meetFlaw_mem_wf, State.reportError_mem_wf, foldl_mem_wf, State.setCell_mem,
    State.setTile_mem]

/-- A turn issues, performs an event, serves a trap, retries a kept access or strikes an error. -/
theorem turn_keepsForm (t : Turn) : KeepsForm (turn t) := by
  intro s u h he
  cases t with
  | issue c n => exact issueTurn_keepsForm { s with sel := ⟨c, n, 0⟩ } u h he
  | event i k =>
    unfold turn at he
    dsimp only at he
    split at he
    · exact exec_keepsForm i { s with sel := k } u h he
    · cases he
      exact h
  | service c n =>
    unfold turn at he
    dsimp only at he
    split at he
    · cases he
      exact State.service_mem_wf { s with sel := ⟨c, n, 0⟩ } h
    · cases he
      exact h
  | away c n =>
    unfold turn at he
    dsimp only at he
    split at he
    · cases he
      exact State.awayTurn_mem_wf { s with sel := ⟨c, n, 0⟩ } h
    · cases he
      exact h
  | stroke x =>
    cases he
    exact s.strike_mem_wf x h

@[simp] theorem State.nextTurn_mem (s : State) : s.nextTurn.2.mem = s.mem := by
  unfold State.nextTurn
  split <;> rfl

/-! ### Every step -/

/-- One step: the clock and the choice of the turn leave memory, the turn keeps the form, and so do the errors met after it. -/
theorem step_keepsForm : KeepsForm step := by
  intro s t h he
  unfold step at he
  dsimp only at he
  split at he
  · split at he
    · rename_i e
      cases he
      exact State.meetTouched_mem_wf _ (turn_keepsForm _ _ _ (mem_wf_of_eq ((State.clock_mem _).trans s.nextTurn_mem) h) e)
    · rename_i hn
      exact absurd he (hn _)
  · cases he

end Sys2Proof.Machine

namespace Sys2Proof.Proofs

open Sys2Proof Sys2Proof.Machine Sys2Proof.Claims

/-- Settles O3: memory is written by `State.perform` alone, which keeps the canonical form, so each turn of a step keeps it. -/
theorem stepKeepsInv : Obligations.StepKeepsInv := by
  unfold Obligations.StepKeepsInv MemInv
  exact step_keepsForm

/-- Settles O2: memory is empty after reset. -/
theorem resetInv : Obligations.ResetInv := by
  unfold Obligations.ResetInv MemInv
  exact State.reset_mem_wf

end Sys2Proof.Proofs
end

section
/-! Atomic operations (10 R252 to R254): with its operand aligned, translated and free of the context's own accesses, an atomic is its
function of the value at the home, and memory changes in the operand alone. -/

namespace Sys2Proof.Machine

open Sys2Proof.Claims

variable {i : Instr} {p : Pfx} {d a : BitVec 4} {n : Nat}

theorem State.meetLines_of_sound (s : State) (t pa n : Nat) (h : s.flaws = []) : s.meetLines t pa n = s := by
  unfold State.meetLines
  exact if_pos h

/-- The one way in which the body of an atomic completes. -/
theorem amoBody_ok {new : Nat → Option Nat} {put : Nat → State → State} {u v w : State} {pa sc : Nat} {cached : Bool}
    (halign : (opA p a u).toNat % n = 0) (hheld : u.ctx.accessHeld = false)
    (hacc : u.access u.cid u.ctx.user .atomic (opA p a u).toNat n = .mem pa cached sc)
    (hrel : pRel p = true → u.released (pScope p) = true) (hv : v = released p u) (htouch : v.pendTouches pa n = false)
    (hw : w = (v.meetLines v.tid pa n).dropLines v.tid [pa / 64]) :
    amoBody p a n new put u = .ok (withAcquire p (put (rdN w.mem pa n)
      (match new (rdN w.mem pa n) with | some x => w.putN w.tid pa n x | none => w))) := by
  subst hv hw
  unfold amoBody
  dsimp only
  rw [if_neg (not_not_intro halign), hheld, if_neg Bool.false_ne_true, hacc]
  dsimp only
  rw [withRelease_done _ hrel, htouch]
  rfl

/-- The home's memory after the line is met and the L1s have dropped it is the memory from before the instruction. -/
theorem amo_met_mem {s v w : State} {m pa : Nat} (hv : v = released p (s.charged 2 m))
    (hw : w = (v.meetLines v.tid pa n).dropLines v.tid [pa / 64]) (h : s.flaws = []) : w.mem = s.mem := by
  have hflaws : v.flaws = [] := by rw [hv, released_flaws, State.charged_flaws, h]
  rw [hw, State.dropLines_mem, v.meetLines_of_sound _ _ _ hflaws, hv, released_mem, State.charged_mem]

/-- An instruction that issues with the body of an atomic is one. -/
theorem amoDone_of_exec {new : Nat → State → Option Nat} {put : Nat → State → State} {s : State} {body : State → Res}
    {own : State → Option Err} (hexec : exec i s = issue i { memory 2 (amoCost p a n) body with own := own } s) (hown : own s = none)
    (hregs : readRegions i = []) (hbody : ∀ m, body (s.charged 2 m) = amoBody p a n (new · s) put (s.charged 2 m))
    (hput : ∀ old u, (put old u).mem = u.mem) : AmoDone i p a n new put s := by
  rintro m u v w pa cached sc old hm rfl hissue halign hheld hacc hrel hv htouch hw rfl
  have hsid := State.issues_sid hissue
  have hbase := opA_charged p a 2 m hsid
  have hok := amoBody_ok (new := (new · s)) (put := put) (by rwa [hbase]) hheld (by rwa [hbase]) hrel hv htouch hw
  have hrun := hexec.trans (issue_ok hissue (.inl rfl) hown rfl (by rw [hm]; rfl) hregs ((hbody m).trans hok))
  have hmem := amo_met_mem hv hw
  refine ⟨fun x hx => ⟨_, hrun, ?_, fun hflaws b hb => ?_⟩, fun hnone => ⟨_, hrun, ?_, fun hflaws => ⟨?_, fun b => ?_⟩⟩⟩
  · rw [hx]
  · rw [hx, State.done_mem, withAcquire_mem, hput, w.putN_out _ _ _ _ _ hb, hmem hflaws]
  · rw [hnone]
  · rw [hmem hflaws]
  · rw [hnone, State.done_mem, withAcquire_mem, hput, hmem hflaws]

/-- The meaning that `amo` gives an atomic of the function `f`. -/
def amoMeaning (p : Pfx) (d a : BitVec 4) (f : Nat → Nat → Nat) (s : State) : Res :=
  amoBody p a (amoBytes p) (fun old => some (f old (lowOf (amoBytes p) (opE p s)))) (fun old s => s.ws (p.dn d) (BitVec.ofNat 64 old)) s

/-- The atomics whose value is a function of the old value and s[e]. -/
theorem amo_of_exec {mk : Pfx → BitVec 4 → BitVec 4 → Instr} {f : Pfx → Nat → Nat → Nat}
    (hexec : ∀ p d a s, exec (mk p d a) s = amo (mk p d a) p d a (f p) s) (hregs : ∀ p d a, readRegions (mk p d a) = []) : Amo mk f := by
  intro p d a s hsid
  refine amoDone_of_exec (body := amoMeaning p d a (f p)) (own := fun _ => none) (hexec p d a s) rfl (hregs p d a) (fun m => ?_)
    (fun old u => u.ws_mem _ _)
  rw [amoMeaning, opE_charged p 2 m hsid, lowOf]

/-- ACAS writes s[e + 1] where the old value is s[e]. -/
theorem amoDone_acas {s : State} (hsid : s.sid ≤ 10) (hpair : p.en ≠ 15) : AmoDone (.acas p d a) p a (amoBytes p)
    (fun old s => if old = (s.rs p.en).toNat % 2 ^ (8 * amoBytes p) then some ((s.rs (p.en + 1)).toNat % 2 ^ (8 * amoBytes p)) else none)
    (fun old s => s.ws (p.dn d) (BitVec.ofNat 64 old)) s := by
  refine amoDone_of_exec (own := pairErr (.acas p d a) p.en) rfl (if_neg hpair) rfl (fun m => ?_) (fun old u => u.ws_mem _ _)
  rw [opE_charged p 2 m hsid, s.rs_charged 2 m _ hsid, lowOf, lowOf]

/-- AFADDCP writes the pair that the compensated sum makes of the old pair. -/
theorem amoDone_afaddcp {s : State} (hsid : s.sid ≤ 10) (hpair : p.dn d ≠ 15) : AmoDone (.afaddcp p d a) p a 16
    (fun old s => some (pairAdd old (if amoBytes p = 8 then (s.rs p.en).toNat % 2 ^ (8 * amoBytes p)
      else (convert .f32 .f64 .rne false ((s.rs p.en).toNat % 2 ^ (8 * amoBytes p))).1)))
    (fun old s => (s.ws (p.dn d) (BitVec.ofNat 64 old)).ws (p.dn d + 1) (BitVec.ofNat 64 (old / 2 ^ 64))) s := by
  refine amoDone_of_exec (own := pairErr (.afaddcp p d a) (p.dn d)) rfl (if_neg hpair) rfl (fun m => ?_) (fun old u => ?_)
  · dsimp only
    rw [opE_charged p 2 m hsid, lowOf]
  · rw [State.ws_mem, State.ws_mem]

end Sys2Proof.Machine

namespace Sys2Proof.Proofs

open Sys2Proof Sys2Proof.Machine Sys2Proof.Claims

/-- Settles O38: each atomic is `amoBody` of its function, and `State.putN` changes the operand's bytes alone. -/
theorem atomicResults : Obligations.AtomicResults := by
  unfold Obligations.AtomicResults
  refine ⟨?aadd, ?aand, ?aor, ?axor, ?amin, ?amax, ?aminu, ?amaxu, ?aswap, ?afadd, ?acas, ?afaddcp⟩
  case acas => exact fun p d a s hsid hpair => amoDone_acas hsid hpair
  case afaddcp => exact fun p d a s hsid hpair => amoDone_afaddcp hsid hpair
  all_goals exact amo_of_exec (fun _ _ _ _ => rfl) (fun _ _ _ => rfl)

end Sys2Proof.Proofs
end

section
/-! The stage step of one granule (10 R256, R257): what the automaton's entry makes of it, and the state of a granule once written. -/

namespace Sys2Proof.Machine

/-! ### The step of a granule -/

section

variable {s m : State} {t g : Nat} {r : StageReq} {l : GLoc} (hdue : s.granDue l = false) (hm : m = s.meetGran t l)

include hdue hm

theorem stageRun_one_ok (h : entAct (s.stageEntry r l) = .ok) : stageRun t r .issue none 0#2 [(g, l)] s =
    .done ((stageData m t r).2.setGran t l (s.stageEntry r l % 8)) (stageData m t r).1 (BitVec.ofNat 2 (s.stageEntry r l / 32)) := by
  simp only [stageRun, hdue, ← hm, h, Bool.and_false, Bool.false_eq_true, if_false, BitVec.zero_or, Option.or_none, entSide, entNext]

theorem stageRun_one_noData (h : entAct (s.stageEntry r l) = .noData) : stageRun t r .issue none 0#2 [(g, l)] s =
    .done (m.setGran t l (s.stageEntry r l % 8)) none (BitVec.ofNat 2 (s.stageEntry r l / 32)) := by
  simp only [stageRun, hdue, ← hm, h, Bool.and_false, Bool.false_eq_true, if_false, BitVec.zero_or, entSide, entNext]

theorem stageRun_one_fault (h : entAct (s.stageEntry r l) = .fault) :
    stageRun t r .issue none 0#2 [(g, l)] s = .fault m g (m.granState l) := by
  simp only [stageRun, hdue, ← hm, h, Bool.and_false, Bool.false_eq_true, if_false]

theorem stageRun_one_park (h : entAct (s.stageEntry r l) = .park) : stageRun t r .issue none 0#2 [(g, l)] s =
    if m.parkRoom l.home then .park m { r with grans := [(g, l)], order := 0#2 } l true else .full := by
  simp only [stageRun, hdue, ← hm, h, Bool.and_false, Bool.false_eq_true, if_false, if_true, reduceCtorEq, Bool.or_eq_true,
    decide_eq_true_eq, false_or]

end

theorem stageRun_due {s : State} {t g : Nat} {r : StageReq} {l : GLoc} {gs : List (Nat × GLoc)} (h : s.granDue l = true) :
    stageRun t r .issue none 0#2 ((g, l) :: gs) s = .wait := by
  rw [stageRun, h]
  rfl

/-! ### The states of granules -/

theorem State.meetGran_word {s : State} (t pa k : Nat) (h : s.flaws = []) : s.meetGran t (.word pa k) = s.dropLines t [pa / 64] := by
  rw [State.meetGran, s.meetLines_of_sound t _ 1 h]

theorem granLocs_lost {s : State} {D : Desc} {i : Nat} {is : List Nat} {l : GLoc}
    (hloc : granLoc D s.ctx.user (fun va => s.access s.cid s.ctx.user .stage va.toNat 8) i = .ok l) (hlost : s.granLost l = true) :
    granLocs s D (i :: is) = .error (.trap ⟨0x15, D.granVa i, 0#64, none⟩) := by
  rw [granLocs, hloc]
  dsimp only
  rw [if_pos hlost]
  rfl

/-- The nibble of a byte that a masked write gives a new value. -/
def nibbleMask (k : Nat) : Byte := if k % 2 = 0 then 0x0F#8 else 0xF0#8

theorem getLsbD_nibbleMask {k i : Nat} (h : i < 4) : (nibbleMask k).getLsbD (4 * (k % 2) + i) = true := by
  unfold nibbleMask
  rcases Nat.mod_two_eq_zero_or_one k with e | e <;> rw [e] <;> interval_cases i <;> rfl

theorem nibble_write (b : Byte) {k v : Nat} (hv : v < 16) :
    ((b &&& ~~~nibbleMask k) ||| (BitVec.ofNat 8 (v * 16 ^ (k % 2)) &&& nibbleMask k)).toNat / 16 ^ (k % 2) % 16 = v := by
  have h16 : 16 ^ (k % 2) = 2 ^ (4 * (k % 2)) := by rw [Nat.pow_mul]
  have hk : k % 2 < 2 := Nat.mod_lt _ (by decide)
  refine Nat.eq_of_testBit_eq fun i => ?_
  rw [h16, show (16 : Nat) = 2 ^ 4 from rfl, Nat.testBit_mod_two_pow, Nat.testBit_div_two_pow, BitVec.testBit_toNat]
  by_cases hi : i < 4
  · have hbit := getLsbD_nibbleMask (k := k) hi
    rw [Nat.add_comm] at hbit
    simp only [hi, decide_true, Bool.true_and, BitVec.getLsbD_or, BitVec.getLsbD_and, BitVec.getLsbD_not, hbit, Bool.not_true,
      Bool.and_false, Bool.false_or, Bool.and_true, BitVec.getLsbD_ofNat, Nat.testBit_mul_two_pow]
    simp [show i + 4 * (k % 2) < 8 by omega]
  · rw [decide_eq_false hi, Bool.false_and, Nat.testBit_lt_two_pow (hv.trans_le (Nat.pow_le_pow_right (n := 2) (by decide) (by omega : 4 ≤ i)))]

theorem State.granState_setGran_word {s : State} (t pa k : Nat) {v : Nat} (hwf : s.mem.wf = true) (hv : v < 16) :
    (s.setGran t (.word pa k) v).granState (.word pa k) = v := by
  have hbyte : (s.setGran t (.word pa k) v).mem = wr8 s.mem (pa + k / 2)
      ((rd8 s.mem (pa + k / 2) &&& ~~~nibbleMask k) ||| (BitVec.ofNat 8 (v * 16 ^ (k % 2)) &&& nibbleMask k)) := rfl
  have hrd (m : Memory) (a : Nat) : rdN m a 1 = (rd8 m a).toNat := by simp [rdN, rdBytes, leNat]
  rw [State.granState, hrd, hbyte, rd8_wr8_self _ _ hwf]
  exact nibble_write _ hv

theorem State.granState_setGran_ctl (s : State) (t u n : Nat) {v : Nat} (hv : v < 16) :
    (s.setGran t (.ctl u n) v).granState (.ctl u n) = v := by
  rw [State.setGran, State.granState, State.tile_setTile_self, mget_mset_self]
  exact Nat.mod_eq_of_lt hv

end Sys2Proof.Machine

namespace Sys2Proof.Proofs

open Sys2Proof Sys2Proof.Machine Sys2Proof.Claims

/-- Settles O41: `stageRun` of one granule by the action of its entry, and the granule's state read back. -/
theorem stageStep : Obligations.StageStep := by
  unfold Obligations.StageStep
  refine ⟨?step, ?due, ?home, ?lost, ?word, ?ctl, by decide⟩
  case step =>
    rintro s m t r g l e rfl hdue hm
    refine ⟨stageRun_one_ok hdue hm, stageRun_one_noData hdue hm, stageRun_one_fault hdue hm, fun h hroom => ?_, fun h hroom => ?_⟩
    · rw [stageRun_one_park hdue hm h, if_pos hroom]
    · rw [stageRun_one_park hdue hm h, hroom, if_neg Bool.false_ne_true]
  case due => exact fun s t r g l gs h => stageRun_due h
  case home => exact fun s t pa k h => State.meetGran_word t pa k h
  case lost => exact fun s D i is l hloc hlost => granLocs_lost hloc hlost
  case word => exact fun s t pa k v hwf _ hv => State.granState_setGran_word t pa k hwf hv
  case ctl => exact fun s t u n v hv => s.granState_setGran_ctl t u n hv

end Sys2Proof.Proofs
end

section
/-! Parked stage steps (10 R259, R260): the retry by the outcome of the step, what its completion and its fault deliver, and the conversion
of a long-parked context into a record. -/

namespace Sys2Proof.Machine

/-! ### The retry -/

section

variable {s x : State} {q : Parked} (hq : s.parked[s.sel.k]? = some q) (hdue : s.retryDue s.sel.k q = true)
  (hready : s.whoReady q.who = true) (hpoison : s.stepPoison q.req = none) (hinq : q.inq = true)
  (hx : x = { s with parked := s.parked.eraseIdx s.sel.k })

/-- In the queue, its entry no longer PARK and the first of its granule: the step is due. -/
theorem State.retryDue_first {i : Nat} (hinq : q.inq = true) (hgo : entAct (s.stageEntry q.req q.loc) ≠ .park)
    (hfirst : ∀ p ∈ s.parked.take i, p.loc = q.loc → p.inq = true → entAct (s.stageEntry p.req p.loc) = .park) :
    s.retryDue i q = true := by
  have hnone : ((s.parked.take i).any fun p => p.loc == q.loc && (p.inq && entAct (s.stageEntry p.req p.loc) != .park)) = false := by
    rw [List.any_eq_false]
    intro p hp h
    simp only [Bool.and_eq_true, beq_iff_eq, bne_iff_ne] at h
    exact h.2.2 (hfirst p hp h.1 h.2.1)
  unfold State.retryDue
  dsimp only
  rw [hinq, hnone, bne_iff_ne.mpr hgo]
  rfl

include hq hdue hready hpoison hinq hx

theorem exec_parkedStepRetry_done {w : State} {v : Option Word} {o : BitVec 2}
    (hrun : stageRun q.tile q.req .queued none q.req.order q.req.grans x = .done w v o) :
    exec .parkedStepRetry s = .next (w.stageDone q v o) := by
  subst hx
  change Host.Outcome.next (s.retryParked s.sel.k) = _
  simp only [State.retryParked, hq, hdue, hready, hinq, hpoison, hrun, Bool.not_true, Bool.or_false, Bool.false_eq_true, if_false, if_true]

theorem exec_parkedStepRetry_fault {w : State} {g st : Nat}
    (hrun : stageRun q.tile q.req .queued none q.req.order q.req.grans x = .fault w g st) :
    exec .parkedStepRetry s = .next (w.stageFault q g st) := by
  subst hx
  change Host.Outcome.next (s.retryParked s.sel.k) = _
  simp only [State.retryParked, hq, hdue, hready, hinq, hpoison, hrun, Bool.not_true, Bool.or_false, Bool.false_eq_true, if_false, if_true]

theorem exec_parkedStepRetry_park {w : State} {r : StageReq} {l : GLoc} {inq : Bool}
    (hrun : stageRun q.tile q.req .queued none q.req.order q.req.grans x = .park w r l inq) :
    exec .parkedStepRetry s = .next { w with parked := w.parked ++ [⟨q.who, l, r, inq⟩] } := by
  subst hx
  change Host.Outcome.next (s.retryParked s.sel.k) = _
  simp only [State.retryParked, hq, hdue, hready, hinq, hpoison, hrun, Bool.not_true, Bool.true_or, Bool.or_false, Bool.false_eq_true,
    if_false, if_true]

end

/-! ### What a completed step delivers -/

/-- The registers of a context with the value that its step delivers, or none. -/
def Ctx.deliver (dest : Nat) (v : Option Word) (x : Ctx) : Ctx :=
  match v with
  | some w => { x with regs := vset x.regs dest w }
  | none => x

theorem State.ctx_settle_addPc (s : State) (n : Nat) (h : s.sid ≤ 10) : (s.settle.addPc n).ctx = s.ctx.over (nextPc s n) := by
  rw [s.settle_addPc n h, s.ctx_setCtx _ h]

/-- The context of a completed step, behind its instruction and with its value. -/
theorem State.ctxAt_stageDone (s : State) {c : BitVec 16} {n : BitVec 4} (l : GLoc) (r : StageReq) (iq : Bool) (v : Option Word)
    (hn : n.toNat ≤ 10) : (s.stageDone ⟨.ctx c n, l, r, iq⟩ v 0#2).ctxAt c.toNat n.toNat =
      ((s.ctxAt c.toNat n.toNat).deliver r.dest v).over ((s.ctxAt c.toNat n.toNat).pc + BitVec.ofNat 64 (2 * r.ilen)) := by
  cases v with
  | none => exact State.ctx_settle_addPc { s with sel := ⟨c, n, 0⟩ } r.ilen hn
  | some w =>
    have hws := State.ctx_setCtx { s with sel := ⟨c, n, 0⟩ } (Ctx.deliver r.dest (some w) (s.ctxAt c.toNat n.toNat)) hn
    have hctx := State.ctx_settle_addPc (State.ws { s with sel := ⟨c, n, 0⟩ } r.dest w) r.ilen hn
    rw [nextPc, show (State.ws { s with sel := ⟨c, n, 0⟩ } r.dest w).ctx = _ from hws] at hctx
    exact hctx

theorem State.stageDone_ctx_mem (s : State) (c : BitVec 16) (n : BitVec 4) (l : GLoc) (r : StageReq) (iq : Bool) (v : Option Word) :
    (s.stageDone ⟨.ctx c n, l, r, iq⟩ v 0#2).mem = s.mem := by
  cases v <;> rfl

/-! ### What reaches a record's frame -/

theorem State.setF64_tiles (s : State) (t key off : Nat) (v : Word) : (s.setF64 t key off v).tiles = s.tiles := rfl
theorem State.ctxAt_setF64 (s : State) (t key off : Nat) (v : Word) (c k : Nat) : (s.setF64 t key off v).ctxAt c k = s.ctxAt c k :=
  s.ctxAt_perform t _ c k
theorem State.ctxAt_setF (s : State) (t key off n v c k : Nat) : (s.setF t key off n v).ctxAt c k = s.ctxAt c k := s.ctxAt_perform t _ c k

/-- A frame that is ready again: its state is written, its record stands last in the tile's queue, and no context changes. -/
theorem State.requeue_spec {s u t w : State} {tile key scope ilen k : Nat} {f : Word} (ht : t = u.requeue tile f key scope ilen k)
    (hw : w = u.setF tile key 8 1 1) (htile : u.tiles = s.tiles) (hctx : ∀ c n, u.ctxAt c n = s.ctxAt c n) :
    t.mem = w.mem ∧ (∀ c n, t.ctxAt c n = s.ctxAt c n) ∧ ∃ e, (t.tile tile).rq = (s.tile tile).rq ++ [e] ∧ e.frame = f ∧
      e.own = some k ∧ e.ilen = ilen ∧ e.scope = scope := by
  subst ht hw
  have hold : (u.setF tile key fSTATE 1 1).tile tile = s.tile tile := congrArg (fun m => mget m tile _) htile
  have hrq : ((u.requeue tile f key scope ilen k).tile tile).rq = (s.tile tile).rq ++
      [{ frameEntry (u.setF tile key 8 1 1).mem (BitVec.ofNat 64 key) (some k) scope none with frame := f, ilen := ilen }] := by
    rw [State.requeue, State.tile_setTile_self, hold]
    rfl
  exact ⟨rfl, fun c n => (u.ctxAt_setF tile key 8 1 1 c n).trans (hctx c n), _, hrq, rfl, rfl, rfl, rfl⟩

theorem State.stageDone_record {s : State} {tile : BitVec 12} {f pc : Word} {place key : Nat} {l : GLoc} {r : StageReq} {iq : Bool}
    (v : Option Word) (o : BitVec 2) (hkey : s.frameKey tile.toNat f = some key) : s.stageDone ⟨.record tile f pc place, l, r, iq⟩ v o =
      (match v with | some x => s.setF64 tile.toNat key (0x50 + 8 * r.dest) x | none => s).requeue tile.toNat f key
        (max 1 (if o.getLsbD 0 then r.scope else 0)) r.ilen place := by
  simp only [State.stageDone, hkey]
  rfl

theorem State.stageFault_record {s : State} {tile : BitVec 12} {f pc : Word} {place key : Nat} {l : GLoc} {r : StageReq} {iq : Bool}
    (g st : Nat) (hkey : s.frameKey tile.toNat f = some key) : s.stageFault ⟨.record tile f pc place, l, r, iq⟩ g st =
      (((s.setF64 tile.toNat key 0x40 (r.pc &&& 0x01FFFFFFFFFFFFFE#64 ||| 6#64 <<< 61)).setF64 tile.toNat key 0x20 (stageErr r g st).addr).setF64
        tile.toNat key 0x28 (stageErr r g st).info).requeue tile.toNat f key 1 r.ilen place := by
  simp only [State.stageFault, hkey]
  rfl

/-! ### The long-parked context -/

theorem exec_longParkConversion {s x : State} {q : Parked} {key : Nat} {who : Who} (hwait : s.ctx.wait = .stage) (hmask : s.ctx.cmask ≠ 0#16)
    (hpol : s.ctx.bpol = 0#2 ∨ s.ctx.bpol = 1#2) (hdepth : s.ctx.pdepth = 0) (huser : s.ctx.user = true) (hpreq : s.ctx.preq = none)
    (hleave : s.canLeave = true) (hq : s.parked.find? (fun p => p.inq && p.who == .ctx s.sel.cell s.sel.slot) = some q)
    (hkey : s.frameKey s.tid s.ctx.ident = some key)
    (hx : x = s.saveRecord s.cid s.sid key (q.req.pc + BitVec.ofNat 64 (2 * q.req.ilen))
      (if q.req.op = .lds then s.ctx.cmask ||| BitVec.ofNat 16 (2 ^ q.req.dest) else s.ctx.cmask) 5#3)
    (hwho : who = .record (BitVec.ofNat 12 s.tid) s.ctx.ident (q.req.pc + BitVec.ofNat 64 (2 * q.req.ilen)) (placeOf s.cid s.sid)) :
    exec .longParkConversion s = .next (({ x with parked := x.parked.map fun p => if p.who = .ctx s.sel.cell s.sel.slot
      then { p with who := who } else p } : State).freeSlot s.cid s.sid) := by
  have hstay : (s.ctx.wait != .stage || s.ctx.cmask == 0#16 || decide (2#2 ≤ s.ctx.bpol) || decide (0 < s.ctx.pdepth) || !s.ctx.user ||
      s.ctx.preq.isSome || !s.canLeave) = false := by
    rw [hwait, beq_eq_false_iff_ne.mpr hmask, hdepth, huser, hpreq, hleave]
    rcases hpol with e | e <;> rw [e] <;> rfl
  have hsel : x.sel = s.sel := by rw [hx, State.saveRecord_sel]
  have hcid : x.cid = s.cid := congrArg (fun k : Sel => k.cell.toNat) hsel
  have hsid : x.sid = s.sid := congrArg (fun k : Sel => k.slot.toNat) hsel
  have htid : x.tid = s.tid := congrArg (· / 16) hcid
  change execLongParkConversion s = _
  simp only [execLongParkConversion, hstay, hq, hkey, ← hx, hwho, Bool.false_eq_true, if_false]
  rw [← hcid, ← hsid, ← htid]
  rfl

end Sys2Proof.Machine

namespace Sys2Proof.Proofs

open Sys2Proof Sys2Proof.Machine Sys2Proof.Claims

/-- Settles O51: the retry by the outcome of `stageRun`, its delivery to a context and to a record, and the conversion to a record. -/
theorem parkResults : Obligations.ParkResults := by
  unfold Obligations.ParkResults
  refine ⟨?retry, ?context, ?record, ?fault, ?long⟩
  case retry =>
    intro s x q hq hgo hinq hfirst hready hpoison hx
    have hdue := State.retryDue_first hinq hgo hfirst
    exact ⟨fun w v o => exec_parkedStepRetry_done hq hdue hready hpoison hinq hx,
      fun w g st => exec_parkedStepRetry_fault hq hdue hready hpoison hinq hx,
      fun w r l inq => exec_parkedStepRetry_park hq hdue hready hpoison hinq hx⟩
  case context =>
    rintro s t c n l r iq v hn rfl
    rw [s.ctxAt_stageDone l r iq v hn]
    refine ⟨rfl, rfl, ?_, ?_, s.stageDone_ctx_mem c n l r iq v⟩
    · rintro w rfl hdest
      exact vget_vset_self _ _ _ _ hdest
    · intro k hk
      cases v with
      | none => rfl
      | some w => exact vget_vset_ne _ _ _ hk
  case record =>
    intro s t w tile f pc place l r iq v o key hkey ht hw
    rw [s.stageDone_record v o hkey] at ht
    refine State.requeue_spec ht hw ?_ fun c n => ?_
    · cases v <;> rfl
    · cases v with
      | none => rfl
      | some x => exact s.ctxAt_setF _ _ _ _ _ c n
  case fault =>
    intro s t w tile f pc place l r iq g st key hkey ht hw
    rw [s.stageFault_record g st hkey] at ht
    have hspec := State.requeue_spec (s := s) ht hw (by simp only [State.setF64_tiles]) fun c n => by simp only [State.ctxAt_setF64]
    obtain ⟨hmem, hctx, e, hrq, hframe, hown, hilen, _⟩ := hspec
    exact ⟨hmem, hctx, e, hrq, hframe, hown, hilen⟩
  case long =>
    intro s x q key who hwait hmask hpol hdepth huser hpreq hleave hq hkey hx hwho
    exact exec_longParkConversion hwait hmask hpol hdepth huser hpreq hleave hq hkey hx hwho

end Sys2Proof.Proofs
end

section
/-! Preemption, stops and invalidation (14 R354 to R359, 10 R250): the kernel's operations complete or wait, and what they leave. -/

namespace Sys2Proof.Machine

/-! ### Operations of the kernel -/

section

variable {i : Instr} {body : State → Res} {s : State} (hexec : exec i s = issue i (kernelOp body) s)
  (h : s.issues i .plain 1 0 = true) (huser : s.ctx.user = false) (hregs : readRegions i = [])

include hexec h huser hregs

theorem exec_kernelOp_ok {t : State} (hbody : body (s.charged 1 0) = .ok t) : exec i s = .next (t.done i) :=
  hexec.trans (issue_ok h (.inr huser) rfl rfl rfl hregs hbody)

/-- An operation that has asked waits in the state that it has made. -/
theorem exec_kernelOp_await {x : State} (hbody : body (s.charged 1 0) = await x) :
    exec i s = .next (x.setCtx (x.ctx.waitAs 1 0 .asked)) :=
  hexec.trans (issue_left h (.inr huser) rfl rfl rfl hregs hbody)

end

theorem asked_eq_true {s : State} (h : s.ctx.wait = .asked) : asked s = true := beq_iff_eq.mpr h
theorem asked_eq_false {s : State} (h : s.ctx.wait ≠ .asked) : asked s = false := beq_eq_false_iff_ne.mpr h

/-! ### PMREQ.ctx and the preemption (R354) -/

/-- The meaning of PMREQ.ctx of slot `n` of cell `c`. -/
def pmreqCtxBody (c n : Nat) (disp : BitVec 2) (u : State) : Res :=
  if asked u then (if (u.ctxAt c n).going then await u else .ok u)
  else if !(u.ctxAt c n).live then .ok u
  else if (u.ctxAt c n).preq.isSome then .poll
  else if (u.ctxAt c n).going then await u
  else await (u.preempt c n disp)

section

variable {c n : Nat} {disp : BitVec 2} {u : State}

theorem pmreqCtxBody_left (hasked : u.ctx.wait = .asked) (h : (u.ctxAt c n).going = false) : pmreqCtxBody c n disp u = .ok u := by
  rw [pmreqCtxBody, asked_eq_true hasked, h]; rfl

theorem pmreqCtxBody_waits (hasked : u.ctx.wait = .asked) (h : (u.ctxAt c n).going = true) : pmreqCtxBody c n disp u = await u := by
  rw [pmreqCtxBody, asked_eq_true hasked, h]; rfl

theorem pmreqCtxBody_empty (hasked : u.ctx.wait ≠ .asked) (h : (u.ctxAt c n).live = false) : pmreqCtxBody c n disp u = .ok u := by
  rw [pmreqCtxBody, asked_eq_false hasked, h]; rfl

/-- A live context that is not leaving has no request. -/
theorem Ctx.preq_of_going {x : Ctx} (hlive : x.live = true) (h : x.going = false) : x.preq.isSome = false := by
  rw [Ctx.going, hlive, Bool.true_and, Bool.or_eq_false_iff] at h
  exact h.1

theorem pmreqCtxBody_asks (hasked : u.ctx.wait ≠ .asked) (hlive : (u.ctxAt c n).live = true) (h : (u.ctxAt c n).going = false) :
    pmreqCtxBody c n disp u = await (u.preempt c n disp) := by
  rw [pmreqCtxBody, asked_eq_false hasked, hlive, Ctx.preq_of_going hlive h, h]; rfl

end

theorem exec_pmreqCtx_eq {p : Pfx} {a : BitVec 4} {s : State} {w : Word} {c n : Nat} (hsid : s.sid ≤ 10) (hw : w = s.rs (p.an a))
    (hc : c = (w.extractLsb' 0 16).toNat) (hn : n = (w.extractLsb' 16 4).toNat) (hcell : c < numCells) (hslot : n ≤ 10) :
    ∃ body, exec (.pmreqCtx p a) s = issue (.pmreqCtx p a) (kernelOp body) s ∧
      body (s.charged 1 0) = pmreqCtxBody c n (w.extractLsb' 20 2) (s.charged 1 0) := by
  refine ⟨_, rfl, ?_⟩
  dsimp only
  rw [opA_charged p a 1 0 hsid, ← hw, ← hc, ← hn, if_neg (by omega)]
  rfl

/-- A context with its request, its budget zeroed, its wait given up where it may be. -/
def Ctx.asking (x : Ctx) (disp : BitVec 2) : Ctx :=
  let y := if x.user && x.wait.abandoned then x.abandon else x
  { y with preq := some ⟨y.ibud, disp⟩, ibud := ⟨false, 0#32⟩ }

theorem Ctx.asking_spec (x : Ctx) (disp : BitVec 2) : (x.asking disp).preq = some ⟨x.ibud, disp⟩ ∧ (x.asking disp).ibud = ⟨false, 0#32⟩ ∧
    (x.asking disp).regs = x.regs ∧ (x.asking disp).pc = x.pc ∧ (x.asking disp).double = x.double := by
  unfold Ctx.asking
  dsimp only
  split <;> exact ⟨rfl, rfl, rfl, rfl, rfl⟩

/-- Of a context without a double trap: the request is made, and a user's parked step may be withdrawn. -/
theorem State.preempt_eq {s : State} {c n : Nat} (disp : BitVec 2) (hdouble : (s.ctxAt c n).double = false) :
    ∃ ps, s.preempt c n disp = State.setCtxAt { s with parked := ps } c n ((s.ctxAt c n).asking disp) := by
  obtain ⟨_, _, _, _, hkept⟩ := (s.ctxAt c n).asking_spec disp
  by_cases hstage : (s.ctxAt c n).wait = .stage ∧ (s.ctxAt c n).user = true
  · refine ⟨s.parked.filter fun q => q.who != .ctx (BitVec.ofNat 16 c) (BitVec.ofNat 4 n), ?_⟩
    unfold State.preempt
    dsimp only
    rw [if_pos hstage]
    exact if_neg (by rw [← Bool.not_eq_false, not_not]; exact hkept.trans hdouble)
  · refine ⟨s.parked, ?_⟩
    unfold State.preempt
    dsimp only
    rw [if_neg hstage]
    exact if_neg (by rw [← Bool.not_eq_false, not_not]; exact hkept.trans hdouble)

theorem State.preempt_spec {s : State} {c n : Nat} (disp : BitVec 2) (hn : n ≤ 10) (hdouble : (s.ctxAt c n).double = false) :
    ((s.preempt c n disp).ctxAt c n).preq = some ⟨(s.ctxAt c n).ibud, disp⟩ ∧ ((s.preempt c n disp).ctxAt c n).ibud = ⟨false, 0#32⟩ ∧
      ((s.preempt c n disp).ctxAt c n).regs = (s.ctxAt c n).regs ∧ ((s.preempt c n disp).ctxAt c n).pc = (s.ctxAt c n).pc ∧
      (s.preempt c n disp).mem = s.mem ∧ (s.preempt c n disp).tiles = s.tiles := by
  obtain ⟨ps, e⟩ := State.preempt_eq disp hdouble
  obtain ⟨hpreq, hibud, hregs, hpc, _⟩ := (s.ctxAt c n).asking_spec disp
  rw [e, State.ctxAt_setCtxAt_self _ _ _ hn]
  exact ⟨hpreq, hibud, hregs, hpc, rfl, rfl⟩

/-! ### Stops and restarts of tiles (R355, R357) -/

theorem State.stopped_of_run {s : State} {t : Nat} (h : (s.tile t).run = .stopped) : s.stopped t = true := beq_iff_eq.mpr h
theorem State.not_stopped_of_run {s : State} {t : Nat} (h : (s.tile t).run ≠ .stopped) : s.stopped t = false :=
  beq_eq_false_iff_ne.mpr h

theorem State.stopTile_running {s : State} {t : Nat} (h : (s.tile t).run = .running) :
    s.stopTile t = s.setTile t { s.tile t with run := .stopping } := if_pos h
theorem State.stopTile_other {s : State} {t : Nat} (h : (s.tile t).run ≠ .running) : s.stopTile t = s := if_neg h

/-- The meaning of PMREQ.stop of tile `t`. -/
def pmreqStopBody (t : Nat) (u : State) : Res :=
  if u.stopped t then .ok (u.acquire 4)
  else if asked u then (if (u.tile t).run = .stopping then await u else .ok (u.acquire 4))
  else await (u.stopTile t)

section

variable {t : Nat} {u : State}

theorem pmreqStopBody_stopped (h : (u.tile t).run = .stopped) : pmreqStopBody t u = .ok (u.acquire 4) := by
  rw [pmreqStopBody, State.stopped_of_run h]; rfl

theorem pmreqStopBody_running (h : (u.tile t).run = .running) (hasked : u.ctx.wait ≠ .asked) :
    pmreqStopBody t u = await (u.setTile t { u.tile t with run := .stopping }) := by
  rw [pmreqStopBody, State.not_stopped_of_run (by rw [h]; exact nofun), asked_eq_false hasked, State.stopTile_running h]; rfl

theorem pmreqStopBody_stopping (h : (u.tile t).run = .stopping) : pmreqStopBody t u = await u := by
  rw [pmreqStopBody, State.not_stopped_of_run (by rw [h]; exact nofun), State.stopTile_other (by rw [h]; exact nofun), if_pos h]
  cases asked u <;> rfl

end

theorem exec_pmreqStop_eq {p : Pfx} {a : BitVec 4} {s : State} {t : Nat} (hsid : s.sid ≤ 10)
    (ht : t = ((s.rs (p.an a)).extractLsb' 0 12).toNat) (htile : t < numTiles) :
    ∃ body, exec (.pmreqStop p a) s = issue (.pmreqStop p a) (kernelOp body) s ∧
      body (s.charged 1 0) = pmreqStopBody t (s.charged 1 0) := by
  refine ⟨_, rfl, ?_⟩
  dsimp only
  rw [opA_charged p a 1 0 hsid, tileArg, ← ht, if_neg (by omega)]
  rfl

/-! ### A tile that runs again -/

theorem State.setTag_tile (s : State) (c k : Nat) (x : Tag) (t : Nat) : (s.setTag c k x).tile t = s.tile t := rfl

theorem State.rejudge_tile (s : State) (c k t : Nat) : (s.rejudge c k).tile t = s.tile t := by
  unfold State.rejudge
  dsimp only
  repeat' split
  all_goals rfl

theorem State.acquireAt_tile (s : State) (c n sc t : Nat) : (s.acquireAt c n sc).tile t = s.tile t :=
  congrArg (fun m => mget m t _) (s.acquireAt_tiles c n sc)

theorem State.meetWait_run (s : State) (t k c n : Nat) : ((s.meetWait t k c n).tile t).run = (s.tile t).run := by
  unfold State.meetWait
  dsimp only
  split
  · split
    · rw [State.tile_setTile_self]; rfl
    · rfl
  · rfl

theorem State.rejudgeTile_tile (s : State) (t : Nat) : (s.rejudgeTile t).tile t = s.tile t :=
  List.foldlRecOn (motive := fun u : State => u.tile t = s.tile t) _ _ rfl fun u hu _ _ => (u.rejudge_tile _ _ t).trans hu

theorem State.meetTile_run (s : State) (t : Nat) : ((s.meetTile t).tile t).run = (s.tile t).run := by
  refine List.foldlRecOn (motive := fun u : State => (u.tile t).run = (s.tile t).run) _ _ rfl fun u hu q _ => ?_
  split
  · exact (u.meetWait_run t _ _ _).trans hu
  · exact hu

/-- Every context of the tile acquires as it goes on (R357). -/
theorem State.goTile_acquires (s : State) (t : Nat) : ((List.range 16).foldl (fun s i => (List.range 11).foldl (fun s n =>
      if (s.ctxAt (16 * t + i) n).live then s.acquireAt (16 * t + i) n 4 else s) s) s).tile t = s.tile t := by
  refine List.foldlRecOn (motive := fun u : State => u.tile t = s.tile t) _ _ rfl fun u hu i _ =>
    List.foldlRecOn (motive := fun u : State => u.tile t = s.tile t) _ _ hu fun w hw n _ => ?_
  split
  · exact (w.acquireAt_tile _ _ _ t).trans hw
  · exact hw

theorem State.replay_of_nothing {s : State} {t : Nat} (h : s.loggedFor t (s.asidOf t).toNat = []) : s.replay t = s := by
  rw [State.replay, h]

theorem State.flushIngress_of_none {s : State} {t : Nat} (h : (s.tile t).ingress = none) : s.flushIngress t = s := by
  rw [State.flushIngress, h]

/-- A tile that has nothing to replay and nothing at its ingress runs again, and memory stays. -/
theorem State.goTile_spec {s : State} {t : Nat} (hlog : s.loggedFor t (s.asidOf t).toNat = []) (hingress : (s.tile t).ingress = none) :
    ((s.goTile t).tile t).run = .running ∧ (s.goTile t).mem = s.mem := by
  unfold State.goTile
  dsimp only
  split
  · rename_i h
    exact ⟨h, rfl⟩
  · have htile := s.tile_setTile_self t { s.tile t with run := .running }
    rw [State.replay_of_nothing (by rw [State.asidOf, htile]; exact hlog), State.flushIngress_of_none (by rw [htile]; exact hingress)]
    refine ⟨?_, ?_⟩
    · rw [State.goTile_acquires, State.meetTile_run]
      split
      · rw [State.rejudgeTile_tile, htile]
      · rw [htile]
    · rw [foldl_mem _ fun u i => foldl_mem _ (fun w n => mem_ite (w.acquireAt_mem _ _ _) rfl) _ u, State.meetTile_mem]
      exact mem_ite (State.rejudgeTile_mem _ _) rfl

theorem exec_pmreqGo {p : Pfx} {a : BitVec 4} {s : State} {t : Nat} (h : s.issues (.pmreqGo p a) .plain 1 0 = true)
    (huser : s.ctx.user = false) (ht : t = ((s.rs (p.an a)).extractLsb' 0 12).toNat) (htile : t < numTiles) :
    exec (.pmreqGo p a) s = .next (((s.charged 1 0).goTile t).done (.pmreqGo p a)) := by
  refine exec_kernelOp_ok rfl h huser rfl ?_
  dsimp only
  rw [opA_charged p a 1 0 (State.issues_sid h), tileArg, ← ht, if_neg (by omega)]

theorem exec_pmreqFrame {p : Pfx} {a : BitVec 4} {s u x : State} {f : Word} {t key : Nat} (hu : u = s.charged 1 0)
    (h : s.issues (.pmreqFrame p a) .plain 1 0 = true) (huser : s.ctx.user = false) (hf : f = s.rs (p.an a))
    (ht : t = ((s.rs p.en).extractLsb' 0 12).toNat) (htile : t < numTiles) (haccepts : (u.tile t).accepts = true)
    (hkey : u.frameKey t f = some key) (hx : x = (u.meetFrame t f 64).setF t key 8 1 1) :
    exec (.pmreqFrame p a) s =
      .next ((x.enqueueRq t { x.frameRq t f 1 none with kernel := true }).done (.pmreqFrame p a)) := by
  subst hu hx
  have hsid := State.issues_sid h
  refine exec_kernelOp_ok rfl h huser rfl ?_
  dsimp only
  rw [opA_charged p a 1 0 hsid, opE_charged p 1 0 hsid, tileArg, ← ht, ← hf, if_neg (by omega), haccepts, hkey]
  rfl

/-! ### GANGSTOP (R357, R358) -/

/-- The meaning of GANGSTOP.stop of the tiles `ts`, whose halt records are `bs`. -/
def gangstopBody (ts : List Nat) (bs : List WByte) (f : FFlags) (u : State) : Res :=
  if ts.all u.stopped then .ok (((u.write u.tid bs).raise f).acquire 4) else await (ts.foldl (fun s t => s.stopTile t) u)

theorem gangstopBody_stopped {ts : List Nat} {u : State} (bs : List WByte) (f : FFlags) (h : ∀ t ∈ ts, (u.tile t).run = .stopped) :
    gangstopBody ts bs f u = .ok (((u.write u.tid bs).raise f).acquire 4) :=
  if_pos (List.all_eq_true.mpr fun t ht => State.stopped_of_run (h t ht))

theorem gangstopBody_waits {ts : List Nat} {u : State} (bs : List WByte) (f : FFlags) (h : ∃ t ∈ ts, (u.tile t).run ≠ .stopped) :
    gangstopBody ts bs f u = await (ts.foldl (fun s t => s.stopTile t) u) := by
  obtain ⟨t, ht, hrun⟩ := h
  exact if_neg fun hall => hrun (beq_iff_eq.mp (List.all_eq_true.mp hall t ht))

theorem exec_gangstopStop_eq {p : Pfx} {a : BitVec 4} {s u : State} {ts : List Nat} {bs : List WByte} {f : FFlags} (hsid : s.sid ≤ 10)
    (hu : u = s.charged 1 0) (halign : (s.rs p.en).toNat % 256 = 0) (hts : ts = u.partition ((s.rs (p.an a)).extractLsb' 0 12))
    (hheld : u.ctx.accessHeld = false)
    (hlines : haltLines u (s.rs p.en) (ts.flatMap fun t => (List.range 16).map (16 * t + ·)) = .ok (bs, f)) (hmeets : u.pendMeets bs = false) :
    ∃ body, exec (.gangstopStop p a) s = issue (.gangstopStop p a) (kernelOp body) s ∧ body (s.charged 1 0) = gangstopBody ts bs f u := by
  subst hu
  refine ⟨_, rfl, ?_⟩
  dsimp only
  rw [opA_charged p a 1 0 hsid, opE_charged p 1 0 hsid, ← hts, if_neg (not_not_intro halign), hheld, if_neg Bool.false_ne_true, hlines]
  dsimp only
  rw [hmeets, if_neg Bool.false_ne_true]
  rfl

theorem exec_gangstopRestart {p : Pfx} {a : BitVec 4} {s : State} (h : s.issues (.gangstopRestart p a) .plain 1 0 = true)
    (huser : s.ctx.user = false) : exec (.gangstopRestart p a) s =
      .next ((((s.charged 1 0).partition ((s.rs (p.an a)).extractLsb' 0 12)).foldl (fun s t => s.goTile t) (s.charged 1 0)).done
        (.gangstopRestart p a)) := by
  refine exec_kernelOp_ok rfl h huser rfl ?_
  rw [opA_charged p a 1 0 (State.issues_sid h)]

/-! ### TLBINV (R359, 10 R250) -/

theorem exec_tlbinv {p : Pfx} {d a : BitVec 4} {s : State} (h : s.issues (.tlbinv p d a) .plain 1 0 = true) (huser : s.ctx.user = false) :
    exec (.tlbinv p d a) s = .next ((if (s.rs p.en).toNat = 0 then s.charged 1 0
      else (s.charged 1 0).invalidate ((s.rs (p.dn d)).extractLsb' 0 12) (s.rs (p.an a)).toNat
        (min ((s.rs (p.an a)).toNat + (s.rs p.en).toNat) (2 ^ 57))).done (.tlbinv p d a)) := by
  have hsid := State.issues_sid h
  refine exec_kernelOp_ok rfl h huser rfl ?_
  dsimp only
  rw [opA_charged p a 1 0 hsid, opE_charged p 1 0 hsid, opD_charged p d 1 0 hsid]
  split <;> rfl

/-- The cells and tiles without the translations that meet the range. -/
def State.dropTlb (s : State) (asid : BitVec 12) (lo hi : Nat) : State :=
  { s with
    cells := s.cells.map fun (k, x) => (k, x.setUtlb (x.utlb.filter (!·.meets asid lo hi)))
    tiles := s.tiles.map fun (k, x) => (k, { x with tlb := x.tlb.filter (!·.meets asid lo hi) }) }

theorem State.cell_dropTlb (s : State) (asid : BitVec 12) (lo hi c : Nat) :
    (s.dropTlb asid lo hi).cell c = (s.cell c).setUtlb ((s.cell c).utlb.filter (!·.meets asid lo hi)) := by
  have hget : mget? (s.dropTlb asid lo hi).cells c = (mget? s.cells c).map fun x => x.setUtlb (x.utlb.filter (!·.meets asid lo hi)) :=
    mget?_map (fun (_ : Nat) (x : Cell) => x.setUtlb (x.utlb.filter (!·.meets asid lo hi))) s.cells c
  rw [State.cell, mget, hget, State.cell, mget]
  cases mget? s.cells c with
  | none => rfl
  | some x => rfl

theorem performPushed_of_none {s : State} {j : Nat} (n : Nat) (h : s.myCell.stream j = none) : performPushed j n s = s := by
  cases n with
  | zero => rfl
  | succ n => rw [performPushed, h]

theorem State.asCtx_of_fixed {s : State} {c : BitVec 16} {n : BitVec 4} {f : State → State}
    (h : f { s with sel := ⟨c, n, 0⟩ } = { s with sel := ⟨c, n, 0⟩ }) : s.asCtx c n f = s := by
  rw [State.asCtx, h]

theorem State.flushPushed_of_none {s : State} (c : Nat) (h : ∀ k j, (s.cell k).stream j = none) : s.flushPushed c = s :=
  State.asCtx_of_fixed (List.foldl_fixed' (fun j => performPushed_of_none (s := { s with sel := ⟨BitVec.ofNat 16 c, 0#4, 0⟩ }) _ (h _ j)) _)

/-- Nothing waits in the cell for its translations: no access of a context and no unit pushed into a stream. -/
theorem State.flushCell_of_idle {s : State} (c : Nat) (hpend : ∀ n, (s.ctxAt c n).pend = []) (hstream : ∀ k j, (s.cell k).stream j = none) :
    s.flushCell c = s := by
  unfold State.flushCell
  rw [State.flushPushed_of_none c hstream]
  exact List.foldl_fixed' (fun n => by rw [hpend n]; rfl) _

theorem State.relocateParked_cell {s : State} (asid : BitVec 12) (c : Nat) (h : s.parked = []) : (s.relocateParked asid).cell c = s.cell c := by
  rw [State.relocateParked, h]
  rfl

/-- With nothing waiting on a translation, the cells of an invalidation are those of `dropTlb`. -/
theorem State.cell_invalidate {s : State} (asid : BitVec 12) (lo hi c : Nat) (hpend : ∀ k n, (s.ctxAt k n).pend = [])
    (hstream : ∀ k j, (s.cell k).stream j = none) (hparked : s.parked = []) :
    (s.invalidate asid lo hi).cell c = (s.cell c).setUtlb ((s.cell c).utlb.filter (!·.meets asid lo hi)) := by
  have hpend' : ∀ k n, ((s.dropTlb asid lo hi).ctxAt k n).pend = [] := fun k n => by
    rw [State.ctxAt, s.cell_dropTlb]
    exact hpend k n
  have hstream' : ∀ k j, ((s.dropTlb asid lo hi).cell k).stream j = none := fun k j => by
    rw [s.cell_dropTlb]
    exact hstream k j
  have hflush : ((s.dropTlb asid lo hi).cells.map (·.1)).foldl (fun s c => s.flushCell c) (s.dropTlb asid lo hi) = s.dropTlb asid lo hi :=
    List.foldl_fixed' (fun k => State.flushCell_of_idle k (hpend' k) hstream') _
  change (State.relocateParked (((s.dropTlb asid lo hi).cells.map (·.1)).foldl (fun s c => s.flushCell c) (s.dropTlb asid lo hi)) asid).cell c = _
  rw [hflush, State.relocateParked_cell (s := s.dropTlb asid lo hi) asid c hparked, s.cell_dropTlb]

end Sys2Proof.Machine

namespace Sys2Proof.Proofs

open Sys2Proof Sys2Proof.Machine Sys2Proof.Claims

/-- Settles O56: each operation of the kernel by the state of what it stops, and the translations that TLBINV leaves. -/
theorem stopResults : Obligations.StopResults := by
  unfold Obligations.StopResults
  refine ⟨?ctx, ?preempt, ?stop, ?go, ?frame, ?gangstop, ?restart, ?tlbinv, ?dropped⟩
  case ctx =>
    rintro p a s u w c n rfl h huser hw hc hn hcell hslot
    obtain ⟨body, hexec, hbody⟩ := exec_pmreqCtx_eq (State.issues_sid h) hw hc hn hcell hslot
    refine ⟨fun hasked hgone => ?_, fun hasked hgoing => ?_, fun hasked hempty => ?_, ?_⟩
    · exact exec_kernelOp_ok hexec h huser rfl (hbody.trans (pmreqCtxBody_left hasked hgone))
    · exact exec_kernelOp_await hexec h huser rfl (hbody.trans (pmreqCtxBody_waits hasked hgoing))
    · exact exec_kernelOp_ok hexec h huser rfl (hbody.trans (pmreqCtxBody_empty hasked hempty))
    · rintro x hasked hlive hgoing rfl
      exact exec_kernelOp_await hexec h huser rfl (hbody.trans (pmreqCtxBody_asks hasked hlive hgoing))
  case preempt => exact fun s c n disp hn hdouble => ⟨_, rfl, State.preempt_spec disp hn hdouble⟩
  case stop =>
    rintro p a s u x t rfl h huser ht htile
    obtain ⟨body, hexec, hbody⟩ := exec_pmreqStop_eq (State.issues_sid h) ht htile
    refine ⟨fun hrun => ?_, ?_, fun hrun => ?_⟩
    · exact exec_kernelOp_ok hexec h huser rfl (hbody.trans (pmreqStopBody_stopped hrun))
    · rintro hrun hasked rfl
      exact exec_kernelOp_await hexec h huser rfl (hbody.trans (pmreqStopBody_running hrun hasked))
    · exact exec_kernelOp_await hexec h huser rfl (hbody.trans (pmreqStopBody_stopping hrun))
  case go =>
    rintro p a s u t rfl h huser ht htile
    exact ⟨exec_pmreqGo h huser ht htile, State.goTile_spec⟩
  case frame =>
    intro p a s u x f t key hu h huser hf ht htile haccepts hkey hx
    exact exec_pmreqFrame hu h huser hf ht htile haccepts hkey hx
  case gangstop =>
    intro p a s u x ts bs f hu h huser halign hts hheld hlines hmeets
    obtain ⟨body, hexec, hbody⟩ := exec_gangstopStop_eq (State.issues_sid h) hu halign hts hheld hlines hmeets
    refine ⟨?_, fun hall => ?_⟩
    · rintro hsome rfl
      exact exec_kernelOp_await hexec h huser rfl (hbody.trans (gangstopBody_waits bs f hsome))
    · exact exec_kernelOp_ok hexec h huser rfl (hbody.trans (gangstopBody_stopped bs f hall))
  case restart =>
    rintro p a s u rfl h huser
    exact exec_gangstopRestart h huser
  case tlbinv =>
    rintro p d a s u lo len rfl h huser rfl rfl
    have hexec := exec_tlbinv h huser
    refine ⟨fun hzero => ?_, fun hsome => ?_⟩
    · rwa [if_pos hzero] at hexec
    · rwa [if_neg hsome] at hexec
  case dropped =>
    intro s asid lo hi c hpend hstream hparked
    rw [State.cell_invalidate asid lo hi c hpend hstream hparked]
    refine ⟨fun e he => ?_, fun hempty => if_pos hempty⟩
    obtain ⟨hmem, hmeets⟩ := List.mem_filter.mp he
    exact ⟨by rwa [Bool.not_eq_true'] at hmeets, hmem⟩

end Sys2Proof.Proofs
end
